-- ==== Sys2Proof/Word.lean ====
section
/-! DEFINITION. The word types of the module (spec/00_scope.md R3 to R5) and their plainest arithmetic. -/

namespace Sys2Proof

/-- One byte. -/
abbrev Byte := BitVec 8

/-- One 32-bit vector-register element, instruction word or literal. -/
abbrev W32 := BitVec 32

/-- One 64-bit scalar register, address or control register. -/
abbrev W64 := BitVec 64

/-- A set of the 32 lanes of a coach, bit `l` standing for lane `l` (R187). -/
abbrev Mask := BitVec 32

/-- A finite map from numbers: at most one entry for a key is read, the first one. -/
abbrev SMap (α : Type) := List (Nat × α)

/-- Registers or bytes of `w` bits held by number; an absent number reads zero. -/
abbrev RMap (w : Nat) := SMap (BitVec w)

/-- The lane numbers of a coach, in ascending order. -/
def laneNums : List Nat := List.range 32

/-- Bits `[hi : lo]` of a number, as R3 writes a bit range. -/
def bitsOf (x hi lo : Nat) : Nat := x / 2 ^ lo % 2 ^ (hi + 1 - lo)

/-- Bit `n` of a number. -/
def bitOf (x n : Nat) : Bool := x / 2 ^ n % 2 == 1

end Sys2Proof
end

