-- ==== Sys2Proof/Config.lean ====
section
/-! DEFINITION. What an implementation fixes, and the free values: functions without a body, of which no proof can know a value. -/

namespace Sys2Proof.Config

/-- A value the spec leaves open, named by the counter `freeCtr` of the state: the data of a host-window or peer-window
read, the destination of a load that failed (R32, R408). DESIGN CHOICE, safe: nothing constrains it (log entry 2). -/
opaque freeWord : Nat → BitVec 64

/-- Which of the results that R300 allows the special-function unit writes. Arguments: function code, operand pattern,
mode.ftz, mode.sat, mode.rnd. R300 makes each result a fixed function of these. -/
opaque sfuPick : Nat → BitVec 32 → Bool → Bool → Nat → Nat

/-- The SHA-384 hash of a list of bytes (R438, R439). -/
opaque sha384 : List Byte → BitVec 384

/-- Whether the RSA-3072 signature that an image carries verifies over a SHA-384 hash against the fused key (R438). -/
opaque rsaVerifies : BitVec 384 → List Byte → Bool

/-- Whether the SLH-DSA signature that an image carries verifies over a SHA-384 hash against the fused key (R438). -/
opaque slhVerifies : BitVec 384 → List Byte → Bool

/-- Whether an image is well formed (R437, err 4). -/
opaque imageWellFormed : List Byte → Bool

/-- The version of an image, compared with the rollback counter (R438). -/
opaque imageVersion : List Byte → Nat

/-- The rollback counter fused in d0 (R438). -/
opaque rollbackCounter : Nat

/-- The RSA-3072 signature over a transcript hash (R439). -/
opaque signRsa : BitVec 384 → BitVec 3072

/-- The bytes of the SLH-DSA signature over a transcript hash (R439). -/
opaque signSlh : BitVec 384 → Nat → Byte

/-- The hash of the boot ROM (R439). -/
opaque romMeasurement : BitVec 384

end Sys2Proof.Config
end

