-- ==== Sys2Proof/Syntax.lean ====
section
/-! DEFINITION. The instructions of the module: one constructor for each row of spec/opcode_table.json. A row of an instruction
word has the fields of its encoding (10 R238 to R246, raw, as the word holds them; a two-word instruction has its literal word
as it stands). A row of an event names the unit it happens at and what its surroundings bring about. -/

namespace Sys2Proof

/-- The error that an operation meets in the cells of the first sector it reads there (R68): the environment's choice. -/
inductive Ecc where
  /-- No error. -/
  | clean
  /-- An error in one byte, corrected (R70). -/
  | corrected
  /-- A detected error that cannot be corrected (R71). -/
  | uncorrectable
  /-- An error in three or more bytes that is corrected to a wrong value. -/
  | wrong
  /-- An error in three or more bytes that passes undetected. -/
  | missed
  deriving DecidableEq, Repr

/-- Who makes a control-register access (R6, R26, R433): a PCI Express function of the host, or a carriage at a level. -/
inductive Origin where
  /-- PCI Express function `n`: 0 the physical one, 1 to 16 virtual. -/
  | host (n : Nat)
  /-- A carriage or an outrider, through the control window. -/
  | carriage
  deriving DecidableEq, Repr

/-- A port of a chassis: its two ring ports (R159), or its peer port (R180). -/
inductive Port where
  | east
  | west
  | peer
  deriving DecidableEq, Repr

/-- A coach by its chassis and its handle there (R411). -/
structure CoachRef where
  ch : Nat
  handle : Nat
  deriving DecidableEq, Repr

/-- A carriage slot of a coach (R187). -/
structure SlotRef where
  ch : Nat
  handle : Nat
  slot : Nat
  deriving DecidableEq, Repr

/-- One access of an outstanding operation of a coach or of its outrider: the operation by its number, the access by its place. -/
structure OpRef where
  ch : Nat
  handle : Nat
  op : Nat
  piece : Nat
  deriving DecidableEq, Repr

/-- The key of a coach in the state. -/
def CoachRef.key (r : CoachRef) : Nat := 4096 * r.ch + r.handle

/-- The key of the coach of a slot. -/
def SlotRef.key (r : SlotRef) : Nat := 4096 * r.ch + r.handle

/-- The key of the coach of an operation. -/
def OpRef.key (r : OpRef) : Nat := 4096 * r.ch + r.handle

/-- The coach of a slot. -/
def SlotRef.coach (r : SlotRef) : CoachRef := { ch := r.ch, handle := r.handle }

/-- The coach of an operation. -/
def OpRef.coach (r : OpRef) : CoachRef := { ch := r.ch, handle := r.handle }

/-- The instructions and events of the module. -/
inductive Instr where
  /-- NOP (R258): Changes no state. -/
  | nop
  /-- MODE (R248): Writes the mode fields that the mask selects in the mode register of the issuing level. -/
  | mode (m : BitVec 6) (v : BitVec 16)
  /-- REP (R252): Issues the next word n times, stepping the selected register fields by the stride. -/
  | rep (c : BitVec 6) (d : BitVec 1) (a : BitVec 1) (b : BitVec 1) (s : BitVec 2)
  /-- WAIT (R255): Blocks the carriage until the ld, st, cp and tl counters are at or below the given values. -/
  | wait (l : BitVec 6) (s : BitVec 6) (c : BitVec 6) (t : BitVec 6)
  /-- WAITC (R257): Blocks the carriage until every sealed cart up to number s[a] has completed. -/
  | waitc (a : BitVec 8)
  /-- WAITG (R328): Blocks the carriage until every command tag in the mask is free. -/
  | waitg (m : BitVec 8)
  /-- BRV (R274): Sends each lane to the target or pc + 4 by its predicate and divides the carriage. -/
  | brv (i : BitVec 1) (p : BitVec 3) (o : BitVec 20)
  /-- BRU (R274): Moves the whole carriage by the predicate of its lowest lane, setting UBM on disagreement. -/
  | bru (i : BitVec 1) (p : BitVec 3) (o : BitVec 20)
  /-- BNZ (R275): Branches the whole carriage if s[d] is non-zero. -/
  | bnz (d : BitVec 8) (i : BitVec 16)
  /-- BZ (R275): Branches the whole carriage if s[d] is zero. -/
  | bz (d : BitVec 8) (i : BitVec 16)
  /-- JMP (R276): Jumps the carriage to a pc-relative target. -/
  | jmp (o : BitVec 24)
  /-- JAL (R276): Jumps to a pc-relative target and writes pc + 4 to s1. -/
  | jal (o : BitVec 24)
  /-- JR (R277): Jumps the whole carriage to the address in s[a]. -/
  | jr (a : BitVec 8)
  /-- JRV (R278): Sends each lane to s[b] plus its own offset and divides the carriage. -/
  | jrv (a : BitVec 8) (b : BitVec 8)
  /-- EXIT (R279): Waits for all outstanding work of the coach, raises pending errors, then ends the carriage's lanes. -/
  | exit
  /-- YIELD (R280): Makes the carriage not ready for 32 clocks and counts it as the most recent issuer. -/
  | yield
  /-- SLEEP (R281): Blocks the carriage until the chassis clock reaches issue clk + 16n. -/
  | sleep (n : BitVec 16)
  /-- BAR (R372): Adds the carriage's lanes to the arrival set of train barrier n and blocks it. -/
  | bar (n : BitVec 4)
  /-- SPAWN (R373): Deposits one coach-yard record per active lane. -/
  | spawn (d : BitVec 8) (a : BitVec 8)
  /-- SYSCALL (R360): Traps every lane of the carriage with cause 0x01. -/
  | syscall (n : BitVec 16)
  /-- HVCALL (R360): Traps every lane of the carriage with cause 0x02, or 0x11 at U. -/
  | hvcall (n : BitVec 16)
  /-- TRET (R361): Resolves each trap lane of the frame by the resume mask and frees or un-nests the frame. -/
  | tret (a : BitVec 8) (b : BitVec 8)
  /-- BREAK (R360): Traps every lane of the carriage with cause 0x03. -/
  | breakOp (n : BitVec 16)
  /-- XRD (R362): Reads the numbered architected register into s[d]. -/
  | xrd (d : BitVec 8) (r : BitVec 10)
  /-- XWR (R362): Writes s[d] to the numbered architected register. -/
  | xwr (d : BitVec 8) (r : BitVec 10)
  /-- SCOPEW (R370): Writes a programmable scope-table entry on every chassis and blocks until done. -/
  | scopew (a : BitVec 8) (n : BitVec 5)
  /-- TLBINV (R371): Starts a module-wide translation invalidation of the given kind. -/
  | tlbinv (d : BitVec 8) (a : BitVec 8) (k : BitVec 3)
  /-- TIME (R282): Writes the chassis clk or the module ns count to s[d]. -/
  | time (d : BitVec 8) (c : BitVec 1)
  /-- WID (R283): Writes a work-id field, the whole work id or an extent to each lane. -/
  | wid (d : BitVec 8) (f : BitVec 4)
  /-- LID (R284): Writes the lane's placement value selected by the function code. -/
  | lid (d : BitVec 8) (f : BitVec 3)
  /-- SADD (R266): Scalar add. -/
  | sadd (d : BitVec 8) (a : BitVec 8) (b : BitVec 8)
  /-- SSUB (R266): Scalar subtract. -/
  | ssub (d : BitVec 8) (a : BitVec 8) (b : BitVec 8)
  /-- SMUL (R266): Scalar multiply, low 64 bits. -/
  | smul (d : BitVec 8) (a : BitVec 8) (b : BitVec 8)
  /-- SMULH (R266): Scalar signed multiply, high 64 bits. -/
  | smulh (d : BitVec 8) (a : BitVec 8) (b : BitVec 8)
  /-- SMULHU (R266): Scalar unsigned multiply, high 64 bits. -/
  | smulhu (d : BitVec 8) (a : BitVec 8) (b : BitVec 8)
  /-- SDIV (R266): Scalar signed divide. -/
  | sdiv (d : BitVec 8) (a : BitVec 8) (b : BitVec 8)
  /-- SDIVU (R266): Scalar unsigned divide. -/
  | sdivu (d : BitVec 8) (a : BitVec 8) (b : BitVec 8)
  /-- SREM (R266): Scalar signed remainder. -/
  | srem (d : BitVec 8) (a : BitVec 8) (b : BitVec 8)
  /-- SREMU (R266): Scalar unsigned remainder. -/
  | sremu (d : BitVec 8) (a : BitVec 8) (b : BitVec 8)
  /-- SAND (R266): Scalar bitwise and. -/
  | sand (d : BitVec 8) (a : BitVec 8) (b : BitVec 8)
  /-- SOR (R266): Scalar bitwise or. -/
  | sor (d : BitVec 8) (a : BitVec 8) (b : BitVec 8)
  /-- SXOR (R266): Scalar bitwise exclusive-or. -/
  | sxor (d : BitVec 8) (a : BitVec 8) (b : BitVec 8)
  /-- SSHL (R266): Scalar shift left by y[5:0]. -/
  | sshl (d : BitVec 8) (a : BitVec 8) (b : BitVec 8)
  /-- SSHR (R266): Scalar logical shift right. -/
  | sshr (d : BitVec 8) (a : BitVec 8) (b : BitVec 8)
  /-- SSRA (R266): Scalar arithmetic shift right. -/
  | ssra (d : BitVec 8) (a : BitVec 8) (b : BitVec 8)
  /-- SMIN (R266): Scalar signed minimum. -/
  | smin (d : BitVec 8) (a : BitVec 8) (b : BitVec 8)
  /-- SMAX (R266): Scalar signed maximum. -/
  | smax (d : BitVec 8) (a : BitVec 8) (b : BitVec 8)
  /-- SMINU (R266): Scalar unsigned minimum. -/
  | sminu (d : BitVec 8) (a : BitVec 8) (b : BitVec 8)
  /-- SMAXU (R266): Scalar unsigned maximum. -/
  | smaxu (d : BitVec 8) (a : BitVec 8) (b : BitVec 8)
  /-- SSLT (R266): Scalar signed set-if-less. -/
  | sslt (d : BitVec 8) (a : BitVec 8) (b : BitVec 8)
  /-- SSLTU (R266): Scalar unsigned set-if-less. -/
  | ssltu (d : BitVec 8) (a : BitVec 8) (b : BitVec 8)
  /-- SSEQ (R266): Scalar set-if-equal. -/
  | sseq (d : BitVec 8) (a : BitVec 8) (b : BitVec 8)
  /-- SADDI (R267): Adds a signed 8-bit immediate to s[a]. -/
  | saddi (d : BitVec 8) (a : BitVec 8) (i : BitVec 8)
  /-- SIMM (R268): Loads a sign-extended 16-bit immediate into s[d]. -/
  | simm (d : BitVec 8) (i : BitVec 16)
  /-- SLIT (R269): Loads the sign-extended 32-bit literal into s[d]. -/
  | slit (d : BitVec 8) (lit : W32)
  /-- SLITH (R269): Writes the literal as the high half above s[a][31:0]. -/
  | slith (d : BitVec 8) (a : BitVec 8) (lit : W32)
  /-- SMOV (R266): Scalar move. -/
  | smov (d : BitVec 8) (a : BitVec 8)
  /-- SCLZ (R266): Counts leading zeros of s[a]. -/
  | sclz (d : BitVec 8) (a : BitVec 8)
  /-- SPOPC (R266): Counts one bits of s[a]. -/
  | spopc (d : BitVec 8) (a : BitVec 8)
  /-- SBFX (R270): Extracts a bit field described by s[b]. -/
  | sbfx (d : BitVec 8) (a : BitVec 8) (b : BitVec 8)
  /-- SBFI (R270): Inserts a bit field of s[a] into s[d]. -/
  | sbfi (d : BitVec 8) (a : BitVec 8) (b : BitVec 8)
  /-- SSEL (R271): Selects s[a] or s[b] by whether s[d] is non-zero. -/
  | ssel (d : BitVec 8) (a : BitVec 8) (b : BitVec 8)
  /-- VADD (R289): Element-wise add under the mode type. -/
  | vadd (d : BitVec 8) (a : BitVec 8) (b : BitVec 8)
  /-- VSUB (R289): Element-wise subtract. -/
  | vsub (d : BitVec 8) (a : BitVec 8) (b : BitVec 8)
  /-- VMUL (R289): Element-wise multiply. -/
  | vmul (d : BitVec 8) (a : BitVec 8) (b : BitVec 8)
  /-- VFMA (R289): Element-wise fused multiply-add into d. -/
  | vfma (d : BitVec 8) (a : BitVec 8) (b : BitVec 8)
  /-- VFNMA (R289): Element-wise negated fused multiply-add into d. -/
  | vfnma (d : BitVec 8) (a : BitVec 8) (b : BitVec 8)
  /-- VMIN (R290): Element-wise minimum. -/
  | vmin (d : BitVec 8) (a : BitVec 8) (b : BitVec 8)
  /-- VMAX (R290): Element-wise maximum. -/
  | vmax (d : BitVec 8) (a : BitVec 8) (b : BitVec 8)
  /-- VABS (R289): Element-wise absolute value. -/
  | vabs (d : BitVec 8) (a : BitVec 8)
  /-- VNEG (R289): Element-wise negation. -/
  | vneg (d : BitVec 8) (a : BitVec 8)
  /-- VDIV (R291): Element-wise divide with the special cases of R291. -/
  | vdiv (d : BitVec 8) (a : BitVec 8) (b : BitVec 8)
  /-- VSQRT (R291): Element-wise square root. -/
  | vsqrt (d : BitVec 8) (a : BitVec 8)
  /-- VMULH (R289): Element-wise high half of an integer product. -/
  | vmulh (d : BitVec 8) (a : BitVec 8) (b : BitVec 8)
  /-- VAND (R292): Bitwise and of lane registers. -/
  | vand (d : BitVec 8) (a : BitVec 8) (b : BitVec 8)
  /-- VOR (R292): Bitwise or of lane registers. -/
  | vor (d : BitVec 8) (a : BitVec 8) (b : BitVec 8)
  /-- VXOR (R292): Bitwise exclusive-or of lane registers. -/
  | vxor (d : BitVec 8) (a : BitVec 8) (b : BitVec 8)
  /-- VNOT (R292): Bitwise not of a lane register. -/
  | vnot (d : BitVec 8) (a : BitVec 8)
  /-- VSHL (R292): Element-wise shift left. -/
  | vshl (d : BitVec 8) (a : BitVec 8) (b : BitVec 8)
  /-- VSHR (R292): Element-wise shift right, arithmetic or logical by type. -/
  | vshr (d : BitVec 8) (a : BitVec 8) (b : BitVec 8)
  /-- VCLZ (R292): Element-wise count of leading zeros. -/
  | vclz (d : BitVec 8) (a : BitVec 8)
  /-- VPOPC (R292): Element-wise count of one bits. -/
  | vpopc (d : BitVec 8) (a : BitVec 8)
  /-- VBFX (R293): Extracts a bit field from each lane register. -/
  | vbfx (d : BitVec 8) (a : BitVec 8) (b : BitVec 8)
  /-- VBFI (R293): Inserts a bit field into each lane register. -/
  | vbfi (d : BitVec 8) (a : BitVec 8) (b : BitVec 8)
  /-- VADDS (R289): Adds a scalar operand to each element. -/
  | vadds (d : BitVec 8) (a : BitVec 8) (b : BitVec 8)
  /-- VMULS (R289): Multiplies each element by a scalar operand. -/
  | vmuls (d : BitVec 8) (a : BitVec 8) (b : BitVec 8)
  /-- VFMAS (R289): Fused multiply-add with a scalar factor. -/
  | vfmas (d : BitVec 8) (a : BitVec 8) (b : BitVec 8)
  /-- VIMM (R294): Writes a sign-extended 16-bit immediate to each active lane. -/
  | vimm (d : BitVec 8) (i : BitVec 16)
  /-- VLIT (R294): Writes the 32-bit literal to each active lane. -/
  | vlit (d : BitVec 8) (lit : W32)
  /-- VMOV (R294): Copies a vector register pattern. -/
  | vmov (d : BitVec 8) (a : BitVec 8)
  /-- VFRS (R294): Copies a scalar register into each active lane. -/
  | vfrs (d : BitVec 8) (a : BitVec 8)
  /-- VSEL (R294): Selects v[a] or keeps v[d] by a predicate. -/
  | vsel (d : BitVec 8) (a : BitVec 8) (p : BitVec 3)
  /-- VCMPEQ (R295): Sets a predicate where element 0 of a equals b. -/
  | vcmpeq (d : BitVec 3) (a : BitVec 8) (b : BitVec 8)
  /-- VCMPNE (R295): Sets a predicate where element 0 of a differs from b. -/
  | vcmpne (d : BitVec 3) (a : BitVec 8) (b : BitVec 8)
  /-- VCMPLT (R295): Sets a predicate where a is less than b. -/
  | vcmplt (d : BitVec 3) (a : BitVec 8) (b : BitVec 8)
  /-- VCMPLE (R295): Sets a predicate where a is at most b. -/
  | vcmple (d : BitVec 3) (a : BitVec 8) (b : BitVec 8)
  /-- VCMPUN (R295): Sets a predicate where either operand is NaN. -/
  | vcmpun (d : BitVec 3) (a : BitVec 8) (b : BitVec 8)
  /-- PAND (R296): Predicate and. -/
  | pand (d : BitVec 3) (a : BitVec 3) (b : BitVec 3)
  /-- POR (R296): Predicate or. -/
  | por (d : BitVec 3) (a : BitVec 3) (b : BitVec 3)
  /-- PXOR (R296): Predicate exclusive-or. -/
  | pxor (d : BitVec 3) (a : BitVec 3) (b : BitVec 3)
  /-- PNOT (R296): Predicate not. -/
  | pnot (d : BitVec 3) (a : BitVec 3)
  /-- PFRS (R296): Sets each lane's predicate from its bit of s[a]. -/
  | pfrs (d : BitVec 3) (a : BitVec 8)
  /-- VCVT (R297): Converts element 0 from the source type to the mode type. -/
  | vcvt (d : BitVec 8) (a : BitVec 8) (t : BitVec 4)
  /-- VPACK (R298): Packs element 0 of a into element k of d. -/
  | vpack (d : BitVec 8) (a : BitVec 8) (w : BitVec 2) (k : BitVec 4)
  /-- VUNPK (R298): Unpacks element k of a, sign- or zero-extended, into d. -/
  | vunpk (d : BitVec 8) (a : BitVec 8) (w : BitVec 2) (s : BitVec 1) (k : BitVec 4)
  /-- VSFU_RCP (R300): Special-function reciprocal. -/
  | vsfuRcp (d : BitVec 8) (a : BitVec 8)
  /-- VSFU_RSQ (R300): Special-function reciprocal square root. -/
  | vsfuRsq (d : BitVec 8) (a : BitVec 8)
  /-- VSFU_LG2 (R300): Special-function base-two logarithm. -/
  | vsfuLg2 (d : BitVec 8) (a : BitVec 8)
  /-- VSFU_FEXP (R300): Special-function base-two exponential. -/
  | vsfuFexp (d : BitVec 8) (a : BitVec 8)
  /-- VSFU_SIN (R300): Special-function sine. -/
  | vsfuSin (d : BitVec 8) (a : BitVec 8)
  /-- VSFU_COS (R300): Special-function cosine. -/
  | vsfuCos (d : BitVec 8) (a : BitVec 8)
  /-- VSFU_TANH (R300): Special-function hyperbolic tangent. -/
  | vsfuTanh (d : BitVec 8) (a : BitVec 8)
  /-- VSFU_SIGM (R300): Special-function logistic sigmoid. -/
  | vsfuSigm (d : BitVec 8) (a : BitVec 8)
  /-- VRNDI (R289): Rounds each float element to an integer value under mode.rnd. -/
  | vrndi (d : BitVec 8) (a : BitVec 8)
  /-- VXINS (R299): Scales each float element by 2 to an integer exponent, rounding once. -/
  | vxins (d : BitVec 8) (a : BitVec 8) (b : BitVec 8)
  /-- VXEXT (R299): Extracts the binary exponent of each float element. -/
  | vxext (d : BitVec 8) (a : BitVec 8)
  /-- VOTEANY (R303): Sets each lane's predicate to the OR over its tile members. -/
  | voteany (d : BitVec 3) (a : BitVec 3)
  /-- VOTEALL (R303): Sets each lane's predicate to the AND over its tile members. -/
  | voteall (d : BitVec 3) (a : BitVec 3)
  /-- VBAL (R303): Writes a ballot of the tile members' predicates. -/
  | vbal (d : BitVec 8) (a : BitVec 3)
  /-- SHFLI (R304): Shuffles by a per-lane index within the tile. -/
  | shfli (d : BitVec 8) (a : BitVec 8) (b : BitVec 8)
  /-- SHFLU (R304): Shuffles from lane l − n. -/
  | shflu (d : BitVec 8) (a : BitVec 8) (n : BitVec 5)
  /-- SHFLD (R304): Shuffles from lane l + n. -/
  | shfld (d : BitVec 8) (a : BitVec 8) (n : BitVec 5)
  /-- SHFLX (R304): Shuffles from the lane at exclusive-or distance n. -/
  | shflx (d : BitVec 8) (a : BitVec 8) (n : BitVec 5)
  /-- VRED (R305): Reduces the tile members' elements with one rounding. -/
  | vred (d : BitVec 8) (a : BitVec 8) (o : BitVec 3)
  /-- VSCAN (R305): Inclusive or exclusive scan over the tile members. -/
  | vscan (d : BitVec 8) (a : BitVec 8) (e : BitVec 1) (o : BitVec 3)
  /-- VMEMB (R302): Sets the carriage's member mask from s[a]. -/
  | vmemb (a : BitVec 8)
  /-- VTOS (R307): Copies one lane's register to a scalar register. -/
  | vtos (d : BitVec 8) (a : BitVec 8) (l : BitVec 8)
  /-- LIADD (R310): Level-index add with one rounding. -/
  | liadd (d : BitVec 8) (a : BitVec 8) (b : BitVec 8)
  /-- LISUB (R310): Level-index subtract. -/
  | lisub (d : BitVec 8) (a : BitVec 8) (b : BitVec 8)
  /-- LIMUL (R310): Level-index multiply. -/
  | limul (d : BitVec 8) (a : BitVec 8) (b : BitVec 8)
  /-- LIDIV (R310): Level-index divide. -/
  | lidiv (d : BitVec 8) (a : BitVec 8) (b : BitVec 8)
  /-- LICLT (R311): Level-index less-than compare into a predicate. -/
  | liclt (d : BitVec 3) (a : BitVec 8) (b : BitVec 8)
  /-- LICEQ (R311): Level-index equality compare into a predicate. -/
  | liceq (d : BitVec 3) (a : BitVec 8) (b : BitVec 8)
  /-- LINEG (R312): Level-index negation. -/
  | lineg (d : BitVec 8) (a : BitVec 8)
  /-- LIABS (R312): Level-index absolute value. -/
  | liabs (d : BitVec 8) (a : BitVec 8)
  /-- LITOF (R313): Converts sl to a binary float type. -/
  | litof (d : BitVec 8) (a : BitVec 8) (t : BitVec 4)
  /-- LIFRF (R313): Converts a binary float type to sl. -/
  | lifrf (d : BitVec 8) (a : BitVec 8) (t : BitVec 4)
  /-- LITOI (R313): Converts sl to an integer type. -/
  | litoi (d : BitVec 8) (a : BitVec 8) (t : BitVec 4)
  /-- LIFRI (R313): Converts an integer type to sl. -/
  | lifri (d : BitVec 8) (a : BitVec 8) (t : BitVec 4)
  /-- LILVL (R314): Writes the level, fraction, index or sign of an sl element. -/
  | lilvl (d : BitVec 8) (a : BitVec 8) (f : BitVec 2)
  /-- VLD8S (R321): Per-lane signed byte load. -/
  | vld8s (d : BitVec 8) (a : BitVec 8) (i : BitVec 8)
  /-- VLD8Z (R321): Per-lane zero-extended byte load. -/
  | vld8z (d : BitVec 8) (a : BitVec 8) (i : BitVec 8)
  /-- VLD16S (R321): Per-lane signed halfword load. -/
  | vld16s (d : BitVec 8) (a : BitVec 8) (i : BitVec 8)
  /-- VLD16Z (R321): Per-lane zero-extended halfword load. -/
  | vld16z (d : BitVec 8) (a : BitVec 8) (i : BitVec 8)
  /-- VLD32 (R321): Per-lane word load. -/
  | vld32 (d : BitVec 8) (a : BitVec 8) (i : BitVec 8)
  /-- VLD64 (R321): Per-lane 8-byte load into a register pair. -/
  | vld64 (d : BitVec 8) (a : BitVec 8) (i : BitVec 8)
  /-- VLD128 (R321): Per-lane 16-byte load into four registers. -/
  | vld128 (d : BitVec 8) (a : BitVec 8) (i : BitVec 8)
  /-- VST8 (R321): Per-lane byte store. -/
  | vst8 (d : BitVec 8) (a : BitVec 8) (i : BitVec 8)
  /-- VST16 (R321): Per-lane halfword store. -/
  | vst16 (d : BitVec 8) (a : BitVec 8) (i : BitVec 8)
  /-- VST32 (R321): Per-lane word store. -/
  | vst32 (d : BitVec 8) (a : BitVec 8) (i : BitVec 8)
  /-- VST64 (R321): Per-lane 8-byte store. -/
  | vst64 (d : BitVec 8) (a : BitVec 8) (i : BitVec 8)
  /-- VST128 (R321): Per-lane 16-byte store. -/
  | vst128 (d : BitVec 8) (a : BitVec 8) (i : BitVec 8)
  /-- SLD32 (R322): Scalar 4-byte load. -/
  | sld32 (d : BitVec 8) (a : BitVec 8) (i : BitVec 8)
  /-- SLD64 (R322): Scalar 8-byte load. -/
  | sld64 (d : BitVec 8) (a : BitVec 8) (i : BitVec 8)
  /-- SST32 (R322): Scalar 4-byte store. -/
  | sst32 (d : BitVec 8) (a : BitVec 8) (i : BitVec 8)
  /-- SST64 (R322): Scalar 8-byte store. -/
  | sst64 (d : BitVec 8) (a : BitVec 8) (i : BitVec 8)
  /-- ALD32 (R323): Per-lane 4-byte A-buffer load. -/
  | ald32 (d : BitVec 8) (a : BitVec 8) (i : BitVec 8)
  /-- ALD128 (R323): Per-lane 16-byte A-buffer load. -/
  | ald128 (d : BitVec 8) (a : BitVec 8) (i : BitVec 8)
  /-- AST32 (R323): Per-lane 4-byte A-buffer store. -/
  | ast32 (d : BitVec 8) (a : BitVec 8) (i : BitVec 8)
  /-- AST128 (R323): Per-lane 16-byte A-buffer store. -/
  | ast128 (d : BitVec 8) (a : BitVec 8) (i : BitVec 8)
  /-- CLD64 (R323): Per-lane 8-byte C-buffer load. -/
  | cld64 (d : BitVec 8) (a : BitVec 8) (i : BitVec 8)
  /-- CST64 (R323): Per-lane 8-byte C-buffer store. -/
  | cst64 (d : BitVec 8) (a : BitVec 8) (i : BitVec 8)
  /-- VLDA (R324): Per-lane 4-byte acquire load at a scope entry. -/
  | vlda (d : BitVec 8) (a : BitVec 8) (s : BitVec 5)
  /-- VSTL (R324): Per-lane 4-byte release store at a scope entry. -/
  | vstl (d : BitVec 8) (a : BitVec 8) (s : BitVec 5)
  /-- FENCE (R325): Holds later memory operations of the coach until earlier ones are done at the scope. -/
  | fence (s : BitVec 5)
  /-- VATOM (R326): Per-lane atomic read-modify-write at its site. -/
  | vatom (d : BitVec 8) (a : BitVec 8) (b : BitVec 8) (lit : W32)
  /-- SATOM (R326): Scalar atomic read-modify-write. -/
  | satom (d : BitVec 8) (a : BitVec 8) (b : BitVec 8) (lit : W32)
  /-- VCAS (R326): Per-lane compare-and-swap. -/
  | vcas (d : BitVec 8) (a : BitVec 8) (b : BitVec 8) (lit : W32)
  /-- MRED (R327): Sends reduce-add memory commands under a tag. -/
  | mred (a : BitVec 8) (b : BitVec 8) (lit : W32)
  /-- MCAS (R327): Sends compare-and-swap memory commands under a tag. -/
  | mcas (d : BitVec 8) (a : BitVec 8) (b : BitVec 8) (lit : W32)
  /-- MSAX (R327): Sends scaled-add sector commands under a tag. -/
  | msax (d : BitVec 8) (a : BitVec 8) (b : BitVec 8) (lit : W32)
  /-- MWRM (R327): Sends masked-write memory commands under a tag. -/
  | mwrm (d : BitVec 8) (a : BitVec 8) (b : BitVec 8) (lit : W32)
  /-- QLD (R329): Outrider fills the next n inbound queue entries by affine reads. -/
  | qld (q : BitVec 3) (a : BitVec 8) (b : BitVec 8) (lit : W32)
  /-- QST (R329): Outrider drains n complete outbound entries by affine writes. -/
  | qst (q : BitVec 3) (a : BitVec 8) (b : BitVec 8) (lit : W32)
  /-- QGAT (R329): Outrider fills inbound entries by indexed gather. -/
  | qgat (q : BitVec 3) (a : BitVec 8) (b : BitVec 8) (lit : W32)
  /-- QCNT (R330): Writes the count of filled or complete entries of a queue. -/
  | qcnt (d : BitVec 8) (q : BitVec 3)
  /-- QEND (R330): Ends the outrider context's program. -/
  | qend
  /-- COPY (R331): Checks and issues a copy to a channel context. -/
  | copy (d : BitVec 8) (a : BitVec 8) (b : BitVec 8) (lit : W32)
  /-- SEAL (R333): Closes the open cart and returns its number. -/
  | sealCart (d : BitVec 8)
  /-- RDWP (R333): Reads a channel context's write pointer as an acquire. -/
  | rdwp (d : BitVec 8) (k : BitVec 2)
  /-- STRM (R334): Opens or closes a stream context. -/
  | strm (d : BitVec 8) (a : BitVec 8) (b : BitVec 8) (lit : W32)
  /-- CFLUSH (R335): Writes back dirty bytes of the lines of a range. -/
  | cflush (a : BitVec 8) (b : BitVec 8)
  /-- CINV (R335): Removes the lines of a range from the core's L1. -/
  | cinv (a : BitVec 8) (b : BitVec 8)
  /-- CHINT (R335): Changes a chassis-cache line's replacement priority. -/
  | chint (a : BitVec 8) (h : BitVec 2)
  /-- FMTL (R342): Loads a format block into a format slot. -/
  | fmtl (n : BitVec 2) (a : BitVec 8) (i : BitVec 8)
  /-- BLD (R346): Queues a dense load of the resident B. -/
  | bld (n : BitVec 2) (a : BitVec 8)
  /-- BGAT (R347): Queues a CSR gather into the resident B. -/
  | bgat (n : BitVec 2) (a : BitVec 8) (b : BitVec 8)
  /-- TZERO (R348): Queues the clearing of selected tiles. -/
  | tzero (m : BitVec 8)
  /-- TMUL (R350): Queues the multiplication of A rows by the resident B into tiles. -/
  | tmul (n : BitVec 2) (t : BitVec 3) (a : BitVec 8) (b : BitVec 8)
  /-- TDRAIN (R353): Queues the rounding of a tile out to C-out and Cᵀ-out. -/
  | tdrain (n : BitVec 2) (t : BitVec 3) (a : BitVec 8) (b : BitVec 8)
  /-- CRED (R355): Contributes to a ring reduction. -/
  | cred (d : BitVec 8) (a : BitVec 8) (b : BitVec 8) (lit : W32)
  /-- TSTAT (R356): Reads matrix status, tokens or segment bits. -/
  | tstat (d : BitVec 8) (s : BitVec 3)
  /-- POWER_GOOD (R437): Power-good enters stage S0. -/
  | powerGood
  /-- MODULE_RESET (R434): Resets the whole module. -/
  | moduleReset
  /-- FW_LOAD (R438): Host write to fw.load starts the boot ROM's image check. -/
  | fwLoad (v : W64)
  /-- IMAGE_CHECK_DONE (R438): The image check finishes and enters S1 or sets bootstage.err. -/
  | imageCheckDone (memok : BitVec 16)
  /-- STAGE_S2_ENTRY (R437): Every ring hop becomes active and the module enters S2. -/
  | stageS2Entry (ringOk : Bool) (peers : BitVec 8)
  /-- BOOTSTAGE_GO (R437): A write of go in S2 enters S3, releasing cores and starting purses. -/
  | bootstageGo
  /-- VF_FLR (R434): Function-level reset of a VF disables its queues and tears down their PASIDs. -/
  | vfFlr (n : Nat)
  /-- HOST_BAR2_WRITE (R157): A host write through BAR2 is performed at its home. -/
  | hostBar2Write (func off : Nat) (bytes : List Byte) (ecc : Ecc)
  /-- HOST_BAR2_READ (R157): A host read through BAR2 is served at the home. -/
  | hostBar2Read (func off n : Nat) (ecc : Ecc)
  /-- SPDM_REQUEST (R439): An SPDM request on the DOE mailbox is answered with signed measurements. -/
  | spdmRequest
  /-- REGISTER_WRITE (R6): A write to a register with no row of its own, under its access codes. -/
  | registerWrite (org : Origin) (ch off size : Nat) (v : W64)
  /-- FW_DOORBELL_WRITE (R389): A doorbell write places its queue in the waiting list. -/
  | fwDoorbellWrite (org : Origin) (q : Nat)
  /-- FW_SLOT_MAP (R390): Host maps a queue in a host-owned firmware slot. -/
  | fwSlotMap (n q : Nat)
  /-- FW_SLOT_UNMAP (R390): Host unmaps a host-owned firmware slot. -/
  | fwSlotUnmap (n : Nat)
  /-- FW_SLOT_HOSTOWN (R390): Host changes a slot's hostown bit, unmapping it first. -/
  | fwSlotHostown (n : Nat) (own : Bool)
  /-- FIRMWARE_ROUND (R388): The firmware core reads each mapped queue's head packet and serves the groups. -/
  | firmwareRound
  /-- QUEUE_SLOT_ROTATION (R389): At each 100 µs the longest-mapped slots pass to waiting queues. -/
  | queueSlotRotation
  /-- DISPATCHER_TAKE_BATCH (R395): A dispatcher with room takes the next 8 train indices and keeps or forwards them. -/
  | dispatcherTakeBatch (ch launch : Nat)
  /-- TRAIN_PLACE (R396): A train that fits is placed on its cores with windows and queue entries. -/
  | trainPlace (ch launch index : Nat)
  /-- GANG_START (R398): All trains of a gang launch start in the same round once all fit. -/
  | gangStart (launch : Nat)
  /-- CACHE_FILL_RETURN (R100): Sectors arrive and a chassis-cache or L1 line is filled. -/
  | cacheFillReturn (ch pa : Nat) (l1 : Option Nat) (ecc : Ecc)
  /-- L1_OWNERSHIP_GRANT (R107): The home grants a line to an L1 for narrow atomics. -/
  | l1OwnershipGrant (ch core pa : Nat) (ecc : Ecc)
  /-- OWNERSHIP_RECALL (R107): The home recalls an owned line, which is written back and dropped. -/
  | ownershipRecall (pa : Nat)
  /-- TABLE_READ_RETURN (R45): A table read returns and the walk goes to the next level or ends. -/
  | tableReadReturn (ch walk : Nat) (ecc : Ecc)
  /-- PAGE_SCAN_DONE (R56): The scan accepts or rejects the page. -/
  | pageScanDone (ch page : Nat)
  /-- COPY_PIECE_WRITE (R120): A 256-byte piece is performed and the write pointer advances. -/
  | copyPieceWrite (copy piece : Nat) (rd wr : Ecc)
  /-- STREAM_PACKET_RECEIVE (R167): The receiver writes a stream payload at its next position. -/
  | streamPacketReceive (pkt : Nat) (ecc : Ecc)
  /-- PEER_REQUEST_ARRIVE (R158): A request from a peer port is performed at its home in arrival order. -/
  | peerRequestArrive (p pa : Nat) (write : Bool) (bytes : List Byte) (ecc : Ecc)
  /-- MATRIX_INSTRUCTION_END (R358): A matrix instruction's work clocks end and it leaves tl. -/
  | matrixInstructionEnd (ch core : Nat)
  /-- CTX_EVICT (R414): ctx.evict evict op evicts every coach of a PASID on the masked chassis. -/
  | ctxEvict (pasid : BitVec 20) (mask : BitVec 16)
  /-- CTX_RESTORE (R414): ctx.evict restore op returns the coaches that an evict holds. -/
  | ctxRestore (pasid : BitVec 20) (mask : BitVec 16)
  /-- COACH_SAVE (R412): After the coach's operations drain, its state is written to a save slot and its resources freed. -/
  | coachSave (r : CoachRef)
  /-- COACH_RESTORE (R417): An evicted coach is reloaded from its save record on its core. -/
  | coachRestore (r : CoachRef)
  /-- CTX_FRESUME_RETRY (R410): Resolves a parked trap carriage as a TRET with every lane at the saved PC. -/
  | ctxFresumeRetry (r : SlotRef)
  /-- CTX_FRESUME_DELIVER (R410): Makes a parked trap carriage ready at its entry PC. -/
  | ctxFresumeDeliver (r : SlotRef)
  /-- EVENT_STORE_FLUSH (R411): Stored host events go to the host event queue as space appears. -/
  | eventStoreFlush (ch : Nat)
  /-- SV_TEARDOWN_WRITE (R60): A write of pasid starts PASID teardown. -/
  | svTeardownWrite (pasid : BitVec 20)
  /-- TEARDOWN_COMPLETE (R60): Teardown finishes, busy clears and the teardown-complete event is sent. -/
  | teardownComplete
  /-- SV_STATUS_NEST_WRITE (R367): A write of nest = 1 re-arms a busy frame and raises its depth. -/
  | svStatusNestWrite (r : SlotRef) (hyp : Bool)
  /-- PARK_REQUEST (R430): park.ctl.req = 1 removes the chassis from new launches. -/
  | parkRequest (ch : Nat)
  /-- UNPARK_REQUEST (R430): park.ctl.req = 0 in state 2 starts park exit. -/
  | unparkRequest (ch : Nat)
  /-- PARK_ENTRY_START (R109): With no train resident, park entry writes back owned and dirty lines. -/
  | parkEntryStart (ch : Nat)
  /-- PARK_CUT_OVER (R109): The chassis cache turns off, bank-side units take its lines and the chassis is parked. -/
  | parkCutOver (ch : Nat)
  /-- PARK_EXIT_COMPLETE (R110): The chassis cache takes over its lines again and the chassis runs. -/
  | parkExitComplete (ch : Nat)
  /-- PSCAP_WRITE (R423): A write to pwr.pscap caps the performance state and steps chassis at once. -/
  | pscapWrite (cap : BitVec 3)
  /-- POWER_EPOCH (R420): Each 1 µs the arbiter grants tokens to purses and adjusts duty and states. -/
  | powerEpoch (watts : List Nat)
  /-- PS_STEP_COMPLETE (R423): A performance-state step finishes after 2 or 20 µs. -/
  | psStepComplete (ch : Nat)
  /-- TOKEN_REQUEST (R403): A coach ready at a matrix instruction requests its draw from the purse. -/
  | tokenRequest (r : SlotRef)
  /-- TOKEN_GRANT (R403): The purse grants the oldest waiting request. -/
  | tokenGrant (ch : Nat)
  /-- THERMAL_SAMPLE (R426): Each 1 µs sample chooses the governor's target state and hold. -/
  | thermalSample (ch : Nat) (readings : List Nat)
  /-- THROTTLE_CHANGE (R426): A new throttle state takes effect at a clk multiple of 64. -/
  | throttleChange (ch : Nat)
  /-- HOLD_CHANGE (R427): Entry to or exit from hold takes effect, closing or opening issue slots. -/
  | holdChange (ch : Nat)
  /-- BANK_REFRESH (R80): The refresh interval expires and a bank refreshes one row. -/
  | bankRefresh (ch bus chan bank : Nat)
  /-- GAIN_CELL_REFRESH_STEAL (R81): A stolen clock in which typed buffers, macros and cache slices accept no access. -/
  | gainCellRefreshSteal (ch : Nat)
  /-- TESTER_START (R82): After the idle count the background tester starts a pass. -/
  | testerStart (ch bus : Nat)
  /-- TESTER_YIELD (R82): The tester abandons its group and yields the bus to an arriving operation. -/
  | testerYield (ch bus : Nat)
  /-- GROUP_TEST_DONE (R83): A lane-group test completes and may fail a lane. -/
  | groupTestDone (ch bus : Nat) (errs : BitVec 8)
  /-- REPAIR_COMPLETE (R83): After 2,048 clocks the repaired bus carries operations again. -/
  | repairComplete (ch bus : Nat)
  /-- BANK_OPERATION (R72): An admitted operation executes indivisibly on its sector at the bank-side unit. -/
  | bankOperation (r : OpRef) (ecc : Ecc)
  /-- COMMAND_REPLY (R75): A memory-command reply returns, setting flags and old values. -/
  | commandReply (r : OpRef)
  /-- LOAD_RETURN (R253): Load or atomic data returns to the lane registers. -/
  | loadReturn (r : OpRef) (ecc : Ecc)
  /-- STORE_PERFORMED (R253): A store is performed at its home or typed-buffer bank. -/
  | storePerformed (r : OpRef) (ecc : Ecc)
  /-- ATOMIC_EXECUTE (R105): An atomic executes indivisibly at its chosen site. -/
  | atomicExecute (r : OpRef) (ecc : Ecc)
  /-- TRANSLATION_WALK (R45): The walker starts a walk for a TLB miss. -/
  | translationWalk (ch : Nat)
  /-- TLBINV_ARRIVE (R55): An invalidation reaches a chassis and removes entries there. -/
  | tlbinvArrive (r : OpRef) (ch : Nat)
  /-- TLBINV_COMPLETE (R55): Every chassis has acknowledged and the TLBINV leaves st. -/
  | tlbinvComplete (r : OpRef)
  /-- SCOPEW_COMPLETE (R139): Every chassis holds the new scope mask and the carriage unblocks. -/
  | scopewComplete (r : SlotRef)
  /-- PAGE_SCAN_START (R56): A fetch from an unscanned page starts a scan at the home chassis. -/
  | pageScanStart (ch page : Nat)
  /-- COPY_ACCEPT (R117): A channel context accepts a copy. -/
  | copyAccept (copy : Nat)
  /-- COPY_START (R117): A channel starts its next copy after the previous one is written. -/
  | copyStart (copy : Nat)
  /-- STREAM_WINDOW_GRANT (R127): A receiving stop grants a copy window and table entry to a queued copy. -/
  | streamWindowGrant (copy : Nat)
  /-- STREAM_CREDIT (R165): A credit returns to the sender for a performed piece. -/
  | streamCredit (pkt : Nat)
  /-- STREAM_ERROR_REPORT (R169): A receiver error returns and gives the carrying copy a copy error. -/
  | streamErrorReport (pkt : Nat)
  /-- STREAM_CLOSE_DONE (R170): A closing stream context is freed after its pieces are credited. -/
  | streamCloseDone (strm : Nat)
  /-- RING_PACKET_ARRIVE (R164): A ring packet reaches a stop and is forwarded or delivered. -/
  | ringPacketArrive (pkt : Nat)
  /-- FLIT_REPLAY (R175): A flit failing CRC is replayed. -/
  | flitReplay (ch : Nat) (port : Port)
  /-- LINK_RETRAIN_START (R176): A hop leaves the active state and retrains. -/
  | linkRetrainStart (ch : Nat) (port : Port)
  /-- LINK_RETRAIN_COMPLETE (R176): The hop becomes active again. -/
  | linkRetrainComplete (ch : Nat) (port : Port)
  /-- HOP_DOWN (R177): After 50 µs without retraining the hop is declared down and routes switch. -/
  | hopDown (ch : Nat)
  /-- ROUTE_SWITCH_COMPLETE (R177): The new route epoch is in force and ring-degraded is sent. -/
  | routeSwitchComplete
  /-- PEER_LINK_DOWN (R181): A peer port not retrained in 50 µs fails its outstanding accesses. -/
  | peerLinkDown (p : Nat)
  /-- PEER_PORT_RETRY (R436): An untrained peer port retries training every 10 ms. -/
  | peerPortRetry (p : Nat) (trained : Bool)
  /-- REDUCTION_PACKET (R172): A stop adds arriving partial sums and sends them toward the root. -/
  | reductionPacket (pkt : Nat)
  /-- REDUCTION_RESULT (R355): A receiver writes the reduction results and raises the root's flags. -/
  | reductionResult (red who : Nat)
  /-- CARRIAGE_DEMOTE (R193): A carriage blocked for 16 clocks yields its slot to a siding entry. -/
  | carriageDemote (r : SlotRef)
  /-- YIELD_EXPIRE (R280): 32 clocks after YIELD the carriage is ready again. -/
  | yieldExpire (r : SlotRef)
  /-- SLEEP_WAKE (R281): clk reaches the wake value and the carriage is ready. -/
  | sleepWake (r : SlotRef)
  /-- WAIT_CONDITION_MET (R255): A WAIT's counter condition holds and the carriage proceeds. -/
  | waitConditionMet (r : SlotRef)
  /-- WAITC_CONDITION_MET (R257): The awaited carts complete and the carriage proceeds. -/
  | waitcConditionMet (r : SlotRef)
  /-- WAITG_CONDITION_MET (R328): The masked tags are free and the carriage proceeds. -/
  | waitgConditionMet (r : SlotRef)
  /-- FENCE_CONDITION_MET (R325): Earlier operations are done and the coach's memory instructions resume. -/
  | fenceConditionMet (r : SlotRef)
  /-- EXIT_WAIT_END (R279): EXIT's wait ends, errors trap and the remaining lanes exit. -/
  | exitWaitEnd (r : SlotRef)
  /-- BARRIER_DEPART (R372): Every participating coach has arrived and all depart. -/
  | barrierDepart (train n : Nat)
  /-- QUEUE_ELEMENT_FILL (R329): An outrider read returns and fills an inbound element. -/
  | queueElementFill (r : OpRef) (ecc : Ecc)
  /-- QUEUE_ENTRY_DRAIN (R152): An outrider write of an outbound entry is performed. -/
  | queueEntryDrain (r : OpRef) (ecc : Ecc)
  /-- OUTRIDER_END (R330): After QEND, every outrider access is performed and the context ends. -/
  | outriderEnd (r : CoachRef)
  /-- BAY_TIMER_EXPIRE (R211): A bay's timer expires and the bay forms a coach. -/
  | bayTimerExpire (ch core bay : Nat)
  /-- YARD_COACH_FORM (R211): A full or timed-out bay forms a resident coach once residency allows. -/
  | yardCoachForm (ch core bay part : Nat)
  /-- MATRIX_INSTRUCTION_START (R358): A queued matrix instruction starts and returns the tokens of gated segments. -/
  | matrixInstructionStart (ch core : Nat)
  /-- FETCH_FAULT (R409): A carriage chosen to issue at pc whose fetch fails traps every lane with trapping and next state at pc. -/
  | fetchFault (r : SlotRef)
  /-- COMPLETION_TIMEOUT (R32): A host-window or peer-window access whose completion never arrives fails at its far end by completion timeout. -/
  | completionTimeout (r : OpRef)
  deriving DecidableEq, Repr

end Sys2Proof
end

