-- ==== Sys2Proof/WellFormed.lean ====
section
/-! DEFINITION. Which terms of `Instr` stand for something: the reserved values of the fields of an instruction word (10 R246,
R248, R259) and the ranges of the operands of an event. Fields that a word must hold as zero have no place in `Instr`. -/

namespace Sys2Proof

/-- The numbers that 16 R363 and R364 assign to XRD and XWR. -/
def assignedRegister (r : Nat) : Bool :=
  r < 8 || (0x100 ≤ r && r ≤ 0x10A) || r == 0x120 || r == 0x121 || (0x200 ≤ r && r ≤ 0x209) || r == 0x220 || r == 0x221

/-- Binary float codes of LITOF and LIFRF (13 R313). -/
def floatCode (t : Nat) : Bool := 6 ≤ t && t ≤ 10

/-- Integer codes of LITOI and LIFRI (13 R313). -/
def intCode (t : Nat) : Bool := t ≤ 5 || t == 13

/-- MODE (R248): value bits of a field that is not selected are zero, and a selected field holds no reserved value. -/
def modeOk (m : BitVec 6) (v : BitVec 16) : Bool :=
  let f (sel : Bool) (x top : Nat) : Bool := if sel then x ≤ top else x == 0
  f (m.getLsbD 0) (bitsOf v.toNat 3 0) 13 && f (m.getLsbD 1) (bitsOf v.toNat 6 4) 4 && f (m.getLsbD 2) (bitsOf v.toNat 10 7) 15
    && f (m.getLsbD 3) (bitsOf v.toNat 11 11) 1 && f (m.getLsbD 4) (bitsOf v.toNat 12 12) 1 && f (m.getLsbD 5) (bitsOf v.toNat 15 13) 4

/-- TLBINV (R371): kind 7 is reserved, and a register field that the kind does not use is zero. -/
def tlbinvOk (d a : BitVec 8) (k : BitVec 3) : Bool :=
  match k.toNat with
  | 0 => true
  | 1 => d == 0
  | 2 => d == 0 && a == 0
  | 3 => true
  | 4 => d == 0
  | 5 => a == 0
  | 6 => d == 0 && a == 0
  | _ => false

/-- A chassis number and a 12-bit handle (R1, R411). -/
def CoachRef.ok (r : CoachRef) : Bool := r.ch < 16 && r.handle < 4096

/-- A slot of a coach (R187). -/
def SlotRef.ok (r : SlotRef) : Bool := r.ch < 16 && r.handle < 4096 && r.slot < 4

/-- An operation of a coach. -/
def OpRef.ok (r : OpRef) : Bool := r.ch < 16 && r.handle < 4096

/-- A function of the host (R431): 0 the physical one, 1 to 16 virtual. -/
def Origin.ok : Origin → Bool
  | .host n => n ≤ 16
  | .carriage => true

/-- Whether the operands of an event lie in the ranges of the units they name. -/
def wellFormedEvent : Instr → Bool
  | .vfFlr n => 1 ≤ n && n ≤ 16
  | .hostBar2Write func _ _ _ => func ≤ 16
  | .hostBar2Read func _ _ _ => func ≤ 16
  | .registerWrite org ch off size _ => org.ok && ch < 16 && off < 0x400000 && (size == 4 || size == 8)
  | .fwDoorbellWrite org q => org.ok && q < 4096
  | .fwSlotMap n q => n < 32 && q < 4096
  | .fwSlotUnmap n => n < 32
  | .fwSlotHostown n _ => n < 32
  | .dispatcherTakeBatch ch _ => ch < 16
  | .trainPlace ch _ _ => ch < 16
  | .coachSave r => r.ok
  | .coachRestore r => r.ok
  | .ctxFresumeRetry r => r.ok
  | .ctxFresumeDeliver r => r.ok
  | .eventStoreFlush ch => ch < 16
  | .svStatusNestWrite r _ => r.ok
  | .parkRequest ch => ch < 16
  | .unparkRequest ch => ch < 16
  | .parkEntryStart ch => ch < 16
  | .parkCutOver ch => ch < 16
  | .parkExitComplete ch => ch < 16
  | .psStepComplete ch => ch < 16
  | .tokenRequest r => r.ok
  | .tokenGrant ch => ch < 16
  | .thermalSample ch _ => ch < 16
  | .throttleChange ch => ch < 16
  | .holdChange ch => ch < 16
  | .bankRefresh ch bus chan _ => ch < 16 && bus < 16 && chan < 32
  | .gainCellRefreshSteal ch => ch < 16
  | .testerStart ch bus => ch < 16 && bus < 16
  | .testerYield ch bus => ch < 16 && bus < 16
  | .groupTestDone ch bus _ => ch < 16 && bus < 16
  | .repairComplete ch bus => ch < 16 && bus < 16
  | .bankOperation r _ => r.ok
  | .commandReply r => r.ok
  | .loadReturn r _ => r.ok
  | .storePerformed r _ => r.ok
  | .cacheFillReturn ch _ l1 _ => ch < 16 && (l1.getD 0 < 16)
  | .l1OwnershipGrant ch core _ _ => ch < 16 && core < 16
  | .atomicExecute r _ => r.ok
  | .translationWalk ch => ch < 16
  | .tableReadReturn ch _ _ => ch < 16
  | .tlbinvArrive r ch => r.ok && ch < 16
  | .tlbinvComplete r => r.ok
  | .scopewComplete r => r.ok
  | .pageScanStart ch _ => ch < 16
  | .pageScanDone ch _ => ch < 16
  | .flitReplay ch _ => ch < 16
  | .linkRetrainStart ch _ => ch < 16
  | .linkRetrainComplete ch _ => ch < 16
  | .hopDown ch => ch < 16
  | .peerRequestArrive p _ _ _ _ => p < 8
  | .peerLinkDown p => p < 8
  | .peerPortRetry p _ => p < 8
  | .carriageDemote r => r.ok
  | .yieldExpire r => r.ok
  | .sleepWake r => r.ok
  | .waitConditionMet r => r.ok
  | .waitcConditionMet r => r.ok
  | .waitgConditionMet r => r.ok
  | .fenceConditionMet r => r.ok
  | .exitWaitEnd r => r.ok
  | .barrierDepart _ n => n < 16
  | .queueElementFill r _ => r.ok
  | .queueEntryDrain r _ => r.ok
  | .outriderEnd r => r.ok
  | .bayTimerExpire ch core bay => ch < 16 && core < 16 && bay < 8
  | .yardCoachForm ch core bay part => ch < 16 && core < 16 && bay < 8 && part < 16
  | .matrixInstructionStart ch core => ch < 16 && core < 16
  | .matrixInstructionEnd ch core => ch < 16 && core < 16
  | .fetchFault r => r.ok
  | .completionTimeout r => r.ok
  | _ => true

/-- Whether a term is an instruction that the scanner can accept (R259), or an event in range. -/
def wellFormed : Instr → Bool
  | .mode m v => modeOk m v
  | .xrd _ r => assignedRegister r.toNat
  | .xwr _ r => assignedRegister r.toNat
  | .scopew _ n => 6 ≤ n.toNat
  | .tlbinv d a k => tlbinvOk d a k
  | .wid _ f => f.toNat ≤ 6 || (8 ≤ f.toNat && f.toNat ≤ 13)
  | .lid _ f => f.toNat ≤ 5
  | .vcvt _ _ t => t.toNat ≤ 10 || t.toNat == 13
  | .vpack _ _ w k => k.toNat < 2 ^ (w.toNat + 1)
  | .vunpk _ _ w _ k => k.toNat < 2 ^ (w.toNat + 1)
  | .vred _ _ o => o.toNat ≤ 5
  | .vscan _ _ _ o => o.toNat ≤ 5
  | .vtos _ _ l => l.toNat ≤ 32
  | .litof _ _ t => floatCode t.toNat
  | .lifrf _ _ t => floatCode t.toNat
  | .litoi _ _ t => intCode t.toNat
  | .lifri _ _ t => intCode t.toNat
  | .tstat _ s => s.toNat ≤ 5
  | i => wellFormedEvent i

end Sys2Proof
end

