-- ==== Sys2Proof/Decode.lean ====
section
/-! DEFINITION. The decoder of instruction words (10 R237 to R246), the encoder beside it, the register operands of every
instruction (R240, R243), and the page scanner (02 R56, R57; 10 R251, R259). -/

namespace Sys2Proof

/-- Why a word is rejected (R259). -/
inductive Reject where
  /-- An opcode that R244 does not assign. -/
  | unassigned
  /-- A non-zero bit in a field that must be zero. -/
  | zeroField
  /-- A reserved value of a function field. -/
  | reserved
  /-- A two-word instruction or a REP without a word after it. -/
  | atEnd
  /-- A REP whose repeated word R251 rejects. -/
  | badRepeat
  deriving DecidableEq, Repr

/-- Bits `[lo + n - 1 : lo]` of a word, as a number. -/
def bits (w lo n : Nat) : Nat := w / 2 ^ lo % 2 ^ n

/-- Bits `[lo + n - 1 : lo]` of a word, as a field. -/
def fld (w lo n : Nat) : BitVec n := BitVec.ofNat n (w / 2 ^ lo)

/-- The instruction, where its zero fields are zero (R240). -/
def zeroed (ok : Bool) (i : Instr) : Except Reject Instr := if ok then .ok i else .error .zeroField

/-- Control instructions, opcodes 0x00 to 0x0F (R244). -/
def decodeRow0 (col w _lit : Nat) : Except Reject Instr :=
  match col with
  | 0 => zeroed (bits w 0 24 == 0) .nop
  | 1 => zeroed (bits w 22 2 == 0) (.mode (fld w 16 6) (fld w 0 16))
  | 2 => zeroed (bits w 0 13 == 0) (.rep (fld w 18 6) (fld w 17 1) (fld w 16 1) (fld w 15 1) (fld w 13 2))
  | 3 => .ok (.wait (fld w 18 6) (fld w 12 6) (fld w 6 6) (fld w 0 6))
  | 4 => zeroed (bits w 0 8 == 0 && bits w 16 8 == 0) (.waitc (fld w 8 8))
  | 5 => zeroed (bits w 8 16 == 0) (.waitg (fld w 0 8))
  | 6 => .ok (.brv (fld w 23 1) (fld w 20 3) (fld w 0 20))
  | 7 => .ok (.bru (fld w 23 1) (fld w 20 3) (fld w 0 20))
  | 8 => .ok (.bnz (fld w 16 8) (fld w 0 16))
  | 9 => .ok (.bz (fld w 16 8) (fld w 0 16))
  | 10 => .ok (.jmp (fld w 0 24))
  | 11 => .ok (.jal (fld w 0 24))
  | 12 => zeroed (bits w 0 8 == 0 && bits w 16 8 == 0) (.jr (fld w 8 8))
  | 13 => zeroed (bits w 16 8 == 0) (.jrv (fld w 8 8) (fld w 0 8))
  | 14 => zeroed (bits w 0 24 == 0) .exit
  | 15 => zeroed (bits w 0 24 == 0) .yield
  | _ => .error .unassigned

/-- System instructions, opcodes 0x10 to 0x1F (R244). -/
def decodeRow1 (col w _lit : Nat) : Except Reject Instr :=
  match col with
  | 0 => zeroed (bits w 16 8 == 0) (.sleep (fld w 0 16))
  | 1 => zeroed (bits w 4 20 == 0) (.bar (fld w 0 4))
  | 2 => zeroed (bits w 0 8 == 0) (.spawn (fld w 16 8) (fld w 8 8))
  | 3 => zeroed (bits w 16 8 == 0) (.syscall (fld w 0 16))
  | 4 => zeroed (bits w 16 8 == 0) (.hvcall (fld w 0 16))
  | 5 => zeroed (bits w 16 8 == 0) (.tret (fld w 8 8) (fld w 0 8))
  | 6 => zeroed (bits w 16 8 == 0) (.breakOp (fld w 0 16))
  | 7 => zeroed (bits w 10 6 == 0) (.xrd (fld w 16 8) (fld w 0 10))
  | 8 => zeroed (bits w 10 6 == 0) (.xwr (fld w 16 8) (fld w 0 10))
  | 9 => zeroed (bits w 5 3 == 0 && bits w 16 8 == 0) (.scopew (fld w 8 8) (fld w 0 5))
  | 10 => zeroed (bits w 3 5 == 0) (.tlbinv (fld w 16 8) (fld w 8 8) (fld w 0 3))
  | 11 => zeroed (bits w 1 15 == 0) (.time (fld w 16 8) (fld w 0 1))
  | 12 => zeroed (bits w 4 12 == 0) (.wid (fld w 16 8) (fld w 0 4))
  | 13 => zeroed (bits w 3 13 == 0) (.lid (fld w 16 8) (fld w 0 3))
  | _ => .error .unassigned

/-- Scalar instructions, opcodes 0x20 to 0x2F (R244). -/
def decodeRow2 (col w _lit : Nat) : Except Reject Instr :=
  match col with
  | 0 => .ok (.sadd (fld w 16 8) (fld w 8 8) (fld w 0 8))
  | 1 => .ok (.ssub (fld w 16 8) (fld w 8 8) (fld w 0 8))
  | 2 => .ok (.smul (fld w 16 8) (fld w 8 8) (fld w 0 8))
  | 3 => .ok (.smulh (fld w 16 8) (fld w 8 8) (fld w 0 8))
  | 4 => .ok (.smulhu (fld w 16 8) (fld w 8 8) (fld w 0 8))
  | 5 => .ok (.sdiv (fld w 16 8) (fld w 8 8) (fld w 0 8))
  | 6 => .ok (.sdivu (fld w 16 8) (fld w 8 8) (fld w 0 8))
  | 7 => .ok (.srem (fld w 16 8) (fld w 8 8) (fld w 0 8))
  | 8 => .ok (.sremu (fld w 16 8) (fld w 8 8) (fld w 0 8))
  | 9 => .ok (.sand (fld w 16 8) (fld w 8 8) (fld w 0 8))
  | 10 => .ok (.sor (fld w 16 8) (fld w 8 8) (fld w 0 8))
  | 11 => .ok (.sxor (fld w 16 8) (fld w 8 8) (fld w 0 8))
  | 12 => .ok (.sshl (fld w 16 8) (fld w 8 8) (fld w 0 8))
  | 13 => .ok (.sshr (fld w 16 8) (fld w 8 8) (fld w 0 8))
  | 14 => .ok (.ssra (fld w 16 8) (fld w 8 8) (fld w 0 8))
  | 15 => .ok (.smin (fld w 16 8) (fld w 8 8) (fld w 0 8))
  | _ => .error .unassigned

/-- Scalar, immediates and select instructions, opcodes 0x30 to 0x3F (R244). -/
def decodeRow3 (col w lit : Nat) : Except Reject Instr :=
  match col with
  | 0 => .ok (.smax (fld w 16 8) (fld w 8 8) (fld w 0 8))
  | 1 => .ok (.sminu (fld w 16 8) (fld w 8 8) (fld w 0 8))
  | 2 => .ok (.smaxu (fld w 16 8) (fld w 8 8) (fld w 0 8))
  | 3 => .ok (.sslt (fld w 16 8) (fld w 8 8) (fld w 0 8))
  | 4 => .ok (.ssltu (fld w 16 8) (fld w 8 8) (fld w 0 8))
  | 5 => .ok (.sseq (fld w 16 8) (fld w 8 8) (fld w 0 8))
  | 6 => .ok (.saddi (fld w 16 8) (fld w 8 8) (fld w 0 8))
  | 7 => .ok (.simm (fld w 16 8) (fld w 0 16))
  | 8 => zeroed (bits w 0 16 == 0) (.slit (fld w 16 8) (fld lit 0 32))
  | 9 => zeroed (bits w 0 8 == 0) (.slith (fld w 16 8) (fld w 8 8) (fld lit 0 32))
  | 10 => zeroed (bits w 0 8 == 0) (.smov (fld w 16 8) (fld w 8 8))
  | 11 => zeroed (bits w 0 8 == 0) (.sclz (fld w 16 8) (fld w 8 8))
  | 12 => zeroed (bits w 0 8 == 0) (.spopc (fld w 16 8) (fld w 8 8))
  | 13 => .ok (.sbfx (fld w 16 8) (fld w 8 8) (fld w 0 8))
  | 14 => .ok (.sbfi (fld w 16 8) (fld w 8 8) (fld w 0 8))
  | 15 => .ok (.ssel (fld w 16 8) (fld w 8 8) (fld w 0 8))
  | _ => .error .unassigned

/-- Vector arithmetic instructions, opcodes 0x40 to 0x4F (R244). -/
def decodeRow4 (col w _lit : Nat) : Except Reject Instr :=
  match col with
  | 0 => .ok (.vadd (fld w 16 8) (fld w 8 8) (fld w 0 8))
  | 1 => .ok (.vsub (fld w 16 8) (fld w 8 8) (fld w 0 8))
  | 2 => .ok (.vmul (fld w 16 8) (fld w 8 8) (fld w 0 8))
  | 3 => .ok (.vfma (fld w 16 8) (fld w 8 8) (fld w 0 8))
  | 4 => .ok (.vfnma (fld w 16 8) (fld w 8 8) (fld w 0 8))
  | 5 => .ok (.vmin (fld w 16 8) (fld w 8 8) (fld w 0 8))
  | 6 => .ok (.vmax (fld w 16 8) (fld w 8 8) (fld w 0 8))
  | 7 => zeroed (bits w 0 8 == 0) (.vabs (fld w 16 8) (fld w 8 8))
  | 8 => zeroed (bits w 0 8 == 0) (.vneg (fld w 16 8) (fld w 8 8))
  | 9 => .ok (.vdiv (fld w 16 8) (fld w 8 8) (fld w 0 8))
  | 10 => zeroed (bits w 0 8 == 0) (.vsqrt (fld w 16 8) (fld w 8 8))
  | 11 => .ok (.vmulh (fld w 16 8) (fld w 8 8) (fld w 0 8))
  | 12 => .ok (.vand (fld w 16 8) (fld w 8 8) (fld w 0 8))
  | 13 => .ok (.vor (fld w 16 8) (fld w 8 8) (fld w 0 8))
  | 14 => .ok (.vxor (fld w 16 8) (fld w 8 8) (fld w 0 8))
  | 15 => zeroed (bits w 0 8 == 0) (.vnot (fld w 16 8) (fld w 8 8))
  | _ => .error .unassigned

/-- Vector bits, moves and compares instructions, opcodes 0x50 to 0x5F (R244). -/
def decodeRow5 (col w lit : Nat) : Except Reject Instr :=
  match col with
  | 0 => .ok (.vshl (fld w 16 8) (fld w 8 8) (fld w 0 8))
  | 1 => .ok (.vshr (fld w 16 8) (fld w 8 8) (fld w 0 8))
  | 2 => zeroed (bits w 0 8 == 0) (.vclz (fld w 16 8) (fld w 8 8))
  | 3 => zeroed (bits w 0 8 == 0) (.vpopc (fld w 16 8) (fld w 8 8))
  | 4 => .ok (.vbfx (fld w 16 8) (fld w 8 8) (fld w 0 8))
  | 5 => .ok (.vbfi (fld w 16 8) (fld w 8 8) (fld w 0 8))
  | 6 => .ok (.vadds (fld w 16 8) (fld w 8 8) (fld w 0 8))
  | 7 => .ok (.vmuls (fld w 16 8) (fld w 8 8) (fld w 0 8))
  | 8 => .ok (.vfmas (fld w 16 8) (fld w 8 8) (fld w 0 8))
  | 9 => .ok (.vimm (fld w 16 8) (fld w 0 16))
  | 10 => zeroed (bits w 0 16 == 0) (.vlit (fld w 16 8) (fld lit 0 32))
  | 11 => zeroed (bits w 0 8 == 0) (.vmov (fld w 16 8) (fld w 8 8))
  | 12 => zeroed (bits w 0 8 == 0) (.vfrs (fld w 16 8) (fld w 8 8))
  | 13 => zeroed (bits w 3 5 == 0) (.vsel (fld w 16 8) (fld w 8 8) (fld w 0 3))
  | 14 => zeroed (bits w 19 5 == 0) (.vcmpeq (fld w 16 3) (fld w 8 8) (fld w 0 8))
  | 15 => zeroed (bits w 19 5 == 0) (.vcmpne (fld w 16 3) (fld w 8 8) (fld w 0 8))
  | _ => .error .unassigned

/-- Predicates, conversions and special functions instructions, opcodes 0x60 to 0x6F (R244). -/
def decodeRow6 (col w _lit : Nat) : Except Reject Instr :=
  match col with
  | 0 => zeroed (bits w 19 5 == 0) (.vcmplt (fld w 16 3) (fld w 8 8) (fld w 0 8))
  | 1 => zeroed (bits w 19 5 == 0) (.vcmple (fld w 16 3) (fld w 8 8) (fld w 0 8))
  | 2 => zeroed (bits w 19 5 == 0) (.vcmpun (fld w 16 3) (fld w 8 8) (fld w 0 8))
  | 3 => zeroed (bits w 3 5 == 0 && bits w 11 5 == 0 && bits w 19 5 == 0) (.pand (fld w 16 3) (fld w 8 3) (fld w 0 3))
  | 4 => zeroed (bits w 3 5 == 0 && bits w 11 5 == 0 && bits w 19 5 == 0) (.por (fld w 16 3) (fld w 8 3) (fld w 0 3))
  | 5 => zeroed (bits w 3 5 == 0 && bits w 11 5 == 0 && bits w 19 5 == 0) (.pxor (fld w 16 3) (fld w 8 3) (fld w 0 3))
  | 6 => zeroed (bits w 0 8 == 0 && bits w 11 5 == 0 && bits w 19 5 == 0) (.pnot (fld w 16 3) (fld w 8 3))
  | 7 => zeroed (bits w 0 8 == 0 && bits w 19 5 == 0) (.pfrs (fld w 16 3) (fld w 8 8))
  | 8 => zeroed (bits w 4 4 == 0) (.vcvt (fld w 16 8) (fld w 8 8) (fld w 0 4))
  | 9 => zeroed (bits w 4 2 == 0) (.vpack (fld w 16 8) (fld w 8 8) (fld w 6 2) (fld w 0 4))
  | 10 => zeroed (bits w 4 1 == 0) (.vunpk (fld w 16 8) (fld w 8 8) (fld w 6 2) (fld w 5 1) (fld w 0 4))
  | 11 => (match w % 256 with
    | 0 => .ok (.vsfuRcp (fld w 16 8) (fld w 8 8))
    | 1 => .ok (.vsfuRsq (fld w 16 8) (fld w 8 8))
    | 2 => .ok (.vsfuLg2 (fld w 16 8) (fld w 8 8))
    | 3 => .ok (.vsfuFexp (fld w 16 8) (fld w 8 8))
    | 4 => .ok (.vsfuSin (fld w 16 8) (fld w 8 8))
    | 5 => .ok (.vsfuCos (fld w 16 8) (fld w 8 8))
    | 6 => .ok (.vsfuTanh (fld w 16 8) (fld w 8 8))
    | 7 => .ok (.vsfuSigm (fld w 16 8) (fld w 8 8))
    | _ => .error .reserved)
  | 12 => zeroed (bits w 0 8 == 0) (.vrndi (fld w 16 8) (fld w 8 8))
  | 13 => .ok (.vxins (fld w 16 8) (fld w 8 8) (fld w 0 8))
  | 14 => zeroed (bits w 0 8 == 0) (.vxext (fld w 16 8) (fld w 8 8))
  | _ => .error .unassigned

/-- Cross-lane instructions, opcodes 0x70 to 0x7F (R244). -/
def decodeRow7 (col w _lit : Nat) : Except Reject Instr :=
  match col with
  | 0 => zeroed (bits w 0 8 == 0 && bits w 11 5 == 0 && bits w 19 5 == 0) (.voteany (fld w 16 3) (fld w 8 3))
  | 1 => zeroed (bits w 0 8 == 0 && bits w 11 5 == 0 && bits w 19 5 == 0) (.voteall (fld w 16 3) (fld w 8 3))
  | 2 => zeroed (bits w 0 8 == 0 && bits w 11 5 == 0) (.vbal (fld w 16 8) (fld w 8 3))
  | 3 => .ok (.shfli (fld w 16 8) (fld w 8 8) (fld w 0 8))
  | 4 => zeroed (bits w 5 3 == 0) (.shflu (fld w 16 8) (fld w 8 8) (fld w 0 5))
  | 5 => zeroed (bits w 5 3 == 0) (.shfld (fld w 16 8) (fld w 8 8) (fld w 0 5))
  | 6 => zeroed (bits w 5 3 == 0) (.shflx (fld w 16 8) (fld w 8 8) (fld w 0 5))
  | 7 => zeroed (bits w 3 5 == 0) (.vred (fld w 16 8) (fld w 8 8) (fld w 0 3))
  | 8 => zeroed (bits w 4 4 == 0) (.vscan (fld w 16 8) (fld w 8 8) (fld w 3 1) (fld w 0 3))
  | 9 => zeroed (bits w 0 8 == 0 && bits w 16 8 == 0) (.vmemb (fld w 8 8))
  | 10 => .ok (.vtos (fld w 16 8) (fld w 8 8) (fld w 0 8))
  | _ => .error .unassigned

/-- Level-index instructions, opcodes 0x80 to 0x8F (R244). -/
def decodeRow8 (col w _lit : Nat) : Except Reject Instr :=
  match col with
  | 0 => .ok (.liadd (fld w 16 8) (fld w 8 8) (fld w 0 8))
  | 1 => .ok (.lisub (fld w 16 8) (fld w 8 8) (fld w 0 8))
  | 2 => .ok (.limul (fld w 16 8) (fld w 8 8) (fld w 0 8))
  | 3 => .ok (.lidiv (fld w 16 8) (fld w 8 8) (fld w 0 8))
  | 4 => zeroed (bits w 19 5 == 0) (.liclt (fld w 16 3) (fld w 8 8) (fld w 0 8))
  | 5 => zeroed (bits w 19 5 == 0) (.liceq (fld w 16 3) (fld w 8 8) (fld w 0 8))
  | 6 => zeroed (bits w 0 8 == 0) (.lineg (fld w 16 8) (fld w 8 8))
  | 7 => zeroed (bits w 0 8 == 0) (.liabs (fld w 16 8) (fld w 8 8))
  | 8 => zeroed (bits w 4 4 == 0) (.litof (fld w 16 8) (fld w 8 8) (fld w 0 4))
  | 9 => zeroed (bits w 4 4 == 0) (.lifrf (fld w 16 8) (fld w 8 8) (fld w 0 4))
  | 10 => zeroed (bits w 4 4 == 0) (.litoi (fld w 16 8) (fld w 8 8) (fld w 0 4))
  | 11 => zeroed (bits w 4 4 == 0) (.lifri (fld w 16 8) (fld w 8 8) (fld w 0 4))
  | 12 => zeroed (bits w 2 6 == 0) (.lilvl (fld w 16 8) (fld w 8 8) (fld w 0 2))
  | _ => .error .unassigned

/-- Lane and scalar memory instructions, opcodes 0x90 to 0x9F (R244). -/
def decodeRow9 (col w _lit : Nat) : Except Reject Instr :=
  match col with
  | 0 => .ok (.vld8s (fld w 16 8) (fld w 8 8) (fld w 0 8))
  | 1 => .ok (.vld8z (fld w 16 8) (fld w 8 8) (fld w 0 8))
  | 2 => .ok (.vld16s (fld w 16 8) (fld w 8 8) (fld w 0 8))
  | 3 => .ok (.vld16z (fld w 16 8) (fld w 8 8) (fld w 0 8))
  | 4 => .ok (.vld32 (fld w 16 8) (fld w 8 8) (fld w 0 8))
  | 5 => .ok (.vld64 (fld w 16 8) (fld w 8 8) (fld w 0 8))
  | 6 => .ok (.vld128 (fld w 16 8) (fld w 8 8) (fld w 0 8))
  | 7 => .ok (.vst8 (fld w 16 8) (fld w 8 8) (fld w 0 8))
  | 8 => .ok (.vst16 (fld w 16 8) (fld w 8 8) (fld w 0 8))
  | 9 => .ok (.vst32 (fld w 16 8) (fld w 8 8) (fld w 0 8))
  | 10 => .ok (.vst64 (fld w 16 8) (fld w 8 8) (fld w 0 8))
  | 11 => .ok (.vst128 (fld w 16 8) (fld w 8 8) (fld w 0 8))
  | 12 => .ok (.sld32 (fld w 16 8) (fld w 8 8) (fld w 0 8))
  | 13 => .ok (.sld64 (fld w 16 8) (fld w 8 8) (fld w 0 8))
  | 14 => .ok (.sst32 (fld w 16 8) (fld w 8 8) (fld w 0 8))
  | 15 => .ok (.sst64 (fld w 16 8) (fld w 8 8) (fld w 0 8))
  | _ => .error .unassigned

/-- Typed-buffer memory, ordering, atomics and commands instructions, opcodes 0xA0 to 0xAF (R244). -/
def decodeRowA (col w lit : Nat) : Except Reject Instr :=
  match col with
  | 0 => .ok (.ald32 (fld w 16 8) (fld w 8 8) (fld w 0 8))
  | 1 => .ok (.ald128 (fld w 16 8) (fld w 8 8) (fld w 0 8))
  | 2 => .ok (.ast32 (fld w 16 8) (fld w 8 8) (fld w 0 8))
  | 3 => .ok (.ast128 (fld w 16 8) (fld w 8 8) (fld w 0 8))
  | 4 => .ok (.cld64 (fld w 16 8) (fld w 8 8) (fld w 0 8))
  | 5 => .ok (.cst64 (fld w 16 8) (fld w 8 8) (fld w 0 8))
  | 6 => zeroed (bits w 5 3 == 0) (.vlda (fld w 16 8) (fld w 8 8) (fld w 0 5))
  | 7 => zeroed (bits w 5 3 == 0) (.vstl (fld w 16 8) (fld w 8 8) (fld w 0 5))
  | 8 => zeroed (bits w 5 19 == 0) (.fence (fld w 0 5))
  | 9 => .ok (.vatom (fld w 16 8) (fld w 8 8) (fld w 0 8) (fld lit 0 32))
  | 10 => .ok (.satom (fld w 16 8) (fld w 8 8) (fld w 0 8) (fld lit 0 32))
  | 11 => .ok (.vcas (fld w 16 8) (fld w 8 8) (fld w 0 8) (fld lit 0 32))
  | 12 => zeroed (bits w 16 8 == 0) (.mred (fld w 8 8) (fld w 0 8) (fld lit 0 32))
  | 13 => .ok (.mcas (fld w 16 8) (fld w 8 8) (fld w 0 8) (fld lit 0 32))
  | 14 => .ok (.msax (fld w 16 8) (fld w 8 8) (fld w 0 8) (fld lit 0 32))
  | 15 => .ok (.mwrm (fld w 16 8) (fld w 8 8) (fld w 0 8) (fld lit 0 32))
  | _ => .error .unassigned

/-- Outrider, copies and cache maintenance instructions, opcodes 0xB0 to 0xBF (R244). -/
def decodeRowB (col w lit : Nat) : Except Reject Instr :=
  match col with
  | 0 => zeroed (bits w 19 5 == 0) (.qld (fld w 16 3) (fld w 8 8) (fld w 0 8) (fld lit 0 32))
  | 1 => zeroed (bits w 19 5 == 0) (.qst (fld w 16 3) (fld w 8 8) (fld w 0 8) (fld lit 0 32))
  | 2 => zeroed (bits w 19 5 == 0) (.qgat (fld w 16 3) (fld w 8 8) (fld w 0 8) (fld lit 0 32))
  | 3 => zeroed (bits w 3 13 == 0) (.qcnt (fld w 16 8) (fld w 0 3))
  | 4 => zeroed (bits w 0 24 == 0) .qend
  | 5 => .ok (.copy (fld w 16 8) (fld w 8 8) (fld w 0 8) (fld lit 0 32))
  | 6 => zeroed (bits w 0 16 == 0) (.sealCart (fld w 16 8))
  | 7 => zeroed (bits w 2 14 == 0) (.rdwp (fld w 16 8) (fld w 0 2))
  | 8 => .ok (.strm (fld w 16 8) (fld w 8 8) (fld w 0 8) (fld lit 0 32))
  | 9 => zeroed (bits w 16 8 == 0) (.cflush (fld w 8 8) (fld w 0 8))
  | 10 => zeroed (bits w 16 8 == 0) (.cinv (fld w 8 8) (fld w 0 8))
  | 11 => zeroed (bits w 2 6 == 0 && bits w 16 8 == 0) (.chint (fld w 8 8) (fld w 0 2))
  | _ => .error .unassigned

/-- Matrix instructions, opcodes 0xC0 to 0xCF (R244). -/
def decodeRowC (col w lit : Nat) : Except Reject Instr :=
  match col with
  | 0 => zeroed (bits w 18 6 == 0) (.fmtl (fld w 16 2) (fld w 8 8) (fld w 0 8))
  | 1 => zeroed (bits w 0 8 == 0 && bits w 18 6 == 0) (.bld (fld w 16 2) (fld w 8 8))
  | 2 => zeroed (bits w 18 6 == 0) (.bgat (fld w 16 2) (fld w 8 8) (fld w 0 8))
  | 3 => zeroed (bits w 8 16 == 0) (.tzero (fld w 0 8))
  | 4 => zeroed (bits w 21 3 == 0) (.tmul (fld w 19 2) (fld w 16 3) (fld w 8 8) (fld w 0 8))
  | 5 => zeroed (bits w 21 3 == 0) (.tdrain (fld w 19 2) (fld w 16 3) (fld w 8 8) (fld w 0 8))
  | 6 => .ok (.cred (fld w 16 8) (fld w 8 8) (fld w 0 8) (fld lit 0 32))
  | 7 => zeroed (bits w 3 13 == 0) (.tstat (fld w 16 8) (fld w 0 3))
  | _ => .error .unassigned

/-- The row of the opcode map (R244) that an opcode lies in, applied to its column. -/
def decodeOp (row col w lit : Nat) : Except Reject Instr :=
  match row with
  | 0 => decodeRow0 col w lit
  | 1 => decodeRow1 col w lit
  | 2 => decodeRow2 col w lit
  | 3 => decodeRow3 col w lit
  | 4 => decodeRow4 col w lit
  | 5 => decodeRow5 col w lit
  | 6 => decodeRow6 col w lit
  | 7 => decodeRow7 col w lit
  | 8 => decodeRow8 col w lit
  | 9 => decodeRow9 col w lit
  | 10 => decodeRowA col w lit
  | 11 => decodeRowB col w lit
  | 12 => decodeRowC col w lit
  | _ => .error .unassigned

/-- The instruction of a first word and the word after it (R237 to R246): reserved values are refused. -/
def decodeWords (w lit : Nat) : Except Reject Instr :=
  match decodeOp (bits w 28 4) (bits w 24 4) w lit with
  | .error e => .error e
  | .ok i => if wellFormed i then .ok i else .error .reserved

/-- A word with the given fields above its fixed bits. -/
def word (base : Nat) (fs : List (Nat × Nat)) : List Nat := [fs.foldl (fun n f => n + f.1 * 2 ^ f.2) base]

/-- The words of an instruction, first word first (R237, R238); an event has none. -/
def encode : Instr → List Nat
  | .nop => word 0x00000000 []
  | .mode m v => word 0x01000000 [(m.toNat, 16), (v.toNat, 0)]
  | .rep c d a b s => word 0x02000000 [(c.toNat, 18), (d.toNat, 17), (a.toNat, 16), (b.toNat, 15), (s.toNat, 13)]
  | .wait l s c t => word 0x03000000 [(l.toNat, 18), (s.toNat, 12), (c.toNat, 6), (t.toNat, 0)]
  | .waitc a => word 0x04000000 [(a.toNat, 8)]
  | .waitg m => word 0x05000000 [(m.toNat, 0)]
  | .brv i p o => word 0x06000000 [(i.toNat, 23), (p.toNat, 20), (o.toNat, 0)]
  | .bru i p o => word 0x07000000 [(i.toNat, 23), (p.toNat, 20), (o.toNat, 0)]
  | .bnz d i => word 0x08000000 [(d.toNat, 16), (i.toNat, 0)]
  | .bz d i => word 0x09000000 [(d.toNat, 16), (i.toNat, 0)]
  | .jmp o => word 0x0A000000 [(o.toNat, 0)]
  | .jal o => word 0x0B000000 [(o.toNat, 0)]
  | .jr a => word 0x0C000000 [(a.toNat, 8)]
  | .jrv a b => word 0x0D000000 [(a.toNat, 8), (b.toNat, 0)]
  | .exit => word 0x0E000000 []
  | .yield => word 0x0F000000 []
  | .sleep n => word 0x10000000 [(n.toNat, 0)]
  | .bar n => word 0x11000000 [(n.toNat, 0)]
  | .spawn d a => word 0x12000000 [(d.toNat, 16), (a.toNat, 8)]
  | .syscall n => word 0x13000000 [(n.toNat, 0)]
  | .hvcall n => word 0x14000000 [(n.toNat, 0)]
  | .tret a b => word 0x15000000 [(a.toNat, 8), (b.toNat, 0)]
  | .breakOp n => word 0x16000000 [(n.toNat, 0)]
  | .xrd d r => word 0x17000000 [(d.toNat, 16), (r.toNat, 0)]
  | .xwr d r => word 0x18000000 [(d.toNat, 16), (r.toNat, 0)]
  | .scopew a n => word 0x19000000 [(a.toNat, 8), (n.toNat, 0)]
  | .tlbinv d a k => word 0x1A000000 [(d.toNat, 16), (a.toNat, 8), (k.toNat, 0)]
  | .time d c => word 0x1B000000 [(d.toNat, 16), (c.toNat, 0)]
  | .wid d f => word 0x1C000000 [(d.toNat, 16), (f.toNat, 0)]
  | .lid d f => word 0x1D000000 [(d.toNat, 16), (f.toNat, 0)]
  | .sadd d a b => word 0x20000000 [(d.toNat, 16), (a.toNat, 8), (b.toNat, 0)]
  | .ssub d a b => word 0x21000000 [(d.toNat, 16), (a.toNat, 8), (b.toNat, 0)]
  | .smul d a b => word 0x22000000 [(d.toNat, 16), (a.toNat, 8), (b.toNat, 0)]
  | .smulh d a b => word 0x23000000 [(d.toNat, 16), (a.toNat, 8), (b.toNat, 0)]
  | .smulhu d a b => word 0x24000000 [(d.toNat, 16), (a.toNat, 8), (b.toNat, 0)]
  | .sdiv d a b => word 0x25000000 [(d.toNat, 16), (a.toNat, 8), (b.toNat, 0)]
  | .sdivu d a b => word 0x26000000 [(d.toNat, 16), (a.toNat, 8), (b.toNat, 0)]
  | .srem d a b => word 0x27000000 [(d.toNat, 16), (a.toNat, 8), (b.toNat, 0)]
  | .sremu d a b => word 0x28000000 [(d.toNat, 16), (a.toNat, 8), (b.toNat, 0)]
  | .sand d a b => word 0x29000000 [(d.toNat, 16), (a.toNat, 8), (b.toNat, 0)]
  | .sor d a b => word 0x2A000000 [(d.toNat, 16), (a.toNat, 8), (b.toNat, 0)]
  | .sxor d a b => word 0x2B000000 [(d.toNat, 16), (a.toNat, 8), (b.toNat, 0)]
  | .sshl d a b => word 0x2C000000 [(d.toNat, 16), (a.toNat, 8), (b.toNat, 0)]
  | .sshr d a b => word 0x2D000000 [(d.toNat, 16), (a.toNat, 8), (b.toNat, 0)]
  | .ssra d a b => word 0x2E000000 [(d.toNat, 16), (a.toNat, 8), (b.toNat, 0)]
  | .smin d a b => word 0x2F000000 [(d.toNat, 16), (a.toNat, 8), (b.toNat, 0)]
  | .smax d a b => word 0x30000000 [(d.toNat, 16), (a.toNat, 8), (b.toNat, 0)]
  | .sminu d a b => word 0x31000000 [(d.toNat, 16), (a.toNat, 8), (b.toNat, 0)]
  | .smaxu d a b => word 0x32000000 [(d.toNat, 16), (a.toNat, 8), (b.toNat, 0)]
  | .sslt d a b => word 0x33000000 [(d.toNat, 16), (a.toNat, 8), (b.toNat, 0)]
  | .ssltu d a b => word 0x34000000 [(d.toNat, 16), (a.toNat, 8), (b.toNat, 0)]
  | .sseq d a b => word 0x35000000 [(d.toNat, 16), (a.toNat, 8), (b.toNat, 0)]
  | .saddi d a i => word 0x36000000 [(d.toNat, 16), (a.toNat, 8), (i.toNat, 0)]
  | .simm d i => word 0x37000000 [(d.toNat, 16), (i.toNat, 0)]
  | .slit d lit => word 0x38000000 [(d.toNat, 16)] ++ [lit.toNat]
  | .slith d a lit => word 0x39000000 [(d.toNat, 16), (a.toNat, 8)] ++ [lit.toNat]
  | .smov d a => word 0x3A000000 [(d.toNat, 16), (a.toNat, 8)]
  | .sclz d a => word 0x3B000000 [(d.toNat, 16), (a.toNat, 8)]
  | .spopc d a => word 0x3C000000 [(d.toNat, 16), (a.toNat, 8)]
  | .sbfx d a b => word 0x3D000000 [(d.toNat, 16), (a.toNat, 8), (b.toNat, 0)]
  | .sbfi d a b => word 0x3E000000 [(d.toNat, 16), (a.toNat, 8), (b.toNat, 0)]
  | .ssel d a b => word 0x3F000000 [(d.toNat, 16), (a.toNat, 8), (b.toNat, 0)]
  | .vadd d a b => word 0x40000000 [(d.toNat, 16), (a.toNat, 8), (b.toNat, 0)]
  | .vsub d a b => word 0x41000000 [(d.toNat, 16), (a.toNat, 8), (b.toNat, 0)]
  | .vmul d a b => word 0x42000000 [(d.toNat, 16), (a.toNat, 8), (b.toNat, 0)]
  | .vfma d a b => word 0x43000000 [(d.toNat, 16), (a.toNat, 8), (b.toNat, 0)]
  | .vfnma d a b => word 0x44000000 [(d.toNat, 16), (a.toNat, 8), (b.toNat, 0)]
  | .vmin d a b => word 0x45000000 [(d.toNat, 16), (a.toNat, 8), (b.toNat, 0)]
  | .vmax d a b => word 0x46000000 [(d.toNat, 16), (a.toNat, 8), (b.toNat, 0)]
  | .vabs d a => word 0x47000000 [(d.toNat, 16), (a.toNat, 8)]
  | .vneg d a => word 0x48000000 [(d.toNat, 16), (a.toNat, 8)]
  | .vdiv d a b => word 0x49000000 [(d.toNat, 16), (a.toNat, 8), (b.toNat, 0)]
  | .vsqrt d a => word 0x4A000000 [(d.toNat, 16), (a.toNat, 8)]
  | .vmulh d a b => word 0x4B000000 [(d.toNat, 16), (a.toNat, 8), (b.toNat, 0)]
  | .vand d a b => word 0x4C000000 [(d.toNat, 16), (a.toNat, 8), (b.toNat, 0)]
  | .vor d a b => word 0x4D000000 [(d.toNat, 16), (a.toNat, 8), (b.toNat, 0)]
  | .vxor d a b => word 0x4E000000 [(d.toNat, 16), (a.toNat, 8), (b.toNat, 0)]
  | .vnot d a => word 0x4F000000 [(d.toNat, 16), (a.toNat, 8)]
  | .vshl d a b => word 0x50000000 [(d.toNat, 16), (a.toNat, 8), (b.toNat, 0)]
  | .vshr d a b => word 0x51000000 [(d.toNat, 16), (a.toNat, 8), (b.toNat, 0)]
  | .vclz d a => word 0x52000000 [(d.toNat, 16), (a.toNat, 8)]
  | .vpopc d a => word 0x53000000 [(d.toNat, 16), (a.toNat, 8)]
  | .vbfx d a b => word 0x54000000 [(d.toNat, 16), (a.toNat, 8), (b.toNat, 0)]
  | .vbfi d a b => word 0x55000000 [(d.toNat, 16), (a.toNat, 8), (b.toNat, 0)]
  | .vadds d a b => word 0x56000000 [(d.toNat, 16), (a.toNat, 8), (b.toNat, 0)]
  | .vmuls d a b => word 0x57000000 [(d.toNat, 16), (a.toNat, 8), (b.toNat, 0)]
  | .vfmas d a b => word 0x58000000 [(d.toNat, 16), (a.toNat, 8), (b.toNat, 0)]
  | .vimm d i => word 0x59000000 [(d.toNat, 16), (i.toNat, 0)]
  | .vlit d lit => word 0x5A000000 [(d.toNat, 16)] ++ [lit.toNat]
  | .vmov d a => word 0x5B000000 [(d.toNat, 16), (a.toNat, 8)]
  | .vfrs d a => word 0x5C000000 [(d.toNat, 16), (a.toNat, 8)]
  | .vsel d a p => word 0x5D000000 [(d.toNat, 16), (a.toNat, 8), (p.toNat, 0)]
  | .vcmpeq d a b => word 0x5E000000 [(d.toNat, 16), (a.toNat, 8), (b.toNat, 0)]
  | .vcmpne d a b => word 0x5F000000 [(d.toNat, 16), (a.toNat, 8), (b.toNat, 0)]
  | .vcmplt d a b => word 0x60000000 [(d.toNat, 16), (a.toNat, 8), (b.toNat, 0)]
  | .vcmple d a b => word 0x61000000 [(d.toNat, 16), (a.toNat, 8), (b.toNat, 0)]
  | .vcmpun d a b => word 0x62000000 [(d.toNat, 16), (a.toNat, 8), (b.toNat, 0)]
  | .pand d a b => word 0x63000000 [(d.toNat, 16), (a.toNat, 8), (b.toNat, 0)]
  | .por d a b => word 0x64000000 [(d.toNat, 16), (a.toNat, 8), (b.toNat, 0)]
  | .pxor d a b => word 0x65000000 [(d.toNat, 16), (a.toNat, 8), (b.toNat, 0)]
  | .pnot d a => word 0x66000000 [(d.toNat, 16), (a.toNat, 8)]
  | .pfrs d a => word 0x67000000 [(d.toNat, 16), (a.toNat, 8)]
  | .vcvt d a t => word 0x68000000 [(d.toNat, 16), (a.toNat, 8), (t.toNat, 0)]
  | .vpack d a w k => word 0x69000000 [(d.toNat, 16), (a.toNat, 8), (w.toNat, 6), (k.toNat, 0)]
  | .vunpk d a w s k => word 0x6A000000 [(d.toNat, 16), (a.toNat, 8), (w.toNat, 6), (s.toNat, 5), (k.toNat, 0)]
  | .vsfuRcp d a => word 0x6B000000 [(d.toNat, 16), (a.toNat, 8)]
  | .vsfuRsq d a => word 0x6B000001 [(d.toNat, 16), (a.toNat, 8)]
  | .vsfuLg2 d a => word 0x6B000002 [(d.toNat, 16), (a.toNat, 8)]
  | .vsfuFexp d a => word 0x6B000003 [(d.toNat, 16), (a.toNat, 8)]
  | .vsfuSin d a => word 0x6B000004 [(d.toNat, 16), (a.toNat, 8)]
  | .vsfuCos d a => word 0x6B000005 [(d.toNat, 16), (a.toNat, 8)]
  | .vsfuTanh d a => word 0x6B000006 [(d.toNat, 16), (a.toNat, 8)]
  | .vsfuSigm d a => word 0x6B000007 [(d.toNat, 16), (a.toNat, 8)]
  | .vrndi d a => word 0x6C000000 [(d.toNat, 16), (a.toNat, 8)]
  | .vxins d a b => word 0x6D000000 [(d.toNat, 16), (a.toNat, 8), (b.toNat, 0)]
  | .vxext d a => word 0x6E000000 [(d.toNat, 16), (a.toNat, 8)]
  | .voteany d a => word 0x70000000 [(d.toNat, 16), (a.toNat, 8)]
  | .voteall d a => word 0x71000000 [(d.toNat, 16), (a.toNat, 8)]
  | .vbal d a => word 0x72000000 [(d.toNat, 16), (a.toNat, 8)]
  | .shfli d a b => word 0x73000000 [(d.toNat, 16), (a.toNat, 8), (b.toNat, 0)]
  | .shflu d a n => word 0x74000000 [(d.toNat, 16), (a.toNat, 8), (n.toNat, 0)]
  | .shfld d a n => word 0x75000000 [(d.toNat, 16), (a.toNat, 8), (n.toNat, 0)]
  | .shflx d a n => word 0x76000000 [(d.toNat, 16), (a.toNat, 8), (n.toNat, 0)]
  | .vred d a o => word 0x77000000 [(d.toNat, 16), (a.toNat, 8), (o.toNat, 0)]
  | .vscan d a e o => word 0x78000000 [(d.toNat, 16), (a.toNat, 8), (e.toNat, 3), (o.toNat, 0)]
  | .vmemb a => word 0x79000000 [(a.toNat, 8)]
  | .vtos d a l => word 0x7A000000 [(d.toNat, 16), (a.toNat, 8), (l.toNat, 0)]
  | .liadd d a b => word 0x80000000 [(d.toNat, 16), (a.toNat, 8), (b.toNat, 0)]
  | .lisub d a b => word 0x81000000 [(d.toNat, 16), (a.toNat, 8), (b.toNat, 0)]
  | .limul d a b => word 0x82000000 [(d.toNat, 16), (a.toNat, 8), (b.toNat, 0)]
  | .lidiv d a b => word 0x83000000 [(d.toNat, 16), (a.toNat, 8), (b.toNat, 0)]
  | .liclt d a b => word 0x84000000 [(d.toNat, 16), (a.toNat, 8), (b.toNat, 0)]
  | .liceq d a b => word 0x85000000 [(d.toNat, 16), (a.toNat, 8), (b.toNat, 0)]
  | .lineg d a => word 0x86000000 [(d.toNat, 16), (a.toNat, 8)]
  | .liabs d a => word 0x87000000 [(d.toNat, 16), (a.toNat, 8)]
  | .litof d a t => word 0x88000000 [(d.toNat, 16), (a.toNat, 8), (t.toNat, 0)]
  | .lifrf d a t => word 0x89000000 [(d.toNat, 16), (a.toNat, 8), (t.toNat, 0)]
  | .litoi d a t => word 0x8A000000 [(d.toNat, 16), (a.toNat, 8), (t.toNat, 0)]
  | .lifri d a t => word 0x8B000000 [(d.toNat, 16), (a.toNat, 8), (t.toNat, 0)]
  | .lilvl d a f => word 0x8C000000 [(d.toNat, 16), (a.toNat, 8), (f.toNat, 0)]
  | .vld8s d a i => word 0x90000000 [(d.toNat, 16), (a.toNat, 8), (i.toNat, 0)]
  | .vld8z d a i => word 0x91000000 [(d.toNat, 16), (a.toNat, 8), (i.toNat, 0)]
  | .vld16s d a i => word 0x92000000 [(d.toNat, 16), (a.toNat, 8), (i.toNat, 0)]
  | .vld16z d a i => word 0x93000000 [(d.toNat, 16), (a.toNat, 8), (i.toNat, 0)]
  | .vld32 d a i => word 0x94000000 [(d.toNat, 16), (a.toNat, 8), (i.toNat, 0)]
  | .vld64 d a i => word 0x95000000 [(d.toNat, 16), (a.toNat, 8), (i.toNat, 0)]
  | .vld128 d a i => word 0x96000000 [(d.toNat, 16), (a.toNat, 8), (i.toNat, 0)]
  | .vst8 d a i => word 0x97000000 [(d.toNat, 16), (a.toNat, 8), (i.toNat, 0)]
  | .vst16 d a i => word 0x98000000 [(d.toNat, 16), (a.toNat, 8), (i.toNat, 0)]
  | .vst32 d a i => word 0x99000000 [(d.toNat, 16), (a.toNat, 8), (i.toNat, 0)]
  | .vst64 d a i => word 0x9A000000 [(d.toNat, 16), (a.toNat, 8), (i.toNat, 0)]
  | .vst128 d a i => word 0x9B000000 [(d.toNat, 16), (a.toNat, 8), (i.toNat, 0)]
  | .sld32 d a i => word 0x9C000000 [(d.toNat, 16), (a.toNat, 8), (i.toNat, 0)]
  | .sld64 d a i => word 0x9D000000 [(d.toNat, 16), (a.toNat, 8), (i.toNat, 0)]
  | .sst32 d a i => word 0x9E000000 [(d.toNat, 16), (a.toNat, 8), (i.toNat, 0)]
  | .sst64 d a i => word 0x9F000000 [(d.toNat, 16), (a.toNat, 8), (i.toNat, 0)]
  | .ald32 d a i => word 0xA0000000 [(d.toNat, 16), (a.toNat, 8), (i.toNat, 0)]
  | .ald128 d a i => word 0xA1000000 [(d.toNat, 16), (a.toNat, 8), (i.toNat, 0)]
  | .ast32 d a i => word 0xA2000000 [(d.toNat, 16), (a.toNat, 8), (i.toNat, 0)]
  | .ast128 d a i => word 0xA3000000 [(d.toNat, 16), (a.toNat, 8), (i.toNat, 0)]
  | .cld64 d a i => word 0xA4000000 [(d.toNat, 16), (a.toNat, 8), (i.toNat, 0)]
  | .cst64 d a i => word 0xA5000000 [(d.toNat, 16), (a.toNat, 8), (i.toNat, 0)]
  | .vlda d a s => word 0xA6000000 [(d.toNat, 16), (a.toNat, 8), (s.toNat, 0)]
  | .vstl d a s => word 0xA7000000 [(d.toNat, 16), (a.toNat, 8), (s.toNat, 0)]
  | .fence s => word 0xA8000000 [(s.toNat, 0)]
  | .vatom d a b lit => word 0xA9000000 [(d.toNat, 16), (a.toNat, 8), (b.toNat, 0)] ++ [lit.toNat]
  | .satom d a b lit => word 0xAA000000 [(d.toNat, 16), (a.toNat, 8), (b.toNat, 0)] ++ [lit.toNat]
  | .vcas d a b lit => word 0xAB000000 [(d.toNat, 16), (a.toNat, 8), (b.toNat, 0)] ++ [lit.toNat]
  | .mred a b lit => word 0xAC000000 [(a.toNat, 8), (b.toNat, 0)] ++ [lit.toNat]
  | .mcas d a b lit => word 0xAD000000 [(d.toNat, 16), (a.toNat, 8), (b.toNat, 0)] ++ [lit.toNat]
  | .msax d a b lit => word 0xAE000000 [(d.toNat, 16), (a.toNat, 8), (b.toNat, 0)] ++ [lit.toNat]
  | .mwrm d a b lit => word 0xAF000000 [(d.toNat, 16), (a.toNat, 8), (b.toNat, 0)] ++ [lit.toNat]
  | .qld q a b lit => word 0xB0000000 [(q.toNat, 16), (a.toNat, 8), (b.toNat, 0)] ++ [lit.toNat]
  | .qst q a b lit => word 0xB1000000 [(q.toNat, 16), (a.toNat, 8), (b.toNat, 0)] ++ [lit.toNat]
  | .qgat q a b lit => word 0xB2000000 [(q.toNat, 16), (a.toNat, 8), (b.toNat, 0)] ++ [lit.toNat]
  | .qcnt d q => word 0xB3000000 [(d.toNat, 16), (q.toNat, 0)]
  | .qend => word 0xB4000000 []
  | .copy d a b lit => word 0xB5000000 [(d.toNat, 16), (a.toNat, 8), (b.toNat, 0)] ++ [lit.toNat]
  | .sealCart d => word 0xB6000000 [(d.toNat, 16)]
  | .rdwp d k => word 0xB7000000 [(d.toNat, 16), (k.toNat, 0)]
  | .strm d a b lit => word 0xB8000000 [(d.toNat, 16), (a.toNat, 8), (b.toNat, 0)] ++ [lit.toNat]
  | .cflush a b => word 0xB9000000 [(a.toNat, 8), (b.toNat, 0)]
  | .cinv a b => word 0xBA000000 [(a.toNat, 8), (b.toNat, 0)]
  | .chint a h => word 0xBB000000 [(a.toNat, 8), (h.toNat, 0)]
  | .fmtl n a i => word 0xC0000000 [(n.toNat, 16), (a.toNat, 8), (i.toNat, 0)]
  | .bld n a => word 0xC1000000 [(n.toNat, 16), (a.toNat, 8)]
  | .bgat n a b => word 0xC2000000 [(n.toNat, 16), (a.toNat, 8), (b.toNat, 0)]
  | .tzero m => word 0xC3000000 [(m.toNat, 0)]
  | .tmul n t a b => word 0xC4000000 [(n.toNat, 19), (t.toNat, 16), (a.toNat, 8), (b.toNat, 0)]
  | .tdrain n t a b => word 0xC5000000 [(n.toNat, 19), (t.toNat, 16), (a.toNat, 8), (b.toNat, 0)]
  | .cred d a b lit => word 0xC6000000 [(d.toNat, 16), (a.toNat, 8), (b.toNat, 0)] ++ [lit.toNat]
  | .tstat d s => word 0xC7000000 [(d.toNat, 16), (s.toNat, 0)]
  | .powerGood => []
  | .moduleReset => []
  | .fwLoad _ => []
  | .imageCheckDone _ => []
  | .stageS2Entry _ _ => []
  | .bootstageGo => []
  | .vfFlr _ => []
  | .hostBar2Write _ _ _ _ => []
  | .hostBar2Read _ _ _ _ => []
  | .spdmRequest => []
  | .registerWrite _ _ _ _ _ => []
  | .fwDoorbellWrite _ _ => []
  | .fwSlotMap _ _ => []
  | .fwSlotUnmap _ => []
  | .fwSlotHostown _ _ => []
  | .firmwareRound => []
  | .queueSlotRotation => []
  | .dispatcherTakeBatch _ _ => []
  | .trainPlace _ _ _ => []
  | .gangStart _ => []
  | .ctxEvict _ _ => []
  | .ctxRestore _ _ => []
  | .coachSave _ => []
  | .coachRestore _ => []
  | .ctxFresumeRetry _ => []
  | .ctxFresumeDeliver _ => []
  | .eventStoreFlush _ => []
  | .svTeardownWrite _ => []
  | .teardownComplete => []
  | .svStatusNestWrite _ _ => []
  | .parkRequest _ => []
  | .unparkRequest _ => []
  | .parkEntryStart _ => []
  | .parkCutOver _ => []
  | .parkExitComplete _ => []
  | .pscapWrite _ => []
  | .powerEpoch _ => []
  | .psStepComplete _ => []
  | .tokenRequest _ => []
  | .tokenGrant _ => []
  | .thermalSample _ _ => []
  | .throttleChange _ => []
  | .holdChange _ => []
  | .bankRefresh _ _ _ _ => []
  | .gainCellRefreshSteal _ => []
  | .testerStart _ _ => []
  | .testerYield _ _ => []
  | .groupTestDone _ _ _ => []
  | .repairComplete _ _ => []
  | .bankOperation _ _ => []
  | .commandReply _ => []
  | .loadReturn _ _ => []
  | .storePerformed _ _ => []
  | .cacheFillReturn _ _ _ _ => []
  | .l1OwnershipGrant _ _ _ _ => []
  | .ownershipRecall _ => []
  | .atomicExecute _ _ => []
  | .translationWalk _ => []
  | .tableReadReturn _ _ _ => []
  | .tlbinvArrive _ _ => []
  | .tlbinvComplete _ => []
  | .scopewComplete _ => []
  | .pageScanStart _ _ => []
  | .pageScanDone _ _ => []
  | .copyAccept _ => []
  | .copyStart _ => []
  | .streamWindowGrant _ => []
  | .copyPieceWrite _ _ _ _ => []
  | .streamPacketReceive _ _ => []
  | .streamCredit _ => []
  | .streamErrorReport _ => []
  | .streamCloseDone _ => []
  | .ringPacketArrive _ => []
  | .flitReplay _ _ => []
  | .linkRetrainStart _ _ => []
  | .linkRetrainComplete _ _ => []
  | .hopDown _ => []
  | .routeSwitchComplete => []
  | .peerRequestArrive _ _ _ _ _ => []
  | .peerLinkDown _ => []
  | .peerPortRetry _ _ => []
  | .reductionPacket _ => []
  | .reductionResult _ _ => []
  | .carriageDemote _ => []
  | .yieldExpire _ => []
  | .sleepWake _ => []
  | .waitConditionMet _ => []
  | .waitcConditionMet _ => []
  | .waitgConditionMet _ => []
  | .fenceConditionMet _ => []
  | .exitWaitEnd _ => []
  | .barrierDepart _ _ => []
  | .queueElementFill _ _ => []
  | .queueEntryDrain _ _ => []
  | .outriderEnd _ => []
  | .bayTimerExpire _ _ _ => []
  | .yardCoachForm _ _ _ _ => []
  | .matrixInstructionStart _ _ => []
  | .matrixInstructionEnd _ _ => []
  | .fetchFault _ => []
  | .completionTimeout _ => []

/-- How many registers from a field's number on an operand takes (R243). -/
inductive Span where
  | regs (n : Nat)
  /-- One register, or a pair under int64 (R286). -/
  | elem
  deriving DecidableEq, Repr

/-- One register operand of an instruction (R240): the register file, which field of the word names it, the number, how many
registers follow, and whether the instruction reads or writes them. -/
structure Operand where
  /-- `true` for a vector register, `false` for a scalar one. -/
  vec : Bool
  /-- The field: 0 for d, 1 for a, 2 for b, 3 for a register that no field names. -/
  field : Nat
  num : BitVec 8
  span : Span
  reads : Bool
  writes : Bool
  deriving DecidableEq, Repr

/-- Operands by kind: `v` vector, `s` scalar; `R` read, `W` written, `RW` both. -/
def vR (f : Nat) (n : BitVec 8) (k : Span) : Operand := ⟨true, f, n, k, true, false⟩
def vW (n : BitVec 8) (k : Span) : Operand := ⟨true, 0, n, k, false, true⟩
def vRW (n : BitVec 8) (k : Span) : Operand := ⟨true, 0, n, k, true, true⟩
def sR (f : Nat) (n : BitVec 8) (k : Nat) : Operand := ⟨false, f, n, .regs k, true, false⟩
def sW (n : BitVec 8) : Operand := ⟨false, 0, n, .regs 1, false, true⟩
def sRW (n : BitVec 8) : Operand := ⟨false, 0, n, .regs 1, true, true⟩

/-- The three shapes that most instructions have. -/
def sss (d a b : BitVec 8) : List Operand := [sW d, sR 1 a 1, sR 2 b 1]
def vvv (d a b : BitVec 8) : List Operand := [vW d .elem, vR 1 a .elem, vR 2 b .elem]
def vv (d a : BitVec 8) (k : Span) : List Operand := [vW d k, vR 1 a k]

/-- Register operands of control and system instructions (11, 16). -/
def operandsControl : Instr → List Operand
  | .waitc a => [sR 1 a 1]
  | .bnz d _ => [sR 0 d 1]
  | .bz d _ => [sR 0 d 1]
  | .jal _ => [⟨false, 3, 1, .regs 1, false, true⟩]
  | .jr a => [sR 1 a 1]
  | .jrv a b => [vR 1 a (.regs 1), sR 2 b 1]
  | .spawn d a => [vR 0 d (.regs 2), vR 1 a (.regs 2)]
  | .tret a b => [sR 1 a 1, vR 2 b (.regs 1)]
  | .xrd d _ => [sW d]
  | .xwr d _ => [sR 0 d 1]
  | .scopew a _ => [sR 1 a 4]
  | .tlbinv d a _ => [sR 0 d 1, sR 1 a 1]
  | .time d _ => [sW d]
  | .wid d f => [vW d (.regs (if f == 6 then 2 else 1))]
  | .lid d _ => [vW d (.regs 1)]
  | _ => []

/-- Register operands of scalar instructions (11). -/
def operandsScalar : Instr → List Operand
  | .sadd d a b => sss d a b | .ssub d a b => sss d a b | .smul d a b => sss d a b | .smulh d a b => sss d a b
  | .smulhu d a b => sss d a b | .sdiv d a b => sss d a b | .sdivu d a b => sss d a b | .srem d a b => sss d a b
  | .sremu d a b => sss d a b | .sand d a b => sss d a b | .sor d a b => sss d a b | .sxor d a b => sss d a b
  | .sshl d a b => sss d a b | .sshr d a b => sss d a b | .ssra d a b => sss d a b | .smin d a b => sss d a b
  | .smax d a b => sss d a b | .sminu d a b => sss d a b | .smaxu d a b => sss d a b | .sslt d a b => sss d a b
  | .ssltu d a b => sss d a b | .sseq d a b => sss d a b | .sbfx d a b => sss d a b
  | .sbfi d a b => [sRW d, sR 1 a 1, sR 2 b 1]
  | .ssel d a b => [sRW d, sR 1 a 1, sR 2 b 1]
  | .saddi d a _ => [sW d, sR 1 a 1]
  | .smov d a => [sW d, sR 1 a 1] | .sclz d a => [sW d, sR 1 a 1] | .spopc d a => [sW d, sR 1 a 1]
  | .simm d _ => [sW d]
  | .slit d _ => [sW d]
  | .slith d a _ => [sW d, sR 1 a 1]
  | _ => []

/-- Register operands of vector, cross-lane and level-index instructions (12, 13). -/
def operandsVector : Instr → List Operand
  | .vadd d a b => vvv d a b | .vsub d a b => vvv d a b | .vmul d a b => vvv d a b | .vmin d a b => vvv d a b
  | .vmax d a b => vvv d a b | .vdiv d a b => vvv d a b | .vmulh d a b => vvv d a b | .vand d a b => vvv d a b
  | .vor d a b => vvv d a b | .vxor d a b => vvv d a b | .vshl d a b => vvv d a b | .vshr d a b => vvv d a b
  | .vfma d a b => [vRW d .elem, vR 1 a .elem, vR 2 b .elem]
  | .vfnma d a b => [vRW d .elem, vR 1 a .elem, vR 2 b .elem]
  | .vabs d a => vv d a .elem | .vneg d a => vv d a .elem | .vsqrt d a => vv d a .elem | .vnot d a => vv d a .elem
  | .vclz d a => vv d a .elem | .vpopc d a => vv d a .elem | .vmov d a => vv d a .elem | .vrndi d a => vv d a .elem
  | .vbfx d a b => [vW d (.regs 1), vR 1 a (.regs 1), vR 2 b (.regs 1)]
  | .vbfi d a b => [vRW d (.regs 1), vR 1 a (.regs 1), vR 2 b (.regs 1)]
  | .vadds d a b => [vW d .elem, vR 1 a .elem, sR 2 b 1]
  | .vmuls d a b => [vW d .elem, vR 1 a .elem, sR 2 b 1]
  | .vfmas d a b => [vRW d .elem, vR 1 a .elem, sR 2 b 1]
  | .vimm d _ => [vW d .elem]
  | .vlit d _ => [vW d .elem]
  | .vfrs d a => [vW d .elem, sR 1 a 1]
  | .vsel d a _ => [vRW d .elem, vR 1 a .elem]
  | .vcmpeq _ a b => [vR 1 a .elem, vR 2 b .elem] | .vcmpne _ a b => [vR 1 a .elem, vR 2 b .elem]
  | .vcmplt _ a b => [vR 1 a .elem, vR 2 b .elem] | .vcmple _ a b => [vR 1 a .elem, vR 2 b .elem]
  | .vcmpun _ a b => [vR 1 a .elem, vR 2 b .elem]
  | .pfrs _ a => [sR 1 a 1]
  | .vcvt d a t => [vW d .elem, vR 1 a (.regs (if t == 13 then 2 else 1))]
  | .vpack d a _ _ => [vRW d (.regs 1), vR 1 a (.regs 1)]
  | .vunpk d a _ _ _ => vv d a (.regs 1)
  | .vsfuRcp d a => vv d a (.regs 1) | .vsfuRsq d a => vv d a (.regs 1) | .vsfuLg2 d a => vv d a (.regs 1)
  | .vsfuFexp d a => vv d a (.regs 1) | .vsfuSin d a => vv d a (.regs 1) | .vsfuCos d a => vv d a (.regs 1)
  | .vsfuTanh d a => vv d a (.regs 1) | .vsfuSigm d a => vv d a (.regs 1)
  | .vxins d a b => [vW d (.regs 1), vR 1 a (.regs 1), vR 2 b (.regs 1)]
  | .vxext d a => vv d a (.regs 1)
  | .vbal d _ => [vW d .elem]
  | .shfli d a b => [vW d .elem, vR 1 a .elem, vR 2 b (.regs 1)]
  | .shflu d a _ => vv d a .elem | .shfld d a _ => vv d a .elem | .shflx d a _ => vv d a .elem
  | .vred d a _ => vv d a .elem
  | .vscan d a _ _ => vv d a .elem
  | .vmemb a => [sR 1 a 1]
  | .vtos d a _ => [sW d, vR 1 a .elem]
  | .liadd d a b => [vW d (.regs 1), vR 1 a (.regs 1), vR 2 b (.regs 1)]
  | .lisub d a b => [vW d (.regs 1), vR 1 a (.regs 1), vR 2 b (.regs 1)]
  | .limul d a b => [vW d (.regs 1), vR 1 a (.regs 1), vR 2 b (.regs 1)]
  | .lidiv d a b => [vW d (.regs 1), vR 1 a (.regs 1), vR 2 b (.regs 1)]
  | .liclt _ a b => [vR 1 a (.regs 1), vR 2 b (.regs 1)]
  | .liceq _ a b => [vR 1 a (.regs 1), vR 2 b (.regs 1)]
  | .lineg d a => vv d a (.regs 1) | .liabs d a => vv d a (.regs 1)
  | .litof d a _ => vv d a (.regs 1) | .lifrf d a _ => vv d a (.regs 1)
  | .litoi d a t => [vW d (.regs (if t == 13 then 2 else 1)), vR 1 a (.regs 1)]
  | .lifri d a t => [vW d (.regs 1), vR 1 a (.regs (if t == 13 then 2 else 1))]
  | .lilvl d a _ => vv d a (.regs 1)
  | _ => []

/-- A lane load of `k` registers, and a lane store (R321). -/
def vLoad (d a : BitVec 8) (k : Nat) : List Operand := [vW d (.regs k), vR 1 a (.regs 2)]
def vStore (d a : BitVec 8) (k : Nat) : List Operand := [vR 0 d (.regs k), vR 1 a (.regs 2)]

/-- Register operands of memory, queue, atomic and copy instructions (14). -/
def operandsMemory : Instr → List Operand
  | .vld8s d a _ => vLoad d a 1 | .vld8z d a _ => vLoad d a 1 | .vld16s d a _ => vLoad d a 1 | .vld16z d a _ => vLoad d a 1
  | .vld32 d a _ => vLoad d a 1 | .vld64 d a _ => vLoad d a 2 | .vld128 d a _ => vLoad d a 4
  | .vst8 d a _ => vStore d a 1 | .vst16 d a _ => vStore d a 1 | .vst32 d a _ => vStore d a 1 | .vst64 d a _ => vStore d a 2
  | .vst128 d a _ => vStore d a 4
  | .sld32 d a _ => [sW d, sR 1 a 1] | .sld64 d a _ => [sW d, sR 1 a 1]
  | .sst32 d a _ => [sR 0 d 1, sR 1 a 1] | .sst64 d a _ => [sR 0 d 1, sR 1 a 1]
  | .ald32 d a _ => vv d a (.regs 1)
  | .ald128 d a _ => [vW d (.regs 4), vR 1 a (.regs 1)]
  | .ast32 d a _ => [vR 0 d (.regs 1), vR 1 a (.regs 1)]
  | .ast128 d a _ => [vR 0 d (.regs 4), vR 1 a (.regs 1)]
  | .cld64 d a _ => [vW d (.regs 2), vR 1 a (.regs 1)]
  | .cst64 d a _ => [vR 0 d (.regs 2), vR 1 a (.regs 1)]
  | .vlda d a _ => vLoad d a 1
  | .vstl d a _ => vStore d a 1
  | .vatom d a b lit =>
    let n := if lit.getLsbD 9 then 2 else 1
    (if lit.getLsbD 12 then [vW d (.regs n)] else []) ++ [vR 1 a (.regs 2), vR 2 b (.regs n)]
  | .satom d a b lit => (if lit.getLsbD 12 then [sW d] else []) ++ [sR 1 a 1, sR 2 b 1]
  | .vcas d a b lit =>
    let n := if lit.getLsbD 9 then 2 else 1
    [vW d (.regs n), vR 1 a (.regs 2), vR 2 b (.regs (2 * n))]
  | .mred a b lit => [vR 1 a (.regs 2), vR 2 b (.regs (if bitsOf lit.toNat 4 3 == 1 then 2 else 1))]
  | .mcas d a b lit =>
    let n := if lit.getLsbD 3 then 2 else 1
    [vW d (.regs n), vR 1 a (.regs 2), vR 2 b (.regs (2 * n))]
  | .msax d a b _ => [vR 0 d (.regs 8), vR 1 a (.regs 2), vR 2 b (.regs 1)]
  | .mwrm d a b _ => [vR 0 d (.regs 1), vR 1 a (.regs 2), vR 2 b (.regs 1)]
  | .qld _ a b _ => [sR 1 a 1, sR 2 b 1]
  | .qst _ a b _ => [sR 1 a 1, sR 2 b 1]
  | .qgat _ a b _ => [sR 1 a 1, sR 2 b 1]
  | .qcnt d _ => [sW d]
  | .copy d a b _ => [sR 0 d 1, sR 1 a 1, sR 2 b 4]
  | .sealCart d => [sW d]
  | .rdwp d _ => [sW d]
  | .strm d a b _ => [sW d, sR 1 a 4, sR 2 b 4]
  | .cflush a b => [sR 1 a 1, sR 2 b 1]
  | .cinv a b => [sR 1 a 1, sR 2 b 1]
  | .chint a _ => [sR 1 a 1]
  | _ => []

/-- Register operands of matrix instructions (15). -/
def operandsMatrix : Instr → List Operand
  | .fmtl _ a _ => [sR 1 a 1]
  | .bld _ a => [sR 1 a 1]
  | .bgat _ a b => [sR 1 a 1, sR 2 b 2]
  | .tmul _ _ a b => [sR 1 a 1, sR 2 b 1]
  | .tdrain _ _ a b => [sR 1 a 1, sR 2 b 2]
  | .cred d a b _ => [sR 0 d 1, sR 1 a 1, sR 2 b 1]
  | .tstat d _ => [sW d]
  | _ => []

/-- The register operands of an instruction. -/
def operands (i : Instr) : List Operand :=
  operandsControl i ++ (operandsScalar i ++ (operandsVector i ++ (operandsMemory i ++ operandsMatrix i)))

/-- The opcode of a word (R237). -/
def opcodeOf (w : Nat) : Nat := bits w 24 8

/-- The opcodes whose first word a literal follows (R245). -/
def twoWordOpcode (op : Nat) : Bool :=
  [0x38, 0x39, 0x5A, 0xA9, 0xAA, 0xAB, 0xAC, 0xAD, 0xAE, 0xAF, 0xB0, 0xB1, 0xB2, 0xB5, 0xB8, 0xC6].contains op

/-- The length in bytes of the instruction that a first word begins (R237). -/
def wordLength (w : Nat) : Nat := if twoWordOpcode (opcodeOf w) then 8 else 4

/-- The control group (R244). -/
def controlOpcode (op : Nat) : Bool := op ≤ 0x1D

/-- Whether REP may step field `f` of an instruction: it is a scalar or vector register field (R251). -/
def steppable (i : Instr) (f : Nat) : Bool := (operands i).any fun o => o.field == f

/-- Whether R251 lets a REP with these step bits stand before the word `w`. Log entry 79: R251 names the whole control group, WID and LID in it,
so that a page with such a REP is rejected; a repeat that comes to a WID or LID otherwise, by a frame or a save record, steps its d field as
R285 says. -/
def repeatable (d a b : BitVec 1) (w : Nat) : Bool :=
  match decodeWords w 0 with
  | .error _ => false
  | .ok i => !controlOpcode (opcodeOf w) && !twoWordOpcode (opcodeOf w)
      && (d == 0 || steppable i 0) && (a == 0 || steppable i 1) && (b == 0 || steppable i 2)

/-- The repeated word at index `i`, each selected field stepped by `i` strides modulo 256 (R252). Bits 2, 1, 0 of `steps` select
d, a, b, as they stand in the REP word. -/
def stepWord (w : Nat) (steps stride i : Nat) : Nat :=
  let f (sel lo : Nat) : Nat := (bits w lo 8 + (if bitOf steps sel then i * 2 ^ stride else 0)) % 256 * 2 ^ lo
  bits w 24 8 * 2 ^ 24 + f 2 16 + f 1 8 + f 0 0

/-- The scan of a page from word `k` on (R56, R259): the indexes of its literal words, or the offset of the first word that is
rejected. -/
def scanFrom (k : Nat) (lits : List Nat) : List Nat → Except Nat (List Nat)
  | [] => .ok lits.reverse
  | w :: rest =>
    match decodeWords w 0 with
    | .error _ => .error (4 * k)
    | .ok i =>
      if twoWordOpcode (opcodeOf w) then
        match rest with
        | [] => .error (4 * k)
        | _ :: rest' => scanFrom (k + 2) ((k + 1) :: lits) rest'
      else
        match i with
        | .rep _ d a b _ =>
          match rest with
          | [] => .error (4 * k)
          | w' :: _ => if repeatable d a b w' then scanFrom (k + 1) lits rest else .error (4 * k)
        | _ => scanFrom (k + 1) lits rest

/-- The number that little-endian bytes spell (R4). -/
def leNat : List Byte → Nat
  | [] => 0
  | b :: bs => b.toNat + 256 * leNat bs

/-- `n` little-endian bytes of a number (R4). -/
def leBytes : Nat → Nat → List Byte
  | 0, _ => []
  | n + 1, x => BitVec.ofNat 8 x :: leBytes n (x / 256)

/-- The instruction at the head of a list of bytes, and how many bytes it takes (R237); rejected by name. -/
def decode (bs : List Byte) : Except Reject (Instr × Nat) :=
  if bs.length < 4 then .error .atEnd else
  let w := leNat (bs.take 4)
  if bs.length < wordLength w then .error .atEnd else
  match decodeWords w (leNat ((bs.drop 4).take 4)) with
  | .error e => .error e
  | .ok i => .ok (i, wordLength w)

/-- The instruction that the decoder reads from an instruction whose bits are `w`, as spec/opcode_table.json numbers them; the
bits above the row's are zero. -/
def decodeTableWord (_nbits w : Nat) : Option Instr :=
  match decode (leBytes 8 w) with
  | .error _ => none
  | .ok (i, _) => some i

end Sys2Proof
end

