-- ==== Sys2Proof/Machine/Formats.lean ====
section
/-! DEFINITION. Exact values, rounding, and the number formats (09 R214 to R233): how a pattern decodes to a value, how a value is
encoded, and which sticky flags that raises. The level-index formats need Machine/LevelIndex.lean as well. -/

namespace Sys2Proof.Machine

/-- A set of sticky flags, by the bits of cstat (R234). -/
abbrev FlagSet := BitVec 8

/-- The sticky flags (R234). -/
def fIV : FlagSet := 1
def fDZ : FlagSet := 2
def fOF : FlagSet := 4
def fUF : FlagSet := 8
def fNX : FlagSet := 16
def fLX : FlagSet := 32
def fSA : FlagSet := 64
def fUBM : FlagSet := 128

/-- A rational number: numerator over a positive denominator, not reduced. -/
structure Rat' where
  num : Int
  den : Nat
  deriving DecidableEq, Repr

/-- The value of a decoded pattern (R220, R226, R231). -/
inductive Val where
  | nan (signalling : Bool)
  | inf (neg : Bool)
  | zero (neg : Bool)
  /-- A finite non-zero value. -/
  | fin (q : Rat')
  deriving DecidableEq, Repr

def Rat'.ofInt (n : Int) : Rat' := ⟨n, 1⟩
def Rat'.neg (a : Rat') : Rat' := ⟨-a.num, a.den⟩
def Rat'.abs (a : Rat') : Rat' := ⟨a.num.natAbs, a.den⟩
def Rat'.add (a b : Rat') : Rat' := ⟨a.num * b.den + b.num * a.den, a.den * b.den⟩
def Rat'.mul (a b : Rat') : Rat' := ⟨a.num * b.num, a.den * b.den⟩
/-- The quotient by a non-zero number. -/
def Rat'.div (a b : Rat') : Rat' := ⟨if b.num < 0 then -(a.num * b.den) else a.num * b.den, a.den * b.num.natAbs⟩
def Rat'.isNeg (a : Rat') : Bool := a.num < 0
def Rat'.isZero (a : Rat') : Bool := a.num == 0
def Rat'.lt (a b : Rat') : Bool := a.num * b.den < b.num * a.den
def Rat'.le (a b : Rat') : Bool := a.num * b.den ≤ b.num * a.den
def Rat'.eqv (a b : Rat') : Bool := a.num * b.den == b.num * a.den

/-- The value times a power of two. -/
def Rat'.scale (a : Rat') (k : Int) : Rat' :=
  if k ≥ 0 then ⟨a.num * 2 ^ k.toNat, a.den⟩ else ⟨a.num, a.den * 2 ^ (-k).toNat⟩

/-- Two to an integer power. -/
def Rat'.pow2 (k : Int) : Rat' := (Rat'.ofInt 1).scale k

/-- Floor(Log2 |a|) of a non-zero value. -/
def Rat'.log2 (a : Rat') : Int :=
  let n := a.num.natAbs
  let e : Int := (Nat.log2 n : Int) - (Nat.log2 a.den : Int)
  if (Rat'.pow2 e).le a.abs then e else e - 1

/-- The five rounding directions of R222 by code: 0 RNE, 1 RTZ, 2 RUP, 3 RDN, 4 RNA. RoundTo(a, 1, rnd) as an integer. -/
def roundInt (a : Rat') (rnd : Nat) : Int :=
  let d : Int := a.den
  let f := a.num / d
  let r := a.num - f * d
  if r == 0 then f else
  match rnd with
  | 0 => if 2 * r < d then f else if 2 * r > d then f + 1 else if f % 2 == 0 then f else f + 1
  | 1 => if a.num < 0 then f + 1 else f
  | 2 => f + 1
  | 3 => f
  | _ => if 2 * r < d then f else if 2 * r > d then f + 1 else if a.num < 0 then f else f + 1

/-- The value of a pattern read as `w`-bit two's complement (R12). -/
def signExt (x w : Nat) : Int :=
  let y := x % 2 ^ w
  if 2 * y ≥ 2 ^ w then (y : Int) - 2 ^ w else y

/-- The `w`-bit pattern of an integer (R9). -/
def lowBits (x : Int) (w : Nat) : Nat := (x % (2 ^ w : Int)).toNat

/-! ## Integers (R217, R218) -/

/-- An integer format: width and whether it is signed. -/
structure IntFmt where
  w : Nat
  signed : Bool
  deriving DecidableEq, Repr

def IntFmt.lo (t : IntFmt) : Int := if t.signed then -(2 ^ (t.w - 1)) else 0
def IntFmt.hi (t : IntFmt) : Int := if t.signed then 2 ^ (t.w - 1) - 1 else 2 ^ t.w - 1

/-- The value of an integer pattern (R217). -/
def IntFmt.decode (t : IntFmt) (b : Nat) : Int := if t.signed then signExt b t.w else ((b % 2 ^ t.w : Nat) : Int)

/-- EncodeInt of an exact integer: wraps, or saturates with SA (R218). -/
def IntFmt.encodeExact (t : IntFmt) (sat : Bool) (n : Int) : Nat × FlagSet :=
  if sat && (n < t.lo || n > t.hi) then (lowBits (max t.lo (min t.hi n)) t.w, fSA) else (lowBits n t.w, 0)

/-- EncodeInt (R218). -/
def IntFmt.encode (t : IntFmt) (rnd : Nat) (sat : Bool) : Val → Nat × FlagSet
  | .nan _ => (0, fIV)
  | .inf true => (lowBits t.lo t.w, fIV)
  | .inf false => (lowBits t.hi t.w, fIV)
  | .zero _ => (0, 0)
  | .fin q =>
    let n := roundInt q rnd
    let nx := if (Rat'.ofInt n).eqv q then 0 else fNX
    let (p, f) := t.encodeExact sat n
    (p, nx ||| f)

/-- An exact integer as a value. -/
def Val.ofInt (n : Int) : Val := if n == 0 then .zero false else .fin (Rat'.ofInt n)

/-- The value of a tern pattern (R217). -/
def ternVal (p : Nat) : Int := match p % 4 with | 1 => 1 | 3 => -1 | _ => 0

/-! ## Binary floating point (R219 to R225) -/

/-- A binary float format (R219): width, fraction bits, bias, greatest exponent, whether it is fp8e4. -/
structure FloatFmt where
  w : Nat
  m : Nat
  bias : Int
  emin : Int
  e4 : Bool
  deriving DecidableEq, Repr

def fp32 : FloatFmt := ⟨32, 23, 127, -126, false⟩
def fp16 : FloatFmt := ⟨16, 10, 15, -14, false⟩
def bf16 : FloatFmt := ⟨16, 7, 127, -126, false⟩
def fp8e4 : FloatFmt := ⟨8, 3, 7, -6, true⟩
def fp8e5 : FloatFmt := ⟨8, 2, 15, -14, false⟩

def FloatFmt.signBit (t : FloatFmt) : Nat := 2 ^ (t.w - 1)
/-- The exponent field of all ones. -/
def FloatFmt.eTop (t : FloatFmt) : Nat := 2 ^ (t.w - 1 - t.m) - 1
def FloatFmt.infPat (t : FloatFmt) : Nat := t.eTop * 2 ^ t.m
/-- The canonical NaN (R219). -/
def FloatFmt.nanC (t : FloatFmt) : Nat := if t.e4 then 0x7F else t.infPat + 2 ^ (t.m - 1)
/-- The largest finite pattern (R219). -/
def FloatFmt.maxPat (t : FloatFmt) : Nat := if t.e4 then 0x7E else t.infPat - 1
def FloatFmt.signed (t : FloatFmt) (neg : Bool) (p : Nat) : Nat := if neg then t.signBit + p else p

/-- The value of a pattern (R220); subnormals read as zero under ftz. -/
def FloatFmt.decode (t : FloatFmt) (ftz : Bool) (b : Nat) : Val :=
  let neg := bitOf b (t.w - 1)
  let e := bitsOf b (t.w - 2) t.m
  let f := b % 2 ^ t.m
  let sg (q : Rat') : Rat' := if neg then q.neg else q
  if e == 0 then
    if f == 0 || ftz then .zero neg else .fin (sg ((Rat'.ofInt f).scale (t.emin - t.m)))
  else if e == t.eTop && (!t.e4 || f == 7) then
    if t.e4 then .nan false else if f == 0 then .inf neg else .nan (f < 2 ^ (t.m - 1))
  else .fin (sg ((Rat'.ofInt (2 ^ t.m + f)).scale (e - t.bias - t.m)))

/-- The magnitude of the largest finite value. -/
def FloatFmt.maxVal (t : FloatFmt) : Rat' :=
  match t.decode false t.maxPat with
  | .fin q => q
  | _ => ⟨0, 1⟩

/-- Overflow (R224). -/
def FloatFmt.overflow (t : FloatFmt) (neg : Bool) (rnd : Nat) (sat : Bool) : Nat :=
  let toMax := sat || (match rnd with | 1 => true | 2 => neg | 3 => !neg | _ => false)
  if toMax then t.signed neg t.maxPat else if t.e4 then t.nanC else t.signed neg t.infPat

/-- EncodeFloat (R223). -/
def FloatFmt.encode (t : FloatFmt) (rnd : Nat) (sat ftz : Bool) : Val → Nat × FlagSet
  | .nan _ => (t.nanC, 0)
  | .inf neg =>
    if !t.e4 then (t.signed neg t.infPat, 0)
    else if sat then (t.signed neg t.maxPat, 0)
    else (t.nanC, fIV)
  | .zero neg => (t.signed neg 0, 0)
  | .fin x =>
    let neg := x.isNeg
    let eu := x.log2
    let m : Int := t.m
    let nu := roundInt (x.scale (m - eu)) rnd
    let tiny := ((Rat'.ofInt nu).scale (eu - m)).abs.lt (Rat'.pow2 t.emin)
    let e := max eu t.emin
    let n := roundInt (x.scale (m - e)) rnd
    let y := (Rat'.ofInt n).scale (e - m)
    let exact := y.eqv x
    if tiny && ftz then (t.signed neg 0, fUF ||| fNX) else
    let fl := (if exact then 0 else fNX) ||| (if tiny && !exact then fUF else 0)
    if t.maxVal.lt y.abs then (t.overflow neg rnd sat, fl ||| fOF ||| fNX)
    else (t.signed neg ((e - t.emin).toNat * 2 ^ t.m + n.natAbs), fl)

/-- The greatest `r` with `r * r ≤ n` among the numbers that agree with `r` above bit `k`. -/
def isqrtFrom (n : Nat) : Nat → Nat → Nat
  | 0, r => r
  | k + 1, r => let c := r + 2 ^ k; isqrtFrom n k (if c * c ≤ n then c else r)

/-- Floor of the square root of a number. -/
def isqrt (n : Nat) : Nat := isqrtFrom n (Nat.log2 n / 2 + 1) 0

/-- The square root of a positive value, exact, or displaced below the precision that any format rounds at (64 bits), on the
true side of every rounding boundary. -/
def Rat'.sqrt (a : Rat') : Rat' :=
  let k : Int := 80 - a.log2 / 2
  let s := a.scale (2 * k)
  let n := s.num.natAbs / s.den
  let r := isqrt n
  if r * r * s.den == s.num.natAbs then (Rat'.ofInt r).scale (-k)
  else (Rat'.ofInt (2 * r + 1)).scale (-k - 1)

/-! ## Block-scaled integers (R226, R227) -/

/-- ToBlock (R227), with the limit of R353 on scales above 254: scale, mantissas and flags. -/
def toBlock (w : Nat) (vs : List Val) : Nat × List Nat × FlagSet :=
  let e0 : Int := vs.foldl (fun e v => match v with | .fin q => max e (q.log2 + 127) | _ => e) 0
  let e := min e0 254
  let one (v : Val) : Nat × FlagSet :=
    match v with
    | .nan _ => (0, fIV)
    | .inf _ => (0, fIV)
    | .zero _ => (0, 0)
    | .fin x =>
      let q := x.scale (-(e - 127 - ((w : Int) - 2)))
      let n := roundInt q 0
      let fl := (if (Rat'.ofInt n).eqv q then 0 else fNX) ||| (if n == 0 then fUF else 0)
      let top : Int := 2 ^ (w - 1)
      if e0 > 254 && (n > top - 1 || n < -top) then (lowBits (max (-top) (min (top - 1) n)) w, fl ||| fOF)
      else if n == top then (lowBits (top - 1) w, fl)
      else (lowBits n w, fl)
  let rs := vs.map one
  (e.toNat, rs.map Prod.fst, rs.foldl (fun f r => f ||| r.2) 0)

/-! ## Accumulators (R228) -/

/-- AccAdd (R228): an exact partial sum enters an acc64 element. -/
def accAdd (q : Nat) (p : Int) (sh : Int) : Nat × FlagSet :=
  let x := (Rat'.ofInt p).scale sh
  let a := roundInt x 0
  let nx := if (Rat'.ofInt a).eqv x then 0 else fNX
  let t := signExt q 64 + a
  let c := max (-(2 ^ 63)) (min (2 ^ 63 - 1) t)
  (lowBits c 64, nx ||| (if c == t then 0 else fOF))

/-! ## Element types (R214, R247) -/

/-- The element types that mode.etype selects. -/
inductive EType where
  | int (t : IntFmt)
  | float (t : FloatFmt)
  /-- A level-index type with `fb` fraction bits. -/
  | sl (fb : Nat)
  deriving DecidableEq, Repr

def int32 : IntFmt := ⟨32, true⟩

/-- The element type of a code of mode.etype (R247). Codes 14 and 15 never stand in a mode register. -/
def EType.ofCode : Nat → EType
  | 0 => .int ⟨32, true⟩
  | 1 => .int ⟨32, false⟩
  | 2 => .int ⟨16, true⟩
  | 3 => .int ⟨16, false⟩
  | 4 => .int ⟨8, true⟩
  | 5 => .int ⟨8, false⟩
  | 6 => .float fp32
  | 7 => .float fp16
  | 8 => .float bf16
  | 9 => .float fp8e4
  | 10 => .float fp8e5
  | 11 => .sl 27
  | 12 => .sl 11
  | 13 => .int ⟨64, true⟩
  | _ => .int ⟨32, true⟩

/-- The width of an element in bits. -/
def EType.width : EType → Nat
  | .int t => t.w
  | .float t => t.w
  | .sl fb => fb + 5

/-- The type under which a vector instruction that does not accept sl executes (R250, R287). -/
def EType.noSl : EType → EType
  | .sl _ => .int int32
  | t => t

/-- The type under which an instruction that accepts only integers executes (R250). -/
def EType.asInt : EType → IntFmt
  | .int t => t
  | _ => int32

/-- The level-index type under which a level-index instruction executes (R308): its fraction bits. -/
def EType.asSl : EType → Nat
  | .sl fb => fb
  | _ => 27

end Sys2Proof.Machine
end

