-- ==== Sys2Proof/Machine/Operands.lean ====
section
/-! DEFINITION. How an instruction's operands read: the fields of the mode register (10 R247), elements packed in a register
(R215, R286), and the immediates of branches and memory offsets (R239, R318). -/

namespace Sys2Proof.Machine

/-- The mode register (R247). -/
abbrev Mode := BitVec 16

def Mode.etypeCode (m : Mode) : Nat := bitsOf m.toNat 3 0
def Mode.etype (m : Mode) : EType := EType.ofCode m.etypeCode
def Mode.rnd (m : Mode) : Nat := bitsOf m.toNat 6 4
def Mode.guardIdx (m : Mode) : Nat := bitsOf m.toNat 9 7
def Mode.guardInv (m : Mode) : Bool := m.getLsbD 10
def Mode.sat (m : Mode) : Bool := m.getLsbD 11
def Mode.ftz (m : Mode) : Bool := m.getLsbD 12
/-- The tile width in lanes. -/
def Mode.tile (m : Mode) : Nat := 32 / 2 ^ bitsOf m.toNat 15 13
def Mode.isInt64 (m : Mode) : Bool := m.etypeCode == 13

/-- The bits of the mode register that a mask of R248 selects. -/
def modeMask (m : BitVec 6) : BitVec 16 :=
  let f (i : Nat) (x : BitVec 16) : BitVec 16 := if m.getLsbD i then x else 0
  f 0 0x000F ||| f 1 0x0070 ||| f 2 0x0780 ||| f 3 0x0800 ||| f 4 0x1000 ||| f 5 0xE000

/-- How many elements of width `w` a register or pair holds (R286). -/
def elemCount (w : Nat) : Nat := if w == 64 then 1 else 32 / w

/-- Elem(x, k, w) (R12). -/
def elem (x k w : Nat) : Nat := x / 2 ^ (k * w) % 2 ^ w

/-- Elements packed from the least significant end (R215). -/
def packElems (w : Nat) : List Nat → Nat
  | [] => 0
  | e :: es => e % 2 ^ w + 2 ^ w * packElems w es

/-- Element `k` of width `w` of a register replaced. -/
def setElem (x k w e : Nat) : Nat := x - elem x k w * 2 ^ (k * w) + e % 2 ^ w * 2 ^ (k * w)

/-- The union of flags. -/
def orFlags (fs : List FlagSet) : FlagSet := fs.foldl (· ||| ·) 0

/-- Run an element function over all elements of the operands (R286): the packed results and the union of the flags. -/
def perElem (w : Nat) (f : Nat → Nat × FlagSet) : Nat × FlagSet :=
  let rs := (List.range (elemCount w)).map f
  (packElems w (rs.map Prod.fst), orFlags (rs.map Prod.snd))

/-- A signed word offset in bytes, added to an address modulo 2^64 (R239, R272). -/
def branchTarget (pc : W64) {n : Nat} (off : BitVec n) : W64 := pc + (off.signExtend 64) * 4

/-- A signed offset in units of `size` bytes (R318). -/
def scaledOffset {n : Nat} (imm : BitVec n) (size : Nat) : W64 := (imm.signExtend 64) * BitVec.ofNat 64 size

/-- Extract a bit field (R270 with width `n`): position, width and sign from a descriptor already cut out. -/
def bitFieldExtract (n x pos wd : Nat) (sx : Bool) : Nat :=
  let f := x / 2 ^ pos % 2 ^ wd
  if sx && wd > 0 then lowBits (signExt f wd) n else f

/-- Insert a bit field (R270 with width `n`). -/
def bitFieldInsert (n old x pos wd : Nat) : Nat :=
  let m := (2 ^ wd - 1) * 2 ^ pos % 2 ^ n
  (old - Nat.land old m) + Nat.land (x * 2 ^ pos) m

end Sys2Proof.Machine
end

