-- ==== Sys2Proof/Machine/State.lean ====
section
/-! DEFINITION. The state of the module, as plain data: every register, counter, buffer, cache, table and queue that the spec names,
the faults and refusals of a step, and the state after module reset. A field's default is its reset value, or for a part that a
train or coach brings, its value at formation (08 R184); the marks of the values that the spec leaves open stand in the assumption
log. A map lists only the keys that were written; a key it does not list holds the default. -/

namespace Sys2Proof.Machine

/-- A privilege level (R187). -/
inductive Level where
  | U | S | H
  deriving DecidableEq, Repr

/-- Repeat state of a REP in progress (R187, R252): n − 1, the next index, the step bits d a b (4, 2, 1) and the stride code. -/
structure Rep where
  count : Nat
  index : Nat
  steps : Nat
  stride : Nat
  deriving DecidableEq, Repr

/-- Why a carriage is not ready (R193, R401). -/
inductive Wait where
  | wait (l st cp t : Nat)
  | waitc (n : Nat)
  | waitg (m : BitVec 8)
  | fence | exit
  | bar (n : Nat)
  | sleep | member | queue | tag
  | scopew (n : Nat)
  /-- Reasons that are not blocking in the sense of R193. -/
  | translation | report | yard | resource
  deriving DecidableEq, Repr

/-- A FENCE that has not ended (R325): the lanes of its carriage, whether its scope holds another core, and its place in the issue order. -/
structure FenceRec where
  lanes : Mask
  wide : Bool
  stamp : Nat
  deriving DecidableEq, Repr

/-- The attributes of a combined translation that an access uses (R46, R101): cache policy 0 cached, 1 streaming, 2 uncached. -/
structure Attr where
  cp : Nat := 0
  atomic : Bool := false
  bank : Bool := false
  repl : Bool := false
  deriving DecidableEq, Repr

/-- A SPAWN that has issued and waits for bays (R210): the lanes that have still to deposit, and its register fields. -/
structure Deposit where
  lanes : Mask
  d : Nat
  a : Nat
  deriving DecidableEq, Repr

/-- A carriage in a slot (R187). A carriage at U has its own slot as its frame slot. -/
structure Carriage where
  pc : W64
  lanes : Mask
  level : Level := .U
  member : Mask := 0xFFFFFFFF
  rep : Option Rep := none
  blocked : Nat := 0
  fslot : Nat := 0
  /-- Why it is not ready, as last found. -/
  wait : Option Wait := none
  /-- The wake value of a SLEEP, 0 when none (R281, R415). -/
  wake : Nat := 0
  /-- A trap carriage parked for host-assisted service (R410). -/
  parked : Bool := false
  /-- The clk at which it was promoted from the siding (R193), 0 when it was not. -/
  promoted : Nat := 0
  /-- The clk at which it last issued (R188). -/
  lastIssue : Nat := 0
  /-- A YIELD keeps it not ready before this clk (R280). -/
  yieldUntil : Nat := 0
  /-- The barrier at which its lanes have arrived by the BAR at pc (R372). -/
  bar : Option Nat := none
  /-- The SPAWN at pc that waits for bays, and the lanes whose records it has deposited (R210). -/
  spawn : Option Deposit := none
  spawned : Mask := 0
  /-- Pages that the instruction at pc has translated and keeps until its last check has passed (R116): whether for writing, virtual page,
  physical address, attributes. -/
  pages : List (Bool × Nat × Nat × Attr) := []
  deriving DecidableEq, Repr

/-- The trap carriage that holds a siding entry: slot, level and depth (R190, R367). -/
structure Holder where
  slot : Nat
  level : Level
  depth : Nat
  deriving DecidableEq, Repr

/-- A siding entry (R190); `held` is none while the entry is not held. -/
structure SidingEntry where
  pc : W64
  lanes : Mask
  level : Level := .U
  member : Mask := 0xFFFFFFFF
  rep : Option Rep := none
  fslot : Nat := 0
  held : Option Holder := none
  wake : Nat := 0
  /-- The barrier at which its lanes wait (R372, R446). -/
  bar : Option Nat := none
  deriving DecidableEq, Repr

/-- An S or H frame of a slot, with the mode and cstat of its level (R183, R197, R366, R367). -/
structure Frame where
  busy : Bool := false
  rearmed : Bool := false
  depth : Nat := 0
  /-- The trap lanes of each depth. -/
  traps : RMap 32 := []
  tpc : W64 := 0
  npc : W64 := 0
  frep : W64 := 0
  fmisc : W64 := 0
  flane : BitVec 5 := 0
  mode : Mode := 0
  cstat : FlagSet := 0
  /-- The barrier at which the lanes that trapped had arrived (R372). -/
  bar : Option Nat := none
  deriving DecidableEq, Repr

/-- What a failed walk puts into a fault record (R50, R407): reason, stage and walk level, all 0 where no walk failed. -/
structure WalkCode where
  reason : Nat := 0
  stage : Nat := 0
  wlevel : Nat := 0
  deriving DecidableEq, Repr

/-- A lane's pending-error record (R256). -/
structure PendErr where
  cause : Nat
  addr : W64
  walk : WalkCode := {}
  load : Bool := false
  store : Bool := false
  /-- The lowest cart number of the lane's failed copies. -/
  copy : Option Nat := none
  tags : BitVec 8 := 0
  /-- The place of the failed operation in the issue order. -/
  stamp : Nat := 0
  deriving DecidableEq, Repr

/-- A trap of one lane (R405, R407). -/
structure LaneTrap where
  lane : Nat
  cause : Nat
  addr : W64
  kind : Nat := 0
  reason : Nat := 0
  stage : Nat := 0
  wlevel : Nat := 0
  port : Nat := 0
  code : Nat := 0
  deriving DecidableEq, Repr

/-- The direction of a queue port (R206). -/
inductive Dir where
  | none | inbound | outbound
  deriving DecidableEq, Repr

/-- A faulted element or a failed outbound write: cause and address (R208). -/
structure QFault where
  cause : Nat
  addr : W64
  write : Bool
  walk : WalkCode := {}
  /-- The element of a failed write. -/
  data : W32 := 0
  /-- The place of the failed access in the issue order. -/
  stamp : Nat := 0
  /-- The address of the access itself, or of the index of a gather with the base and one more than the shift. -/
  va : W64 := 0
  base : Nat := 0
  shift : Nat := 0
  /-- Whether its lane has called Trap for it (R208). -/
  called : Bool := false
  deriving DecidableEq, Repr

/-- A queue port (R206, R207). Entries and positions are absolute counts; element `l` of entry `e` has the key `32 e + l`. -/
structure QPort where
  dir : Dir := .none
  depth : Nat := 1
  /-- Entries freed (inbound) or drained (outbound). -/
  head : Nat := 0
  /-- Entries filled (inbound); entries complete (outbound) follow from the positions. -/
  filled : Nat := 0
  /-- Entries that the outrider has begun to fill (inbound) or to drain (outbound). -/
  taken : Nat := 0
  pos : SMap Nat := []
  elems : RMap 32 := []
  faults : SMap QFault := []
  deriving DecidableEq, Repr

/-- Where one access goes (R21, R86). -/
inductive Space where
  /-- Local memory, by chassis-window address (R23). -/
  | mem
  | control
  | host
  | peer
  /-- The A-, W- or C-buffer of a core, by absolute offset: kind 1, 2, 3 (R331) and core number. -/
  | buf (kind core : Nat)
  deriving DecidableEq, Repr

/-- A vector register that a lane's result goes to, resolved at issue (R241). -/
inductive VDst where
  | reg (n : Nat)
  | kv (level : Level) (i : Nat)
  | port (q : Nat)
  | drop
  deriving DecidableEq, Repr

/-- A scalar register resolved at issue (R242). -/
inductive SDst where
  | reg (n : Nat)
  | k (frame i : Nat)
  | outrider (n : Nat)
  | drop
  deriving DecidableEq, Repr

/-- Where the value of an access goes. -/
inductive Dst where
  | none
  /-- Vector registers from the low word on, with an extension of `bits` bits to 32, signed or not. -/
  | vec (regs : List VDst) (bits : Nat) (signed : Bool)
  | scalar (r : SDst)
  /-- An element of a queue entry. -/
  | elem (q entry : Nat)
  deriving DecidableEq, Repr

/-- Where an atomic executes (R104). -/
inductive Site where
  | l1 | home | bank
  deriving DecidableEq, Repr

/-- One access of an operation. `lane` 32 stands for the carriage as a whole. -/
structure Piece where
  lane : Nat
  space : Space := .mem
  addr : Nat
  va : W64
  size : Nat
  /-- Data of a store; operand of an atomic or command. -/
  data : Nat := 0
  /-- Second operand: new value of a compare-and-swap, x of MSAX, mask of MWRM; index address of a gather. -/
  data2 : Nat := 0
  dst : Dst := .none
  attr : Attr := {}
  site : Site := .home
  /-- 0 issued, 1 performed (a command's reply outstanding), 2 complete. -/
  phase : Nat := 0
  result : Nat := 0
  flags : FlagSet := 0
  err : Option Nat := none
  /-- A store that its core's L1 took at issue (R96, R147); one that it takes only when performed, since the order of R136 or R142 holds it. -/
  shown : Bool := false
  late : Bool := false
  deriving DecidableEq, Repr

/-- The counter or tag that an operation counts in (R253, R75). -/
inductive Counter where
  | ld | st | cp | tl
  | tag (t : Nat)
  | none
  deriving DecidableEq, Repr

/-- The memory commands of R327. -/
inductive CmdKind where
  | mredI (n : Nat)
  | mredF (e : Int)
  | mcas (n : Nat)
  | msax
  | mwrm
  deriving DecidableEq, Repr

/-- What an outstanding operation does. -/
inductive OpKind where
  | load
  | store
  /-- An atomic: operation code of R326 (16 for compare-and-swap) and width. -/
  | atomic (aop n : Nat)
  | cmd (k : CmdKind)
  | copy (id : Nat)
  | tile
  | cflush
  | cinv
  /-- An invalidation: kind, PASID, VMID and address (R371). -/
  | tlbinv (kind pasid vmid va : Nat)
  /-- An outrider's read or write of queue entries (R329). -/
  | qread
  | qwrite
  deriving DecidableEq, Repr

/-- An operation that a coach has issued and that is not complete (R253). -/
structure Op where
  id : Nat
  counter : Counter
  kind : OpKind
  pieces : List Piece
  lanes : Mask := 0
  /-- The level that issued it and its frame slot, for the flags of a reply (R235). -/
  level : Level := .U
  fslot : Nat := 0
  /-- The cores of the scope set of an acquire or release, and which of the two it is (R138, R140). -/
  scope : BitVec 256 := 0
  /-- Its place in the issue order of the module. -/
  stamp : Nat := 0
  acquire : Bool := false
  release : Bool := false
  /-- Mode captured at issue (R78). -/
  mode : Mode := 0
  /-- The outrider issued it. -/
  outrider : Bool := false
  /-- Cart of a copy (R124). -/
  cart : Nat := 0
  /-- Chassis that have acknowledged an invalidation, and the place in the issue order at which the last one did (R55). -/
  acks : BitVec 16 := 0
  acked : Nat := 0
  /-- Complete, and waiting only for earlier operations of its counter (R253). -/
  done : Bool := false
  deriving DecidableEq, Repr

/-- An outrider context (R205, R415). -/
structure Outrider where
  live : Bool := false
  qend : Bool := false
  ended : Bool := false
  pc : W64 := 0
  rep : Option Rep := none
  s : RMap 64 := []
  /-- Entries done by the QLD, QST or QGAT at pc. -/
  progress : Nat := 0
  /-- A failure of its own fetch or operands: the address of the instruction or fetch (R208). -/
  failed : Option W64 := none
  /-- It waits for a walk. -/
  wait : Bool := false
  deriving DecidableEq, Repr

/-- A SCOPEW in progress: its entry, the lanes that wait, the new mask, and its place in the issue order (R139, R370). -/
structure ScopeWrite where
  n : Nat
  lanes : Mask
  mask : BitVec 256
  stamp : Nat
  /-- Its pc and its level. -/
  pc : W64 := 0
  level : Level := .H
  /-- It has completed, and its carriage, which lay in the siding, has not taken note. -/
  done : Bool := false
  deriving DecidableEq, Repr

/-- Where an evicted coach stands (R412, R414, R417). -/
inductive Resid where
  | resident
  /-- Eviction requested; `held` by ctx.evict, or taken by the dispatcher. -/
  | evicting (held : Bool)
  /-- Saved in a slot of the save pool. -/
  | saved (held : Bool) (slot : Nat)
  deriving DecidableEq, Repr

/-- A coach (R183). Registers are keyed by number; lane registers by 32 · number + lane; banked ones also by frame (2 · slot + level,
S 0 and H 1) or level. -/
structure Coach where
  ch : Nat
  handle : Nat
  core : Nat
  part : Nat
  place : Nat
  /-- Train id and index in the train (R202); the launch id. -/
  train : Nat
  index : Nat := 0
  tcore : Nat := 0
  launch : Nat := 0
  yard : Bool := false
  vmid : BitVec 12 := 0
  pasid : BitVec 20 := 0
  /-- The vector allocation (R185). -/
  vregs : Nat := 8
  access : Bool := false
  resid : Resid := .resident
  /-- A restore of ctx.evict has released it, and it is not back yet (R414). -/
  returning : Bool := false
  /-- A ctx.fresume came for a parked slot while it was evicted: whether it delivers, by slot (R417). -/
  resumes : SMap Bool := []
  stuck : Bool := false
  age : Nat := 0
  /-- The clk at which the age reached 1,024 (R402). -/
  agedAt : Nat := 0
  exited : Mask := 0
  v : RMap 32 := []
  kv : RMap 32 := []
  p : RMap 32 := []
  s : RMap 64 := []
  k : RMap 64 := []
  mode : Mode := 0
  cstat : FlagSet := 0
  ldhint : BitVec 5 := 0
  fpen : BitVec 5 := 0
  slots : SMap Carriage := []
  siding : List SidingEntry := []
  frames : SMap Frame := []
  /-- Fault record of lane l at level x (S 0, H 1), key 32 x + l (R407). -/
  recs : RMap 128 := []
  pend : SMap PendErr := []
  workId : RMap 64 := []
  /-- Arrival sets of the barriers (R372). -/
  arrived : RMap 32 := []
  ports : SMap QPort := []
  ops : List Op := []
  nextOp : Nat := 0
  /-- The FENCEs that have not ended (R325). -/
  fences : List FenceRec := []
  /-- A trap entry, a TRET or a BAR has acted as a FENCE and earlier operations are outstanding (R140, R155). -/
  hold : Bool := false
  cart : Nat := 0
  outr : Outrider := {}
  /-- SCOPEWs in progress (R370). -/
  scopews : List ScopeWrite := []
  /-- Tokens granted for the matrix instruction of a slot (R403). -/
  granted : SMap Nat := []
  /-- A fresh formation waits for its first issue bound: the number formed, for pre-emption order (R404). -/
  born : Nat := 0
  /-- One more than the place in the issue order of the last operation that it has issued. -/
  last : Nat := 0
  /-- The clk at which it last issued (R188). -/
  issued : Nat := 0
  /-- It has ended (R195), and only its outrider context still has accesses to make (R154, R205). -/
  gone : Bool := false
  /-- The barriers that it has departed from while it was evicted (R372). -/
  departs : List Nat := []
  /-- The flags that replies and results have raised in the present clock, by level and frame slot (R236). -/
  raised : List (Nat × BitVec 8) := []
  deriving DecidableEq, Repr

/-- A format block in a slot, as its 64 bytes (R340). -/
abbrev FmtBlock := List Byte

/-- The windows of a train on one of its cores (R87): base and size in bytes of the A-, W- and C-buffer. -/
structure Windows where
  aBase : Nat := 0
  aSize : Nat := 0
  wBase : Nat := 0
  wSize : Nat := 0
  cBase : Nat := 0
  cSize : Nat := 0
  deriving DecidableEq, Repr

/-- A channel context (R117, R119). -/
structure Channel where
  count : Nat := 0
  err : Bool := false
  /-- Sum of the total lengths of the copies accepted (R120). -/
  accepted : Nat := 0
  /-- The accepted copies that are not complete, in order. -/
  queue : List Nat := []
  deriving DecidableEq, Repr

/-- A train (R202); `cores` in train-core order. Contexts and slots have the key 4 · train-core index + number. -/
structure Train where
  id : Nat
  launch : Nat
  index : Nat
  ch : Nat
  cores : List Nat
  /-- Work id with field f0 zero (R203). -/
  wid : W64 := 0
  extent : Nat := 32
  coaches : Nat := 1
  windows : SMap Windows := []
  chans : SMap Channel := []
  fmts : SMap FmtBlock := []
  /-- Blocks that FMTL has read and not yet written: the clk of the write, the slot, the block (R342). -/
  loads : List (Nat × Nat × FmtBlock) := []
  tokens : RMap 64 := []
  matrix : Bool := false
  /-- Coaches and yard records not ended (R204, R212). -/
  left : Nat := 0
  yardLeft : Nat := 0
  completed : Bool := false
  retired : Bool := false
  yard : Bool := false
  /-- The train in whose completion a yard coach's records count, with their number (R212). -/
  parents : List (Nat × Nat) := []
  badexit : Nat := 0
  copyErr : Bool := false
  prio : Nat := 0
  gang : Bool := false
  deriving DecidableEq, Repr

/-- The fields of a kernel header that a launch uses (R379). -/
structure Kernel where
  vregs : Nat := 8
  entry : W64 := 0
  access : Option W64 := none
  matrix : Bool := false
  trapctl : Bool := false
  aSize : Nat := 0
  wSize : Nat := 0
  cSize : Nat := 0
  ports : List (Dir × Nat) := []
  deriving DecidableEq, Repr

/-- An event of the completion tree that is to be raised (R204, R400): the level of its node, 5 for the top level, the chassis that raises
it, and whether the launch was refused. -/
structure Owed where
  level : Nat
  ch : Nat
  err : Bool := false
  deriving DecidableEq, Repr

/-- A launch handed to the dispatchers (R391 to R400). -/
structure Launch where
  id : Nat
  queue : Nat
  func : Nat := 0
  pasid : BitVec 20 := 0
  kernel : Kernel := {}
  placed : Bool := false
  gang : Bool := false
  prio : Nat := 0
  /-- The effective mask (R394). -/
  mask : BitVec 16 := 0
  widths : List Nat := []
  /-- Extents e0 to e5 (R391). -/
  extents : List Nat := []
  sig : W64 := 0
  ev : BitVec 12 := 0
  vector : Nat := 0
  hbase : W64 := 0
  coeffs : List W64 := []
  /-- Copy-program records (R393), 32 bytes each. -/
  records : List (List Byte) := []
  /-- Trains, cores per train. -/
  trains : Nat := 0
  cores : Nat := 1
  /-- The train counter (R395), and the indices that each dispatcher holds and has not started. -/
  counter : Nat := 0
  held : List (Nat × Nat) := []
  started : Nat := 0
  /-- Chassis that still give it a place (R394). -/
  places : BitVec 16 := 0
  done : List Nat := []
  badexit : Nat := 0
  copyErr : Bool := false
  refused : Option Nat := none
  /-- Teardown has stopped it (R60). -/
  stopped : Bool := false
  /-- Its top-level event has been raised (R386). -/
  topDone : Bool := false
  /-- Events to be raised, in order; by core, the place in the issue order before which stores may have been read by its coaches that have
  ended (R142, R154). -/
  owed : List Owed := []
  covers : SMap Nat := []
  deriving DecidableEq, Repr

/-- Permissions and place of one leaf (R46): r, w, x, u bits and its level. -/
structure Leaf where
  r : Bool
  w : Bool
  x : Bool
  u : Bool
  d : Bool
  level : Nat
  deriving DecidableEq, Repr

/-- Who translates (R36, R37): VMID, PASID and whether the H regime applies. -/
structure Ctx where
  vmid : Nat
  pasid : Nat
  hyp : Bool
  deriving DecidableEq, Repr

/-- A TLB entry: a combined translation with the permissions of each stage apart (R46, R51). -/
structure TlbEntry where
  ctx : Ctx
  glob : Bool := false
  /-- Virtual base and size in bytes; physical base. -/
  va : Nat
  size : Nat
  pa : Nat
  s1 : Leaf
  s2 : Option Leaf := none
  /-- The IPA pages it was built through (R54, kind 3). -/
  ipas : List Nat := []
  attr : Attr := {}
  spread : Bool := false
  deriving DecidableEq, Repr

/-- The access kinds of R48. -/
inductive Acc where
  | read | write | atomic | exec
  deriving DecidableEq, Repr

/-- How a translation failed (R50): cause, address, reason, stage and level. -/
structure XFault where
  cause : Nat
  addr : W64
  reason : Nat
  stage : Nat
  wlevel : Nat
  /-- The fault address is that of the access, not that of a table entry (R50, R405). -/
  own : Bool := true
  deriving DecidableEq, Repr

/-- A miss in a core's miss buffer (R52): the core by its global number, the virtual page, the access kind and level that its walk is for,
the carriages (coach key, slot, pc) that wait for such an access, and those that have attached for another kind or level, which ask again
when the walk has ended. -/
structure Miss where
  core : Nat
  ctx : Ctx
  page : Nat
  acc : Acc
  level : Level
  who : List (Nat × Nat × W64) := []
  others : List (Nat × Nat × W64) := []
  deriving DecidableEq, Repr

/-- A walk that runs: its miss, the table reads that have returned, in order (R45), and the registers as they stood at its start (R39). -/
structure Walk where
  id : Nat
  miss : Miss
  reads : List (Nat × W64) := []
  cdtb : W64
  s2tb : W64
  ttbr : W64
  deriving DecidableEq, Repr

/-- A walk that failed, until the instructions that missed have taken it. -/
structure Failed where
  miss : Miss
  fault : XFault
  deriving DecidableEq, Repr

/-- A cached table entry: context, address and value (R51). -/
structure TableEntry where
  ctx : Ctx
  addr : Nat
  value : W64
  deriving DecidableEq, Repr

/-- The result of a page scan (R56, R57): the indexes of literal words, or the offset of the first illegal word. -/
inductive Scan where
  | accepted (literals : List Nat)
  | rejected (offset : Nat)
  deriving DecidableEq, Repr

/-- A line of the chassis cache (R100, R102). A byte is valid where it is listed. -/
structure CacheLine where
  bytes : RMap 8 := []
  dirty : BitVec 128 := 0
  /-- 0 evict-first, 1 normal, 2 evict-last. -/
  prio : Nat := 1
  /-- When it was last used, in accesses to its chassis cache (R102). -/
  used : Nat := 0
  /-- The core that owns it for narrow atomics, by global number (R107). -/
  owner : Option Nat := none
  deriving DecidableEq, Repr

/-- A line of an L1 (R95, R107). -/
structure L1Line where
  bytes : RMap 8 := []
  owned : Bool := false
  dirty : BitVec 128 := 0
  deriving DecidableEq, Repr

/-- A record of the coach yard (R210). -/
structure YardRec where
  payload : W64
  wid : W64
  train : Nat
  deriving DecidableEq, Repr

/-- A bay (R210, R211). -/
structure Bay where
  entry : W64
  launch : Nat
  vmid : BitVec 12
  recs : List YardRec
  /-- The ns at which its timer expires. -/
  deadline : Nat
  expired : Bool := false
  deriving DecidableEq, Repr

/-- A queued or running matrix instruction (R338), as its operands stood at issue. -/
inductive MatOp where
  | bld (o : Nat)
  | bgat (p ci vo lo hi : Nat)
  | tzero (mask : Nat)
  | tmul (tile o m row0 stride : Nat)
  | tdrain (tile : Nat) (prm cdst tdst : W64) (pages : List (Nat × Space × Nat × Attr))
  | cred (prm src dst lit : W64)
  deriving DecidableEq, Repr

/-- An instruction in the queue of a matrix unit (R338). -/
structure MatEntry where
  coach : Nat
  op : Nat
  train : Nat
  tcore : Nat
  fmt : FmtBlock
  what : MatOp
  level : Level
  fslot : Nat
  drawn : Nat
  started : Bool := false
  /-- Work clocks left. -/
  work : Nat := 0
  /-- The clk of its issue. -/
  issued : Nat := 0
  /-- The clk at which the span of its last work clock is over (R358). -/
  ends : Nat := 0
  deriving DecidableEq, Repr

/-- A line of an instruction cache (R58, R98): its bytes, and the literal words of its page as scanned. -/
structure CodeLine where
  bytes : List Byte
  literals : List Nat
  deriving DecidableEq, Repr

/-- A core (R1, R86 to R99, R338). -/
structure Core where
  svTvec : W64 := 0
  hvTvec : W64 := 0
  yard : Nat := 125
  tlb : List TlbEntry := []
  misses : List Miss := []
  failed : List Failed := []
  l1 : SMap L1Line := []
  icache : SMap CodeLine := []
  aBuf : List Host.Cell := []
  wBuf : List Host.Cell := []
  cBuf : List Host.Cell := []
  /-- Cell (k, n) of the macro image at 256 k + n (R89). -/
  cells : List Host.Cell := []
  segs : BitVec 256 := 0
  /-- Captured scales: block length, and the bytes by column · 32 + block; an absent one is 127 (R345). -/
  scaleBlock : Nat := 256
  scales : SMap Byte := []
  btype : BitVec 4 := 15
  csrerr : Bool := false
  holder : Option Nat := none
  matq : List MatEntry := []
  bays : SMap Bay := []
  /-- Clk until which a partition's slot is held (R402). -/
  slotHeld : SMap Nat := []
  /-- By copy channel, the train that it has served last (R112). -/
  served : SMap Nat := []
  deriving DecidableEq, Repr

/-- What the model does next (log entry 3). -/
inductive Turn where
  /-- An error comes into the cells of a sector (R68). -/
  | flaw (wa : Nat) (ecc : Ecc)
  /-- An access arrives at the bank-side unit and waits there (R73). -/
  | arrive (r : OpRef)
  /-- A unit admits the next operation to its bank (R73). -/
  | enqueue (ch bus : Nat)
  /-- A unit writes corrected data back (R70). -/
  | correct (wa : Nat)
  /-- The host sizes BAR2 of the physical function, by the logarithm of the size (R432). -/
  | resize (n : Nat)
  /-- The host reads through BAR0 of a function: offset and size (R26, R432, R433). -/
  | bar0Read (func off n : Nat)
  /-- Partial sums of a reduction that spans modules arrive at a peer port, of the exponent `e` (R181). -/
  | peerSums (p tag part : Nat) (e : Int) (sums : List (Nat × Bool))
  | issue (r : SlotRef)
  | outrider (r : CoachRef)
  | event (i : Instr)
  | tick
  deriving DecidableEq, Repr

/-- What has asked a bank-side unit for an operation (R72, R73): an access of a coach with its place in the issue order, the write-back of
corrected data (R70), another step of the module, or the raising of a launch's events. -/
inductive Requester where
  | access (r : OpRef) (stamp : Nat)
  | corrected
  | turn (t : Turn)
  | events (launch : Nat)
  deriving DecidableEq, Repr

/-- An operation that has arrived at a bank-side unit and has not executed (R72 to R74): the requester port it came through (a core 0 to
15 of the chassis, 16 the ring stop, 17 the cache slice), a byte of its sector, the clk at which it arrived, and what asks for it. -/
structure BankEntry where
  port : Nat
  wa : Nat
  since : Nat
  who : Requester
  deriving DecidableEq, Repr

/-- A bus with its bank-side unit and its memory-controller registers (R72 to R74, R82 to R85). -/
structure Bus where
  /-- Operations that wait at the ports, in order of arrival; the port last served; the operation queues, by bank (R73). -/
  arrivals : List BankEntry := []
  served : Nat := 17
  queues : SMap (List BankEntry) := []
  state : Nat := 0
  group : Nat := 0
  passes : Nat := 0
  /-- Spare j: the lane it replaces, failed, valid. -/
  spareLane : SMap Nat := []
  spareFailed : BitVec 8 := 0
  spareValid : BitVec 8 := 0
  /-- Positions in the group under test that erred in the previous test of it, by group. -/
  erred : RMap 8 := []
  corrected : Nat := 0
  uncorrected : Nat := 0
  /-- The clk at which the group test or repair ends; the clk at which the bus last carried an operation. -/
  busyTo : Nat := 0
  lastOp : Nat := 0
  /-- The group that the next test takes (R82). -/
  next : Nat := 0
  /-- By bank, 16 · pseudo-channel + bank: rows refreshed, and the ns of the last refresh (R80). -/
  refreshed : SMap Nat := []
  refreshedAt : SMap Nat := []
  deriving DecidableEq, Repr

/-- A ring or peer port (R182). -/
structure Link where
  state : Nat := 0
  retrains : Nat := 0
  crc : Nat := 0
  wasdown : Bool := false
  /-- The ns at which it began to retrain. -/
  since : Nat := 0
  deriving DecidableEq, Repr

/-- A host event (R435): type, chassis, handle, PASID or queue, data. -/
structure HostEvent where
  ty : Nat
  ch : Nat
  handle : Nat := 0
  who : Nat := 0
  data : List Nat := []
  deriving DecidableEq, Repr

/-- A page scan that runs, and whether a write to the page has spoilt it (R58). -/
structure ScanRun where
  page : Nat
  spoilt : Bool
  deriving DecidableEq, Repr

/-- A chassis (R1, R15, R38, R85, R182, R428). -/
structure Chassis where
  clk : Nat := 0
  /-- The fraction of a clock that has passed, in twelve-hundredths: the model's own (log entry 9). -/
  phase : Nat := 0
  cdtb : W64 := 0
  s2tb : W64 := 0
  ttbr : W64 := 0
  tlb : List TlbEntry := []
  table : List TableEntry := []
  misses : List Miss := []
  walks : List Walk := []
  scanned : SMap Scan := []
  scans : List ScanRun := []
  /-- Masks of the programmable scope entries: key 32 · context + entry, with the context as VMID · 2^20 + PASID (R139). -/
  scopes : RMap 256 := []
  cacheOn : Bool := false
  cache : SMap CacheLine := []
  cacheUses : Nat := 0
  func : BitVec 5 := 0
  duty : BitVec 5 := 0
  parkReq : Bool := false
  parkState : Nat := 0
  savebase : W64 := 0
  saveUsed : List Nat := []
  /-- The launch for whose next trains pre-emption makes room on the chassis (R404). -/
  reserved : Option Nat := none
  overflow : Bool := false
  lost : Nat := 0
  outbound : List HostEvent := []
  buses : SMap Bus := []
  errlog : W64 := 0
  testctl : W64 := 0x1001
  east : Link := {}
  west : Link := {}
  peer : Link := {}
  ts : Nat := 0
  hold : Bool := false
  ps : Nat := 0
  since : Nat := 0
  /-- The pending changes of ts and of hold, each with the time from which it can take effect, in twelve-hundredths of a nanosecond (R426,
  R427), and the time of the last sample. -/
  tsNext : Option (Nat × Nat) := none
  holdNext : Option (Bool × Nat) := none
  sampled : Option Nat := none
  thctl : W64 := 0
  /-- A performance-state step in progress: the new state and the ns at which it ends; the steps slower (positive) or faster that follow it
  (R423). -/
  psStep : Option (Nat × Nat) := none
  psDue : Int := 0
  purse : Nat := 0
  /-- Waiting token requests in order of arrival: coach, slot, draw (R403). -/
  requests : List (Nat × Nat × Nat) := []
  draws : Nat := 0
  cores : SMap Core := []
  deriving DecidableEq, Repr

/-- Forms of a copy (R113). -/
inductive Form where
  | one
  | two (rows : Nat) (ss ds : Int)
  | gather (e x : Nat)
  deriving DecidableEq, Repr

/-- An endpoint of a copy (R115): a virtual address, a kind of R331 with the train-core index and the window offset, or a stream
context. -/
inductive Endpoint where
  | glob (va : W64)
  | buf (kind tc : Nat) (off : W64)
  | stream (id : Nat)
  deriving DecidableEq, Repr

/-- A copy that has been issued (R117 to R130). -/
structure Copy where
  id : Nat
  train : Nat
  /-- Channel context: 4 · train-core index + channel. -/
  chan : Nat
  /-- The issuing coach and operation; none for a copy program. -/
  issuer : Option (Nat × Nat) := none
  ctx : Ctx
  level : Level := .U
  /-- The chassis and core whose channel runs it. -/
  ch : Nat
  core : Nat
  form : Form
  /-- Row length, and total length. -/
  len : Nat
  total : Nat
  src : Endpoint
  dst : Endpoint
  /-- The position of a stream context's source at which it starts (R332). -/
  skip : Nat := 0
  /-- 4 KiB pages of the source and of the destination as translated at issue (R116): virtual page, where it lies, attributes. -/
  spages : List (Nat × Space × Nat × Attr) := []
  dpages : List (Nat × Space × Nat × Attr) := []
  /-- The lanes of the issuing carriage, and the open cart it belongs to. -/
  lanes : Mask := 0
  cart : Nat := 0
  /-- 0 issued, 1 accepted, 2 waiting for a stream window, 3 running, 4 failed and not released. -/
  phase : Nat := 0
  base : Nat := 0
  /-- Every byte at a position below `front` has been performed; the pieces performed beyond it, by their first
  positions, with their lengths. -/
  front : Nat := 0
  done : List (Nat × Nat) := []
  fail : Option (Nat × W64) := none
  /-- What it holds at ring stops (R127): stop, westward, and whether it is a sending context or a receiving window. -/
  windows : List (Nat × Bool × Bool) := []
  deriving DecidableEq, Repr

/-- A stream context, both halves (R166, R167). -/
structure Stream where
  id : Nat
  train : Nat
  src : Nat
  dst : Nat
  west : Bool
  tag : Nat
  vmid : Nat
  pasid : Nat
  window : Nat
  srcKind : Nat
  srcCore : Nat
  srcBase : W64
  srcLen : Nat
  srcRows : Nat
  srcStride : W64
  dstKind : Nat
  dstCore : Nat
  dstBase : W64
  dstLen : Nat
  dstRows : Nat
  dstStride : W64
  /-- Positions: claimed by copies issued, next to send, next to write, credited. -/
  claimed : Nat := 0
  sent : Nat := 0
  next : Nat := 0
  credited : Nat := 0
  err : Bool := false
  /-- The cause and fault address of its error, and the code of a walk. -/
  why : Nat × W64 := (0, 0)
  walk : WalkCode := {}
  closing : Bool := false
  deriving DecidableEq, Repr

/-- One contribution of a core to a reduction (R355). -/
structure Contribution where
  ch : Nat
  coach : Nat
  op : Nat
  core : Nat
  dst : Nat
  all : Bool
  level : Level
  fslot : Nat
  deriving DecidableEq, Repr

/-- A reduction that runs (R171 to R174): parameters, contributions, partial sums per chassis, results. -/
structure Reduction where
  id : Nat
  tag : Nat
  pasid : Nat
  lit : Nat
  prm : Nat
  n : Nat
  contribs : List Contribution := []
  /-- Partial sums gathered at each chassis, by 512 · chassis + part of 32 elements: element sums (80-bit two's complement) and invalid
  marks. -/
  sums : SMap (List (Nat × Bool)) := []
  /-- The chassis whose contributions are in the sums gathered, as a mask, by the same key. -/
  incl : SMap Nat := []
  /-- Chassis whose own count is complete. -/
  sent : BitVec 16 := 0
  /-- The parameters of a contribution differ from the root's (R355). -/
  bad : Bool := false
  results : Option (List Nat) := none
  flags : FlagSet := 0
  received : List Nat := []
  deriving DecidableEq, Repr

/-- What a ring packet carries (R160). -/
inductive Load where
  | stream (copy piece strm pos : Nat) (bytes : List Byte)
  | credit (copy piece strm n : Nat)
  | error (copy piece strm cause : Nat) (addr : W64) (walk : WalkCode)
  /-- 32 partial sums of the given part of a reduction, with the chassis whose contributions they hold (R160, R172). -/
  | reduction (red mask part : Nat) (sums : List (Nat × Bool))
  deriving DecidableEq, Repr

/-- A packet in flight (R160 to R163): where it is, its direction, and whether it has passed the dateline. -/
structure Packet where
  id : Nat
  /-- The sequence number that its source stop gave it, by which a copy sent again is known (R160, R177). -/
  seq : Nat
  src : Nat
  dst : Nat
  stop : Nat
  west : Bool
  vc : Nat := 0
  arrived : Bool := false
  load : Load
  deriving DecidableEq, Repr

/-- A firmware slot (R390). -/
structure FwSlot where
  queue : Nat := 0
  valid : Bool := false
  hostown : Bool := false
  /-- Order of mapping: the ns at which it was mapped. -/
  mapped : Nat := 0
  /-- Host writes that take effect at the end of the round, in order. -/
  pending : List (Nat × Bool × Bool) := []
  deriving DecidableEq, Repr

/-- Who issues the instruction that is executed. -/
inductive Actor where
  | carriage (r : SlotRef)
  | outrider (r : CoachRef)
  deriving DecidableEq, Repr

/-- What the whole step waits for: the bank-side unit of a byte, or something else that takes no access at this moment. -/
inductive Stall where
  | bank (wa : Nat)
  | other
  deriving DecidableEq, Repr

/-- What the step under way has met (log entry 61); blank between steps: the error that the next sector read meets, whether the step stands
at the head of a bank's queue, the banks that it has entered, and what it waits for. -/
structure Doing where
  ecc : Ecc := .clean
  head : Bool := false
  banks : List Nat := []
  stall : Option Stall := none
  deriving DecidableEq, Repr

/-- The completion of a host read (R432, R433): the bytes, completer abort, or unsupported request. -/
inductive HostReply where
  | data (bytes : List Byte)
  | abort
  | unsupported
  deriving DecidableEq, Repr

/-- An SPDM report (R439): the measurements of the boot ROM, the firmware image and the configuration, the transcript hash, and the two
signatures over it: RSA-3072 of 384 bytes, and SLH-DSA with SHA2-192s of 16,224 bytes. -/
structure Report where
  rom : BitVec 384
  image : BitVec 384
  config : BitVec 384
  hash : BitVec 384
  rsa : BitVec 3072
  slh : List Byte
  deriving DecidableEq, Repr

/-- The state of the module. Coaches have the key 4096 · chassis + handle. -/
structure State where
  powered : Bool := true
  stage : Nat := 0
  stageErr : Nat := 0
  memok : BitVec 16 := 0
  /-- fw.load as last accepted, without start (R438). -/
  fwLoad : W64 := 0
  /-- The image check that runs: offset in d0 and length (R438). -/
  check : Option (Nat × Nat) := none
  measured : Option (BitVec 384) := none
  image : Option (BitVec 384) := none
  reports : List Report := []
  /-- The completions of host reads through BAR2 and through BAR0, with their offsets. -/
  hostReads : List (Nat × HostReply) := []
  bar0Reads : List (Nat × HostReply) := []
  hostWrites : List (Nat × List Byte) := []
  peerWrites : List (Nat × Nat × List Byte) := []
  /-- What the module has answered to peers: port, address, and the bytes of a read, or none for an error. -/
  peerReplies : List (Nat × Nat × Option (List Byte)) := []
  msix : List (Nat × Nat) := []
  bar2 : Nat := 36
  evqBase : W64 := 0
  evqCtl : W64 := 6
  evqHead : W32 := 0
  evqTail : W32 := 0
  teardown : Option (BitVec 20) := none
  teardownPasid : BitVec 20 := 0
  flr : List (BitVec 20) := []
  /-- ctx.evict as last written, without busy (R414). -/
  evict : W64 := 0
  qtbase : W64 := 0
  qtsize : Nat := 0
  fwSlots : SMap FwSlot := []
  fwWaiting : List Nat := []
  /-- Multiples of 100 µs at which slots have rotated (R389). -/
  rotation : Nat := 0
  launches : List Launch := []
  gangHold : Option Nat := none
  trains : List Train := []
  coaches : SMap Coach := []
  copies : List Copy := []
  streams : List Stream := []
  reductions : List Reduction := []
  packets : List Packet := []
  nextId : Nat := 0
  ceiling : Nat := 1000
  pscap : Nat := 0
  power : Nat := 0
  duty : Nat := 8
  tokens : Nat := 0
  consumed : Nat := 0
  slowEpochs : Nat := 0
  fastEpochs : Nat := 0
  epoch : Nat := 0
  ns : Nat := 0
  /-- Clocks counted toward the next nanosecond, in twelve-hundredths: the model's own (log entry 9). -/
  nsPart : Nat := 0
  routeMode : Nat := 0
  brk0 : Nat := 0
  brk1 : Nat := 0
  routeEpoch : Nat := 0
  switching : Bool := false
  chassis : SMap Chassis := []
  dram : List Host.Cell := []
  /-- The errors that the cells hold, by sector (R68). -/
  flaws : SMap Ecc := []
  /-- The model's own fields (log entries 2 and 3). -/
  freeCtr : Nat := 0
  agenda : List Turn := []
  cur : Option Actor := none
  doing : Doing := {}
  deriving DecidableEq, Repr

/-- The machine right after module reset (R6, R111, R437). -/
def State.reset : State := {}

/-- Why the machine stops. -/
inductive Fault where
  /-- `step`, where the thermal stop (20 R427) has removed power from the module and no event that restores it is due. Safe: the
  module does nothing until a module reset. -/
  | thermalStop
  deriving DecidableEq, Repr

/-- Why the model gives no meaning. -/
inductive Refusal where
  /-- An arm of `exec` whose instruction has no meaning in the model yet. Safe: nothing can be proved of it. -/
  | notModelled (mnemonic : String)
  deriving DecidableEq, Repr

end Sys2Proof.Machine
end

