-- ==== Sys2Proof/Machine/Maps.lean ====
section
/-! DEFINITION. Reading and writing the finite maps and the byte stores of the state. Every law of these functions holds of every
list, sorted or not; a byte store that is in canonical form stays so. -/

namespace Sys2Proof.Machine

/-! ## Maps -/

/-- The entry of a key. -/
def mget {α : Type} : SMap α → Nat → Option α
  | [], _ => none
  | (k', v) :: m, k => if k' = k then some v else mget m k

/-- A map with the entry of a key replaced or added in order. -/
def mset {α : Type} : SMap α → Nat → α → SMap α
  | [], k, v => [(k, v)]
  | (k', v') :: m, k, v => if k' = k then (k, v) :: m else if k < k' then (k, v) :: (k', v') :: m else (k', v') :: mset m k v

/-- A map without a key. -/
def mdel {α : Type} (m : SMap α) (k : Nat) : SMap α := m.filter fun e => e.1 ≠ k

/-- A register of a map of registers: 0 where none was written. -/
def rget {w : Nat} (m : RMap w) (k : Nat) : BitVec w := (mget m k).getD 0

/-- The values of a map. -/
def mvals {α : Type} (m : SMap α) : List α := m.map Prod.snd

/-! ## Byte stores -/

/-- The byte at an address; one that nothing has written reads 0 (log entry 1). -/
def cget : List Host.Cell → Nat → Byte
  | [], _ => 0
  | (k', v) :: m, k => if k' = k then v else cget m k

/-- A byte store with one byte written, no entry equal to what an unlisted address reads. -/
def cset (m : List Host.Cell) (k : Nat) (v : Byte) : List Host.Cell := if v = 0 then mdel m k else mset m k v

/-- The bytes from an address on. -/
def cread (m : List Host.Cell) (a : Nat) : Nat → List Byte
  | 0 => []
  | n + 1 => cget m a :: cread m (a + 1) n

/-- Bytes written from an address on. -/
def cwrite (m : List Host.Cell) (a : Nat) : List Byte → List Host.Cell
  | [] => m
  | b :: bs => cwrite (cset m a b) (a + 1) bs

/-- The canonical form of a byte store: addresses strictly rising, and no entry that an unlisted address would read. -/
def cellsWf : List Host.Cell → Bool
  | [] => true
  | [(_, v)] => v != 0
  | (a, v) :: (b, w) :: m => v != 0 && a < b && cellsWf ((b, w) :: m)

/-- A byte store without the bytes of a range. -/
def cclear (m : List Host.Cell) (a n : Nat) : List Host.Cell := m.filter fun e => e.1 < a || a + n ≤ e.1

/-! ## Lists of records -/

/-- The first record that satisfies a test, replaced. -/
def updFirst {α : Type} (p : α → Bool) (f : α → α) : List α → List α
  | [] => []
  | x :: xs => if p x then f x :: xs else x :: updFirst p f xs

/-- Put an element before the first that it precedes. -/
def insertBy {α : Type} (lt : α → α → Bool) (a : α) : List α → List α
  | [] => [a]
  | b :: bs => if lt a b then a :: b :: bs else b :: insertBy lt a bs

/-- A list in the order of a test. -/
def sortBy {α : Type} (lt : α → α → Bool) (l : List α) : List α := l.foldr (insertBy lt) []

/-- A fold that stops nowhere, over a list of numbers. -/
def foldNats {σ : Type} (xs : List Nat) (s : σ) (f : σ → Nat → σ) : σ := xs.foldl f s

/-! ## The parts of the state -/

def chassisOf (s : State) (d : Nat) : Chassis := (mget s.chassis d).getD {}
def State.setChassis (s : State) (d : Nat) (c : Chassis) : State := { s with chassis := mset s.chassis d c }
def coreOf (s : State) (d k : Nat) : Core := (mget (chassisOf s d).cores k).getD {}
def State.setCore (s : State) (d k : Nat) (c : Core) : State :=
  s.setChassis d { chassisOf s d with cores := mset (chassisOf s d).cores k c }
/-- A core by its global number (R1). -/
def coreG (s : State) (g : Nat) : Core := coreOf s (g / 16) (g % 16)
def State.setCoreG (s : State) (g : Nat) (c : Core) : State := s.setCore (g / 16) (g % 16) c
def busOf (c : Chassis) (b : Nat) : Bus := (mget c.buses b).getD {}

/-- The key of a coach. -/
def coachKey (ch handle : Nat) : Nat := 4096 * ch + handle
def coachOf (s : State) (key : Nat) : Option Coach := mget s.coaches key
def State.setCoach (s : State) (key : Nat) (c : Coach) : State := { s with coaches := mset s.coaches key c }
def Coach.key (c : Coach) : Nat := coachKey c.ch c.handle
/-- The global number of a coach's core. -/
def Coach.gcore (c : Coach) : Nat := 16 * c.ch + c.core

def trainOf (s : State) (id : Nat) : Option Train := s.trains.find? fun t => t.id == id
def State.setTrain (s : State) (id : Nat) (f : Train → Train) : State :=
  { s with trains := updFirst (fun t => t.id == id) f s.trains }
def launchOf (s : State) (id : Nat) : Option Launch := s.launches.find? fun l => l.id == id
def State.setLaunch (s : State) (id : Nat) (f : Launch → Launch) : State :=
  { s with launches := updFirst (fun l => l.id == id) f s.launches }
def copyOf (s : State) (id : Nat) : Option Copy := s.copies.find? fun c => c.id == id
def State.setCopy (s : State) (id : Nat) (f : Copy → Copy) : State :=
  { s with copies := updFirst (fun c => c.id == id) f s.copies }

/-- The key of the frame of a slot at S or H (R197). -/
def frameKey (slot : Nat) (x : Level) : Nat := 2 * slot + (if x = .H then 1 else 0)
def frameOf (c : Coach) (slot : Nat) (x : Level) : Frame := (mget c.frames (frameKey slot x)).getD {}
def Coach.setFrame (c : Coach) (slot : Nat) (x : Level) (f : Frame) : Coach :=
  { c with frames := mset c.frames (frameKey slot x) f }
/-- The number of a level in keys and records: S 0, H 1. -/
def Level.ix (x : Level) : Nat := if x = .H then 1 else 0
/-- The number of a level in registers: U 0, S 1, H 2 (R367, R415). -/
def Level.code : Level → Nat
  | .U => 0 | .S => 1 | .H => 2
/-- The level of a code; 3 is treated as U (R367). -/
def Level.ofCode : Nat → Level
  | 1 => .S | 2 => .H | _ => .U

def portOf (c : Coach) (q : Nat) : QPort := (mget c.ports q).getD {}
def opOf (c : Coach) (id : Nat) : Option Op := c.ops.find? fun o => o.id == id
def Coach.setOp (c : Coach) (id : Nat) (f : Op → Op) : Coach := { c with ops := updFirst (fun o => o.id == id) f c.ops }

/-- The lanes of a mask, ascending. -/
def lanesOf (m : Mask) : List Nat := laneNums.filter fun l => m.getLsbD l
/-- The mask of one lane. -/
def laneBit (l : Nat) : Mask := 1#32 <<< l
/-- The mask of a list of lanes. -/
def maskOf (ls : List Nat) : Mask := ls.foldl (fun m l => m ||| laneBit l) 0

end Sys2Proof.Machine
end

