-- ==== Sys2Proof/Machine/VectorArith.lean ====
section
/-! DEFINITION. Element arithmetic of the vector instructions (12 R287 to R299): the result pattern of one element and the flags it
raises, from the element type and the mode. -/

namespace Sys2Proof.Machine

/-! ## Exact operations on float values (R287, R289, R291) -/

/-- IV where an operand is a signalling NaN (R221). -/
def sigIV (vs : List Val) : FlagSet := if vs.any (· == .nan true) then fIV else 0

def Val.isNan : Val → Bool
  | .nan _ => true
  | _ => false

def Val.sign : Val → Bool
  | .nan _ => false
  | .inf n => n
  | .zero n => n
  | .fin q => q.isNeg

def Val.neg : Val → Val
  | .nan s => .nan s
  | .inf n => .inf (!n)
  | .zero n => .zero (!n)
  | .fin q => .fin q.neg

def Val.absV : Val → Val
  | .nan s => .nan s
  | .inf _ => .inf false
  | .zero _ => .zero false
  | .fin q => .fin q.abs

/-- The exact sum; an exact zero sum takes the sign that R287 gives. -/
def Val.add (a b : Val) (rnd : Nat) : Val × FlagSet :=
  match a, b with
  | .nan _, _ => (.nan false, sigIV [a, b])
  | _, .nan _ => (.nan false, sigIV [a, b])
  | .inf m, .inf n => if m == n then (.inf m, 0) else (.nan false, fIV)
  | .inf m, _ => (.inf m, 0)
  | _, .inf n => (.inf n, 0)
  | .zero m, .zero n => (.zero (if m == n then m else rnd == 3), 0)
  | .zero _, .fin q => (.fin q, 0)
  | .fin p, .zero _ => (.fin p, 0)
  | .fin p, .fin q => let s := p.add q; (if s.isZero then .zero (rnd == 3) else .fin s, 0)

/-- The exact product. -/
def Val.mul (a b : Val) : Val × FlagSet :=
  let sg := a.sign != b.sign
  match a, b with
  | .nan _, _ => (.nan false, sigIV [a, b])
  | _, .nan _ => (.nan false, sigIV [a, b])
  | .inf _, .zero _ => (.nan false, fIV)
  | .zero _, .inf _ => (.nan false, fIV)
  | .inf _, _ => (.inf sg, 0)
  | _, .inf _ => (.inf sg, 0)
  | .zero _, _ => (.zero sg, 0)
  | _, .zero _ => (.zero sg, 0)
  | .fin p, .fin q => (.fin (p.mul q), 0)

/-- The exact `±(a × b) + d` (R289): IV for 0 × inf whatever the addend. -/
def Val.fma (negProduct : Bool) (a b d : Val) (rnd : Nat) : Val × FlagSet :=
  let (p, f) := a.mul b
  let p := if negProduct then p.neg else p
  if f != 0 then (.nan false, f ||| sigIV [d]) else
  let (r, g) := p.add d rnd
  (r, g ||| sigIV [a, b, d])

/-- The exact quotient (R291). -/
def Val.div (a b : Val) : Val × FlagSet :=
  let sg := a.sign != b.sign
  match a, b with
  | .nan _, _ => (.nan false, sigIV [a, b])
  | _, .nan _ => (.nan false, sigIV [a, b])
  | .inf _, .inf _ => (.nan false, fIV)
  | .zero _, .zero _ => (.nan false, fIV)
  | .inf _, _ => (.inf sg, 0)
  | _, .inf _ => (.zero sg, 0)
  | .zero _, _ => (.zero sg, 0)
  | .fin _, .zero _ => (.inf sg, fDZ)
  | .fin p, .fin q => (.fin (p.div q), 0)

/-- The square root (R291). -/
def Val.sqrt (a : Val) : Val × FlagSet :=
  match a with
  | .nan _ => (.nan false, sigIV [a])
  | .zero n => (.zero n, 0)
  | .inf false => (.inf false, 0)
  | .inf true => (.nan false, fIV)
  | .fin q => if q.isNeg then (.nan false, fIV) else (.fin q.sqrt, 0)

/-- The order of values that are not NaN, −0 below +0 (R290). -/
def Val.below : Val → Val → Bool
  | .inf true, .inf true => false
  | .inf true, _ => true
  | _, .inf true => false
  | .inf false, _ => false
  | _, .inf false => true
  | .zero m, .zero n => m && !n
  | .zero _, .fin q => !q.isNeg
  | .fin p, .zero _ => p.isNeg
  | .fin p, .fin q => p.lt q
  | _, _ => false

/-- VMIN and VMAX of values (R290). -/
def Val.minMax (wantMax : Bool) (a b : Val) : Val × FlagSet :=
  let r :=
    if a.isNan && b.isNan then .nan false
    else if a.isNan then b
    else if b.isNan then a
    else if wantMax then (if a.below b then b else a) else (if b.below a then b else a)
  (r, sigIV [a, b])

/-- Encode a result under the mode, with the flags of the operation. -/
def encodeWith (t : FloatFmt) (m : Mode) (r : Val × FlagSet) : Nat × FlagSet :=
  let (p, f) := t.encode m.rnd m.sat m.ftz r.1
  (p, f ||| r.2)

/-! ## Arithmetic (R289 to R291) -/

/-- The operations of R289 that take up to three operands. -/
inductive ArithOp where
  | add | sub | mul | fma | fnma | min | max | abs | neg | div | sqrt | rndi
  deriving DecidableEq, Repr

/-- The element result of R289 for an integer type. -/
def intArith (op : ArithOp) (t : IntFmt) (sat : Bool) (a b d : Nat) : Nat × FlagSet :=
  let x := t.decode a
  let y := t.decode b
  let z := t.decode d
  let e := t.encodeExact sat
  match op with
  | .add => e (x + y)
  | .sub => e (x - y)
  | .mul => e (x * y)
  | .fma => e (x * y + z)
  | .fnma => e (-(x * y) + z)
  | .min => e (min x y)
  | .max => e (max x y)
  | .abs => e (if x < 0 then -x else x)
  | .neg => e (-x)
  | .div => if y == 0 then (2 ^ t.w - 1, 0) else e (x.tdiv y)
  | .sqrt => if x < 0 then (2 ^ t.w - 1, 0) else (isqrt x.toNat, 0)
  | .rndi => (a % 2 ^ t.w, 0)

/-- RoundTo(a, 1, rnd) keeping the sign (VRNDI, R289). -/
def Val.roundI (rnd : Nat) (v : Val) : Val × FlagSet :=
  match v with
  | .fin q =>
    let n := roundInt q rnd
    (if n == 0 then .zero q.isNeg else .fin (Rat'.ofInt n), if (Rat'.ofInt n).eqv q then 0 else fNX)
  | .nan _ => (.nan false, sigIV [v])
  | v => (v, 0)

/-- The element result of R289 for a binary float type. -/
def floatArith (op : ArithOp) (t : FloatFmt) (m : Mode) (a b d : Nat) : Nat × FlagSet :=
  let x := t.decode m.ftz a
  let y := t.decode m.ftz b
  let z := t.decode m.ftz d
  match op with
  | .add => encodeWith t m (x.add y m.rnd)
  | .sub => encodeWith t m (if y.isNan then (.nan false, sigIV [x, y]) else x.add y.neg m.rnd)
  | .mul => encodeWith t m (x.mul y)
  | .fma => encodeWith t m (Val.fma false x y z m.rnd)
  | .fnma => encodeWith t m (Val.fma true x y z m.rnd)
  | .min => let (r, f) := Val.minMax false x y; ((t.encode 0 false false r).1, f)
  | .max => let (r, f) := Val.minMax true x y; ((t.encode 0 false false r).1, f)
  | .abs => ((t.encode 0 false false x.absV).1, sigIV [x])
  | .neg => ((t.encode 0 false false x.neg).1, sigIV [x])
  | .div => encodeWith t m (x.div y)
  | .sqrt => encodeWith t m x.sqrt
  | .rndi => encodeWith t m (x.roundI m.rnd)

/-- The element result of R289; sl types execute as int32 (R287). -/
def elemArith (op : ArithOp) (m : Mode) (a b d : Nat) : Nat × FlagSet :=
  match m.etype.noSl with
  | .float t => floatArith op t m a b d
  | t => intArith op t.asInt m.sat a b d

/-- The width of an element of a vector instruction (R286, R287). -/
def vecWidth (m : Mode) : Nat := m.etype.noSl.width

/-- The width of an element of an instruction that accepts integer types alone (R250). -/
def intWidth (m : Mode) : Nat := m.etype.asInt.w

/-- R289 over the elements of a register or pair. -/
def regArith (op : ArithOp) (m : Mode) (a b d : Nat) : Nat × FlagSet :=
  let w := vecWidth m
  perElem w fun k => elemArith op m (elem a k w) (elem b k w) (elem d k w)

/-- R289 with a scalar operand, the same for every element. -/
def regArithS (op : ArithOp) (m : Mode) (a c d : Nat) : Nat × FlagSet :=
  let w := vecWidth m
  perElem w fun k => elemArith op m (elem a k w) (c % 2 ^ w) (elem d k w)

/-- VMULH (R289): the high half of the product, no flag. -/
def regMulh (m : Mode) (a b : Nat) : Nat × FlagSet :=
  let t := m.etype.asInt
  perElem t.w fun k => (lowBits (t.decode (elem a k t.w) * t.decode (elem b k t.w) / 2 ^ t.w) t.w, 0)

/-! ## Bits (R292) -/

/-- The shift and count operations of R292. -/
inductive BitOp where
  | shl | shr | clz | popc
  deriving DecidableEq, Repr

/-- The number of leading zero bits of a `w`-bit pattern. -/
def clzNat (w x : Nat) : Nat := if x == 0 then w else w - 1 - Nat.log2 x

/-- The number of one bits among the low `w` bits. -/
def popNat : Nat → Nat → Nat
  | 0, _ => 0
  | w + 1, x => x % 2 + popNat w (x / 2)

/-- R292 over the elements of a register or pair. -/
def regBits (op : BitOp) (m : Mode) (a b : Nat) : Nat × FlagSet :=
  let t := m.etype.asInt
  let q := if t.w == 64 then 6 else Nat.log2 t.w
  perElem t.w fun k =>
    let x := elem a k t.w
    let c := elem b k t.w % 2 ^ q
    match op with
    | .shl => (x * 2 ^ c % 2 ^ t.w, 0)
    | .shr => (lowBits (t.decode x / 2 ^ c) t.w, 0)
    | .clz => (clzNat t.w x, 0)
    | .popc => (popNat t.w x, 0)

/-! ## Compares (R295) -/

/-- The compares of R295. -/
inductive CmpOp where
  | eq | ne | lt | le | un
  deriving DecidableEq, Repr

/-- Equality and order of values that are not NaN, −0 equal to +0. -/
def Val.eqv (a b : Val) : Bool :=
  match a, b with
  | .zero _, .zero _ => true
  | .inf m, .inf n => m == n
  | .fin p, .fin q => p.eqv q
  | _, _ => false

def Val.ltv (a b : Val) : Bool :=
  match a, b with
  | .zero _, .zero _ => false
  | _, _ => a.below b

/-- The result of a compare and its flags, from element 0 of the operands (R295). -/
def compare (op : CmpOp) (m : Mode) (a b : Nat) : Bool × FlagSet :=
  match m.etype.noSl with
  | .float t =>
    let x := t.decode m.ftz (elem a 0 t.w)
    let y := t.decode m.ftz (elem b 0 t.w)
    let un := x.isNan || y.isNan
    match op with
    | .eq => (!un && x.eqv y, sigIV [x, y])
    | .ne => (un || !x.eqv y, sigIV [x, y])
    | .lt => (!un && x.ltv y, if un then fIV else 0)
    | .le => (!un && (x.ltv y || x.eqv y), if un then fIV else 0)
    | .un => (un, sigIV [x, y])
  | et =>
    let t := et.asInt
    let x := t.decode (elem a 0 t.w)
    let y := t.decode (elem b 0 t.w)
    match op with
    | .eq => (x == y, 0)
    | .ne => (x != y, 0)
    | .lt => (x < y, 0)
    | .le => (x ≤ y, 0)
    | .un => (false, 0)

/-! ## Conversions and exponents (R297 to R299) -/

/-- VCVT (R297): element 0 of the source type to the type of the mode. -/
def convert (m : Mode) (src x : Nat) : Nat × FlagSet :=
  match EType.ofCode src, m.etype.noSl with
  | .float s, .float t =>
    let v := s.decode m.ftz (x % 2 ^ s.w)
    encodeWith t m (v, sigIV [v])
  | .float s, t =>
    let v := s.decode m.ftz (x % 2 ^ s.w)
    let (p, f) := t.asInt.encode m.rnd m.sat v
    (p, f ||| sigIV [v])
  | s, .float t => t.encode m.rnd m.sat m.ftz (Val.ofInt (s.asInt.decode x))
  | s, t => t.asInt.encodeExact m.sat (s.asInt.decode x)

/-- An exponent held to a range beyond which no result of any format changes. -/
def clampExp (n : Int) : Int := max (-1000) (min 1000 n)

/-- VXINS (R299). -/
def regXins (m : Mode) (a b : Nat) : Nat × FlagSet :=
  match m.etype with
  | .float t => perElem t.w fun k =>
    let v := t.decode m.ftz (elem a k t.w)
    let n := clampExp (signExt (elem b k t.w) t.w)
    match v with
    | .fin q => encodeWith t m (.fin (q.scale n), 0)
    | .nan _ => (t.nanC, sigIV [v])
    | .inf s => (t.signed s t.infPat, 0)
    | .zero s => (t.signed s 0, 0)
  | _ =>
    let x := signExt a 32
    if x == 0 then (0, 0) else int32.encode m.rnd m.sat (.fin ((Rat'.ofInt x).scale (clampExp (signExt b 32))))

/-- VXEXT (R299). -/
def regXext (m : Mode) (a : Nat) : Nat × FlagSet :=
  let least (w : Nat) : Nat := 2 ^ (w - 1)
  match m.etype with
  | .float t => perElem t.w fun k =>
    match t.decode m.ftz (elem a k t.w) with
    | .fin q => (lowBits q.log2 t.w, 0)
    | .zero _ => (least t.w, fDZ)
    | _ => (least t.w - 1, fIV)
  | _ =>
    let x := signExt a 32
    if x == 0 then (least 32, fDZ) else (Nat.log2 x.natAbs, 0)

/-- VPACK (R298): the width of a width code. -/
def packWidth (code : Nat) : Nat := 16 / 2 ^ code

/-- VUNPK (R298). -/
def unpack (a code k : Nat) (s : Bool) : Nat :=
  let w := packWidth code
  let e := elem a k w
  if !s then e else if w == 2 then lowBits (ternVal e) 32 else lowBits (signExt e w) 32

/-! ## Reductions (R305) -/

/-- The operations of VRED and VSCAN by code (R305). -/
inductive RedOp where
  | add | min | max | and | or | xor
  deriving DecidableEq, Repr

def RedOp.ofCode : Nat → RedOp
  | 0 => .add | 1 => .min | 2 => .max | 3 => .and | 4 => .or | _ => .xor

/-- The exact sum of float contributions (R305): any NaN, or infinities of both signs, gives NaN with IV. -/
def sumVals (rnd : Nat) (vs : List Val) : Val × FlagSet :=
  let pos := vs.any (· == .inf false)
  let neg := vs.any (· == .inf true)
  if vs.any Val.isNan || (pos && neg) then (.nan false, fIV)
  else if pos then (.inf false, 0)
  else if neg then (.inf true, 0)
  else
    let q := vs.foldl (fun (acc : Rat') v => match v with | .fin q => acc.add q | _ => acc) ⟨0, 1⟩
    if q.isZero then (.zero (vs.all (· == .zero true) || rnd == 3), 0) else (.fin q, 0)

/-- The bit operations over patterns. -/
def bitFold (op : RedOp) (w : Nat) (xs : List Nat) : Nat :=
  match op with
  | .and => xs.foldl Nat.land (2 ^ w - 1)
  | .or => xs.foldl Nat.lor 0
  | _ => xs.foldl Nat.xor 0

/-- The identity of an operation for a type (R305). -/
def redIdentity (op : RedOp) : EType → Nat
  | .int t =>
    match op with
    | .add => 0
    | .min => lowBits t.hi t.w
    | .max => lowBits t.lo t.w
    | .and => 2 ^ t.w - 1
    | _ => 0
  | .float t =>
    match op with
    | .add => 0
    | .min => if t.e4 then 0x7E else t.infPat
    | .max => if t.e4 then 0xFE else t.signed true t.infPat
    | .and => 2 ^ t.w - 1
    | _ => 0
  | .sl fb =>
    match op with
    | .add => 0
    | .min => 2 ^ (fb + 3) - 1
    | .max => 2 ^ (fb + 4) + (2 ^ (fb + 3) - 1)
    | .and => 2 ^ (fb + 5) - 1
    | _ => 0

/-- The combination of float contributions under min or max, one after another (R290). -/
def minMaxFold (wantMax : Bool) : List Val → Val
  | [] => .nan false
  | v :: vs => vs.foldl (fun a b => (Val.minMax wantMax a b).1) v

end Sys2Proof.Machine
end

