-- ==== Sys2Proof/Machine/Registers.lean ====
section
/-! DEFINITION. What a register number reaches (10 R240 to R243, 08 R206), with the reads and writes of vector, scalar and predicate
registers and of the queue ports (08 R207). -/

namespace Sys2Proof.Machine

/-! ## Vector registers -/

/-- The register that a vector register number reaches (R241). -/
def vTarget (c : Coach) (k : Carriage) (n : Nat) : VDst :=
  if n < 240 then (if n < c.vregs then .reg n else .drop)
  else if 255 < n then .drop
  else if k.level ≠ .U then .kv k.level (n - 240)
  else if c.access ∧ n < 248 then .port (n - 240)
  else if n < c.vregs then .reg n else .drop

/-- The key of a banked vector register of a lane (R183). -/
def kvKey (x : Level) (i l : Nat) : Nat := 512 * x.ix + 32 * i + l

/-- The position of a lane in a port. -/
def QPort.posOf (p : QPort) (l : Nat) : Nat := (mget p.pos l).getD 0

/-- The key of a lane's element of an entry, in the elements and the faults of a port. -/
def elemKey (entry l : Nat) : Nat := 32 * entry + l

/-- What a lane reads of a port (R206). -/
def QPort.front (p : QPort) (l : Nat) : W32 := if p.dir = .inbound then rget p.elems (elemKey (p.posOf l) l) else 0

/-- v[n][l] (R10, R241). -/
def readV (c : Coach) (k : Carriage) (l n : Nat) : W32 :=
  match vTarget c k n with
  | .reg m => rget c.v (32 * m + l)
  | .kv x i => rget c.kv (kvKey x i l)
  | .port q => (portOf c q).front l
  | .drop => 0

/-- Write a lane of a register that has been resolved; a port takes the element at the lane's position if it is outbound. -/
def writeVD (c : Coach) (l : Nat) (d : VDst) (x : W32) : Coach :=
  match d with
  | .reg m => { c with v := mset c.v (32 * m + l) x }
  | .kv y i => { c with kv := mset c.kv (kvKey y i l) x }
  | .port q =>
    let p := portOf c q
    if p.dir = .outbound then { c with ports := mset c.ports q { p with elems := mset p.elems (elemKey (p.posOf l) l) x } } else c
  | .drop => c

/-- Write v[n][l]. -/
def writeV (c : Coach) (k : Carriage) (l n : Nat) (x : W32) : Coach := writeVD c l (vTarget c k n) x

/-- The pair at `n` (R243). -/
def readPair (c : Coach) (k : Carriage) (l n : Nat) : W64 := readV c k l (n + 1) ++ readV c k l n

/-- An element operand: one register, or a pair under int64 (R286). -/
def readE (c : Coach) (k : Carriage) (m : Mode) (l n : Nat) : Nat :=
  if m.isInt64 then (readPair c k l n).toNat else (readV c k l n).toNat

/-- The registers that a value of one register, or of a pair under int64, is written to, with the parts. -/
def writesE (m : Mode) (n x : Nat) : List (Nat × W32) :=
  if m.isInt64 then [(n, BitVec.ofNat 32 x), (n + 1, BitVec.ofNat 32 (x / 2 ^ 32))] else [(n, BitVec.ofNat 32 x)]

/-! ## Predicates -/

/-- p[n][l] (R242): p0 is all-true. -/
def readP (c : Coach) (n l : Nat) : Bool := n == 0 || (rget c.p n).getLsbD l

/-- Write p[n][l]; p0 ignores it. -/
def writeP (c : Coach) (n l : Nat) (b : Bool) : Coach :=
  if n = 0 then c else
  let x := rget c.p n
  { c with p := mset c.p n (if b then x ||| laneBit l else x &&& ~~~laneBit l) }

/-! ## Scalar registers -/

/-- The register that a scalar register number reaches (R242). -/
def sTarget (k : Carriage) (n : Nat) : SDst :=
  if n = 0 ∨ 255 < n then .drop
  else if n < 240 ∨ k.level = .U then .reg n
  else .k (frameKey k.fslot k.level) (n - 240)

/-- The key of a banked scalar register of a frame (R183). -/
def kKey (frame i : Nat) : Nat := 16 * frame + i

/-- The value of a scalar register that has been resolved. -/
def readSD (c : Coach) (d : SDst) : W64 :=
  match d with
  | .reg n => rget c.s n
  | .k f i => rget c.k (kKey f i)
  | .outrider n => rget c.outr.s n
  | .drop => 0

/-- Write a scalar register that has been resolved. -/
def writeSD (c : Coach) (d : SDst) (x : W64) : Coach :=
  match d with
  | .reg n => { c with s := mset c.s n x }
  | .k f i => { c with k := mset c.k (kKey f i) x }
  | .outrider n => { c with outr := { c.outr with s := mset c.outr.s n x } }
  | .drop => c

/-- s[n] of a carriage. -/
def readS (c : Coach) (k : Carriage) (n : Nat) : W64 := readSD c (sTarget k n)

/-- Write s[n] of a carriage. -/
def writeS (c : Coach) (k : Carriage) (n : Nat) (x : W64) : Coach := writeSD c (sTarget k n) x

/-- The register that a scalar register number reaches in an outrider context (R242). -/
def oTarget (n : Nat) : SDst := if n = 0 ∨ 63 < n then .drop else .outrider n

/-! ## Mode, guard and lanes -/

/-- The mode register of the level of a carriage (R183, R247). -/
def modeOf (c : Coach) (k : Carriage) : Mode := if k.level = .U then c.mode else (frameOf c k.fslot k.level).mode

/-- Write the mode register of the level of a carriage. -/
def setMode (c : Coach) (k : Carriage) (m : Mode) : Coach :=
  if k.level = .U then { c with mode := m } else c.setFrame k.fslot k.level { frameOf c k.fslot k.level with mode := m }

/-- Guard(l) (R12). -/
def guardOf (c : Coach) (m : Mode) (l : Nat) : Bool := readP c m.guardIdx l != m.guardInv

/-- The set active (R11). -/
def activeOf (c : Coach) (k : Carriage) : Mask :=
  maskOf ((lanesOf (k.lanes &&& ~~~c.exited)).filter fun l => guardOf c (modeOf c k) l)

/-- The lanes of a carriage, whatever the guard. -/
def wholeOf (_c : Coach) (k : Carriage) : Mask := k.lanes

/-- Whether a coach stands in the save pool (R412). -/
def Coach.saved (c : Coach) : Bool :=
  match c.resid with
  | .saved _ _ => true
  | _ => false

/-- The lanes that have not exited. -/
def liveOf (c : Coach) : List Nat := lanesOf (~~~c.exited)

/-! ## Queue ports (R206 to R208) -/

/-- The registers of an operand (R243, R286). -/
def operandNums (m : Mode) (o : Operand) : List Nat :=
  let n := match o.span with
    | .regs n => n
    | .elem => if m.isInt64 then 2 else 1
  (List.range n).map fun j => o.num.toNat + j

/-- The ports that some operands of an instruction name. -/
def portsAmong (c : Coach) (k : Carriage) (os : List Operand) : List Nat :=
  (os.flatMap fun o => (operandNums (modeOf c k) o).filterMap fun n =>
    match vTarget c k n with
    | .port q => some q
    | _ => none).eraseDups

/-- The inbound ports that an instruction pops (R207). -/
def popsOf (c : Coach) (k : Carriage) (i : Instr) : List Nat :=
  (portsAmong c k ((operands i).filter fun o => o.vec && o.reads)).filter fun q => (portOf c q).dir = .inbound

/-- The outbound ports that an instruction pushes (R207). -/
def pushesOf (c : Coach) (k : Carriage) (i : Instr) : List Nat :=
  (portsAmong c k ((operands i).filter fun o => o.vec && o.writes)).filter fun q => (portOf c q).dir = .outbound

/-- Entries that every live lane has passed: freed inbound entries, or complete outbound ones (R207). Once no lane lives, that is every
entry filled, or every entry that the port holds, to which exited lanes contribute zero (DEDUCED, log entry 61). -/
def passedOf (c : Coach) (p : QPort) : Nat :=
  match liveOf c with
  | [] => if p.dir = .inbound then p.filled else p.head + p.depth
  | l :: ls => ls.foldl (fun n l => min n (p.posOf l)) (p.posOf l)

/-- A port without the marks of lanes that have exited (R208, R416), and an inbound one without the entries that every live lane has passed. -/
def freeEntries (c : Coach) (p : QPort) : QPort :=
  let h := max p.head (passedOf c p)
  let faults := p.faults.filter fun e => !c.exited.getLsbD (e.1 % 32)
  if p.dir = .inbound then { p with head := h, elems := p.elems.filter fun e => 32 * h ≤ e.1, faults := faults }
  else { p with faults := faults }

/-- Free what every live lane has passed, in all ports. -/
def freeQueues (c : Coach) : Coach := { c with ports := c.ports.map fun e => (e.1, freeEntries c e.2) }

/-- Advance the positions of some lanes in some ports by one entry (R207): a lane that passes a faulted element has consumed its mark (R416). -/
def advancePorts (c : Coach) (qs ls : List Nat) : Coach :=
  if qs.isEmpty then c else
  let step (p : QPort) : QPort :=
    { p with
      pos := ls.foldl (fun m l => mset m l (p.posOf l + 1)) p.pos
      faults := p.faults.filter fun e => e.2.write || !ls.any fun l => e.1 == elemKey (p.posOf l) l }
  freeQueues { c with ports := qs.foldl (fun ps q => mset ps q (step (portOf c q))) c.ports }

/-- The oldest failed outbound write of a lane in a port: its entry and the fault (R208). -/
def failedWrite (p : QPort) (l : Nat) : Option (Nat × QFault) :=
  (p.faults.find? fun e => e.2.write && e.1 % 32 == l).map fun e => (e.1 / 32, e.2)

/-- A lane's trap for a failed access to a port (R208, R407). -/
def QFault.trap (f : QFault) (l kind q : Nat) : LaneTrap :=
  { lane := l, cause := f.cause, addr := f.addr, kind := kind, reason := f.walk.reason, stage := f.walk.stage, wlevel := f.walk.wlevel, port := q }

/-- The trap of a lane that pops a port (R208, R330). -/
def popTrap (c : Coach) (k : Carriage) (l q : Nat) : Option LaneTrap :=
  let p := portOf c q
  let t (cause : Nat) (a : W64) : Option LaneTrap := some { lane := l, cause := cause, addr := a, kind := 6, port := q }
  match c.outr.failed, mget p.faults (elemKey (p.posOf l) l) with
  | some a, _ => t 0x12 a
  | none, some f => some (f.trap l 6 q)
  | none, none => if c.outr.ended ∧ p.filled ≤ p.posOf l then t 0x12 k.pc else none

/-- The trap of a lane that pushes to a port (R208, R330). -/
def pushTrap (c : Coach) (k : Carriage) (l q : Nat) : Option LaneTrap :=
  let p := portOf c q
  let t (cause : Nat) (a : W64) : Option LaneTrap := some { lane := l, cause := cause, addr := a, kind := 7, port := q }
  match c.outr.failed, failedWrite p l with
  | some a, _ => t 0x12 a
  | none, some (_, f) => some (f.trap l 7 q)
  | none, none => if c.outr.ended then t 0x12 k.pc else none

/-- The queue trap of a lane at an instruction. -/
def queueTrap (c : Coach) (k : Carriage) (i : Instr) (l : Nat) : Option LaneTrap :=
  (((popsOf c k i).filterMap (popTrap c k l)) ++ ((pushesOf c k i).filterMap (pushTrap c k l))).head?

end Sys2Proof.Machine
end

