-- ==== Sys2Proof/Machine/Flags.lean ====
section
/-! DEFINITION. The sticky flags (09 R234 to R236) and the floating-point exceptions (16 R366, R368). -/

namespace Sys2Proof.Machine

/-- The cstat of the level of a carriage (R183, R234). -/
def cstatOf (c : Coach) (k : Carriage) : FlagSet := if k.level = .U then c.cstat else (frameOf c k.fslot k.level).cstat

/-- Write the cstat of a level and frame slot. -/
def setCstatAt (c : Coach) (x : Level) (fslot : Nat) (f : FlagSet) : Coach :=
  if x = .U then { c with cstat := f } else c.setFrame fslot x { frameOf c fslot x with cstat := f }

/-- Write the cstat of the level of a carriage. -/
def setCstat (c : Coach) (k : Carriage) (f : FlagSet) : Coach := setCstatAt c k.level k.fslot f

/-- Set flags in the cstat of the level of a carriage; no bit is cleared (R235). -/
def addFlags (c : Coach) (k : Carriage) (f : FlagSet) : Coach := setCstat c k (cstatOf c k ||| f)

/-- The key of the cstat of a level and frame slot. -/
def cstatKey (x : Level) (fslot : Nat) : Nat := if x = .U then 0 else 1 + frameKey fslot x

/-- Set flags in the cstat of a level and frame slot, as a reply or a result does (R235); they count as raised in this clock (R236). -/
def addFlagsAt (c : Coach) (x : Level) (fslot : Nat) (f : FlagSet) : Coach :=
  let c := setCstatAt c x fslot ((if x = .U then c.cstat else (frameOf c fslot x).cstat) ||| f)
  { c with raised := mset c.raised (cstatKey x fslot) (rget c.raised (cstatKey x fslot) ||| f) }

/-- An XWR to cstat (R236): flags that replies and results have raised in the same clock are ORed into the written value. -/
def writeCstat (c : Coach) (k : Carriage) (f : FlagSet) : Coach := setCstat c k (f ||| rget c.raised (cstatKey k.level k.fslot))

/-- Whether flags of a lane trap with cause 0x30: the lane is at U and fpen enables one of them (R368). -/
def fpTraps (c : Coach) (k : Carriage) (f : FlagSet) : Bool := k.level == .U && (f.setWidth 5 &&& c.fpen) != 0

end Sys2Proof.Machine
end

