-- ==== Sys2Proof/Machine/Carriages.lean ====
section
/-! DEFINITION. Carriages and the siding (08 R187 to R195): moving a pc, coupling, filling free slots, dividing, exiting. -/

namespace Sys2Proof.Machine

/-- Whether two carriages or siding entries couple (R192): the same pc, level and repeat state, and at S or H the same frame slot. -/
def Carriage.meets (a b : Carriage) : Bool :=
  a.pc == b.pc && a.level == b.level && a.rep == b.rep && (a.level == .U || a.fslot == b.fslot)

/-- A siding entry as the carriage it becomes in slot `j` (R191): an entry at U takes that slot as its frame slot. -/
def SidingEntry.carriage (e : SidingEntry) (j : Nat) : Carriage :=
  { pc := e.pc, lanes := e.lanes, level := e.level, member := e.member, rep := e.rep, wake := e.wake,
    fslot := if e.level = .U then j else e.fslot, bar := e.bar }

/-- A carriage as a siding entry. -/
def Carriage.entry (k : Carriage) : SidingEntry :=
  { pc := k.pc, lanes := k.lanes, level := k.level, member := k.member, rep := k.rep, fslot := k.fslot, wake := k.wake, bar := k.bar }

/-- Merge the lanes and members of coupling carriages (R192). The other fields are bookkeeping (log entry 10); a carriage that takes in a parked
one is parked with it (log entry 15). -/
def Carriage.join (a b : Carriage) : Carriage :=
  { a with
    lanes := a.lanes ||| b.lanes
    member := a.member ||| b.member
    blocked := 0
    wait := none
    wake := max a.wake b.wake
    promoted := max a.promoted b.promoted
    lastIssue := max a.lastIssue b.lastIssue
    yieldUntil := max a.yieldUntil b.yieldUntil
    parked := a.parked || b.parked
    bar := none
    spawn := none
    spawned := a.spawned ||| b.spawned }

/-- Whether an operation keeps a fence from ending (R140, R325): a load, store, atomic or command that is not complete, or a CFLUSH, CINV or
TLBINV, which count as stores do (R335, R371). -/
def Op.fenced (o : Op) : Bool :=
  !o.done && !o.outrider && (match o.kind with
    | .load => true | .store => true | .atomic _ _ => true | .cmd _ => true | .cflush => true | .cinv => true | .tlbinv _ _ _ _ => true
    | _ => false)

/-- Whether earlier operations of a coach keep a FENCE from ending (R325). -/
def unfenced (c : Coach) : Bool := c.ops.any Op.fenced

/-- The barrier at which some of the carriages wait. -/
def barrierOf (ks : List Carriage) : Option Nat := ks.findSome? Carriage.bar

/-- Lanes arrive at a barrier (R372); the arrival acts as a FENCE does (R140). -/
def arriveAt (c : Coach) (n : Nat) (m : Mask) : Coach :=
  { c with arrived := mset c.arrived n (rget c.arrived n ||| m), hold := c.hold || unfenced c }

/-- Lanes that couple with a carriage that waits at a barrier arrive there with it, and the merged carriage waits (24 R446). -/
def arriveJoined (c : Coach) (bar : Option Nat) (j : Nat) (k : Carriage) : Coach :=
  match bar with
  | some n => arriveAt { c with slots := mset c.slots j { k with wait := some (.bar n), bar := some n } } n k.lanes
  | none => { c with slots := mset c.slots j k }

/-- Let the carriage of slot `j` take in every carriage and unheld siding entry that it meets; the result lies in the lowest slot
concerned (R192, R446). -/
def coupleAt (c : Coach) (j : Nat) : Coach :=
  match mget c.slots j with
  | none => c
  | some k =>
    let other (e : Nat × Carriage) : Bool := e.1 != j && k.meets e.2
    let parted (e : SidingEntry) : Bool := e.held.isNone && k.meets (e.carriage j)
    let ds := c.slots.filter other
    let es := c.siding.filter parted
    if ds.isEmpty && es.isEmpty then c else
    let others := ds.map Prod.snd ++ es.map fun e => e.carriage j
    let k' := others.foldl Carriage.join k
    let j' := (ds.map Prod.fst).foldl min j
    let k' := if k'.level = .U then { k' with fslot := j' } else k'
    arriveJoined { c with slots := c.slots.filter fun e => !other e && e.1 != j, siding := c.siding.filter fun e => !parted e }
      (barrierOf (k :: others)) j' k'

/-- Let slot `j`, if it is free, take the lowest siding entry that is not held (R191). For R188 it counts as a carriage that issued when its
coach did last, so that no ready carriage waits for it. -/
def fillAt (c : Coach) (j : Nat) : Coach :=
  match mget c.slots j, c.siding.find? (fun e => e.held.isNone) with
  | none, some e =>
    { c with slots := mset c.slots j { e.carriage j with lastIssue := c.issued }, siding := c.siding.erase e }
  | _, _ => c

/-- The four carriage slots. -/
def slotNums : List Nat := [0, 1, 2, 3]

/-- Couple every carriage with what it meets, then fill free slots, each filled slot coupling in turn (R191, R192). -/
def settle (c : Coach) : Coach :=
  let c := slotNums.foldl coupleAt c
  slotNums.foldl (fun c j => coupleAt (fillAt c j) j) c

/-- Whether a group that goes to the siding joins an entry (R190). -/
def SidingEntry.joins (a b : SidingEntry) : Bool :=
  a.pc == b.pc && a.level == b.level && a.rep == b.rep && b.held.isNone && (a.level == .U || a.fslot == b.fslot)

/-- Insert a new entry in ascending order of pc, behind older ones of the same pc (R190). -/
def insertEntry (e : SidingEntry) : List SidingEntry → List SidingEntry
  | [] => [e]
  | x :: xs => if e.pc.toNat < x.pc.toNat then e :: x :: xs else x :: insertEntry e xs

/-- A group that is not held goes to the siding: it joins an entry or forms a new one (R190). Where only one of the two waits at a barrier, the
whole entry issues the BAR (again). -/
def toSiding (es : List SidingEntry) (e : SidingEntry) : List SidingEntry :=
  if es.any e.joins then
    updFirst e.joins (fun x => { x with
      lanes := x.lanes ||| e.lanes, member := x.member ||| e.member, wake := max x.wake e.wake
      bar := if x.bar = e.bar then x.bar else none }) es
  else insertEntry e es

/-- The carriage after an instruction of `len` bytes, or after one repeat of a REP (R252): its next pc and repeat state. -/
def nextOf (k : Carriage) (len : Nat) : W64 × Option Rep :=
  match k.rep with
  | some r => if r.index < r.count then (k.pc, some { r with index := r.index + 1 }) else (k.pc + BitVec.ofNat 64 len, none)
  | none => (k.pc + BitVec.ofNat 64 len, none)

/-- Set the pc and repeat state of a slot's carriage, which is ready again, and run the fetch check (R192). -/
def moveTo (c : Coach) (j : Nat) (next : W64 × Option Rep) : Coach :=
  match mget c.slots j with
  | none => c
  | some k =>
    settle { c with slots := mset c.slots j { k with pc := next.1, rep := next.2, wait := none, blocked := 0, wake := 0, bar := none, spawn := none, spawned := 0, pages := [] } }

/-- A slot's carriage goes on behind an instruction of `len` bytes. -/
def advance (c : Coach) (j len : Nat) : Coach :=
  match mget c.slots j with
  | none => c
  | some k => moveTo c j (nextOf k len)

/-- The first free slot. -/
def freeSlot (c : Coach) : Option Nat := slotNums.find? fun j => (mget c.slots j).isNone

/-- A further group of a divided carriage takes the lowest free slot, or goes to the siding (R189). -/
def placeGroup (k : Carriage) (c : Coach) (g : W64 × Mask) : Coach :=
  match freeSlot c with
  | some j =>
    let n : Carriage := { k with
      pc := g.1, lanes := g.2, fslot := if k.level = .U then j else k.fslot, promoted := 0, yieldUntil := 0 }
    { c with slots := mset c.slots j n }
  | none => { c with siding := toSiding c.siding { k.entry with pc := g.1, lanes := g.2, wake := 0 } }

/-- Groups of lanes by target, in ascending order of target (R189). -/
def groupsOf (ts : List (Nat × W64)) : List (W64 × Mask) :=
  let add (gs : SMap Mask) (t : Nat × W64) : SMap Mask :=
    mset gs t.2.toNat ((mget gs t.2.toNat).getD 0 ||| laneBit t.1)
  (ts.foldl add []).map fun g => (BitVec.ofNat 64 g.1, g.2)

/-- Divide a slot's carriage by the targets of its lanes (R189). DESIGN CHOICE, unsafe: R189 does not say whether the fetch and coupling of R192
at the lowest group, which may free its slot, come before the further groups take slots; the model places all groups, then couples. -/
def divide (c : Coach) (j : Nat) (ts : List (Nat × W64)) : Coach :=
  match mget c.slots j, groupsOf ts with
  | some k, g :: gs =>
    let k' := { k with pc := g.1, lanes := g.2, wait := none, blocked := 0, wake := 0, pages := [] }
    settle (gs.foldl (placeGroup k') { c with slots := mset c.slots j k' })
  | _, _ => c

/-- Remove lanes from all carriages and entries; a slot or entry without lanes is gone (R195). -/
def removeLanes (c : Coach) (m : Mask) : Coach :=
  { c with
    slots := (c.slots.map fun e => (e.1, { e.2 with lanes := e.2.lanes &&& ~~~m })).filter fun e => e.2.lanes != 0
    siding := (c.siding.map fun e => { e with lanes := e.lanes &&& ~~~m }).filter fun e => e.lanes != 0 }

/-- Lanes exit (R195): they leave their carriages, and queue entries that waited for them alone are freed (R207). -/
def exitLanes (c : Coach) (m : Mask) : Coach :=
  settle (freeQueues { removeLanes c m with exited := c.exited ||| m })

/-- A carriage that waits at a barrier goes on behind its BAR. -/
def Carriage.depart (n : Nat) (k : Carriage) : Carriage :=
  if k.bar = some n then { k with pc := k.pc + 4, wait := none, blocked := 0, bar := none } else k

/-- A siding entry that waits at a barrier goes on behind its BAR. -/
def SidingEntry.depart (n : Nat) (e : SidingEntry) : SidingEntry := if e.bar = some n then { e with pc := e.pc + 4, bar := none } else e

/-- Lanes that wait at a barrier and have trapped at the fetch of their BAR return behind it (R367, R409). -/
def Frame.depart (n : Nat) (f : Frame) : Frame := if f.bar = some n then { f with tpc := f.tpc + 4, npc := f.npc + 4, bar := none } else f

/-- A coach departs from a barrier (R372): what waits there goes on behind its BAR. -/
def departCoach (c : Coach) (n : Nat) : Coach :=
  settle { c with
    arrived := mdel c.arrived n
    slots := c.slots.map fun e => (e.1, e.2.depart n)
    siding := c.siding.map (SidingEntry.depart n)
    frames := c.frames.map fun e => (e.1, e.2.depart n) }

/-- A blocked carriage gives its slot to the lowest siding entry that is not held (R193). -/
def demote (c : Coach) (j clk : Nat) : Coach :=
  match mget c.slots j, c.siding.find? (fun e => e.held.isNone) with
  | some k, some e =>
    settle { c with
      slots := mset c.slots j { e.carriage j with promoted := clk, lastIssue := c.issued }
      siding := toSiding (c.siding.erase e) k.entry }
  | _, _ => c

/-! ## Repeat states in registers (16 R367) -/

/-- A repeat state in the half layout of R367. -/
def repCode : Option Rep → Nat
  | none => 0
  | some r => 1 + 2 * (r.count % 64) + 128 * (r.index % 64) + 2 ^ 13 * (r.steps % 8) + 2 ^ 16 * (r.stride % 4)

/-- The repeat state that a half of R367 holds: an index at or above n makes it idle. -/
def repOf (x : Nat) : Option Rep :=
  if bitOf x 0 && bitsOf x 12 7 ≤ bitsOf x 6 1 then
    some { count := bitsOf x 6 1, index := bitsOf x 12 7, steps := bitsOf x 15 13, stride := bitsOf x 17 16 }
  else none

end Sys2Proof.Machine
end

