-- ==== Sys2Proof/Machine/Events.lean ====
section
/-! DEFINITION. Host events: the ring in host memory and the outbound store of each chassis (19 R411, 21 R435), and the duty split that
decides which events a partition sends (21 R433, R440). -/

namespace Sys2Proof.Machine

/-- log2 of the entry count of the event ring (R435). -/
def evqLsize (s : State) : Nat := max 6 (min 16 (bitsOf s.evqCtl.toNat 4 0))

/-- Whether the event queue takes no event (R435). -/
def evqFull (s : State) : Bool := !s.evqBase.getLsbD 0 || (s.evqTail - s.evqHead).toNat == 2 ^ evqLsize s

/-- The 32 bytes of an event (R435). The place of each part in the data of a type is the model's (log entry 11). -/
def eventBytes (e : HostEvent) : List Byte :=
  leBytes 1 e.ty ++ leBytes 1 e.ch ++ leBytes 2 e.handle ++ leBytes 4 e.who
    ++ (e.data ++ List.replicate (3 - e.data.length) 0).flatMap (leBytes 8)

/-- Write an event to the ring, then the tail, then send the MSI-X message (R435). -/
def deliverEvent (s : State) (e : HostEvent) : State :=
  { s with
    hostWrites := s.hostWrites ++
      [(bitsOf s.evqBase.toNat 49 12 * 4096 + 32 * (s.evqTail.toNat % 2 ^ evqLsize s), eventBytes e)]
    evqTail := s.evqTail + 1
    msix := s.msix ++ [(0, bitsOf s.evqCtl.toNat 10 5)] }

/-- An event of a chassis: delivered, or kept in the outbound store, or dropped and counted (R411). -/
def sendEvent (s : State) (e : HostEvent) : State :=
  let c := chassisOf s e.ch
  if !evqFull s && c.outbound.isEmpty then deliverEvent s e
  else if c.outbound.length < 16 then s.setChassis e.ch { c with outbound := c.outbound ++ [e], overflow := true }
  else s.setChassis e.ch { c with lost := min 0xFFFF (c.lost + 1) }

/-- The function that owns a chassis (R433). -/
def ownerOf (s : State) (d : Nat) : Nat := let f := (chassisOf s d).func.toNat; if 16 < f then 0 else f

/-- All chassis numbers. -/
def dies : List Nat := List.range 16

/-- The chassis of a partition, ascending (R433). -/
def partitionOf (s : State) (f : Nat) : List Nat := dies.filter fun d => ownerOf s d == f

/-- The duty by which a chassis acts: that of the lowest chassis of its partition (R440). -/
def dutyOf (s : State) (d : Nat) : BitVec 5 :=
  match partitionOf s (ownerOf s d) with
  | e :: _ => (chassisOf s e).duty
  | [] => 0

/-- Whether stage-1 faults of a chassis's U carriages are served by the host (R410). -/
def hostServed (s : State) (d : Nat) : Bool := (dutyOf s d).getLsbD 0

end Sys2Proof.Machine
end

