-- ==== Sys2Proof/Machine/Ops.lean ====
section
/-! DEFINITION. Taking a trap and returning from one (08 R198 to R201, 16 R361, R366, R367, 19 R405 to R410), and what every
instruction of a carriage or of an outrider context shares: who issues it, how its lanes trap, and how its carriage goes on. -/

namespace Sys2Proof.Machine

/-! ## Causes and targets -/

/-- The level that a trap of a carriage targets (R405). -/
def targetOf (k : Carriage) (t : LaneTrap) : Level :=
  if k.level = .H then .H
  else if t.cause = 2 ∨ t.cause = 9 then .H
  else if t.cause = 0x11 then (if k.level = .U then .S else .H)
  else if (t.cause = 4 ∨ t.cause = 5) ∧ t.stage = 3 then .H
  else .S

/-- Whether a frame cannot be entered: busy and not re-armed (R197, R198). -/
def Frame.shut (f : Frame) : Bool := f.busy && !f.rearmed

/-- The level at which the lanes of a carriage trap; none when the coach is stuck (step 1 of R198). -/
def trapLevel (c : Coach) (k : Carriage) (ts : List LaneTrap) : Option Level :=
  let x : Level := if ts.any (fun t => targetOf k t == .H) then .H else .S
  let x : Level := if x = .S ∧ (frameOf c k.fslot .S).shut then .H else x
  if x = .H ∧ (frameOf c k.fslot .H).shut then none else some x

/-- The trap of the lowest lane (R406). -/
def lowestTrap (ts : List LaneTrap) : LaneTrap :=
  match ts with
  | [] => { lane := 0, cause := 0, addr := 0 }
  | t :: ts => ts.foldl (fun a b => if b.lane < a.lane then b else a) t

/-- A lane's fault record (R407). -/
def recordOf (t : LaneTrap) (slot depth : Nat) : BitVec 128 :=
  BitVec.ofNat 128 (t.cause % 256 + 2 ^ 8 * (t.kind % 8) + 2 ^ 11 * (t.reason % 8) + 2 ^ 14 * (t.stage % 4) + 2 ^ 16 * (t.wlevel % 8)
    + 2 ^ 19 * (slot % 4) + 2 ^ 21 * (depth % 8) + 2 ^ 24 * (t.port % 8) + 2 ^ 32 * (t.code % 2 ^ 16) + 2 ^ 64 * t.addr.toNat)

/-- The key of a lane's fault record at a level. -/
def recKey (x : Level) (l : Nat) : Nat := 32 * x.ix + l

/-- The handler base of a level on a core (R364, R406). -/
def tvecOf (s : State) (c : Coach) (x : Level) : W64 :=
  let k := coreOf s c.ch c.core
  if x = .H then k.hvTvec else k.svTvec

/-! ## Trap entry -/

/-- The frame of a trap (step 2 of R198, R367): a re-armed frame keeps its depth and the trap lanes of lower depths. -/
def enterFrame (f : Frame) (k : Carriage) (lanes : Mask) (next : W64 × Option Rep) : Frame :=
  let d := if f.busy then f.depth else 0
  { f with
    busy := true
    rearmed := false
    depth := d
    traps := mset (if f.busy then f.traps else []) d lanes
    tpc := k.pc
    npc := next.1
    frep := BitVec.ofNat 64 (repCode k.rep + 2 ^ 32 * repCode next.2)
    fmisc := BitVec.ofNat 64 (k.level.code + 2 ^ 32 * k.member.toNat)
    mode := 0
    cstat := 0
    bar := k.bar }

/-- The queue elements for which some lanes trap (R208): the element at a lane's position for a pop, its failed writes for a push. -/
def markCalled (c : Coach) (ts : List LaneTrap) : Coach :=
  let mark (c : Coach) (q : Nat) (due : QPort → Nat × QFault → Bool) : Coach :=
    let p := portOf c q
    { c with ports := mset c.ports q { p with faults := p.faults.map fun e => (e.1, { e.2 with called := e.2.called || due p e }) } }
  ts.foldl (fun c t =>
    if t.kind = 6 then mark c t.port fun p e => !e.2.write && e.1 == elemKey (p.posOf t.lane) t.lane
    else if t.kind = 7 then mark c t.port fun _ e => e.2.write && e.1 % 32 == t.lane
    else c) c

/-- Steps 2 to 4 of R198 in a coach: the frame, the records, the held siblings and the trap carriage. -/
def enterTrap (c : Coach) (j : Nat) (k : Carriage) (x : Level) (ts : List LaneTrap) (next : W64 × Option Rep) (tvec : W64)
    (parked : Bool) : Coach :=
  let lanes := maskOf (ts.map LaneTrap.lane)
  let f := enterFrame (frameOf c k.fslot x) k lanes next
  let rest := k.lanes &&& ~~~lanes
  let c := (markCalled c ts).setFrame k.fslot x f
  let held : SidingEntry :=
    { pc := next.1, lanes := rest, level := k.level, member := k.member, rep := next.2, fslot := k.fslot
      held := some { slot := k.fslot, level := x, depth := f.depth } }
  settle { c with
    recs := ts.foldl (fun r t => mset r (recKey x t.lane) (recordOf t k.fslot f.depth)) c.recs
    siding := if rest = 0 then c.siding else insertEntry held c.siding
    hold := c.hold || unfenced c
    slots := mset c.slots j
      { k with
        pc := tvec + 64 * BitVec.ofNat 64 (lowestTrap ts).cause
        lanes := lanes
        level := x
        member := 0xFFFFFFFF
        rep := none
        blocked := 0
        wait := none
        wake := 0
        bar := none
        spawn := none
        spawned := 0
        pages := []
        parked := parked } }

/-- Whether a trap is reported to the host and its carriage parked (R410). -/
def reported (s : State) (c : Coach) (k : Carriage) (ts : List LaneTrap) : Bool :=
  let t := lowestTrap ts
  k.level == .U && (t.cause == 4 || t.cause == 5) && t.stage == 1 && trapLevel c k ts == some .S && hostServed s c.ch

/-- Whether a trap entry waits because its fault report finds the store full (R411). -/
def reportWaits (s : State) (c : Coach) (k : Carriage) (ts : List LaneTrap) : Bool :=
  !ts.isEmpty && reported s c k ts && 16 ≤ (chassisOf s c.ch).outbound.length

/-- The fault-report event of a parked trap (R410, R435). -/
def reportEvent (c : Coach) (k : Carriage) (j : Nat) (ts : List LaneTrap) : HostEvent :=
  let f := frameOf c k.fslot .S
  let r := (recordOf (lowestTrap ts) k.fslot (if f.busy then f.depth else 0)).toNat
  { ty := 9, ch := c.ch, handle := c.handle, who := c.pasid.toNat
    data := [j + 2 ^ 32 * (maskOf (ts.map LaneTrap.lane)).toNat, r % 2 ^ 64, r / 2 ^ 64] }

/-- Taking a trap (R198): the lanes of `ts`, of the carriage `k` in slot `j` of coach `c`, with the state behind the instruction. -/
def takeTrap (s : State) (c : Coach) (j : Nat) (k : Carriage) (ts : List LaneTrap) (next : W64 × Option Rep) : State :=
  match trapLevel c k ts with
  | none =>
    sendEvent (s.setCoach c.key { c with stuck := true })
      { ty := 5, ch := c.ch, handle := c.handle, who := c.pasid.toNat, data := [j] }
  | some x =>
    let parked := reported s c k ts
    let s' := s.setCoach c.key (enterTrap c j k x ts next (tvecOf s c x) parked)
    if parked then sendEvent s' (reportEvent c k j ts) else s'

/-- A carriage that cannot go on for a reason that leaves its instruction unissued. -/
def waitFor (c : Coach) (j : Nat) (w : Wait) : Coach :=
  match mget c.slots j with
  | none => c
  | some k => { c with slots := mset c.slots j { k with wait := some w } }

/-! ## Return from a trap -/

/-- The choice of a lane in a resume mask (R361). -/
def resumeChoice (mask : W64) (l : Nat) : Nat := bitsOf mask.toNat (2 * l + 1) (2 * l)

/-- A lane that skips a pop of a faulted element takes its position past the element (R208). -/
def skipPop (c : Coach) (l : Nat) : Coach :=
  (c.ports.map Prod.fst).foldl (fun c q =>
    let p := portOf c q
    if p.dir = .inbound ∧ (mget p.faults (elemKey (p.posOf l) l)).any (·.called) then advancePorts c [q] [l] else c) c

/-- A lane that resumes at its pop of a faulted element has the element read again (R208): its mark goes, and the outrider has one more
read. -/
def rereadFailed (c : Coach) (l : Nat) : Coach :=
  (c.ports.map Prod.fst).foldl (fun c q =>
    let p := portOf c q
    let key := elemKey (p.posOf l) l
    match mget p.faults key with
    | some f =>
      if p.dir != .inbound || f.write || !f.called then c else
      let y : Piece := { lane := l, addr := 0, va := f.va, size := 4, data := f.base, data2 := f.shift, dst := .elem q (p.posOf l) }
      { c with
        ports := mset c.ports q { p with faults := mdel p.faults key }
        ops := c.ops ++ [{ id := c.nextOp, counter := .none, kind := .qread, pieces := [y], outrider := true }]
        nextOp := c.nextOp + 1 }
    | none => c) c

/-- The failed outbound writes for which a lane has trapped are to be written again when it returns (R208): their marks go, and the outrider
has one more write of each. -/
def rewriteFailed (c : Coach) (l : Nat) : Coach :=
  (c.ports.map Prod.fst).foldl (fun c q =>
    let p := portOf c q
    let due (e : Nat × QFault) : Bool := e.2.write && e.2.called && e.1 % 32 == l
    let bad := p.faults.filter due
    if bad.isEmpty then c else
    let piece (e : Nat × QFault) : Piece :=
      { lane := l, addr := 0, va := e.2.va, size := 4, data := e.2.data.toNat, dst := .elem q (e.1 / 32) }
    { c with
      ports := mset c.ports q { p with faults := p.faults.filter fun e => !due e }
      ops := c.ops ++ [{ id := c.nextOp, counter := .none, kind := .qwrite, pieces := bad.map piece, outrider := true }]
      nextOp := c.nextOp + 1 }) c

/-- What a return to level U does for the queue elements for which its lanes have trapped (R208): those that resume at their instruction have
an element read again, those that resume behind it pass the element, and failed writes are written again. Where the next state is the
trapping one, as at a JRV, either choice pops the element again (R278). -/
def returnQueues (c : Coach) (f : Frame) (again onward : Mask) : Coach :=
  let same := f.npc == f.tpc && repOf (bitsOf f.frep.toNat 31 0) == repOf (bitsOf f.frep.toNat 63 32)
  let c := if same then c else (lanesOf onward).foldl skipPop c
  let c := (lanesOf (if same then again ||| onward else again)).foldl rereadFailed c
  (lanesOf (again ||| onward)).foldl rewriteFailed c

/-- The frame that a TRET resolves: one that is re-armed and that no trap has come into is first taken back (R367). -/
def returnFrame (c : Coach) (k : Carriage) : Frame :=
  let f := frameOf c k.fslot k.level
  if f.rearmed && f.depth != 0 then { f with rearmed := false, depth := f.depth - 1 } else f

/-- The trap lanes that a TRET resolves (R361). -/
def returnLanes (c : Coach) (k : Carriage) : Mask :=
  let f := returnFrame c k
  rget f.traps f.depth &&& ~~~c.exited

/-- The trap lanes whose choice satisfies a test. -/
def chosen (c : Coach) (k : Carriage) (mask : W64) (p : Nat → Bool) : Mask :=
  maskOf ((lanesOf (returnLanes c k)).filter fun l => p (resumeChoice mask l))

/-- The trap lanes that exit. -/
def goneLanes (c : Coach) (k : Carriage) (mask : W64) : Mask := chosen c k mask (2 ≤ ·)

/-- What a TRET makes of a coach (R200, R361, R367): the lanes that exit, those at the saved PC in the slot, those at the next state
in the held entry or a new one, and any lanes of the carriage that were not trap lanes, behind the TRET. Where lanes at the saved PC take the
slot, these others take a free slot or go to the siding, as a further group of a division does (R189). -/
def returnTrap (c : Coach) (j : Nat) (k : Carriage) (mask : W64) : Coach :=
  let x := k.level
  let f := returnFrame c k
  let traps := returnLanes c k
  let again := chosen c k mask (· == 0)
  let onward := chosen c k mask (· == 1)
  let gone := goneLanes c k mask
  let level := Level.ofCode (bitsOf f.fmisc.toNat 1 0)
  let member : Mask := BitVec.ofNat 32 (bitsOf f.fmisc.toNat 63 32)
  let holder : Holder := { slot := k.fslot, level := x, depth := f.depth }
  let freed : Frame :=
    if f.depth = 0 then { f with busy := false, rearmed := false, traps := [] }
    else { f with depth := f.depth - 1, traps := f.traps.map fun e => (e.1, e.2 &&& ~~~gone) }
  let c := if level = .U then returnQueues c f again onward else c
  let c := c.setFrame k.fslot x freed
  let stay := k.lanes &&& ~~~traps
  let onto : SidingEntry :=
    { pc := f.npc, lanes := onward, level := level, member := member, rep := repOf (bitsOf f.frep.toNat 63 32), fslot := k.fslot, bar := f.bar }
  -- the held entry is released where it stands; the lanes that resume behind the instruction use the frame's values (R367) and join it
  -- where they have its state
  let siding := updFirst (fun e => e.held == some holder) (fun e => { e with held := none }) c.siding
  let siding := if onward = 0 then siding else toSiding siding onto
  -- lanes of the carriage that are no trap lanes go on behind the TRET at level X
  let back : Carriage :=
    { pc := f.tpc, lanes := again, level := level, member := member, rep := repOf (bitsOf f.frep.toNat 31 0)
      fslot := if level = .U then j else k.fslot, lastIssue := k.lastIssue, bar := f.bar }
  let on : Carriage := { k with pc := k.pc + 4, lanes := stay, wait := none, blocked := 0, rep := none }
  let c := { c with siding := siding, slots := mdel c.slots j, hold := c.hold || unfenced c }
  let c :=
    if again = 0 then (if stay = 0 then c else { c with slots := mset c.slots j on })
    else
      let c := { c with slots := mset c.slots j back }
      if stay = 0 then c else placeGroup on c (on.pc, on.lanes)
  exitLanes c gone

/-! ## Who issues -/

/-- The carriage that issues an instruction, as it stood at issue. -/
structure Iss where
  c : Coach
  slot : Nat
  k : Carriage
  deriving DecidableEq, Repr

/-- The issuing carriage of a state. -/
def issuer (s : State) : Option Iss :=
  match s.cur with
  | some (.carriage r) =>
    match coachOf s r.key with
    | some c =>
      match mget c.slots r.slot with
      | some k => some { c := c, slot := r.slot, k := k }
      | none => none
    | none => none
  | _ => none

/-- A failure of an outrider context's own fetch or operands (R208): it issues nothing more, and the coach's next pop or push traps. -/
def outriderFails (s : State) (key : Nat) (a : W64) : State :=
  match coachOf s key with
  | some c => s.setCoach key { c with outr := { c.outr with failed := some a } }
  | none => s

/-- The outrider context that issues an instruction outside its subset: a failure of that fetch (R260). -/
def outriderRefuses (s : State) (r : CoachRef) : State :=
  match coachOf s r.key with
  | some c => outriderFails s r.key c.outr.pc
  | none => s

/-- An instruction of carriages alone (R205, R260): what the issuing carriage does. -/
def byCarriage (s : State) (f : Iss → State) : Host.Outcome State Fault Refusal :=
  match s.cur with
  | some (.outrider r) => .next (outriderRefuses s r)
  | _ =>
    match issuer s with
    | some x => .next (f x)
    | none => .next s

/-- An instruction of carriages and outrider contexts (R265). -/
def byEither (s : State) (f : Iss → State) (g : CoachRef → Coach → State) : Host.Outcome State Fault Refusal :=
  match s.cur with
  | some (.outrider r) =>
    match coachOf s r.key with
    | some c => .next (g r c)
    | none => .next s
  | _ => byCarriage s f

/-- An instruction of outrider contexts alone (R329): a coach that issues it traps with cause 0x12 in each active lane. -/
def byOutrider (s : State) (f : Iss → State) (g : CoachRef → Coach → State) : Host.Outcome State Fault Refusal :=
  byEither s f g

/-! ## How an instruction ends -/

/-- The carriage goes on behind an instruction of `len` bytes; the coach is `c`. -/
def retire (s : State) (x : Iss) (c : Coach) (len : Nat) : State := s.setCoach x.c.key (advance c x.slot len)

/-- The instruction waits, unissued. -/
def stall (s : State) (x : Iss) (w : Wait) : State := s.setCoach x.c.key (waitFor x.c x.slot w)

/-- The instruction ends: the lanes of `ts` trap and the others go on. A trap that must report to the host and cannot leaves the
instruction unissued (R411). -/
def conclude (s : State) (x : Iss) (c : Coach) (len : Nat) (ts : List LaneTrap) : State :=
  if ts.isEmpty then retire s x c len
  else if reportWaits s x.c x.k ts then stall s x .report
  else takeTrap s c x.slot x.k ts (nextOf x.k len)

/-- Every lane of the carriage traps with one cause and address. -/
def trapAll (s : State) (x : Iss) (len : Nat) (t : LaneTrap) : State :=
  conclude s x x.c len ((lanesOf x.k.lanes).map fun l => { t with lane := l })

/-- Privilege violation (R359): cause 0x11 for every lane, at the instruction. -/
def denied (s : State) (x : Iss) (len : Nat) : State := trapAll s x len { lane := 0, cause := 0x11, addr := x.k.pc }

/-- A reserved value of a literal word (R260): cause 0x07 at the literal's address for the given lanes; where none is active the
instruction does nothing. -/
def literalTrap (s : State) (x : Iss) (lanes : Mask) : State :=
  conclude s x x.c 8 ((lanesOf lanes).map fun l => { lane := l, cause := 7, addr := x.k.pc + 4 })

/-- An outrider context goes on behind an instruction of `len` bytes, or to the next repeat. -/
def advanceOutrider (o : Outrider) (len : Nat) : Outrider :=
  match o.rep with
  | some r => if r.index < r.count then { o with rep := some { r with index := r.index + 1 }, wait := false }
    else { o with rep := none, pc := o.pc + BitVec.ofNat 64 len, wait := false }
  | none => { o with pc := o.pc + BitVec.ofNat 64 len, wait := false }

/-- An outrider instruction ends; the coach is `c`. -/
def retireOutrider (s : State) (r : CoachRef) (c : Coach) (len : Nat) : State :=
  s.setCoach r.key { c with outr := advanceOutrider c.outr len }

/-! ## Scalar instructions (11 R262 to R271) -/

/-- A scalar instruction of `len` bytes: a result computed from the registers as they stand at issue, written to s[d]. -/
def scalar (s : State) (len : Nat) (d : BitVec 8) (f : (Nat → W64) → W64) : Host.Outcome State Fault Refusal :=
  byEither s
    (fun x => retire s x (writeS x.c x.k d.toNat (f (readS x.c x.k))) len)
    (fun r c => retireOutrider s r (writeSD c (oTarget d.toNat) (f fun n => readSD c (oTarget n))) len)

/-! ## Lane instructions -/

/-- What an instruction makes of one lane: registers and predicates written, and flags raised. -/
structure LaneOut where
  writes : List (Nat × W32) := []
  preds : List (Nat × Bool) := []
  flags : FlagSet := 0
  deriving DecidableEq, Repr

/-- Write the results of one lane. -/
def applyLane (c : Coach) (k : Carriage) (l : Nat) (o : LaneOut) : Coach :=
  let c := o.writes.foldl (fun c w => writeV c k l w.1 w.2) c
  o.preds.foldl (fun c w => writeP c w.1 l w.2) c

/-- How one lane of a lane instruction ends: with a trap, or with results. Checked in this order: a trap of the instruction itself, a
queue trap (R208), a floating-point exception (R368). -/
def laneEnd (i : Instr) (own : Coach → Carriage → Nat → Option LaneTrap) (f : Coach → Carriage → Nat → LaneOut) (c : Coach)
    (k : Carriage) (l : Nat) : Except LaneTrap LaneOut :=
  match own c k l, queueTrap c k i l with
  | some t, _ => .error t
  | none, some t => .error t
  | none, none =>
    let o := f c k l
    if fpTraps c k o.flags then .error { lane := l, cause := 0x30, addr := k.pc } else .ok o

/-- The traps among the ends of lanes. -/
def trapsOf (es : List (Nat × Except LaneTrap LaneOut)) : List LaneTrap :=
  es.filterMap fun e => match e.2 with
    | .error t => some t
    | .ok _ => none

/-- The results among the ends of lanes. -/
def outsOf (es : List (Nat × Except LaneTrap LaneOut)) : List (Nat × LaneOut) :=
  es.filterMap fun e => match e.2 with
    | .error _ => none
    | .ok o => some (e.1, o)

/-- The coach after the lanes that complete: results, flags, and queue positions (R11, R13, R207). -/
def applyLanes (c : Coach) (k : Carriage) (i : Instr) (outs : List (Nat × LaneOut)) : Coach :=
  let c' := outs.foldl (fun c e => applyLane c k e.1 e.2) c
  let c' := addFlags c' k (orFlags (outs.map fun e => e.2.flags))
  advancePorts c' (popsOf c k i ++ pushesOf c k i) (outs.map Prod.fst)

/-- A lane instruction: every lane of a set reads the registers as they stand at issue; then the results are written (R11). -/
def laneStep (s : State) (x : Iss) (i : Instr) (len : Nat) (lanes : Mask) (own : Coach → Carriage → Nat → Option LaneTrap)
    (f : Coach → Carriage → Nat → LaneOut) : State :=
  let es := (lanesOf lanes).map fun l => (l, laneEnd i own f x.c x.k l)
  conclude s x (applyLanes x.c x.k i (outsOf es)) len (trapsOf es)

/-- No trap of the instruction itself. -/
def noTrap (_ : Coach) (_ : Carriage) (_ : Nat) : Option LaneTrap := none

/-- A lane instruction over the active set (R11, R249). -/
def vector (s : State) (i : Instr) (len : Nat) (f : Coach → Carriage → Nat → LaneOut) : Host.Outcome State Fault Refusal :=
  byCarriage s fun x => laneStep s x i len (activeOf x.c x.k) noTrap f

end Sys2Proof.Machine
end

