-- ==== Sys2Proof/Machine/LevelIndex.lean ====
section
/-! DEFINITION. Symmetric level-index arithmetic (09 R230 to R233, 13 R308 to R315): every result is the exact real result rounded
once. The exact results are transcendental, so each is enclosed between two numbers of a fixed scale, by interval arithmetic with
outward rounding, at growing precision, until both ends round alike. -/

namespace Sys2Proof.Machine

/-! ## Enclosures: `lo ≤ x · 2^P ≤ hi` -/

/-- An enclosure of a real number at scale `2^P`. -/
structure Iv where
  lo : Int
  hi : Int
  deriving DecidableEq, Repr

/-- The quotient rounded up. -/
def cdiv (a : Int) (b : Int) : Int := -((-a) / b)

def Iv.pt (n : Int) : Iv := ⟨n, n⟩
def Iv.add (a b : Iv) : Iv := ⟨a.lo + b.lo, a.hi + b.hi⟩
def Iv.neg (a : Iv) : Iv := ⟨-a.hi, -a.lo⟩
def Iv.sub (a b : Iv) : Iv := a.add b.neg
/-- The enclosure of a rational number. -/
def Iv.ofRat (P : Nat) (q : Rat') : Iv := ⟨q.num * 2 ^ P / q.den, cdiv (q.num * 2 ^ P) q.den⟩
/-- The product of enclosures of numbers that are not negative. -/
def Iv.mulPos (P : Nat) (a b : Iv) : Iv := ⟨a.lo * b.lo / 2 ^ P, cdiv (a.hi * b.hi) (2 ^ P)⟩
/-- The quotient of enclosures, both positive. -/
def Iv.divPos (P : Nat) (a b : Iv) : Iv := ⟨a.lo * 2 ^ P / b.hi, cdiv (a.hi * 2 ^ P) b.lo⟩
/-- Division by a positive integer. -/
def Iv.divNat (a : Iv) (n : Nat) : Iv := ⟨a.lo / n, cdiv a.hi n⟩
/-- The smallest enclosure that holds both. -/
def Iv.hull (a b : Iv) : Iv := ⟨min a.lo b.lo, max a.hi b.hi⟩

/-- Terms of the exponential series of `x` in [0, 1], the sum so far, and the last term; the rest of the series is below twice the
last term. -/
def expTerms (P : Nat) (x : Iv) : Nat → Nat → Iv → Iv → Iv
  | 0, _, sum, t => ⟨sum.lo, sum.hi + 2 * t.hi⟩
  | n + 1, k, sum, t =>
    let t' := (t.mulPos P x).divNat k
    if t'.hi ≤ 1 then ⟨sum.lo, sum.hi + 4⟩ else expTerms P x n (k + 1) (sum.add t') t'

/-- Repeated squaring. -/
def sqTimes (P : Nat) : Nat → Iv → Iv
  | 0, a => a
  | n + 1, a => sqTimes P n (a.mulPos P a)

/-- The exponential of a point that is not negative: halve until at most 2^-8, sum the series, square back. -/
def expPt (P : Nat) (x : Int) : Iv :=
  let k := Nat.log2 (x.toNat / 2 ^ P + 1) + 9
  let r : Iv := ⟨x / 2 ^ k, cdiv x (2 ^ k)⟩
  sqTimes P k (expTerms P r (P + 8) 1 (Iv.pt (2 ^ P)) (Iv.pt (2 ^ P)))

/-- The exponential of an enclosure of a number that is not negative. -/
def Iv.expPos (P : Nat) (a : Iv) : Iv := ⟨(expPt P (max a.lo 0)).lo, (expPt P (max a.hi 0)).hi⟩

/-- The exponential of the negative of a number that is not negative. -/
def Iv.expNeg (P : Nat) (a : Iv) : Iv := (Iv.pt (2 ^ P)).divPos P (a.expPos P)

/-- Terms of the series of the inverse hyperbolic tangent of `z` in [0, 1/2), from power `z^k`. -/
def atanhTerms (P : Nat) (z2 : Iv) : Nat → Nat → Iv → Iv → Iv
  | 0, _, sum, p => ⟨sum.lo, sum.hi + 2 * p.hi⟩
  | n + 1, k, sum, p =>
    let sum' := sum.add (p.divNat k)
    let p' := p.mulPos P z2
    if p'.hi ≤ 1 then ⟨sum'.lo, sum'.hi + 4⟩ else atanhTerms P z2 n (k + 2) sum' p'

/-- The inverse hyperbolic tangent of an enclosure in [0, 1/2). -/
def Iv.atanh (P : Nat) (z : Iv) : Iv :=
  let z2 := z.mulPos P z
  atanhTerms P z2 (P + 8) 1 ⟨0, 0⟩ z

/-- The natural logarithm of 2. -/
def ln2 (P : Nat) : Iv :=
  let a := Iv.atanh P (Iv.ofRat P ⟨1, 3⟩)
  a.add a

/-- The natural logarithm of a positive point. -/
def lnPt (P : Nat) (x : Int) : Iv :=
  let e : Int := (Nat.log2 x.toNat : Int) - P
  let m : Iv := if e ≥ 0 then ⟨x / 2 ^ e.toNat, cdiv x (2 ^ e.toNat)⟩ else Iv.pt (x * 2 ^ (-e).toNat)
  let one : Iv := Iv.pt (2 ^ P)
  let z := (m.sub one).divPos P (m.add one)
  let a := Iv.atanh P z
  let l := ln2 P
  let el : Iv := if e ≥ 0 then ⟨l.lo * e, l.hi * e⟩ else ⟨l.hi * e, l.lo * e⟩
  (a.add a).add el

/-- The natural logarithm of an enclosure whose lower end is positive; none where it is not. -/
def Iv.ln (P : Nat) (a : Iv) : Option Iv := if a.lo ≤ 0 then none else some ⟨(lnPt P a.lo).lo, (lnPt P a.hi).hi⟩

/-! ## The generalised logarithm and exponential (R231, R232) -/

/-- Phi(s) of R231 for an index `s = u / 2^fb` given by its scaled number, where it stays below `2^P`; none beyond. -/
def phi (P fb : Nat) : Nat → Nat → Option Iv
  | 0, u => some (Iv.ofRat P ⟨u, 2 ^ fb⟩)
  | n + 1, u =>
    if u < 2 ^ fb then some (Iv.ofRat P ⟨u, 2 ^ fb⟩)
    else match phi P fb n (u - 2 ^ fb) with
      | none => none
      | some a => if a.hi ≥ (P / 2 : Int) * 2 ^ P then none else some (a.expPos P)

/-- The index of a positive number: the s with Phi(s) = v. -/
def psi (P : Nat) : Nat → Iv → Option Iv
  | 0, _ => none
  | n + 1, v =>
    let one : Int := 2 ^ P
    if v.lo ≤ 0 then none
    else if v.hi < one then some v
    else if v.lo < one then
      match (Iv.pt v.hi).ln P with
      | none => none
      | some l => some ⟨v.lo, one + l.hi⟩
    else match v.ln P with
      | none => none
      | some l =>
        match (if l.lo ≤ 0 then some ⟨0, l.hi⟩ else psi P n l) with
        | none => none
        | some i => some ⟨one + i.lo, one + i.hi⟩

/-- The index of Phi(u) + d, which is positive. Where Phi(u) is beyond the scale, `d` moves its logarithm by less than
`2^(1 - P / 2)` of `d`. -/
def idxPlus (P fb : Nat) : Nat → Nat → Iv → Option Iv
  | 0, _, _ => none
  | n + 1, u, d =>
    match phi P fb 8 u with
    | some v => psi P 9 (v.add d)
    | none =>
      let s (x : Int) : Int := x / 2 ^ (P / 2)
      let d' : Iv := ⟨if d.lo ≥ 0 then 0 else s (2 * d.lo) - 1, if d.hi ≤ 0 then 0 else s (2 * d.hi) + 1⟩
      match idxPlus P fb n (u - 2 ^ fb) d' with
      | none => none
      | some i => some ⟨2 ^ P + i.lo, 2 ^ P + i.hi⟩

/-- A signed term `±Phi(u)`. -/
structure Tower where
  neg : Bool
  u : Nat
  deriving DecidableEq, Repr

/-- An enclosure of a tower, where it is below `2^P`. -/
def Tower.iv (P fb : Nat) (t : Tower) : Option Iv := (phi P fb 8 t.u).map fun a => if t.neg then a.neg else a

/-- An enclosure of `exp (a - b)` where a is not above b: 1 for equal terms; below `2^-P` where the difference is beyond the
scale (two different indexes differ by at least `2^-fb`, and Phi grows at least as fast). -/
def expDiff (P fb : Nat) (a b : Tower) : Iv :=
  if a == b then Iv.pt (2 ^ P) else
  match a.iv P fb, b.iv P fb with
  | some x, some y =>
    let d := y.sub x
    if d.lo ≥ (P : Int) * 2 ^ P then ⟨0, 1⟩ else d.expNeg P
  | _, _ => ⟨0, 1⟩

/-- The order of towers by value. -/
def Tower.le (a b : Tower) : Bool :=
  match a.neg, b.neg with
  | false, false => a.u ≤ b.u
  | true, true => b.u ≤ a.u
  | true, false => true
  | false, true => a.u == 0 && b.u == 0

/-! ## Patterns (R230, R231) -/

/-- A decoded level-index pattern. A non-zero value is `±exp(t)`: `t` is Phi(s - 1) with its sign by rc. -/
inductive SlVal where
  | nan
  | zero (neg : Bool)
  | fin (neg : Bool) (t : Tower)
  deriving DecidableEq, Repr

/-- DecodeSl (R231). -/
def decodeSl (fb b : Nat) : SlVal :=
  let sg := bitOf b (fb + 4)
  let k := b % 2 ^ (fb + 3)
  if k / 2 ^ fb == 0 then (if k == 0 then .zero sg else .nan)
  else .fin sg ⟨bitOf b (fb + 3) && k != 2 ^ fb, k - 2 ^ fb⟩

/-- The level of a pattern (R308). -/
def slLevel (fb b : Nat) : Nat := bitsOf b (fb + 2) fb

/-- The canonical NaN (R231). -/
def slNaN (fb : Nat) : Nat := 2 ^ fb - 1

/-- The largest magnitude (R232), with a sign. -/
def slMax (fb : Nat) (neg : Bool) : Nat := (if neg then 2 ^ (fb + 4) else 0) + (2 ^ (fb + 3) - 1)

/-- The zero of a sign. -/
def slZero (fb : Nat) (neg : Bool) : Nat := if neg then 2 ^ (fb + 4) else 0

/-- The pattern of a sign, rc and rounded scaled index (the end of EncodeSl, R232). -/
def slPattern (fb : Nat) (neg rc : Bool) (k : Nat) : Nat :=
  let k := min k (8 * 2 ^ fb - 1)
  let rc := rc && k != 2 ^ fb
  (if neg then 2 ^ (fb + 4) else 0) + (if rc then 2 ^ (fb + 3) else 0) + k

/-- The pattern of `±exp(t)` for a tower: exact (R312). -/
def slOfTower (fb : Nat) (neg : Bool) (t : Tower) : Nat := slPattern fb neg t.neg (t.u + 2 ^ fb)

/-- The finest scale. -/
def finest : Nat := 2 ^ 40

/-- RoundTo(s · 2^fb, 1, RNE) where both ends of the enclosure of s round alike. An enclosure at the finest scale whose ends lie on both sides
of a half-way point is taken for that point, which goes to even (UNVERIFIED, log entry 4). -/
def roundIdx (P fb : Nat) (s : Iv) : Option Nat :=
  let r (x : Int) : Int := roundInt ⟨x * 2 ^ fb, 2 ^ P⟩ 0
  if r s.lo == r s.hi then some (r s.lo).toNat
  else if P == finest then some (if r s.lo % 2 == 0 then r s.lo else r s.hi).toNat
  else none

/-- EncodeSl (R232) of `±exp(L)`, where `L = ±Phi(u) + d`. -/
def encodeLog (P fb : Nat) (neg : Bool) (t : Tower) (d : Iv) : Option Nat :=
  let shift (i : Iv) : Iv := ⟨2 ^ P + i.lo, 2 ^ P + i.hi⟩
  match t.iv P fb with
  | some v =>
    let l := v.add d
    if l.lo > 0 then ((psi P 9 l).bind fun i => roundIdx P fb (shift i)).map (slPattern fb neg false)
    else if l.hi < 0 then ((psi P 9 l.neg).bind fun i => roundIdx P fb (shift i)).map (slPattern fb neg true)
    else (roundIdx P fb ⟨2 ^ P, 2 ^ P + max (-l.lo) l.hi⟩).bind fun k =>
      if k == 2 ^ fb then some (slPattern fb neg false k) else none
  | none =>
    let d' := if t.neg then d.neg else d
    ((idxPlus P fb 9 t.u d').bind fun i => roundIdx P fb (shift i)).map (slPattern fb neg t.neg)

/-- The scales of successive attempts. -/
def slScales : List Nat := (List.range 34).map fun i => 2 ^ (7 + i)

/-- The first attempt that decides; `d` where none does. -/
def decideSl (d : Nat) (f : Nat → Option Nat) : Nat := (slScales.findSome? f).getD d

/-! ## Sums, products and quotients (R310, R305) -/

/-- Remove one term of the opposite sign and equal magnitude. -/
def cancelOne (neg : Bool) (t : Tower) : List (Bool × Tower) → Option (List (Bool × Tower))
  | [] => none
  | x :: xs => if x.1 != neg && x.2 == t then some xs else (cancelOne neg t xs).map (x :: ·)

/-- The terms left when terms of opposite sign and equal magnitude are cancelled in pairs. -/
def cancelAll : List (Bool × Tower) → List (Bool × Tower) → List (Bool × Tower)
  | [], acc => acc
  | (n, t) :: xs, acc =>
    match cancelOne n t acc with
    | some acc' => cancelAll xs acc'
    | none => cancelAll xs ((n, t) :: acc)

/-- The greatest tower of a list. -/
def maxTower (t : Tower) (xs : List (Bool × Tower)) : Tower := xs.foldl (fun m x => if m.le x.2 then x.2 else m) t

/-- EncodeSl of the exact sum of terms `±exp(t)`; the terms are not empty and hold no cancelling pair. With M the greatest term,
the sum is `exp(M) · Σ ± exp(t - M)`. -/
def sumTowers (P fb : Nat) (xs : List (Bool × Tower)) : Option Nat :=
  match xs with
  | [] => none
  | [(n, t)] => some (slOfTower fb n t)
  | (n, t) :: rest =>
    let m := maxTower t rest
    let s := ((n, t) :: rest).foldl (fun (acc : Iv) x =>
      let e := expDiff P fb x.2 m
      if x.1 then acc.sub e else acc.add e) ⟨0, 0⟩
    if s.lo > 0 then (s.ln P).bind fun d => encodeLog P fb false m d
    else if s.hi < 0 then (s.neg.ln P).bind fun d => encodeLog P fb true m d
    else none

/-- The exact sum of level-index values that are not NaN, rounded once; the sign of an exact zero sum is given. A sum that the finest scale
does not tell from zero is taken for zero (UNVERIFIED, log entry 4). -/
def slSum (fb : Nat) (negZero : Bool) (vs : List SlVal) : Nat :=
  let terms := vs.filterMap fun v => match v with | .fin n t => some (n, t) | _ => none
  match cancelAll terms [] with
  | [] => slZero fb negZero
  | xs => decideSl (slZero fb negZero) fun P => sumTowers P fb xs

/-- EncodeSl of `±exp(a + b)` for two towers, the exponent of a product. -/
def expSum (P fb : Nat) (neg : Bool) (a b : Tower) : Option Nat :=
  match a.iv P fb, b.iv P fb with
  | some _, some y => encodeLog P fb neg a y
  | _, _ =>
    -- The greater term is beyond the scale: a + b = ±Phi(u)(1 ± r) with r at most 1, and its logarithm is Phi(u - 1) + ln(1 ± r).
    let (x, y) := if b.u ≤ a.u then (a, b) else (b, a)
    let up (t : Tower) : Tower := ⟨false, t.u - 2 ^ fb⟩
    let r : Iv := if y.u < 2 ^ fb then ⟨0, 2 ^ (P - P / 2)⟩ else expDiff P fb (up y) (up x)
    let one : Iv := Iv.pt (2 ^ P)
    let f := if x.neg == y.neg then one.add r else one.sub r
    (f.ln P).bind fun d =>
      ((idxPlus P fb 9 (x.u - 2 ^ fb) d).bind fun i => roundIdx P fb ⟨2 ^ (P + 1) + i.lo, 2 ^ (P + 1) + i.hi⟩).map
        (slPattern fb neg x.neg)

/-- The product of two non-zero values, exact and rounded once. A term that is 1 leaves the other, and reciprocals give 1; a product that the
finest scale does not tell from 1 is taken for 1 (UNVERIFIED, log entry 4). -/
def slMulTowers (fb : Nat) (neg : Bool) (a b : Tower) : Nat :=
  if a.u == 0 then slOfTower fb neg b
  else if b.u == 0 then slOfTower fb neg a
  else if a.u == b.u && a.neg != b.neg then slOfTower fb neg ⟨false, 0⟩
  else if a.u < 2 ^ fb && b.u < 2 ^ fb then
    -- Both exponents are the index fractions themselves, so their sum is rational.
    let x (t : Tower) : Int := if t.neg then -(t.u : Int) else t.u
    let s := x a + x b
    if s.natAbs ≤ 2 ^ fb then slOfTower fb neg ⟨decide (s < 0), s.natAbs⟩
    else decideSl (slOfTower fb neg ⟨false, 0⟩) fun P => expSum P fb neg a b
  else decideSl (slOfTower fb neg ⟨false, 0⟩) fun P => expSum P fb neg a b

/-! ## Conversions (R233) -/

/-- EncodeSl of a rational value (R232). -/
def slOfRat (fb : Nat) (q : Rat') : Nat :=
  let neg := q.isNeg
  let a := q.abs
  let rc := a.lt (Rat'.ofInt 1)
  let g := if rc then (Rat'.ofInt 1).div a else a
  if g.eqv (Rat'.ofInt 1) then slPattern fb neg false (2 ^ fb) else
  decideSl (slPattern fb neg false (2 ^ fb)) fun P => ((psi P 9 (Iv.ofRat P g)).bind fun s => roundIdx P fb s).map (slPattern fb neg rc)

/-- EncodeSl of a value of a binary or integer format (R232). -/
def encodeSl (fb : Nat) : Val → Nat × FlagSet
  | .nan _ => (slNaN fb, 0)
  | .inf neg => (slMax fb neg, fIV)
  | .zero neg => (slZero fb neg, 0)
  | .fin q => (slOfRat fb q, 0)

/-- The multiple of 2^-4096 next to the middle of an enclosure: the one boundary between results of a format that so narrow an enclosure
can hold. -/
def Iv.boundary (P : Nat) (g : Iv) : Rat' := ⟨roundInt ⟨(g.lo + g.hi) * 2 ^ 4096, 2 ^ (P + 1)⟩ 0, 2 ^ 4096⟩

/-- The value `±exp(t)` encoded by an encoder of rationals, where both ends of its enclosure encode alike. At scale 512 and above, a value
beyond it is above 2^369 and is replaced by one beyond the same rounding boundaries of every format. At the finest scale a value whose ends
encode apart is taken for the boundary between them (UNVERIFIED, log entry 4). -/
def encodeEnclosed (P fb : Nat) (neg : Bool) (t : Tower) (enc : Val → Nat × FlagSet) : Option (Nat × FlagSet) :=
  let code (q : Rat') : Nat × FlagSet := enc (.fin (if neg then q.neg else q))
  if t.u == 0 then some (code (Rat'.ofInt 1)) else
  match phi P fb 8 (t.u + 2 ^ fb) with
  | none => if P < 512 then none else some (code (Rat'.pow2 (if t.neg then -2000 else 2000)))
  | some g =>
    if g.lo ≤ 0 then none else
    let v : Iv := if t.neg then (Iv.pt (2 ^ P)).divPos P g else g
    let q (x : Int) : Rat' := if t.neg then ⟨2 ^ P, x.toNat⟩ else ⟨x, 2 ^ P⟩
    if code (q g.lo) == code (q g.hi) then some (code (q g.lo))
    else if P == finest then some (code (v.boundary P))
    else none

/-- The result of the first scale that decides, with its flags. -/
def decideEnclosed (fb : Nat) (neg : Bool) (t : Tower) (enc : Val → Nat × FlagSet) : Nat × FlagSet :=
  (slScales.findSome? fun P => encodeEnclosed P fb neg t enc).getD (enc (.fin (if neg then (Rat'.ofInt 1).neg else Rat'.ofInt 1)))

/-- The conversion from a level-index pattern to a binary float type (R233). -/
def slToFloat (fb b : Nat) (t : FloatFmt) (rnd : Nat) (sat ftz : Bool) : Nat × FlagSet :=
  match decodeSl fb b with
  | .nan => (t.nanC, 0)
  | .zero neg => t.encode rnd sat ftz (.zero neg)
  | .fin neg tw => decideEnclosed fb neg tw (t.encode rnd sat ftz)

/-- The conversion from a level-index pattern to an integer type (R233): 2^64 or more converts as an infinity. -/
def slToInt (fb b : Nat) (t : IntFmt) (rnd : Nat) (sat : Bool) : Nat × FlagSet :=
  match decodeSl fb b with
  | .nan => t.encode rnd sat (.nan false)
  | .zero neg => t.encode rnd sat (.zero neg)
  | .fin neg tw =>
    let enc (v : Val) : Nat × FlagSet :=
      match v with
      | .fin q => if (Rat'.pow2 64).le q.abs then t.encode rnd sat (.inf q.isNeg) else t.encode rnd sat v
      | _ => t.encode rnd sat v
    decideEnclosed fb neg tw enc

/-! ## The instructions' element results (R310 to R314) -/

/-- The sign of a value (R310). -/
def SlVal.neg : SlVal → Bool
  | .nan => false
  | .zero n => n
  | .fin n _ => n

/-- A value with its sign inverted. -/
def SlVal.negate : SlVal → SlVal
  | .nan => .nan
  | .zero n => .zero (!n)
  | .fin n t => .fin (!n) t

/-- The four operations of R310. -/
inductive SlOp where
  | add | sub | mul | div
  deriving DecidableEq, Repr

/-- The exact result of R310 for operands that are not NaN and no division by zero. -/
def slExact (op : SlOp) (fb : Nat) (x y : SlVal) : Nat :=
  let sg := x.neg != y.neg
  match op with
  | .add => slSum fb (x == .zero true && y == .zero true) [x, y]
  | .sub => slSum fb (x == .zero true && y == .zero false) [x, y.negate]
  | .mul =>
    match x, y with
    | .fin _ a, .fin _ b => slMulTowers fb sg a b
    | _, _ => slZero fb sg
  | .div =>
    match x, y with
    | .fin _ a, .fin _ b => slMulTowers fb sg a ⟨!b.neg && b.u != 0, b.u⟩
    | _, _ => slZero fb sg

/-- LIARITH (R310): the result of one element and its flags. -/
def liArith (op : SlOp) (fb pa pb : Nat) : Nat × FlagSet :=
  let x := decodeSl fb pa
  let y := decodeSl fb pb
  let isZero (v : SlVal) : Bool := match v with | .zero _ => true | _ => false
  if x == .nan || y == .nan then (slNaN fb, 0) else
  if op == .div && isZero y && isZero x then (slNaN fb, fIV) else
  let (r, f) := if op == .div && isZero y then (slMax fb (x.neg != y.neg), fDZ) else (slExact op fb x y, 0)
  (r, f ||| (if slLevel fb r != max (slLevel fb pa) (slLevel fb pb) then fLX else 0))

/-- Whether the value of one pattern is less than, and whether it equals, the value of another (R311); neither is NaN. -/
def SlVal.lt : SlVal → SlVal → Bool
  | .fin true a, .fin true b => !a.le b
  | .fin true _, _ => true
  | .zero _, .fin n _ => !n
  | .fin false a, .fin false b => !b.le a
  | _, _ => false

def SlVal.eqv : SlVal → SlVal → Bool
  | .zero _, .zero _ => true
  | .fin n a, .fin m b => n == m && a == b
  | _, _ => false

/-- The pattern of a value that a pattern holds: canonical (R312). -/
def SlVal.pattern (fb : Nat) : SlVal → Nat
  | .nan => slNaN fb
  | .zero n => slZero fb n
  | .fin n t => slOfTower fb n t

/-- LILVL (R314). -/
def liLvl (fb b f : Nat) : Nat :=
  match f with
  | 0 => slLevel fb b
  | 1 => b % 2 ^ fb
  | 2 =>
    if slLevel fb b == 0 then (if b % 2 ^ fb == 0 then 0 else 0x7FC00000)
    else (fp32.encode 0 false false (.fin ⟨(b % 2 ^ (fb + 3) : Nat), 2 ^ fb⟩)).1
  | _ => 2 * (if bitOf b (fb + 4) then 1 else 0) + (if bitOf b (fb + 3) then 1 else 0)

end Sys2Proof.Machine
end

