-- ==== Sys2Proof/Machine/Sfu.lean ====
section
/-! DEFINITION. The special-function unit (12 R300): the special and exact cases as the table gives them; elsewhere a result inside
the bound of its row, chosen by the free function `Config.sfuPick`. -/

namespace Sys2Proof.Machine

/-- The functions of R300 by code. -/
inductive SfuOp where
  | rcp | rsq | lg2 | fexp | sin | cos | tanh | sigm
  deriving DecidableEq, Repr

def SfuOp.code : SfuOp → Nat
  | .rcp => 0 | .rsq => 1 | .lg2 => 2 | .fexp => 3 | .sin => 4 | .cos => 5 | .tanh => 6 | .sigm => 7

/-- The scale of the enclosures used for the bounds. -/
def sfuP : Nat := 256

/-- The rational ends of an enclosure. -/
def Iv.ends (a : Iv) : Rat' × Rat' := (⟨a.lo, 2 ^ sfuP⟩, ⟨a.hi, 2 ^ sfuP⟩)

/-- Terms of the inverse tangent series of 1/n, alternating. -/
def atanTerms (P n : Nat) : Nat → Nat → Bool → Iv → Iv → Iv
  | 0, _, _, sum, p => ⟨sum.lo - p.hi, sum.hi + p.hi⟩
  | f + 1, k, neg, sum, p =>
    let t := p.divNat k
    let p' := p.divNat (n * n)
    let sum' := if neg then sum.sub t else sum.add t
    if p'.hi ≤ 1 then ⟨sum'.lo - 2, sum'.hi + 2⟩ else atanTerms P n f (k + 2) (!neg) sum' p'

/-- Half of pi, by 2 · (4 atan 1/5 − atan 1/239). -/
def halfPi : Iv :=
  let a := atanTerms sfuP 5 300 1 false ⟨0, 0⟩ (Iv.ofRat sfuP ⟨1, 5⟩)
  let b := atanTerms sfuP 239 300 1 false ⟨0, 0⟩ (Iv.ofRat sfuP ⟨1, 239⟩)
  let c : Iv := ⟨4 * a.lo - b.hi, 4 * a.hi - b.lo⟩
  ⟨2 * c.lo, 2 * c.hi⟩

/-- Terms of the alternating series of sine (from x, k = 1) or cosine (from 1, k = 0); `x2` encloses x². -/
def trigTerms (P : Nat) (x2 : Iv) : Nat → Nat → Bool → Iv → Iv → Iv
  | 0, _, _, sum, t => ⟨sum.lo - t.hi, sum.hi + t.hi⟩
  | f + 1, k, neg, sum, t =>
    let sum' := if neg then sum.sub t else sum.add t
    let t' := (t.mulPos P x2).divNat ((k + 1) * (k + 2))
    if t'.hi ≤ 1 then ⟨sum'.lo - 2, sum'.hi + 2⟩ else trigTerms P x2 f (k + 2) (!neg) sum' t'

/-- An enclosure of the sine (or of the cosine, a quarter turn on) of a rational of magnitude at most 2^16. -/
def trigIv (q : Rat') (cosine : Bool) : Iv :=
  let x := Iv.ofRat sfuP q
  let k : Int := roundInt ⟨x.lo, halfPi.lo.toNat⟩ 0
  let r := x.sub (if k ≥ 0 then ⟨halfPi.lo * k, halfPi.hi * k⟩ else ⟨halfPi.hi * k, halfPi.lo * k⟩)
  let rneg := decide (r.lo + r.hi < 0)
  let a : Iv := let p := if rneg then r.neg else r; ⟨max p.lo 0, max p.hi 0⟩
  let x2 := a.mulPos sfuP a
  let quad := (k + if cosine then 1 else 0) % 4
  let v :=
    if quad % 2 == 0 then
      let s := trigTerms sfuP x2 200 1 false ⟨0, 0⟩ a
      if rneg then s.neg else s
    else trigTerms sfuP x2 200 0 false ⟨0, 0⟩ (Iv.pt (2 ^ sfuP))
  if quad ≥ 2 then v.neg else v

/-- The exponential of a rational held to [-400, 400], enclosed by rationals. -/
def expEnds (q : Rat') (base2 : Bool) : Rat' × Rat' :=
  let c := if q.lt ⟨-400, 1⟩ then ⟨-400, 1⟩ else if Rat'.lt ⟨400, 1⟩ q then ⟨400, 1⟩ else q
  let x := Iv.ofRat sfuP c.abs
  let y := if base2 then x.mulPos sfuP (ln2 sfuP) else x
  let (lo, hi) := (y.expPos sfuP).ends
  if c.isNeg then ((Rat'.ofInt 1).div hi, (Rat'.ofInt 1).div lo) else (lo, hi)

/-- The exact result of a function at a finite non-zero operand that is none of the special cases, between two rationals. -/
def sfuEnds (op : SfuOp) (q : Rat') : Rat' × Rat' :=
  let one := Rat'.ofInt 1
  match op with
  | .rcp => (one.div q, one.div q)
  | .rsq => let s := one.div q.sqrt; (s, s)
  | .lg2 =>
    let f (x : Rat') : Iv := match (Iv.ofRat sfuP x).ln sfuP with | some l => l | none => ⟨0, 0⟩
    let neg := q.lt one
    let (lo, hi) := ((f (if neg then one.div q else q)).divPos sfuP (ln2 sfuP)).ends
    if neg then (hi.neg, lo.neg) else (lo, hi)
  | .fexp => expEnds q true
  | .sin => (trigIv q false).ends
  | .cos => (trigIv q true).ends
  | .tanh =>
    -- 1 − 2 / (e^2|x| + 1), with the sign of x
    let (lo, hi) := expEnds (q.abs.scale 1) false
    let g (e : Rat') : Rat' := one.add ((Rat'.ofInt (-2)).div (e.add one))
    if q.isNeg then ((g hi).neg, (g lo).neg) else (g lo, g hi)
  | .sigm =>
    let (lo, hi) := expEnds q.neg false
    (one.div (one.add hi), one.div (one.add lo))

/-- A pattern of fp32 as a number in the order of its value; both zeros are 0. -/
def ord32 (p : Nat) : Int := if p ≥ 2 ^ 31 then -((p - 2 ^ 31 : Nat) : Int) else p

/-- The pattern at a place of that order. -/
def unord32 (n : Int) : Nat := if n < 0 then 2 ^ 31 + n.natAbs else n.toNat

/-- Least and greatest place of a finite pattern between two rationals. -/
def ordEnds (lo hi : Rat') : Int × Int :=
  let enc (rnd : Nat) (q : Rat') : Int := if q.isZero then 0 else ord32 (fp32.encode rnd true false (.fin q)).1
  (enc 2 lo, enc 3 hi)

/-- The places that R300 allows for an inexact result: within an absolute bound, or within a count of ulps of the result. -/
def sfuRange (op : SfuOp) (q lo hi : Rat') : Int × Int :=
  let eps (k : Int) : Int × Int := ordEnds (lo.add (Rat'.pow2 k).neg) (hi.add (Rat'.pow2 k))
  let ulps (n : Int) : Int × Int := let (a, b) := ordEnds lo hi; (min a b - (n - 1), max a b + (n - 1))
  match op with
  | .rcp => ulps 1
  | .rsq => ulps 1
  | .lg2 => if Rat'.le ⟨1, 2⟩ q && q.le ⟨2, 1⟩ then eps (-22) else ulps 1
  | .fexp => ulps 2
  | .sin => if q.abs.le (Rat'.pow2 16) then eps (-21) else (ord32 0xBF800000, ord32 0x3F800000)
  | .cos => if q.abs.le (Rat'.pow2 16) then eps (-21) else (ord32 0xBF800000, ord32 0x3F800000)
  | .tanh => ulps 2
  | .sigm => ulps 2

/-- Whether a rational is a power of two, and its exponent. -/
def isPow2 (q : Rat') : Bool := q.abs.eqv (Rat'.pow2 q.log2)

/-- The exact case of a function at a finite non-zero operand (R300). -/
def sfuExact (op : SfuOp) (q : Rat') : Option Val :=
  match op with
  | .rcp => if isPow2 q then some (.fin ((Rat'.ofInt 1).div q)) else none
  | .rsq => if isPow2 q && q.log2 % 2 == 0 then some (.fin (Rat'.pow2 (-(q.log2 / 2)))) else none
  | .lg2 => if isPow2 q then some (Val.ofInt q.log2) else none
  | .fexp => if (Rat'.ofInt (roundInt q 1)).eqv q then some (.fin (Rat'.pow2 (max (-1000) (min 1000 (roundInt q 1))))) else none
  | _ => none

/-- The special operands of R300. -/
def sfuSpecial (op : SfuOp) (v : Val) : Option (Val × FlagSet) :=
  match v with
  | .nan s => some (.nan false, if s then fIV else 0)
  | .zero n =>
    match op with
    | .rcp => some (.inf n, fDZ)
    | .rsq => some (.inf n, fDZ)
    | .lg2 => some (.inf true, fDZ)
    | .fexp => some (.fin (Rat'.ofInt 1), 0)
    | .sin => some (.zero n, 0)
    | .cos => some (.fin (Rat'.ofInt 1), 0)
    | .tanh => some (.zero n, 0)
    | .sigm => some (.fin ⟨1, 2⟩, 0)
  | .inf n =>
    match op with
    | .rcp => some (.zero n, 0)
    | .rsq => some (if n then (.nan false, fIV) else (.zero false, 0))
    | .lg2 => some (if n then (.nan false, fIV) else (.inf false, 0))
    | .fexp => some (if n then .zero false else .inf false, 0)
    | .sin => some (.nan false, fIV)
    | .cos => some (.nan false, fIV)
    | .tanh => some (.fin (Rat'.ofInt (if n then -1 else 1)), 0)
    | .sigm => some (if n then .zero false else .fin (Rat'.ofInt 1), 0)
  | .fin q =>
    if q.isNeg && (op == .rsq || op == .lg2) then some (.nan false, fIV)
    else (sfuExact op q).map fun r => (r, 0)

/-- The fp32 result of a function at a value (R300), with its flags. `pat` is the operand pattern that names the free choice. -/
def sfu32 (op : SfuOp) (m : Mode) (pat : BitVec 32) (v : Val) : Nat × FlagSet :=
  let rnd := if op == .fexp then m.rnd else 0
  match sfuSpecial op v with
  | some (r, f) =>
    let (p, g) := fp32.encode rnd m.sat m.ftz r
    (p, f ||| g)
  | none =>
    match v with
    | .fin q =>
      let (lo, hi) := sfuEnds op q
      let (pl, fl) := fp32.encode rnd m.sat m.ftz (.fin lo)
      let (ph, fh) := fp32.encode rnd m.sat m.ftz (.fin hi)
      let beyond := fl &&& (fOF ||| fUF) != 0 || fh &&& (fOF ||| fUF) != 0
      -- overflow and tiny results are those of R223 and R224; fexp on [-1, 1] is correctly rounded
      if beyond then (pl, fl ||| fNX)
      else if op == .fexp && q.abs.le (Rat'.ofInt 1) && pl == ph then (pl, fNX)
      else
        let (a, b) := sfuRange op q lo hi
        let n := Config.sfuPick op.code pat m.ftz m.sat rnd
        let p := unord32 (a + (n % ((b - a).toNat + 1) : Nat))
        let tiny := bitsOf p 30 23 == 0
        if tiny && m.ftz then (fp32.signed (p ≥ 2 ^ 31) 0, fNX ||| fUF)
        else (p, fNX ||| (if tiny then fUF else 0))
    | _ => (0, 0)

/-- VSFU over a register (R300): fp16 and bf16 elements are evaluated in fp32, by the fp32 pattern of their value, and encoded again; every
other type as fp32. -/
def regSfu (op : SfuOp) (m : Mode) (a : Nat) : Nat × FlagSet :=
  let run (t : FloatFmt) : Nat × FlagSet := perElem t.w fun k =>
    let v := t.decode m.ftz (elem a k t.w)
    let (p, f) := sfu32 op m (BitVec.ofNat 32 (fp32.encode 0 false false v).1) v
    let (r, g) := t.encode m.rnd m.sat m.ftz (fp32.decode false p)
    (r, f ||| g)
  match m.etypeCode with
  | 7 => run fp16
  | 8 => run bf16
  | _ => sfu32 op m (BitVec.ofNat 32 a) (fp32.decode m.ftz a)

end Sys2Proof.Machine
end

