-- ==== Sys2Proof/Machine/CrossLane.lean ====
section
/-! DEFINITION. Cross-lane instructions (12 R301 to R307): votes, ballots, shuffles, reductions and scans over the members of a lane's
tile, the member mask and the move of one lane to a scalar register. -/

namespace Sys2Proof.Machine

/-! ## Members -/

/-- Whether two lanes lie in one tile (R12). -/
def sameTile (m : Mode) (l n : Nat) : Bool := l / m.tile == n / m.tile

/-- Members(l) (R12): the lanes of the tile of `l` that the member mask holds. -/
def membersOf (k : Carriage) (m : Mode) (l : Nat) : List Nat := laneNums.filter fun n => sameTile m l n && k.member.getLsbD n

/-- The trap of an active lane outside the member mask (R209, R301). -/
def selfTrap (_ : Coach) (k : Carriage) (l : Nat) : Option LaneTrap :=
  if k.member.getLsbD l then none else some { lane := l, cause := 0x14, addr := k.pc }

/-- A cross-lane instruction (R301). -/
def crossLane (s : State) (i : Instr) (f : Coach → Carriage → Nat → LaneOut) : Host.Outcome State Fault Refusal :=
  byCarriage s fun x => laneStep s x i 4 (activeOf x.c x.k) selfTrap f

/-! ## Votes and ballot (R303) -/

/-- The active members of the tile of `l`; any other member contributes the identity (R301). -/
def activeMembers (c : Coach) (k : Carriage) (l : Nat) : List Nat :=
  (membersOf k (modeOf c k) l).filter fun n => (activeOf c k).getLsbD n

/-- VOTEANY (R303): the OR of the predicates of the members. -/
def execVoteany (d a : BitVec 3) (s : State) : Host.Outcome State Fault Refusal :=
  crossLane s (.voteany d a) fun c k l => { preds := [(d.toNat, (activeMembers c k l).any (readP c a.toNat))] }

/-- VOTEALL (R303): the AND of the predicates of the members. -/
def execVoteall (d a : BitVec 3) (s : State) : Host.Outcome State Fault Refusal :=
  crossLane s (.voteall d a) fun c k l => { preds := [(d.toNat, (activeMembers c k l).all (readP c a.toNat))] }

/-- VBAL (R303): a bit for each member whose predicate is 1. -/
def execVbal (d : BitVec 8) (a : BitVec 3) (s : State) : Host.Outcome State Fault Refusal :=
  crossLane s (.vbal d a) fun c k l =>
    { writes := writesE (modeOf c k) d.toNat (maskOf ((activeMembers c k l).filter (readP c a.toNat))).toNat }

/-! ## Shuffles (R304) -/

/-- The value of v[a] that a lane takes from source lane `u` (R301). -/
def shuffled (c : Coach) (k : Carriage) (a : BitVec 8) (l : Nat) (u : Int) : Nat :=
  let m := modeOf c k
  if u < 0 ∨ 32 ≤ u ∨ !sameTile m l u.toNat then readE c k m l a.toNat
  else if k.member.getLsbD u.toNat && !c.exited.getLsbD u.toNat then readE c k m u.toNat a.toNat
  else 0

/-- A shuffle: the source lane of lane `l` is `f` of its tile width and of `l`. -/
def shuffle (s : State) (i : Instr) (d a : BitVec 8) (f : Coach → Carriage → Nat → Nat → Int) : Host.Outcome State Fault Refusal :=
  crossLane s i fun c k l =>
    let m := modeOf c k
    { writes := writesE m d.toNat (shuffled c k a l (f c k m.tile l)) }

/-- The base lane of a tile of width `t`. -/
def tileBase (t l : Nat) : Nat := t * (l / t)

/-- SHFLI (R304): the source lane by index in the tile. -/
def execShfli (d a b : BitVec 8) (s : State) : Host.Outcome State Fault Refusal :=
  shuffle s (.shfli d a b) d a fun c k t l => (tileBase t l + (readV c k l b.toNat).toNat % t : Nat)

/-- SHFLU (R304): the source lane n below. -/
def execShflu (d a : BitVec 8) (n : BitVec 5) (s : State) : Host.Outcome State Fault Refusal :=
  shuffle s (.shflu d a n) d a fun _ _ _ l => (l : Int) - n.toNat

/-- SHFLD (R304): the source lane n above. -/
def execShfld (d a : BitVec 8) (n : BitVec 5) (s : State) : Host.Outcome State Fault Refusal :=
  shuffle s (.shfld d a n) d a fun _ _ _ l => (l : Int) + n.toNat

/-- SHFLX (R304): the source lane at exclusive-or distance n. -/
def execShflx (d a : BitVec 8) (n : BitVec 5) (s : State) : Host.Outcome State Fault Refusal :=
  shuffle s (.shflx d a n) d a fun _ _ t l => (tileBase t l + Nat.xor (l - tileBase t l) n.toNat % t : Nat)

/-! ## Reductions and scans (R305) -/

/-- The order of level-index values that are not NaN, −0 below +0. -/
def SlVal.below (a b : SlVal) : Bool := a.lt b || (a == .zero true && b == .zero false)

/-- The lesser or greater of level-index values under R290: a NaN yields to a number. -/
def slPick (wantMax : Bool) (a b : SlVal) : SlVal :=
  if a == .nan then b
  else if b == .nan then a
  else if wantMax then (if a.below b then b else a) else (if b.below a then b else a)

/-- The sum of level-index contributions: a NaN gives NaN with IV, and LX is raised by the levels of the active members (R305). -/
def slCombine (fb : Nat) (xs : List (Nat × Bool)) : Nat × FlagSet :=
  let vs := xs.map fun x => decodeSl fb x.1
  if vs.any (· == .nan) then (slNaN fb, fIV) else
  let r := slSum fb (vs.all (· == .zero true)) vs
  let levels := (xs.filter Prod.snd).map fun x => slLevel fb x.1
  (r, if levels.isEmpty || slLevel fb r == levels.foldl max 0 then 0 else fLX)

/-- The combination of the contributions to one element: patterns, each with whether its member is active (R305). -/
def contributed (op : RedOp) (m : Mode) (xs : List (Nat × Bool)) : Nat × FlagSet :=
  let t := m.etype
  let ps := xs.map Prod.fst
  if xs.isEmpty then (redIdentity op t, 0) else
  match op with
  | .add =>
    match t with
    | .int f => f.encodeExact m.sat ((ps.map f.decode).foldl (· + ·) 0)
    | .float f => encodeWith f m (sumVals m.rnd (ps.map (f.decode m.ftz)))
    | .sl fb => slCombine fb xs
  | .min => pick t ps false
  | .max => pick t ps true
  | op => (bitFold op t.width ps, 0)
where
  /-- The least or greatest value, under R290. -/
  pick (t : EType) (ps : List Nat) (wantMax : Bool) : Nat × FlagSet :=
    match t, ps with
    | _, [] => (0, 0)
    | .int f, p :: ps =>
      let best (a b : Nat) : Nat := if wantMax then (if f.decode a < f.decode b then b else a) else (if f.decode b < f.decode a then b else a)
      (ps.foldl best p, 0)
    | .float f, ps =>
      let vs := ps.map (f.decode m.ftz)
      ((f.encode 0 false false (minMaxFold wantMax vs)).1, sigIV vs)
    | .sl fb, p :: ps => (((ps.map (decodeSl fb)).foldl (slPick wantMax) (decodeSl fb p)).pattern fb, 0)

/-- The result of a reduction over some members: for each element, the combination of the operands of the active ones and of the
identity for the others. -/
def reduce (op : RedOp) (c : Coach) (k : Carriage) (a : BitVec 8) (ms : List Nat) : Nat × FlagSet :=
  let m := modeOf c k
  let w := m.etype.width
  perElem w fun j =>
    contributed op m (ms.map fun n =>
      if (activeOf c k).getLsbD n then (elem (readE c k m n a.toNat) j w, true) else (redIdentity op m.etype, false))

/-- VRED (R305): the members of the tile, combined. -/
def execVred (d a : BitVec 8) (o : BitVec 3) (s : State) : Host.Outcome State Fault Refusal :=
  crossLane s (.vred d a o) fun c k l =>
    let m := modeOf c k
    let r := reduce (.ofCode o.toNat) c k a (membersOf k m l)
    { writes := writesE m d.toNat r.1, flags := r.2 }

/-- VSCAN (R305): the members of the tile up to the lane, or below it, combined. -/
def execVscan (d a : BitVec 8) (e : BitVec 1) (o : BitVec 3) (s : State) : Host.Outcome State Fault Refusal :=
  crossLane s (.vscan d a e o) fun c k l =>
    let m := modeOf c k
    let r := reduce (.ofCode o.toNat) c k a ((membersOf k m l).filter fun n => if e = 1 then n < l else n ≤ l)
    { writes := writesE m d.toNat r.1, flags := r.2 }

/-! ## The member mask, and one lane to a scalar register -/

/-- VMEMB of a carriage (R302): the member mask becomes s[a][31:0], unless no lane is active. -/
def vmembStep (s : State) (x : Iss) (a : BitVec 8) : State :=
  let k' := if activeOf x.c x.k = 0 then x.k else { x.k with member := (readS x.c x.k a.toNat).setWidth 32 }
  retire s x { x.c with slots := mset x.c.slots x.slot k' } 4

/-- VMEMB (R302). -/
def execVmemb (a : BitVec 8) (s : State) : Host.Outcome State Fault Refusal := byCarriage s fun x => vmembStep s x a

/-- The lane that VTOS reads: one by number, or the lowest active one; none when it is not active (R307). -/
def vtosLane (act : Mask) (l : BitVec 8) : Option Nat :=
  if l.toNat < 32 then (if act.getLsbD l.toNat then some l.toNat else none) else (lanesOf act).head?

/-- VTOS of a carriage (R307). -/
def vtosStep (s : State) (x : Iss) (d a l : BitVec 8) : State :=
  match vtosLane (activeOf x.c x.k) l with
  | none => retire s x (writeS x.c x.k d.toNat 0) 4
  | some n =>
    match queueTrap x.c x.k (.vtos d a l) n with
    | some t => conclude s x x.c 4 [t]
    | none =>
      let c := writeS x.c x.k d.toNat (BitVec.ofNat 64 (readE x.c x.k (modeOf x.c x.k) n a.toNat))
      retire s x (advancePorts c (popsOf x.c x.k (.vtos d a l)) [n]) 4

/-- VTOS (R307). -/
def execVtos (d a l : BitVec 8) (s : State) : Host.Outcome State Fault Refusal := byCarriage s fun x => vtosStep s x d a l

end Sys2Proof.Machine
end

