-- ==== Sys2Proof/Machine/Translate.lean ====
section
/-! DEFINITION. The physical address map (01 R21, R22), page tables and their walk (02 R35 to R50), TLBs and the miss buffers (02 R51,
R52) and invalidation (02 R54, R55). -/

namespace Sys2Proof.Machine

/-! ## Physical addresses -/

/-- Where a byte of local memory lies (R22): chassis, chassis offset, column, pseudo-channel, offset there. -/
structure Home where
  d : Nat
  o : Nat
  col : Nat
  chan : Nat
  off : Nat
  deriving DecidableEq, Repr

/-- The home of a chassis-window address. -/
def homeOf (d o : Nat) : Home :=
  { d := d, o := o
    col := (bitsOf o 11 8 + bitsOf o 15 12) % 16
    chan := Nat.xor (bitsOf o 16 12) (bitsOf o 27 23)
    off := bitsOf o 35 17 * 256 + bitsOf o 7 0 }

/-- Resolve(pa) (R22). -/
def resolve (pa : Nat) : Option Home :=
  if bitsOf pa 51 40 = 0 then some (homeOf (bitsOf pa 39 36) (bitsOf pa 35 0))
  else if bitsOf pa 51 40 = 1 then some (homeOf (bitsOf pa 15 12) (bitsOf pa 39 16 * 4096 + bitsOf pa 11 0))
  else none

/-- The chassis-window address of a home (R23). -/
def Home.wa (h : Home) : Nat := h.d * 2 ^ 36 + h.o

/-- The home of a chassis-window address. -/
def homeAt (wa : Nat) : Home := homeOf (wa / 2 ^ 36 % 16) (wa % 2 ^ 36)

/-- The regions of R21. -/
inductive Region where
  | dram
  | control
  | host
  | peer (p : Nat)
  | reserved
  deriving DecidableEq, Repr

/-- The region of a physical address (R21, R30, R31). -/
def regionOf (pa : Nat) : Region :=
  let r := bitsOf pa 51 40
  if r ≤ 1 then .dram
  else if r = 2 then (if bitsOf pa 39 26 = 0 then .control else .reserved)
  else if bitsOf pa 51 50 = 2 then .host
  else if bitsOf pa 51 50 = 3 then (if bitsOf pa 49 43 = 0 then .peer (bitsOf pa 42 40) else .reserved)
  else .reserved

/-! ## Entries (R41 to R43) -/

def pteV (e : Nat) : Bool := bitOf e 0
def pteR (e : Nat) : Bool := bitOf e 1
def pteW (e : Nat) : Bool := bitOf e 2
def pteX (e : Nat) : Bool := bitOf e 3
def pteG (e : Nat) : Bool := bitOf e 5
def pteD (e : Nat) : Bool := bitOf e 7
def pteCg (e : Nat) : Nat := bitsOf e 9 8
def pteOa (e : Nat) : Nat := bitsOf e 51 12
def pteTable (e : Nat) : Bool := !pteR e && !pteW e && !pteX e

/-- The span of one leaf entry of a level. -/
def span (lv : Nat) : Nat := 4096 * 512 ^ lv

/-- The page size of a leaf (R43). -/
def pageSize (e lv : Nat) : Nat := span lv * (if pteCg e = 1 then 4 else if pteCg e = 2 then 16 else 1)

/-- Whether a valid entry is malformed (R42). -/
def malformed (e lv : Nat) : Bool :=
  bitsOf e 63 56 != 0
    || (pteTable e && (lv == 0 || bitsOf e 11 4 != 0 || bitsOf e 55 52 != 0))
    || (!pteTable e &&
      (3 ≤ lv || (pteW e && !pteR e) || (pteW e && pteX e) || pteCg e == 3 || bitsOf e 11 10 == 3
        || (pteCg e == 1 && lv != 0)
        || pteOa e * 4096 % span lv != 0
        || (bitOf e 53 && bitOf e 54) || ((bitOf e 53 || bitOf e 54) && bitsOf e 51 40 != 0)))

/-- The permissions of a leaf. -/
def leafOf (e lv : Nat) : Leaf := { r := pteR e, w := pteW e, x := pteX e, u := bitOf e 4, d := pteD e, level := lv }

/-- The attributes of a leaf. -/
def attrOf (e : Nat) : Attr := { cp := bitsOf e 11 10, atomic := bitOf e 52, bank := bitOf e 55, repl := bitOf e 53 }

/-- The address a leaf gives, within its group (R44, R45). -/
def leafAddr (e lv ia : Nat) : Nat :=
  let n := pageSize e lv
  pteOa e * 4096 / n * n + ia % n

/-! ## Walks (R45) -/

/-- A leaf that a walk used: its entry's address and value, whether it is used for a write, and how many table reads were left when its
stage began at its top table. -/
structure Used where
  addr : Nat
  value : Nat
  write : Bool
  left : Nat := 0
  deriving DecidableEq, Repr

/-- How far a walk has come, with the leaves it has used: it needs the table entry at an address, has failed, or has an answer, with the
reads it has not used. -/
inductive Walking (α : Type) where
  | need (addr : Nat) (used : List Used)
  | fail (f : XFault) (used : List Used)
  | ok (a : α) (reads : List (Nat × W64)) (used : List Used)

/-- Go on with the answer of a walk. -/
def Walking.andThen {α β : Type} (r : Walking α) (f : α → List (Nat × W64) → List Used → Walking β) : Walking β :=
  match r with
  | .need a u => .need a u
  | .fail x u => .fail x u
  | .ok a rs u => f a rs u

/-- A walk fails (R50): the cause by the stage (1, 2, or 3 for H) and the reason. -/
def walkFault (va : W64) (st reason lv : Nat) : XFault :=
  { cause := if st = 2 then 9 else if reason = 3 ∨ reason = 4 then 5 else 4, addr := va, reason := reason, stage := st, wlevel := lv }

/-- One table read at a physical address (end of ReadEntry, R45). -/
def readTable (va : W64) (st a lv : Nat) (rs : List (Nat × W64)) (us : List Used) : Walking Nat :=
  if 1 < bitsOf a 51 40 then .fail (walkFault va st 5 lv) us else
  match rs with
  | (b, v) :: rs' => if b = a then .ok v.toNat rs' us else .need a us
  | [] => .need a us

/-- The index of an address at a level. -/
def tableIndex (ia lv : Nat) : Nat := if lv = 4 then bitsOf ia 55 48 else bitsOf ia (20 + 9 * lv) (12 + 9 * lv)

/-- A leaf found by a stage: its value, level, the physical address of its entry, and how many table reads were left when the stage began. -/
structure Found where
  e : Nat
  lv : Nat
  at_ : Nat
  left : Nat := 0
  deriving DecidableEq, Repr

/-- Stage(ia, t, st) at stage 2 or in the H regime, from level `lv` down (R45). -/
def stage2 (va : W64) (st ia left : Nat) : Nat → Nat → List (Nat × W64) → List Used → Walking Found
  | lv, t, rs, us =>
    (readTable va st (t + 8 * tableIndex ia lv) lv rs us).andThen fun e rs us =>
      if !pteV e then .fail (walkFault va st 1 lv) us
      else if malformed e lv then .fail (walkFault va st 2 lv) us
      else if pteTable e then
        match lv with
        | 0 => .fail (walkFault va st 2 0) us
        | lv' + 1 => stage2 va st ia left lv' (pteOa e * 4096) rs us
      else .ok { e := e, lv := lv, at_ := t + 8 * tableIndex ia lv, left := left } rs us

/-- The registers a walk starts from (R38). -/
structure Roots where
  cdtb : Nat
  s2tb : Nat
  ttbr : Nat
  deriving DecidableEq, Repr

def Roots.s2on (r : Roots) : Bool := bitOf r.s2tb 0
def Roots.s2root (r : Roots) : Nat := bitsOf r.s2tb 51 12 * 4096

/-- A stage-2 failure of a stage-1 table access names the IPA of the access (R405). -/
def Walking.naming {α : Type} (r : Walking α) (ipa : Nat) : Walking α :=
  match r with
  | .fail f us => .fail { f with addr := BitVec.ofNat 64 ipa, own := false } us
  | r => r

/-- ReadEntry(a, 1, lv) (R45), with the physical address of the entry and the stage-2 leaf that gave it. -/
def readEntry1 (r : Roots) (va : W64) (a lv : Nat) (rs : List (Nat × W64)) (us : List Used) : Walking (Nat × Nat × Option Found) :=
  if r.s2on then
    ((stage2 va 2 a rs.length 4 r.s2root rs us).andThen fun f rs us =>
      if !pteR f.e then .fail (walkFault va 2 3 f.lv) us else .ok f rs us).naming a |>.andThen fun f rs us =>
    let us := us ++ [{ addr := f.at_, value := f.e, write := false, left := f.left }]
    let pa := leafAddr f.e f.lv a
    (readTable va 1 pa lv rs us).andThen fun e rs us => .ok (e, pa, some f) rs us
  else
    (readTable va 1 a lv rs us).andThen fun e rs us => .ok (e, a, none) rs us

/-- A stage-1 leaf: as found, with the stage-2 leaf of its table page. -/
structure Found1 where
  f : Found
  page : Option Found
  deriving DecidableEq, Repr

/-- Stage(ia, t, 1) (R45). -/
def stage1 (r : Roots) (va : W64) (left : Nat) : Nat → Nat → List (Nat × W64) → List Used → Walking Found1
  | lv, t, rs, us =>
    (readEntry1 r va (t + 8 * tableIndex va.toNat lv) lv rs us).andThen fun x rs us =>
      let e := x.1
      if !pteV e then .fail (walkFault va 1 1 lv) us
      else if malformed e lv then .fail (walkFault va 1 2 lv) us
      else if pteTable e then
        match lv with
        | 0 => .fail (walkFault va 1 2 0) us
        | lv' + 1 => stage1 r va left lv' (pteOa e * 4096) rs us
      else .ok { f := { e := e, lv := lv, at_ := x.2.1, left := left }, page := x.2.2 } rs us

/-! ## Permissions and attributes (R46 to R49) -/

/-- Whether a leaf permits an access kind (R48). -/
def Leaf.allows (l : Leaf) (a : Acc) : Bool :=
  match a with
  | .read => l.r
  | .write => l.w
  | .atomic => l.r && l.w
  | .exec => l.x

/-- Whether the first stage permits an access of a level (R48). -/
def Leaf.permits (l : Leaf) (a : Acc) (x : Level) : Bool :=
  l.allows a && (if x = .U then l.u else !(a == .exec && l.u))

/-- Whether an access writes (R49). -/
def Acc.writes (a : Acc) : Bool := a == .write || a == .atomic

/-- The permission fault of a combined translation, stage 1 first (R46). -/
def permFault (va : W64) (e : TlbEntry) (a : Acc) (x : Level) : Option XFault :=
  if !e.s1.permits a x then some (walkFault va (if e.ctx.hyp then 3 else 1) 3 e.s1.level)
  else match e.s2 with
    | some l => if l.allows a then none else some (walkFault va 2 3 l.level)
    | none => none

/-- The fault of an atomic or memory command to a replicated page (R47), behind the checks of permissions. -/
def replFault (va : W64) (e : TlbEntry) (a : Acc) : Option XFault :=
  if e.attr.repl && a == .atomic then
    some (match e.s2 with
      | some l => walkFault va 2 4 l.level
      | none => walkFault va (if e.ctx.hyp then 3 else 1) 4 e.s1.level)
  else none

/-- The physical address of a virtual one under an entry, before placement. -/
def TlbEntry.addr (e : TlbEntry) (va : W64) : Nat := e.pa + (va.toNat - e.va)

/-- Placement (R47), for an access of a chassis: a write to a replicated page keeps the address of the first copy. -/
def place (e : TlbEntry) (a : Acc) (ch pa : Nat) : Nat :=
  if e.spread then 2 ^ 40 + bitsOf pa 39 0
  else if e.attr.repl && !a.writes then pa - bitsOf pa 39 36 * 2 ^ 36 + ch * 2 ^ 36
  else pa

/-- Combine the leaves of a walk into an entry (R46). -/
def combine (ctx : Ctx) (va : W64) (s1 : Found) (s2 : Option Found) (ipas : List Nat) : TlbEntry :=
  let n1 := pageSize s1.e s1.lv
  let ipa := leafAddr s1.e s1.lv va.toNat
  match s2 with
  | none =>
    { ctx := ctx, glob := pteG s1.e && !ctx.hyp, va := va.toNat / n1 * n1, size := n1, pa := ipa - va.toNat % n1
      s1 := leafOf s1.e s1.lv, attr := attrOf s1.e, spread := bitOf s1.e 54, ipas := ipas }
  | some f =>
    let n := min n1 (pageSize f.e f.lv)
    let a := attrOf s1.e
    let b := attrOf f.e
    { ctx := ctx, glob := pteG s1.e, va := va.toNat / n * n, size := n, pa := leafAddr f.e f.lv ipa - va.toNat % n
      s1 := leafOf s1.e s1.lv, s2 := some (leafOf f.e f.lv)
      attr := { cp := max a.cp b.cp, atomic := a.atomic || b.atomic, bank := a.bank || b.bank, repl := b.repl }
      spread := bitOf f.e 54, ipas := ipas }

/-- A finished walk: its entry, the leaves it used, whose a and d bits are to be set (R49), and whether the entry is kept; an identity
translation makes none. -/
structure Walked where
  entry : TlbEntry
  used : List Used
  keep : Bool := true
  deriving DecidableEq, Repr

/-- The bits that an entry of a value still needs once a walk has used it (R49). -/
def usedBits (value : Nat) (write : Bool) : Nat := (if bitOf value 6 then 0 else 64) + (if write && !bitOf value 7 then 128 else 0)

/-- The bits that a used leaf still needs. -/
def Used.bits (u : Used) : Nat := usedBits u.value u.write

/-- The entry of a walk for a write, whose leaves have d set (R49). -/
def TlbEntry.dirtied (e : TlbEntry) (a : Acc) : TlbEntry :=
  if a.writes then { e with s1 := { e.s1 with d := true }, s2 := e.s2.map fun l => { l with d := true } } else e

/-- The end of a walk: the answer, unless placement refuses the access; the bits are set in either case (R46). -/
def placed (va : W64) (m : Miss) (e : TlbEntry) (rs : List (Nat × W64)) (us : List Used) : Walking Walked :=
  match replFault va e m.acc with
  | some f => .fail f us
  | none => .ok { entry := e.dirtied m.acc, used := us } rs us

/-- The walk of a U or S access (WalkUS of R45, R46, R49). -/
def walkUS (r : Roots) (m : Miss) (va : W64) (rs : List (Nat × W64)) : Walking Walked :=
  let p := m.ctx.pasid
  if 2 ^ min (bitsOf r.cdtb 4 0) 20 ≤ p then .fail (walkFault va 1 1 5) [] else
  (readEntry1 r va (bitsOf r.cdtb 51 12 * 4096 + 8 * p) 5 rs []).andThen fun x rs us =>
    let c := x.1
    if !bitOf c 0 then .fail (walkFault va 1 1 5) us
    else if bitsOf c 11 1 != 0 || bitsOf c 63 52 != 0 then .fail (walkFault va 1 2 5) us
    else
      (stage1 r va rs.length 4 (bitsOf c 51 12 * 4096) rs us).andThen fun s1 rs us =>
        let ipa := leafAddr s1.f.e s1.f.lv va.toNat
        let finish (s2 : Option Found) (rs : List (Nat × W64)) (us : List Used) : Walking Walked :=
          let e := combine m.ctx va s1.f s2 [ipa / 4096]
          match permFault va e m.acc m.level with
          | some f => .fail f us
          | none =>
            let w := m.acc.writes
            let own : Used := { addr := s1.f.at_, value := s1.f.e, write := w, left := s1.f.left }
            let final : List Used := match s2 with
              | some f => [{ addr := f.at_, value := f.e, write := w, left := f.left }]
              | none => []
            -- an update of the stage-1 entry needs w in the stage-2 leaf of its table page
            match (if own.bits = 0 then none else s1.page) with
            | some f =>
              if !pteW f.e then .fail (walkFault va 2 3 f.lv) us
              else placed va m e rs (us ++ [{ addr := f.at_, value := f.e, write := true, left := f.left }, own] ++ final)
            | none => placed va m e rs (us ++ [own] ++ final)
        if r.s2on then
          (stage2 va 2 ipa rs.length 4 r.s2root rs us).andThen fun f rs us => finish (some f) rs us
        else finish none rs us

/-- The identity translation of a page for H (R46). -/
def identity (ctx : Ctx) (va : W64) : TlbEntry :=
  { ctx := ctx, va := va.toNat / 4096 * 4096, size := 4096, pa := va.toNat / 4096 * 4096
    s1 := { r := true, w := true, x := true, u := false, d := true, level := 0 }, attr := { cp := 0, atomic := true } }

/-- The walk of an H access (WalkH of R45); where the regime was off when it started, its answer is the identity, which makes no entry. -/
def walkH (r : Roots) (m : Miss) (va : W64) (rs : List (Nat × W64)) : Walking Walked :=
  if !bitOf r.ttbr 0 then .ok { entry := identity m.ctx va, used := [], keep := false } rs [] else
  (stage2 va 3 va.toNat rs.length 4 (bitsOf r.ttbr 51 12 * 4096) rs []).andThen fun f rs us =>
    let e := combine m.ctx va f none []
    match permFault va e m.acc m.level with
    | some x => .fail x us
    | none => placed va m e rs (us ++ [{ addr := f.at_, value := f.e, write := m.acc.writes, left := f.left }])

/-- A walk replayed over the reads that have returned. -/
def walk (r : Roots) (m : Miss) (rs : List (Nat × W64)) : Walking Walked :=
  let va : W64 := BitVec.ofNat 64 (m.page * 4096)
  if m.ctx.hyp then walkH r m va rs else walkUS r m va rs

/-- The registers of a chassis that a walk starts from. -/
def rootsOf (c : Chassis) : Roots := { cdtb := c.cdtb.toNat, s2tb := c.s2tb.toNat, ttbr := c.ttbr.toNat }

/-! ## TLBs (R51, R52) -/

/-- The context of an access of a coach at a level (R36, R37). -/
def ctxOf (c : Coach) (x : Level) : Ctx :=
  if x = .H then { vmid := 0, pasid := 0, hyp := true } else { vmid := c.vmid.toNat, pasid := c.pasid.toNat, hyp := false }

/-- Whether an entry translates an address of a context (R51). -/
def TlbEntry.covers (e : TlbEntry) (ctx : Ctx) (va : Nat) : Bool :=
  e.ctx.hyp == ctx.hyp && (ctx.hyp || (e.ctx.vmid == ctx.vmid && (e.glob || e.ctx.pasid == ctx.pasid)))
    && e.va ≤ va && va < e.va + e.size

/-- Whether an entry can serve an access: one built from a leaf with d = 0 grants no write (R49). -/
def TlbEntry.serves (e : TlbEntry) (a : Acc) : Bool :=
  !a.writes || (e.s1.d && (match e.s2 with
    | some l => l.d
    | none => true))

/-- The translation of one access. -/
inductive Xlat where
  | pa (pa : Nat) (attr : Attr)
  | fault (f : XFault)
  | miss (m : Miss)
  deriving DecidableEq, Repr

/-- Who asks for a translation: the core by its global number, the level, the context, and the carriage for failed walks. -/
structure Asker where
  core : Nat
  level : Level
  ctx : Ctx
  who : Nat × Nat × W64
  deriving DecidableEq, Repr

/-- A carriage as an asker. -/
def askerOf (c : Coach) (j : Nat) (k : Carriage) : Asker :=
  { core := c.gcore, level := k.level, ctx := ctxOf c k.level, who := (c.key, j, k.pc) }

/-- The answer of an entry for an access (R46 to R48). -/
def answer (e : TlbEntry) (ch : Nat) (a : Acc) (x : Level) (va : W64) : Xlat :=
  match (permFault va e a x).orElse fun _ => replFault va e a with
  | some f => .fault f
  | none => .pa (place e a ch (e.addr va)) e.attr

/-- Whether two misses are one entry of a miss buffer (R52): the same core, context, regime and page. -/
def Miss.same (a b : Miss) : Bool := a.core == b.core && a.ctx == b.ctx && a.page == b.page

/-- Whether two misses are of one access kind and level. -/
def Miss.alike (a b : Miss) : Bool := a.acc == b.acc && a.level == b.level

/-- Translate(va, kind, l) (R12, R45 to R51), with the range check of R35 before it. -/
def translate (s : State) (q : Asker) (a : Acc) (va : W64) : Xlat :=
  let d := q.core / 16
  let c := chassisOf s d
  if va.toNat / 2 ^ 56 ≠ 0 then .fault { cause := 7, addr := va, reason := 0, stage := 0, wlevel := 0 }
  else if q.ctx.hyp && !c.ttbr.getLsbD 0 then
    -- identity translation for H
    if bitsOf va.toNat 55 52 ≠ 0 then .fault { cause := 7, addr := va, reason := 0, stage := 0, wlevel := 0 }
    else .pa (bitsOf va.toNat 51 0) { cp := 0, atomic := true }
  else
    let m : Miss := { core := q.core, ctx := q.ctx, page := va.toNat / 4096, acc := a, level := q.level, who := [q.who] }
    let k := coreG s q.core
    match (k.tlb ++ c.tlb).find? (fun e => e.covers q.ctx va.toNat && e.serves a) with
    | some e => answer e d a q.level va
    | none =>
      match k.failed.find? (fun f => m.same f.miss && m.alike f.miss && f.miss.who.contains q.who) with
      | some f =>
        -- the fault names the access's own address unless it names a table entry
        .fault (if f.fault.own then { f.fault with addr := va } else f.fault)
      | none => .miss m

/-- Add an entry to a TLB of a given size; the oldest entry makes room (log entry 8). -/
def addEntry (n : Nat) (e : TlbEntry) (es : List TlbEntry) : List TlbEntry :=
  if es.contains e then es else (e :: es).take n

/-- A miss joins the miss buffer of its core and the queue of its chassis (R52), or attaches to the entry of its page. A full buffer or queue
takes nothing: the instruction asks again. -/
def enqueueMiss (s : State) (m : Miss) : State :=
  let k := coreG s m.core
  let c := chassisOf s (m.core / 16)
  let merge (x : Miss) : Miss :=
    if m.alike x then { x with who := (x.who ++ m.who).eraseDups } else { x with others := (x.others ++ m.who).eraseDups }
  if k.misses.any m.same then
    let s := s.setCoreG m.core { k with misses := updFirst m.same merge k.misses }
    let c := chassisOf s (m.core / 16)
    s.setChassis (m.core / 16)
      { c with
        misses := updFirst m.same merge c.misses
        walks := c.walks.map fun w => if m.same w.miss then { w with miss := merge w.miss } else w }
  else if 32 ≤ k.misses.length || 512 ≤ c.misses.length then s
  else
    let s := s.setCoreG m.core { k with misses := k.misses ++ [m] }
    let c := chassisOf s (m.core / 16)
    s.setChassis (m.core / 16) { c with misses := c.misses ++ [m] }

/-- The failed walks that a carriage waited for are forgotten: its instruction has met its checks. -/
def forget (s : State) (core : Nat) (who : Nat × Nat × W64) : State :=
  let k := coreG s core
  if k.failed.isEmpty then s else
  let strip (f : Failed) : Failed := { f with miss := { f.miss with who := f.miss.who.filter fun w => w.1 ≠ who.1 ∨ w.2.1 ≠ who.2.1 } }
  s.setCoreG core { k with failed := (k.failed.map strip).filter fun f => !f.miss.who.isEmpty }

/-- The code of a failed walk (R50). -/
def XFault.code (f : XFault) : WalkCode := { reason := f.reason, stage := f.stage, wlevel := f.wlevel }

/-- A lane's trap for a translation fault (R50, R407). -/
def XFault.trap (f : XFault) (l kind : Nat) : LaneTrap :=
  { lane := l, cause := f.cause, addr := f.addr, kind := kind, reason := f.reason, stage := f.stage, wlevel := f.wlevel }

/-- The code of an access kind in a fault record (R407). -/
def Acc.code : Acc → Nat
  | .read => 1 | .write => 2 | .atomic => 3 | .exec => 4

/-! ## Invalidation (R54) -/

/-- Whether an invalidation removes an entry (R54): kind, PASID, VMID, address. -/
def TlbEntry.hit (e : TlbEntry) (kind pasid vmid va : Nat) : Bool :=
  let cover := e.va ≤ va && va < e.va + e.size
  match kind with
  | 0 => !e.ctx.hyp && e.ctx.vmid == vmid && (e.glob || e.ctx.pasid == pasid) && cover
  | 1 => !e.ctx.hyp && e.ctx.vmid == vmid && !e.glob && e.ctx.pasid == pasid
  | 2 => !e.ctx.hyp && e.ctx.vmid == vmid
  | 3 => !e.ctx.hyp && e.ctx.vmid == vmid && e.s2.isSome
  | 4 => !e.ctx.hyp && e.ctx.vmid == vmid
  | 5 => e.ctx.hyp && cover
  | _ => true

/-- Apply an invalidation on one chassis (R54, R55): TLBs lose their entries, the table-entry cache is emptied (R54 lets an
invalidation remove more than it names), walks in progress start again, and instructions not yet issued keep no page. -/
def invalidateOn (s : State) (d kind pasid vmid va : Nat) : State :=
  let drop (e : Nat × Coach) : Nat × Coach :=
    (e.1, if e.2.ch = d then { e.2 with slots := e.2.slots.map fun k => (k.1, { k.2 with pages := [] }) } else e.2)
  let s := { s with coaches := s.coaches.map drop }
  let c := chassisOf s d
  let keep (es : List TlbEntry) : List TlbEntry := es.filter fun e => !e.hit kind pasid vmid va
  s.setChassis d
    { c with
      tlb := keep c.tlb
      table := []
      walks := c.walks.map fun w => { w with reads := [], cdtb := c.cdtb, s2tb := c.s2tb, ttbr := c.ttbr }
      cores := c.cores.map fun k => (k.1, { k.2 with tlb := keep k.2.tlb }) }

end Sys2Proof.Machine
end

