-- ==== Sys2Proof/Machine/Memory.lean ====
section
/-! DEFINITION. Local memory with its caches: the cells and their errors (03 R68 to R71, R85), the chassis cache (04 R100 to R103, R107),
the L1 (04 R95 to R97), the instruction cache and the scanned-page store (02 R56 to R58), and the typed buffers (04 R86 to R94). -/

namespace Sys2Proof.Machine

/-- The number of the 128-byte line of a byte. -/
def lineOf (wa : Nat) : Nat := wa / 128

/-- The chassis of a line. -/
def lineDie (ln : Nat) : Nat := ln * 128 / 2 ^ 36 % 16

/-! ## Errors (R70, R71, R85) -/

/-- Record an uncorrectable error or an unavailable bus (R71, R84, R85): the counter of the bus, and mc.errlog while it is not valid, or
always under host-assisted logging, which also sends an event (21 R440). An access to an unavailable bus and discarded dirty bytes, kinds 4 and
6, are no uncorrectable errors for the counter (DESIGN CHOICE, log entry 69). -/
def logError (s : State) (wa kind : Nat) : State :=
  let h := homeAt wa
  let c := chassisOf s h.d
  let b := busOf c h.col
  let b := if kind = 4 ∨ kind = 6 then b else { b with uncorrected := min 0xFFFF (b.uncorrected + 1) }
  let elog := (dutyOf s h.d).getLsbD 4
  let log : W64 := BitVec.ofNat 64 (wa / 32 * 32 % 2 ^ 52 + 2 ^ 52 * h.col + 2 ^ 56 * kind + 2 ^ 63)
  let c := { c with buses := mset c.buses h.col b, errlog := if c.errlog.getLsbD 63 && !elog then c.errlog else log }
  let s := s.setChassis h.d c
  if elog then
    sendEvent s { ty := 14, ch := h.d, data := [log.toNat, b.corrected + 2 ^ 32 * b.uncorrected] }
  else s

/-- Count a corrected error (R70). -/
def countCorrected (s : State) (wa : Nat) : State :=
  let h := homeAt wa
  let c := chassisOf s h.d
  let b := busOf c h.col
  s.setChassis h.d { c with buses := mset c.buses h.col { b with corrected := min (2 ^ 32 - 1) (b.corrected + 1) } }

/-- Whether the bus of a byte is unavailable (R84). -/
def busLost (s : State) (wa : Nat) : Bool := let h := homeAt wa; (busOf (chassisOf s h.d) h.col).state == 3

/-- The bank of a byte on its bus (R62, R63): 16 · pseudo-channel + bank. -/
def Home.bank (h : Home) : Nat := 16 * h.chan + bitsOf h.off 13 10

/-- The bank of a byte, by chassis, bus and bank. -/
def bankKey (wa : Nat) : Nat := let h := homeAt wa; 512 * (16 * h.d + h.col) + h.bank

/-- Whether a refresh holds a bank: for 100 ns (R67, R80). -/
def refreshing (s : State) (b : Bus) (bank : Nat) : Bool :=
  match mget b.refreshedAt bank with
  | some t => s.ns < t + 100
  | none => false

/-- Whether a clock is stolen for gain-cell refresh in a throttle state (R81, R425). -/
def stolenClock (ts clk : Nat) : Bool :=
  match ts with
  | 0 => clk % 64 == 63
  | 3 => clk % 16 == 15
  | _ => clk % 32 == 31

/-- Whether a chassis's typed buffers, macros and cache slices accept no access at this moment (R81). -/
def stolenNow (s : State) (d : Nat) : Bool := stolenClock (chassisOf s d).ts (chassisOf s d).clk

/-- Whether the cache slices of a chassis accept an access at this moment (R81). -/
def sliceOpen (s : State) (d : Nat) : Bool := !((chassisOf s d).cacheOn && stolenNow s d)

/-! ## The bank-side unit (R72, R73) -/

/-- The access that a reference names is still to be performed, and is the one that took a place in the issue order. -/
def accessWaits (s : State) (r : OpRef) (stamp : Nat) : Bool :=
  match (coachOf s r.key).bind fun c => c.ops.find? fun o => o.id == r.op && o.stamp == stamp with
  | some o => (match o.pieces[r.piece]? with
    | some p => p.phase == 0
    | none => false)
  | none => false

/-- Whether an entry of a unit still waits: an access that has been performed otherwise, or is gone, counts for nothing. -/
def BankEntry.live (s : State) (e : BankEntry) : Bool :=
  match e.who with
  | .access r n => accessWaits s r n
  | _ => true

/-- Whether two requesters are one: the accesses of one operation ask together. -/
def Requester.same (a b : Requester) : Bool :=
  match a, b with
  | .access q _, .access r _ => q.ch == r.ch && q.handle == r.handle && q.op == r.op
  | _, _ => a == b

/-- The operations in the queue of a byte's bank, the oldest first (R73). -/
def queueAt (s : State) (wa : Nat) : List BankEntry :=
  let h := homeAt wa
  ((mget (busOf (chassisOf s h.d) h.col).queues h.bank).getD []).filter (BankEntry.live s)

/-- The operations that wait at the ports of a byte's unit (R73). -/
def arrivalsAt (s : State) (wa : Nat) : List BankEntry :=
  let h := homeAt wa
  (busOf (chassisOf s h.d) h.col).arrivals.filter (BankEntry.live s)

/-- Whether the unit of a byte can execute an operation on its bank at this moment (R67, R73, R80, R82, R83): the bus is neither under test
nor under repair, no refresh holds the bank, and no other operation stands before it. A step that stands at the head of one bank's queue takes
with it what else it does; one may use a bank that it has entered again. -/
def unitOpen (s : State) (wa : Nat) : Bool :=
  let h := homeAt wa
  let b := busOf (chassisOf s h.d) h.col
  b.state != 1 && b.state != 2 && !refreshing s b h.bank
    && (s.doing.head || s.doing.banks.contains (bankKey wa) || ((queueAt s wa).isEmpty && (arrivalsAt s wa).isEmpty))

/-- Whether the cache slice and the unit before a byte's cells both take an access at this moment (R80 to R83). -/
def busOpen (s : State) (wa : Nat) : Bool := sliceOpen s (homeAt wa).d && unitOpen s wa

/-- A step enters the bank of a byte (R72): the bus carries an operation at this clk (R82); a step that the bank cannot take waits. -/
def enterUnit (s : State) (wa : Nat) : State :=
  if unitOpen s wa then
    let h := homeAt wa
    let c := chassisOf s h.d
    let s := s.setChassis h.d { c with buses := mset c.buses h.col { busOf c h.col with lastOp := c.clk } }
    { s with doing := { s.doing with banks := bankKey wa :: s.doing.banks } }
  else { s with doing := { s.doing with stall := some (.bank wa) } }

/-- A step waits for something that takes no access at this moment. -/
def holdStep (s : State) : State := { s with doing := { s.doing with stall := some .other } }

/-- A chassis-window access at a cache slice waits in a stolen clock (R81). -/
def enterSlice (s : State) (wa : Nat) : State := if sliceOpen s (homeAt wa).d then s else holdStep s

/-- The requester port through which something comes to the unit of a byte (R73; log entry 61): of a core of the unit's chassis, the core's;
of a core of another chassis, and from outside the module, the ring stop's; of the chassis itself, the cache slice's. -/
def Requester.port (s : State) (wa : Nat) : Requester → Nat
  | .access r _ => ofCoach r.key
  | .corrected => 17
  | .events _ => 17
  | .turn (.issue r) => ofCoach r.key
  | .turn (.outrider r) => ofCoach r.key
  | .turn (.event (.copyPieceWrite id _ _ _)) => ((s.copies.find? fun y => y.id == id).map fun y => ofCore y.ch y.core).getD 16
  | .turn (.event (.cacheFillReturn ch _ (some core) _)) => ofCore (ch % 16) (core % 16)
  | .turn (.event (.l1OwnershipGrant ch core _ _)) => ofCore (ch % 16) (core % 16)
  | .turn (.event (.matrixInstructionEnd ch core)) => ofCore (ch % 16) (core % 16)
  | .turn (.event (.hostBar2Write _ _ _ _)) => 16
  | .turn (.event (.hostBar2Read _ _ _ _)) => 16
  | .turn (.event (.peerRequestArrive _ _ _ _ _)) => 16
  | .turn (.event (.streamPacketReceive _ _)) => 16
  | _ => 17
where
  ofCore (ch core : Nat) : Nat := if ch = (homeAt wa).d then core else 16
  ofCoach (key : Nat) : Nat := ((coachOf s key).map fun c => ofCore c.ch c.core).getD 16

/-- Whether something stands at the unit of a byte already, for the same bank. -/
def standsFor (s : State) (who : Requester) (wa : Nat) : Bool :=
  (arrivalsAt s wa ++ queueAt s wa).any fun e => bankKey e.wa == bankKey wa && e.who.same who

/-- Something arrives at the unit of a byte and waits at its port (R73). -/
def waitAt (s : State) (who : Requester) (wa : Nat) : State :=
  if standsFor s who wa then s else
  let h := homeAt wa
  let c := chassisOf s h.d
  let b := busOf c h.col
  let e : BankEntry := { port := who.port s wa, wa := wa, since := c.clk, who := who }
  s.setChassis h.d { c with buses := mset c.buses h.col { b with arrivals := arrivalsAt s wa ++ [e] } }

/-- Whether something stands at the head of a bank's queue (R73). -/
def heads (s : State) (who : Requester) : Bool :=
  s.chassis.any fun c => c.2.buses.any fun b => b.2.queues.any fun q => (q.2.find? (BankEntry.live s)).any fun e => e.who.same who

/-- Whether an entry of a bus is of a step that is over. -/
def Bus.holds (b : Bus) (who : Requester) : Bool := b.arrivals.any (·.who == who) || b.queues.any fun q => q.2.any (·.who == who)

/-- A bus without the entries of a step that is over. -/
def Bus.without (b : Bus) (who : Requester) : Bus :=
  if b.holds who then
    { b with arrivals := b.arrivals.filter (·.who != who), queues := b.queues.map fun q => (q.1, q.2.filter (·.who != who)) }
  else b

/-- A step that is over leaves the units where it stood. -/
def leaveUnits (s : State) (who : Requester) : State :=
  if s.chassis.any fun c => c.2.buses.any fun b => b.2.holds who then
    { s with chassis := s.chassis.map fun c => (c.1, { c.2 with buses := c.2.buses.map fun b => (b.1, b.2.without who) }) }
  else s

/-- What becomes of a step that began at `s0`: one that a bank could not take waits at its unit, and changes nothing else; one that something
else holds changes nothing. -/
def settleStep (who : Requester) (s0 u : State) : State :=
  match u.doing.stall with
  | some (.bank wa) => waitAt s0 who wa
  | some .other => s0
  | none => leaveUnits { u with doing := s0.doing } who

/-- A step of memory, by what asks for it: `ecc` is the error that the first sector it reads in the cells has. -/
def during (who : Requester) (ecc : Ecc) (f : State → State) (s : State) : State :=
  settleStep who s (f { s with doing := { ecc := ecc, head := heads s who } })

/-- A step of memory that is not made where something holds it. -/
def attempt (f : State → State) (s : State) : State :=
  let u := f { s with doing := {} }
  if u.doing.stall.isSome then s else { u with doing := s.doing }

/-- The place of an operation in the issue order. -/
def stampOf (s : State) (r : OpRef) : Nat :=
  (((coachOf s r.key).bind fun c => c.ops.find? fun o => o.id == r.op).map Op.stamp).getD 0

/-- A step of an outstanding access. -/
def duringOp (r : OpRef) (ecc : Ecc) (f : State → State) (s : State) : State := during (.access r (stampOf s r)) ecc f s

/-! ## The ring (07 R178, R179) -/

/-- Whether the eastward route from one stop to another takes the hop east of ring position `h`. -/
def crossesEast (a b h : Nat) : Bool := (h + 16 - a) % 16 < (b + 16 - a) % 16

/-- Whether a hop is down (R177), by the ring position west of it. -/
def hopIsDown (s : State) (h : Nat) : Bool := (chassisOf s h).east.state == 3

/-- Whether a hop on the eastward or westward route between two stops is down. -/
def routeDown (s : State) (a b : Nat) (east : Bool) : Bool :=
  dies.any fun h => hopIsDown s h && (if east then crossesEast a b h else crossesEast b a h)

/-- Whether two chassis can reach one another: one of the two ways has no hop that is down (R177, R178). -/
def reachable (s : State) (a b : Nat) : Bool := !routeDown s a b true || !routeDown s a b false

/-- Whether a packet from stop `a` to stop `b` goes east (R162, R177): the shorter way, east at eight hops, unless a hop on it is down. -/
def goesEast (s : State) (a b : Nat) : Bool :=
  let e := (b + 16 - a) % 16 ≤ (a + 16 - b) % 16
  if routeDown s a b e then !e else e

/-- The hops of the route between two stops, each by the ring position west of it. -/
def routeHops (s : State) (a b : Nat) : List Nat :=
  dies.filter fun h => if goesEast s a b then crossesEast a b h else crossesEast b a h

/-- Whether the ring carries a request from one stop to another, and its response back, at this moment (R162, R163, R176, R177, R179): every
hop of both routes is active, and no route switch is under way. -/
def pathOpen (s : State) (a b : Nat) : Bool :=
  a == b || (!s.switching && (routeHops s a b ++ routeHops s b a).all fun h => (chassisOf s h).east.state == 1)

/-! ## Free values -/

/-- A value that the spec leaves open, and the state that has used it up (log entry 2). -/
def takeFree (s : State) : W64 × State := (Config.freeWord s.freeCtr, { s with freeCtr := s.freeCtr + 1 })

/-- `n` bytes that the spec leaves open. -/
def takeFreeBytes (s : State) (n : Nat) : List Byte × State :=
  ((List.range n).map fun i => BitVec.ofNat 8 ((Config.freeWord (s.freeCtr + i / 8)).toNat / 256 ^ (i % 8)),
    { s with freeCtr := s.freeCtr + (n + 7) / 8 })

/-! ## Sectors and their errors (R63, R68 to R71) -/

/-- The sectors that a range touches: the start and the length of the part of the range in each (R63). -/
def sectorsOf (a n : Nat) : List (Nat × Nat) :=
  if n = 0 then [] else
  (List.range ((a + n - 1) / 32 - a / 32 + 1)).map fun i =>
    let lo := max a ((a / 32 + i) * 32)
    (lo, min (a + n) ((a / 32 + i + 1) * 32) - lo)

/-- The error that the cells of a byte's sector hold. -/
def flawAt (s : State) (wa : Nat) : Ecc := (mget s.flaws (wa / 32)).getD .clean

/-- A sector is written whole, and so is correct (R71). -/
def mend (s : State) (wa : Nat) : State := { s with flaws := mdel s.flaws (wa / 32) }

/-- An error comes into the cells of a sector. -/
def strike (s : State) (wa : Nat) (ecc : Ecc) : State :=
  if ecc = .clean then s else { s with flaws := mset s.flaws (wa / 32) ecc }

/-- The sector that a step reads first meets the error that its surroundings have chosen. -/
def meetError (s : State) (wa : Nat) : State := strike { s with doing := { s.doing with ecc := .clean } } wa s.doing.ecc

/-- The cells of a sector read wrong, by a value that the spec does not give (R68). -/
def spoil (s : State) (wa : Nat) : State :=
  let (bs, s) := takeFreeBytes s 32
  { s with dram := cwrite s.dram (wa / 32 * 32) bs }

/-- A correctable error (R70): it is counted, and unless the operation itself writes the sector, the write-back of the corrected sector
comes to the unit for its bank's queue. -/
def correctError (s : State) (wa : Nat) (rewrites : Bool) : State :=
  let s := countCorrected s wa
  if rewrites then mend s wa else
  let h := homeAt wa
  let c := chassisOf s h.d
  let b := busOf c h.col
  let e : BankEntry := { port := 17, wa := wa / 32 * 32, since := c.clk, who := .corrected }
  let s := { s with flaws := mset s.flaws (wa / 32) .corrected }
  if (b.arrivals ++ (mget b.queues h.bank).getD []).any fun x => x.who == .corrected && x.wa == e.wa then s else
  s.setChassis h.d { c with buses := mset c.buses h.col { b with arrivals := b.arrivals ++ [e] } }

/-- The unit reads and checks the sector of a byte (R68 to R72, R84): the cause of an error, if any; an error that cannot be corrected is
logged under a kind of R85. -/
def readSector (s : State) (wa kind : Nat) (rewrites : Bool) : Option Nat × State :=
  if busLost s wa then (some 0x21, logError s wa 4)
  else
    let s := meetError (enterUnit s wa) wa
    match flawAt s wa with
    | .clean => (none, s)
    | .corrected => (none, correctError s wa rewrites)
    | .uncorrectable => (some 0x20, logError s wa kind)
    | .wrong => (none, correctError (spoil s wa) wa rewrites)
    | .missed => (none, mend (spoil s wa) wa)

/-- The unit reads several sectors, until one fails. -/
def readSectorsAt (kind : Nat) (rewrites : Bool) : State → List Nat → Option Nat × State
  | s, [] => (none, s)
  | s, wa :: was =>
    match readSector s wa kind rewrites with
    | (some e, s) => (some e, s)
    | (none, s) => readSectorsAt kind rewrites s was

/-- The unit makes ready to write a sector (R69): one that is written whole is not read. -/
def openSector (s : State) (wa kind : Nat) (whole : Bool) : Option Nat × State :=
  if busLost s wa then (some 0x21, logError s wa 4)
  else if whole then (none, enterUnit s wa)
  else readSector s wa kind true

/-! ## Pages of code (R56 to R58) -/

/-- A write to a page clears its scan, and spoils a scan that runs (R58). -/
def clearScan (s : State) (wa : Nat) : State :=
  let c := chassisOf s (homeAt wa).d
  let pg := wa / 4096
  s.setChassis (homeAt wa).d
    { c with
      scanned := mdel c.scanned pg
      scans := c.scans.map fun r => if r.page = pg then { r with spoilt := true } else r }

/-- Drop a line from the instruction cache of a core. -/
def dropCode (s : State) (g ln : Nat) : State :=
  let k := coreG s g
  if (mget k.icache ln).isNone then s else s.setCoreG g { k with icache := mdel k.icache ln }

/-! ## The chassis cache (R100 to R103, R107) -/

/-- A line of the chassis cache of its home. -/
def cacheLine (s : State) (ln : Nat) : Option CacheLine := mget (chassisOf s (lineDie ln)).cache ln

/-- Replace or add a line. -/
def setLine (s : State) (ln : Nat) (l : CacheLine) : State :=
  let c := chassisOf s (lineDie ln)
  s.setChassis (lineDie ln) { c with cache := mset c.cache ln l }

/-- Remove a line. -/
def delLine (s : State) (ln : Nat) : State :=
  let c := chassisOf s (lineDie ln)
  s.setChassis (lineDie ln) { c with cache := mdel c.cache ln }

/-- A line has been used (R102). -/
def touch (s : State) (ln : Nat) : State :=
  match cacheLine s ln with
  | none => s
  | some l =>
    let c := chassisOf s (lineDie ln)
    s.setChassis (lineDie ln)
      { c with cache := mset c.cache ln { l with used := c.cacheUses + 1 }, cacheUses := c.cacheUses + 1 }

/-- The offsets of the dirty bytes of a line. -/
def dirtyBytes (bytes : RMap 8) (dirty : BitVec 128) : List (Nat × Byte) := bytes.filter fun e => dirty.getLsbD e.1

/-- The bytes of one sector of a line. -/
def sectorBytes (l : CacheLine) (i : Nat) : List Byte := (List.range 32).map fun j => rget l.bytes (32 * i + j)

/-- Write the dirty bytes of one sector of a line back (R100): as a full-sector write where every byte is valid, else as a masked write, of
which an error loses the new bytes (R69, R71). An unavailable bus discards them (R84). -/
def writeBackSector (s : State) (ln : Nat) (l : CacheLine) (i : Nat) : State :=
  let wa := ln * 128 + 32 * i
  let ds := (dirtyBytes l.bytes l.dirty).filter fun e => e.1 / 32 == i
  let lose (s : State) : State :=
    match cacheLine s ln with
    | some l => setLine s ln { l with bytes := l.bytes.filter fun e => e.1 / 32 != i }
    | none => s
  if ds.isEmpty then s
  else if busLost s wa then lose (logError s wa 6)
  else
    let whole := (List.range 32).all fun j => (mget l.bytes (32 * i + j)).isSome
    match openSector s wa 3 whole with
    | (some _, s) => lose s
    | (none, s) =>
      let s := mend s wa
      if whole then { s with dram := cwrite s.dram wa (sectorBytes l i) }
      else { s with dram := ds.foldl (fun m e => cset m (ln * 128 + e.1) e.2) s.dram }

/-- Write the dirty bytes of a line back to the cells (R100). -/
def writeBack (s : State) (ln : Nat) : State :=
  match cacheLine s ln with
  | none => s
  | some l =>
    if (dirtyBytes l.bytes l.dirty).isEmpty then s else
    (List.range 4).foldl (fun s i => writeBackSector s ln l i) (setLine s ln { l with dirty := 0 })

/-- Whether the home of a line can have it back from a core at this moment: the ring between them is open (R176), or divided for good, when
the line is recalled over the break (DESIGN CHOICE, log entry 68). -/
def recallOpen (s : State) (ln g : Nat) : Bool := pathOpen s (lineDie ln) (g / 16) || !reachable s (lineDie ln) (g / 16)

/-- The home recalls an owned line (R107): the owner's dirty bytes go to the home, which clears the scan of their page (R58), and the owner
drops the line. -/
def recallLine (s : State) (ln : Nat) : State :=
  match cacheLine s ln with
  | none => s
  | some l =>
    match l.owner with
    | none => s
    | some g =>
      if !recallOpen s ln g then holdStep s else
      let k := coreG s g
      let o := (mget k.l1 ln).getD {}
      let ds := dirtyBytes o.bytes o.dirty
      let s := s.setCoreG g { k with l1 := mdel k.l1 ln }
      let s := if o.dirty = 0 then s else clearScan s (ln * 128)
      setLine s ln
        { l with bytes := ds.foldl (fun m e => mset m e.1 e.2) l.bytes, dirty := l.dirty ||| o.dirty, owner := none }

/-- The set of a line in its slice: the model's choice of index bits (log entry 8). -/
def setOf (ln : Nat) : Nat × Nat := let h := homeAt (ln * 128); (h.col, (h.o / 4096 * 2 + h.o / 128 % 2) % 2048)

/-- The victim of a full set (R102): the least recently used line of the lowest priority. -/
def victimOf (ls : List (Nat × CacheLine)) : Option Nat :=
  match ls with
  | [] => none
  | x :: xs =>
    let worse (a b : Nat × CacheLine) : Bool := b.2.prio < a.2.prio || (b.2.prio == a.2.prio && b.2.used < a.2.used)
    some (xs.foldl (fun a b => if worse a b then b else a) x).1

/-- Evict a line (R100). -/
def evictLine (s : State) (ln : Nat) : State := delLine (writeBack (recallLine s ln) ln) ln

/-- Make room for a line in its set of 12 ways (R100). -/
def makeRoom (s : State) (ln : Nat) : State :=
  let same := (chassisOf s (lineDie ln)).cache.filter fun e => setOf e.1 == setOf ln
  if same.length < 12 then s else
  match victimOf same with
  | some v => evictLine s v
  | none => s

/-- Whether the chassis cache of a line's home is on. -/
def cacheOnAt (s : State) (ln : Nat) : Bool := (chassisOf s (lineDie ln)).cacheOn

/-- Whether an access allocates a line (R101), and at which priority. -/
def Attr.allocates (a : Attr) : Bool := a.cp < 2
def Attr.prio (a : Attr) : Nat := if a.cp = 1 then 0 else 1

/-- A byte at its home: of the chassis cache where it holds a valid one, else of the cells. -/
def homeByte (s : State) (wa : Nat) : Byte :=
  match (cacheLine s (lineOf wa)).bind fun l => mget l.bytes (wa % 128) with
  | some b => b
  | none => cget s.dram wa

/-- Bytes at their home. -/
def homeBytes (s : State) (wa n : Nat) : List Byte := (List.range n).map fun i => homeByte s (wa + i)

/-- Whether an access at the home needs the cells: some byte is not valid in the chassis cache. -/
def needsCells (s : State) (wa n : Nat) : Bool :=
  (List.range n).any fun i => ((cacheLine s (lineOf wa)).bind fun l => mget l.bytes ((wa + i) % 128)).isNone

/-- Write bytes of one line into it, dirty. -/
def CacheLine.write (l : CacheLine) (off : Nat) (bs : List Byte) : CacheLine :=
  { l with
    bytes := (List.range bs.length).foldl (fun m i => mset m (off + i) (bs.getD i 0)) l.bytes
    dirty := (List.range bs.length).foldl (fun d i => d ||| (1#128 <<< (off + i))) l.dirty }

/-- Bytes at a chassis-window address, all of one sector. -/
abbrev Parts := List (Nat × List Byte)

/-- Whether some bytes make up a whole sector. -/
def Parts.whole (ws : Parts) (wa : Nat) : Bool :=
  (List.range 32).all fun j => ws.any fun w => w.1 ≤ wa / 32 * 32 + j && wa / 32 * 32 + j < w.1 + w.2.length

/-- Whether a write at its home goes to the cells. -/
def writeToCells (s : State) (wa : Nat) (a : Attr) : Bool :=
  (cacheLine s (lineOf wa)).isNone && !(cacheOnAt s (lineOf wa) && a.allocates)

/-- Put bytes at their home (R100, R101, R107, R58): an owned line is recalled, the page's scan is cleared, and the bytes go into the
chassis cache where the line is present or allocated, else to the cells. `g` is the core whose instruction cache drops the line. -/
def homeWrite (s : State) (g : Option Nat) (wa : Nat) (bs : List Byte) (a : Attr) : State :=
  if bs.isEmpty then s else
  let ln := lineOf wa
  let s := clearScan (recallLine s ln) wa
  let s := match g with
    | some g => dropCode s g ln
    | none => s
  match cacheLine s ln with
  | some l => touch (setLine s ln (l.write (wa % 128) bs)) ln
  | none =>
    if cacheOnAt s ln && a.allocates then
      let s := makeRoom s ln
      touch (setLine s ln (({ prio := a.prio } : CacheLine).write (wa % 128) bs)) ln
    else { mend s wa with dram := cwrite s.dram wa bs }

/-- The home makes ready for a write of one sector (R69, R71, R84): the cause of an error, if any, of which no byte has changed. -/
def readyWrite (s : State) (ws : Parts) (a : Attr) : Option Nat × State :=
  match ws with
  | [] => (none, s)
  | (wa, _) :: _ =>
    let s := recallLine (enterSlice s wa) (lineOf wa)
    if busLost s wa then (some 0x21, logError s wa 4)
    else if writeToCells s wa a then openSector s wa 2 (ws.whole wa)
    else (none, s)

/-- The bytes of one sector go to their home; where ranges overlap the later one stands. -/
def putSector (s : State) (g : Option Nat) (ws : Parts) (a : Attr) : State := ws.foldl (fun s w => homeWrite s g w.1 w.2 a) s

/-- Perform a write at its home with the errors it can meet: the cause, if it fails, and the state; a failed write changes no byte. -/
def writeSector (s : State) (g : Option Nat) (ws : Parts) (a : Attr) : Option Nat × State :=
  match readyWrite s ws a with
  | (some e, s) => (some e, s)
  | (none, s) => (none, putSector s g ws a)

/-- Perform a write of one range within a sector. -/
def tryWrite (s : State) (g : Option Nat) (wa : Nat) (bs : List Byte) (a : Attr) : Option Nat × State := writeSector s g [(wa, bs)] a

/-- The sectors of a range of one line of which the chassis cache does not hold every byte asked for, by their first bytes asked for. -/
def missingSectors (s : State) (wa n : Nat) : List Nat :=
  ((sectorsOf wa n).filter fun x => needsCells s x.1 x.2).map Prod.fst

/-- Sectors of a line become valid in the chassis cache (R100), the line allocated if it is not present (R101). -/
def fillSectors (s : State) (ln : Nat) (was : List Nat) (prio : Nat) : State :=
  let s := if (cacheLine s ln).isSome then s else makeRoom s ln
  let l := (cacheLine s ln).getD { prio := prio }
  let fill (m : RMap 8) (wa : Nat) : RMap 8 := (List.range 32).foldl (fun m j =>
    let i := wa % 128 / 32 * 32 + j
    if (mget m i).isSome then m else mset m i (cget s.dram (ln * 128 + i))) m
  setLine s ln { l with bytes := was.foldl fill l.bytes }

/-- A read within one line at its home (R100 to R102): served by the chassis cache, which fetches the sectors it lacks where it holds the
line or allocates it; else by the unit, which reads for the operation itself, of a kind of R85. -/
def readHome (s : State) (a : Attr) (wa n kind : Nat) : Except Nat (List Byte) × State :=
  let ln := lineOf wa
  let s := recallLine (enterSlice s wa) ln
  if busLost s wa then (.error 0x21, logError s wa 4) else
  let was := missingSectors s wa n
  if was.isEmpty then (.ok (homeBytes s wa n), touch s ln) else
  let fills := (cacheLine s ln).isSome || (cacheOnAt s ln && a.allocates)
  match readSectorsAt (if fills then 1 else kind) (!fills && kind == 2) s was with
  | (some e, s) => (.error e, s)
  | (none, s) =>
    let s := if fills then touch (fillSectors s ln was a.prio) ln else s
    (.ok (homeBytes s wa n), s)

/-- A read at the home with the errors it can meet. -/
def tryRead (s : State) (a : Attr) (wa n : Nat) : Except Nat (List Byte) × State := readHome s a wa n 1

/-- The attributes under which accesses that go through no translation reach the caches (log entry 61): cached. -/
def plainAttr : Attr := {}

/-- A bus has become unavailable (R84): its lines leave the chassis cache, and each sector of them with dirty bytes is logged. -/
def discardLines (s : State) (d bus : Nat) : State :=
  ((chassisOf s d).cache.filter fun e => (homeAt (e.1 * 128)).col == bus).foldl (fun s e =>
    let s := recallLine s e.1
    match cacheLine s e.1 with
    | some l => delLine ((List.range 4).foldl (fun s i =>
        if ((dirtyBytes l.bytes l.dirty).any fun b => b.1 / 32 == i) then logError s (e.1 * 128 + 32 * i) 6 else s) s) e.1
    | none => s) s

/-! ## The L1 (R95 to R97, R107) -/

/-- The line of a core's L1. -/
def l1Line (s : State) (g ln : Nat) : Option L1Line := mget (coreG s g).l1 ln

/-- Whether an L1 holds valid bytes of a range. -/
def l1Holds (s : State) (g wa n : Nat) : Bool :=
  match l1Line s g (lineOf wa) with
  | some l => (List.range n).all fun i => (mget l.bytes (wa % 128 + i)).isSome
  | none => false

/-- Bytes of an L1. -/
def l1Bytes (s : State) (g wa n : Nat) : List Byte :=
  match l1Line s g (lineOf wa) with
  | some l => (List.range n).map fun i => rget l.bytes (wa % 128 + i)
  | none => []

/-- Whether a core's L1 owns a line. -/
def l1Owns (s : State) (g ln : Nat) : Bool :=
  match l1Line s g ln with
  | some l => l.owned
  | none => false

/-- A core's L1 drops the 32-byte sectors of a range, unless it owns the line. -/
def l1Drop (s : State) (g wa n : Nat) : State :=
  match l1Line s g (lineOf wa) with
  | some l =>
    if l.owned then s else
    let lo := wa % 128 / 32 * 32
    let hi := (wa % 128 + n + 31) / 32 * 32
    let bytes := l.bytes.filter fun e => e.1 < lo || hi ≤ e.1
    let k := coreG s g
    s.setCoreG g { k with l1 := if bytes.isEmpty then mdel k.l1 (lineOf wa) else mset k.l1 (lineOf wa) { l with bytes := bytes } }
  | none => s

/-- A core's store updates the bytes that its L1 holds (R96): in place and dirty in a line that it owns. -/
def l1Update (s : State) (g wa : Nat) (bs : List Byte) : State :=
  match l1Line s g (lineOf wa) with
  | some l =>
    let off := wa % 128
    let put (m : RMap 8) (i : Nat) : RMap 8 := if (mget m (off + i)).isSome then mset m (off + i) (bs.getD i 0) else m
    let k := coreG s g
    let l' : L1Line := { l with
      bytes := (List.range bs.length).foldl put l.bytes
      dirty := if l.owned then (List.range bs.length).foldl (fun d i => d ||| (1#128 <<< (off + i))) l.dirty else l.dirty }
    s.setCoreG g { k with l1 := mset k.l1 (lineOf wa) l' }
  | none => s

/-- An acquire whose scope holds another core invalidates the L1 but for owned lines (R97); the instruction cache goes with it, so that a
fetch ordered behind the acquire meets the rescanned page (R58). -/
def l1Acquire (s : State) (g : Nat) : State :=
  let k := coreG s g
  s.setCoreG g { k with l1 := k.l1.filter fun e => e.2.owned, icache := [] }

/-- Make room in a set of 16 ways of an L1 (R95); which line goes is the model's choice (log entry 8). An owned line is written back. -/
def l1Room (s : State) (g ln : Nat) : State :=
  let k := coreG s g
  let same := k.l1.filter fun e => e.1 % 128 == ln % 128
  if same.length < 16 then s else
  match same with
  | (v, l) :: _ => if l.owned then recallLine (enterSlice s (v * 128)) v else s.setCoreG g { k with l1 := mdel k.l1 v }
  | [] => s

/-- Whether a page's lines can be in an L1 (R101). -/
def Attr.l1 (a : Attr) : Bool := a.cp == 0 && !a.atomic

/-- The accesses of the stores of a core that are still to be performed, in issue order, with their places in it (R96). -/
def openStores (s : State) (g : Nat) : List (Nat × Piece) :=
  sortBy (fun a b => a.1 < b.1) (s.coaches.flatMap fun e =>
    if e.2.gcore != g then [] else e.2.ops.flatMap fun o =>
      if o.kind != .store then [] else (o.pieces.filter fun p => p.phase == 0 && p.space == .mem).map fun p => (o.stamp, p))

/-- The sector of a read that missed fills the L1 of its core (R95): the bytes `bs` of its home, and over them the stores of the core on their
way that the L1 has shown since their issue (R96, R147). -/
def l1Fill (s : State) (g a : Nat) (bs : List Byte) : State :=
  let s := if (l1Line s g (lineOf a)).isSome then s else l1Room s g (lineOf a)
  let k := coreG s g
  let l := (l1Line s g (lineOf a)).getD {}
  let bytes := (List.range 32).foldl (fun m i => mset m (a % 128 + i) (bs.getD i 0)) l.bytes
  let s := s.setCoreG g { k with l1 := mset k.l1 (lineOf a) { l with bytes := bytes } }
  (openStores s g).foldl (fun s q =>
    if q.2.shown && q.2.addr / 32 == a / 32 then l1Update s g q.2.addr (leBytes q.2.size q.2.data) else s) s

/-! ## The instruction cache (R98) -/

/-- Make room in a set of 8 ways of an instruction cache of 128 sets (R98); the index bits and which line goes are the model's choice (log
entry 8). -/
def codeRoom (s : State) (g ln : Nat) : State :=
  let k := coreG s g
  let same := k.icache.filter fun e => e.1 % 128 == ln % 128
  if same.length < 8 then s else
  match same with
  | (v, _) :: _ => s.setCoreG g { k with icache := mdel k.icache v }
  | [] => s

/-! ## Typed buffers (R86 to R90) -/

/-- The cells of a buffer of a core. Kind 2 runs on into the macro image (R89). -/
def bufCells (k : Core) (kind : Nat) : List Host.Cell :=
  match kind with
  | 1 => k.aBuf
  | 2 => k.wBuf
  | _ => k.cBuf

/-- Where the macro image lies in a W-buffer's address space (R89). -/
def imageBase : Nat := 0x60000

/-- Bytes of a buffer, by absolute offset; an offset at or beyond `imageBase` of kind 4 names the macro image. -/
def bufRead (s : State) (g kind a n : Nat) : List Byte :=
  if kind = 4 then cread (coreG s g).cells a n else cread (bufCells (coreG s g) kind) a n

/-- Write bytes of a buffer. -/
def bufWrite (s : State) (g kind a : Nat) (bs : List Byte) : State :=
  let k := coreG s g
  s.setCoreG g (match kind with
    | 1 => { k with aBuf := cwrite k.aBuf a bs }
    | 2 => { k with wBuf := cwrite k.wBuf a bs }
    | 4 => { k with cells := cwrite k.cells a bs }
    | _ => { k with cBuf := cwrite k.cBuf a bs })

/-! ## Peer ports and scopes -/

/-- Whether a peer port has a trained link (R31): active, or retraining. -/
def peerTrained (s : State) (p : Nat) : Bool := let l := (chassisOf s (2 * p + 1)).peer; l.state == 1 || l.state == 2

/-- The whole-system scope sets (R138): the cores of a scope entry, as a mask over global core numbers. -/
def coreMask (gs : List Nat) : BitVec 256 := gs.foldl (fun m g => m ||| (1#256 <<< g)) 0

/-- The key of a programmable scope entry (R139). -/
def scopeKey (vmid pasid n : Nat) : Nat := 32 * (vmid * 2 ^ 20 + pasid) + n

/-- The cores of a scope entry as it reads for a coach (R138). -/
def scopeCores (s : State) (c : Coach) (n : Nat) : BitVec 256 :=
  let own := coreMask [c.gcore]
  match n with
  | 0 => own
  | 1 => (match trainOf s c.train with
    | some t => coreMask (t.cores.map fun k => 16 * c.ch + k)
    | none => own)
  | 2 => own
  | 3 => coreMask ((List.range 16).map fun k => 16 * c.ch + k)
  | 4 => BitVec.allOnes 256
  | 5 => BitVec.allOnes 256
  | n => rget (chassisOf s c.ch).scopes (scopeKey c.vmid.toNat c.pasid.toNat n) ||| own

/-- Whether a scope set holds another core than the issuing one (R138); the host and the peers of system scope count as others. -/
def scopeWide (c : Coach) (m : BitVec 256) : Bool := m != coreMask [c.gcore]

end Sys2Proof.Machine
end

