-- ==== Sys2Proof/Machine/Outstanding.lean ====
section
/-! DEFINITION. Operations that a coach has issued and that are not complete (10 R253 to R257, 03 R75): issuing them, their counters and
tags, their pending errors and the instructions that raise them, and the release of failed copies (05 R129). -/

namespace Sys2Proof.Machine

/-- The value of a counter (R253). -/
def countOf (c : Coach) (k : Counter) : Nat := (c.ops.filter fun o => o.counter == k).length

/-- Whether a command tag is busy (R75). -/
def tagBusy (c : Coach) (t : Nat) : Bool := c.ops.any fun o => o.counter == .tag t

/-- Whether all tags of a mask are free (R328). -/
def tagsFree (c : Coach) (m : BitVec 8) : Bool := (List.range 8).all fun t => !(m.getLsbD t && tagBusy c t)

/-- Whether every copy of the sealed carts up to `n` has left its counter (R125, R257). -/
def cartsDone (c : Coach) (n : Nat) : Bool := !(c.ops.any fun o => o.counter == .cp && o.cart ≤ n && o.cart < c.cart)

/-- The number of sealed carts that are not complete (R124). -/
def cartsOpen (c : Coach) : Nat :=
  ((c.ops.filter fun o => o.counter == .cp && !o.done && o.cart < c.cart).map Op.cart).eraseDups.length

/-- Whether a SEAL must wait (R124): sixteen sealed carts are not complete, and the open one holds a copy that is not. -/
def sealWaits (c : Coach) : Bool := 16 ≤ cartsOpen c && c.ops.any fun o => o.counter == .cp && !o.done && o.cart == c.cart

/-- Whether an access is still to be performed. -/
def Piece.waits (p : Piece) : Bool := p.phase == 0

/-- Whether a memory command is what an operation does. -/
def OpKind.isCmd : OpKind → Bool
  | .cmd _ => true
  | _ => false

/-- Whether an operation is a store. -/
def Op.stores (o : Op) : Bool :=
  match o.kind with
  | .store => true
  | _ => false

/-- Whether stores of a core, issued before a place in the issue order, are still to be performed. -/
def coreStoresBefore (s : State) (g stamp : Nat) : Bool :=
  s.coaches.any fun e => e.2.gcore == g && e.2.ops.any fun q => q.stamp < stamp && q.stores && q.pieces.any Piece.waits

/-- Issue an operation: it takes the next number of its coach and the next place in the issue order of the module. -/
def issueOp (s : State) (c : Coach) (o : Op) : State × Coach :=
  ({ s with nextId := s.nextId + 1 },
    { c with ops := c.ops ++ [{ o with id := c.nextOp, stamp := s.nextId, cart := c.cart }], nextOp := c.nextOp + 1, last := s.nextId + 1 })

/-! ## Pending errors (R256) -/

/-- The address that a failed access names: the sector of a data error in local memory, else the access's own (R405). -/
def Piece.errAddr (p : Piece) : W64 := if p.space = .mem then BitVec.ofNat 64 (p.va.toNat / 32 * 32) else p.va

/-- The mark of an error of an operation (R256). -/
def markOf (o : Op) (e : PendErr) : PendErr :=
  match o.counter with
  | .ld => { e with load := true }
  | .st => { e with store := true }
  | .cp => { e with copy := some (match e.copy with
      | some n => min n o.cart
      | none => o.cart) }
  | .tag t => { e with tags := e.tags ||| (1#8 <<< t) }
  | _ => e

/-- Attach an error of an operation to a lane: the record keeps the cause and address of the oldest failed operation (R256). -/
def attach (o : Op) (cause : Nat) (a : W64) (walk : WalkCode) (m : SMap PendErr) (l : Nat) : SMap PendErr :=
  match mget m l with
  | none => mset m l (markOf o { cause := cause, addr := a, walk := walk, stamp := o.stamp })
  | some e =>
    mset m l (markOf o (if o.stamp < e.stamp then { e with cause := cause, addr := a, walk := walk, stamp := o.stamp } else e))

/-- Attach the errors of an operation that leaves its counter or frees its tag (R256): lane 32 stands for all its lanes. -/
def attachAll (o : Op) (m : SMap PendErr) : SMap PendErr :=
  o.pieces.foldl (fun m p =>
    match p.err with
    | none => m
    | some e => (if p.lane = 32 then lanesOf o.lanes else [p.lane]).foldl (attach o e p.errAddr {}) m) m

/-- Whether an operation can leave: it is complete, and so is every earlier one of its counter (R253). -/
def leaves (ops : List Op) (o : Op) : Bool :=
  o.done && (match o.counter with
    | .tag _ => true
    | .none => true
    | k => (ops.takeWhile fun p => p.id != o.id).all fun p => p.counter != k || p.done)

/-- Let operations that are complete leave their counters, in issue order, with their errors attached (R253, R256). -/
def retireOps (c : Coach) : Coach :=
  let gone := c.ops.filter (leaves c.ops)
  let ops := c.ops.filter fun o => !leaves c.ops o
  let c := { c with ops := ops, pend := gone.foldl (fun m o => attachAll o m) c.pend }
  { c with hold := c.hold && unfenced c }

/-- Replace an operation, and let what is complete leave. -/
def updateOp (c : Coach) (id : Nat) (f : Op → Op) : Coach := retireOps (c.setOp id f)

/-! ## Covering instructions (R256, R279) -/

/-- Which marks an instruction covers. -/
structure Covers where
  load : Bool := false
  store : Bool := false
  copy : Option Nat := none
  tags : BitVec 8 := 0
  deriving DecidableEq, Repr

/-- Whether a record has a mark that is covered. -/
def Covers.covers (v : Covers) (e : PendErr) : Bool :=
  (v.load && e.load) || (v.store && e.store) || (v.tags &&& e.tags) != 0
    || (match v.copy, e.copy with
      | some n, some m => m ≤ n
      | _, _ => false)

/-- What an EXIT covers. -/
def coversAll : Covers := { load := true, store := true, copy := some (2 ^ 64), tags := 0xFF }

/-- A lane's trap for its pending error (R256, R407). -/
def PendErr.trap (e : PendErr) (l : Nat) : LaneTrap :=
  { lane := l, cause := e.cause, addr := e.addr, reason := e.walk.reason, stage := e.walk.stage, wlevel := e.walk.wlevel }

/-- The traps of the lanes of a carriage at a covering instruction (R256). -/
def coveredTraps (c : Coach) (k : Carriage) (v : Covers) : List LaneTrap :=
  (lanesOf k.lanes).filterMap fun l =>
    match mget c.pend l with
    | some e => if v.covers e then some (e.trap l) else none
    | none => none

/-- The end of a channel context's failed copy (R129): the count moves to its end, and the context goes on with its next copy. -/
def releaseCopy (s : State) (y : Copy) : State :=
  let s := s.setTrain y.train fun t =>
    let ch := (mget t.chans y.chan).getD {}
    { t with chans := mset t.chans y.chan { ch with count := y.base + y.total, queue := ch.queue.erase y.id } }
  { s with copies := s.copies.filter fun z => z.id != y.id }

/-- Lanes take traps that consume their pending errors, and the failed copies of those lanes are released (R129, R256). -/
def consume (s : State) (c : Coach) (ls : List Nat) : State × Coach :=
  let hit (l : Nat) : Bool := ls.contains l && ((mget c.pend l).bind PendErr.copy).isSome
  let freed := s.copies.filter fun y =>
    y.phase == 4 && (match y.issuer with
      | some (key, _) => key == c.key
      | none => false) && (lanesOf y.lanes).any hit
  (freed.foldl releaseCopy s, { c with pend := c.pend.filter fun e => !ls.contains e.1 })

end Sys2Proof.Machine
end

