-- ==== Sys2Proof/Machine/Access.lean ====
section
/-! DEFINITION. What every memory instruction shares (14 R318, R319): the checks of an access, in their order, the windows of the typed
buffers (04 R87), and how an instruction issues its accesses once all of them have passed or trapped. -/

namespace Sys2Proof.Machine

/-! ## Checks of one access -/

/-- What an access asks for: its kind in the checks and in a fault record, its size, and the regions beyond local memory that it may
reach. -/
structure Want where
  acc : Acc
  size : Nat
  kind : Nat := acc.code
  control : Bool := true
  windows : Bool := true
  deriving DecidableEq, Repr

/-- How the checks of an access end. -/
inductive Checked where
  | trap (t : LaneTrap)
  | miss (m : Miss)
  | ok (space : Space) (addr : Nat) (attr : Attr)
  deriving DecidableEq, Repr

/-- Check 4 of R318: where a physical address leads, or the cause. -/
def placeIn (s : State) (w : Want) (pa : Nat) : Except Nat (Space × Nat) :=
  match regionOf pa with
  | .dram =>
    (match resolve pa with
    | some h => .ok (.mem, h.wa)
    | none => .error 7)
  | .control => if !w.control then .error 7 else if w.size = 4 ∨ w.size = 8 then .ok (.control, pa % 2 ^ 26) else .error 6
  | .host => if w.windows then .ok (.host, pa % 2 ^ 50) else .error 7
  | .peer p => if w.windows && peerTrained s p then .ok (.peer, pa % 2 ^ 43) else .error 7
  | .reserved => .error 7

/-- The checks of R318 for one access: range, alignment, translation, region. -/
def checkAccess (s : State) (q : Asker) (w : Want) (l : Nat) (va : W64) : Checked :=
  let t (cause : Nat) : Checked := .trap { lane := l, cause := cause, addr := va, kind := w.kind }
  if va.toNat / 2 ^ 56 ≠ 0 then t 7
  else if va.toNat % w.size ≠ 0 then t 6
  else
    match translate s q w.acc va with
    | .miss m => .miss m
    | .fault f => .trap (f.trap l w.kind)
    | .pa pa attr =>
      match placeIn s w pa with
      | .error e => t e
      | .ok (sp, a) => .ok sp a attr

/-- The virtual address of a lane (R318). -/
def laneVa (x : Iss) (l : Nat) (a imm : BitVec 8) (size : Nat) : W64 := readPair x.c x.k l a.toNat + scaledOffset imm size

/-- The virtual address of a scalar access (R318). -/
def scalarVa (x : Iss) (a imm : BitVec 8) (size : Nat) : W64 := readS x.c x.k a.toNat + scaledOffset imm size

/-! ## Typed buffers (R86, R87) -/

/-- The windows of a train on one of its cores, by train-core index. -/
def windowsOf (t : Train) (tc : Nat) : Windows := (mget t.windows tc).getD {}

/-- The base and the size of a window: kind 1 A, 2 W, 3 C (R331). -/
def Windows.of (w : Windows) (kind : Nat) : Nat × Nat :=
  match kind with
  | 1 => (w.aBase, w.aSize)
  | 2 => (w.wBase, w.wSize)
  | _ => (w.cBase, w.cSize)

/-- The window of a kind for a coach on its own core: none for a yard coach (R212), none without a train. -/
def ownWindow (s : State) (c : Coach) (kind : Nat) : Nat × Nat :=
  match trainOf s c.train with
  | some t => if c.yard then (0, 0) else (windowsOf t c.tcore).of kind
  | none => (0, 0)

/-- The fault address of a typed-buffer access (R87). -/
def bufAddr (kind : Nat) (o : Int) : W64 := BitVec.ofNat 64 ((o % 2 ^ 24).toNat + 2 ^ 56 * kind)

/-- The checks of a coach's typed-buffer access (R87, R323): the bound, then the alignment. -/
def checkBuffer (s : State) (c : Coach) (kind size l : Nat) (o : Int) : Checked :=
  let (base, n) := ownWindow s c kind
  let t (cause : Nat) : Checked := .trap { lane := l, cause := cause, addr := bufAddr kind o, kind := 5 }
  if o < 0 ∨ (n : Int) < o + size then t 0x13
  else if o % size ≠ 0 then t 6
  else .ok (.buf kind c.gcore) (base + o.toNat) {}

/-- The window offset of a lane (R323). -/
def laneOffset (x : Iss) (l : Nat) (a imm : BitVec 8) (size : Nat) : Int := (readV x.c x.k l a.toNat).toNat + imm.toInt * size

/-! ## Issuing the accesses of an instruction -/

/-- The lanes of an instruction with the ends of their checks; a lane that pops or pushes a faulted element traps before any check. -/
def laneChecks (x : Iss) (i : Instr) (lanes : List Nat) (check : Nat → Checked) : List (Nat × Checked) :=
  lanes.map fun l => (l, match queueTrap x.c x.k i l with
    | some t => .trap t
    | none => check l)

def missesOf (es : List (Nat × Checked)) : List Miss :=
  es.filterMap fun e => match e.2 with
    | .miss m => some m
    | _ => none

def checkTraps (es : List (Nat × Checked)) : List LaneTrap :=
  es.filterMap fun e => match e.2 with
    | .trap t => some t
    | _ => none

/-- An access that has passed its checks: lane, place, address and attributes. -/
structure Passed where
  lane : Nat
  space : Space
  addr : Nat
  attr : Attr
  deriving DecidableEq, Repr

def passesOf (es : List (Nat × Checked)) : List Passed :=
  es.filterMap fun e => match e.2 with
    | .ok sp a at_ => some { lane := e.1, space := sp, addr := a, attr := at_ }
    | _ => none

/-- How an instruction issues what has passed: the state and coach after it, or none where it must wait unissued. -/
abbrev Issuing := State → Coach → List Passed → Option (State × Coach)

/-- Whether a fence or an acquire holds back a coach's memory instructions and its pops and pushes (R97, R140, R325). -/
def memoryHeld (c : Coach) : Bool := c.hold || !c.fences.isEmpty || c.ops.any fun o => o.acquire && !o.done

/-- A memory instruction of lanes (R318): while a check waits for a walk it stays unissued; then the accesses that passed are issued and
the other lanes trap. A fence holds the accesses, and not the walks, which no fence orders (R132, R155). -/
def accessLanes (s : State) (x : Iss) (i : Instr) (len : Nat) (lanes : List Nat) (check : Nat → Checked) (go : Issuing) : State :=
  let es := laneChecks x i lanes check
  let ts := checkTraps es
  let ps := passesOf es
  if !(missesOf es).isEmpty then stall ((missesOf es).foldl enqueueMiss s) x .translation
  else if reportWaits s x.c x.k ts then stall s x .report
  else if !ps.isEmpty && memoryHeld x.c then stall s x .resource
  else
    let s := forget s x.c.gcore (x.c.key, x.slot, x.k.pc)
    match (if ps.isEmpty then some (s, x.c) else go s x.c ps) with
    | none => stall s x .resource
    | some (s', c) => conclude s' x (advancePorts c (popsOf x.c x.k i) (ps.map Passed.lane)) len ts

/-- A memory instruction of the carriage as a whole (R318): one check; a trap is that of every lane. -/
def accessScalar (s : State) (x : Iss) (len : Nat) (check : Checked) (go : Issuing) : State :=
  match check with
  | .miss m => stall (enqueueMiss s m) x .translation
  | .trap t => trapAll (forget s x.c.gcore (x.c.key, x.slot, x.k.pc)) x len t
  | .ok sp a at_ =>
    if memoryHeld x.c then stall s x .resource else
    let s := forget s x.c.gcore (x.c.key, x.slot, x.k.pc)
    match go s x.c [{ lane := 32, space := sp, addr := a, attr := at_ }] with
    | none => stall s x .resource
    | some (s', c) => retire s' x c len

/-! ## Loads and stores -/

/-- Whether two pieces name a common byte. -/
def Piece.meets (p q : Piece) : Bool := p.space == q.space && p.addr < q.addr + q.size && q.addr < p.addr + p.size

/-- Whether an operation writes memory where its pieces lie. -/
def OpKind.writes : OpKind → Bool
  | .store => true | .atomic _ _ => true | .qwrite => true | _ => false

/-- Whether a store of a core to the sector of an access has still to show in the L1 that holds the sector (R147). -/
def lateBefore (s : State) (g : Nat) (p : Piece) : Bool :=
  (openStores s g).any fun q => q.2.late && p.space == .mem && q.2.addr / 32 == p.addr / 32

/-- A load that its core's L1 holds at issue is served then (R95), unless an earlier access of its coach there is still to be performed (R136):
a load, an atomic, a store that the L1 has not shown, or one to a replicated page, behind which the core holds the load (R148); or unless a
store of the core to the sector has still to show in the L1 (R147). -/
def serveL1 (s : State) (c : Coach) (p : Piece) : Piece :=
  let behind := c.ops.any fun o => !o.outrider && (match o.kind with
    | .atomic _ _ => o.pieces.any fun q => q.phase = 0 && q.meets p
    | .load => o.pieces.any fun q => q.phase = 0 && q.meets p
    | .store => o.pieces.any fun q => q.phase = 0 && q.meets p && (q.attr.repl || !q.shown)
    | _ => false)
  if p.space = .mem && p.attr.l1 && l1Holds s c.gcore p.addr p.size && !behind && !lateBefore s c.gcore p then
    { p with phase := 1, result := leNat (l1Bytes s c.gcore p.addr p.size) }
  else p

/-- The common part of an operation that a carriage issues. -/
def opOfIss (x : Iss) (counter : Counter) (kind : OpKind) (ps : List Piece) : Op :=
  { id := 0, counter := counter, kind := kind, pieces := ps, level := x.k.level, fslot := x.k.fslot, mode := modeOf x.c x.k
    lanes := if ps.any (·.lane == 32) then x.k.lanes else maskOf (ps.map Piece.lane) }

/-- Issue a load. -/
def goLoad (x : Iss) (piece : Passed → Piece) (adjust : Op → Op := id) : Issuing := fun s c ps =>
  let o := adjust (opOfIss x .ld .load [])
  let mk (p : Passed) : Piece := if o.acquire then piece p else serveL1 s c (piece p)
  some (issueOp s c { adjust (opOfIss x .ld .load (ps.map mk)) with acquire := o.acquire })

/-- The pieces of a store: one, or one for each copy of a replicated location (R47, R148). -/
def copiesOf (p : Piece) : List Piece :=
  if p.space = .mem && p.attr.repl then dies.map fun d => { p with addr := d * 2 ^ 36 + p.addr % 2 ^ 36 } else [p]

/-- Whether an earlier operation of a coach keeps a release waiting (R140, R142): one that R149 to R152 do not leave to a WAITG or WAIT. -/
def Op.beforeRelease (q : Op) : Bool :=
  !q.outrider && !q.done && (match q.kind with
    | .load => true
    | .store => q.pieces.any Piece.waits
    | .atomic _ _ => q.pieces.any Piece.waits
    | .cflush => q.pieces.any Piece.waits
    | .cinv => q.pieces.any Piece.waits
    | .tlbinv _ _ _ _ => true
    | _ => false)

/-- Whether a release must wait (R97, R140, R142): for every earlier operation of its coach; and where its scope holds another core, for
every earlier store of its core's coaches, which its coach may have read in the L1. -/
def releaseWaits (s : State) (c : Coach) (o : Op) : Bool :=
  c.ops.any (fun q => q.stamp < o.stamp && q.beforeRelease) || (scopeWide c o.scope && coreStoresBefore s c.gcore o.stamp)

/-- Whether an access of an operation that is still to be performed keeps a later store of its coach to a common byte from showing in the L1
(R136). A store does not: its bytes lie there already, or go there with it. -/
def Op.holdsL1 (o : Op) : Bool :=
  match o.kind with
  | .load => true | .atomic _ _ => true | _ => false

/-- Whether a store that its core's L1 could show at once (R147) shows only when it is performed: an earlier access of its coach to a common byte
is still to be performed (R136), it is a release that must wait (R142), or an earlier store of its core to the sector is late itself. A load that
issues behind it waits for it. -/
def storeLate (s : State) (c : Coach) (o : Op) (p : Piece) : Bool :=
  (o.release && releaseWaits s c { o with stamp := s.nextId }) || lateBefore s c.gcore p
    || c.ops.any fun o => o.holdsL1 && o.pieces.any fun q => q.phase == 0 && q.meets p

/-- How the L1 of its core takes a store at issue (R96, R107): it shows the store where it holds the sector, and performs it where it owns the
line; unless the store must wait. -/
def storeView (s : State) (c : Coach) (o : Op) (p : Piece) : Piece :=
  if p.space != .mem || !l1Holds s c.gcore p.addr p.size then p
  else if storeLate s c o p then { p with late := true }
  else { p with shown := true, phase := if l1Owns s c.gcore (lineOf p.addr) then 1 else 0 }

/-- The L1 of the issuing core takes a store that it shows; in a line that it owns the store is performed there, and clears the scan of its
page (R58, R107). -/
def storeL1 (s : State) (g : Nat) (p : Piece) : State :=
  if !p.shown then s else
  let s := if l1Owns s g (lineOf p.addr) then dropCode (clearScan s p.addr) g (lineOf p.addr) else s
  l1Update s g p.addr (leBytes p.size p.data)

/-- Issue a store: a lane's bytes stand behind those of lower lanes (R319). -/
def goStore (x : Iss) (piece : Passed → Piece) (adjust : Op → Op := id) : Issuing := fun s c ps =>
  let ps := (ps.map piece).flatMap copiesOf
  let o := adjust (opOfIss x .st .store ps)
  let o := { o with pieces := ps.map (storeView s c o) }
  some (issueOp (o.pieces.foldl (fun s p => storeL1 s c.gcore p) s) c o)

end Sys2Proof.Machine
end

