-- ==== Sys2Proof/Machine/CopyInstr.lean ====
section
/-! DEFINITION. Copy, cart, stream and cache instructions, opcodes 0xB5 to 0xBB (14 R331 to R335): what they check and issue (05 R112 to
R118, R124, 07 R166 to R168, 04 R103). -/

namespace Sys2Proof.Machine

/-! ## Forms and ranges (R113 to R115) -/

/-- The rows of one end of a copy: start and length of each, with the start as an offset from the base. -/
def rowsOf (len rows : Nat) (stride : Int) : List (Int × Nat) := (List.range rows).map fun j => ((j : Int) * stride, len)

/-- The offset of a position in rows of `len` bytes. -/
def rowOffset (len : Nat) (stride : Int) (pos : Nat) : Int := ((pos / max 1 len : Nat) : Int) * stride + (pos % max 1 len : Nat)

/-- Whether a range of a buffer lies in what a train's copy channel may reach there (R87 to R89): the window, and for a source in the
W-buffer the macro image, while the train holds the matrix unit. -/
def bufReach (w : Windows) (holds dst : Bool) (kind n : Nat) (o : Int) : Bool :=
  let size := (w.of kind).2
  let image := kind == 2 && !dst && holds
  0 ≤ o && (o + n ≤ size || (image && o + n ≤ 0x80000 && (0x60000 ≤ o || size == 0x60000)))

/-- The first row of a buffer range that fails its check (R87). -/
def badRow (w : Windows) (holds dst : Bool) (kind : Nat) (off : W64) (rows : List (Int × Nat)) : Option Int :=
  (rows.find? fun r => r.2 != 0 && !bufReach w holds dst kind r.2 (off.toNat + r.1)).map fun r => off.toNat + r.1

/-- Whether a train holds the matrix unit of one of its cores. -/
def holdsUnit (s : State) (t : Train) (tc : Nat) : Bool := (coreOf s t.ch (t.cores.getD tc 0)).holder == some t.id

/-- The check of a typed-buffer end of a copy (step 2 of R116): the fault address, if it fails. -/
def checkEnd (s : State) (t : Train) (dst : Bool) (kind tc : Nat) (off : W64) (rows : List (Int × Nat)) : Option W64 :=
  if t.cores.length ≤ tc then some (bufAddr kind off.toNat)
  else (badRow (windowsOf t tc) (holdsUnit s t tc) dst kind off rows).map (bufAddr kind)

/-! ## Pages of a global range (step 3 of R116) -/

/-- A translated page: virtual page, where its first byte lies, and the attributes. -/
abbrev PageMap := List (Nat × Space × Nat × Attr)

/-- The pages of a range with the lowest address in each, ascending. -/
def pagesOf (base : W64) (rows : List (Int × Nat)) : SMap Nat :=
  let add (m : SMap Nat) (a : Nat) : SMap Nat :=
    match mget m (a / 4096) with
    | some b => if a < b then mset m (a / 4096) a else m
    | none => mset m (a / 4096) a
  rows.foldl (fun m r =>
    if r.2 = 0 then m else
    let lo := (base + BitVec.ofInt 64 r.1).toNat
    let hi := lo + r.2 - 1
    (List.range (hi / 4096 - lo / 4096)).foldl (fun m i => add m ((lo / 4096 + 1 + i) * 4096)) (add m lo)) []

/-- Pages that an instruction keeps translated while it waits (R116): whether for writing, virtual page, physical address, attributes. -/
abbrev Kept := List (Bool × Nat × Nat × Attr)

/-- How the translation of a range ends, with the pages that are translated. -/
inductive Paged where
  | trap (t : LaneTrap)
  | miss (ms : List Miss) (kept : Kept)
  | ok (ps : PageMap) (kept : Kept)
  deriving DecidableEq, Repr

/-- The translation of one page: as the instruction has kept it (R116), else by the TLBs. -/
def pageXlat (s : State) (q : Asker) (kept : Kept) (acc : Acc) (a : Nat) : Xlat :=
  match kept.find? fun p => p.1 == acc.writes && p.2.1 == a / 4096 with
  | some p => .pa p.2.2.1 p.2.2.2
  | none => translate s q acc (BitVec.ofNat 64 a)

/-- Translate pages in ascending order: the first that fails decides. -/
def paged (s : State) (q : Asker) (kept : Kept) (acc : Acc) : List Nat → Paged
  | [] => .ok [] []
  | a :: as =>
    match pageXlat s q kept acc a with
    | .fault f => .trap (f.trap 0 acc.code)
    | .miss m =>
      (match paged s q kept acc as with
      | .miss ms ks => .miss (m :: ms) ks
      | .ok _ ks => .miss [m] ks
      | .trap _ => .miss [m] [])
    | .pa pa at_ =>
      let base := pa - pa % 4096
      match paged s q kept acc as with
      | .ok ps ks => .ok ((a / 4096, .mem, base, at_) :: ps) ((acc.writes, a / 4096, base, at_) :: ks)
      | .miss ms ks => .miss ms ((acc.writes, a / 4096, base, at_) :: ks)
      | .trap t => .trap t

/-- An instruction waits for walks, and keeps the pages that are translated (R116). -/
def stallPaged (s : State) (x : Iss) (ms : List Miss) (kept : Kept) : State :=
  let s := ms.foldl enqueueMiss s
  s.setCoach x.c.key { x.c with slots := mset x.c.slots x.slot { x.k with wait := some .translation, pages := kept } }

/-- Place translated pages in their regions; the first that a rule refuses gives cause 0x07 (R116). `control` says whether the control
window is passed over instead. -/
def placePages (s : State) (acc : Acc) (low : SMap Nat) : PageMap → Except LaneTrap PageMap
  | [] => .ok []
  | (v, _, pa, at_) :: ps =>
    match placeIn s { acc := acc, size := 1, control := false } pa, placePages s acc low ps with
    | .error e, _ =>
      .error { lane := 0, cause := e, addr := BitVec.ofNat 64 ((mget low v).getD (v * 4096)), kind := acc.code }
    | .ok _, .error t => .error t
    | .ok (sp, a), .ok qs => .ok ((v, sp, a, at_) :: qs)

/-- The checks of R318 for a global range: every address in range, every page translated, every region permitted. -/
def checkRange (s : State) (q : Asker) (kept : Kept) (acc : Acc) (base : W64) (rows : List (Int × Nat)) : Paged :=
  let low := pagesOf base rows
  match (mvals low).find? fun a => a / 2 ^ 56 != 0 with
  | some a => .trap { lane := 0, cause := 7, addr := BitVec.ofNat 64 a, kind := acc.code }
  | none =>
    match paged s q kept acc (mvals low) with
    | .ok ps ks =>
      (match placePages s acc low ps with
      | .ok qs => .ok qs ks
      | .error t => .trap t)
    | r => r

/-! ## COPY (R331, R332) -/

/-- The fields of a COPY's literal. -/
structure CopyLit where
  form : Nat
  chan : Nat
  dk : Nat
  sk : Nat
  dtc : Nat
  stc : Nat
  e : Nat
  stream : Bool
  tag : Nat
  west : Bool
  deriving DecidableEq, Repr

def copyLit (lit : W32) : CopyLit :=
  let w := lit.toNat
  { form := bitsOf w 1 0, chan := bitsOf w 3 2, dk := bitsOf w 5 4, sk := bitsOf w 7 6, dtc := bitsOf w 9 8, stc := bitsOf w 11 10
    e := bitsOf w 14 12, stream := bitOf w 20, tag := bitsOf w 28 21, west := bitOf w 29 }

/-- The open stream context of a train that a tag and a direction name. -/
def streamOf (s : State) (train tag : Nat) (west : Bool) : Option Stream :=
  s.streams.find? fun z => z.train == train && z.tag == tag && z.west == west && !z.closing

/-- Whether the literal of a COPY, or its d or a field, holds what R331 reserves. -/
def copyReserved (s : State) (c : Coach) (d a : BitVec 8) (lit : W32) : Bool :=
  let f := copyLit lit
  let w := lit.toNat
  f.form == 3 || f.e == 7 || bitsOf w 31 30 != 0 || (f.form != 2 && f.e != 0) || (f.form == 2 && f.sk != 0)
    || (if f.stream then
        -- channel, tag, direction, the stream bit and the 1D form alone
        bitsOf w 1 0 != 0 || bitsOf w 19 4 != 0 || d != 0 || a != 0 || (streamOf s c.train f.tag f.west).isNone
      else bitsOf w 29 21 != 0 || (f.dk == 0 && f.dtc != 0) || (f.sk == 0 && f.stc != 0))

/-- What a COPY does, from its operands: form, row length, total length, and the rows of the source and of the destination. -/
structure CopyPlan where
  form : Form
  len : Nat
  total : Nat
  src : List (Int × Nat)
  dst : List (Int × Nat)
  deriving DecidableEq, Repr

/-- The plan of a COPY (R113, R331), if its operands keep the limits of R114. `x` is the absolute place of a gather's index list. -/
def copyPlan (f : CopyLit) (p : Nat → W64) : Option CopyPlan :=
  let p0 := (p 0).toNat
  let p1 := (p 1).toNat
  match f.form with
  | 0 => if p0 ≤ 2 ^ 24 then some { form := .one, len := p0, total := p0, src := [(0, p0)], dst := [(0, p0)] } else none
  | 1 =>
    let ss := (p 2).toInt
    let ds := (p 3).toNat
    if 1 ≤ p0 ∧ p0 ≤ 65536 ∧ 1 ≤ p1 ∧ p1 ≤ 65536 ∧ p0 ≤ ds ∧ ds ≤ 2 ^ 32 ∧ p0 * p1 ≤ 2 ^ 24 then
      some { form := .two p1 ss ds, len := p0, total := p0 * p1, src := rowsOf p0 p1 ss, dst := rowsOf p0 p1 ds }
    else none
  | _ =>
    let e := 4 * 2 ^ f.e
    if 1 ≤ p0 ∧ p0 ≤ 65536 ∧ p0 * e ≤ 2 ^ 24 then
      some { form := .gather e p1, len := p0 * e, total := p0 * e, src := [(0, 1)], dst := [(0, p0 * e)] }
    else none

/-- An issued copy: it is outstanding for its coach, and comes to its channel context. -/
def issueCopy (s : State) (x : Iss) (y : Copy) : State :=
  let s' := { s with nextId := s.nextId + 1 }
  let o := opOfIss x .cp (.copy s.nextId) []
  let (s', c) := issueOp s' x.c { o with lanes := x.k.lanes }
  let y := { y with
    id := s.nextId, train := x.c.train, issuer := some (x.c.key, x.c.nextOp), ctx := ctxOf x.c x.k.level, level := x.k.level
    ch := x.c.ch, lanes := x.k.lanes, cart := x.c.cart }
  let s' := { s' with copies := s'.copies ++ [y] }
  retire (forget s' x.c.gcore (x.c.key, x.slot, x.k.pc)) { x with c := c } c 8

/-- The end of a copy that is a register's address or offset. -/
def endpoint (kind tc : Nat) (v : W64) : Endpoint := if kind = 0 then .glob v else .buf kind tc v

/-- The core whose channel executes a copy (R112): that of a buffer destination, else the issuing one. -/
def copyTc (c : Coach) (f : CopyLit) : Nat := if f.dk = 0 then c.tcore else f.dtc

/-- Step 3 of R116 for one end: a trap, misses, or the pages of a global end. -/
def checkCopyEnd (s : State) (x : Iss) (dst : Bool) (kind : Nat) (v : W64) (rows : List (Int × Nat)) (align : Nat) : Paged :=
  let acc : Acc := if dst then .write else .read
  if kind ≠ 0 then .ok [] []
  else if rows.any (·.2 != 0) && v.toNat / 2 ^ 56 == 0 && v.toNat % align != 0 then
    .trap { lane := 0, cause := 6, addr := v, kind := acc.code }
  else checkRange s (askerOf x.c x.slot x.k) x.k.pages acc v rows

/-- Step 2 of R116: the fault address of the first typed-buffer range that fails, in the order of the literal's kinds. -/
def copyBounds (s : State) (t : Train) (f : CopyLit) (dtc : Nat) (plan : CopyPlan) (dv sv : W64) : Option W64 :=
  let dst := if f.dk = 0 then none else checkEnd s t true f.dk f.dtc dv plan.dst
  let src := if f.sk = 0 then none else checkEnd s t false f.sk f.stc sv plan.src
  let idx := match plan.form with
    | .gather e x => checkEnd s t false 1 dtc (BitVec.ofNat 64 x) [(0, 4 * (plan.total / e))]
    | _ => none
  dst.orElse fun _ => src.orElse fun _ => idx

/-- A COPY with neither stream nor reserved field (R116). -/
def copyPlain (s : State) (x : Iss) (t : Train) (f : CopyLit) (plan : CopyPlan) (dv sv : W64) : State :=
  let dtc := copyTc x.c f
  match copyBounds s t f dtc plan dv sv with
  | some a => trapAll s x 8 { lane := 0, cause := 0x13, addr := a, kind := 5 }
  | none =>
    let align := match plan.form with
      | .gather e _ => e
      | _ => 1
    match checkCopyEnd s x false f.sk sv plan.src align with
    | .trap tr => trapAll s x 8 tr
    | .miss ms ks => stallPaged s x ms ks
    | .ok sp ks =>
      match checkCopyEnd s x true f.dk dv plan.dst 1 with
      | .trap tr => trapAll s x 8 tr
      | .miss ms ks' => stallPaged s x ms (ks ++ ks')
      | .ok dp _ =>
        issueCopy s x
          { id := 0, train := t.id, chan := 4 * dtc + f.chan, ctx := ctxOf x.c x.k.level, ch := x.c.ch, core := t.cores.getD dtc x.c.core
            form := plan.form, len := plan.len, total := plan.total, src := endpoint f.sk f.stc sv, dst := endpoint f.dk f.dtc dv
            spages := sp, dpages := dp }

/-- The rows of a stream context's source that positions from `pos` on take (R332): a part of a row, then rows. -/
def streamRows (len : Nat) (stride : Int) (pos n : Nat) : List (Int × Nat) :=
  let len := max 1 len
  let first := min n (len - pos % len)
  let rest := n - first
  (rowOffset len stride pos, first) ::
    (List.range ((rest + len - 1) / len)).map fun j =>
      (((pos / len + 1 + j : Nat) : Int) * stride, min len (rest - j * len))

/-- A COPY into a stream context (R332). -/
def copyStream (s : State) (x : Iss) (t : Train) (f : CopyLit) (z : Stream) (n : Nat) : State :=
  let rows := if n = 0 then [] else streamRows z.srcLen z.srcStride.toInt z.claimed n
  let bound := if z.srcKind = 0 then none else checkEnd s t false z.srcKind z.srcCore z.srcBase rows
  match bound with
  | some a => trapAll s x 8 { lane := 0, cause := 0x13, addr := a, kind := 5 }
  | none =>
    match checkCopyEnd s x false z.srcKind z.srcBase rows 1 with
    | .trap tr => trapAll s x 8 tr
    | .miss ms ks => stallPaged s x ms ks
    | .ok sp _ =>
      let s := { s with streams := updFirst (fun w => w.id == z.id) (fun w => { w with claimed := w.claimed + n }) s.streams }
      issueCopy s x
        { id := 0, train := t.id, chan := 4 * x.c.tcore + f.chan, ctx := ctxOf x.c x.k.level, ch := x.c.ch, core := x.c.core
          form := .two z.srcRows z.srcStride.toInt 0, len := z.srcLen, total := n, src := endpoint z.srcKind z.srcCore z.srcBase
          dst := .stream z.id, skip := z.claimed, spages := sp }

/-- COPY of a carriage (R116, R331, R332). -/
def copyStep (s : State) (x : Iss) (d a b : BitVec 8) (lit : W32) : State :=
  let f := copyLit lit
  let p (i : Nat) : W64 := readS x.c x.k (b.toNat + i)
  if copyReserved s x.c d a lit then literalTrap s x x.k.lanes
  else
    match copyPlan f p, trainOf s x.c.train with
    | none, _ => trapAll s x 8 { lane := 0, cause := 7, addr := x.k.pc }
    | _, none => trapAll s x 8 { lane := 0, cause := 0x13, addr := x.k.pc, kind := 5 }
    | some plan, some t =>
      match (if f.stream then streamOf s t.id f.tag f.west else none) with
      | some z => copyStream s x t f z plan.total
      | none => copyPlain s x t f plan (readS x.c x.k d.toNat) (readS x.c x.k a.toNat)

/-- COPY (R331). -/
def execCopy (d a b : BitVec 8) (lit : W32) (s : State) : Host.Outcome State Fault Refusal := byCarriage s fun x => copyStep s x d a b lit

/-! ## SEAL and RDWP (R333) -/

/-- SEAL (R124): the cart number, and the next cart opens. -/
def execSealCart (d : BitVec 8) (s : State) : Host.Outcome State Fault Refusal :=
  byCarriage s fun x => retire s x { writeS x.c x.k d.toNat (BitVec.ofNat 64 x.c.cart) with cart := x.c.cart + 1 } 4

/-- The write pointer of a channel context of a coach's train on its core (R119); 0 for a yard coach (R333). -/
def writePointer (s : State) (c : Coach) (k : Nat) : W64 :=
  match trainOf s c.train with
  | some t =>
    if c.yard then 0 else
    let ch := (mget t.chans (4 * c.tcore + k)).getD {}
    BitVec.ofNat 64 (ch.count % 2 ^ 63 + if ch.err then 2 ^ 63 else 0)
  | none => 0

/-- RDWP (R121, R333). -/
def execRdwp (d : BitVec 8) (k : BitVec 2) (s : State) : Host.Outcome State Fault Refusal :=
  byCarriage s fun x => retire s x (writeS x.c x.k d.toNat (writePointer s x.c k.toNat)) 4

/-! ## STRM (R334, R168) -/

/-- Whether a STRM holds a reserved value: an open's window or row length, a close's register fields (R334). -/
def strmReserved (x : Iss) (a b : BitVec 8) (lit : W32) : Bool :=
  let w := lit.toNat
  if bitOf w 0 then bitsOf w 31 10 != 0 || a != 0 || b != 0
  else bitsOf w 31 22 != 0 || bitsOf w 21 13 < 4 || 256 < bitsOf w 21 13
    || 65536 < (readS x.c x.k (a.toNat + 1)).toNat || 65536 < (readS x.c x.k (b.toNat + 1)).toNat

/-- The lowest free tag that STRM can give at a stop in a direction (R166). DESIGN CHOICE, unsafe: the spec does not say which of the free tags
STRM gives; the model gives the lowest. -/
def freeTag (s : State) (ch : Nat) (west : Bool) : Option Nat :=
  (List.range 192).find? fun t => !(s.streams.any fun z => z.src == ch && z.west == west && z.tag == t)

/-- Whether a receiving stop has a window of `w` bytes in a direction, and a table entry (R165, R166). -/
def hasWindow (s : State) (dst : Nat) (west : Bool) (w : Nat) : Bool :=
  let here := s.streams.filter fun z => z.dst == dst
  here.length < 896 && (here.filter fun z => z.west == west).foldl (fun n z => n + z.window) 0 + w ≤ 768 * 1024

/-- What STRM writes for an open context (R334). -/
def strmStatus (status tag : Nat) (west : Bool) : W64 := BitVec.ofNat 64 (status + 256 * tag + if west then 2 ^ 16 else 0)

/-- STRM open (R334): status 2 for the own chassis, 1 without a tag, 2 without a window, else a new context. The set-up crosses the ring, so it
waits while a hop of its way retrains (R176). DESIGN CHOICE, unsafe: the spec states no status for a receiver that a divided ring cuts off;
the set-up then goes by the counts of tags and windows alone and answers 0, and the copies that name the context fail (R178). -/
def strmOpen (s : State) (x : Iss) (d a b : BitVec 8) (lit : W32) : State :=
  let w := lit.toNat
  let dst := bitsOf w 4 1
  let west := !goesEast s x.c.ch dst
  let r (n i : Nat) : W64 := readS x.c x.k (n + i)
  let give (s : State) (v : W64) : State := retire s x (writeS x.c x.k d.toNat v) 8
  if dst = x.c.ch then give s (strmStatus 2 0 west)
  else if reachable s x.c.ch dst && !pathOpen s x.c.ch dst then stall s x .resource
  else
    match freeTag s x.c.ch west with
    | none => give s (strmStatus 1 0 west)
    | some t =>
      if !hasWindow s dst west (256 * bitsOf w 21 13) then give s (strmStatus 2 0 west)
      else
        let z : Stream :=
          { id := s.nextId, train := x.c.train, src := x.c.ch, dst := dst, west := west, tag := t, vmid := x.c.vmid.toNat
            pasid := x.c.pasid.toNat, window := 256 * bitsOf w 21 13, srcKind := bitsOf w 10 9, srcCore := bitsOf w 12 11
            srcBase := r a.toNat 0, srcLen := (r a.toNat 1).toNat, srcRows := (r a.toNat 2).toNat, srcStride := r a.toNat 3
            dstKind := bitsOf w 6 5, dstCore := bitsOf w 8 7, dstBase := r b.toNat 0, dstLen := (r b.toNat 1).toNat
            dstRows := (r b.toNat 2).toNat, dstStride := r b.toNat 3 }
        give { s with nextId := s.nextId + 1, streams := s.streams ++ [z] } (strmStatus 0 t west)

/-- STRM close (R334, R170): the context is freed once its pieces are credited. -/
def strmClose (s : State) (x : Iss) (d : BitVec 8) (lit : W32) : State :=
  match streamOf s x.c.train (bitsOf lit.toNat 8 1) (bitOf lit.toNat 9) with
  | none => retire s x (writeS x.c x.k d.toNat 3) 8
  | some z =>
    let s := { s with streams := updFirst (fun w => w.id == z.id) (fun w => { w with closing := true }) s.streams }
    retire s x (writeS x.c x.k d.toNat 0) 8

/-- STRM (R334). -/
def execStrm (d a b : BitVec 8) (lit : W32) (s : State) : Host.Outcome State Fault Refusal :=
  byCarriage s fun x =>
    if strmReserved x a b lit then literalTrap s x x.k.lanes
    else if bitOf lit.toNat 0 then strmClose s x d lit
    else strmOpen s x d a b lit

/-! ## Cache maintenance (R335, R103) -/

/-- The 128-byte lines of a range of local memory, by the page map of the range. Lines of other regions are passed over. -/
def linesOf (a n : Nat) (ps : PageMap) : List (Nat × Nat) :=
  (List.range ((a + n - 1) / 128 - a / 128 + 1)).filterMap fun i =>
    let v := (a / 128 + i) * 128
    match ps.find? fun p => p.1 == v / 4096 with
    | some (_, .mem, base, _) => some (v, base + v % 4096)
    | _ => none

/-- The pages of a maintenance range, translated with read kind; those outside local memory are passed over. DESIGN CHOICE, unsafe: R335 names
host and peer lines as passed over, and neither it nor R27 speaks of a page of the control window; the model passes over its lines too and
takes no trap. -/
def maintPages (ps : PageMap) : PageMap :=
  ps.map fun p => match regionOf p.2.2.1, resolve p.2.2.1 with
    | .dram, some h => (p.1, .mem, h.wa, p.2.2.2)
    | _, _ => (p.1, .host, p.2.2.1, p.2.2.2)

/-- The first page of a reserved region in a maintenance range (R21). -/
def maintBad (ps : PageMap) : Option Nat := (ps.find? fun p => regionOf p.2.2.1 == .reserved).map fun p => p.1

/-- CFLUSH and CINV (R335): every page of the range is translated, then an operation with a piece for each line is outstanding. -/
def maintain (s : State) (a b : BitVec 8) (kind : OpKind) : Host.Outcome State Fault Refusal :=
  byCarriage s fun x =>
    let va := readS x.c x.k a.toNat
    let n := (readS x.c x.k b.toNat).toNat
    let low := pagesOf va [(0, n)]
    if 2 ^ 24 < n then trapAll s x 4 { lane := 0, cause := 7, addr := va, kind := 1 }
    else if n = 0 then retire s x x.c 4
    else
      match (mvals low).find? fun a => a / 2 ^ 56 != 0 with
      | some a => trapAll s x 4 { lane := 0, cause := 7, addr := BitVec.ofNat 64 a, kind := 1 }
      | none =>
        match paged s (askerOf x.c x.slot x.k) x.k.pages .read (mvals low) with
        | .trap t => trapAll s x 4 t
        | .miss ms ks => stallPaged s x ms ks
        | .ok ps _ =>
          match maintBad ps with
          | some v => trapAll s x 4 { lane := 0, cause := 7, addr := BitVec.ofNat 64 ((mget low v).getD 0), kind := 1 }
          | none =>
            let piece (l : Nat × Nat) : Piece := { lane := 32, addr := l.2, va := BitVec.ofNat 64 l.1, size := 128 }
            let lines := (linesOf va.toNat n (maintPages ps)).map piece
            let s := forget s x.c.gcore (x.c.key, x.slot, x.k.pc)
            if lines.isEmpty then retire s x x.c 4
            else
              let (s, c) := issueOp s x.c (opOfIss x .st kind lines)
              retire s x c 4

/-- CFLUSH (R335). -/
def execCflush (a b : BitVec 8) (s : State) : Host.Outcome State Fault Refusal := maintain s a b .cflush

/-- CINV (R335). -/
def execCinv (a b : BitVec 8) (s : State) : Host.Outcome State Fault Refusal := maintain s a b .cinv

/-- The priority of a line after a hint (R103). -/
def hinted (prio hint : Nat) : Nat := if hint = 3 then 1 else if prio = 2 then 2 else hint

/-- Change the priority of a present line (R103). -/
def hintLine (s : State) (ln hint : Nat) : State :=
  match cacheLine s ln with
  | some l => setLine s ln { l with prio := hinted l.prio hint }
  | none => s

/-- CHINT (R335): an address that does not translate into local memory makes it do nothing. -/
def execChint (a : BitVec 8) (h : BitVec 2) (s : State) : Host.Outcome State Fault Refusal :=
  byCarriage s fun x =>
    match translate s (askerOf x.c x.slot x.k) .read (readS x.c x.k a.toNat) with
    | .miss m => stall (enqueueMiss s m) x .translation
    | .fault _ => retire (forget s x.c.gcore (x.c.key, x.slot, x.k.pc)) x x.c 4
    | .pa pa _ =>
      match resolve pa with
      | some w => retire (hintLine (forget s x.c.gcore (x.c.key, x.slot, x.k.pc)) (lineOf w.wa) h.toNat) x x.c 4
      | none => retire s x x.c 4

end Sys2Proof.Machine
end

