-- ==== Sys2Proof/Machine/Matrix.lean ====
section
/-! DEFINITION. The matrix unit of a core (15 R336 to R358): format blocks, the resident B, what BLD, BGAT, TZERO, TMUL and TDRAIN do when
they run, the conversion of a reduction's inputs and results (07 R171, R173), work clocks and power tokens. -/

namespace Sys2Proof.Machine

/-! ## Format blocks (R340, R341) -/

/-- The fields of a format block: type codes, block lengths, scale arrays, weight exponent, roundings and saturation. -/
structure Fmt where
  at_ : Nat
  bt : Nat
  ct : Nat
  tt : Nat
  ab : Nat
  bb : Nat
  cb : Nat
  tb : Nat
  aScale : Nat
  bScale : Nat
  cScale : Int
  tScale : Int
  eacc : Int
  cRnd : Nat
  tRnd : Nat
  sat : Nat
  deriving DecidableEq, Repr

/-- `n` bytes of a block from byte `i` on, as a number. -/
def fmtField (f : FmtBlock) (i n : Nat) : Nat := leNat ((List.range n).map fun j => f.getD (i + j) 0)

/-- The fields of a block (R340); the length codes as they stand. -/
def fmtOf (f : FmtBlock) : Fmt :=
  { at_ := fmtField f 0 1, bt := fmtField f 1 1, ct := fmtField f 2 1, tt := fmtField f 3 1
    ab := fmtField f 4 1, bb := fmtField f 5 1, cb := fmtField f 6 1, tb := fmtField f 7 1
    aScale := fmtField f 8 4, bScale := fmtField f 12 4
    cScale := signExt (fmtField f 16 4) 32, tScale := signExt (fmtField f 20 4) 32, eacc := signExt (fmtField f 24 2) 16
    cRnd := fmtField f 26 1, tRnd := fmtField f 27 1, sat := fmtField f 28 1 }

/-- Whether a type code names a block-scaled type. -/
def blockType (t : Nat) : Bool := t == 10 || t == 11

/-- The pairs of A and B types (R341). -/
def pairs : List (Nat × Nat) := [(0, 0), (0, 4), (3, 0), (10, 10), (11, 10), (11, 11)]

/-- The types that a drain can write (R341). -/
def outTypes : List Nat := [0, 1, 2, 5, 6, 7, 8, 9, 10, 11, 12]

/-- Whether a block is valid (R341). -/
def fmtValid (b : FmtBlock) : Bool :=
  let f := fmtOf b
  let len (t c top : Nat) : Bool := if blockType t then c ≤ top else c == 0
  pairs.contains (f.at_, f.bt) && outTypes.contains f.ct && (outTypes.contains f.tt || f.tt == 15)
    && len f.at_ f.ab 4 && len f.bt f.bb 4 && len f.ct f.cb 4 && len f.tt f.tb 2
    && (blockType f.at_ || f.aScale == 0) && (blockType f.bt || f.bScale == 0)
    && (blockType f.ct || f.cScale == 0) && (blockType f.tt || f.tScale == 0)
    && f.aScale < 2 ^ 21 && f.bScale < 2 ^ 19
    && -256 ≤ f.eacc && f.eacc ≤ 255 && f.cRnd ≤ 4 && f.tRnd ≤ 4 && f.sat < 4
    && fmtField b 29 35 == 0

/-- A block length from its code: 256 for a type without blocks (R340, R350). -/
def blockLen (t c : Nat) : Nat := if blockType t then 16 * 2 ^ c else 256

/-- The bits of an element of a type code (R340). -/
def codeWidth : Nat → Nat
  | 0 => 8 | 1 => 16 | 2 => 32 | 3 => 4 | 4 => 2 | 5 => 32 | 6 => 16 | 7 => 16 | 8 => 8 | 9 => 8 | 10 => 8 | 11 => 16 | 12 => 64 | _ => 0

/-- Planes of A, row bytes R and columns N of a pair (R341). -/
def Fmt.planes (f : Fmt) : Nat := codeWidth f.at_
def Fmt.rowBytes (f : Fmt) : Nat := 64 * codeWidth f.at_
def Fmt.columns (f : Fmt) : Nat := if f.bt = 4 then 1024 else if f.bt = 11 then 128 else 256
/-- The tiles that a TMUL writes (R349). -/
def Fmt.tiles (f : Fmt) : Nat := if f.bt = 4 then 4 else 1

/-! ## Drain types -/

/-- Encode an exact value as an element of a type code that is neither a block type nor acc64 (R353). -/
def encodeCode (t rnd : Nat) (sat : Bool) (v : Val) : Nat × FlagSet :=
  match t with
  | 0 => IntFmt.encode ⟨8, true⟩ rnd sat v
  | 1 => IntFmt.encode ⟨16, true⟩ rnd sat v
  | 2 => int32.encode rnd sat v
  | 5 => fp32.encode rnd sat false v
  | 6 => fp16.encode rnd sat false v
  | 7 => bf16.encode rnd sat false v
  | 8 => fp8e4.encode rnd sat false v
  | _ => fp8e5.encode rnd sat false v

/-- A value with an external exponent. -/
def fixedVal (q : Int) (e : Int) : Val := if q = 0 then .zero false else .fin ((Rat'.ofInt q).scale e)

/-- Little-endian bytes of packed elements of `w` bits, a whole number of bytes each (R215). -/
def packBytes (w : Nat) (xs : List Nat) : List Byte := xs.flatMap fun x => leBytes (w / 8) x

/-! ## The resident B (R343 to R345) -/

/-- A cell of the macro image. -/
def cellAt (k : Core) (row n : Nat) : Nat := (cget k.cells (256 * row + n)).toNat

/-- Weight (k, j) by the B type of a TMUL (R343). -/
def weightB (k : Core) (bt row j : Nat) : Int :=
  match bt with
  | 4 => ternVal (cellAt k row (j / 4) / 4 ^ (j % 4))
  | 11 => signExt (cellAt k row (2 * j + 1) * 256 + cellAt k row (2 * j)) 16
  | _ => signExt (cellAt k row j) 8

/-- The segment of a cell of the macro image, by its offset there (R344). -/
def segmentOf (a : Nat) : Nat := a / 256 / 64 * 32 + a % 256 / 8

/-- The segments that hold a cell that is not zero (R344). -/
def liveSegments (cells : List Host.Cell) : BitVec 256 := cells.foldl (fun m e => m ||| (1#256 <<< segmentOf e.1)) 0

/-- The number of active segments. -/
def activeSegments (k : Core) : Nat := ((List.range 256).filter fun i => k.segs.getLsbD i).length

/-- The captured scale of column j at row k (R345). -/
def scaleB (k : Core) (row j : Nat) : Nat := ((mget k.scales (32 * j + row / k.scaleBlock)).getD 127).toNat

/-! ## Windows -/

/-- Where a window offset of a train on a core lies in its buffer (R87). -/
def absOf (t : Train) (tc kind off : Nat) : Nat := ((windowsOf t tc).of kind).1 + off

/-- Bytes of a train's window. -/
def windowRead (s : State) (t : Train) (tc kind off n : Nat) : List Byte :=
  bufRead s (16 * t.ch + t.cores.getD tc 0) kind (absOf t tc kind off) n

/-- Write bytes of a train's window. -/
def windowWrite (s : State) (t : Train) (tc kind off : Nat) (bs : List Byte) : State :=
  bufWrite s (16 * t.ch + t.cores.getD tc 0) kind (absOf t tc kind off) bs

/-- The offset of an element of a tile (R94). -/
def tileOff (t row col : Nat) : Nat := t * 0x20000 + (row * 256 + col) * 8

/-! ## BLD and BGAT (R345 to R347) -/

/-- The captured scales under a slot (R345): those of a block type as they stand in the staging window. -/
def captureScales (s : State) (t : Train) (tc : Nat) (f : Fmt) : SMap Byte :=
  if !blockType f.bt then [] else
  let per := 512 / blockLen f.bt f.bb
  let bs := windowRead s t tc 2 f.bScale (f.columns * per)
  (List.range (f.columns * per)).foldl (fun m i => mset m (32 * (i / per) + i % per) (bs.getD i 0)) []

/-- A core with a new resident B (R344, R345). -/
def Core.loadB (k : Core) (f : Fmt) (cells : List Host.Cell) (segs : BitVec 256) (scales : SMap Byte) (err : Bool) : Core :=
  { k with
    cells := cells
    segs := segs
    scaleBlock := blockLen f.bt f.bb
    scales := scales
    btype := BitVec.ofNat 4 f.bt
    csrerr := err }

/-- BLD (R346). -/
def runBld (s : State) (g : Nat) (t : Train) (tc : Nat) (f : Fmt) (o : Nat) : State :=
  let cells := cwrite [] 0 (windowRead s t tc 2 o 0x20000)
  let k := coreG s g
  s.setCoreG g (k.loadB f cells (BitVec.allOnes 256) (captureScales s t tc f) k.csrerr)

/-- Row pointer k of a matrix in the staging window (R347). -/
def rowPtr (s : State) (t : Train) (tc p k : Nat) : Nat := leNat (windowRead s t tc 2 (p + 4 * k) 4)

/-- Element e of a packed array of B elements (R215, R347). -/
def csrValue (s : State) (t : Train) (tc bt vo e : Nat) : Nat :=
  let w := codeWidth bt
  leNat (windowRead s t tc 2 (vo + e * w / 8) ((w + 7) / 8)) / 2 ^ (e * w % 8) % 2 ^ w

/-- Write a weight into the cells (R343, R347). -/
def putWeight (cells : List Host.Cell) (bt row j v : Nat) : List Host.Cell :=
  match bt with
  | 4 =>
    let a := 256 * row + j / 4
    let sh := 4 ^ (j % 4)
    let old := (cget cells a).toNat
    cset cells a (BitVec.ofNat 8 (old - old / sh % 4 * sh + v % 4 * sh))
  | 11 => cwrite cells (256 * row + 2 * j) (leBytes 2 v)
  | _ => cset cells (256 * row + j) (BitVec.ofNat 8 v)

/-- One row of BGAT (R347): the entries from `a` to `b` − 1, of which those from `lo` to `hi` − 1 are read. -/
def gatRow (s : State) (t : Train) (tc : Nat) (f : Fmt) (ci vo lo hi row a b : Nat) (m : List Host.Cell × Bool) : List Host.Cell × Bool :=
  let outside := decide (b < a) || (decide (a < b) && (decide (a < lo) || decide (hi < b)))
  let first := max a lo
  (List.range (min b hi - first)).foldl (fun m i =>
    let e := first + i
    let j := leNat (windowRead s t tc 2 (ci + 2 * e) 2)
    if f.columns ≤ j then (m.1, true) else (putWeight m.1 f.bt row j (csrValue s t tc f.bt vo e), m.2)) (m.1, m.2 || outside)

/-- BGAT (R347): `lo` and `hi` are ptr[0] and ptr[512] as checked at issue. -/
def runBgat (s : State) (g : Nat) (t : Train) (tc : Nat) (f : Fmt) (p ci vo lo hi : Nat) : State :=
  let (cells, err) := (List.range 512).foldl (fun m row =>
    gatRow s t tc f ci vo lo hi row (rowPtr s t tc p row) (rowPtr s t tc p (row + 1)) m) ([], false)
  let k := coreG s g
  s.setCoreG g (k.loadB f cells (liveSegments cells) (captureScales s t tc f) err)

/-! ## TZERO and TMUL (R348 to R350) -/

/-- The tiles of a mask. -/
def maskTiles (m : Nat) : List Nat := (List.range 8).filter fun t => bitOf m t

/-- TZERO (R348). -/
def runTzero (s : State) (g : Nat) (t : Train) (tc mask : Nat) : State :=
  let clear (k : Core) (tile : Nat) : Core := { k with cBuf := cclear k.cBuf (absOf t tc 3 (tile * 0x20000)) 0x20000 }
  s.setCoreG g ((maskTiles mask).foldl clear (coreG s g))

/-- IntA(i, k): element k of a row (R350). -/
def intA (f : Fmt) (row : List Byte) (k : Nat) : Int :=
  match f.at_ with
  | 3 => signExt ((row.getD (k / 2) 0).toNat / 16 ^ (k % 2)) 4
  | 11 => signExt ((row.getD (2 * k + 1) 0).toNat * 256 + (row.getD (2 * k) 0).toNat) 16
  | _ => signExt (row.getD k 0).toNat 8

/-- The exponent of a scale: E − 127 − (w − 2) for a block type, 0 for another (R345, R350). -/
def scaleExp (t e : Nat) : Int := if blockType t then (e : Int) - 127 - ((codeWidth t : Int) - 2) else 0

/-- One group of one element of a TMUL (R350): the group's partial sum enters the accumulator. -/
def tmulGroup (k : Core) (f : Fmt) (row : List Byte) (scaleA : Nat → Nat) (j : Nat) (q : Nat × FlagSet) (ks g : Nat) : Nat × FlagSet :=
  let ea := scaleA ks
  let eb := if j < 256 then scaleB k ks j else 127
  if (blockType f.at_ && ea == 255) || eb == 255 then (q.1, q.2 ||| fIV)
  else
    let ps := (List.range g).foldl (fun n i => n + intA f row (ks + i) * weightB k f.bt (ks + i) j) 0
    let r := accAdd q.1 ps (scaleExp f.at_ ea + scaleExp f.bt eb - f.eacc)
    (r.1, q.2 ||| r.2)

/-- One row of a TMUL (R350): the state and the flags after it. -/
def tmulRow (t : Train) (tc g : Nat) (f : Fmt) (tile o row0 stride : Nat) (r : State × FlagSet) (i : Nat) : State × FlagSet :=
  let s := r.1
  let row := row0 + i
  let bytes := windowRead s t tc 1 (o + i * stride) f.rowBytes
  let ba := blockLen f.at_ f.ab
  let gl := min ba (blockLen f.bt f.bb)
  let scales := if blockType f.at_ then windowRead s t tc 1 (f.aScale + row * (512 / ba)) (512 / ba) else []
  let scaleA (k : Nat) : Nat := (scales.getD (k / ba) 0).toNat
  let k := coreG s g
  let one (j : Nat) : Nat × FlagSet :=
    let x := leNat (windowRead s t tc 3 (tileOff (tile + j / 256) row (j % 256)) 8)
    (List.range (512 / gl)).foldl (fun q n => tmulGroup k f bytes scaleA j q (n * gl) gl) (x, 0)
  let out := (List.range f.columns).map one
  let put (s : State) (n : Nat) : State :=
    windowWrite s t tc 3 (tileOff (tile + n) row 0) (packBytes 64 (((out.drop (256 * n)).take 256).map Prod.fst))
  ((List.range f.tiles).foldl put s, r.2 ||| out.foldl (fun a e => a ||| e.2) 0)

/-- TMUL (R350): the state and the flags. -/
def runTmul (s : State) (g : Nat) (t : Train) (tc : Nat) (f : Fmt) (tile o m row0 stride : Nat) : State × FlagSet :=
  (List.range m).foldl (tmulRow t tc g f tile o row0 stride) (s, 0)

/-! ## TDRAIN (R352, R353) -/

/-- One output of a TDRAIN: rows, columns, type, block length, rounding, saturation, whether it goes to global memory, its destination,
its row stride and its scales' offset from the destination. -/
structure DrainOut where
  rows : Nat
  cols : Nat
  ty : Nat
  block : Nat
  rnd : Nat
  sat : Bool
  glob : Bool
  dst : W64
  stride : Nat
  scale : Int
  deriving DecidableEq, Repr

/-- The bytes of one row of an output. -/
def DrainOut.rowLen (d : DrainOut) : Nat := d.cols * codeWidth d.ty / 8
/-- The bytes of the scales of one row. -/
def DrainOut.perRow (d : DrainOut) : Nat := if blockType d.ty then d.cols / d.block else 0

/-- C-out, and Cᵀ-out where it is written (R352). -/
def drainOuts (f : Fmt) (prm cdst tdst : W64) : List DrainOut :=
  let p := prm.toNat
  let pack (st n : Nat) : Nat := if st = 0 then n else st
  let c : DrainOut :=
    { rows := 64, cols := 256, ty := f.ct, block := blockLen f.ct f.cb, rnd := f.cRnd, sat := bitOf f.sat 0, glob := bitOf p 0
      dst := cdst, stride := pack (bitsOf p 31 8) (256 * codeWidth f.ct / 8), scale := f.cScale }
  let t : DrainOut :=
    { rows := 256, cols := 64, ty := f.tt, block := blockLen f.tt f.tb, rnd := f.tRnd, sat := bitOf f.sat 1, glob := bitOf p 2
      dst := tdst, stride := pack (bitsOf p 55 32) (64 * codeWidth f.tt / 8), scale := f.tScale }
  if bitOf p 1 then [c, t] else [c]

/-- The ranges that an output writes, as offsets from its destination: its rows, then its scales. -/
def DrainOut.ranges (d : DrainOut) : List (Int × Nat) :=
  rowsOf d.rowLen d.rows d.stride ++ (if blockType d.ty then [(d.scale, d.rows * d.perRow)] else [])

/-- The blocks of a row: scale bytes and element bytes, with the flags (R227, R353). -/
def drainBlocks (d : DrainOut) (vs : List Val) : List Byte × List Byte × FlagSet :=
  (List.range d.perRow).foldl (fun r b =>
    let z := toBlock (codeWidth d.ty) ((vs.drop (b * d.block)).take d.block)
    (r.1 ++ [BitVec.ofNat 8 z.1], r.2.1 ++ packBytes (codeWidth d.ty) z.2.1, r.2.2 ||| z.2.2)) ([], [], 0)

/-- One row of an output: its scales, its elements, and the flags. `raw` are the tile's elements in it. -/
def drainRow (d : DrainOut) (eacc : Int) (raw : List Nat) : List Byte × List Byte × FlagSet :=
  let vs := raw.map fun x => fixedVal (signExt x 64) eacc
  if d.ty = 12 then ([], packBytes 64 raw, 0)
  else if blockType d.ty then drainBlocks d vs
  else
    let es := vs.map (encodeCode d.ty d.rnd d.sat)
    ([], packBytes (codeWidth d.ty) (es.map Prod.fst), es.foldl (fun a e => a ||| e.2) 0)

/-- The bytes of a global range in their pages, as translated: address in the chassis window, attributes, and bytes,
sector by sector. -/
def spreadPages (ps : PageMap) (va : Nat) : List Byte → Nat → List (Nat × Attr × List Byte)
  | _, 0 => []
  | bs, fuel + 1 =>
    if bs.isEmpty then [] else
    let n := 32 - va % 32
    let rest := spreadPages ps (va + n) (bs.drop n) fuel
    match ps.find? fun p => p.1 == va / 4096 with
    | some (_, _, base, at_) => (base + va % 4096, at_, bs.take n) :: rest
    | none => rest

/-- The writes of one sector, one for each copy of a replicated location (R47). -/
def replicas (w : Nat × Attr × List Byte) : List (Nat × Attr × List Byte) :=
  if w.2.1.repl then dies.map fun d => (d * 2 ^ 36 + w.1 % 2 ^ 36, w.2) else [w]

/-- An engine's writes into local memory (R58, R107, R130): each goes to its home, and the L1 of the engine's core drops what it holds of
it. -/
def engineWrite (g : Nat) (s : State) (w : Nat × Attr × List Byte) : State :=
  ((replicas w).filter fun w => reachable s (g / 16) (homeAt w.1).d).foldl (fun s w =>
    l1Drop (tryWrite s (some g) w.1 w.2.2 w.2.1).2 g w.1 w.2.2.length) s

/-- Write one output of a TDRAIN at an offset from its destination. -/
def drainPut (t : Train) (tc g : Nat) (ps : PageMap) (d : DrainOut) (s : State) (off : Int) (bs : List Byte) : State :=
  if d.glob then (spreadPages ps (d.dst + BitVec.ofInt 64 off).toNat bs (bs.length + 1)).foldl (engineWrite g) s
  else windowWrite s t tc 1 (d.dst.toNat + off).toNat bs

/-- One output of a TDRAIN (R353): `x` gives the tile element of a row and column of the output. -/
def drainOut (t : Train) (tc g : Nat) (ps : PageMap) (eacc : Int) (x : Nat → Nat → Nat) (d : DrainOut) (r : State × FlagSet) :
    State × FlagSet :=
  (List.range d.rows).foldl (fun r i =>
    let (sc, es, fl) := drainRow d eacc ((List.range d.cols).map (x i))
    let s := drainPut t tc g ps d r.1 ((i * d.stride : Nat) : Int) es
    let s := if sc.isEmpty then s else drainPut t tc g ps d s (d.scale + (i * d.perRow : Nat)) sc
    (s, r.2 ||| fl)) r

/-- TDRAIN (R353): the state and the flags. -/
def runTdrain (s : State) (g : Nat) (t : Train) (tc : Nat) (f : Fmt) (tile : Nat) (prm cdst tdst : W64) (ps : PageMap) :
    State × FlagSet :=
  let x (i j : Nat) : Nat := leNat (windowRead s t tc 3 (tileOff tile i j) 8)
  match drainOuts f prm cdst tdst with
  | c :: rest =>
    let r := drainOut t tc g ps f.eacc x c (s, 0)
    rest.foldl (fun r d => drainOut t tc g ps f.eacc (fun j i => x i j) d r) r
  | [] => (s, 0)

/-! ## Reductions: inputs and results (R171, R173) -/

/-- The size of an input element by its code (R354). -/
def credSize : Nat → Nat
  | 0 => 4 | 1 => 4 | 2 => 2 | 3 => 2 | _ => 8

/-- The value of an input element (R355). -/
def credVal (code : Nat) (eacc : Int) (x : Nat) : Val :=
  match code with
  | 0 => Val.ofInt (signExt x 32)
  | 1 => fp32.decode false x
  | 2 => fp16.decode false x
  | 3 => bf16.decode false x
  | _ => fixedVal (signExt x 64) eacc

/-- The rx64 value of an input element: the integer, whether it is invalid, and the flags (R171). -/
def toRx (e : Int) : Val → Int × Bool × FlagSet
  | .nan _ => (0, true, fIV)
  | .inf _ => (0, true, fIV)
  | .zero _ => (0, false, 0)
  | .fin v =>
    let x := v.scale (-e)
    let q := roundInt x 0
    let c := max (-(2 ^ 63)) (min (2 ^ 63 - 1) q)
    (c, false, (if (Rat'.ofInt q).eqv x then 0 else fNX) ||| (if c == q then 0 else fOF))

/-- One partial sum: an 80-bit two's complement pattern and the invalid mark (R172). -/
abbrev RxSum := Nat × Bool

/-- Add partial sums element by element (R172). -/
def addSums (a b : List RxSum) : List RxSum := List.zipWith (fun x y => ((x.1 + y.1) % 2 ^ 80, x.2 || y.2)) a b

/-- The root's rounding of one element (R173): the result of output type `out`, and the flags. -/
def roundRx (out rnd : Nat) (sat : Bool) (e : Int) (x : RxSum) : Nat × FlagSet :=
  if x.2 then (if out = 2 then 0 else (encodeCode out 0 false (.nan false)).1, fIV)
  else
    let q := signExt x.1 80
    let c := max (-(2 ^ 63)) (min (2 ^ 63 - 1) q)
    let r := encodeCode out rnd sat (fixedVal c e)
    (r.1, r.2 ||| (if c == q then 0 else fOF))

/-- The fields of a CRED's literal and parameter word (R354). -/
structure CredArgs where
  tag : Nat
  e : Int
  inp : Nat
  out : Nat
  rnd : Nat
  sat : Bool
  all : Bool
  slot : Nat
  mask : BitVec 16
  root : Nat
  k : Nat
  n : Nat
  deriving DecidableEq, Repr

def credArgs (prm lit : Nat) : CredArgs :=
  { tag := bitsOf lit 7 0, e := signExt (bitsOf lit 16 8) 9, inp := bitsOf lit 19 17, out := bitsOf lit 23 20, rnd := bitsOf lit 26 24
    sat := bitOf lit 27, all := bitOf lit 28, slot := bitsOf lit 30 29, mask := BitVec.ofNat 16 prm, root := bitsOf prm 19 16
    k := bitsOf prm 24 20, n := 32 * (bitsOf prm 40 32 + 1) }

/-- The source read of a CRED (R355): the rx64 values and the flags. -/
def readCred (s : State) (t : Train) (tc : Nat) (f : Fmt) (a : CredArgs) (src : Nat) : List RxSum × FlagSet :=
  let sz := credSize a.inp
  let bs := windowRead s t tc (if a.inp = 4 then 3 else 1) src (a.n * sz)
  let one (i : Nat) : Int × Bool × FlagSet := toRx a.e (credVal a.inp f.eacc (leNat ((bs.drop (i * sz)).take sz)))
  let rs := (List.range a.n).map one
  (rs.map fun r => (lowBits r.1 80, r.2.1), rs.foldl (fun m r => m ||| r.2.2) 0)

/-! ## Time and tokens (R357, R358) -/

/-- The work clocks of a queued instruction (R358). -/
def workOf (f : Fmt) : MatOp → Nat
  | .bld _ => if blockType f.bt then 160 else 144
  | .bgat _ _ _ lo hi => 192 + (hi - lo + 15) / 16 + (if blockType f.bt then 16 else 0)
  | .tzero _ => 68
  | .tmul _ _ m _ _ => m * f.planes + 48
  | .tdrain _ prm _ _ _ => if prm.getLsbD 1 then 600 else 536
  | .cred prm _ _ lit => let a := credArgs prm.toNat lit.toNat; 16 + (a.n * credSize a.inp + 255) / 256

/-- The tokens that a queued instruction consumes, with the segments active at its start (R357). -/
def netTokens (k : Core) (f : Fmt) : MatOp → Nat
  | .bld _ => 256
  | .bgat _ _ _ _ _ => 256
  | .tmul _ _ m _ _ => m * f.planes * activeSegments k
  | .tdrain _ prm _ _ _ => if prm.getLsbD 1 then 128 else 64
  | .tzero _ => 0
  | .cred _ _ _ _ => 0

/-- The most that a purse holds (R357). -/
def purseMax : Nat := 8388608

/-- Tokens return to a purse, up to its limit (R357). -/
def refund (s : State) (d n : Nat) : State :=
  let c := chassisOf s d
  s.setChassis d { c with purse := max c.purse (min purseMax (c.purse + n)) }

/-- The tokens granted to a slot go back to the purse (R336, R403). -/
def ungrant (s : State) (c : Coach) (j : Nat) : State × Coach :=
  match mget c.granted j with
  | some n => (refund s c.ch n, { c with granted := mdel c.granted j })
  | none => (s, c)

/-! ## What a queued instruction reads (R151) -/

/-- The typed-buffer ranges that a queued instruction reads as operands, by buffer kind, absolute offset and size. Tiles that TMUL adds to
are not among them (R93). -/
def matReads (t : Train) (e : MatEntry) : List (Nat × Nat × Nat) :=
  let f := fmtOf e.fmt
  let r (kind off n : Nat) : Nat × Nat × Nat := (kind, absOf t e.tcore kind off, n)
  let scales := if blockType f.bt then [r 2 f.bScale (f.columns * (512 / blockLen f.bt f.bb))] else []
  match e.what with
  | .bld o => r 2 o 0x20000 :: scales
  | .bgat p ci vo lo hi =>
    let w := codeWidth f.bt
    r 2 p 2052 :: r 2 (ci + 2 * lo) (2 * (hi - lo)) :: r 2 (vo + lo * w / 8) ((hi * w + 7) / 8 - lo * w / 8) :: scales
  | .tzero _ => []
  | .tmul _ o m row0 st =>
    let per := 512 / blockLen f.at_ f.ab
    (List.range m).map (fun i => r 1 (o + i * st) f.rowBytes) ++ (if blockType f.at_ then [r 1 (f.aScale + row0 * per) (m * per)] else [])
  | .tdrain tile _ _ _ _ => [r 3 (tile * 0x20000) 0x20000]
  | .cred prm src _ lit =>
    let a := credArgs prm.toNat lit.toNat
    [r (if a.inp = 4 then 3 else 1) src.toNat (a.n * credSize a.inp)]

/-- Whether a queued instruction of a coach with an earlier place in the issue order reads a byte of a typed-buffer range: the coach's later
write there must wait (R151). -/
def matHolds (s : State) (key stamp g kind a n : Nat) : Bool :=
  (coreG s g).matq.any fun e =>
    e.coach == key && (match coachOf s key, trainOf s e.train with
      | some c, some t =>
        (match opOf c e.op with
        | some o => o.stamp < stamp
        | none => false) && (matReads t e).any fun r => r.1 == kind && r.2.1 < a + n && a < r.2.1 + r.2.2
      | _, _ => false)

/-- Whether earlier typed-buffer writes of a coach are still to be performed (R151, R342): those with a place in the issue order below
`stamp`. -/
def bufWritesOpen (c : Coach) (stamp : Nat) : Bool :=
  c.ops.any fun o => o.kind == .store && o.stamp < stamp && o.pieces.any fun p =>
    p.phase == 0 && (match p.space with
      | .buf _ _ => true
      | _ => false)

end Sys2Proof.Machine
end

