-- ==== Sys2Proof/Machine/MatrixInstr.lean ====
section
/-! DEFINITION. The matrix instructions at issue, opcodes 0xC0 to 0xC7 (15 R336 to R358): the checks in their order, and the queue of the
matrix unit. -/

namespace Sys2Proof.Machine

/-! ## Common rules (R336 to R338) -/

/-- How the checks of a matrix instruction end: with a trap, with pages to walk, with earlier buffer writes or a stolen clock (R81) to
wait for, or with what the unit is to do. -/
inductive MatCheck where
  | trap (t : LaneTrap)
  | miss (ms : List Miss) (kept : Kept)
  | wait
  | ok (what : MatOp)
  deriving DecidableEq, Repr

/-- A check fails: its cause in every lane, and the tokens return (R336). -/
def matTrap (s : State) (x : Iss) (len : Nat) (t : LaneTrap) : State :=
  let (s', c) := ungrant s x.c x.slot
  if reportWaits s x.c x.k ((lanesOf x.k.lanes).map fun l => { t with lane := l }) then stall s x .report
  else trapAll (forget s' x.c.gcore (x.c.key, x.slot, x.k.pc)) { x with c := c } len t

/-- The format block of a slot of a train on a core (R340): all zero until one is written. -/
def fmtAt (t : Train) (tc n : Nat) : FmtBlock := (mget t.fmts (4 * tc + n)).getD []

/-- Checks 1 and 2 of R336: the cause, if one fails. -/
def matDenied (s : State) (x : Iss) : Option Nat :=
  if x.k.lanes ≠ 0xFFFFFFFF then some 0x10
  else if x.c.yard || (coreOf s x.c.ch x.c.core).holder != some x.c.train || (trainOf s x.c.train).isNone then some 0x13
  else none

/-- A matrix instruction behind checks 1 and 2. -/
def matStep (s : State) (x : Iss) (len : Nat) (f : Train → State) : State :=
  match matDenied s x, trainOf s x.c.train with
  | some e, _ => matTrap s x len { lane := 0, cause := e, addr := x.k.pc }
  | none, some t => f t
  | none, none => s

/-- An instruction enters the queue (R338): an operation of the tl counter, with its granted tokens drawn. -/
def enqueueMat (s : State) (x : Iss) (len : Nat) (t : Train) (b : FmtBlock) (what : MatOp) : State :=
  let s := forget s x.c.gcore (x.c.key, x.slot, x.k.pc)
  let (s, c) := issueOp s x.c { opOfIss x .tl .tile [] with lanes := x.k.lanes }
  let e : MatEntry :=
    { coach := c.key, op := x.c.nextOp, train := t.id, tcore := c.tcore, fmt := b, what := what, level := x.k.level, fslot := x.k.fslot
      drawn := (mget c.granted x.slot).getD 0, work := workOf (fmtOf b) what, issued := (chassisOf s x.c.ch).clk }
  let k := coreOf s c.ch c.core
  let s := s.setCore c.ch c.core { k with matq := k.matq ++ [e] }
  retire s x { c with granted := mdel c.granted x.slot } len

/-- A matrix instruction that enters the queue: slot `n`, and its own checks. -/
def matQueued (s : State) (x : Iss) (len n : Nat) (check : Train → Fmt → MatCheck) : State :=
  matStep s x len fun t =>
    let b := fmtAt t x.c.tcore n
    match check t (fmtOf b) with
    | .trap tr => matTrap s x len tr
    | .miss ms ks => stallPaged s x ms ks
    | .wait => stall s x .resource
    | .ok what => enqueueMat s x len t b what

/-- Check 3: a parameter beyond its limits. -/
def parameterTrap (x : Iss) : LaneTrap := { lane := 0, cause := 7, addr := x.k.pc }

/-- Check 4: the first of the ranges, by buffer kind, offset and size, that leaves its window. -/
def boundTrap (w : Windows) (rs : List (Nat × Int × Nat)) : Option LaneTrap :=
  (rs.find? fun r => r.2.1 < 0 || (((w.of r.1).2 : Nat) : Int) < r.2.1 + r.2.2).map fun r =>
    { lane := 0, cause := 0x13, addr := bufAddr r.1 r.2.1, kind := 5 }

/-- Check 5: the first of the offsets, by buffer kind, offset and alignment, that is misaligned. -/
def alignTrap (os : List (Nat × Int × Nat)) : Option LaneTrap :=
  (os.find? fun o => o.2.1 % (o.2.2 : Int) != 0).map fun o => { lane := 0, cause := 6, addr := bufAddr o.1 o.2.1, kind := 5 }

/-- Checks in order. -/
def firstTrap : List (Option LaneTrap) → MatCheck → MatCheck
  | [], r => r
  | some t :: _, _ => .trap t
  | none :: ts, r => firstTrap ts r

/-- Check 3 as a trap, where a limit is not kept. -/
def limitTrap (x : Iss) (kept : Bool) : Option LaneTrap := if kept then none else some (parameterTrap x)

/-- The scale range of a block-scaled B in the staging window (R346). -/
def bScaleRange (f : Fmt) : List (Nat × Int × Nat) :=
  if blockType f.bt then [(2, (f.bScale : Int), f.columns * (512 / blockLen f.bt f.bb))] else []

/-- The range of a tile. -/
def tileRange (t : Nat) : Nat × Int × Nat := (3, ((t * 0x20000 : Nat) : Int), 0x20000)

/-! ## FMTL (R342) -/

/-- FMTL behind checks 1 and 2: the slot takes the block 4 clocks after the issue. -/
def fmtlStep (s : State) (x : Iss) (n : Nat) (a i : BitVec 8) (t : Train) : State :=
  let w := windowsOf t x.c.tcore
  let o : Int := (readS x.c x.k a.toNat).toNat + 64 * i.toInt
  match boundTrap w [(1, o, 64)], alignTrap [(1, o, 64)] with
  | some tr, _ => matTrap s x 4 tr
  | none, some tr => matTrap s x 4 tr
  | none, none =>
    if bufWritesOpen x.c s.nextId || stolenNow s x.c.ch then stall s x .resource
    else
      let b := windowRead s t x.c.tcore 1 o.toNat 64
      if !fmtValid b then matTrap s x 4 { lane := 0, cause := 7, addr := bufAddr 1 o, kind := 5 }
      else
        let due := (chassisOf s x.c.ch).clk + 4
        retire (s.setTrain t.id fun t => { t with loads := t.loads ++ [(due, 4 * x.c.tcore + n, b)] }) x x.c 4

/-- FMTL (R342). -/
def execFmtl (n : BitVec 2) (a i : BitVec 8) (s : State) : Host.Outcome State Fault Refusal :=
  byCarriage s fun x => matStep s x 4 (fmtlStep s x n.toNat a i)

/-! ## BLD and BGAT (R346, R347) -/

/-- The checks of BLD (R346). -/
def bldCheck (x : Iss) (a : BitVec 8) (t : Train) (f : Fmt) : MatCheck :=
  let o := (readS x.c x.k a.toNat).toNat
  firstTrap [boundTrap (windowsOf t x.c.tcore) ((2, (o : Int), 0x20000) :: bScaleRange f), alignTrap [(2, (o : Int), 256)]] (.ok (.bld o))

/-- BLD (R346). -/
def execBld (n : BitVec 2) (a : BitVec 8) (s : State) : Host.Outcome State Fault Refusal :=
  byCarriage s fun x => matQueued s x 4 n.toNat (bldCheck x a)

/-- The checks of BGAT (R347): the row pointers and the scale range first; then, with ptr[0] and ptr[512] read, the ranges they name. -/
def bgatCheck (s : State) (x : Iss) (a b : BitVec 8) (t : Train) (f : Fmt) : MatCheck :=
  let w := windowsOf t x.c.tcore
  let p := (readS x.c x.k a.toNat).toNat
  let ci := (readS x.c x.k b.toNat).toNat
  let vo := (readS x.c x.k (b.toNat + 1)).toNat
  match boundTrap w ((2, (p : Int), 2052) :: bScaleRange f), alignTrap [(2, (p : Int), 4)] with
  | some tr, _ => .trap tr
  | none, some tr => .trap tr
  | none, none =>
    if bufWritesOpen x.c s.nextId || stolenNow s x.c.ch then .wait
    else
      let lo := rowPtr s t x.c.tcore p 0
      let hi := rowPtr s t x.c.tcore p 512
      let bits := codeWidth f.bt
      let first := vo + lo * bits / 8
      let used := if lo < hi then
        [(2, ((ci + 2 * lo : Nat) : Int), 2 * (hi - lo)), (2, (first : Int), vo + (hi * bits + 7) / 8 - first)] else []
      if 131072 < hi - lo then .trap { lane := 0, cause := 7, addr := bufAddr 2 p, kind := 5 }
      else firstTrap [boundTrap w used, alignTrap [(2, (ci : Int), 2)]] (.ok (.bgat p ci vo lo hi))

/-- BGAT (R347). -/
def execBgat (n : BitVec 2) (a b : BitVec 8) (s : State) : Host.Outcome State Fault Refusal :=
  byCarriage s fun x => matQueued s x 4 n.toNat (bgatCheck s x a b)

/-! ## TZERO and TMUL (R348, R349) -/

/-- The checks of TZERO (R348). -/
def tzeroCheck (x : Iss) (m : Nat) (t : Train) (_ : Fmt) : MatCheck :=
  firstTrap [boundTrap (windowsOf t x.c.tcore) ((maskTiles m).map tileRange)] (.ok (.tzero m))

/-- TZERO (R348). It names no format slot. -/
def execTzero (m : BitVec 8) (s : State) : Host.Outcome State Fault Refusal :=
  byCarriage s fun x => matQueued s x 4 0 (tzeroCheck x m.toNat)

/-- The checks of TMUL (R349). -/
def tmulCheck (x : Iss) (tile : Nat) (a b : BitVec 8) (t : Train) (f : Fmt) : MatCheck :=
  let o := (readS x.c x.k a.toNat).toNat
  let prm := (readS x.c x.k b.toNat).toNat
  let m := bitsOf prm 5 0 + 1
  let row0 := bitsOf prm 11 6
  let st := if bitsOf prm 31 16 = 0 then f.rowBytes else 32 * bitsOf prm 31 16
  let per := 512 / blockLen f.at_ f.ab
  let rows := (List.range m).map fun i => (1, ((o + i * st : Nat) : Int), f.rowBytes)
  let scales := if blockType f.at_ then [(1, ((f.aScale + row0 * per : Nat) : Int), m * per)] else []
  let tiles := (List.range f.tiles).map fun i => tileRange (tile + i)
  firstTrap
    [limitTrap x (bitsOf prm 15 12 == 0 && bitsOf prm 63 32 == 0 && row0 + m ≤ 64 && tile + f.tiles ≤ 8),
      boundTrap (windowsOf t x.c.tcore) (rows ++ scales ++ tiles), alignTrap [(1, (o : Int), 32)]]
    (.ok (.tmul tile o m row0 st))

/-- TMUL (R349). -/
def execTmul (n : BitVec 2) (tile : BitVec 3) (a b : BitVec 8) (s : State) : Host.Outcome State Fault Refusal :=
  byCarriage s fun x => matQueued s x 4 n.toNat (tmulCheck x tile.toNat a b)

/-! ## TDRAIN (R352) -/

/-- The starts of the first two rows of an output: where a misaligned destination or stride shows (R352). -/
def DrainOut.starts (d : DrainOut) : List Int := [(d.dst.toNat : Int), (d.dst.toNat : Int) + d.stride]

/-- The typed-buffer ranges of an output in the A-buffer. -/
def DrainOut.bufRanges (d : DrainOut) : List (Nat × Int × Nat) :=
  if d.glob then [] else d.ranges.map fun r => (1, (d.dst.toNat : Int) + r.1, r.2)

/-- The alignment of an output in the A-buffer. -/
def DrainOut.bufStarts (d : DrainOut) : List (Nat × Int × Nat) := if d.glob then [] else d.starts.map fun o => (1, o, 32)

/-- Place the pages of a drain: local memory alone, the spread window among it (R352). -/
def localPages (low : SMap Nat) : PageMap → Except LaneTrap PageMap
  | [] => .ok []
  | (v, _, pa, at_) :: ps =>
    let bad : LaneTrap := { lane := 0, cause := 7, addr := BitVec.ofNat 64 ((mget low v).getD (v * 4096)), kind := Acc.write.code }
    match (if regionOf pa = .dram then resolve pa else none), localPages low ps with
    | none, _ => .error bad
    | some _, .error t => .error t
    | some h, .ok qs => .ok ((v, .mem, h.wa, at_) :: qs)

/-- The checks of R318 for an output in global memory, in their order: range, alignment, translation, region. -/
def drainPages (s : State) (x : Iss) (d : DrainOut) : Paged :=
  let low := pagesOf d.dst d.ranges
  let t (cause : Nat) (a : W64) : Paged := .trap { lane := 0, cause := cause, addr := a, kind := Acc.write.code }
  match (mvals low).find? fun a => a / 2 ^ 56 != 0, d.starts.find? fun a => a % 32 != 0 with
  | some a, _ => t 7 (BitVec.ofNat 64 a)
  | none, some a => t 6 (BitVec.ofInt 64 a)
  | none, none =>
    match paged s (askerOf x.c x.slot x.k) x.k.pages .write (mvals low) with
    | .ok ps ks =>
      (match localPages low ps with
      | .ok qs => .ok qs ks
      | .error t => .trap t)
    | r => r

/-- Check 6 for the outputs in order: a trap, the pages to walk, or the pages. -/
def drainGlobal (s : State) (x : Iss) : List DrainOut → Paged
  | [] => .ok [] []
  | d :: ds =>
    if !d.glob then drainGlobal s x ds else
    match drainPages s x d, drainGlobal s x ds with
    | .trap t, _ => .trap t
    | .miss ms ks, .miss ns js => .miss (ms ++ ns) (ks ++ js)
    | .miss ms ks, .ok _ js => .miss ms (ks ++ js)
    | .miss ms ks, .trap _ => .miss ms ks
    | .ok ps ks, .ok qs js => .ok (ps ++ qs) (ks ++ js)
    | .ok _ ks, .miss ms js => .miss ms (ks ++ js)
    | .ok _ _, .trap t => .trap t

/-- The checks of TDRAIN (R352). -/
def tdrainCheck (s : State) (x : Iss) (tile : Nat) (a b : BitVec 8) (t : Train) (f : Fmt) : MatCheck :=
  let prm := readS x.c x.k b.toNat
  let cdst := readS x.c x.k a.toNat
  let tdst := readS x.c x.k (b.toNat + 1)
  let outs := drainOuts f prm cdst tdst
  let p := prm.toNat
  firstTrap
    [limitTrap x (bitsOf p 7 3 == 0 && bitsOf p 63 56 == 0 && !(bitOf p 1 && f.tt == 15)),
      boundTrap (windowsOf t x.c.tcore) (tileRange tile :: outs.flatMap DrainOut.bufRanges), alignTrap (outs.flatMap DrainOut.bufStarts)]
    (match drainGlobal s x outs with
    | .trap tr => .trap tr
    | .miss ms ks => .miss ms ks
    | .ok ps _ => .ok (.tdrain tile prm cdst tdst ps))

/-- TDRAIN (R352). -/
def execTdrain (n : BitVec 2) (tile : BitVec 3) (a b : BitVec 8) (s : State) : Host.Outcome State Fault Refusal :=
  byCarriage s fun x => matQueued s x 4 n.toNat (tdrainCheck s x tile.toNat a b)

/-! ## CRED (R354) -/

/-- Whether a CRED's literal holds a reserved value (R354, R260). -/
def credReserved (lit : W32) : Bool :=
  let a := credArgs 0 lit.toNat
  4 < a.inp || !([2, 5, 6, 7, 8, 9].contains a.out) || 4 < a.rnd || bitOf lit.toNat 31

/-- The checks of CRED (R354). -/
def credCheck (x : Iss) (d a b : BitVec 8) (lit : W32) (t : Train) (_ : Fmt) : MatCheck :=
  let prm := readS x.c x.k d.toNat
  let src := readS x.c x.k a.toNat
  let dst := readS x.c x.k b.toNat
  let r := credArgs prm.toNat lit.toNat
  let sz := credSize r.inp
  let out := codeWidth r.out / 8
  let sk := if r.inp = 4 then 3 else 1
  firstTrap
    [limitTrap x (bitsOf prm.toNat 31 25 == 0 && bitsOf prm.toNat 63 41 == 0 && r.mask.getLsbD x.c.ch && r.mask.getLsbD r.root
        && 1 ≤ r.k && r.k ≤ 16),
      boundTrap (windowsOf t x.c.tcore) [(sk, (src.toNat : Int), r.n * sz), (1, (dst.toNat : Int), r.n * out)],
      alignTrap [(sk, (src.toNat : Int), sz), (1, (dst.toNat : Int), out)]]
    (.ok (.cred prm src dst (lit.setWidth 64)))

/-- CRED (R354): a reserved value of its literal (R260) is found behind checks 1 and 2 of R336. -/
def execCred (d a b : BitVec 8) (lit : W32) (s : State) : Host.Outcome State Fault Refusal :=
  byCarriage s fun x =>
    matStep s x 8 fun _ =>
      if credReserved lit then literalTrap s x x.k.lanes
      else matQueued s x 8 (credArgs 0 lit.toNat).slot (credCheck x d a b lit)

/-! ## TSTAT (R356) -/

/-- The value of TSTAT (R356). -/
def tstatValue (s : State) (x : Iss) (sel : Nat) (t : Train) : W64 :=
  let k := coreOf s x.c.ch x.c.core
  match sel with
  | 0 => BitVec.ofNat 64 (activeSegments k + 2 ^ 9 * k.btype.toNat + (if k.csrerr then 2 ^ 13 else 0) + 2 ^ 16 * k.matq.length)
  | 1 => rget t.tokens x.c.tcore
  | n => k.segs.extractLsb' (64 * (n - 2)) 64

/-- TSTAT (R356). -/
def execTstat (d : BitVec 8) (sel : BitVec 3) (s : State) : Host.Outcome State Fault Refusal :=
  byCarriage s fun x => matStep s x 4 fun t => retire s x (writeS x.c x.k d.toNat (tstatValue s x sel.toNat t)) 4

/-! ## Readiness (R338, R357) -/

/-- The tokens that a matrix instruction draws at issue (R357). -/
def drawOf (s : State) (c : Coach) (k : Carriage) : Instr → Nat
  | .bld _ _ => 256
  | .bgat _ _ _ => 256
  | .tmul n _ _ b =>
    let f := match trainOf s c.train with
      | some t => fmtOf (fmtAt t c.tcore n.toNat)
      | none => fmtOf []
    (bitsOf (readS c k b.toNat).toNat 5 0 + 1) * f.planes * 256
  | .tdrain _ _ _ b => if (readS c k b.toNat).getLsbD 1 then 128 else 64
  | _ => 0

/-- Whether an instruction enters the queue of the matrix unit (R338). -/
def queuedInMatrix : Instr → Bool
  | .bld _ _ => true
  | .bgat _ _ _ => true
  | .tzero _ => true
  | .tmul _ _ _ _ => true
  | .tdrain _ _ _ _ => true
  | .cred _ _ _ _ => true
  | _ => false

end Sys2Proof.Machine
end

