-- ==== Sys2Proof/Machine/MemoryInstr.lean ====
section
/-! DEFINITION. Memory instructions of carriages, opcodes 0x90 to 0xAF (14 R321 to R327): loads and stores of lanes and scalars, typed-buffer
accesses, acquire, release and fence, atomics and memory commands. -/

namespace Sys2Proof.Machine

/-! ## Lane loads and stores (R321) -/

/-- The registers from `n` on that receive or supply `k` words. -/
def regRun (x : Iss) (n k : Nat) : List VDst := (List.range k).map fun j => vTarget x.c x.k (n + j)

/-- The data of a lane from `k` registers. -/
def regData (x : Iss) (l n k : Nat) : Nat := packElems 32 ((List.range k).map fun j => (readV x.c x.k l (n + j)).toNat)

/-- The words of an access of some bytes. -/
def wordsOf (size : Nat) : Nat := (size + 3) / 4

/-- A lane load from global memory; registers from d on receive the value. -/
def laneLoad (s : State) (i : Instr) (d a imm : BitVec 8) (size : Nat) (signed : Bool) : Host.Outcome State Fault Refusal :=
  byCarriage s fun x =>
    let va (l : Nat) : W64 := laneVa x l a imm size
    let piece (p : Passed) : Piece :=
      { lane := p.lane, space := p.space, addr := p.addr, va := va p.lane, size := size, attr := p.attr
        dst := .vec (regRun x d.toNat (wordsOf size)) (8 * min 4 size) signed }
    accessLanes s x i 4 (lanesOf (activeOf x.c x.k))
      (fun l => checkAccess s (askerOf x.c x.slot x.k) { acc := .read, size := size } l (va l)) (goLoad x piece)

/-- A lane store to global memory of the low `size` bytes of the registers from d on. -/
def laneStore (s : State) (i : Instr) (d a imm : BitVec 8) (size : Nat) : Host.Outcome State Fault Refusal :=
  byCarriage s fun x =>
    let va (l : Nat) : W64 := laneVa x l a imm size
    let piece (p : Passed) : Piece :=
      { lane := p.lane, space := p.space, addr := p.addr, va := va p.lane, size := size, attr := p.attr
        data := regData x p.lane d.toNat (wordsOf size) % 2 ^ (8 * size) }
    accessLanes s x i 4 (lanesOf (activeOf x.c x.k))
      (fun l => checkAccess s (askerOf x.c x.slot x.k) { acc := .write, size := size } l (va l)) (goStore x piece)

/-- VLD8S (R321). -/
def execVld8s (d a imm : BitVec 8) (s : State) : Host.Outcome State Fault Refusal := laneLoad s (.vld8s d a imm) d a imm 1 true

/-- VLD8Z (R321). -/
def execVld8z (d a imm : BitVec 8) (s : State) : Host.Outcome State Fault Refusal := laneLoad s (.vld8z d a imm) d a imm 1 false

/-- VLD16S (R321). -/
def execVld16s (d a imm : BitVec 8) (s : State) : Host.Outcome State Fault Refusal := laneLoad s (.vld16s d a imm) d a imm 2 true

/-- VLD16Z (R321). -/
def execVld16z (d a imm : BitVec 8) (s : State) : Host.Outcome State Fault Refusal := laneLoad s (.vld16z d a imm) d a imm 2 false

/-- VLD32 (R321). -/
def execVld32 (d a imm : BitVec 8) (s : State) : Host.Outcome State Fault Refusal := laneLoad s (.vld32 d a imm) d a imm 4 false

/-- VLD64 (R321). -/
def execVld64 (d a imm : BitVec 8) (s : State) : Host.Outcome State Fault Refusal := laneLoad s (.vld64 d a imm) d a imm 8 false

/-- VLD128 (R321). -/
def execVld128 (d a imm : BitVec 8) (s : State) : Host.Outcome State Fault Refusal := laneLoad s (.vld128 d a imm) d a imm 16 false

/-- VST8 (R321). -/
def execVst8 (d a imm : BitVec 8) (s : State) : Host.Outcome State Fault Refusal := laneStore s (.vst8 d a imm) d a imm 1

/-- VST16 (R321). -/
def execVst16 (d a imm : BitVec 8) (s : State) : Host.Outcome State Fault Refusal := laneStore s (.vst16 d a imm) d a imm 2

/-- VST32 (R321). -/
def execVst32 (d a imm : BitVec 8) (s : State) : Host.Outcome State Fault Refusal := laneStore s (.vst32 d a imm) d a imm 4

/-- VST64 (R321). -/
def execVst64 (d a imm : BitVec 8) (s : State) : Host.Outcome State Fault Refusal := laneStore s (.vst64 d a imm) d a imm 8

/-- VST128 (R321). -/
def execVst128 (d a imm : BitVec 8) (s : State) : Host.Outcome State Fault Refusal := laneStore s (.vst128 d a imm) d a imm 16

/-! ## Scalar loads and stores (R322) -/

/-- A scalar load: one access, its value zero-extended to s[d]. -/
def scalarLoad (s : State) (d a imm : BitVec 8) (size : Nat) : Host.Outcome State Fault Refusal :=
  byCarriage s fun x =>
    let va := scalarVa x a imm size
    let piece (p : Passed) : Piece :=
      { lane := 32, space := p.space, addr := p.addr, va := va, size := size, attr := p.attr, dst := .scalar (sTarget x.k d.toNat) }
    accessScalar s x 4 (checkAccess s (askerOf x.c x.slot x.k) { acc := .read, size := size } 32 va) (goLoad x piece)

/-- A scalar store of the low `size` bytes of s[d]. -/
def scalarStore (s : State) (d a imm : BitVec 8) (size : Nat) : Host.Outcome State Fault Refusal :=
  byCarriage s fun x =>
    let va := scalarVa x a imm size
    let piece (p : Passed) : Piece :=
      { lane := 32, space := p.space, addr := p.addr, va := va, size := size, attr := p.attr
        data := (readS x.c x.k d.toNat).toNat % 2 ^ (8 * size) }
    accessScalar s x 4 (checkAccess s (askerOf x.c x.slot x.k) { acc := .write, size := size } 32 va) (goStore x piece)

/-- SLD32 (R322). -/
def execSld32 (d a imm : BitVec 8) (s : State) : Host.Outcome State Fault Refusal := scalarLoad s d a imm 4

/-- SLD64 (R322). -/
def execSld64 (d a imm : BitVec 8) (s : State) : Host.Outcome State Fault Refusal := scalarLoad s d a imm 8

/-- SST32 (R322). -/
def execSst32 (d a imm : BitVec 8) (s : State) : Host.Outcome State Fault Refusal := scalarStore s d a imm 4

/-- SST64 (R322). -/
def execSst64 (d a imm : BitVec 8) (s : State) : Host.Outcome State Fault Refusal := scalarStore s d a imm 8

/-! ## Typed-buffer loads and stores (R323) -/

/-- A lane load from a window of the coach's train. -/
def bufferLoad (s : State) (i : Instr) (kind : Nat) (d a imm : BitVec 8) (size : Nat) : Host.Outcome State Fault Refusal :=
  byCarriage s fun x =>
    let o (l : Nat) : Int := laneOffset x l a imm size
    let piece (p : Passed) : Piece :=
      { lane := p.lane, space := p.space, addr := p.addr, va := bufAddr kind (o p.lane), size := size
        dst := .vec (regRun x d.toNat (wordsOf size)) 32 false }
    accessLanes s x i 4 (lanesOf (activeOf x.c x.k)) (fun l => checkBuffer s x.c kind size l (o l)) (goLoad x piece)

/-- A lane store to a window of the coach's train. -/
def bufferStore (s : State) (i : Instr) (kind : Nat) (d a imm : BitVec 8) (size : Nat) : Host.Outcome State Fault Refusal :=
  byCarriage s fun x =>
    let o (l : Nat) : Int := laneOffset x l a imm size
    let piece (p : Passed) : Piece :=
      { lane := p.lane, space := p.space, addr := p.addr, va := bufAddr kind (o p.lane), size := size
        data := regData x p.lane d.toNat (wordsOf size) }
    accessLanes s x i 4 (lanesOf (activeOf x.c x.k)) (fun l => checkBuffer s x.c kind size l (o l)) (goStore x piece)

/-- ALD32 (R323). -/
def execAld32 (d a imm : BitVec 8) (s : State) : Host.Outcome State Fault Refusal := bufferLoad s (.ald32 d a imm) 1 d a imm 4

/-- ALD128 (R323). -/
def execAld128 (d a imm : BitVec 8) (s : State) : Host.Outcome State Fault Refusal := bufferLoad s (.ald128 d a imm) 1 d a imm 16

/-- AST32 (R323). -/
def execAst32 (d a imm : BitVec 8) (s : State) : Host.Outcome State Fault Refusal := bufferStore s (.ast32 d a imm) 1 d a imm 4

/-- AST128 (R323). -/
def execAst128 (d a imm : BitVec 8) (s : State) : Host.Outcome State Fault Refusal := bufferStore s (.ast128 d a imm) 1 d a imm 16

/-- CLD64 (R323). -/
def execCld64 (d a imm : BitVec 8) (s : State) : Host.Outcome State Fault Refusal := bufferLoad s (.cld64 d a imm) 3 d a imm 8

/-- CST64 (R323). -/
def execCst64 (d a imm : BitVec 8) (s : State) : Host.Outcome State Fault Refusal := bufferStore s (.cst64 d a imm) 3 d a imm 8

/-! ## Acquire, release and fence (R324, R325, R140) -/

/-- The cores of the scope of a VLDA or VSTL (R324): those of its entry, or of system scope where it reaches a host or peer window. -/
def syncScope (s : State) (x : Iss) (sc : Nat) (ps : List Passed) : BitVec 256 :=
  if ps.any fun p => p.space == .host || p.space == .peer then BitVec.allOnes 256 else scopeCores s x.c sc

/-- VLDA (R324): a 4-byte load that acquires at a scope entry. -/
def execVlda (d a : BitVec 8) (sc : BitVec 5) (s : State) : Host.Outcome State Fault Refusal :=
  byCarriage s fun x =>
    let va (l : Nat) : W64 := readPair x.c x.k l a.toNat
    let piece (p : Passed) : Piece :=
      { lane := p.lane, space := p.space, addr := p.addr, va := va p.lane, size := 4, attr := p.attr
        dst := .vec (regRun x d.toNat 1) 32 false }
    accessLanes s x (.vlda d a sc) 4 (lanesOf (activeOf x.c x.k))
      (fun l => checkAccess s (askerOf x.c x.slot x.k) { acc := .read, size := 4, control := false } l (va l))
      (fun s c ps => goLoad x piece (fun o => { o with acquire := true, scope := syncScope s x sc.toNat ps }) s c ps)

/-- VSTL (R324): a 4-byte store that releases at a scope entry. -/
def execVstl (d a : BitVec 8) (sc : BitVec 5) (s : State) : Host.Outcome State Fault Refusal :=
  byCarriage s fun x =>
    let va (l : Nat) : W64 := readPair x.c x.k l a.toNat
    let piece (p : Passed) : Piece :=
      { lane := p.lane, space := p.space, addr := p.addr, va := va p.lane, size := 4, attr := p.attr
        data := (readV x.c x.k p.lane d.toNat).toNat }
    accessLanes s x (.vstl d a sc) 4 (lanesOf (activeOf x.c x.k))
      (fun l => checkAccess s (askerOf x.c x.slot x.k) { acc := .write, size := 4, control := false } l (va l))
      (fun s c ps => goStore x piece (fun o => { o with release := true, scope := syncScope s x sc.toNat ps }) s c ps)

/-- The FENCE that a carriage issues now (R138, R325). -/
def fenceRec (s : State) (x : Iss) (sc : Nat) : FenceRec :=
  { lanes := x.k.lanes, wide := scopeWide x.c (scopeCores s x.c sc), stamp := s.nextId }

/-- Whether the conditions of a FENCE hold but for the L1 (R325): every earlier load, store, atomic and command of its coach is done; and
where its scope holds another core, so is every earlier store of its core's coaches, which it may cover (R140, R142). -/
def fenceMet (s : State) (c : Coach) (f : FenceRec) : Bool :=
  !(c.ops.any fun o => o.fenced && o.stamp < f.stamp)
    && !(f.wide && coreStoresBefore s c.gcore f.stamp)

/-- FENCE of a carriage (R325): it ends once its conditions hold, with the L1 invalidated where the scope holds another core; until then the
coach's memory instructions are held and the carriage is blocked. A carriage that comes back to a FENCE of its own goes on waiting. -/
def fenceStep (s : State) (x : Iss) (sc : Nat) : State :=
  let f := fenceRec s x sc
  if x.c.fences.any fun g => x.k.lanes &&& ~~~g.lanes == 0 then stall s x .fence
  else if fenceMet s x.c f then retire (if f.wide then l1Acquire s x.c.gcore else s) x x.c 4
  else s.setCoach x.c.key (waitFor { x.c with fences := x.c.fences ++ [f] } x.slot .fence)

/-- FENCE (R325). -/
def execFence (sc : BitVec 5) (s : State) : Host.Outcome State Fault Refusal := byCarriage s fun x => fenceStep s x sc.toNat

/-! ## Atomics (R326, R104) -/

/-- The fields of an atomic's literal (R326). -/
structure AtomLit where
  aop : Nat
  scope : Nat
  n : Nat
  order : Nat
  ret : Bool
  deriving DecidableEq, Repr

def atomLit (lit : W32) : AtomLit :=
  let w := lit.toNat
  { aop := bitsOf w 3 0, scope := bitsOf w 8 4, n := if bitOf w 9 then 64 else 32, order := bitsOf w 11 10, ret := bitOf w 12 }

/-- Whether the literal of a VATOM or SATOM holds a reserved value, or the d field one that the literal makes zero (R260, R326). -/
def atomReserved (d : BitVec 8) (lit : W32) : Bool :=
  let f := atomLit lit
  9 < f.aop || bitsOf lit.toNat 31 13 != 0 || (f.aop == 9 && f.n == 64) || (!f.ret && d != 0)

/-- Whether the literal of a VCAS holds a reserved value. -/
def casReserved (lit : W32) : Bool := bitsOf lit.toNat 3 0 != 0 || bitsOf lit.toNat 31 12 != 0

/-- The site of an atomic at an address (R104). -/
def siteOf (s : State) (c : Coach) (scope : BitVec 256) (wa : Nat) (a : Attr) : Site :=
  if a.bank then .bank
  else if !cacheOnAt s (lineOf wa) then .bank
  else if a.cp = 2 then (if (cacheLine s (lineOf wa)).isSome then .home else .bank)
  else if !scopeWide c scope && !a.atomic && a.cp == 0 then .l1
  else .home

/-- Issue an atomic: code `aop`, 16 for compare-and-swap. -/
def goAtomic (x : Iss) (f : AtomLit) (aop : Nat) (piece : Passed → Piece) : Issuing := fun s c ps =>
  let scope := scopeCores s c f.scope
  let mk (p : Passed) : Piece := { piece p with site := siteOf s c scope p.addr p.attr }
  let o := opOfIss x (if f.ret then .ld else .st) (.atomic aop f.n) (ps.map mk)
  some (issueOp s c { o with acquire := f.order % 2 == 1, release := 2 ≤ f.order, scope := scope })

/-- What an atomic asks for. -/
def wantAtomic (size : Nat) : Want := { acc := .atomic, size := size, control := false, windows := false }

/-- VATOM (R326). -/
def execVatom (d a b : BitVec 8) (lit : W32) (s : State) : Host.Outcome State Fault Refusal :=
  byCarriage s fun x =>
    let f := atomLit lit
    let k := f.n / 32
    let va (l : Nat) : W64 := readPair x.c x.k l a.toNat
    let piece (p : Passed) : Piece :=
      { lane := p.lane, space := p.space, addr := p.addr, va := va p.lane, size := f.n / 8, attr := p.attr
        data := regData x p.lane b.toNat k, dst := if f.ret then .vec (regRun x d.toNat k) 32 false else .none }
    if atomReserved d lit then literalTrap s x (activeOf x.c x.k)
    else accessLanes s x (.vatom d a b lit) 8 (lanesOf (activeOf x.c x.k))
      (fun l => checkAccess s (askerOf x.c x.slot x.k) (wantAtomic (f.n / 8)) l (va l)) (goAtomic x f f.aop piece)

/-- SATOM (R326): once for the carriage, with scalar operands. -/
def execSatom (d a b : BitVec 8) (lit : W32) (s : State) : Host.Outcome State Fault Refusal :=
  byCarriage s fun x =>
    let f := atomLit lit
    let va := readS x.c x.k a.toNat
    let piece (p : Passed) : Piece :=
      { lane := 32, space := p.space, addr := p.addr, va := va, size := f.n / 8, attr := p.attr
        data := (readS x.c x.k b.toNat).toNat % 2 ^ f.n, dst := if f.ret then .scalar (sTarget x.k d.toNat) else .none }
    if atomReserved d lit then literalTrap s x x.k.lanes
    else accessScalar s x 8 (checkAccess s (askerOf x.c x.slot x.k) (wantAtomic (f.n / 8)) 32 va) (goAtomic x f f.aop piece)

/-- VCAS (R326): the compare value at b, the new value behind it. -/
def execVcas (d a b : BitVec 8) (lit : W32) (s : State) : Host.Outcome State Fault Refusal :=
  byCarriage s fun x =>
    let f := { atomLit lit with ret := true }
    let k := f.n / 32
    let va (l : Nat) : W64 := readPair x.c x.k l a.toNat
    let piece (p : Passed) : Piece :=
      { lane := p.lane, space := p.space, addr := p.addr, va := va p.lane, size := f.n / 8, attr := p.attr
        data := regData x p.lane b.toNat k, data2 := regData x p.lane (b.toNat + k) k, dst := .vec (regRun x d.toNat k) 32 false }
    if casReserved lit then literalTrap s x (activeOf x.c x.k)
    else accessLanes s x (.vcas d a b lit) 8 (lanesOf (activeOf x.c x.k))
      (fun l => checkAccess s (askerOf x.c x.slot x.k) (wantAtomic (f.n / 8)) l (va l)) (goAtomic x f 16 piece)

/-! ## Memory commands (R327, R75) -/

/-- Issue the commands of an instruction under a tag. -/
def goCommand (x : Iss) (tag : Nat) (kind : CmdKind) (piece : Passed → Piece) : Issuing := fun s c ps =>
  some (issueOp s c (opOfIss x (.tag tag) (.cmd kind) (ps.map piece)))

/-- A memory command instruction: each lane names an element of `size` bytes (R327). MWRM is of write kind, and meets the checks of an
atomic otherwise, as a writable page is readable (R42) and a replicated one traps alike. -/
def command (s : State) (i : Instr) (reserved : Bool) (a : BitVec 8) (size kindCode tag : Nat) (kind : CmdKind)
    (fill : Iss → Nat → Piece → Piece) : Host.Outcome State Fault Refusal :=
  byCarriage s fun x =>
    let va (l : Nat) : W64 := readPair x.c x.k l a.toNat
    let piece (p : Passed) : Piece :=
      fill x p.lane { lane := p.lane, space := p.space, addr := p.addr, va := va p.lane, size := size, attr := p.attr, site := .bank }
    if reserved then literalTrap s x (activeOf x.c x.k)
    else accessLanes s x i 8 (lanesOf (activeOf x.c x.k))
      (fun l => checkAccess s (askerOf x.c x.slot x.k)
        { acc := .atomic, size := size, kind := kindCode, control := false, windows := false } l (va l))
      (goCommand x tag kind piece)

/-- The kind of an MRED: MredI by width, or MredF with its exponent (R327, R78). -/
def mredKind (lit : W32) : CmdKind :=
  match bitsOf lit.toNat 4 3 with
  | 0 => .mredI 32
  | 1 => .mredI 64
  | _ => .mredF (signExt (bitsOf lit.toNat 13 5) 9)

/-- Whether the literal of an MRED holds a reserved value. -/
def mredReserved (lit : W32) : Bool :=
  let k := bitsOf lit.toNat 4 3
  k == 3 || bitsOf lit.toNat 31 14 != 0 || (k != 2 && bitsOf lit.toNat 13 5 != 0)

/-- MRED (R327). -/
def execMred (a b : BitVec 8) (lit : W32) (s : State) : Host.Outcome State Fault Refusal :=
  let k := bitsOf lit.toNat 4 3
  command s (.mred a b lit) (mredReserved lit) a (if k = 0 then 4 else 8) 3 (bitsOf lit.toNat 2 0) (mredKind lit) fun x l p =>
    { p with data := regData x l b.toNat (if k = 1 then 2 else 1) }

/-- MCAS (R327). -/
def execMcas (d a b : BitVec 8) (lit : W32) (s : State) : Host.Outcome State Fault Refusal :=
  let k := if bitOf lit.toNat 3 then 2 else 1
  command s (.mcas d a b lit) (bitsOf lit.toNat 31 4 != 0) a (4 * k) 3 (bitsOf lit.toNat 2 0) (.mcas (32 * k)) fun x l p =>
    { p with data := regData x l b.toNat k, data2 := regData x l (b.toNat + k) k, dst := .vec (regRun x d.toNat k) 32 false }

/-- MSAX (R327): the factor v[b] and the eight values from d on. -/
def execMsax (d a b : BitVec 8) (lit : W32) (s : State) : Host.Outcome State Fault Refusal :=
  command s (.msax d a b lit) (bitsOf lit.toNat 31 3 != 0) a 32 3 (bitsOf lit.toNat 2 0) .msax fun x l p =>
    { p with data := (readV x.c x.k l b.toNat).toNat, data2 := regData x l d.toNat 8 }

/-- MWRM (R327): the word v[d] under the byte mask v[b][3:0]. -/
def execMwrm (d a b : BitVec 8) (lit : W32) (s : State) : Host.Outcome State Fault Refusal :=
  command s (.mwrm d a b lit) (bitsOf lit.toNat 31 3 != 0) a 4 2 (bitsOf lit.toNat 2 0) .mwrm fun x l p =>
    { p with data := (readV x.c x.k l d.toNat).toNat, data2 := (readV x.c x.k l b.toNat).toNat % 16 }

end Sys2Proof.Machine
end

