-- ==== Sys2Proof/Machine/Queue.lean ====
section
/-! DEFINITION. The outrider's stream instructions, opcodes 0xB0 to 0xB4 (14 R329, R330; 08 R205 to R208). A QLD, QST or QGAT issues the
accesses of one entry at a time and notes its progress (19 R412); each access is translated when it is performed. -/

namespace Sys2Proof.Machine

/-- A coach that issues an outrider instruction (R260): cause 0x12 for every active lane. -/
def queueFault (s : State) (x : Iss) (len : Nat) : State :=
  conclude s x x.c len ((lanesOf (activeOf x.c x.k)).map fun l => { lane := l, cause := 0x12, addr := x.k.pc })

/-- The accesses of one entry: the operation is outstanding, the entry is taken, and the instruction goes on behind its last entry. -/
def takeEntry (s : State) (r : CoachRef) (c : Coach) (q n : Nat) (kind : OpKind) (ps : List Piece) : State :=
  let p := portOf c q
  let c := { c with ports := mset c.ports q { p with taken := p.taken + 1 } }
  let (s, c) := if ps.isEmpty then (s, c)
    else issueOp s c { id := 0, counter := .none, kind := kind, pieces := ps, outrider := true }
  if c.outr.progress + 1 < n then s.setCoach r.key { c with outr := { c.outr with progress := c.outr.progress + 1, wait := false } }
  else retireOutrider s r { c with outr := { c.outr with progress := 0 } } 8

/-- Recompute how far an inbound port is filled, and how far an outbound one is drained: up to the first entry with an access still to be
performed. A drained entry's elements go. Once no lane lives, entries are freed as they are filled (R207). -/
def settlePort (c : Coach) (q : Nat) : Coach :=
  let p := portOf c q
  let open_ := c.ops.flatMap fun o => o.pieces.filterMap fun y =>
    match y.dst with
    | .elem q' e => if q' = q && y.phase < 2 && p.head ≤ e then some e else none
    | _ => none
  let upTo := open_.foldl min p.taken
  match p.dir with
  | .inbound => { c with ports := mset c.ports q (freeEntries c { p with filled := max p.filled upTo }) }
  | .outbound =>
    let h := max p.head upTo
    let p' := { p with head := h, elems := p.elems.filter fun e => 32 * h ≤ e.1 }
    { c with ports := mset c.ports q p' }
  | .none => c

/-- Whether a port has room for the entries that a QLD or QGAT has still to fill (R329). -/
def hasRoom (c : Coach) (q n : Nat) : Bool :=
  let p := portOf c q
  p.taken - p.head + (n - c.outr.progress) ≤ p.depth

/-- Whether the entries that a QST has still to drain are complete (R329). -/
def hasComplete (c : Coach) (q n : Nat) : Bool :=
  let p := portOf c q
  p.taken + (n - c.outr.progress) ≤ passedOf c p

/-- QLD and QGAT of an outrider context: `piece` gives the access of a lane's element of the entry with number j in the instruction. A reserved
literal value is a failure of the context's operands (DESIGN CHOICE, log entry 73). -/
def fillStep (s : State) (r : CoachRef) (c : Coach) (q n : Nat) (reserved : Bool) (piece : Nat → Nat → Piece) : State :=
  let p := portOf c q
  if reserved || p.dir != .inbound || p.depth < n then outriderFails s r.key c.outr.pc
  else if !hasRoom c q n then s
  else
    let ps := (liveOf c).map fun l => { piece c.outr.progress l with lane := l, size := 4, dst := .elem q p.taken }
    let s := takeEntry s r c q n .qread ps
    match coachOf s r.key with
    | some c => s.setCoach r.key (settlePort c q)
    | none => s

/-- The low field of a literal that gives n − 1 (R329). -/
def litCount (lit : W32) : Nat := bitsOf lit.toNat 5 0 + 1

/-- The address of an element of QLD and QST: s[a] + j·s[b] + i·lstride (R329). -/
def affine (c : Coach) (a b : BitVec 8) (lit : W32) (j i : Nat) : W64 :=
  readSD c (oTarget a.toNat) + BitVec.ofNat 64 j * readSD c (oTarget b.toNat)
    + BitVec.ofNat 64 i * (lit.extractLsb' 16 16).signExtend 64

/-- QLD (R329). DESIGN CHOICE, unsafe: a coach that issues QLD, QST or QGAT with a reserved literal value meets two rows of R260, 0x12 and 0x07,
which the spec does not order; the model raises 0x12 alone. -/
def execQld (q : BitVec 3) (a b : BitVec 8) (lit : W32) (s : State) : Host.Outcome State Fault Refusal :=
  byOutrider s (fun x => queueFault s x 8) fun r c =>
    fillStep s r c q.toNat (litCount lit) (bitsOf lit.toNat 15 6 != 0) fun j i =>
      { lane := i, addr := 0, va := affine c a b lit j i, size := 4 }

/-- QGAT (R329): the access is first that of the index word; `data` keeps the base and `data2` one more than the shift. -/
def execQgat (q : BitVec 3) (a b : BitVec 8) (lit : W32) (s : State) : Host.Outcome State Fault Refusal :=
  byOutrider s (fun x => queueFault s x 8) fun r c =>
    fillStep s r c q.toNat (litCount lit) (bitsOf lit.toNat 31 9 != 0) fun j i =>
      { lane := i, addr := 0, va := readSD c (oTarget b.toNat) + 4 * BitVec.ofNat 64 (32 * j + i), size := 4
        data := (readSD c (oTarget a.toNat)).toNat, data2 := bitsOf lit.toNat 8 6 + 1 }

/-- Whether an element of a complete entry is the zero of a lane that exited before it passed the entry (R207). -/
def zeroOfExited (c : Coach) (p : QPort) (e l : Nat) : Bool := c.exited.getLsbD l && p.posOf l ≤ e

/-- QST (R329). A reserved literal value is a failure of the context's operands (DESIGN CHOICE, log entry 73). -/
def execQst (q : BitVec 3) (a b : BitVec 8) (lit : W32) (s : State) : Host.Outcome State Fault Refusal :=
  byOutrider s (fun x => queueFault s x 8) fun r c =>
    let n := litCount lit
    let p := portOf c q.toNat
    let e := p.taken
    if bitsOf lit.toNat 15 7 != 0 || p.dir != .outbound || p.depth < n then outriderFails s r.key c.outr.pc
    else if !hasComplete c q.toNat n then s
    else
      let ls := laneNums.filter fun l => !(bitOf lit.toNat 6 && zeroOfExited c p e l)
      let piece (l : Nat) : Piece :=
        { lane := l, addr := 0, va := affine c a b lit c.outr.progress l, size := 4, dst := .elem q.toNat e
          data := if zeroOfExited c p e l then 0 else (rget p.elems (elemKey e l)).toNat }
      let s := takeEntry s r c q.toNat n .qwrite (ls.map piece)
      match coachOf s r.key with
      | some c => s.setCoach r.key (settlePort c q.toNat)
      | none => s

/-- The entries of a port that QCNT counts (R330). -/
def queueCount (c : Coach) (q : Nat) : Nat :=
  let p := portOf c q
  match p.dir with
  | .inbound => p.filled - p.head
  | .outbound => passedOf c p - p.head
  | .none => 0

/-- QCNT (R330). -/
def execQcnt (d : BitVec 8) (q : BitVec 3) (s : State) : Host.Outcome State Fault Refusal :=
  byOutrider s (fun x => queueFault s x 4) fun r c =>
    retireOutrider s r (writeSD c (oTarget d.toNat) (BitVec.ofNat 64 (queueCount c q.toNat))) 4

/-- QEND (R330): the program ends. -/
def execQend (s : State) : Host.Outcome State Fault Refusal :=
  byOutrider s (fun x => queueFault s x 4) fun r c => s.setCoach r.key { c with outr := { c.outr with qend := true } }

/-- The end of an outrider context (R330): its program has ended and every access is performed. -/
def outriderOver (c : Coach) : Bool :=
  c.outr.live && c.outr.qend && !c.outr.ended && !(c.ops.any Op.outrider)

end Sys2Proof.Machine
end

