-- ==== Sys2Proof/Machine/Scalar.lean ====
section
/-! DEFINITION. Scalar instructions (11 R262 to R271): one meaning for each, over the shared scalar step. They have no lanes, read no mode,
raise no flag and no trap (R262), and run in outrider contexts as well (R265). -/

namespace Sys2Proof.Machine

/-- The value of a 64-bit pattern read as two's complement. -/
def sval (x : W64) : Int := x.toInt

/-- r[63:0] of an integer. -/
def wrap64 (n : Int) : W64 := BitVec.ofInt 64 n

/-- A scalar instruction of two registers: s[d] ← f(s[a], s[b]). -/
def scalar2 (s : State) (d a b : BitVec 8) (f : W64 → W64 → W64) : Host.Outcome State Fault Refusal :=
  scalar s 4 d fun r => f (r a.toNat) (r b.toNat)

/-- A scalar instruction of one register: s[d] ← f(s[a]). -/
def scalar1 (s : State) (d a : BitVec 8) (f : W64 → W64) : Host.Outcome State Fault Refusal :=
  scalar s 4 d fun r => f (r a.toNat)

/-- SADD (R266): r = x + y. -/
def opSadd (x y : W64) : W64 := x + y

/-- SSUB (R266): r = x − y. -/
def opSsub (x y : W64) : W64 := x - y

/-- SMUL (R266): r = x · y. -/
def opSmul (x y : W64) : W64 := x * y

/-- SMULH (R266): the high half of the signed product. -/
def opSmulh (x y : W64) : W64 := wrap64 (sval x * sval y / 2 ^ 64)

/-- SMULHU (R266): the high half of the unsigned product. -/
def opSmulhu (x y : W64) : W64 := BitVec.ofNat 64 (x.toNat * y.toNat / 2 ^ 64)

/-- SDIV (R266): signed quotient, truncated; 2^64 − 1 for a zero divisor. -/
def opSdiv (x y : W64) : W64 := if y = 0 then BitVec.allOnes 64 else wrap64 ((sval x).tdiv (sval y))

/-- SDIVU (R266): unsigned quotient; 2^64 − 1 for a zero divisor. -/
def opSdivu (x y : W64) : W64 := if y = 0 then BitVec.allOnes 64 else BitVec.ofNat 64 (x.toNat / y.toNat)

/-- SREM (R266): signed remainder; x for a zero divisor. -/
def opSrem (x y : W64) : W64 := if y = 0 then x else wrap64 ((sval x).tmod (sval y))

/-- SREMU (R266): unsigned remainder; x for a zero divisor. -/
def opSremu (x y : W64) : W64 := if y = 0 then x else BitVec.ofNat 64 (x.toNat % y.toNat)

/-- SAND (R266): r = x & y. -/
def opSand (x y : W64) : W64 := x &&& y

/-- SOR (R266): r = x | y. -/
def opSor (x y : W64) : W64 := x ||| y

/-- SXOR (R266): r = x ^ y. -/
def opSxor (x y : W64) : W64 := x ^^^ y

/-- SSHL (R266): x << y[5:0]. -/
def opSshl (x y : W64) : W64 := x <<< (y.toNat % 64)

/-- SSHR (R266): logical x >> y[5:0]. -/
def opSshr (x y : W64) : W64 := x >>> (y.toNat % 64)

/-- SSRA (R266): arithmetic x >> y[5:0]. -/
def opSsra (x y : W64) : W64 := x.sshiftRight (y.toNat % 64)

/-- SMIN (R266): the lesser, signed. -/
def opSmin (x y : W64) : W64 := if sval x ≤ sval y then x else y

/-- SMAX (R266): the greater, signed. -/
def opSmax (x y : W64) : W64 := if sval x ≤ sval y then y else x

/-- SMINU (R266): the lesser, unsigned. -/
def opSminu (x y : W64) : W64 := if x.toNat ≤ y.toNat then x else y

/-- SMAXU (R266): the greater, unsigned. -/
def opSmaxu (x y : W64) : W64 := if x.toNat ≤ y.toNat then y else x

/-- SSLT (R266): 1 if x < y, signed. -/
def opSslt (x y : W64) : W64 := if sval x < sval y then 1 else 0

/-- SSLTU (R266): 1 if x < y, unsigned. -/
def opSsltu (x y : W64) : W64 := if x.toNat < y.toNat then 1 else 0

/-- SSEQ (R266): 1 if x = y. -/
def opSseq (x y : W64) : W64 := if x = y then 1 else 0

/-- SADDI (R267): x + SignExt(imm8, 8). -/
def opSaddi (x : W64) (i : BitVec 8) : W64 := x + i.signExtend 64

/-- SIMM (R268): SignExt(imm16, 16). -/
def opSimm (i : BitVec 16) : W64 := i.signExtend 64

/-- SLIT (R269): SignExt(Lit(), 32). -/
def opSlit (lit : W32) : W64 := lit.signExtend 64

/-- SLITH (R269): Lit() ‖ x[31:0]. -/
def opSlith (x : W64) (lit : W32) : W64 := lit ++ x.setWidth 32

/-- SCLZ (R266): leading zero bits. -/
def opSclz (x : W64) : W64 := BitVec.ofNat 64 (clzNat 64 x.toNat)

/-- SPOPC (R266): one bits. -/
def opSpopc (x : W64) : W64 := BitVec.ofNat 64 (popNat 64 x.toNat)

/-- The position, width and sign of a field descriptor (R270). -/
def fieldPos (y : W64) : Nat := bitsOf y.toNat 5 0
def fieldWidth (y : W64) : Nat := min (bitsOf y.toNat 14 8) 64
def fieldSigned (y : W64) : Bool := y.getLsbD 16

/-- SBFX (R270). -/
def opSbfx (x y : W64) : W64 := BitVec.ofNat 64 (bitFieldExtract 64 x.toNat (fieldPos y) (fieldWidth y) (fieldSigned y))

/-- SBFI (R270), with the old s[d]. -/
def opSbfi (old x y : W64) : W64 := BitVec.ofNat 64 (bitFieldInsert 64 old.toNat x.toNat (fieldPos y) (fieldWidth y))

/-- SSEL (R271). -/
def opSsel (c x y : W64) : W64 := if c ≠ 0 then x else y

/-- SADD (R266). -/
def execSadd (d a b : BitVec 8) (s : State) : Host.Outcome State Fault Refusal := scalar2 s d a b opSadd

/-- SSUB (R266). -/
def execSsub (d a b : BitVec 8) (s : State) : Host.Outcome State Fault Refusal := scalar2 s d a b opSsub

/-- SMUL (R266). -/
def execSmul (d a b : BitVec 8) (s : State) : Host.Outcome State Fault Refusal := scalar2 s d a b opSmul

/-- SMULH (R266). -/
def execSmulh (d a b : BitVec 8) (s : State) : Host.Outcome State Fault Refusal := scalar2 s d a b opSmulh

/-- SMULHU (R266). -/
def execSmulhu (d a b : BitVec 8) (s : State) : Host.Outcome State Fault Refusal := scalar2 s d a b opSmulhu

/-- SDIV (R266). -/
def execSdiv (d a b : BitVec 8) (s : State) : Host.Outcome State Fault Refusal := scalar2 s d a b opSdiv

/-- SDIVU (R266). -/
def execSdivu (d a b : BitVec 8) (s : State) : Host.Outcome State Fault Refusal := scalar2 s d a b opSdivu

/-- SREM (R266). -/
def execSrem (d a b : BitVec 8) (s : State) : Host.Outcome State Fault Refusal := scalar2 s d a b opSrem

/-- SREMU (R266). -/
def execSremu (d a b : BitVec 8) (s : State) : Host.Outcome State Fault Refusal := scalar2 s d a b opSremu

/-- SAND (R266). -/
def execSand (d a b : BitVec 8) (s : State) : Host.Outcome State Fault Refusal := scalar2 s d a b opSand

/-- SOR (R266). -/
def execSor (d a b : BitVec 8) (s : State) : Host.Outcome State Fault Refusal := scalar2 s d a b opSor

/-- SXOR (R266). -/
def execSxor (d a b : BitVec 8) (s : State) : Host.Outcome State Fault Refusal := scalar2 s d a b opSxor

/-- SSHL (R266). -/
def execSshl (d a b : BitVec 8) (s : State) : Host.Outcome State Fault Refusal := scalar2 s d a b opSshl

/-- SSHR (R266). -/
def execSshr (d a b : BitVec 8) (s : State) : Host.Outcome State Fault Refusal := scalar2 s d a b opSshr

/-- SSRA (R266). -/
def execSsra (d a b : BitVec 8) (s : State) : Host.Outcome State Fault Refusal := scalar2 s d a b opSsra

/-- SMIN (R266). -/
def execSmin (d a b : BitVec 8) (s : State) : Host.Outcome State Fault Refusal := scalar2 s d a b opSmin

/-- SMAX (R266). -/
def execSmax (d a b : BitVec 8) (s : State) : Host.Outcome State Fault Refusal := scalar2 s d a b opSmax

/-- SMINU (R266). -/
def execSminu (d a b : BitVec 8) (s : State) : Host.Outcome State Fault Refusal := scalar2 s d a b opSminu

/-- SMAXU (R266). -/
def execSmaxu (d a b : BitVec 8) (s : State) : Host.Outcome State Fault Refusal := scalar2 s d a b opSmaxu

/-- SSLT (R266). -/
def execSslt (d a b : BitVec 8) (s : State) : Host.Outcome State Fault Refusal := scalar2 s d a b opSslt

/-- SSLTU (R266). -/
def execSsltu (d a b : BitVec 8) (s : State) : Host.Outcome State Fault Refusal := scalar2 s d a b opSsltu

/-- SSEQ (R266). -/
def execSseq (d a b : BitVec 8) (s : State) : Host.Outcome State Fault Refusal := scalar2 s d a b opSseq

/-- SADDI (R267). -/
def execSaddi (d a i : BitVec 8) (s : State) : Host.Outcome State Fault Refusal := scalar1 s d a fun x => opSaddi x i

/-- SIMM (R268). -/
def execSimm (d : BitVec 8) (i : BitVec 16) (s : State) : Host.Outcome State Fault Refusal := scalar s 4 d fun _ => opSimm i

/-- SLIT (R269). -/
def execSlit (d : BitVec 8) (lit : W32) (s : State) : Host.Outcome State Fault Refusal := scalar s 8 d fun _ => opSlit lit

/-- SLITH (R269). -/
def execSlith (d a : BitVec 8) (lit : W32) (s : State) : Host.Outcome State Fault Refusal :=
  scalar s 8 d fun r => opSlith (r a.toNat) lit

/-- SMOV (R266). -/
def execSmov (d a : BitVec 8) (s : State) : Host.Outcome State Fault Refusal := scalar1 s d a fun x => x

/-- SCLZ (R266). -/
def execSclz (d a : BitVec 8) (s : State) : Host.Outcome State Fault Refusal := scalar1 s d a opSclz

/-- SPOPC (R266). -/
def execSpopc (d a : BitVec 8) (s : State) : Host.Outcome State Fault Refusal := scalar1 s d a opSpopc

/-- SBFX (R270). -/
def execSbfx (d a b : BitVec 8) (s : State) : Host.Outcome State Fault Refusal := scalar2 s d a b opSbfx

/-- SBFI (R270): reads s[d] as well. -/
def execSbfi (d a b : BitVec 8) (s : State) : Host.Outcome State Fault Refusal :=
  scalar s 4 d fun r => opSbfi (r d.toNat) (r a.toNat) (r b.toNat)

/-- SSEL (R271): reads s[d] as the condition. -/
def execSsel (d a b : BitVec 8) (s : State) : Host.Outcome State Fault Refusal :=
  scalar s 4 d fun r => opSsel (r d.toNat) (r a.toNat) (r b.toNat)

end Sys2Proof.Machine
end

