-- ==== Sys2Proof/Machine/Lifecycle.lean ====
section
/-! DEFINITION. How coaches and trains end (08 R195, R204, R212): the completion tree with its signal words and interrupts (18 R400),
retiring trains (07 R170), and the accesses to memory that firmware and dispatchers make at once (18 R386). -/

namespace Sys2Proof.Machine

/-- Whether a PASID is being torn down (R60). -/
def tearing (s : State) (pasid : BitVec 20) : Bool := s.teardown == some pasid

/-! ## Accesses made at once -/

/-- The path of an access from a chassis to the home of a byte (R176 to R178): a broken ring fails it, and one that is not open at this
moment makes its step wait. -/
def enterPath (s : State) (ch wa : Nat) : Option Nat × State :=
  let d := (homeAt wa).d
  if !reachable s ch d then (some 0x20, s)
  else (none, if pathOpen s ch d then s else holdStep s)

/-- The value at a physical address of local memory, read at its home for a chassis, or the cause of an error. -/
def readPa (s : State) (ch pa n : Nat) : Except Nat Nat × State :=
  match resolve pa with
  | none => (.error 0x20, s)
  | some h =>
    match enterPath s ch h.wa with
    | (some e, s) => (.error e, s)
    | (none, s) =>
      match tryRead s plainAttr h.wa n with
      | (.ok bs, s) => (.ok (leNat bs), s)
      | (.error e, s) => (.error e, s)

/-- The value that a unit with no place for an error takes from an address: a free one where the read fails (log entry 61). -/
def loadPa (s : State) (ch pa n : Nat) : Nat × State :=
  match readPa s ch pa n with
  | (.ok v, s) => (v, s)
  | (.error _, s) => let (bs, s) := takeFreeBytes s n; (leNat bs, s)

/-- Write a value at a physical address of local memory for a chassis; on a replicated page, into each copy (R47, R148). A write that fails
is lost and logged (R71, R84). -/
def storePa (s : State) (ch pa n x : Nat) (a : Attr) : State :=
  match resolve pa with
  | some h =>
    (if a.repl then dies.map fun d => d * 2 ^ 36 + h.wa % 2 ^ 36 else [h.wa]).foldl (fun s wa =>
      match enterPath s ch wa with
      | (some _, s) => s
      | (none, s) => (tryWrite s none wa (leBytes n x) a).2) s
  | none => s

/-- Set the a and d bits that a walk found missing, each by compare-exchange against the value read (R49), `mine` being the entries that it
has updated with the values it read and wrote; when an entry has changed, how many reads were left when its stage began. -/
def setUsed (ch : Nat) (mine : List (Nat × Nat × Nat)) : State → List Used → Option Nat × State
  | s, [] => (none, s)
  | s, u :: us =>
    let now := match mine.find? fun e => e.1 == u.addr && e.2.1 == u.value with
      | some e => e.2.2
      | none => u.value
    let bits := usedBits now u.write
    if bits = 0 then setUsed ch mine s us else
    let (x, s) := loadPa s ch u.addr 8
    if x = now then setUsed ch ((u.addr, u.value, x + bits) :: mine) (storePa s ch u.addr 8 (x + bits) plainAttr) us
    else (some u.left, s)

/-- Run a walk whose table reads return at once, up to the 41 reads of R45, for a chassis. A compare-exchange finds what the walk has just
read. -/
def walkNow (s : State) (r : Roots) (m : Miss) : Nat → List (Nat × W64) → Except XFault TlbEntry × State
  | 0, _ => (.error { cause := 4, addr := 0, reason := 2, stage := 1, wlevel := 5 }, s)
  | n + 1, rs =>
    let ch := m.core / 16
    match walk r m rs with
    | .need a us =>
      (match readPa s ch a 8 with
      | (.ok x, s) => walkNow s r m n (rs ++ [(a, BitVec.ofNat 64 x)])
      | (.error e, s) => (.error { cause := e, addr := BitVec.ofNat 64 a, reason := 0, stage := 0, wlevel := 0, own := false },
          (setUsed ch [] s us).2))
    | .fail f us => (.error f, (setUsed ch [] s us).2)
    | .ok w _ _ => (.ok w.entry, (setUsed ch [] s w.used).2)

/-- Translate as a U carriage of a context does (R386), on a chassis, at once. -/
def translateNow (s : State) (ch vmid pasid : Nat) (a : Acc) (va : W64) : Except XFault (Nat × Attr) × State :=
  if va.toNat / 2 ^ 56 ≠ 0 then (.error { cause := 7, addr := va, reason := 0, stage := 0, wlevel := 0 }, s) else
  let ctx : Ctx := { vmid := vmid, pasid := pasid, hyp := false }
  let m : Miss := { core := 16 * ch, ctx := ctx, page := va.toNat / 4096, acc := a, level := .U }
  match walkNow s (rootsOf (chassisOf s ch)) m 48 [] with
  | (.error f, s) => (.error (if f.own then { f with addr := va } else f), s)
  | (.ok e, s) => (.ok (place e a ch (e.addr va), e.attr), s)

/-- A translated address of local memory, or none (R387). -/
def localNow (s : State) (ch vmid pasid : Nat) (a : Acc) (va : W64) : Option (Nat × Attr) × State :=
  match translateNow s ch vmid pasid a va with
  | (.ok (pa, at_), s) => (if regionOf pa = .dram then some (pa, at_) else none, s)
  | (.error _, s) => (none, s)

/-- The VMID of a chassis's partition (R36, R38). -/
def vmidOf (s : State) (d : Nat) : Nat := bitsOf (chassisOf s d).s2tb.toNat 63 52

/-- Bytes of a context's memory, page by page; none where a page does not translate into local memory, or cannot be read (log entry 61). -/
def readNow (s : State) (ch vmid pasid : Nat) (va : W64) : Nat → Option (List Byte) × State
  | 0 => (some [], s)
  | n + 1 =>
    match localNow s ch vmid pasid .read va with
    | (none, s) => (none, s)
    | (some (pa, _), s) =>
      match readPa s ch pa 1 with
      | (.error _, s) => (none, s)
      | (.ok x, s) =>
        match readNow s ch vmid pasid (va + 1) n with
        | (none, s) => (none, s)
        | (some bs, s) => (some (BitVec.ofNat 8 x :: bs), s)

/-! ## Completion events (R204, R400) -/

/-- The width of a field of a launch's work ids. -/
def Launch.width (l : Launch) (k : Nat) : Nat := l.widths.getD k 0

/-- The extent of a field (R391). -/
def Launch.extent (l : Launch) (k : Nat) : Nat := l.extents.getD k 1

/-- Whether a coach takes a place on its partition: one that has ended (R195) or been evicted (R412) does not. -/
def Coach.occupies (c : Coach) : Bool :=
  !c.gone && (match c.resid with
    | .saved _ _ => false
    | _ => true)

/-- How many trains agree on every field above fk (R204): e1 · … · ek. -/
def Launch.nodeSize (l : Launch) (k : Nat) : Nat := (List.range k).foldl (fun n i => n * l.extent (i + 1)) 1

/-- Update the signal word of a launch indivisibly (R400); where it does not translate, the update goes to the host in a signal-failed event, as
it makes the word from zero (DESIGN CHOICE, log entry 78). -/
def signal (s : State) (l : Launch) (ch : Nat) (f : Nat → Nat) : State :=
  match localNow s ch (vmidOf s ch) l.pasid.toNat .atomic l.sig with
  | (some (pa, a), s) =>
    let (x, s) := loadPa s ch pa 8
    storePa s ch pa 8 (f x) a
  | (none, s) => sendEvent s { ty := 8, ch := ch, who := l.queue, data := [f 0] }

/-- One more node in bits [31:0]. -/
def addNode (x : Nat) : Nat := x - bitsOf x 31 0 + (bitsOf x 31 0 + 1) % 2 ^ 32

/-- The top-level update (R400): done, badexit, error. -/
def addDone (badexit : Nat) (err : Bool) (x : Nat) : Nat :=
  bitsOf x 31 0 + 2 ^ 32 * ((bitsOf x 47 32 + 1) % 2 ^ 16) + 2 ^ 48 * min 0x7FFF (bitsOf x 62 48 + badexit)
    + (if bitOf x 63 || err then 2 ^ 63 else 0)

/-- The interrupt of an event of a level (R400): a function has 64 vectors (21 R431), and a vector beyond them sends nothing (DESIGN CHOICE, log
entry 77). -/
def interrupt (s : State) (l : Launch) (k : Nat) : State :=
  if l.ev.getLsbD (2 * k + 1) && l.vector < 64 then { s with msix := s.msix ++ [(l.func, l.vector)] } else s

/-- What one event of the completion tree does (R204, R400): the signal word is updated, at the top level always, then the interrupt is
sent. No node is counted at the top level (26 R455). -/
def raiseOwed (s : State) (l : Launch) (e : Owed) : State :=
  let s := s.setLaunch l.id fun l => { l with owed := l.owed.drop 1 }
  if e.level < 5 then
    let s := if l.ev.getLsbD (2 * e.level) then signal s l e.ch addNode else s
    interrupt s l e.level
  else
    let s := signal s l e.ch (addDone l.badexit (e.err || l.copyErr || l.badexit != 0))
    (interrupt s l 5).setLaunch l.id fun l => { l with topDone := true }

/-- Whether the events of a launch are releases that must still wait (R142, R154): for the outrider contexts of coaches that have ended, and
for stores that its coaches may have read in an L1. -/
def launchWaits (s : State) (l : Launch) : Bool :=
  s.coaches.any (fun e => e.2.gone && e.2.launch == l.id) || l.covers.any fun e => coreStoresBefore s e.1 e.2

/-- Raise the next event of a launch, if it can be raised now; one whose signal word cannot be reached waits. -/
def payOne (s : State) (id : Nat) : State :=
  match launchOf s id with
  | none => s
  | some l =>
    match l.owed with
    | [] => s
    | e :: _ => if launchWaits s l then s else during (.events l.id) .clean (fun s => raiseOwed s l e) s

/-- Raise every event of a launch that can be raised. -/
def payOwed (s : State) (id : Nat) : State :=
  ((launchOf s id).elim [] Launch.owed).foldl (fun s _ => payOne s id) s

/-- Events are to be raised. -/
def owe (s : State) (id : Nat) (es : List Owed) : State := payOwed (s.setLaunch id fun l => { l with owed := l.owed ++ es }) id

/-- The top-level event (R400). -/
def topEvent (s : State) (l : Launch) (ch : Nat) (err : Bool) : State := owe s l.id [{ level := 5, ch := ch, err := err }]

/-- A train of a launch has completed (R204): the nodes that it completes, from below, then the launch. -/
def launchTrainDone (s : State) (id index ch : Nat) : State :=
  let s := s.setLaunch id fun l => { l with done := if l.done.contains index then l.done else l.done ++ [index] }
  match launchOf s id with
  | none => s
  | some l =>
    if l.stopped then s else
    let whole (k : Nat) : Bool :=
      let n := l.nodeSize (k + 1)
      (l.done.filter fun t => t / n == index / n).length == n
    let nodes : List Owed := ((List.range 5).filter fun k => l.width (k + 1) != 0 && whole k).map fun k => { level := k, ch := ch }
    owe s id (nodes ++ if l.done.length = l.trains then [{ level := 5, ch := ch }] else [])

/-! ## Trains (R170, R204, R212) -/

/-- Whether a train's copy program has completed (R393). -/
def programDone (s : State) (t : Train) : Bool := !(s.copies.any fun y => y.train == t.id && y.issuer.isNone)

/-- Free what a retiring train holds (R170, R396): its matrix units and itself, with its stream contexts. -/
def retireTrain (s : State) (t : Train) : State :=
  let s := t.cores.foldl (fun s k =>
    let c := coreOf s t.ch k
    if c.holder = some t.id then s.setCore t.ch k { c with holder := none } else s) s
  { s with
    trains := s.trains.filter fun u => u.id != t.id
    streams := s.streams.filter fun z => z.train != t.id
    copies := s.copies.filter fun y => y.train != t.id }

/-- Whether every piece that a stream context carries has been performed and credited (R170). -/
def Stream.idle (z : Stream) : Bool := z.err || z.sent == z.credited

/-- Retire a completed train once its stream contexts are idle (R170). -/
def tryRetire (s : State) (id : Nat) : State :=
  match trainOf s id with
  | none => s
  | some t =>
    if t.completed && (s.streams.filter fun z => z.train == id).all Stream.idle then retireTrain s t else s

/-- A train has completed, if its coaches and the yard coaches of its records have ended and its copy program has completed (R204, R393). The
train of a yard coach stands outside the completion tree (R212). -/
def checkTrain (s : State) (id : Nat) : State :=
  match trainOf s id with
  | none => s
  | some t =>
    if t.completed || t.left != 0 || t.yardLeft != 0 || !programDone s t then s else
    let s := s.setTrain id fun t => { t with completed := true }
    let s := if t.yard then s else launchTrainDone s t.launch t.index t.ch
    tryRetire s id

/-- Whether a coach has ended (R195): every lane has exited, and nothing that its lanes issued is outstanding. -/
def coachOver (c : Coach) : Bool := c.exited == BitVec.allOnes 32 && c.ops.all Op.outrider

/-- Whether the outrider context of a coach that has ended has nothing more to do (R154, R205): its program has ended or failed, and its accesses
are performed. -/
def outriderDone (c : Coach) : Bool := c.ops.isEmpty && (!c.outr.live || c.outr.ended || c.outr.failed.isSome)

/-- A yard coach has ended: its records no longer count against the trains of the lanes that deposited them (R212). -/
def releaseRecords (s : State) (c : Coach) : State :=
  match (if c.yard then trainOf s c.train else none) with
  | some t => t.parents.foldl (fun s p => checkTrain (s.setTrain p.1 fun u => { u with yardLeft := u.yardLeft - p.2 }) p.1) s
  | none => s

/-- End a coach, if it is over (R195): its place is free, its train counts it, and what its coaches may have read is remembered for the
release of its launch. It stays, over, while its outrider context has accesses to make. -/
def checkCoach (s : State) (key : Nat) : State :=
  match coachOf s key with
  | none => s
  | some c =>
    if !coachOver c then s
    else if c.gone then (if outriderDone c then payOwed { s with coaches := mdel s.coaches key } c.launch else s)
    else
      let s := { s with coaches := if outriderDone c then mdel s.coaches key else mset s.coaches key { c with gone := true } }
      let s := s.setLaunch c.launch fun l =>
        { l with covers := mset l.covers c.gcore (max ((mget l.covers c.gcore).getD 0) c.last) }
      let s := releaseRecords s c
      let s := s.setTrain c.train fun t => { t with left := t.left - 1 }
      checkTrain s c.train

/-- Lanes exit from a coach with codes that count when they are not zero (R195, R361, R400). -/
def exitFrom (s : State) (c : Coach) (m : Mask) (bad : Nat) : State :=
  let s := s.setCoach c.key (exitLanes c m)
  let s := if bad = 0 then s else s.setLaunch c.launch fun l => { l with badexit := l.badexit + bad }
  checkCoach s c.key

end Sys2Proof.Machine
end

