-- ==== Sys2Proof/Machine/Teardown.lean ====
section
/-! DEFINITION. PASID teardown (02 R59 to R61) and what the firmware core knows of its queues (18 R384, R390). -/

namespace Sys2Proof.Machine

/-- The address of a queue descriptor (R384). -/
def descAddr (s : State) (q : Nat) : Nat := bitsOf s.qtbase.toNat 51 12 * 4096 + 64 * q

/-- A field of a queue descriptor as it stands in memory. -/
def descField (s : State) (q off n : Nat) : Nat := (loadPa s 0 (descAddr s q + off) n).1

/-- The PASID of a queue. -/
def queuePasid (s : State) (q : Nat) : Nat := bitsOf (descField s q 8 4) 19 0

/-- The slots of the firmware core (R390). -/
def fwSlotOf (s : State) (n : Nat) : FwSlot := (mget s.fwSlots n).getD {}

/-- Unmap the slots that serve some queues. -/
def unmapWhere (s : State) (p : Nat → Bool) : State :=
  { s with fwSlots := s.fwSlots.map fun e => (e.1, if e.2.valid && p e.2.queue then { e.2 with valid := false } else e.2) }

/-- The key of no coach. -/
def nobody : Nat := 2 ^ 16

/-- What a core and its chassis hold for coaches that are gone: their matrix instructions and contributions run on for no one, and their
carriages wait for nothing. -/
def orphanCore (gone : Nat → Bool) (k : Core) : Core :=
  { k with
    matq := k.matq.map fun m => if gone m.coach then { m with coach := nobody } else m
    misses := k.misses.map fun m => { m with who := m.who.filter fun w => !gone w.1, others := m.others.filter fun w => !gone w.1 }
    failed := k.failed.filter fun f => !f.miss.who.any fun w => gone w.1 }

/-- The coaches that are gone have issued nothing that ends in them (R60): their keys name no one, or coaches formed later. -/
def orphan (s : State) (gone : Nat → Bool) : State :=
  let strip (m : Miss) : Miss := { m with who := m.who.filter fun w => !gone w.1, others := m.others.filter fun w => !gone w.1 }
  { s with
    copies := s.copies.map fun y => if y.issuer.any fun i => gone i.1 then { y with issuer := none } else y
    reductions := s.reductions.map fun r =>
      { r with contribs := r.contribs.map fun x => if gone x.coach then { x with coach := nobody } else x }
    chassis := s.chassis.map fun c => (c.1,
      { c.2 with
        requests := c.2.requests.filter fun r => !gone r.1
        misses := c.2.misses.map strip
        walks := c.2.walks.map fun w => { w with miss := strip w.miss }
        cores := c.2.cores.map fun k => (k.1, orphanCore gone k.2) }) }

/-- Steps 1 to 3 of R60: queues are unmapped, launches start no further train and raise no event, and every lane of the PASID is gone. Of the
stores that it issued, those not yet performed are not performed. -/
def stopPasid (s : State) (pasid : BitVec 20) : State :=
  let s := unmapWhere s fun q => queuePasid s q == pasid.toNat
  let ends (e : Nat × Coach) : Bool := e.2.pasid == pasid && (e.2.occupies || e.2.gone)
  let keys := (s.coaches.filter ends).map Prod.fst
  let s := orphan s keys.contains
  { s with
    fwWaiting := s.fwWaiting.filter fun q => queuePasid s q != pasid.toNat
    gangHold := if (s.gangHold.bind (launchOf s)).any (fun l => l.pasid == pasid) then none else s.gangHold
    launches := s.launches.map fun l => if l.pasid = pasid then { l with stopped := true, owed := [], held := [], places := 0, counter := l.trains }
      else l
    coaches := s.coaches.filter fun e => !ends e }

/-- A write of sv.teardown starts teardown; one while busy has no effect (R59). A teardown that a function-level reset runs (21 R434) shows in
sv.teardown too (DESIGN CHOICE, log entry 75). -/
def startTeardown (s : State) (pasid : BitVec 20) : State :=
  if s.teardown.isSome then s
  else { stopPasid s pasid with teardown := some pasid, teardownPasid := pasid }

/-- Whether a walk for a PASID still runs (step 7 of R60). -/
def walksFor (s : State) (pasid : Nat) : Bool :=
  s.chassis.any fun c => c.2.walks.any fun w => !w.miss.ctx.hyp && w.miss.ctx.pasid == pasid

/-- Drop what one chassis holds of a PASID: its save slots, its misses, which start no walk, what its walks have brought, and its programmable
scope entries (steps 4, 7, 8 of R60). -/
def dropFromChassis (pasid : Nat) (used : List Nat) (c : Chassis) : Chassis :=
  let other (x : Ctx) : Bool := x.hyp || x.pasid != pasid
  let strip (es : List TlbEntry) : List TlbEntry := es.filter fun e => !e.hit 1 pasid e.ctx.vmid 0
  { c with
    saveUsed := c.saveUsed.filter fun i => !used.contains i
    misses := c.misses.filter fun m => other m.ctx
    table := []
    tlb := strip c.tlb
    scopes := c.scopes.filter fun e => e.1 / 32 % 2 ^ 20 != pasid
    cores := c.cores.map fun k => (k.1,
      { k.2 with
        tlb := strip k.2.tlb
        misses := k.2.misses.filter fun m => other m.ctx
        failed := k.2.failed.filter fun f => other f.miss.ctx }) }

/-- Whether a train belongs to a launch of a PASID. -/
def ofPasid (s : State) (pasid : BitVec 20) (launch : Nat) : Bool := (launchOf s launch).any fun l => l.pasid == pasid

/-- Remove a train without any event. -/
def dropTrain (s : State) (t : Train) : State := retireTrain s t

/-- The yard records of a PASID are dropped with the lanes that deposited them. -/
def dropBays (s : State) (pasid : BitVec 20) : State :=
  { s with chassis := s.chassis.map fun e => (e.1, { e.2 with cores := e.2.cores.map fun k =>
      (k.1, { k.2 with bays := k.2.bays.filter fun b => !ofPasid s pasid b.2.launch
                       matq := k.2.matq.filter fun m => !(trainOf s m.train).any fun t => ofPasid s pasid t.launch }) }) }

/-- Steps 4 to 9 of R60, once the walks for the PASID have completed. Copies not complete are dropped whole, streams are closed and reductions
abandoned. -/
def finishTeardown (s : State) : State :=
  match s.teardown with
  | none => s
  | some p =>
    if walksFor s p.toNat then s else
    let saved (d : Nat) : List Nat := (s.coaches.filter fun e => e.2.pasid == p && e.2.ch == d).filterMap fun e =>
      match e.2.resid with
      | .saved _ i => some i
      | _ => none
    let s := dies.foldl (fun s d => s.setChassis d (dropFromChassis p.toNat (saved d) (chassisOf s d))) s
    let s := dropBays s p
    let s := (s.trains.filter fun t => ofPasid s p t.launch).foldl dropTrain s
    let s := { s with
      coaches := s.coaches.filter fun e => e.2.pasid != p
      copies := s.copies.filter fun y => y.ctx.pasid != p.toNat || y.ctx.hyp
      streams := s.streams.filter fun z => z.pasid != p.toNat
      reductions := s.reductions.filter fun r => r.pasid != p.toNat
      packets := s.packets.filter fun k => match k.load with
        | .stream y _ z _ _ => (copyOf s y).any (fun y => y.ctx.pasid != p.toNat) || s.streams.any (fun w => w.id == z && w.pasid != p.toNat)
        | _ => true
      launches := s.launches.filter fun l => l.pasid != p
      teardown := none }
    let s := sendEvent s { ty := 1, ch := 0, who := p.toNat }
    match s.flr with
    | q :: qs => startTeardown { s with flr := qs } q
    | [] => s

/-- sv.teardown as it reads (R59). -/
def teardownReg (s : State) : W64 := BitVec.ofNat 64 (s.teardownPasid.toNat + if s.teardown.isSome then 2 ^ 31 else 0)

end Sys2Proof.Machine
end

