-- ==== Sys2Proof/Machine/Control.lean ====
section
/-! DEFINITION. Control instructions, opcodes 0x00 to 0x10 (10 R248 to R258, 11 R272 to R281, 14 R328), and the end of each of their
waits. -/

namespace Sys2Proof.Machine

/-- The clk of a coach's chassis. -/
def clkOf (s : State) (c : Coach) : Nat := (chassisOf s c.ch).clk

/-- NOP (R258, R265). -/
def execNop (s : State) : Host.Outcome State Fault Refusal :=
  byEither s (fun x => retire s x x.c 4) (fun r c => retireOutrider s r c 4)

/-- The mode register after a MODE (R248): each selected field is replaced. -/
def newMode (old : Mode) (m : BitVec 6) (v : BitVec 16) : Mode := (old &&& ~~~modeMask m) ||| (v &&& modeMask m)

/-- MODE (R248). -/
def execMode (m : BitVec 6) (v : BitVec 16) (s : State) : Host.Outcome State Fault Refusal :=
  byCarriage s fun x => retire s x (setMode x.c x.k (newMode (modeOf x.c x.k) m v)) 4

/-- The repeat state that a REP sets up (R252). -/
def repStart (c : BitVec 6) (d a b : BitVec 1) (st : BitVec 2) : Rep :=
  { count := c.toNat, index := 0, steps := 4 * d.toNat + 2 * a.toNat + b.toNat, stride := st.toNat }

/-- REP (R252): the pc goes to the repeated word, with the repeat state set. -/
def execRep (c : BitVec 6) (d a b : BitVec 1) (st : BitVec 2) (s : State) : Host.Outcome State Fault Refusal :=
  byEither s
    (fun x => s.setCoach x.c.key (moveTo x.c x.slot (x.k.pc + 4, some (repStart c d a b st))))
    (fun r co => s.setCoach r.key { co with outr := { co.outr with pc := co.outr.pc + 4, rep := some (repStart c d a b st), wait := false } })

/-! ## Waits (R255 to R257, R279, R328) -/

/-- Whether the condition of a WAIT holds (R255): a field of 63 is none. -/
def waitMet (c : Coach) (l st cp t : Nat) : Bool :=
  (l == 63 || countOf c .ld ≤ l) && (st == 63 || countOf c .st ≤ st) && (cp == 63 || countOf c .cp ≤ cp) && (t == 63 || countOf c .tl ≤ t)

/-- What a WAIT covers (R256). -/
def waitCovers (l st cp : Nat) : Covers :=
  { load := l < 63, store := st < 63, copy := if cp < 63 then some (2 ^ 64) else none }

/-- What a WAITC of cart `n` covers (R256): the marked cart must be sealed. -/
def waitcCovers (c : Coach) (n : Nat) : Covers := { copy := if c.cart = 0 then none else some (min n (c.cart - 1)) }

/-- The end of a wait: the lanes with covered errors trap, the others go on (R256). A trap that must report to the host and cannot leaves the
wait unissued (R411). -/
def proceed (s : State) (x : Iss) (v : Covers) : State :=
  let ts := coveredTraps x.c x.k v
  if reportWaits s x.c x.k ts then stall s x .report
  else
    let (s', c) := consume s x.c (ts.map LaneTrap.lane)
    conclude s' x c 4 ts

/-- WAIT (R255), from the issuing carriage. -/
def waitStep (s : State) (x : Iss) (l st cp t : Nat) : State :=
  if waitMet x.c l st cp t then proceed s x (waitCovers l st cp) else stall s x (.wait l st cp t)

/-- WAIT (R255). -/
def execWait (l st c t : BitVec 6) (s : State) : Host.Outcome State Fault Refusal :=
  byCarriage s fun x => waitStep s x l.toNat st.toNat c.toNat t.toNat

/-- WAITC (R257) for cart `n`, from the issuing carriage. -/
def waitcStep (s : State) (x : Iss) (n : Nat) : State :=
  if cartsDone x.c n then proceed s x (waitcCovers x.c n) else stall s x (.waitc n)

/-- WAITC (R257). -/
def execWaitc (a : BitVec 8) (s : State) : Host.Outcome State Fault Refusal := byCarriage s fun x => waitcStep s x (readS x.c x.k a.toNat).toNat

/-- WAITG (R328), from the issuing carriage. -/
def waitgStep (s : State) (x : Iss) (m : BitVec 8) : State :=
  if tagsFree x.c m then proceed s x { tags := m } else stall s x (.waitg m)

/-- WAITG (R328). -/
def execWaitg (m : BitVec 8) (s : State) : Host.Outcome State Fault Refusal := byCarriage s fun x => waitgStep s x m

/-! ## Transfers (R272 to R278) -/

/-- A transfer of the whole carriage. -/
def goTo (s : State) (x : Iss) (c : Coach) (pc : W64) : State := s.setCoach x.c.key (moveTo c x.slot (pc, none))

/-- A transfer of an outrider context. -/
def outriderTo (s : State) (r : CoachRef) (c : Coach) (pc : W64) : State :=
  s.setCoach r.key { c with outr := { c.outr with pc := pc, rep := none, wait := false } }

/-- The condition of a branch on a predicate (R274). -/
def branchCond (c : Coach) (i : BitVec 1) (p : BitVec 3) (l : Nat) : Bool := readP c p.toNat l != (i == 1)

/-- BRV (R274). -/
def execBrv (i : BitVec 1) (p : BitVec 3) (o : BitVec 20) (s : State) : Host.Outcome State Fault Refusal :=
  byCarriage s fun x =>
    let target (l : Nat) : W64 := if branchCond x.c i p l then branchTarget x.k.pc o else x.k.pc + 4
    s.setCoach x.c.key (divide x.c x.slot ((lanesOf x.k.lanes).map fun l => (l, target l)))

/-- BRU (R274): the lowest lane decides; disagreement sets UBM. -/
def execBru (i : BitVec 1) (p : BitVec 3) (o : BitVec 20) (s : State) : Host.Outcome State Fault Refusal :=
  byCarriage s fun x =>
    let ls := lanesOf x.k.lanes
    let taken := branchCond x.c i p (ls.headD 0)
    let c := if ls.any (fun l => branchCond x.c i p l != taken) then addFlags x.c x.k fUBM else x.c
    goTo s x c (if taken then branchTarget x.k.pc o else x.k.pc + 4)

/-- A branch on a scalar register (R275). -/
def branchOn (s : State) (d : BitVec 8) (i : BitVec 16) (taken : W64 → Bool) : Host.Outcome State Fault Refusal :=
  byEither s
    (fun x => goTo s x x.c (if taken (readS x.c x.k d.toNat) then branchTarget x.k.pc i else x.k.pc + 4))
    (fun r c => outriderTo s r c (if taken (readSD c (oTarget d.toNat)) then branchTarget c.outr.pc i else c.outr.pc + 4))

/-- BNZ (R275). -/
def execBnz (d : BitVec 8) (i : BitVec 16) (s : State) : Host.Outcome State Fault Refusal := branchOn s d i (· != 0)

/-- BZ (R275). -/
def execBz (d : BitVec 8) (i : BitVec 16) (s : State) : Host.Outcome State Fault Refusal := branchOn s d i (· == 0)

/-- JMP (R276). -/
def execJmp (o : BitVec 24) (s : State) : Host.Outcome State Fault Refusal :=
  byEither s (fun x => goTo s x x.c (branchTarget x.k.pc o)) (fun r c => outriderTo s r c (branchTarget c.outr.pc o))

/-- JAL (R276): s1 ← pc + 4. -/
def execJal (o : BitVec 24) (s : State) : Host.Outcome State Fault Refusal :=
  byEither s
    (fun x => goTo s x (writeS x.c x.k 1 (x.k.pc + 4)) (branchTarget x.k.pc o))
    (fun r c => outriderTo s r (writeSD c (oTarget 1) (c.outr.pc + 4)) (branchTarget c.outr.pc o))

/-- JR (R277). -/
def execJr (a : BitVec 8) (s : State) : Host.Outcome State Fault Refusal :=
  byEither s (fun x => goTo s x x.c (readS x.c x.k a.toNat)) (fun r c => outriderTo s r c (readSD c (oTarget a.toNat)))

/-- Place groups of lanes that complete a transfer beside lanes that trap (R198), or that have made the coach stuck (R201). -/
def placeAll (s : State) (key : Nat) (k : Carriage) (gs : List (W64 × Mask)) : State :=
  match coachOf s key with
  | some c => s.setCoach key (settle (gs.foldl (placeGroup k) c))
  | none => s

/-- JRV (R278): the target of each lane; a lane that pops a faulted element traps, with the JRV as its trapping and its next state. -/
def execJrv (a b : BitVec 8) (s : State) : Host.Outcome State Fault Refusal :=
  byCarriage s fun x =>
    let i : Instr := .jrv a b
    let ls := lanesOf x.k.lanes
    let ts := ls.filterMap (queueTrap x.c x.k i)
    let good := ls.filter fun l => !(ts.any fun t => t.lane == l)
    let y := readS x.c x.k b.toNat
    let target (l : Nat) : W64 := y + (readV x.c x.k l a.toNat).setWidth 64
    let goals := good.map fun l => (l, target l)
    let c := advancePorts x.c (popsOf x.c x.k i) good
    if ts.isEmpty then s.setCoach x.c.key (divide c x.slot goals)
    else if reportWaits s x.c x.k ts then stall s x .report
    else
      let trapped : Carriage := { x.k with lanes := maskOf (ts.map LaneTrap.lane) }
      let s' := takeTrap s { c with slots := mset c.slots x.slot trapped } x.slot trapped ts (x.k.pc, none)
      placeAll s' x.c.key { x.k with wait := none, blocked := 0, wake := 0 } (groupsOf goals)

/-! ## Ending, yielding and sleeping (R279 to R281) -/

/-- Whether the wait of an EXIT has ended (R279). -/
def exitMet (c : Coach) : Bool := waitMet c 0 0 0 0 && tagsFree c 0xFF

/-- The oldest failed outbound write of a lane over all ports, with its port (R208). -/
def oldestFailedWrite (c : Coach) (l : Nat) : Option (Nat × QFault) :=
  (c.ports.filterMap fun e => (failedWrite e.2 l).map fun f => (e.1, f.2)).foldl
    (fun best f => match best with
      | none => some f
      | some b => if f.2.stamp < b.2.stamp then some f else some b) none

/-- The trap of a lane at an EXIT (R256, R279): its pending error and its failed outbound write trap once, with the older cause. The record of a
lane that has both shows a queue push only where the write is the older (DESIGN CHOICE, log entry 71). -/
def exitTrap (c : Coach) (l : Nat) : Option LaneTrap :=
  match mget c.pend l, oldestFailedWrite c l with
  | none, none => none
  | some e, none => some (e.trap l)
  | none, some (q, f) => some (f.trap l 7 q)
  | some e, some (q, f) => some (if f.stamp < e.stamp then f.trap l 7 q else e.trap l)

/-- The end of an EXIT's wait (steps 2 and 3 of R279): lanes with errors trap and stay at the EXIT, the others exit. A trap that must report to
the host and cannot leaves the EXIT unissued (R411). -/
def exitEnd (s : State) (x : Iss) : State :=
  let ts := (lanesOf x.k.lanes).filterMap (exitTrap x.c)
  if reportWaits s x.c x.k ts then stall s x .report else
  let (s, c) := consume s x.c (ts.map LaneTrap.lane)
  let bad := maskOf (ts.map LaneTrap.lane)
  -- the trap of a lane covers its failed writes to every queue
  let c := markCalled c (ts.flatMap fun t => c.ports.map fun e => { t with kind := 7, port := e.1 })
  let fine := x.k.lanes &&& ~~~bad
  if ts.isEmpty then exitFrom s c fine 0
  else
    -- the lanes that exit do not wait at a next state, so none is held
    let trapped : Carriage := { x.k with lanes := bad }
    let c := { c with slots := mset c.slots x.slot trapped, exited := c.exited ||| fine }
    takeTrap s (freeQueues c) x.slot trapped ts (nextOf x.k 4)

/-- EXIT (R279), from the issuing carriage. -/
def exitStep (s : State) (x : Iss) : State :=
  if x.k.level ≠ .U then denied s x 4
  else if exitMet x.c then exitEnd s x
  else stall s x .exit

/-- EXIT (R279). -/
def execExit (s : State) : Host.Outcome State Fault Refusal := byCarriage s fun x => exitStep s x

/-- YIELD (R280): the carriage is not ready for 32 clocks. -/
def execYield (s : State) : Host.Outcome State Fault Refusal :=
  byCarriage s fun x =>
    let k := { x.k with yieldUntil := clkOf s x.c + 32 }
    s.setCoach x.c.key (moveTo { x.c with slots := mset x.c.slots x.slot k } x.slot (nextOf x.k 4))

/-- SLEEP (R281), from the issuing carriage: the wake value is fixed at the first issue. -/
def sleepStep (s : State) (x : Iss) (n : Nat) : State :=
  let w := if x.k.wake = 0 then clkOf s x.c + 16 * n else x.k.wake
  if w ≤ clkOf s x.c then retire s x x.c 4
  else s.setCoach x.c.key { x.c with slots := mset x.c.slots x.slot { x.k with wake := w, wait := some .sleep } }

/-- SLEEP (R281). -/
def execSleep (n : BitVec 16) (s : State) : Host.Outcome State Fault Refusal := byCarriage s fun x => sleepStep s x n.toNat

end Sys2Proof.Machine
end

