-- ==== Sys2Proof/Machine/System.lean ====
section
/-! DEFINITION. System, trap and synchronisation instructions, opcodes 0x11 to 0x1D (16 R359 to R373, 11 R282 to R285), with the registers
of XRD and XWR (16 R363 to R369). -/

namespace Sys2Proof.Machine

/-! ## Trapping calls (R360) and TRET (R361) -/

/-- SYSCALL, HVCALL and BREAK (R360): every lane traps with the cause, and its record carries n. -/
def callTrap (s : State) (x : Iss) (cause n : Nat) : State :=
  trapAll s x 4 { lane := 0, cause := cause, addr := x.k.pc, code := n }

/-- SYSCALL (R360). -/
def execSyscall (n : BitVec 16) (s : State) : Host.Outcome State Fault Refusal := byCarriage s fun x => callTrap s x 1 n.toNat

/-- HVCALL (R360): at U it is a privilege violation instead. -/
def execHvcall (n : BitVec 16) (s : State) : Host.Outcome State Fault Refusal :=
  byCarriage s fun x => if x.k.level = .U then denied s x 4 else callTrap s x 2 n.toNat

/-- BREAK (R360). -/
def execBreakOp (n : BitVec 16) (s : State) : Host.Outcome State Fault Refusal := byCarriage s fun x => callTrap s x 3 n.toNat

/-- A TRET with a resume mask and the lanes whose exit code is not zero (R200, R361): the frame is resolved, and lanes that exit leave the
coach. -/
def tretWith (s : State) (x : Iss) (mask : W64) (coded : Nat → Bool) : State :=
  let gone := goneLanes x.c x.k mask
  let bad := ((lanesOf gone).filter coded).length
  let s := s.setCoach x.c.key (returnTrap x.c x.slot x.k mask)
  let s := if bad = 0 then s else s.setLaunch x.c.launch fun l => { l with badexit := l.badexit + bad }
  checkCoach s x.c.key

/-- Whether every trap lane lies in the carriage (R361). -/
def tretReady (c : Coach) (k : Carriage) : Bool := returnLanes c k &&& ~~~k.lanes == 0

/-- TRET (R361). -/
def execTret (a b : BitVec 8) (s : State) : Host.Outcome State Fault Refusal :=
  byCarriage s fun x =>
    if x.k.level = .U then denied s x 4
    else if !tretReady x.c x.k then stall s x .member
    else tretWith s x (readS x.c x.k a.toNat) fun l => readV x.c x.k l b.toNat != 0

/-! ## Registers by number (R362 to R369) -/

/-- tstate (20 R428). -/
def tstateReg (c : Chassis) : W64 :=
  BitVec.ofNat 64 (c.ts % 4 + (if c.hold then 4 else 0) + 8 * (c.ps % 8) + 256 * (c.since % 2 ^ 56))

/-- orient (01 R15). -/
def orientReg (d : Nat) : W64 := BitVec.ofNat 64 (d % 4 + 16 * d + 256 * d)

/-- sv.status and hv.status (R366): fpen belongs to sv.status alone. -/
def statusReg (c : Coach) (fslot : Nat) (x : Level) : W64 :=
  let f := frameOf c fslot x
  BitVec.ofNat 64 ((if f.rearmed then 1 else 0) + 2 * (f.depth % 8) + (if x = .S then 256 * c.fpen.toNat else 0))

/-- A write of nest = 1 re-arms a busy frame that is not re-armed, below depth 7 (R367). -/
def rearm (c : Coach) (fslot : Nat) (x : Level) : Coach :=
  let f := frameOf c fslot x
  if f.busy && !f.rearmed && f.depth < 7 then
    c.setFrame fslot x { f with rearmed := true, depth := f.depth + 1, traps := mset f.traps (f.depth + 1) 0 }
  else c

/-- A lane's fault record half (R364, R407). -/
def infoReg (c : Coach) (fslot : Nat) (x : Level) (hi : Bool) : W64 :=
  let r := (rget c.recs (recKey x (frameOf c fslot x).flane.toNat)).toNat
  BitVec.ofNat 64 (if hi then r / 2 ^ 64 else r)

/-- The RW bits of frep, fmisc and tvec (R365, R367). -/
def frepMask : W64 := 0x0003FFFF0003FFFF
def fmiscMask : W64 := 0xFFFFFFFF00000003
def tvecMask : W64 := 0x00FFFFFFFFFFFFFC
/-- The RW bits of sv.cdtb, and of hv.ttbr (R38). -/
def cdtbMask : W64 := 0x000FFFFFFFFFF01F
def ttbrMask : W64 := 0x000FFFFFFFFFF001
/-- The RW bits of hv.s2tb (R38). -/
def s2tbMask : W64 := 0xFFFFFFFFFFFFF001

/-- A register of the frame of a level, by the low byte of its number (R364). -/
def frameReg (s : State) (c : Coach) (k : Carriage) (x : Level) (n : Nat) : W64 :=
  let f := frameOf c k.fslot x
  match n with
  | 0 => statusReg c k.fslot x
  | 1 => (rget f.traps f.depth &&& ~~~c.exited).setWidth 64
  | 2 => f.flane.setWidth 64
  | 3 => infoReg c k.fslot x false
  | 4 => infoReg c k.fslot x true
  | 5 => f.tpc
  | 6 => f.npc
  | 7 => f.frep
  | 8 => f.fmisc
  | _ => tvecOf s c x

/-- The value of a register (R363, R364). -/
def readReg (s : State) (c : Coach) (k : Carriage) (r : Nat) : W64 :=
  let d := chassisOf s c.ch
  if r = 0 then (cstatOf c k).setWidth 64
  else if r = 1 then (modeOf c k).setWidth 64
  else if r = 2 then BitVec.ofNat 64 d.clk
  else if r = 3 then BitVec.ofNat 64 s.ns
  else if r = 4 then tstateReg d
  else if r = 5 then orientReg c.ch
  else if r = 6 then (match trainOf s c.train with
    | some t => t.wid
    | none => 0)
  else if r = 7 then c.ldhint.setWidth 64
  else if r = 0x10A then BitVec.ofNat 64 (coreOf s c.ch c.core).yard
  else if r = 0x120 then d.cdtb
  else if r = 0x121 then teardownReg s
  else if r = 0x220 then d.s2tb
  else if r = 0x221 then d.ttbr
  else if r / 256 = 1 then frameReg s c k .S (r % 256)
  else frameReg s c k .H (r % 256)

/-- Write a register of the frame of a level (R364 to R367). nest acts only for a carriage of the frame's own level. -/
def writeFrameReg (s : State) (c : Coach) (k : Carriage) (x : Level) (n : Nat) (v : W64) : State :=
  let f := frameOf c k.fslot x
  let put (f' : Frame) : State := s.setCoach c.key (c.setFrame k.fslot x f')
  match n with
  | 0 =>
    let c := if v.getLsbD 0 && k.level = x then rearm c k.fslot x else c
    s.setCoach c.key (if x = .S then { c with fpen := BitVec.ofNat 5 (bitsOf v.toNat 12 8) } else c)
  | 2 => put { f with flane := v.setWidth 5 }
  | 5 => put { f with tpc := v }
  | 6 => put { f with npc := v }
  | 7 => put { f with frep := v &&& frepMask }
  | 8 => put { f with fmisc := v &&& fmiscMask }
  | 9 =>
    let q := coreOf s c.ch c.core
    s.setCore c.ch c.core (if x = .H then { q with hvTvec := v &&& tvecMask } else { q with svTvec := v &&& tvecMask })
  | _ => s

/-- The effect of an XWR (R362 to R369); a write to a read-only register has none. -/
def writeReg (s : State) (c : Coach) (k : Carriage) (r : Nat) (v : W64) : State :=
  let d := chassisOf s c.ch
  if r = 0 then s.setCoach c.key (writeCstat c k (v.setWidth 8))
  else if r = 7 then s.setCoach c.key { c with ldhint := v.setWidth 5 }
  else if r < 0x100 then s
  else if r = 0x10A then s.setCore c.ch c.core { coreOf s c.ch c.core with yard := bitsOf v.toNat 15 0 }
  else if r = 0x120 then s.setChassis c.ch { d with cdtb := v &&& cdtbMask }
  else if r = 0x121 then startTeardown s (v.setWidth 20)
  else if r = 0x220 then s.setChassis c.ch { d with s2tb := v &&& s2tbMask }
  else if r = 0x221 then s.setChassis c.ch { d with ttbr := v &&& ttbrMask }
  else if r / 256 = 1 then writeFrameReg s c k .S (r % 256) v
  else writeFrameReg s c k .H (r % 256) v

/-- Whether a level may use a register number (R362). -/
def mayUse (x : Level) (r : Nat) : Bool :=
  match x with
  | .U => r < 0x100
  | .S => r < 0x200
  | .H => true

/-- XRD (R362). -/
def execXrd (d : BitVec 8) (r : BitVec 10) (s : State) : Host.Outcome State Fault Refusal :=
  byCarriage s fun x =>
    if mayUse x.k.level r.toNat then retire s x (writeS x.c x.k d.toNat (readReg s x.c x.k r.toNat)) 4 else denied s x 4

/-- The carriage of a coach goes on, if the coach is still there. -/
def retireAt (s : State) (key slot len : Nat) : State :=
  match coachOf s key with
  | some c => s.setCoach key (advance c slot len)
  | none => s

/-- XWR (R362). -/
def execXwr (d : BitVec 8) (r : BitVec 10) (s : State) : Host.Outcome State Fault Refusal :=
  byCarriage s fun x =>
    if mayUse x.k.level r.toNat then
      retireAt (writeReg s x.c x.k r.toNat (readS x.c x.k d.toNat)) x.c.key x.slot 4
    else denied s x 4

/-! ## Time and identity (R282 to R285) -/

/-- TIME (R282). -/
def execTime (d : BitVec 8) (c : BitVec 1) (s : State) : Host.Outcome State Fault Refusal :=
  let t (ch : Nat) : W64 := BitVec.ofNat 64 (if c = 0 then (chassisOf s ch).clk else s.ns)
  byEither s
    (fun x => retire s x (writeS x.c x.k d.toNat (t x.c.ch)) 4)
    (fun r co => retireOutrider s r (writeSD co (oTarget d.toNat) (t r.ch)) 4)

/-- Field fk of a work id (R203). -/
def widField (l : Launch) (k : Nat) (w : W64) : Nat :=
  let lo := (List.range k).foldl (fun n i => n + l.width i) 0
  w.toNat / 2 ^ lo % 2 ^ l.width k

/-- What WID writes to a lane (R283). An extent of 2^32 does not fit the 32 bits and is written as 0 (DESIGN CHOICE, log entry 72). -/
def widWrites (s : State) (c : Coach) (d f lane : Nat) : List (Nat × W32) :=
  let w := rget c.workId lane
  let l := (launchOf s c.launch).getD { id := 0, queue := 0 }
  if f = 6 then [(d, w.setWidth 32), (d + 1, (w >>> 32).setWidth 32)]
  else if f < 6 then [(d, BitVec.ofNat 32 (widField l f w))]
  else [(d, BitVec.ofNat 32 (l.extent (f - 8)))]

/-- WID (R283): every lane of the carriage, whatever the guard. -/
def execWid (d : BitVec 8) (f : BitVec 4) (s : State) : Host.Outcome State Fault Refusal :=
  byCarriage s fun x => laneStep s x (.wid d f) 4 x.k.lanes noTrap fun c _ l => { writes := widWrites s c d.toNat f.toNat l }

/-- The placement value of a lane (R284). -/
def lidValue (c : Coach) (k : Carriage) (f l : Nat) : Nat :=
  match f with
  | 0 => l
  | 1 => l % (modeOf c k).tile
  | 2 => if c.yard then 0 else c.index
  | 3 => c.part
  | 4 => c.gcore
  | _ => if c.yard then 0 else c.tcore

/-- LID (R284): every lane of the carriage, whatever the guard. -/
def execLid (d : BitVec 8) (f : BitVec 3) (s : State) : Host.Outcome State Fault Refusal :=
  byCarriage s fun x =>
    laneStep s x (.lid d f) 4 x.k.lanes noTrap fun c k l => { writes := [(d.toNat, BitVec.ofNat 32 (lidValue c k f.toNat l))] }

/-! ## SCOPEW (R370) and TLBINV (R371) -/

/-- The mask of a SCOPEW: s[a + 3] ‖ … ‖ s[a] (R370). -/
def scopeMask (c : Coach) (k : Carriage) (a : Nat) : BitVec 256 :=
  BitVec.ofNat 256 ((List.range 4).foldl (fun n i => n + (readS c k (a + i)).toNat * 2 ^ (64 * i)) 0)

/-- Whether a SCOPEW in progress is that of a carriage: issued at its pc and level by lanes that it holds. -/
def ScopeWrite.of (w : ScopeWrite) (k : Carriage) : Bool := w.pc == k.pc && w.level == k.level && w.lanes &&& ~~~k.lanes == 0

/-- The SCOPEWs in progress that a carriage waits for. -/
def scopeWaits (c : Coach) (k : Carriage) : List ScopeWrite := c.scopews.filter fun w => w.of k

/-- SCOPEW (R370): the write is under way until it completes on every chassis, and the carriage is blocked. -/
def execScopew (a : BitVec 8) (n : BitVec 5) (s : State) : Host.Outcome State Fault Refusal :=
  byCarriage s fun x =>
    if x.k.level = .U then denied s x 4
    else if (scopeWaits x.c x.k).any (!·.done) then stall s x (.scopew n.toNat)
    else if !(scopeWaits x.c x.k).isEmpty then
      retire s x { x.c with scopews := x.c.scopews.filter fun w => !(scopeWaits x.c x.k).contains w } 4
    else
      let w : ScopeWrite := { n := n.toNat, lanes := x.k.lanes, mask := scopeMask x.c x.k a.toNat, stamp := s.nextId, pc := x.k.pc, level := x.k.level }
      ({ s with nextId := s.nextId + 1 } : State).setCoach x.c.key (waitFor { x.c with scopews := x.c.scopews ++ [w] } x.slot (.scopew n.toNat))

/-- The least level of an invalidation kind (R54). -/
def tlbinvLevel (kind : Nat) : Level := if kind < 3 then .S else .H

/-- The operation that a TLBINV starts (R371): PASID, VMID and address as the kind takes them. An S kind applies to the VMID of the issuing
chassis (R54). -/
def tlbinvOp (s : State) (c : Coach) (k : Carriage) (d a kind : Nat) : Op :=
  let av := (readS c k a).toNat
  let vmid := if kind < 3 then vmidOf s c.ch else bitsOf av 11 0
  { id := 0, counter := .st, lanes := k.lanes, level := k.level, fslot := k.fslot, pieces := []
    kind := .tlbinv kind (bitsOf av 19 0) vmid (bitsOf (readS c k d).toNat 55 12 * 4096) }

/-- TLBINV (R371). -/
def execTlbinv (d a : BitVec 8) (kind : BitVec 3) (s : State) : Host.Outcome State Fault Refusal :=
  byCarriage s fun x =>
    if x.k.level = .U || (x.k.level = .S && tlbinvLevel kind.toNat = .H) then denied s x 4
    else
      let (s, c) := issueOp s x.c (tlbinvOp s x.c x.k d.toNat a.toNat kind.toNat)
      retire s x c 4

/-! ## BAR (R372) and SPAWN (R373) -/

/-- BAR (R372): the lanes arrive, and the carriage is blocked until the barrier departs. Arrival acts as a FENCE does (R140). -/
def execBar (n : BitVec 4) (s : State) : Host.Outcome State Fault Refusal :=
  byCarriage s fun x =>
    let c := arriveAt x.c n.toNat x.k.lanes
    s.setCoach x.c.key { c with slots := mset c.slots x.slot { x.k with wait := some (.bar n.toNat), bar := some n.toNat } }

/-- Whether a bay takes a record: it holds the key, and fewer than 32 records (R210, R211). -/
def Bay.takes (b : Bay) (entry : W64) (launch : Nat) : Bool :=
  b.entry == entry && b.launch == launch && b.recs.length < 32

/-- The bay that takes a record: the one with its key, or a free one (R210). -/
def bayFor (k : Core) (entry : W64) (launch : Nat) : Option Nat :=
  match (List.range 8).find? (fun i => (mget k.bays i).any fun b => b.takes entry launch) with
  | some i => some i
  | none => (List.range 8).find? fun i => (mget k.bays i).isNone

/-- Deposit one record (R210): the bay's timer runs from its first one (R211, R369), and the train counts the record (R212). -/
def deposit (s : State) (c : Coach) (entry payload wid : W64) : Option State :=
  let k := coreOf s c.ch c.core
  match bayFor k entry c.launch with
  | none => none
  | some i =>
    let r : YardRec := { payload := payload, wid := wid, train := c.train }
    let b : Bay := match mget k.bays i with
      | some b => { b with recs := b.recs ++ [r] }
      | none =>
        { entry := entry, launch := c.launch, vmid := c.vmid, recs := [r], deadline := s.ns + 16 * max 1 k.yard }
    let s := s.setCore c.ch c.core { k with bays := mset k.bays i b }
    some (s.setTrain c.train fun t => { t with yardLeft := t.yardLeft + 1 })

/-- Deposit the records of lanes in ascending order, as far as bays take them: the lanes done, and the state. -/
def depositAll (x : Iss) (d a : Nat) : List Nat → Mask → State → Mask × State
  | [], m, s => (m, s)
  | l :: ls, m, s =>
    match deposit s x.c (readPair x.c x.k l d) (readPair x.c x.k l a) (rget x.c.workId l) with
    | some s' => depositAll x d a ls (m ||| laneBit l) s'
    | none => (m, s)

/-- SPAWN (R373): while no bay can take the next record, the carriage waits and fetches nothing (R210), with the lanes of the instruction and
those done noted. -/
def execSpawn (d a : BitVec 8) (s : State) : Host.Outcome State Fault Refusal :=
  byCarriage s fun x =>
    if x.k.level ≠ .U then denied s x 4
    else
      let i : Instr := .spawn d a
      let act := match x.k.spawn with
        | some w => w.lanes
        | none => activeOf x.c x.k
      let ts := (lanesOf act).filterMap (queueTrap x.c x.k i)
      let good := (lanesOf act).filter fun l => !(ts.any fun t => t.lane == l)
      if reportWaits s x.c x.k ts then stall s x .report else
      let (m, s') := depositAll x d.toNat a.toNat (good.filter fun l => !x.k.spawned.getLsbD l) x.k.spawned s
      if good.all fun l => m.getLsbD l then
        conclude s' x (advancePorts x.c (popsOf x.c x.k i) good) 4 ts
      else
        let k := { x.k with spawn := some { lanes := act, d := d.toNat, a := a.toNat }, spawned := m, wait := some .yard }
        s'.setCoach x.c.key { x.c with slots := mset x.c.slots x.slot k }

end Sys2Proof.Machine
end

