-- ==== Sys2Proof/Machine/Issue.lean ====
section
/-! DEFINITION. Fetching (02 R56 to R58, 19 R409) and readiness (18 R401, 08 R188, R193, R207, R209, 14 R320): what stands between a
carriage or an outrider context and the meaning of its next instruction. -/

namespace Sys2Proof.Machine

/-! ## Fetch -/

/-- How a fetch ends: with a fault, with a page to walk or to scan, with data to wait for (at the unit of a byte, if one is named), with a sector
that the unit must read first since its cells hold an error that changes its bytes (R68), or with an instruction and its length. -/
inductive Fetched where
  | fault (t : LaneTrap)
  | miss (m : Miss)
  | scan (page : Nat)
  | wait (wa : Option Nat)
  | read (wa : Nat)
  | ok (i : Instr) (len : Nat)
  deriving DecidableEq, Repr

/-- A fetch fault of the whole carriage (R409). -/
def fetchTrap (cause : Nat) (a : W64) : Fetched := .fault { lane := 0, cause := cause, addr := a, kind := Acc.exec.code }

/-- The word at a chassis-window address of a code page: from a line of the instruction cache that holds it, else from the rescanned page
(R58), for which an owned line is recalled (R107). The state is that before the fetch; `none` asks for a scan. -/
def codeWord (s : State) (g wa : Nat) : Option (Except Nat (Nat × Bool)) :=
  match mget (coreG s g).icache (lineOf wa) with
  | some l => some (.ok (leNat ((l.bytes.drop (wa % 128)).take 4), l.literals.contains (wa % 4096 / 4)))
  | none =>
    match mget (chassisOf s (homeAt wa).d).scanned (wa / 4096) with
    | none => none
    | some (.rejected o) => some (.error o)
    | some (.accepted ls) => some (.ok (leNat (homeBytes (recallLine s (lineOf wa)) wa 4), ls.contains (wa % 4096 / 4)))

/-- A fetched line of an accepted page enters the instruction cache of its core (R98), read at its home, which recalls an owned line (R107). -/
def fillCode (s : State) (g wa : Nat) (a : Attr) : State :=
  if (mget (coreG s g).icache (lineOf wa)).isSome then s else
  match mget (chassisOf s (homeAt wa).d).scanned (wa / 4096) with
  | some (.accepted ls) =>
    attempt (fun s =>
      match tryRead s a (wa / 128 * 128) 128 with
      | (.ok bs, s) =>
        let s := codeRoom s g (lineOf wa)
        let k := coreG s g
        s.setCoreG g { k with icache := mset k.icache (lineOf wa) { bytes := bs, literals := ls } }
      | (.error _, s) => s) s
  | _ => s

/-- Whether the owner of a line, if it has one, can give it back at this moment (R107, R176). -/
def recalls (s : State) (ln : Nat) : Bool := ((cacheLine s ln).bind CacheLine.owner).all (recallOpen s ln)

/-- The address that a fetch names for a data error or a lost bus: that of the word's sector (R405). -/
def sectorVa (va : W64) : W64 := BitVec.ofNat 64 (va.toNat / 32 * 32)

/-- Why a fetched byte that its core does not hold cannot be read at its home at this moment, or not at all (R68, R71, R81, R84, R176, R178). -/
def codeLost (s : State) (g wa : Nat) (va : W64) : Option Fetched :=
  let d := (homeAt wa).d
  if (mget (coreG s g).icache (lineOf wa)).isSome then none
  else if !reachable s (g / 16) d then some (fetchTrap 0x20 (sectorVa va))
  else if !pathOpen s (g / 16) d || !recalls s (lineOf wa) then some (.wait none)
  else if busLost s wa then some (fetchTrap 0x21 (sectorVa va))
  else if !sliceOpen s d then some (.wait none)
  else if needsCells s wa 4 then
    (if !unitOpen s wa then some (.wait (some wa))
    else match flawAt s wa with
      | .uncorrectable => some (fetchTrap 0x20 (sectorVa va))
      | .wrong => some (.read wa)
      | .missed => some (.read wa)
      | _ => none)
  else none

/-- One word of code. -/
def fetchWord (s : State) (g wa : Nat) (va : W64) : Except Fetched (Nat × Bool) :=
  match codeLost s g wa va with
  | some e => .error e
  | none =>
    match codeWord s g wa with
    | none => .error (.scan (wa / 4096))
    | some (.error o) => .error (fetchTrap 8 (va - BitVec.ofNat 64 (va.toNat % 4096) + BitVec.ofNat 64 o))
    | some (.ok x) => .ok x

/-- The fetch at a virtual address (R35, R56, R57, R409): range, alignment, translation with execute kind, region, the page's scan, and the
word, which must not be a literal. A pending repeat steps the word (R252). The range comes before the alignment (DESIGN CHOICE, log entry 70). -/
def fetchAt (s : State) (q : Asker) (pc : W64) (rep : Option Rep) : Fetched :=
  if pc.toNat / 2 ^ 56 ≠ 0 then fetchTrap 7 pc
  else if pc.toNat % 4 ≠ 0 then fetchTrap 6 pc
  else
    match translate s q .exec pc with
    | .miss m => .miss m
    | .fault f => .fault (f.trap 0 Acc.exec.code)
    | .pa pa _ =>
      match (if regionOf pa = .dram then resolve pa else none) with
      | none => fetchTrap 7 pc
      | some h =>
        match fetchWord s q.core h.wa pc with
        | .error e => e
        | .ok (_, true) => fetchTrap 8 pc
        | .ok (w, false) =>
          let w := match rep with
            | some r => stepWord w r.steps r.stride r.index
            | none => w
          let lit : Except Fetched (Nat × Bool) := if wordLength w = 8 then fetchWord s q.core (h.wa + 4) (pc + 4) else .ok (0, true)
          match lit with
          | .error e => e
          | .ok (l, _) =>
            match decodeWords w l with
            | .ok i => .ok i (wordLength w)
            | .error _ => fetchTrap 8 pc

/-- The fetch of a carriage; one whose SPAWN waits for bays fetches nothing (R210). -/
def fetchOf (s : State) (c : Coach) (j : Nat) (k : Carriage) : Fetched :=
  match k.spawn with
  | some w => .ok (.spawn (BitVec.ofNat 8 w.d) (BitVec.ofNat 8 w.a)) 4
  | none => fetchAt s (askerOf c j k) k.pc k.rep

/-- A state as a step sees it that stands at the head of a bank's queue, or does not. -/
def atHead (s : State) (h : Bool) : State := { s with doing := { s.doing with head := h } }

/-- An outrider context as an asker: it runs with its coach's context at U (R205). -/
def outriderAsker (c : Coach) (n : Nat) : Asker :=
  { core := c.gcore, level := .U, ctx := ctxOf c .U, who := (c.key, n, c.outr.pc) }

/-- The fetch of an outrider context. -/
def outriderFetch (s : State) (c : Coach) : Fetched := fetchAt s (outriderAsker c 4) c.outr.pc c.outr.rep

/-- The unit reads a sector of code by itself (R68), before a fetch takes its words. -/
def readCode (s : State) (wa : Nat) : State := attempt (fun s => (readSector s wa 1 false).2) s


/-- The lines that a fetch has read enter the instruction cache. -/
def fetchFill (s : State) (q : Asker) (pc : W64) (len : Nat) : State :=
  match translate s q .exec pc with
  | .pa pa a =>
    match resolve pa with
    | some h => (List.range (len / 4)).foldl (fun s i => fillCode s q.core (h.wa + 4 * i) a) s
    | none => s
  | _ => s

/-! ## Registers that are still being written (R320) -/

/-- The vector registers that outstanding operations will write. -/
def pendingV (c : Coach) : List VDst :=
  c.ops.flatMap fun o => o.pieces.flatMap fun p =>
    match p.dst with
    | .vec rs _ _ => if p.phase < 2 then rs else []
    | _ => []

/-- The scalar registers that outstanding operations will write. -/
def pendingS (c : Coach) : List SDst :=
  c.ops.flatMap fun o => o.pieces.flatMap fun p =>
    match p.dst with
    | .scalar r => if p.phase < 2 then [r] else []
    | _ => []

/-- Whether an instruction names a register that is still being written. -/
def registerPending (c : Coach) (k : Carriage) (i : Instr) : Bool :=
  let vs := pendingV c
  let ss := pendingS c
  (operands i).any fun o => (operandNums (modeOf c k) o).any fun n =>
    if o.vec then
      (match vTarget c k n with
      | .drop => false
      | d => vs.contains d)
    else
      (match sTarget k n with
      | .drop => false
      | d => ss.contains d)

/-! ## Classes of instructions -/

/-- How an instruction takes part in the outstanding operations of its coach: the counter that it raises (R253), and whether a fence holds
it before it issues (R325); one that `accessLanes` or `accessScalar` issues is held there, behind its translations. -/
structure MemClass where
  counter : Counter
  held : Bool
  deriving DecidableEq, Repr

/-- The counter of an atomic (R253). -/
def atomCounter (lit : W32) : Counter := if (atomLit lit).ret then .ld else .st

/-- The class of a memory instruction. -/
def memClass : Instr → MemClass
  | .vld8s _ _ _ => ⟨.ld, false⟩
  | .vld8z _ _ _ => ⟨.ld, false⟩
  | .vld16s _ _ _ => ⟨.ld, false⟩
  | .vld16z _ _ _ => ⟨.ld, false⟩
  | .vld32 _ _ _ => ⟨.ld, false⟩
  | .vld64 _ _ _ => ⟨.ld, false⟩
  | .vld128 _ _ _ => ⟨.ld, false⟩
  | .sld32 _ _ _ => ⟨.ld, false⟩
  | .sld64 _ _ _ => ⟨.ld, false⟩
  | .ald32 _ _ _ => ⟨.ld, false⟩
  | .ald128 _ _ _ => ⟨.ld, false⟩
  | .cld64 _ _ _ => ⟨.ld, false⟩
  | .vlda _ _ _ => ⟨.ld, false⟩
  | .vst8 _ _ _ => ⟨.st, false⟩
  | .vst16 _ _ _ => ⟨.st, false⟩
  | .vst32 _ _ _ => ⟨.st, false⟩
  | .vst64 _ _ _ => ⟨.st, false⟩
  | .vst128 _ _ _ => ⟨.st, false⟩
  | .sst32 _ _ _ => ⟨.st, false⟩
  | .sst64 _ _ _ => ⟨.st, false⟩
  | .ast32 _ _ _ => ⟨.st, false⟩
  | .ast128 _ _ _ => ⟨.st, false⟩
  | .cst64 _ _ _ => ⟨.st, false⟩
  | .vstl _ _ _ => ⟨.st, false⟩
  | .vatom _ _ _ lit => ⟨atomCounter lit, false⟩
  | .satom _ _ _ lit => ⟨atomCounter lit, false⟩
  | .vcas _ _ _ _ => ⟨.ld, false⟩
  | .mred _ _ lit => ⟨.tag (bitsOf lit.toNat 2 0), false⟩
  | .mcas _ _ _ lit => ⟨.tag (bitsOf lit.toNat 2 0), false⟩
  | .msax _ _ _ lit => ⟨.tag (bitsOf lit.toNat 2 0), false⟩
  | .mwrm _ _ _ lit => ⟨.tag (bitsOf lit.toNat 2 0), false⟩
  | .copy _ _ _ _ => ⟨.cp, true⟩
  | .cflush _ _ => ⟨.st, true⟩
  | .cinv _ _ => ⟨.st, true⟩
  | .tlbinv _ _ _ => ⟨.st, true⟩
  | .tzero _ => ⟨.tl, false⟩
  | .bld _ _ => ⟨.tl, false⟩
  | .bgat _ _ _ => ⟨.tl, false⟩
  | .tmul _ _ _ _ => ⟨.tl, false⟩
  | .tdrain _ _ _ _ => ⟨.tl, false⟩
  | .cred _ _ _ _ => ⟨.tl, false⟩
  | _ => ⟨.none, false⟩

/-- Whether an instruction works across the lanes of a tile (R301, R209). -/
def crossesLanes : Instr → Bool
  | .voteany _ _ => true
  | .voteall _ _ => true
  | .vbal _ _ => true
  | .shfli _ _ _ => true
  | .shflu _ _ _ => true
  | .shfld _ _ _ => true
  | .shflx _ _ _ => true
  | .vred _ _ _ => true
  | .vscan _ _ _ _ => true
  | _ => false

/-- The lanes whose queue positions an instruction needs: all lanes of the carriage for one that takes no guard, one lane for VTOS. -/
def queueLanes (c : Coach) (k : Carriage) : Instr → List Nat
  | .jrv _ _ => lanesOf k.lanes
  | .wid _ _ => lanesOf k.lanes
  | .lid _ _ => lanesOf k.lanes
  | .tret _ _ => []
  | .vtos _ _ l => (vtosLane (activeOf c k) l).toList
  | _ => lanesOf (activeOf c k)

/-- The issue clocks of an instruction (the timing tables of 11, 12, 14 and 15). -/
def issueClocks : Instr → Nat
  | .slit _ _ => 2
  | .slith _ _ _ => 2
  | .vlit _ _ => 2
  | .vatom _ _ _ _ => 2
  | .satom _ _ _ _ => 2
  | .vcas _ _ _ _ => 2
  | .mred _ _ _ => 2
  | .mcas _ _ _ _ => 2
  | .msax _ _ _ _ => 2
  | .mwrm _ _ _ _ => 2
  | .copy _ _ _ _ => 2
  | .strm _ _ _ _ => 2
  | .cred _ _ _ _ => 2
  | _ => 1

/-! ## Readiness -/

/-- Whether an element of an entry is being read again (R208). -/
def elemPending (c : Coach) (q e l : Nat) : Bool :=
  c.ops.any fun o => o.kind == .qread && o.pieces.any fun p => p.lane == l && p.phase < 2 && p.dst == .elem q e

/-- Whether a lane's position in a port is ready (R207): the entry is filled, or there is room. A lane that will trap there is ready. -/
def portReady (c : Coach) (k : Carriage) (i : Instr) (l : Nat) : Bool :=
  (queueTrap c k i l).isSome ||
    ((popsOf c k i).all (fun q => let p := portOf c q; p.posOf l < p.filled && !elemPending c q (p.posOf l) l) &&
      (pushesOf c k i).all fun q => let p := portOf c q; p.posOf l < p.head + p.depth)

/-- The member wait of R209. -/
def memberWait (c : Coach) (k : Carriage) : Bool :=
  (lanesOf (activeOf c k)).any fun l =>
    (membersOf k (modeOf c k) l).any fun n => !c.exited.getLsbD n && !k.lanes.getLsbD n

/-- Whether the destination context of a copy holds sixteen accepted copies that have not completed (R117). -/
def copyFull (s : State) (c : Coach) (lit : W32) : Bool :=
  let f := copyLit lit
  let tc := if f.stream then c.tcore else copyTc c f
  16 ≤ (s.copies.filter fun y => y.train == c.train && y.chan == 4 * tc + f.chan && 1 ≤ y.phase && y.phase ≤ 3).length

/-- Whether the matrix unit's queue or the chassis purse keeps an instruction back (R338, R403). -/
def matrixWaits (s : State) (c : Coach) (j : Nat) (k : Carriage) (i : Instr) : Bool :=
  (queuedInMatrix i && 16 ≤ (coreOf s c.ch c.core).matq.length)
    || (drawOf s c k i != 0 && mget c.granted j != some (drawOf s c k i))

/-- Whether an XRD of cstat must wait for flags of earlier matrix instructions of its level (R236). -/
def flagsWait (s : State) (c : Coach) (k : Carriage) : Instr → Bool
  | .xrd _ r => r == 0 && (coreOf s c.ch c.core).matq.any fun e => e.coach == c.key && e.level == k.level && (k.level == .U || e.fslot == k.fslot)
  | _ => false

/-- Whether a counter cannot be raised (R253). -/
def counterFull (c : Coach) : Counter → Bool
  | .tag _ => false
  | .none => false
  | n => 63 ≤ countOf c n

/-- Whether the command buffer of a core is full (R74): sixteen of its memory commands wait before bank queues of 64 entries. -/
def commandBufferFull (s : State) (g : Nat) : Bool :=
  let waits (e : BankEntry) : Bool := e.live s && 64 ≤ (queueAt s e.wa).length && (match e.who with
    | .access r _ => (coachOf s r.key).any fun c => c.gcore == g && (opOf c r.op).any fun o => o.kind.isCmd
    | _ => false)
  16 ≤ (s.chassis.flatMap fun d => d.2.buses.flatMap fun b => b.2.arrivals.filter waits).length

/-- Whether an instruction is a memory command. -/
def Counter.isTag : Counter → Bool
  | .tag _ => true
  | _ => false

/-- Whether the command tag of an instruction is busy (R75). -/
def tagWaits (c : Coach) : Counter → Bool
  | .tag t => tagBusy c t
  | _ => false

/-- The member wait of a TRET (R361). -/
def tretWaits (c : Coach) (k : Carriage) : Instr → Bool
  | .tret _ _ => k.level != .U && !tretReady c k
  | _ => false

/-- Why an instruction is not ready, if it is not (R401): first the blocking reasons of R193. -/
def notReady (s : State) (c : Coach) (j : Nat) (k : Carriage) (i : Instr) : Option Wait :=
  let m := memClass i
  let ports := !(popsOf c k i).isEmpty || !(pushesOf c k i).isEmpty
  if tagWaits c m.counter then some .tag
  else if !((queueLanes c k i).all fun l => portReady c k i l) then some .queue
  else if (crossesLanes i && memberWait c k) || tretWaits c k i then some .member
  else if registerPending c k i || counterFull c m.counter || ((m.held || ports) && memoryHeld c) || matrixWaits s c j k i
      || flagsWait s c k i || (m.counter.isTag && commandBufferFull s c.gcore) then some .resource
  else
    match i with
    | .copy _ _ _ lit => if copyFull s c lit then some .resource else none
    | .sealCart _ => if sealWaits c then some .resource else none
    | _ => none

/-- Whether a carriage stands at the end of an instruction that an event of its own ends (R255 to R257, R279, R281, R325, R328, R370,
R372). -/
def Wait.event : Wait → Bool
  | .wait _ _ _ _ => true
  | .waitc _ => true
  | .waitg _ => true
  | .fence => true
  | .exit => true
  | .bar _ => true
  | .sleep => true
  | .scopew _ => true
  | .member => false
  | .queue => false
  | .tag => false
  | .translation => false
  | .report => false
  | .yard => false
  | .resource => false

/-- Whether a carriage can be chosen to issue: it is neither parked nor yielding nor waiting for an event. -/
def choosable (s : State) (c : Coach) (k : Carriage) : Bool :=
  !k.parked && k.yieldUntil ≤ clkOf s c && !(k.wait.any Wait.event)

/-- Whether the chassis and the module let a partition's issue slot open (R401, R421, R425, R427). -/
def slotOpen (s : State) (ch : Nat) : Bool :=
  let c := chassisOf s ch
  s.powered && s.stage == 3 && !c.hold && c.clk % 8 < s.duty && (if c.ts = 3 then c.clk % 4 == 0 else if c.ts = 2 then c.clk % 2 == 0 else true)

/-- Whether a partition's issue slot is free (R402). -/
def slotFree (s : State) (c : Coach) : Bool :=
  (mget (coreOf s c.ch c.core).slotHeld c.part).getD 0 ≤ clkOf s c

/-- Whether a coach can issue: resident, and not stuck (R201, R412). -/
def Coach.canIssue (c : Coach) : Bool := c.resid == .resident && !c.stuck

/-! ## One issue -/

/-- What a turn of a carriage or outrider context comes to: a state, or an instruction to execute from a state. -/
inductive Prepared where
  | done (s : State)
  /-- Its fetch fails (R409). -/
  | fault (s : State)
  | run (i : Instr) (s : State)

/-- The failed walks that a slot waited for at another pc are forgotten; those of the instruction at its pc stand until it has met its
checks. -/
def forgetOthers (s : State) (core : Nat) (who : Nat × Nat × W64) : State :=
  let k := coreG s core
  if k.failed.isEmpty then s else
  let other (w : Nat × Nat × W64) : Bool := w.1 == who.1 && w.2.1 == who.2.1 && w.2.2 != who.2.2
  let strip (f : Failed) : Failed := { f with miss := { f.miss with who := f.miss.who.filter fun w => !other w } }
  s.setCoreG core { k with failed := (k.failed.map strip).filter fun f => !f.miss.who.isEmpty }

/-- A carriage that has been chosen issues: it and its coach have issued last at this clk, and the slot is held (R188, R402). -/
def markIssue (s : State) (c : Coach) (j : Nat) (k : Carriage) (i : Instr) : State :=
  let clk := clkOf s c
  let s := s.setCoach c.key { c with age := 0, agedAt := 0, issued := clk, slots := mset c.slots j { k with lastIssue := clk, wait := none } }
  let x := coreOf s c.ch c.core
  s.setCore c.ch c.core { x with slotHeld := mset x.slotHeld c.part (clk + issueClocks i) }

/-- A carriage's turn, once it has been chosen (R401, R409): a fetch fault, a walk or a scan to wait for, a reason to wait, or the
instruction. A fetch that a bank cannot serve now waits at its unit (R73, R82). -/
def prepareChosen (s : State) (r : SlotRef) (c : Coach) (k : Carriage) : Prepared :=
  let who : Requester := .turn (.issue r)
  let h := atHead s (heads s who)
  let hold (s : State) (w : Wait) : Prepared := .done (s.setCoach c.key (waitFor c r.slot w))
  match fetchOf h c r.slot k with
  | .fault _ => .fault s
  | .miss m => hold (enqueueMiss (leaveUnits s who) m) .translation
  | .scan _ => hold (leaveUnits s who) .translation
  | .wait none => hold (leaveUnits s who) .resource
  | .wait (some wa) => hold (waitAt s who wa) .resource
  | .read wa => .done { readCode h wa with doing := s.doing }
  | .ok i len =>
    match notReady s c r.slot k i with
    | some w => hold (leaveUnits s who) w
    | none =>
      let s := leaveUnits { fetchFill h (askerOf c r.slot k) k.pc len with doing := s.doing } who
      let s := forgetOthers s c.gcore (c.key, r.slot, k.pc)
      .run i { markIssue s c r.slot k i with cur := some (.carriage r) }

/-- Whether a carriage could issue in this clock (R401): nothing keeps it waiting, as far as its fetch and its registers, queues and limits
show, or its fetch faults. One that has been found waiting in this clock is not ready. -/
def carriageReady (s : State) (c : Coach) (j : Nat) (k : Carriage) : Bool :=
  choosable s c k && k.wait.isNone && (match fetchOf s c j k with
    | .ok i _ => (notReady s c j k i).isNone
    | .fault _ => true
    | _ => false)

/-- Whether a coach comes before another of its partition (R402): by age, then by who reached 1,024 first, then by place. -/
def Coach.older (c e : Coach) : Bool :=
  if c.age != e.age then e.age < c.age else if c.age == 1024 && c.agedAt != e.agedAt then c.agedAt < e.agedAt else c.place < e.place

/-- Whether a carriage of a coach comes before another (R188): it has gone longer without issuing, and ties go to the lower slot. -/
def issuesBefore (a b : Nat × Carriage) : Bool :=
  if a.2.lastIssue != b.2.lastIssue then a.2.lastIssue < b.2.lastIssue else a.1 < b.1

/-- Whether a carriage is the one to issue in its partition (R188, R402): no ready carriage of its coach, and no older coach with a ready
carriage, comes before it. -/
def chosenNow (s : State) (c : Coach) (j : Nat) (k : Carriage) : Bool :=
  (c.slots.all fun e => e.1 == j || !issuesBefore e (j, k) || !carriageReady s c e.1 e.2)
    && s.coaches.all fun e => e.2.key == c.key || e.2.ch != c.ch || e.2.core != c.core || e.2.part != c.part || !e.2.canIssue
      || !e.2.older c || e.2.slots.all fun x => !carriageReady s e.2 x.1 x.2

/-- A carriage's turn. A carriage that cannot be chosen now gives up a place at a bank-side unit, and leaves the state otherwise as it is. -/
def prepareIssue (s : State) (r : SlotRef) : Prepared :=
  match coachOf s r.key with
  | none => .done (leaveUnits s (.turn (.issue r)))
  | some c =>
    match mget c.slots r.slot with
    | none => .done (leaveUnits s (.turn (.issue r)))
    | some k => if c.canIssue && slotOpen s c.ch && slotFree s c && choosable s c k && chosenNow s c r.slot k then prepareChosen s r c k
      else .done (leaveUnits s (.turn (.issue r)))

/-- Whether an outrider instruction waits for room or for entries (R329). -/
def outriderWaits (c : Coach) : Instr → Bool
  | .qld q _ _ lit => (portOf c q.toNat).dir == .inbound && litCount lit ≤ (portOf c q.toNat).depth && !hasRoom c q.toNat (litCount lit)
  | .qgat q _ _ lit => (portOf c q.toNat).dir == .inbound && litCount lit ≤ (portOf c q.toNat).depth && !hasRoom c q.toNat (litCount lit)
  | .qst q _ _ lit => (portOf c q.toNat).dir == .outbound && litCount lit ≤ (portOf c q.toNat).depth && !hasComplete c q.toNat (litCount lit)
  | _ => false


/-- An instruction that has been left unissued counts for no issue: the age of the coach, the last issue of the carriage and the hold of the
slot are as before its turn. -/
def unissue (s0 s : State) (c : Coach) (j : Nat) (k : Carriage) : State :=
  match coachOf s0 c.key with
  | none => s
  | some b =>
    let last := ((mget b.slots j).map Carriage.lastIssue).getD k.lastIssue
    let s := s.setCoach c.key { c with age := b.age, agedAt := b.agedAt, issued := b.issued, slots := mset c.slots j { k with lastIssue := last } }
    s.setCore c.ch c.core { coreOf s c.ch c.core with slotHeld := (coreOf s0 c.ch c.core).slotHeld }

/-- The turn that began at `s0` is over: no instruction is being issued, and tokens granted for an instruction that is gone return (R403). -/
def endIssue (s0 : State) (r : SlotRef) (s : State) : State :=
  let s := { s with cur := none }
  match coachOf s r.key with
  | some c =>
    (match mget c.slots r.slot with
    | none => let (s, c) := ungrant s c r.slot; s.setCoach c.key c
    | some k => if k.wait.any (fun w => !w.event) then unissue s0 s c r.slot k else s)
  | none => s

/-- An uncorrectable error or a lost bus that a fetch meets is logged (R71, R84). -/
def logFetch (s : State) (q : Asker) (pc : W64) (cause : Nat) : State :=
  match translate s q .exec pc with
  | .pa pa _ => (match resolve pa with
    | some h =>
      let wa := if flawAt s h.wa == .uncorrectable || busLost s h.wa then h.wa else h.wa + 4
      if cause = 0x21 && busLost s wa then logError s wa 4
      else if cause = 0x20 && flawAt s wa == .uncorrectable then logError s wa 1 else s
    | none => s)
  | _ => s

/-- An outrider context's turn (R205, R208): the address of a fetch that fails is that of the instruction. -/
def prepareOutrider (s : State) (r : CoachRef) : Prepared :=
  let who : Requester := .turn (.outrider r)
  match coachOf s r.key with
  | none => .done (leaveUnits s who)
  | some c =>
    if !(c.outr.live && !c.outr.qend && c.outr.failed.isNone && c.canIssue && s.stage == 3 && !(chassisOf s c.ch).hold) then
      .done (leaveUnits s who)
    else
    let h := atHead s (heads s who)
    let q := outriderAsker c 4
    let hold (s : State) : Prepared := .done (s.setCoach c.key { c with outr := { c.outr with wait := true } })
    match outriderFetch h c with
    | .fault t =>
      let s := forget (logFetch (leaveUnits s who) q c.outr.pc t.cause) c.gcore (c.key, 4, c.outr.pc)
      .done (outriderFails s c.key c.outr.pc)
    | .miss m => hold (enqueueMiss (leaveUnits s who) m)
    | .scan _ => hold (leaveUnits s who)
    | .wait none => hold (leaveUnits s who)
    | .wait (some wa) => hold (waitAt s who wa)
    | .read wa => .done { readCode h wa with doing := s.doing }
    | .ok i len =>
      if outriderWaits c i then .done (leaveUnits s who)
      else
        let s := leaveUnits { fetchFill h q c.outr.pc len with doing := s.doing } who
        .run i { forget s c.gcore (c.key, 4, c.outr.pc) with cur := some (.outrider r) }

/-- FETCH_FAULT (R409): the carriage's fetch at its pc fails, and every lane traps with the trapping and the next state at the pc. -/
def fetchFaultStep (s : State) (r : SlotRef) : State :=
  match coachOf s r.key with
  | none => s
  | some c =>
    match mget c.slots r.slot with
    | none => s
    | some k =>
      if !(c.canIssue && slotOpen s c.ch && slotFree s c && choosable s c k && chosenNow s c r.slot k) then s else
      let who : Requester := .turn (.issue r)
      match fetchOf (atHead s (heads s who)) c r.slot k with
      | .fault t =>
        let ts := (lanesOf k.lanes).map fun l => { t with lane := l }
        let s := logFetch (leaveUnits s who) (askerOf c r.slot k) k.pc t.cause
        if reportWaits s c k ts then s.setCoach c.key (waitFor c r.slot .report)
        else
          let k := { k with rep := none }
          takeTrap (forget s c.gcore (c.key, r.slot, k.pc)) { c with slots := mset c.slots r.slot k } r.slot k ts (k.pc, none)
      | _ => s

end Sys2Proof.Machine
end

