-- ==== Sys2Proof/Machine/Power.lean ====
section
/-! DEFINITION. The central arbiter, the performance states and the thermal governor (20 R419 to R428), with the token requests of 18
R403. -/

namespace Sys2Proof.Machine

/-! ## Token requests (R403) -/

/-- Whether a slot waits for tokens: its next instruction draws them, and it holds no grant of that size. -/
def requestedBy (c : Chassis) (key slot : Nat) : Bool := c.requests.any fun r => r.1 == key && r.2.1 == slot

/-- A request for a draw joins the chassis's requests, in order of arrival (R403). A grant of another size that the slot still holds goes
back first. -/
def requestTokens (s : State) (c : Coach) (slot n : Nat) : State :=
  let (s, c) := ungrant s c slot
  let s := s.setCoach c.key c
  let d := chassisOf s c.ch
  s.setChassis c.ch { d with requests := d.requests ++ [(c.key, slot, n)], draws := d.draws + n }

/-- The purse grants its oldest request, if it holds the draw (R403). A request whose slot is gone is withdrawn. -/
def grantOldest (s : State) (d : Nat) : State :=
  let c := chassisOf s d
  match c.requests with
  | [] => s
  | (key, slot, n) :: rest =>
    match coachOf s key with
    | none => s.setChassis d { c with requests := rest }
    | some x =>
      if (mget x.slots slot).isNone then s.setChassis d { c with requests := rest }
      else if c.purse < n then s
      else (s.setChassis d { c with requests := rest, purse := c.purse - n }).setCoach key { x with granted := mset x.granted slot n }

/-- TOKEN_GRANT (R403). -/
def execTokenGrant (ch : Nat) (s : State) : Host.Outcome State Fault Refusal := .next (grantOldest s ch)

/-! ## Performance states (R423) -/

/-- The clock of a performance state in MHz. -/
def mhzOf : Nat → Nat
  | 0 => 1200 | 1 => 1100 | 2 => 1000 | 3 => 900 | 4 => 800 | 5 => 600 | 6 => 450 | _ => 300

/-- The clock that a chassis runs at: during a step, the slower of the two. -/
def Chassis.mhz (c : Chassis) : Nat :=
  match c.psStep with
  | some (p, _) => min (mhzOf c.ps) (mhzOf p)
  | none => mhzOf c.ps

/-- The state that a chassis is in, or that it steps to. -/
def Chassis.heading (c : Chassis) : Nat :=
  match c.psStep with
  | some (p, _) => p
  | none => c.ps

/-- PS_STEP_START: a chassis starts a step to a state, in place of one that runs; within a voltage band it takes 2 µs, between bands 20 µs. -/
def startStep (s : State) (d p : Nat) : State :=
  let c := chassisOf s d
  s.setChassis d { c with psStep := if c.ps = p then none else some (p, s.ns + if c.ps / 2 = p / 2 then 2000 else 20000) }

/-- The steps slower (positive) or faster of a chassis that reaches `p`, so that they end between the cap and PS7. -/
def dueSteps (cap p : Nat) (n : Int) : Int := max (cap : Int) (min 7 ((p : Int) + n)) - (p : Int)

/-- The next of the steps that a chassis owes, which stand one after another (R423). -/
def nextStep (s : State) (d : Nat) : State :=
  let c := chassisOf s d
  let n := dueSteps s.pscap c.ps c.psDue
  if 0 < n then startStep (s.setChassis d { c with psDue := n - 1 }) d (c.ps + 1)
  else if n < 0 then startStep (s.setChassis d { c with psDue := n + 1 }) d (c.ps - 1)
  else s.setChassis d { c with psDue := 0 }

/-- A chassis steps one state slower (1) or faster (-1); a step that runs ends first. -/
def stepBy (s : State) (d : Nat) (n : Int) : State :=
  let c := chassisOf s d
  let s := s.setChassis d { c with psDue := dueSteps s.pscap c.heading (c.psDue + n) }
  if c.psStep.isSome then s else nextStep s d

/-- A chassis that is faster than the cap, or steps to such a state, steps to the cap in one step, since its state is never faster than
the cap allows. -/
def capStep (s : State) (d : Nat) : State :=
  let c := chassisOf s d
  if c.ps < s.pscap || c.heading < s.pscap then startStep (s.setChassis d { c with psDue := 0 }) d (max c.ps s.pscap)
  else s.setChassis d { c with psDue := dueSteps s.pscap c.heading c.psDue }

/-- A write to pwr.pscap (R423): chassis faster than the cap step slower; a chassis than which the cap has become faster steps at once. -/
def writePscap (s : State) (cap : Nat) : State :=
  let faster := decide (cap < s.pscap)
  dies.foldl (fun s d => if faster && decide (cap < (chassisOf s d).ps) then stepBy s d (-1) else capStep s d) { s with pscap := cap }

/-- PSCAP_WRITE (R423). -/
def execPscapWrite (cap : BitVec 3) (s : State) : Host.Outcome State Fault Refusal := .next (writePscap s cap.toNat)

/-- A step whose time is over ends, and the next one that the chassis owes starts (R423). -/
def endStep (s : State) (d : Nat) : State :=
  let c := chassisOf s d
  match c.psStep with
  | some (p, t) => if t ≤ s.ns then nextStep (s.setChassis d { c with ps := p, psStep := none }) d else s
  | none => s

/-- PS_STEP_COMPLETE (R423). The clock itself brings it about. -/
def execPsStepComplete (ch : Nat) (s : State) : Host.Outcome State Fault Refusal := .next (endStep s ch)

/-! ## Epochs (R420, R421) -/

/-- Tokens worth 1 W for 1 µs (R420). -/
def tokensPerWatt : Nat := 175438

/-- g(c) (R420). `g` is G, `all` the draws requested on the module. -/
def grantOf (c : Chassis) (g all : Nat) : Nat :=
  let share := if all = 0 then 0 else g * c.draws / all
  match c.requests with
  | (_, _, n) :: _ => max share n
  | [] => share

/-- A purse after a grant (R420). -/
def fillPurse (p g : Nat) : Nat := max p (min (p + g) purseMax)

/-- The tokens of an epoch: purses, and what was added to them. -/
def epochTokens (s : State) (power : Nat) : State :=
  -- G = Max(0, Floor((ceiling − (P − X)) · 175,438)), with X · 175,438 the tokens consumed
  let g := ((s.ceiling : Int) * tokensPerWatt + s.consumed - (power : Int) * tokensPerWatt).toNat
  let all := dies.foldl (fun n d => n + (chassisOf s d).draws) 0
  dies.foldl (fun s d =>
    let c := chassisOf s d
    let p := fillPurse c.purse (grantOf c g all)
    { s.setChassis d { c with purse := p, draws := 0 } with tokens := min (2 ^ 32 - 1) (s.tokens + (p - c.purse)) })
    { s with tokens := 0 }

/-- DUTY_ADJUST (R421). -/
def nextDuty (duty ceiling power : Nat) : Nat :=
  if ceiling < power then max 1 (duty - 1) else if power + 20 ≤ ceiling then min 8 (duty + 1) else duty

/-- The performance states after an epoch that ran at duty `d` (R423): counts of consecutive epochs, and the steps they bring. -/
def epochStates (s : State) (d : Nat) : State :=
  let slow := if d ≤ 4 then s.slowEpochs + 1 else 0
  let fast := if d = 8 ∧ s.power * 10 < s.ceiling * 9 then s.fastEpochs + 1 else 0
  let s := { s with slowEpochs := if slow = 100 then 0 else slow, fastEpochs := if fast = 1000 then 0 else fast }
  if slow = 100 then dies.foldl (fun s d => if (chassisOf s d).parkState = 0 then stepBy s d 1 else s) s
  else if fast = 1000 then dies.foldl (fun s d => stepBy s d (-1)) s
  else s

/-- POWER_EPOCH (R420): at the end of each µs from S3 on, with the power of each chassis in W. -/
def execPowerEpoch (watts : List Nat) (s : State) : Host.Outcome State Fault Refusal :=
  if s.stage ≠ 3 || decide (s.ns < s.epoch + 1000) then .next s else
  let p := watts.foldl (· + ·) 0
  let s := epochTokens s p
  .next (epochStates { s with power := min 2047 p, duty := nextDuty s.duty s.ceiling p, consumed := 0, epoch := s.epoch + 1000 } s.duty)

/-! ## The thermal governor (R425 to R428) -/

/-- The highest state whose threshold a reading reaches. Readings are in units of 0.125 °C. -/
def stateAt (t1 t2 t3 reading : Nat) : Nat := if t3 ≤ reading then 3 else if t2 ≤ reading then 2 else if t1 ≤ reading then 1 else 0

/-- The target state (R426) from the current one. -/
def targetState (cur reading : Nat) : Nat :=
  let up := stateAt 680 760 816 reading
  if cur < up then up else min cur (stateAt 656 736 792 reading)

/-- The state that the governor chooses (R428): under the host-assisted policy not below the floor. -/
def chosenState (c : Chassis) (reading : Nat) : Nat :=
  let t := targetState c.ts reading
  if c.thctl.getLsbD 0 then max (bitsOf c.thctl.toNat 2 1) t else t

/-- Whether the governor is to hold (R427): entered at 105 °C, left below 102 °C. `cur` is hold as the samples so far have left it. -/
def chosenHold (cur : Bool) (reading : Nat) : Bool := if 840 ≤ reading then true else if reading < 816 then false else cur

/-- The time, in twelve-hundredths of a nanosecond, and 1 µs in that unit. -/
def timeOf (s : State) : Nat := 1200 * s.ns + s.nsPart

def microsecond : Nat := 1200000

/-- The change that a sample leaves pending (R426): none where the value chosen is the current one, and a change that pends keeps its time. -/
def pend {α : Type} [DecidableEq α] (old : Option (α × Nat)) (cur new : α) (due : Nat) : Option (α × Nat) :=
  if new = cur then none else some (new, (old.map (·.2)).getD due)

/-- What a sample of a temperature chooses (R425 to R428): the target of ts, and hold. An entry to hold that comes with a change of ts takes
the time of that change (R427). -/
def sampled (s : State) (c : Chassis) (reading : Nat) : Chassis :=
  let due := timeOf s + microsecond
  let ts := pend c.tsNext c.ts (chosenState c reading) due
  let want := chosenHold ((c.holdNext.map (·.1)).getD c.hold) reading
  let hold := pend c.holdNext c.hold want (if want then (ts.map (·.2)).getD due else due)
  { c with tsNext := ts, holdNext := hold, sampled := some (timeOf s) }

/-- THERMAL_SAMPLE (R425, R426), every 1 µs: the sixteen readings of a chassis, of which the highest counts. At 115 °C the thermal stop
removes power from the module (R427). -/
def execThermalSample (ch : Nat) (readings : List Nat) (s : State) : Host.Outcome State Fault Refusal :=
  let c := chassisOf s ch
  let reading := readings.foldl max 0
  if readings.length ≠ 16 || (c.sampled.any fun t => decide (timeOf s < t + microsecond)) then .next s
  else if 920 ≤ reading then .next { s with powered := false }
  else .next (s.setChassis ch (sampled s c reading))

/-- The throttle event (R428, R435). -/
def throttleEvent (s : State) (d : Nat) : State :=
  let c := chassisOf s d
  let v := c.ts % 4 + (if c.hold then 4 else 0) + 8 * (c.ps % 8) + 256 * (c.since % 2 ^ 56)
  sendEvent s { ty := 11, ch := d, data := [v] }

/-- Whether a pending change takes effect in the present clock of a chassis: its clk is a multiple of 64, and the time has come (R426). -/
def ripe {α : Type} (s : State) (c : Chassis) (x : Option (α × Nat)) : Bool := c.clk % 64 == 0 && x.any fun e => decide (e.2 ≤ timeOf s)

/-- THROTTLE_CHANGE (R426): a new throttle state takes effect. -/
def throttleNow (s : State) (d : Nat) : State :=
  let c := chassisOf s d
  match c.tsNext with
  | some (t, _) =>
    if ripe s c c.tsNext then throttleEvent (s.setChassis d { c with ts := t, tsNext := none, since := c.clk % 2 ^ 56 }) d else s
  | none => s

/-- HOLD_CHANGE (R427): an entry to hold or its end takes effect. -/
def holdNow (s : State) (d : Nat) : State :=
  let c := chassisOf s d
  match c.holdNext with
  | some (h, _) =>
    if ripe s c c.holdNext then throttleEvent (s.setChassis d { c with hold := h, holdNext := none, since := c.clk % 2 ^ 56 }) d else s
  | none => s

/-- What the governor changes in the present clock of a chassis; the clock itself brings it about (R453). -/
def governorStep (s : State) (d : Nat) : State := holdNow (throttleNow s d) d

def execThrottleChange (ch : Nat) (s : State) : Host.Outcome State Fault Refusal := .next (throttleNow s ch)

def execHoldChange (ch : Nat) (s : State) : Host.Outcome State Fault Refusal := .next (holdNow s ch)

end Sys2Proof.Machine
end

