-- ==== Sys2Proof/Machine/Clock.lean ====
section
/-! DEFINITION. The passing of time: one clock of 1,200 MHz for the module, and the clocks of each chassis at its own rate (00 R5, 20 R423);
ages and blocked counts (18 R402, 08 R193), and the work clocks of the matrix units (15 R358, 03 R81). -/

namespace Sys2Proof.Machine

/-- Whether a clock is a work clock of the matrix units (R358). -/
def workClock (ts clk : Nat) : Bool :=
  match ts with
  | 2 => clk % 2 == 0
  | 3 => clk % 4 == 0
  | _ => !stolenClock ts clk

/-- Whether waiting for a reason blocks a carriage in the sense of R193. -/
def Wait.blocking : Wait → Bool
  | .wait _ _ _ _ => true
  | .waitc _ => true
  | .waitg _ => true
  | .fence => true
  | .exit => true
  | .bar _ => true
  | .sleep => true
  | .member => true
  | .queue => true
  | .tag => true
  | .scopew _ => true
  | .translation => false
  | .report => false
  | .yard => false
  | .resource => false

/-- What a carriage waits for in this clock: what an event of its own ends, or a reason found at its next instruction. -/
def waitNow (s : State) (c : Coach) (j : Nat) (k : Carriage) : Option Wait :=
  if k.wait.any Wait.event then k.wait
  else if k.parked || clkOf s c < k.yieldUntil then none
  else
    match fetchOf s c j k with
    | .ok i _ =>
      (match notReady s c j k i with
      | some w => if w.blocking then some w else none
      | none => none)
    | _ => none

/-- One clock of a carriage: its blocked count (R187, R193). -/
def clockCarriage (s : State) (c : Coach) (j : Nat) (k : Carriage) : Carriage :=
  let w := waitNow s c j k
  { k with wait := w, blocked := if w.any Wait.blocking then k.blocked + 1 else 0 }

/-- One clock of a resident coach: its age, up to 1,024 (R402), and its carriages. -/
def clockCoach (s : State) (c : Coach) : Coach :=
  if c.resid != .resident then c else
  let clk := clkOf s c + 1
  let age := min 1024 (c.age + 1)
  { c with
    age := age
    agedAt := if age = 1024 ∧ c.age < 1024 then clk else c.agedAt
    raised := []
    slots := c.slots.map fun e => (e.1, clockCarriage s c e.1 e.2) }

/-- The clocks that a work clock spans (R358). -/
def workSpan (ts : Nat) : Nat :=
  match ts with
  | 2 => 2
  | 3 => 4
  | _ => 1

/-- One clock of a core's matrix unit: the running instruction does one work clock, whose span is over at the clk `ends`. -/
def clockCore (work : Bool) (ends : Nat) (k : Core) : Core :=
  match k.matq with
  | e :: es => if work && e.started && e.work != 0 then { k with matq := { e with work := e.work - 1, ends := ends } :: es } else k
  | [] => k

/-- The format slots of a train at a clk: each block that FMTL has read is written when its clocks are over (R342). -/
def clockTrain (clk : Nat) (t : Train) : Train :=
  if t.loads.isEmpty then t else
  { t with
    fmts := (t.loads.filter fun e => e.1 ≤ clk).foldl (fun m e => mset m e.2.1 e.2.2) t.fmts
    loads := t.loads.filter fun e => clk < e.1 }

/-- One clock of a bus: a tester yields to an operation that has waited for 16 clocks (R82). -/
def clockBus (s : State) (clk : Nat) (b : Bus) : Bus :=
  let late (t : Nat) : Bool := t + 16 ≤ clk
  let waited := (b.arrivals.any fun e => e.live s && late e.since)
    || b.queues.any fun q => q.2.any fun e => e.live s && late e.since
  if b.state = 1 && waited then { b with state := 0, lastOp := clk } else b

/-- One clock of a chassis; a change of its governor that is due takes effect at the clock that begins (R426, R453). -/
def clockChassis (s : State) (d : Nat) : State :=
  let c := chassisOf s d
  let c : Chassis := { c with buses := c.buses.map fun (e : Nat × Bus) => (e.1, clockBus s (c.clk + 1) e.2) }
  let coaches := s.coaches.map fun e => (e.1, if e.2.ch = d then clockCoach s e.2 else e.2)
  let work := workClock c.ts c.clk
  let ends := c.clk + workSpan c.ts
  let trains := s.trains.map fun t => if t.ch = d then clockTrain (c.clk + 1) t else t
  governorStep { s.setChassis d { c with clk := c.clk + 1, cores := c.cores.map fun e => (e.1, clockCore work ends e.2) } with
    coaches := coaches, trains := trains } d

/-- The share of a chassis in one module clock: it clocks when its own rate has come round (R423). -/
def turnChassis (s : State) (d : Nat) : State :=
  let s := endStep s d
  let c := chassisOf s d
  let n := c.phase + c.mhz
  if 1200 ≤ n then let s := clockChassis s d; s.setChassis d { chassisOf s d with phase := n - 1200 }
  else s.setChassis d { c with phase := n }

/-- One module clock: 1,000 / 1,200 ns, and the clocks of the chassis (R5, R67); then events of launches that have waited are raised. -/
def tick (s : State) : State :=
  let n := s.nsPart + 1000
  let s := dies.foldl turnChassis { s with ns := s.ns + n / 1200, nsPart := n % 1200 }
  s.launches.foldl (fun s l => payOwed s l.id) s

end Sys2Proof.Machine
end

