-- ==== Sys2Proof/Machine/Perform.lean ====
section
/-! DEFINITION. Performing the accesses of outstanding operations: when an access may be performed (06 R136, R140, R142, 03 R76), what it reads
and writes at its home, in an L1, at a bank-side unit or in a typed buffer (03 R69 to R79, 04 R95 to R107), and how its result comes back
to the coach (10 R253, R256, 03 R75). -/

namespace Sys2Proof.Machine

/-! ## Finding and updating accesses -/

/-- An access of an outstanding operation, with its place in it. -/
structure Site1 where
  c : Coach
  o : Op
  p : Piece
  i : Nat := 0
  deriving DecidableEq, Repr

/-- The access that a reference names. -/
def accessOf (s : State) (r : OpRef) : Option Site1 :=
  match coachOf s r.key with
  | none => none
  | some c =>
    match opOf c r.op with
    | none => none
    | some o =>
      match o.pieces[r.piece]? with
      | some p => some { c := c, o := o, p := p, i := r.piece }
      | none => none

/-- Replace an element of a list by its place. -/
def setNth {α : Type} (l : List α) (n : Nat) (a : α) : List α := l.set n a

/-- Replace accesses of an operation; it is done once all are complete, and what is complete leaves its counter (R253). -/
def putPieces (s : State) (key id : Nat) (ps : List Piece) : State :=
  match coachOf s key with
  | none => s
  | some c =>
    let c := updateOp c id fun o => { o with pieces := ps, done := o.done || ps.all fun p => 2 ≤ p.phase }
    checkCoach (s.setCoach key c) key

/-- Replace one access. -/
def putPiece (s : State) (r : OpRef) (o : Op) (p : Piece) : State := putPieces s r.key o.id (setNth o.pieces r.piece p)

/-! ## Order -/

/-- Whether an access must come before another: they have a common byte, or both are stores to the host, which leave in issue order
(R157). -/
def Piece.leads (r p : Piece) (stores : Bool) : Bool := r.waits && (r.meets p || (stores && r.space == .host && p.space == .host))

/-- Whether an operation is an atomic. -/
def OpKind.isAtomic : OpKind → Bool
  | .atomic _ _ => true
  | _ => false

/-- Whether a coach's accesses of two kinds to one byte are performed in issue order (R136): commands are not ordered with loads and stores
(R76). -/
def OpKind.ordered (a b : OpKind) : Bool :=
  if a.isCmd then b.isCmd || b.isAtomic else if b.isCmd then a.isAtomic else true

/-- Whether an earlier access of the same coach to a common byte is still to be performed (R136), or one of a lower lane of the same store or
atomic (R319), but for those that are performed with it, at the places `is`. The accesses of the outrider are not ordered with the coach's
(R152). -/
def behindOwn (x : Site1) (is : List Nat := []) : Bool :=
  x.c.ops.any fun q => q.outrider == x.o.outrider && q.kind.ordered x.o.kind
    && ((q.stamp < x.o.stamp && q.pieces.any fun r => r.leads x.p (q.stores && x.o.stores))
      || (q.id == x.o.id && q.kind.writes && (List.range x.i).any fun j => !is.contains j
        && (q.pieces[j]?).any fun r => r.leads x.p q.stores))

/-- Whether two accesses lie in one sector of local memory. -/
def Piece.sameSector (p q : Piece) : Bool := p.space == .mem && q.space == .mem && p.addr / 32 == q.addr / 32

/-- Whether stores of a core to a sector, issued before a place in the issue order, are still to be performed (R96). -/
def coreStoresOpen (s : State) (g stamp : Nat) (p : Piece) : Bool :=
  s.coaches.any fun e => e.2.gcore == g && e.2.ops.any fun q =>
    q.stamp < stamp && q.stores && q.pieces.any fun r => r.waits && r.sameSector p

/-- Whether an access can be performed, with those at the places `is`, as far as the order of its coach and core goes. -/
def inOrder (s : State) (x : Site1) (is : List Nat := []) : Bool :=
  !behindOwn x is && !(x.p.space == .mem && coreStoresOpen s x.c.gcore x.o.stamp x.p) && !(x.o.release && releaseWaits s x.c x.o)

/-- How an access stands to the home of its byte: reachable at this moment, later, or beyond a broken ring (R176 to R178). -/
inductive Reach where
  | now | later | never
  deriving DecidableEq, Repr

/-- The reach of a place from a chassis; a peer port that has failed is as a broken ring (R181). -/
def reachAt (s : State) (ch : Nat) (sp : Space) (a : Nat) : Reach :=
  let toDie (d : Nat) : Reach := if !reachable s ch d then .never else if pathOpen s ch d then .now else .later
  match sp with
  | .mem => (match toDie (homeAt a).d with
    | .now => if sliceOpen s (homeAt a).d then .now else .later
    | r => r)
  | .control => toDie (a / 2 ^ 22 % 16)
  | .host => toDie 0
  | .peer =>
    let d := 2 * (a / 2 ^ 40 % 8) + 1
    -- an access waits at a port that retrains
    if !peerTrained s (a / 2 ^ 40 % 8) then .never else if (chassisOf s d).peer.state = 2 then (if reachable s ch d then .later else .never)
    else toDie d
  | .buf _ g => if stolenNow s (g / 16) then .later else .now

/-- The reach of an access of a coach. -/
def reachOf (s : State) (c : Coach) (p : Piece) : Reach := reachAt s c.ch p.space p.addr

/-- Whether the L1 shows a store of the core that was issued behind a load: such a load is served at the home, so that what its coach has
read never lies behind a release of the coach (R142). -/
def readsAhead (s : State) (x : Site1) : Bool :=
  (openStores s x.c.gcore).any fun q => x.o.stamp < q.1 && q.2.shown && q.2.meets x.p

/-- Whether a load goes through the L1 of its core (R95, R101, R140). -/
def usesL1 (x : Site1) : Bool := x.p.space == .mem && x.p.attr.l1 && !(x.o.acquire && scopeWide x.c x.o.scope)

/-- Whether a load may be served by what the L1 of its core holds (R95, R140, R142). -/
def mayHit (s : State) (x : Site1) : Bool := usesL1 x && !readsAhead s x

/-- Whether an access is served in the L1 of its core and crosses no ring: a load that hits (R95), a store or a narrow atomic in a line that
the core owns (R107). -/
def servedHere (s : State) (x : Site1) : Bool :=
  x.p.space == .mem && (match x.o.kind with
    | .load => mayHit s x && l1Holds s x.c.gcore x.p.addr x.p.size
    | .store => l1Owns s x.c.gcore (lineOf x.p.addr)
    | .atomic _ _ => x.p.site == .l1 && l1Owns s x.c.gcore (lineOf x.p.addr)
    | _ => false)

/-- The reach of the place where an access is served. -/
def reachSite (s : State) (x : Site1) : Reach := if servedHere s x then .now else reachOf s x.c x.p

/-! ## Values -/

/-- The bytes of an access's data. -/
def Piece.bytes (p : Piece) : List Byte := leBytes p.size p.data

/-- The words that a load writes to consecutive registers (R321). -/
def loadWords (size bits : Nat) (signed : Bool) (v n : Nat) : List W32 :=
  let v := if bits < 32 ∧ signed then lowBits (signExt v bits) 32 else v % 2 ^ (8 * size)
  (List.range n).map fun i => BitVec.ofNat 32 (v / 2 ^ (32 * i))

/-- The outbound ports among some destinations. -/
def portsIn (rs : List VDst) : List Nat :=
  (rs.filterMap fun r => match r with
    | .port q => some q
    | _ => none).eraseDups

/-- A value arrives at its destination (R253, R320); one that arrives at a port is pushed there (R207). -/
def deliver (c : Coach) (p : Piece) (v : Nat) : Coach :=
  match p.dst with
  | .none => c
  | .elem _ _ => c
  | .scalar r => writeSD c r (BitVec.ofNat 64 (v % 2 ^ (8 * p.size)))
  | .vec rs bits signed =>
    let ws := loadWords p.size bits signed v rs.length
    let c := (List.zip rs ws).foldl (fun c e => writeVD c p.lane e.1 e.2) c
    advancePorts c ((portsIn rs).filter fun q => (portOf c q).dir = .outbound) [p.lane]

/-- A destination of an access that failed holds no usable value (R32, R408): a free one. -/
def deliverFree (s : State) (c : Coach) (p : Piece) : Coach × State :=
  let (bs, s) := takeFreeBytes s p.size
  (deliver c p (leNat bs), s)

/-- The coach with its registers changed. -/
def State.putCoach (s : State) (c : Coach) : State := s.setCoach c.key c

/-- An access of a load or returning atomic ends well. -/
def returnValue (s : State) (r : OpRef) (x : Site1) (v : Nat) : State :=
  let s := s.putCoach (deliver x.c x.p v)
  putPiece s r x.o { x.p with phase := 2, result := v }

/-- An access ends with an error (R256); a destination takes a free value. -/
def failPiece (s : State) (r : OpRef) (x : Site1) (cause : Nat) : State :=
  let (c, s) := deliverFree s x.c x.p
  putPiece (s.putCoach c) r x.o { x.p with phase := 2, err := some cause }

/-- An access that returns nothing ends. -/
def completePiece (s : State) (r : OpRef) (x : Site1) : State := putPiece s r x.o { x.p with phase := 2 }

/-! ## Loads -/

/-- What an acquire does when its last value has returned (R97, R140). -/
def acquireDone (s : State) (c : Coach) (o : Op) : State :=
  if o.acquire && scopeWide c o.scope then l1Acquire s c.gcore else s

/-- A load from local memory: from the L1 where it holds the bytes and may (R95, R140), though the bus of their home be lost (DESIGN CHOICE, log
entry 69); else at the home, and where its page may be in the L1 its sector fills it, in place of an older copy. An access that passes the L1
by leaves no older copy there (R143). -/
def loadLocal (s : State) (x : Site1) : Except Nat Nat × State :=
  let g := x.c.gcore
  let p := x.p
  if mayHit s x && l1Holds s g p.addr p.size then (.ok (leNat (l1Bytes s g p.addr p.size)), s)
  else if usesL1 x then
    let a := p.addr / 32 * 32
    match tryRead s p.attr a 32 with
    | (.ok bs, s) => (.ok (leNat ((bs.drop (p.addr % 32)).take p.size)), l1Fill s g a bs)
    | (.error e, s) => (.error e, s)
  else
    match tryRead s p.attr p.addr p.size with
    | (.ok bs, s) => (.ok (leNat bs), l1Drop s g p.addr p.size)
    | (.error e, s) => (.error e, s)

/-- A read through the host or a peer window (R29 to R32): its far end answers with a value that the module does not fix, or with a failure. -/
def loadWindow (s : State) (size : Nat) : Except Nat Nat × State :=
  if s.doing.ecc = .uncorrectable then (.error 0x20, s) else
  let (bs, s) := takeFreeBytes s size
  (.ok (leNat bs), s)

/-- The value of a load, but for the control window. -/
def loadValue (s : State) (x : Site1) : Except Nat Nat × State :=
  match x.p.space with
  | .mem => loadLocal s x
  | .host => loadWindow s x.p.size
  | .peer => loadWindow s x.p.size
  | .buf kind g => (.ok (leNat (bufRead s g kind x.p.addr x.p.size)), s)
  | .control => (.ok 0, s)

/-! ## Stores -/

/-- The places in an operation of the accesses to one sector that stand in a phase. -/
def sectorGroup (o : Op) (wa phase : Nat) : List Nat :=
  (List.range o.pieces.length).filter fun i =>
    match o.pieces[i]? with
    | some p => p.phase == phase && p.addr / 32 == wa / 32
    | none => false

/-- Change the accesses at some places. -/
def mapPieces (ps : List Piece) (is : List Nat) (f : Piece → Piece) : List Piece :=
  (List.range ps.length).filterMap fun i => (ps[i]?).map fun p => if is.contains i then f p else p

/-- The accesses that are performed with a store: those of its instruction to the same sector of local memory, under the same attributes,
which reach the home as one write (R69, R71); elsewhere it alone. -/
def storeGroup (x : Site1) : List Nat :=
  if x.p.space = .mem then
    (sectorGroup x.o x.p.addr 0).filter fun i => match x.o.pieces[i]? with
      | some q => q.space == .mem && q.attr == x.p.attr
      | none => false
  else [x.i]

/-- The bytes of a group of stores, by ascending lane. -/
def groupParts (x : Site1) (is : List Nat) : Parts :=
  is.filterMap fun i => (x.o.pieces[i]?).map fun q => (q.addr, q.bytes)

/-- The L1 of a core behind stores that have been performed at their home: it has shown some since their issue and takes the late ones now (R96,
R147); a sector that it did not hold when the others issued, and has taken since, leaves it (R136). -/
def settleL1 (s : State) (g : Nat) (ps : List Piece) : State :=
  ps.foldl (fun s p =>
    if p.late then l1Update s g p.addr p.bytes else if p.shown then s else l1Drop s g p.addr p.size) s

/-- A store into local memory (R96, R100, R69), with those that are performed with it: at the home, or in place in a line that its core owns. One
that fails leaves no bytes of its own in the L1 (R71). -/
def storeLocal (s : State) (x : Site1) : Option Nat × State :=
  let g := x.c.gcore
  let ln := lineOf x.p.addr
  let is := storeGroup x
  let ps := is.filterMap fun i => x.o.pieces[i]?
  if l1Owns s g ln then (none, ps.foldl (fun s p => l1Update s g p.addr p.bytes) (dropCode (clearScan s x.p.addr) g ln))
  else
    match writeSector s (some g) (groupParts x is) x.p.attr with
    | (some e, s) => (some e, l1Drop s g x.p.addr x.p.size)
    | (none, s) => (none, settleL1 s g ps)

/-- A store, but for the control window: the cause of an error, if any. -/
def storeValue (s : State) (x : Site1) : Option Nat × State :=
  match x.p.space with
  | .mem => storeLocal s x
  | .host => (none, { s with hostWrites := s.hostWrites ++ [(x.p.addr, x.p.bytes)] })
  | .peer =>
    if s.doing.ecc = .uncorrectable then (some 0x20, s)
    else (none, { s with peerWrites := s.peerWrites ++ [(x.p.addr / 2 ^ 40 % 8, x.p.addr % 2 ^ 40, x.p.bytes)] })
  | .buf kind g => (none, bufWrite s g kind x.p.addr x.p.bytes)
  | .control => (none, s)

/-- A line of a CFLUSH (R335): it is recalled and written back; an unavailable bus discards it (R84). -/
def flushLine (s : State) (wa : Nat) : State := writeBack (recallLine (enterSlice s wa) (lineOf wa)) (lineOf wa)

/-- A line of a CINV (R335): the issuing core's L1 drops it, an owned one after its dirty bytes have gone home. -/
def dropLine (s : State) (g wa : Nat) : State :=
  let s := if l1Owns s g (lineOf wa) then recallLine (enterSlice s wa) (lineOf wa) else s
  l1Drop s g (lineOf wa * 128) 128

/-! ## Atomics (R104 to R107, R326) -/

/-- The new value of an atomic: code, width, old value, operand and, for a compare-and-swap, the new value (R326). -/
def atomNew (aop n old x y : Nat) : Nat :=
  let less (a b : Nat) : Bool := signExt a n < signExt b n
  match aop with
  | 0 => (old + x) % 2 ^ n
  | 1 => Nat.land old x
  | 2 => Nat.lor old x
  | 3 => Nat.xor old x
  | 4 => if less x old then x else old
  | 5 => if less old x then x else old
  | 6 => min old x
  | 7 => max old x
  | 8 => x
  | 9 => (fp32.encode 0 false false (Val.add (fp32.decode false old) (fp32.decode false x) 0).1).1
  | _ => if old = x then y else old

/-- An atomic in a line that its core owns (R107). -/
def atomL1 (s : State) (x : Site1) (aop n : Nat) : Nat × State :=
  let g := x.c.gcore
  let old := leNat (l1Bytes s g x.p.addr x.p.size)
  (old, l1Update (dropCode (clearScan s x.p.addr) g (lineOf x.p.addr)) g x.p.addr (leBytes x.p.size (atomNew aop n old x.p.data x.p.data2)))

/-- An atomic at the home chassis cache; where that neither holds nor allocates the line, at the bank-side unit (R104). -/
def atomHome (s : State) (x : Site1) (aop n : Nat) : Except Nat Nat × State :=
  let g := x.c.gcore
  let p := x.p
  match readHome s p.attr p.addr p.size 2 with
  | (.error e, s) => (.error e, s)
  | (.ok bs, s) =>
    let old := leNat bs
    let s := homeWrite s (some g) p.addr (leBytes p.size (atomNew aop n old p.data p.data2)) p.attr
    (.ok old, l1Drop s g p.addr p.size)

/-- An atomic at the bank-side unit (R77): the home cache removes the line first. -/
def atomBank (s : State) (x : Site1) (aop n : Nat) : Except Nat Nat × State :=
  let s := evictLine (enterSlice s x.p.addr) (lineOf x.p.addr)
  match readSector s x.p.addr 2 true with
  | (some e, s) => (.error e, s)
  | (none, s) =>
    let p := x.p
    let old := leNat (cread s.dram p.addr p.size)
    let s := dropCode (clearScan s p.addr) x.c.gcore (lineOf p.addr)
    (.ok old, l1Drop { s with dram := cwrite s.dram p.addr (leBytes p.size (atomNew aop n old p.data p.data2)) } x.c.gcore p.addr p.size)

/-- Whether an atomic can execute at its site now: a narrow one waits for its line, unless the home cache is off. -/
def atomSiteReady (s : State) (x : Site1) : Bool :=
  x.p.site != .l1 || l1Owns s x.c.gcore (lineOf x.p.addr) || !cacheOnAt s (lineOf x.p.addr)

/-- An atomic executes at its site. -/
def atomAt (s : State) (x : Site1) (aop n : Nat) : Except Nat Nat × State :=
  match x.p.site with
  | .bank => atomBank s x aop n
  | .home => atomHome s x aop n
  | .l1 =>
    if l1Owns s x.c.gcore (lineOf x.p.addr) then let (old, s) := atomL1 s x aop n; (.ok old, s)
    else atomHome s x aop n

/-- The step of an atomic (R105): old value and new one in one step. One that returns nothing is complete. -/
def atomStep (s : State) (r : OpRef) (x : Site1) (aop n : Nat) : State :=
  if !x.p.waits || !inOrder s x || !atomSiteReady s x then s else
  match reachSite s x with
  | .later => s
  | .never => failPiece s r x 0x20
  | .now =>
    match atomAt s x aop n with
    | (.error e, s) => failPiece s r x e
    | (.ok old, s) =>
      if x.p.dst = .none then acquireDone (completePiece s r x) x.c x.o
      else putPiece s r x.o { x.p with phase := 1, result := old }

/-! ## Memory commands (R75 to R79) -/

/-- A sector as 32 bytes. -/
abbrev Sector := List Byte

/-- Bytes of a sector. -/
def sectorNat (m : Sector) (a n : Nat) : Nat := leNat ((m.drop a).take n)

/-- A sector with some bytes replaced. -/
def sectorPut (m : Sector) (a : Nat) (bs : List Byte) : Sector := m.take a ++ bs ++ m.drop (a + bs.length)

/-- MredF of R78: the new word, and flags. -/
def mredF (old x : Nat) (e : Int) (ftz : Bool) : Nat × FlagSet :=
  let add (q : Int) (fl : FlagSet) : Nat × FlagSet :=
    let t := signExt old 64 + q
    (lowBits t 64, fl ||| (if t < -(2 ^ 63) ∨ 2 ^ 63 ≤ t then fOF else 0))
  match fp32.decode ftz x with
  | .nan _ => (old, fIV)
  | .inf _ => (old, fIV)
  | .zero _ => add 0 0
  | .fin v =>
    let y := v.scale (-e)
    let q := roundInt y 0
    add q (if (Rat'.ofInt q).eqv y then 0 else fNX)

/-- One word of MSAX (R78): one rounding, as VFMA has it. -/
def msaxWord (m : Mode) (a x y : Nat) : Nat × FlagSet :=
  encodeWith fp32 m ((fp32.decode m.ftz a).fma false (fp32.decode m.ftz x) (fp32.decode m.ftz y) m.rnd)

/-- MSAX on a sector. -/
def msax (m : Mode) (a xs : Nat) (sec : Sector) : Sector × FlagSet :=
  (List.range 8).foldl (fun r k =>
    let w := msaxWord m a (xs / 2 ^ (32 * k) % 2 ^ 32) (sectorNat r.1 (4 * k) 4)
    (sectorPut r.1 (4 * k) (leBytes 4 w.1), r.2 ||| w.2)) (sec, 0)

/-- What one lane of a command does to a sector: the sector, the old value, the flags (R78). -/
def cmdLane (k : CmdKind) (m : Mode) (p : Piece) (sec : Sector) : Sector × Nat × FlagSet :=
  let a := p.addr % 32
  match k with
  | .mredI n => (sectorPut sec a (leBytes (n / 8) (sectorNat sec a (n / 8) + p.data)), 0, 0)
  | .mredF e => let r := mredF (sectorNat sec a 8) p.data e m.ftz; (sectorPut sec a (leBytes 8 r.1), 0, r.2)
  | .mcas n =>
    let old := sectorNat sec a (n / 8)
    (if old = p.data then sectorPut sec a (leBytes (n / 8) p.data2) else sec, old, 0)
  | .msax => let r := msax m p.data p.data2 sec; (r.1, 0, r.2)
  | .mwrm =>
    ((List.range 4).foldl (fun sec i => if bitOf p.data2 i then sectorPut sec (a + i) [BitVec.ofNat 8 (p.data / 256 ^ i)] else sec) sec, 0, 0)

/-- The bytes of a sector that an MWRM command writes, as a mask. -/
def mwrmMask (ps : List Piece) : Nat := ps.foldl (fun m p => Nat.lor m (p.data2 * 2 ^ (p.addr % 32))) 0

/-- The lanes of a command on a sector in ascending order: the sector, and the accesses with their results. -/
def cmdLanes (k : CmdKind) (m : Mode) (ps : List Piece) (is : List Nat) (sec : Sector) : Sector × List Piece :=
  is.foldl (fun r i =>
    match r.2[i]? with
    | some p => let (sec, old, fl) := cmdLane k m p r.1; (sec, setNth r.2 i { p with phase := 1, result := old, flags := fl })
    | none => r) (sec, ps)

/-- Whether an earlier command of a coach to a sector is still to execute (R76), or an earlier atomic on a byte of the command there (R136). -/
def behindCommand (c : Coach) (o : Op) (p : Piece) : Bool :=
  c.ops.any fun q => q.stamp < o.stamp && ((q.kind.isCmd && q.pieces.any fun r => r.waits && r.sameSector p)
    || (q.kind.isAtomic && !q.outrider && q.pieces.any fun r => r.waits && o.pieces.any fun t => t.sameSector p && r.meets t))

/-- A command executes on its sector (R72, R77): the home cache has removed the line, and an error leaves the sector unchanged and goes with
the reply (R71). An MWRM whose mask is empty reads and writes nothing (R78). -/
def cmdExecute (s : State) (r : OpRef) (x : Site1) (k : CmdKind) : State :=
  let is := sectorGroup x.o x.p.addr 0
  let wa := x.p.addr / 32 * 32
  let mask := mwrmMask (is.filterMap fun i => x.o.pieces[i]?)
  let fails (e : Nat) (s : State) : State := putPieces s r.key x.o.id (mapPieces x.o.pieces is fun p => { p with phase := 1, err := some e })
  let s := evictLine (enterSlice s wa) (lineOf wa)
  match openSector s wa 2 (k = .mwrm && (mask = 2 ^ 32 - 1 || mask = 0)) with
  | (some e, s) => fails e s
  | (none, s) =>
    if k = .mwrm && mask = 0 then putPieces s r.key x.o.id (mapPieces x.o.pieces is fun p => { p with phase := 1 }) else
    let (sec, ps) := cmdLanes k x.o.mode x.o.pieces is (cread s.dram wa 32)
    let s := mend (dropCode (clearScan s wa) x.c.gcore (lineOf wa)) wa
    putPieces { s with dram := cwrite s.dram wa sec } r.key x.o.id ps

/-- BANK_OPERATION of a command. -/
def cmdStep (s : State) (r : OpRef) (x : Site1) (k : CmdKind) : State :=
  if !x.p.waits || behindCommand x.c x.o x.p then s else
  match reachOf s x.c x.p with
  | .later => s
  | .never =>
    putPieces s r.key x.o.id (mapPieces x.o.pieces (sectorGroup x.o x.p.addr 0) fun p => { p with phase := 1, err := some 0x20 })
  | .now => cmdExecute s r x k

/-- A command's reply returns (R75): flags are set, old values written, and the issuing core's L1 drops the sector (R149). A reply that the
divided ring cuts off ends the command with cause 0x20 (R178). -/
def replyStep (s : State) (r : OpRef) (x : Site1) : State :=
  let is := sectorGroup x.o x.p.addr 1
  if is.isEmpty || (reachOf s x.c x.p == .later) then s else
  let lost := reachOf s x.c x.p == .never
  let ps := (is.filterMap fun i => x.o.pieces[i]?).map fun p => if lost then { p with err := some 0x20, flags := 0 } else p
  let fl := ps.foldl (fun f p => f ||| p.flags) 0
  let give (cs : Coach × State) (p : Piece) : Coach × State :=
    if p.err.isSome then deliverFree cs.2 cs.1 p else (deliver cs.1 p p.result, cs.2)
  let (c, s) := ps.foldl give (addFlagsAt x.c x.o.level x.o.fslot fl, s)
  let s := l1Drop (s.putCoach c) c.gcore (x.p.addr / 32 * 32) 32
  putPieces s r.key x.o.id (mapPieces x.o.pieces is fun p => { p with phase := 2, err := if lost then some 0x20 else p.err })

/-! ## Caches -/

/-- Whether an outstanding access of some coach lies in a line, satisfying a test. -/
def wanted (s : State) (test : Coach → Op → Piece → Bool) : Bool :=
  s.coaches.any fun e => e.2.ops.any fun o => o.pieces.any fun p => p.waits && test e.2 o p

/-- CACHE_FILL_RETURN at the chassis cache (R100, R101): a sector of a line that is present or that an outstanding access allocates. An error
allocates nothing; the access that needs the sector meets it in its turn (R71). -/
def fillHome (s : State) (ch wa : Nat) : State :=
  let ln := lineOf wa
  let a := wa / 32 * 32
  let need := s.coaches.findSome? fun e => e.2.ops.findSome? fun o => (o.pieces.find? fun p =>
    p.waits && p.space == .mem && lineOf p.addr == ln && p.attr.allocates).map fun p => p.attr.prio
  if lineDie ln ≠ ch || !cacheOnAt s ln || !(needsCells s a 32) || busLost s wa then s else
  match (cacheLine s ln).map CacheLine.prio, need with
  | none, none => s
  | held, need =>
    match readSector (recallLine (enterSlice s wa) ln) a 1 false with
    | (none, s) => touch (fillSectors s ln [a] ((held.orElse fun _ => need).getD 1)) ln
    | (some _, s) => s

/-- A load of a core that misses its L1 and may fill it (R95, R101). -/
def fillsL1 (g wa : Nat) (c : Coach) (o : Op) (p : Piece) : Bool :=
  c.gcore == g && o.kind == .load && !o.acquire && p.space == .mem && p.attr.l1 && p.addr / 32 == wa / 32

/-- CACHE_FILL_RETURN at an L1 (R95): the sector of an outstanding load, which no outstanding store of the core may reach (R96). -/
def fillL1 (s : State) (g wa : Nat) : State :=
  let a := wa / 32 * 32
  let d := (homeAt a).d
  let probe : Piece := { lane := 0, addr := a, va := 0, size := 32 }
  if !(wanted s (fillsL1 g a)) || l1Holds s g a 32 || coreStoresOpen s g s.nextId probe || !pathOpen s (g / 16) d || !reachable s (g / 16) d
    then s else
  match tryRead s plainAttr a 32 with
  | (.error _, s) => s
  | (.ok bs, s) => l1Fill s g a bs

/-- A narrow atomic of a core that waits for a line (R104, R107). -/
def wantsLine (g ln : Nat) (c : Coach) (_ : Op) (p : Piece) : Bool :=
  c.gcore == g && p.site == .l1 && p.space == .mem && lineOf p.addr == ln

/-- L1_OWNERSHIP_GRANT (R107): the home records the owner and passes the whole line, unless park entry runs there (R109). -/
def grantLine (s : State) (g wa : Nat) : State :=
  let ln := lineOf wa
  let d := (homeAt wa).d
  let open_ := (List.range 4).any fun i =>
    coreStoresOpen s g s.nextId { lane := 0, addr := ln * 128 + 32 * i, va := 0, size := 32 }
  if !(wanted s (wantsLine g ln)) || !cacheOnAt s ln || (chassisOf s d).parkState == 1 || l1Owns s g ln || open_ || !pathOpen s (g / 16) d
    || !reachable s (g / 16) d then s else
  match tryRead s plainAttr (ln * 128) 128 with
  | (.error _, s) => s
  | (.ok bs, s) =>
    let s := match cacheLine s ln with
      | some l => setLine s ln { l with owner := some g }
      | none => s
    let s := if (l1Line s g ln).isSome then s else l1Room s g ln
    let k := coreG s g
    let bytes := (List.range 128).foldl (fun m i => mset m i (bs.getD i 0)) ([] : RMap 8)
    s.setCoreG g { k with l1 := mset k.l1 ln { bytes := bytes, owned := true } }

end Sys2Proof.Machine
end

