-- ==== Sys2Proof/Machine/CarriageEvents.lean ====
section
/-! DEFINITION. The events of carriages: the ends of their waits (10 R255 to R257, 11 R279 to R281, 14 R325, R328), the siding (08 R193), barriers
(16 R372), the nest bit of a frame (16 R367), and the end of an outrider context (14 R330). -/

namespace Sys2Proof.Machine

/-! ## Ends of waits -/

/-- What a waiting carriage of a coach that may issue does, by its reason. -/
def whenWaiting (s : State) (r : SlotRef) (f : Iss → Wait → State) : State :=
  match coachOf s r.key with
  | none => s
  | some c =>
    match mget c.slots r.slot with
    | none => s
    | some k =>
      match k.wait with
      | none => s
      | some w => if c.canIssue then f { c := c, slot := r.slot, k := k } w else s

/-- WAIT_CONDITION_MET (R255, R256). -/
def execWaitConditionMet (r : SlotRef) (s : State) : Host.Outcome State Fault Refusal :=
  .next (whenWaiting s r fun x w => match w with
    | .wait l st cp t => waitStep s x l st cp t
    | _ => s)

/-- WAITC_CONDITION_MET (R257). -/
def execWaitcConditionMet (r : SlotRef) (s : State) : Host.Outcome State Fault Refusal :=
  .next (whenWaiting s r fun x w => match w with
    | .waitc n => waitcStep s x n
    | _ => s)

/-- WAITG_CONDITION_MET (R328). -/
def execWaitgConditionMet (r : SlotRef) (s : State) : Host.Outcome State Fault Refusal :=
  .next (whenWaiting s r fun x w => match w with
    | .waitg m => waitgStep s x m
    | _ => s)

/-- EXIT_WAIT_END (R279). -/
def execExitWaitEnd (r : SlotRef) (s : State) : Host.Outcome State Fault Refusal :=
  .next (whenWaiting s r fun x w => match w with
    | .exit => exitStep s x
    | _ => s)

/-- SLEEP_WAKE (R281): the wake value stands in the carriage. -/
def execSleepWake (r : SlotRef) (s : State) : Host.Outcome State Fault Refusal :=
  .next (whenWaiting s r fun x w => match w with
    | .sleep => if x.k.wake ≤ clkOf s x.c then retire s x x.c 4 else s
    | _ => s)

/-- YIELD_EXPIRE (R280): the carriage is ready again. -/
def yieldStep (s : State) (r : SlotRef) : State :=
  match coachOf s r.key with
  | none => s
  | some c =>
    match mget c.slots r.slot with
    | none => s
    | some k =>
      if k.yieldUntil ≤ clkOf s c then s.setCoach r.key { c with slots := mset c.slots r.slot { k with yieldUntil := 0 } } else s

/-- YIELD_EXPIRE (R280). -/
def execYieldExpire (r : SlotRef) (s : State) : Host.Outcome State Fault Refusal := .next (yieldStep s r)

/-! ## FENCE (R325) -/

/-- Whether a carriage in a slot waits at a FENCE of a record. -/
def fenceWaiter (f : FenceRec) (k : Carriage) : Bool := k.wait == some .fence && k.lanes &&& ~~~f.lanes == 0

/-- The FENCE whose end is due for a slot: that of its carriage, or one whose carriage lies in the siding. -/
def fenceDue (s : State) (c : Coach) (slot : Nat) : Option FenceRec :=
  c.fences.find? fun f => fenceMet s c f && (match (mget c.slots slot).any (fenceWaiter f) with
    | true => true
    | false => !c.slots.any fun e => fenceWaiter f e.2)

/-- FENCE_CONDITION_MET (R325): the L1 is invalidated where the scope holds another core, the coach's memory instructions resume, and the
carriage goes on. -/
def fenceEnd (s : State) (r : SlotRef) : State :=
  match coachOf s r.key with
  | none => s
  | some c =>
    match fenceDue s c r.slot with
    | none => s
    | some f =>
      let s := if f.wide then l1Acquire s c.gcore else s
      let c' := { c with fences := c.fences.erase f }
      s.setCoach r.key (if (mget c.slots r.slot).any (fenceWaiter f) then advance c' r.slot 4 else c')

/-- FENCE_CONDITION_MET (R325). -/
def execFenceConditionMet (r : SlotRef) (s : State) : Host.Outcome State Fault Refusal := .next (fenceEnd s r)

/-! ## The siding (R193) -/

/-- Whether a blocked carriage gives up its slot: blocked for 16 clocks, and not promoted within 16 clocks. -/
def demotable (s : State) (c : Coach) (k : Carriage) : Bool :=
  16 ≤ k.blocked && (k.promoted == 0 || k.promoted + 16 ≤ clkOf s c) && c.siding.any fun e => e.held.isNone

/-- CARRIAGE_DEMOTE (R193). -/
def demoteStep (s : State) (r : SlotRef) : State :=
  match coachOf s r.key with
  | none => s
  | some c =>
    match mget c.slots r.slot with
    | none => s
    | some k => if demotable s c k then s.setCoach r.key (demote c r.slot (clkOf s c)) else s

/-- CARRIAGE_DEMOTE (R193). -/
def execCarriageDemote (r : SlotRef) (s : State) : Host.Outcome State Fault Refusal := .next (demoteStep s r)

/-! ## Barriers (R372, R153) -/

/-- Whether a coach has arrived at a barrier: every lane that has not exited is in its set. -/
def arrivedAt (c : Coach) (n : Nat) : Bool := rget c.arrived n ||| c.exited == BitVec.allOnes 32

/-- The coaches of a train that have not ended. -/
def coachesIn (s : State) (train : Nat) : List (Nat × Coach) := s.coaches.filter fun e => e.2.train == train

/-- Whether a train's barrier lets its coaches go: some lane waits there, every coach has arrived, and what the arrivals release has been
performed (R153, R140). -/
def barrierMet (s : State) (t : Train) (n : Nat) : Bool :=
  let cs := coachesIn s t.id
  cs.any (fun e => rget e.2.arrived n != 0) && cs.all (fun e => arrivedAt e.2 n && !unfenced e.2)
    && (t.cores.length ≤ 1 || !s.coaches.any fun e => e.2.ch == t.ch && t.cores.contains e.2.core && e.2.ops.any fun o =>
      o.kind == .store && o.pieces.any fun p => p.phase == 0)

/-- BARRIER_DEPART (R372). A coach with lanes in the set departs, an evicted one when it comes back too; the departure is an acquire at the scope of the train (R153, R97). -/
def departStep (s : State) (train n : Nat) : State :=
  match trainOf s train with
  | none => s
  | some t =>
    if !barrierMet s t n then s else
    let s := if t.cores.length ≤ 1 then s else t.cores.foldl (fun s k => l1Acquire s (16 * t.ch + k)) s
    let depart (c : Coach) : Coach := match c.resid with
      | .saved _ _ => { c with arrived := mdel c.arrived n, departs := c.departs ++ [n] }
      | _ => departCoach c n
    (coachesIn s train).foldl (fun s e => if rget e.2.arrived n == 0 then s else s.setCoach e.1 (depart e.2)) s

/-- BARRIER_DEPART (R372). -/
def execBarrierDepart (train n : Nat) (s : State) : Host.Outcome State Fault Refusal := .next (departStep s train n)

/-! ## Frames and outrider contexts -/

/-- SV_STATUS_NEST_WRITE (R367): a carriage at the frame's level writes nest = 1 to its status. -/
def nestStep (s : State) (r : SlotRef) (hyp : Bool) : State :=
  match coachOf s r.key with
  | none => s
  | some c =>
    match mget c.slots r.slot with
    | none => s
    | some k =>
      let x : Level := if hyp then .H else .S
      if k.level = x then s.setCoach r.key (rearm c k.fslot x) else s

/-- SV_STATUS_NEST_WRITE (R367). -/
def execSvStatusNestWrite (r : SlotRef) (hyp : Bool) (s : State) : Host.Outcome State Fault Refusal := .next (nestStep s r hyp)

/-- OUTRIDER_END (R330). -/
def outriderEnd (s : State) (r : CoachRef) : State :=
  match coachOf s r.key with
  | none => s
  | some c =>
    if outriderOver c then checkCoach (s.setCoach r.key { c with outr := { c.outr with ended := true } }) r.key else s

/-- OUTRIDER_END (R330). -/
def execOutriderEnd (r : CoachRef) (s : State) : Host.Outcome State Fault Refusal := .next (outriderEnd s r)

end Sys2Proof.Machine
end

