-- ==== Sys2Proof/Machine/Dispatcher.lean ====
section
/-! DEFINITION. The dispatchers: room on cores and partitions (08 R185, R202, 04 R87, R99, 18 R396), forming trains, coaches and outrider contexts
(08 R184, R202 to R206, 22 R441), batches and homes (18 R395), the order of grants and pre-emption (18 R397, R404), gang launches (R398), and the
coach yard (08 R210 to R212). -/

namespace Sys2Proof.Machine

/-! ## Room -/

/-- The coaches on a core. -/
def onCore (s : State) (ch core : Nat) : List Coach :=
  (mvals s.coaches).filter fun c => c.ch == ch && c.core == core && c.occupies

/-- The coaches on a partition. -/
def onPart (s : State) (ch core part : Nat) : List Coach := (onCore s ch core).filter fun c => c.part == part

/-- A sum over a list. -/
def total {α : Type} (xs : List α) (f : α → Nat) : Nat := xs.foldl (fun n x => n + f x) 0

/-- How many more coaches of V vector registers a partition takes (R185). -/
def partRoom (s : State) (ch core part v : Nat) : Nat :=
  let cs := onPart s ch core part
  min (8 - cs.length) ((512 - total cs Coach.vregs) / max 1 v)

/-- The partitions of a core. -/
def parts : List Nat := List.range 16

/-- Free vector register space of a core (R396). -/
def freeRegs (s : State) (ch core : Nat) : Nat := 16 * 512 - total (onCore s ch core) Coach.vregs

/-- The queue-store entries of a kernel's coach (R185). -/
def Kernel.entries (k : Kernel) : Nat := total k.ports fun p => if p.1 = .none then 0 else p.2

/-- The queue-store entries that a coach holds. -/
def Coach.entries (c : Coach) : Nat := total (mvals c.ports) fun p => if p.dir = .none then 0 else p.depth

/-- The coaches of a core that hold queue-store entries and an outrider context there: those on it, and those that have ended whose outrider
still drains complete entries (R205, R207). -/
def storing (s : State) (ch core : Nat) : List Coach :=
  (mvals s.coaches).filter fun c => c.ch == ch && c.core == core && (c.occupies || c.gone)

/-- Free queue-store entries of a core (R99). -/
def coreEntries (s : State) (ch core : Nat) : Nat := 2048 - total (storing s ch core) Coach.entries

/-- Whether a coach has an outrider context (R205, R212). -/
def Coach.hasOutrider (c : Coach) : Bool := c.access && !c.yard

/-- Free outrider contexts of a core, of 128 (R205). -/
def coreContexts (s : State) (ch core : Nat) : Nat := 128 - ((storing s ch core).filter Coach.hasOutrider).length

/-- The windows of the trains on a core: base and size of a kind. -/
def usedWindows (s : State) (ch core kind : Nat) : List (Nat × Nat) :=
  s.trains.flatMap fun t => if t.ch ≠ ch then [] else
    (List.range t.cores.length).filterMap fun i =>
      if t.cores[i]? = some core then some ((mget t.windows i).getD {} |> fun w => match kind with
        | 1 => (w.aBase, w.aSize)
        | 2 => (w.wBase, w.wSize)
        | _ => (w.cBase, w.cSize)) else none

/-- The lowest free base for a window in a buffer of `cap` bytes, in units (R87). -/
def gapFor (used : List (Nat × Nat)) (cap unit size : Nat) : Option Nat :=
  if size = 0 then some 0 else
  ((List.range (cap / unit)).map (· * unit)).find? fun b =>
    b + size ≤ cap && used.all fun w => w.2 == 0 || b + size ≤ w.1 || w.1 + w.2 ≤ b

/-- The windows that a core gives a train of a kernel (R87). -/
def windowsFor (s : State) (ch core : Nat) (k : Kernel) : Option Windows :=
  match gapFor (usedWindows s ch core 1) 0x200000 0x10000 k.aSize, gapFor (usedWindows s ch core 2) 0x60000 0x10000 k.wSize,
    gapFor (usedWindows s ch core 3) 0x100000 0x20000 k.cSize with
  | some a, some w, some c =>
    some { aBase := a, aSize := k.aSize, wBase := w, wSize := k.wSize, cBase := c, cSize := k.cSize }
  | _, _, _ => none

/-- The number of coaches of a train (R202). -/
def Launch.coachCount (l : Launch) : Nat := (l.extent 0 + 31) / 32

/-- Coaches on each core of a train, the last one taking the rest (R202). -/
def Launch.perCore (l : Launch) : Nat := (l.coachCount + l.cores - 1) / max 1 l.cores

/-- Whether `per` coaches of a kernel fit on an empty core (R202). -/
def fitsEmpty (k : Kernel) (per : Nat) : Bool :=
  per ≤ 16 * min 8 (512 / max 1 k.vregs) && per * k.entries ≤ 2048 && k.aSize ≤ 0x200000 && k.wSize ≤ 0x60000 && k.cSize ≤ 0x100000

/-- The core count that a kernel and e0 fix (R202). -/
def coreCount (k : Kernel) (n : Nat) : Option Nat := [1, 2, 3, 4].find? fun c => fitsEmpty k ((n + c - 1) / c)

/-- The coaches on the cores of a train, by train-core index (R202): the last core that takes any has what is left. -/
def Launch.shares (l : Launch) : List Nat := (List.range l.cores).map fun i => min l.perCore (l.coachCount - i * l.perCore)

/-- Whether a core has the room that a train of a launch needs there for `n` coaches (R396). The model asks each core for room for the
coaches that it takes, not for a full share (DESIGN CHOICE, log entry 62: R202 fixes the count by the full share and is silent on room). -/
def coreTakes (s : State) (ch core : Nat) (l : Launch) (n : Nat) : Bool :=
  let k := l.kernel
  n ≤ total parts (fun p => partRoom s ch core p k.vregs) && n * k.entries ≤ coreEntries s ch core
    && (k.access.isNone || n ≤ coreContexts s ch core) && (windowsFor s ch core k).isSome && (!k.matrix || (coreOf s ch core).holder.isNone)

/-! ## The order of grants (R397) -/

/-- The priority of a coach's launch. -/
def prioOf (s : State) (c : Coach) : Nat := ((launchOf s c.launch).map Launch.prio).getD 0

/-- Whether an evicted coach waits for the dispatcher to restore it (R404, R414). -/
def Coach.waitsRestore (c : Coach) : Bool :=
  match c.resid with
  | .saved held _ => !held
  | _ => false

/-- Whether a bay is to form a coach (R211). -/
def Bay.ripe (b : Bay) : Bool := b.expired || 32 ≤ b.recs.length

/-- Whether an evicted coach waits to come back to a core. -/
def restoreFirst (s : State) (ch core : Nat) : Bool := s.coaches.any fun e => e.2.ch == ch && e.2.core == core && e.2.waitsRestore

/-- Whether freed space of a core goes to an evicted coach or to a forming yard coach before any train (R397). -/
def coreOwed (s : State) (ch core : Nat) : Bool := restoreFirst s ch core || (coreOf s ch core).bays.any fun b => b.2.ripe

/-- Whether a launch still has a place in a chassis's dispatcher (R394). -/
def Launch.at (l : Launch) (ch : Nat) : Bool := !l.stopped && l.refused.isNone && l.places.getLsbD ch

/-- The launch that a dispatcher serves first: by priority, and within one by handoff (R397). -/
def headAt (s : State) (ch : Nat) : Option Launch :=
  (s.launches.filter fun l => l.at ch).foldl (fun b l => match b with
    | none => some l
    | some x => if x.prio < l.prio then some l else b) none

/-- Whether a chassis is neither parked nor to be (R430). -/
def dieOpen (s : State) (ch : Nat) : Bool := let c := chassisOf s ch; !c.parkReq && c.parkState == 0

/-- The launch for which pre-emption has made room on a chassis, while the dispatcher serves it first: the room is for its train (R404), ahead
of what R397 grants freed space to. -/
def reservedFor (s : State) (ch : Nat) : Option Nat :=
  if dieOpen s ch && (headAt s ch).map Launch.id == (chassisOf s ch).reserved then (chassisOf s ch).reserved else none

/-- Reserve what pre-emption frees on some chassis, or end it. -/
def reserve (ds : List Nat) (r : Option Nat) (s : State) : State :=
  ds.foldl (fun s d => s.setChassis d { chassisOf s d with reserved := r }) s

/-- The cores that can take `n` coaches of a train of a launch now. -/
def candidates (s : State) (ch : Nat) (l : Launch) (n : Nat) : List Nat :=
  if dieOpen s ch then parts.filter fun k => coreTakes s ch k l n && (reservedFor s ch == some l.id || !coreOwed s ch k) else []

/-- The core with the most free vector register space, the lower number at ties (R396). -/
def roomiest (s : State) (ch : Nat) (ks : List Nat) : Option Nat :=
  ks.foldl (fun b k => match b with
    | none => some k
    | some x => if freeRegs s ch x < freeRegs s ch k then some k else b) none

/-- The cores for the shares of a train, in train-core order, each the roomiest of those that can take it and are not taken (R396). -/
def pickCores (s : State) (ch : Nat) (l : Launch) : List Nat → List Nat → Option (List Nat)
  | _, [] => some []
  | taken, n :: ns =>
    match roomiest s ch ((candidates s ch l n).filter fun k => !taken.contains k) with
    | none => none
    | some k => (pickCores s ch l (k :: taken) ns).map (k :: ·)

/-- The cores for a train of a launch on a chassis (R396). -/
def coresFor (s : State) (ch : Nat) (l : Launch) : Option (List Nat) := pickCores s ch l [] l.shares

/-! ## Forming a train -/

/-- The fields f1 to f5 of a train (R392). -/
def Launch.fields (l : Launch) (t : Nat) : List Nat :=
  ((List.range 5).foldl (fun (r : List Nat × Nat) i =>
    let e := max 1 (l.extent (i + 1))
    (r.1 ++ [r.2 % e], r.2 / e)) ([], t)).1

/-- The work id of a train, with f0 zero (R203). -/
def Launch.widOf (l : Launch) (t : Nat) : W64 :=
  BitVec.ofNat 64 (((List.range 5).foldl (fun (r : Nat × Nat) i =>
    (r.1 + (l.fields t).getD i 0 * 2 ^ r.2, r.2 + l.width (i + 1))) (0, l.width 0)).1)

/-- The lowest free handle of a chassis (R411). -/
def freeHandle (s : State) (ch : Nat) : Option Nat := (List.range 4096).find? fun h => (coachOf s (coachKey ch h)).isNone

/-- The free coach places of a partition. -/
def freePlaces (s : State) (ch core part : Nat) : Nat := 8 - (onPart s ch core part).length

/-- The partition with the most free coach places of those with room for V registers, the lower one at ties (R396). -/
def partFor (s : State) (ch core v : Nat) : Nat :=
  let better (p b : Nat) : Bool := partRoom s ch core p v != 0 && (partRoom s ch core b v == 0 || freePlaces s ch core b < freePlaces s ch core p)
  parts.foldl (fun b p => if better p b then p else b) 0

/-- The lowest free place of a partition. -/
def placeFor (s : State) (ch core part : Nat) : Nat :=
  ((List.range 8).find? fun p => !(onPart s ch core part).any fun c => c.place == p).getD 0

/-- The work ids of the lanes of coach `j` of a train (R203). -/
def laneIds (wid : W64) (j : Nat) : RMap 64 := laneNums.map fun l => (l, wid + BitVec.ofNat 64 (32 * j + l))

/-- The lanes of coach `j` that the extent of f0 leaves out (R184). -/
def lanesOut (e0 j : Nat) : Mask := maskOf (laneNums.filter fun l => e0 ≤ 32 * j + l)

/-- The queue ports of a kernel (R206). -/
def Kernel.qports (k : Kernel) : SMap QPort :=
  (List.range 8).filterMap fun n => match k.ports[n]? with
    | some (d, depth) => if d = .none then none else some (n, { dir := d, depth := depth })
    | none => none

/-- The outrider context of coach `j` on train-core index `tc` (R205, R441). -/
def Kernel.outrider (k : Kernel) (j tc : Nat) : Outrider :=
  match k.access with
  | some a => { live := true, pc := a, s := [(1, BitVec.ofNat 64 j), (2, BitVec.ofNat 64 tc)] }
  | none => {}

/-- A coach of a train as it is formed (R184, R202). -/
def formCoach (l : Launch) (t : Train) (vmid : BitVec 12) (j tc core part place handle born : Nat) : Coach :=
  let out := lanesOut t.extent j
  { ch := t.ch, handle := handle, core := core, part := part, place := place, train := t.id, index := j, tcore := tc, launch := l.id
    vmid := vmid, pasid := l.pasid, vregs := l.kernel.vregs, access := l.kernel.access.isSome, exited := out
    slots := [(0, { pc := l.kernel.entry, lanes := ~~~out })], workId := laneIds t.wid j, ports := l.kernel.qports
    outr := l.kernel.outrider j tc, born := born }

/-- Put coach `j` of a train on its core. -/
def addCoach (l : Launch) (t : Train) (s : State) (j : Nat) : State :=
  let tc := j / max 1 l.perCore
  let core := t.cores.getD tc 0
  let part := partFor s t.ch core l.kernel.vregs
  let vmid := BitVec.ofNat 12 (vmidOf s t.ch)
  let c := formCoach l t vmid j tc core part (placeFor s t.ch core part) ((freeHandle s t.ch).getD 0) s.nextId
  ({ s with nextId := s.nextId + 1 } : State).setCoach c.key c

/-- Clear the windows of a train on a core, and give it the matrix unit where it needs one, empty (R90, R345, R396). -/
def clearCore (s : State) (id g : Nat) (w : Windows) (matrix : Bool) : State :=
  let k := coreG s g
  let k := { k with aBuf := cclear k.aBuf w.aBase w.aSize, wBuf := cclear k.wBuf w.wBase w.wSize, cBuf := cclear k.cBuf w.cBase w.cSize }
  s.setCoreG g (if matrix then
    { k with cells := [], segs := 0, scales := [], scaleBlock := 256, btype := 15, csrerr := false, holder := some id } else k)

/-- A record of a copy program as a copy of a train (R393), accepted in its context at once. -/
def programCopy (l : Launch) (t : Train) (s : State) (r : List Byte) : State :=
  let f (off n : Nat) : Nat := leNat ((r.drop off).take n)
  let ctl := f 28 1
  let tc := bitsOf ctl 5 4
  let chan := 4 * tc + bitsOf ctl 1 0
  let len := f 16 2 + 1
  let rows := f 18 2 + 1
  let ctx := (((trainOf s t.id).bind fun u => mget u.chans chan)).getD {}
  let y : Copy :=
    { id := s.nextId, train := t.id, chan := chan, ctx := { vmid := vmidOf s t.ch, pasid := l.pasid.toNat, hyp := false }, ch := t.ch
      core := t.cores.getD tc 0, form := .two rows (signExt (f 20 4) 32) len, len := len, total := len * rows
      src := .glob (BitVec.ofNat 64 (f 0 8 + t.index * f 8 8)), dst := .buf (bitsOf ctl 3 2) tc (BitVec.ofNat 64 (f 24 4))
      phase := 1, base := ctx.accepted }
  let s := { s with nextId := s.nextId + 1, copies := s.copies ++ [y] }
  s.setTrain t.id fun u =>
    { u with chans := mset u.chans chan { ctx with accepted := ctx.accepted + y.total, queue := ctx.queue ++ [y.id] } }

/-- A launch gives up its place in a dispatcher that has nothing more to do for it (R394). -/
def settlePlaces (l : Launch) : Launch :=
  { l with places := dies.foldl (fun m d =>
      if l.counter = l.trains && !l.held.any fun h => h.2 == d then m &&& ~~~(1#16 <<< d) else m) l.places }

/-- Start a train of a launch on cores of a chassis (R396, R202, R154, R393). -/
def startTrain (s : State) (l : Launch) (ch index : Nat) (cores : List Nat) : State :=
  let ws := (List.range cores.length).filterMap fun i => (windowsFor s ch (cores.getD i 0) l.kernel).map fun w => (i, w)
  let t : Train :=
    { id := s.nextId, launch := l.id, index := index, ch := ch, cores := cores, wid := l.widOf index, extent := l.extent 0
      coaches := l.coachCount, windows := ws, matrix := l.kernel.matrix, left := l.coachCount, prio := l.prio, gang := l.gang }
  let s := ws.foldl (fun s w => clearCore s t.id (16 * ch + cores.getD w.1 0) w.2 l.kernel.matrix) s
  -- the start is a system-scope acquire of the train's agents
  let s := cores.foldl (fun s k => l1Acquire s (16 * ch + k)) s
  let s := { s with nextId := s.nextId + 1, trains := s.trains ++ [t] }
  let s := (List.range l.coachCount).foldl (addCoach l t) s
  let s := l.records.foldl (programCopy l t) s
  s.setLaunch l.id fun l => settlePlaces { l with started := l.started + 1, held := l.held.erase (index, ch) }

/-! ## Batches (R395) -/

/-- The chassis of a local-memory page that is not replicated, by its translation. -/
def homeDie (s : State) (ch : Nat) (l : Launch) (va : W64) : Option Nat × State :=
  match translateNow s ch (vmidOf s ch) l.pasid.toNat .read va with
  | (.ok (pa, a), s) => (if a.repl || regionOf pa != .dram then none else (resolve pa).map Home.d, s)
  | (.error _, s) => (none, s)

/-- The chassis that a placed launch gives a train (R395): by its home address, or by its byte of the host's home table. -/
def homeOfTrain (s : State) (ch : Nat) (l : Launch) (t : Nat) : Option Nat × State :=
  if (dutyOf s ch).getLsbD 2 then
    match localNow s ch (vmidOf s ch) l.pasid.toNat .read (l.hbase + BitVec.ofNat 64 t) with
    | (some (pa, _), s) => let (b, s) := loadPa s ch pa 1; (if b < 16 then some b else none, s)
    | (none, s) => (none, s)
  else
    let a := (List.range 5).foldl (fun (v : W64) i => v + l.coeffs.getD i 0 * BitVec.ofNat 64 ((l.fields t).getD i 0)) l.hbase
    homeDie s ch l a

/-- Where the train of a batch goes: its home where that is in the effective mask, else the dispatcher that took it. -/
def trainDie (s : State) (ch : Nat) (l : Launch) (t : Nat) : Nat × State :=
  if !l.placed then (ch, s) else
  match homeOfTrain s ch l t with
  | (some d, s) => (if l.mask.getLsbD d then d else ch, s)
  | (none, s) => (ch, s)

/-- A batch of up to 8 indices (R395). -/
def takeBatch (s : State) (ch : Nat) (l : Launch) : State :=
  let ts := (List.range (min 8 (l.trains - l.counter))).map (l.counter + ·)
  let (s, hs) := ts.foldl (fun (r : State × List (Nat × Nat)) t =>
    let (d, s) := trainDie r.1 ch l t
    (s, r.2 ++ [(t, d)])) (s, [])
  s.setLaunch l.id fun l => settlePlaces { l with counter := l.counter + ts.length, held := l.held ++ hs }

/-- The next train of a launch that a dispatcher holds: the lowest index (R395). -/
def Launch.nextHeld (l : Launch) (ch : Nat) : Option Nat :=
  ((l.held.filter fun h => h.2 == ch).map Prod.fst).foldl (fun b t => match b with
    | none => some t
    | some x => some (min x t)) none

/-! ## Pre-emption (R404, R413) -/

/-- The slots of a chassis's save pool, 0 while it is not enabled (R413). -/
def poolSize (c : Chassis) : Nat := if c.savebase.getLsbD 0 then min 2048 (bitsOf c.savebase.toNat 63 52) else 0

/-- The lowest free slot of a save pool. -/
def freeSave (c : Chassis) : Option Nat := (List.range (poolSize c)).find? fun i => !c.saveUsed.contains i

/-- Whether a coach is being evicted. -/
def Coach.leaving (c : Coach) : Bool :=
  match c.resid with
  | .evicting _ => true
  | _ => false

/-- Whether nothing of a coach keeps it from being chosen (R75, R130, R339); a stuck one is left to the hypervisor (R201). -/
def Coach.movable (c : Coach) : Bool :=
  c.resid == .resident && !c.stuck && !c.gone && !c.ops.any fun o => match o.counter with
    | .tag _ => true
    | .cp => true
    | .tl => true
    | _ => false

/-- Whether the dispatcher may choose a coach of its chassis for a launch of a priority: not one of a gang (R398). -/
def evictable (s : State) (prio : Nat) (c : Coach) : Bool :=
  c.movable && prioOf s c < prio && !((launchOf s c.launch).any Launch.gang)

/-- Coaches leave a chassis, as far as their space goes. -/
def without (s : State) (gone : Coach → Bool) : State :=
  { s with coaches := s.coaches.map fun e => (e.1, if gone e.2 then { e.2 with resid := .saved true 0 } else e.2) }

/-- Whether a coach is chosen before another: of lower priority, and within one formed later (R404). -/
def chosenBefore (s : State) (a b : Coach) : Bool :=
  prioOf s a < prioOf s b || (prioOf s a == prioOf s b && b.born < a.born)

/-- Coaches in the order in which pre-emption takes them. -/
def victimOrder (s : State) (cs : List Coach) : List Coach :=
  cs.foldl (fun r c => (r.takeWhile fun x => chosenBefore s x c) ++ c :: (r.dropWhile fun x => chosenBefore s x c)) []

/-- The first coaches whose eviction lets a test succeed; none where no number of them does. -/
def victims (s : State) (ok : State → Bool) : List Coach → List Nat → Option (List Nat)
  | [], gone => if ok (without s fun c => gone.contains c.key) then some gone else none
  | c :: cs, gone =>
    if ok (without s fun c => gone.contains c.key) then some gone else victims s ok cs (gone ++ [c.key])

/-- The tokens granted to a coach return, and its requests go (step 1 of R412, R403). -/
def dropTokens (s : State) (c : Coach) : State :=
  let s := refund s c.ch (total slotNums fun j => (mget c.granted j).getD 0)
  let x := chassisOf s c.ch
  s.setChassis c.ch { x with requests := x.requests.filter fun r => r.1 != c.key }

/-- A miss without some that waited for it. -/
def Miss.strip (gone : Nat × Nat × W64 → Bool) (m : Miss) : Miss :=
  { m with who := m.who.filter fun w => !gone w, others := m.others.filter fun w => !gone w }

/-- The instructions of some coaches that wait at a translation check or at a fetch are withdrawn (step 1 of R412, R408). -/
def withdraw (s : State) (out : Coach → Bool) : State :=
  let gone (w : Nat × Nat × W64) : Bool := w.2.1 ≤ 4 && (coachOf s w.1).any out
  let core (k : Core) : Core := { k with
    misses := k.misses.map (Miss.strip gone)
    failed := (k.failed.map fun f => { f with miss := f.miss.strip gone }).filter fun f => !f.miss.who.isEmpty }
  { s with chassis := s.chassis.map fun e => (e.1, { e.2 with
      misses := e.2.misses.map (Miss.strip gone)
      walks := e.2.walks.map fun w => { w with miss := w.miss.strip gone }
      cores := e.2.cores.map fun k => (k.1, core k.2) }) }

/-- Step 1 of the eviction of some coaches, by the hypervisor (`held`) or the dispatcher (R412): they issue nothing more, an instruction that
waits at its checks is withdrawn, and their tokens return. -/
def startEviction (s : State) (held : Bool) (out : Coach → Bool) : State :=
  { ((mvals s.coaches).filter out).foldl dropTokens (withdraw s out) with
    coaches := s.coaches.map fun e => (e.1, if out e.2 then { e.2 with resid := .evicting held, granted := [] } else e.2) }

/-- Start the eviction of coaches by the dispatcher; what they free on some chassis is for a launch. -/
def markVictims (s : State) (id : Nat) (ds ks : List Nat) : State := reserve ds (some id) (startEviction s false fun c => ks.contains c.key)

/-- The coaches that pre-emption on some chassis chooses for a test of a launch to succeed, once the evictions under way have ended: none where
it cannot, where no more need go, or where the save pools have too few free slots (R404, R413). -/
def preemption (s : State) (l : Launch) (ds : List Nat) (ok : State → Bool) : Option (List Nat) :=
  let s' := reserve ds (some l.id) (without s Coach.leaving)
  let free (d : Nat) : Nat :=
    poolSize (chassisOf s d) - (chassisOf s d).saveUsed.length - (s.coaches.filter fun e => e.2.ch == d && e.2.leaving).length
  let cs := victimOrder s ((mvals s.coaches).filter fun c => ds.contains c.ch && free c.ch != 0 && evictable s l.prio c)
  match victims s' ok cs [] with
  | none => none
  | some [] => none
  | some ks =>
    if dies.all fun d => (ks.filter fun k => k / 4096 == d).length ≤ free d then some ks else none

/-- Whether a train of a launch fits a chassis. -/
def fitsDie (l : Launch) (ch : Nat) (s : State) : Bool := (coresFor s ch l).isSome

/-- DISPATCHER_TAKE_BATCH (R395): by the dispatcher that serves the launch first, which holds none of its trains and has room for one. -/
def batchStep (s : State) (ch launch : Nat) : State :=
  match headAt s ch with
  | none => s
  | some l =>
    if l.id ≠ launch || l.gang || l.counter = l.trains || (l.nextHeld ch).isSome || s.stage ≠ 3 then s
    else if fitsDie l ch s then takeBatch s ch l else s

/-- DISPATCHER_TAKE_BATCH (R395). -/
def execDispatcherTakeBatch (ch launch : Nat) (s : State) : Host.Outcome State Fault Refusal :=
  .next (during (.turn (.event (.dispatcherTakeBatch ch launch))) .clean (batchStep · ch launch) s)

/-- TRAIN_PLACE (R396, R397, R404): the next train of the launch that the dispatcher serves first is placed where it fits; where it does not,
coaches of lower priority are chosen for eviction. -/
def placeStep (s : State) (ch launch index : Nat) : State :=
  match headAt s ch with
  | none => s
  | some l =>
    if l.id ≠ launch || l.gang || l.nextHeld ch ≠ some index || s.stage ≠ 3 then s else
    match coresFor s ch l with
    | some ks => reserve [ch] none (startTrain s l ch index ks)
    | none =>
      match preemption s l [ch] (fitsDie l ch) with
      | some ks => markVictims s l.id [ch] ks
      | none => s

/-- TRAIN_PLACE (R396). -/
def execTrainPlace (ch launch index : Nat) (s : State) : Host.Outcome State Fault Refusal := .next (placeStep s ch launch index)

/-! ## Gang launches (R398) -/

/-- The chassis where a train of a gang launch may start: its home, or in order all of the effective mask. -/
def gangDies (s : State) (l : Launch) (t : Nat) : List Nat × State :=
  let ds := dies.filter fun d => l.mask.getLsbD d
  if !l.placed then (ds, s) else
  let (d, s) := trainDie s (ds.headD 0) l t
  ([d], s)

/-- Start the trains of a gang launch from an index on; none where one of them does not fit. -/
def gangAll (l : Launch) : Nat → Nat → State → Option State
  | 0, _, s => some s
  | n + 1, t, s =>
    let (ds, s) := gangDies s l t
    match ds.findSome? fun d => (coresFor s d l).map fun ks => (d, ks) with
    | some (d, ks) => gangAll l n (t + 1) (startTrain s l d t ks)
    | none => none

/-- The most trains that the module's coach places hold. -/
def gangLimit : Nat := 32768

/-- All trains of a gang launch started at once, if they all fit. -/
def gangTry (s : State) (l : Launch) : Option State := if gangLimit < l.trains then none else gangAll l l.trains 0 s

/-- The module with no train resident, for the refusal of R398. -/
def emptied (s : State) : State :=
  { s with
    coaches := []
    trains := []
    chassis := s.chassis.map fun e => (e.1, { e.2 with cores := e.2.cores.map fun k => (k.1, { k.2 with holder := none, bays := [] }) }) }

/-- Whether a gang launch is the first in every dispatcher where it has a place. -/
def gangFirst (s : State) (l : Launch) : Bool := dies.all fun d => !l.at d || (headAt s d).any fun h => h.id == l.id

/-- Whether another gang launch reserves space, and keeps it while it stands first (R397, R398). -/
def gangBlocked (s : State) (l : Launch) : Bool :=
  match s.gangHold.bind (launchOf s) with
  | some h => h.id != l.id && gangFirst s h
  | none => false

/-- GANG_START (R398): at most one gang launch reserves space; its trains start together once all fit. -/
def gangStep (s : State) (launch : Nat) : State :=
  match launchOf s launch with
  | none => s
  | some l =>
    if !l.gang || l.counter = l.trains || l.stopped || l.refused.isSome || s.stage ≠ 3 || !gangFirst s l
        || gangBlocked s l then s else
    let ds := dies.filter fun d => l.mask.getLsbD d
    match gangTry s l with
    | some s =>
      (reserve ds none { s with gangHold := none }).setLaunch l.id fun l => settlePlaces { l with counter := l.trains }
    | none =>
      let s := { s with gangHold := some l.id }
      match preemption s l ds (fun s => (gangTry s l).isSome) with
      | some ks => markVictims s l.id ds ks
      | none => s

/-- GANG_START (R398). -/
def execGangStart (launch : Nat) (s : State) : Host.Outcome State Fault Refusal :=
  .next (during (.turn (.event (.gangStart launch))) .clean (gangStep · launch) s)

/-! ## The coach yard (R210 to R212) -/

/-- BAY_TIMER_EXPIRE (R211): the timer runs from the first record. -/
def bayStep (s : State) (ch core bay : Nat) : State :=
  let k := coreOf s ch core
  match mget k.bays bay with
  | none => s
  | some b => if b.deadline ≤ s.ns then s.setCore ch core { k with bays := mset k.bays bay { b with expired := true } } else s

/-- BAY_TIMER_EXPIRE (R211). -/
def execBayTimerExpire (ch core bay : Nat) (s : State) : Host.Outcome State Fault Refusal := .next (bayStep s ch core bay)

/-- The trains that the records of a bay count for, with their numbers (R212). -/
def recordOwners (rs : List YardRec) : List (Nat × Nat) :=
  (rs.map YardRec.train).eraseDups.map fun t => (t, (rs.filter fun r => r.train == t).length)

/-- The coach that a bay forms (R211, R212). -/
def yardCoach (l : Launch) (b : Bay) (ch core part place handle id : Nat) : Coach :=
  let n := b.recs.length
  let lanes := maskOf (laneNums.filter (· < n))
  let at_ (i : Nat) : YardRec := b.recs.getD i { payload := 0, wid := 0, train := 0 }
  { ch := ch, handle := handle, core := core, part := part, place := place, train := id, launch := l.id, yard := true, vmid := b.vmid
    pasid := l.pasid, vregs := l.kernel.vregs, access := l.kernel.access.isSome, exited := ~~~lanes
    slots := [(0, { pc := b.entry, lanes := lanes })], born := id
    workId := (List.range n).map fun i => (i, (at_ i).wid)
    v := (List.range n).map (fun i => (i, (at_ i).payload.setWidth 32))
      ++ (List.range n).map fun i => (32 + i, ((at_ i).payload >>> 32).setWidth 32) }

/-- YARD_COACH_FORM (R211): a ripe bay forms a coach on a partition with room, in a train of its own, behind evicted coaches (R397); none on a
chassis that is parked or to be (R430), nor of room that pre-emption has made for a train (R404). -/
def yardStep (s : State) (ch core bay part : Nat) : State :=
  let k := coreOf s ch core
  match mget k.bays bay with
  | none => s
  | some b =>
    match launchOf s b.launch, freeHandle s ch with
    | some l, some h =>
      if !b.ripe || s.stage ≠ 3 || tearing s l.pasid || 16 ≤ part || partRoom s ch core part l.kernel.vregs = 0 || restoreFirst s ch core
          || !dieOpen s ch || (reservedFor s ch).isSome then s else
      let id := s.nextId
      let t : Train :=
        { id := id, launch := l.id, index := 0, ch := ch, cores := [core], wid := 0, left := 1, yard := true
          parents := recordOwners b.recs, prio := l.prio, gang := l.gang }
      let c := yardCoach l b ch core part (placeFor s ch core part) h id
      let s := s.setCore ch core { k with bays := mdel k.bays bay }
      ({ s with nextId := id + 1, trains := s.trains ++ [t] } : State).setCoach c.key c
    | _, _ => s

/-- YARD_COACH_FORM (R211). -/
def execYardCoachForm (ch core bay part : Nat) (s : State) : Host.Outcome State Fault Refusal := .next (yardStep s ch core bay part)

end Sys2Proof.Machine
end

