-- ==== Sys2Proof/Machine/Firmware.lean ====
section
/-! DEFINITION. The firmware core on d0: queues and their descriptors (18 R383 to R385), packets and bundles (R386, R387, R391, R393, 17 R379,
R380), rounds and slots (R388 to R390), and handing launches to the dispatchers (R394, R399). -/

namespace Sys2Proof.Machine

/-! ## Descriptors (R384) -/

/-- Bit `en` and bit `err` of a descriptor's state. -/
def descEn (s : State) (q : Nat) : Bool := bitOf (descField s q 14 1) 0
def descErr (s : State) (q : Nat) : Bool := bitOf (descField s q 14 1) 1

/-- The function that a queue belongs to. -/
def descFunc (s : State) (q : Nat) : Nat := descField s q 15 1

/-- Whether a queue is served at all (R383, R385, R387). -/
def queueLive (s : State) (q : Nat) : Bool :=
  s.qtbase.getLsbD 0 && q < min 4096 s.qtsize && descEn s q && !descErr s q

/-- Whether a queue has packets to consume. -/
def queueWork (s : State) (q : Nat) : Bool := queueLive s q && descField s q 16 8 != descField s q 24 8

/-- Whether a descriptor breaks R384. -/
def descBad (s : State) (q : Nat) : Bool :=
  descField s q 0 8 % 128 != 0 || descField s q 8 4 / 2 ^ 20 != 0 || descField s q 12 1 < 4 || 16 < descField s q 12 1
    || 3 < descField s q 13 1 || 3 < descField s q 14 1 || 16 < descFunc s q
    || (List.range 28).any fun i => descField s q (36 + i) 1 != 0

/-- The chassis in whose partition a queue's packets are translated: the lowest of its function's, or d0 where that has none. -/
def queueDie (s : State) (q : Nat) : Nat := (partitionOf s (descFunc s q)).headD 0

/-- Write bytes of a queue descriptor. -/
def putDesc (s : State) (q off n x : Nat) : State := storePa s 0 (descAddr s q + off) n x plainAttr

/-- Whether the host maps the queues of a function's partition (R389, R440). -/
def hostMapped (s : State) (f : Nat) : Bool :=
  match partitionOf s f with
  | d :: _ => (chassisOf s d).duty.getLsbD 1
  | [] => false

/-! ## Doorbells and slots (R385, R389, R390) -/

/-- The slots of the firmware core. -/
def fwLanes : List Nat := List.range 32

/-- Whether a queue is mapped in some slot. -/
def isMapped (s : State) (q : Nat) : Bool := fwLanes.any fun n => (fwSlotOf s n).valid && (fwSlotOf s n).queue == q

/-- A doorbell (R385, R389): the queue joins the waiting list, unless it is mapped, waits, or is the host's to map. -/
def ringDoorbell (s : State) (org : Origin) (q : Nat) : State :=
  let mine := match org with
    | .host 0 => true
    | .host n => descFunc s q == n
    | .carriage => true
  if s.stage < 2 || !mine || !queueLive s q || isMapped s q || s.fwWaiting.contains q || hostMapped s (descFunc s q) then s
  else { s with fwWaiting := s.fwWaiting ++ [q] }

/-- FW_DOORBELL_WRITE (R385, R389, R433). -/
def execFwDoorbellWrite (org : Origin) (q : Nat) (s : State) : Host.Outcome State Fault Refusal := .next (ringDoorbell s org (q % 4096))

def State.setSlot (s : State) (n : Nat) (f : FwSlot) : State := { s with fwSlots := mset s.fwSlots n f }

/-- A write of fw.slot n (R390): it takes effect at the end of the round. -/
def writeSlot (s : State) (n q : Nat) (valid own : Bool) : State :=
  if 32 ≤ n then s else let f := fwSlotOf s n; s.setSlot n { f with pending := f.pending ++ [(q % 4096, valid, own)] }

/-- The value that a slot's register will have at the end of the round. -/
def slotNext (f : FwSlot) : Nat × Bool × Bool := f.pending.getLastD (f.queue, f.valid, f.hostown)

/-- FW_SLOT_MAP (R390). -/
def execFwSlotMap (n q : Nat) (s : State) : Host.Outcome State Fault Refusal :=
  .next (writeSlot s n q true (slotNext (fwSlotOf s n)).2.2)

/-- FW_SLOT_UNMAP (R390). -/
def execFwSlotUnmap (n : Nat) (s : State) : Host.Outcome State Fault Refusal :=
  let x := slotNext (fwSlotOf s n)
  .next (writeSlot s n x.1 false x.2.2)

/-- FW_SLOT_HOSTOWN (R390). -/
def execFwSlotHostown (n : Nat) (own : Bool) (s : State) : Host.Outcome State Fault Refusal :=
  let x := slotNext (fwSlotOf s n)
  .next (writeSlot s n x.1 x.2.1 own)

/-- Whether the host may map a queue in a slot of its own (R390, R61): the queue's partition lets the host map, and its PASID is not being
torn down. -/
def hostMay (s : State) (q : Nat) : Bool := hostMapped s (descFunc s q) && !tearing s (BitVec.ofNat 20 (queuePasid s q))

/-- One write of a slot takes effect (R390): a slot whose hostown changes is unmapped first; queue and valid change in a slot that is then
the host's. -/
def applyWrite (s : State) (f : FwSlot) (w : Nat × Bool × Bool) : FwSlot :=
  let f := if w.2.2 != f.hostown then { f with hostown := w.2.2, valid := false } else f
  if f.hostown then { f with queue := w.1, valid := w.2.1 && hostMay s w.1, mapped := s.ns } else f

/-- The pending writes of a slot take effect in their order (R390). -/
def applySlot (s : State) (f : FwSlot) : FwSlot := { f.pending.foldl (applyWrite s) f with pending := [] }

/-- Whether a waiting queue can be mapped: not one of a PASID in teardown (R61), nor one that is the host's to map (R390). -/
def canMap (s : State) (q : Nat) : Bool := !tearing s (BitVec.ofNat 20 (queuePasid s q)) && !hostMapped s (descFunc s q)

/-- The first waiting queue that can be mapped. -/
def nextWaiting (s : State) : Option Nat := s.fwWaiting.find? (canMap s)

/-- Whether the firmware core serves a slot's queue: one that is the host's to map only where the host maps it (R390). -/
def slotServes (s : State) (f : FwSlot) : Bool := f.valid && (f.hostown || !hostMapped s (descFunc s f.queue))

/-- A free slot of the firmware core takes the first waiting queue (R389). -/
def fillSlot (s : State) (n : Nat) : State :=
  let f := fwSlotOf s n
  if f.valid || f.hostown then s else
  match nextWaiting s with
  | none => s
  | some q =>
    ({ s with fwWaiting := s.fwWaiting.erase q } : State).setSlot n { f with queue := q, valid := true, mapped := s.ns }

/-- A mapped queue without work, or one that the firmware core does not serve, gives up its slot while any queue waits (R389, R390). -/
def yieldSlot (s : State) (n : Nat) : State :=
  let f := fwSlotOf s n
  if f.valid && !f.hostown && (nextWaiting s).isSome && !(slotServes s f && queueWork s f.queue) then s.setSlot n { f with valid := false } else s

/-- The end of a round (R389, R390). -/
def endRound (s : State) : State :=
  let s := fwLanes.foldl (fun s n => s.setSlot n (applySlot s (fwSlotOf s n))) s
  let s := fwLanes.foldl yieldSlot s
  fwLanes.foldl fillSlot s

/-- The slots of the firmware core that are mapped, the longest first (R389). -/
def mappedOrder (s : State) : List Nat :=
  let ns := fwLanes.filter fun n => (fwSlotOf s n).valid && !(fwSlotOf s n).hostown
  ns.foldl (fun r n =>
    let before (x : Nat) : Bool := (fwSlotOf s x).mapped ≤ (fwSlotOf s n).mapped
    r.takeWhile before ++ n :: r.dropWhile before) []

/-- One slot passes to the first waiting queue; its own queue, if it has work, waits again. -/
def rotateSlot (s : State) (n : Nat) : State :=
  match nextWaiting s with
  | none => s
  | some q =>
    let f := fwSlotOf s n
    let rest := s.fwWaiting.erase q ++ if slotServes s f && queueWork s f.queue then [f.queue] else []
    ({ s with fwWaiting := rest } : State).setSlot n { f with queue := q, mapped := s.ns }

/-- QUEUE_SLOT_ROTATION (R389): at a multiple of 100 µs, as many slots pass on as queues wait. -/
def rotateSlots (s : State) : State :=
  let k := s.ns / 100000
  if k ≤ s.rotation || s.stage < 2 then s else
  let s := { s with rotation := k }
  ((mappedOrder s).take (s.fwWaiting.filter (canMap s)).length).foldl rotateSlot s

/-- QUEUE_SLOT_ROTATION (R389). -/
def execQueueSlotRotation (s : State) : Host.Outcome State Fault Refusal := .next (rotateSlots s)

/-! ## Packets (R386, R387) -/

/-- How a head packet ends a round: consumed, at the head still, or the queue stops with a reason. -/
inductive Served where
  | consumed (s : State)
  | stays (s : State)
  | stop (reason : Nat) (s : State)

/-- A field of a packet. -/
def pkt (p : List Byte) (off n : Nat) : Nat := leNat ((p.drop off).take n)

/-- Whether bytes of a packet are zero. -/
def zeros (p : List Byte) (off n : Nat) : Bool := ((p.drop off).take n).all fun b => b == 0

/-- Whether a packet that is no bundle is malformed (R386, R387). -/
def packetBad (p : List Byte) : Bool :=
  match pkt p 0 1 with
  | 0 => !zeros p 1 127
  | 1 => !zeros p 1 127
  | 2 => 3 < pkt p 1 1 || !zeros p 2 6 || !zeros p 32 96 || pkt p 8 8 % 8 != 0
  | 4 => 1 < pkt p 1 1 || !zeros p 2 6 || !zeros p 24 104 || pkt p 8 8 % 8 != 0
  | 5 => !zeros p 1 7 || !zeros p 16 112 || pkt p 8 8 % 8 != 0
  | _ => true

/-- The condition of a WAITVAL (R386). -/
def waitvalHolds (cond x v : Nat) : Bool :=
  match cond with
  | 0 => x == v
  | 1 => x != v
  | 2 => v ≤ x
  | _ => x < v

/-- The address of a packet, translated in the queue's context (R386, R387). -/
def packetPa (s : State) (q : Nat) (a : Acc) (va : Nat) : Option (Nat × Attr) × State :=
  let d := queueDie s q
  localNow s d (vmidOf s d) (queuePasid s q) a (BitVec.ofNat 64 va)

/-- PACKET_WAITVAL, PACKET_SIGNAL and PACKET_TIMESTAMP (R386). -/
def serveMemory (s : State) (q : Nat) (p : List Byte) : Served :=
  let ty := pkt p 0 1
  let add := ty == 4 && pkt p 1 1 == 1
  match packetPa s q (if ty = 2 then .read else if add then .atomic else .write) (pkt p 8 8) with
  | (none, s) => .stop 2 s
  | (some (pa, at_), s) =>
    let (x, s) := loadPa s (queueDie s q) pa 8
    if ty = 2 then
      if waitvalHolds (pkt p 1 1) (Nat.land x (pkt p 24 8)) (pkt p 16 8) then .consumed s else .stays s
    else
      let v := if ty = 5 then s.ns else if add then x + pkt p 16 8 else pkt p 16 8
      .consumed (storePa s (queueDie s q) pa 8 v at_)

/-! ## Bundles (R391 to R393, R379, R380) -/

/-- The widths of a bundle. -/
def bundleWidths (p : List Byte) : List Nat := (List.range 6).map fun k => pkt p 8 8 / 2 ^ (6 * k) % 64

/-- The extents of a bundle: a stored 0 stands for 2^32. -/
def bundleExtents (p : List Byte) : List Nat :=
  pkt p 16 2 :: (List.range 5).map fun k => let e := pkt p (20 + 4 * k) 4; if e = 0 then 2 ^ 32 else e

/-- Whether a bundle is malformed (R391, R203). -/
def bundleBad (p : List Byte) : Bool :=
  let w0 := pkt p 0 4
  let ws := bundleWidths p
  let es := bundleExtents p
  let ncopy := bitsOf w0 16 12
  let w (k : Nat) : Nat := ws.getD k 0
  let e (k : Nat) : Nat := es.getD k 0
  bitsOf w0 31 17 != 0 || !zeros p 6 2 || bitsOf (pkt p 8 8) 63 36 != 0 || !zeros p 18 2 || bitsOf (pkt p 64 4) 31 12 != 0
    || !zeros p 70 2 || !zeros p 120 8 || 16 < ncopy || w 0 < 5 || 12 < w 0 || ws.any (32 < ·) || 64 < total ws id
    || e 0 = 0 || 2 ^ w 0 < e 0
    || (List.range 5).any (fun k => 2 ^ w (k + 1) < e (k + 1))
    || (!bitOf w0 8 && !zeros p 72 48) || pkt p 40 8 % 64 != 0 || pkt p 48 8 % 8 != 0 || pkt p 56 8 % 32 != 0
    || (ncopy == 0 && pkt p 56 8 != 0)

/-- The direction code of a queue in a kernel header (R379). -/
def dirOf (n : Nat) : Dir := if n = 1 then .inbound else if n = 2 then .outbound else .none

/-- The kernel of a header at an address, if the header is valid (R379, R380). -/
def kernelOf (h : List Byte) (va : W64) : Option Kernel :=
  let flags := pkt h 5 1
  let port (n : Nat) : Nat × Nat := (pkt h (20 + 2 * n) 1, pkt h (21 + 2 * n) 1)
  let ports := (List.range 8).map port
  let entry (off : Nat) : W64 := va + BitVec.ofInt 64 (signExt (pkt h off 4) 32)
  let k : Kernel :=
    { vregs := 8 * pkt h 4 1, entry := entry 8, access := if bitOf flags 0 then some (entry 12) else none, matrix := bitOf flags 1
      trapctl := pkt h 6 1 != 0, aSize := pkt h 16 1 * 0x10000, wSize := pkt h 17 1 * 0x10000, cSize := pkt h 18 1 * 0x20000
      ports := ports.map fun x => (dirOf x.1, x.2 + 1) }
  if pkt h 0 4 != 0x4B480001 || pkt h 4 1 == 0 || 32 < pkt h 4 1 || 3 < flags || 3 < pkt h 6 1 || pkt h 7 1 != 0
      || (!bitOf flags 0 && pkt h 12 4 != 0) || 32 < pkt h 16 1 || 6 < pkt h 17 1 || 8 < pkt h 18 1 || pkt h 19 1 != 0 || !zeros h 36 28
      || ports.any (fun x => 2 < x.1 || 63 < x.2) || (!bitOf flags 0 && ports.any fun x => x.1 != 0) || 2048 < k.entries then none
  else some k

/-- Whether a record of a copy program is refused (R393). -/
def recordBad (k : Kernel) (cores : Nat) (r : List Byte) : Bool :=
  let ctl := pkt r 28 1
  let n := (pkt r 16 2 + 1) * (pkt r 18 2 + 1)
  let kind := bitsOf ctl 3 2
  let size := if kind = 1 then k.aSize else if kind = 2 then k.wSize else k.cSize
  kind = 0 || bitsOf ctl 7 6 != 0 || !zeros r 29 3 || cores ≤ bitsOf ctl 5 4 || 2 ^ 24 < n || size < pkt r 24 4 + n

/-- The effective mask of a launch (R394, R430). -/
def effectiveMask (s : State) (f mask : Nat) : BitVec 16 :=
  dies.foldl (fun m d => if bitOf mask d && ownerOf s d == f && dieOpen s d then m ||| (1#16 <<< d) else m) 0

/-- All cores of the chassis of a mask, by their global numbers. -/
def coresIn (m : BitVec 16) : List Nat := (dies.filter fun d => m.getLsbD d).flatMap fun d => (List.range 16).map (16 * d + ·)

/-- A launch as its bundle gives it, before its header is read. -/
def bundleLaunch (s : State) (q : Nat) (p : List Byte) : Launch :=
  let w0 := pkt p 0 4
  let es := bundleExtents p
  { id := s.nextId, queue := q, func := descFunc s q, pasid := BitVec.ofNat 20 (queuePasid s q), placed := bitOf w0 8, gang := bitOf w0 9
    prio := min (bitsOf w0 11 10) (descField s q 13 1 % 4), mask := effectiveMask s (descFunc s q) (pkt p 4 2), widths := bundleWidths p
    extents := es, sig := BitVec.ofNat 64 (pkt p 48 8), ev := BitVec.ofNat 12 (pkt p 64 4), vector := pkt p 68 2
    hbase := BitVec.ofNat 64 (pkt p 72 8), coeffs := (List.range 5).map fun k => BitVec.ofNat 64 (pkt p (80 + 8 * k) 8)
    trains := (es.drop 1).foldl (· * ·) 1 }

/-- The reason that refuses a launch whose header has been read, if any (R380, R398, R399). -/
def refusal (s : State) (l : Launch) (trapctl : Nat) : Option Nat :=
  let gs := coresIn l.mask
  if l.cores = 0 then some 2
  else if l.kernel.matrix && gs.all fun g => (coreG s g).holder.isSome then some 3
  else if (bitOf trapctl 0 && gs.any fun g => (coreG s g).svTvec == 0) || (bitOf trapctl 1 && gs.any fun g => (coreG s g).hvTvec == 0) then
    some 4
  else if l.gang && (gangTry (emptied s) { l with held := [] }).isNone then some 6
  else if l.records.any (recordBad l.kernel l.cores) then some 7
  else none

/-- The records of a copy program (R393). -/
def readRecords (s : State) (ch : Nat) (l : Launch) (va : Nat) : Nat → Option (List (List Byte)) × State
  | 0 => (some [], s)
  | n + 1 =>
    match readNow s ch (vmidOf s ch) l.pasid.toNat (BitVec.ofNat 64 va) 32 with
    | (none, s) => (none, s)
    | (some r, s) =>
      match readRecords s ch l (va + 32) n with
      | (none, s) => (none, s)
      | (some rs, s) => (some (r :: rs), s)

/-- A refused launch (R399): the top-level update with error, and the event. -/
def refuseLaunch (s : State) (l : Launch) (reason : Nat) : State :=
  let l := { l with refused := some reason, places := 0, counter := l.trains }
  let s := topEvent { s with launches := s.launches ++ [l] } l (queueDie s l.queue) true
  sendEvent s { ty := 7, ch := 0, who := l.queue, data := [reason] }

/-- The launch home (R394). -/
def Launch.home (l : Launch) : Nat := (dies.find? fun d => l.mask.getLsbD d).getD 0

/-- The header and the copy program of a launch are read, and it is refused or handed to its dispatchers (R380, R393, R394); where either
address does not translate into local memory, the queue stops (R387). -/
def handOff (s : State) (l : Launch) (khdr clist ncopy : Nat) : Served :=
  let s := { s with nextId := s.nextId + 1 }
  if l.mask = 0 then .consumed (refuseLaunch s l 5) else
  let ch := l.home
  match readNow s ch (vmidOf s ch) l.pasid.toNat (BitVec.ofNat 64 khdr) 64 with
  | (none, s) => .stop 2 s
  | (some h, s) =>
    match readRecords s ch l clist ncopy with
    | (none, s) => .stop 2 s
    | (some rs, s) =>
      match kernelOf h (BitVec.ofNat 64 khdr) with
      | none => .consumed (refuseLaunch s l 1)
      | some k =>
        let l := { l with kernel := k, cores := (coreCount k l.coachCount).getD 0, records := rs }
        match refusal s l (pkt h 6 1) with
        | some r => .consumed (refuseLaunch s l r)
        | none => .consumed { s with launches := s.launches ++ [{ l with places := l.mask }] }

/-- How many launches have a place in a dispatcher (R394). -/
def placesTaken (s : State) (d : Nat) : Nat := (s.launches.filter fun l => l.at d).length

/-- PACKET_BUNDLE (R391, R394): it stays while a dispatcher that it needs is full. -/
def serveBundle (s : State) (q : Nat) (p : List Byte) : Served :=
  -- h1 to h5 are zero where the host places the trains (R395)
  if bundleBad p || (bitOf (pkt p 0 4) 8 && (dutyOf s (queueDie s q)).getLsbD 2 && !zeros p 80 40) then .stop 1 s else
  let l := bundleLaunch s q p
  if dies.any fun d => l.mask.getLsbD d && 64 ≤ placesTaken s d then .stays s
  else handOff s l (pkt p 40 8) (pkt p 56 8) (bitsOf (pkt p 0 4) 16 12)

/-- A head packet (R386). -/
def servePacket (s : State) (q : Nat) (p : List Byte) : Served :=
  match pkt p 0 1 with
  | 3 => serveBundle s q p
  | 0 => if packetBad p then .stop 1 s else .consumed s
  | 1 => if packetBad p then .stop 1 s else if s.launches.all fun l => l.queue != q || l.topDone then .consumed s else .stays s
  | _ => if packetBad p then .stop 1 s else serveMemory s q p

/-- QUEUE_STOP (R387): err and the reason are written, the slot is freed, and the host is told. -/
def stopQueue (s : State) (q reason : Nat) : State :=
  let s := putDesc s q 14 1 (Nat.lor (descField s q 14 1) 2)
  let s := putDesc s q 32 4 reason
  sendEvent (unmapWhere s fun x => x == q) { ty := 6, ch := 0, who := q, data := [reason] }

/-- A head packet ends: one that is consumed moves rd on (R384). -/
def endPacket (q : Nat) : Served → State
  | .consumed s => putDesc s q 16 8 (descField s q 16 8 + 1)
  | .stays s => s
  | .stop r s => stopQueue s q r

/-! ## Rounds (R388) -/

/-- The bytes of a queue's head packet; none where its slot does not translate into local memory. -/
def readHead (s : State) (q : Nat) : Option (List Byte) × State :=
  let a := descField s q 0 8 + 128 * (descField s q 16 8 % 2 ^ descField s q 12 1)
  let d := queueDie s q
  readNow s d (vmidOf s d) (queuePasid s q) (BitVec.ofNat 64 a) 128

/-- The queue that a slot serves in a round: the lower-numbered slot serves a queue mapped twice (R390). -/
def slotQueue (s : State) (n : Nat) : Option Nat :=
  let f := fwSlotOf s n
  if slotServes s f && queueLive s f.queue && !tearing s (BitVec.ofNat 20 (queuePasid s f.queue))
      && !((List.range n).any fun m => slotServes s (fwSlotOf s m) && (fwSlotOf s m).queue == f.queue) then
    some f.queue
  else none

/-- One lane of a round reads its queue (R388): a queue with a bad descriptor or ring slot stops. -/
def laneHead (r : State × List (Nat × List Byte)) (n : Nat) : State × List (Nat × List Byte) :=
  match slotQueue r.1 n with
  | none => r
  | some q =>
    -- the lane's read of the descriptor, an operation of memory
    let r := ((loadPa r.1 0 (descAddr r.1 q) 64).2, r.2)
    if descBad r.1 q then (stopQueue r.1 q 3, r.2)
    else if !queueWork r.1 q then r
    else
      match readHead r.1 q with
      | (none, s) => (stopQueue s q 2, r.2)
      | (some p, s) => (s, r.2 ++ [(q, p)])

/-- The groups of a round in their order (R388); reserved types come last. -/
def groupOrder : List (Nat → Bool) := [(· == 1), (· == 2), (· == 3), (· == 4), (· == 5), (· == 0), (6 ≤ ·)]

/-- FIRMWARE_ROUND (R388). -/
def runRound (s : State) : State :=
  if s.stage < 2 || !s.qtbase.getLsbD 0 then (if s.stage < 2 then s else endRound s) else
  let (s, heads) := fwLanes.foldl laneHead (s, [])
  let s := groupOrder.foldl (fun s g =>
    (heads.filter fun h => g (pkt h.2 0 1)).foldl (fun s h => endPacket h.1 (servePacket s h.1 h.2)) s) s
  endRound s

/-- FIRMWARE_ROUND (R388). -/
def execFirmwareRound (s : State) : Host.Outcome State Fault Refusal :=
  .next (during (.turn (.event .firmwareRound)) .clean runRound s)

end Sys2Proof.Machine
end

