-- ==== Sys2Proof/Machine/Reduce.lean ====
section
/-! DEFINITION. Ring reductions (07 R171 to R174, 15 R355): contributions at a stop, the partial sums on their way to the root, the rounding
there, and the results at the receivers. -/

namespace Sys2Proof.Machine

/-- The parameters of a reduction: those of its first contribution. -/
def Reduction.args (r : Reduction) : CredArgs := credArgs r.prm r.lit

def reductionOf (s : State) (id : Nat) : Option Reduction := s.reductions.find? fun r => r.id == id

/-- Change a reduction. -/
def State.setReduction (s : State) (id : Nat) (f : Reduction → Reduction) : State :=
  { s with reductions := updFirst (fun r => r.id == id) f s.reductions }

/-- The contributions counted at a stop. -/
def Reduction.countAt (r : Reduction) (ch : Nat) : Nat := (r.contribs.filter fun c => c.ch == ch).length

/-- Whether a chassis takes no part: it is parked (R179, R355). -/
def parkedDie (s : State) (d : Nat) : Bool := (chassisOf s d).parkState == 2

/-- Whether the die mask spans two segments of a broken ring (R178). -/
def Reduction.split (s : State) (r : Reduction) : Bool :=
  dies.any fun d => r.args.mask.getLsbD d && !reachable s d r.args.root

/-- The parts of 32 elements of a reduction (R160). -/
def Reduction.parts (r : Reduction) : List Nat := List.range (r.n / 32)

/-- The key of a part gathered at a chassis. -/
def partKey (ch part : Nat) : Nat := 512 * ch + part

/-- Add the partial sums of a part to those gathered at a chassis, with the chassis whose contributions they hold. -/
def Reduction.gather (r : Reduction) (ch mask part : Nat) (sums : List RxSum) : Reduction :=
  let key := partKey ch part
  { r with
    sums := mset r.sums key (match mget r.sums key with
      | some x => addSums x sums
      | none => sums)
    incl := mset r.incl key (Nat.lor ((mget r.incl key).getD 0) mask) }

/-- Add a contribution's sums, part by part. -/
def Reduction.gatherAll (r : Reduction) (ch mask : Nat) (sums : List RxSum) : Reduction :=
  r.parts.foldl (fun r i => r.gather ch mask i ((sums.drop (32 * i)).take 32)) r

/-- What a chassis has gathered of a part. -/
def Reduction.partAt (r : Reduction) (ch part : Nat) : List RxSum := (mget r.sums (partKey ch part)).getD []

/-- The chassis whose contributions a chassis has of a part. -/
def Reduction.inclAt (r : Reduction) (ch part : Nat) : Nat := (mget r.incl (partKey ch part)).getD 0

/-- Whether a stop has gathered sums of a part. -/
def Reduction.hasPart (r : Reduction) (ch part : Nat) : Bool := (mget r.sums (partKey ch part)).isSome

/-- The parts that a stop has gathered. -/
def Reduction.partsAt (r : Reduction) (ch : Nat) : List Nat := r.parts.filter (r.hasPart ch)

/-- Whether a stop adds nothing more of its own: it is outside the die mask, its count is complete, or its chassis is parked (R355). -/
def settledAt (s : State) (r : Reduction) (d : Nat) : Bool := !r.args.mask.getLsbD d || r.sent.getLsbD d || parkedDie s d

/-- Whether sums of a reduction are on their way: in a packet, or at a stop other than the root's. -/
def sumsAway (s : State) (r : Reduction) : Bool :=
  (dies.any fun d => d != r.args.root && !(r.partsAt d).isEmpty) || s.packets.any fun p => match p.load with
    | .reduction id _ _ _ => id == r.id
    | _ => false

/-- Every element invalid (R173, R178, R355). -/
def invalidSums (n : Nat) : List RxSum := List.replicate n (0, true)

/-- The root's rounding (R173): results and flags. -/
def Reduction.round (r : Reduction) : Reduction :=
  let a := r.args
  let sums := if r.bad then invalidSums a.n
    else r.parts.flatMap fun i => if r.hasPart a.root i then r.partAt a.root i else List.replicate 32 (0, false)
  let rs := sums.map (roundRx a.out a.rnd a.sat a.e)
  { r with results := some (rs.map Prod.fst), flags := rs.foldl (fun f x => f ||| x.2) 0 }

/-- The root rounds once the contributions of every chassis of the mask are there, a parked chassis having none, and no sums are on their way
(R355). -/
def checkRoot (s : State) (id : Nat) : State :=
  match reductionOf s id with
  | none => s
  | some r =>
    let all := r.parts.all fun i => dies.all fun d => !r.args.mask.getLsbD d || bitOf (r.inclAt r.args.root i) d || parkedDie s d
    if r.results.isNone && ((all && !sumsAway s r) || r.split s) then s.setReduction id fun r => { r with bad := r.bad || r.split s }.round else s

/-- A stop sends what it has gathered toward the root, 32 sums in a packet, and keeps nothing of it (R160, R172); at the root it stays. -/
def sendSums (s : State) (id ch : Nat) : State :=
  match reductionOf s id with
  | none => s
  | some r =>
    let root := r.args.root
    if ch = root then checkRoot s id
    else
      let p (i : Nat) : Packet :=
        { id := s.nextId + i, seq := s.nextId + i, src := ch, dst := root, stop := ch, west := !goesEast s ch root
          load := .reduction id (r.inclAt ch i) i (r.partAt ch i) }
      let s := { s with nextId := s.nextId + r.parts.length, packets := s.packets ++ (r.partsAt ch).map p }
      let drop {α : Type} (m : SMap α) : SMap α := (r.partsAt ch).foldl (fun m i => mdel m (partKey ch i)) m
      checkRoot (s.setReduction id fun r => { r with sums := drop r.sums, incl := drop r.incl }) id

/-- The reduction that a contribution of a chassis joins: the first under its tag whose count there is not complete (R355). -/
def openReduction (s : State) (tag ch : Nat) : Option Reduction :=
  s.reductions.find? fun r => r.args.tag == tag && r.countAt ch < r.args.k

/-- Whether a contribution names other parameters than the reduction (R355). -/
def Reduction.differs (r : Reduction) (prm lit : Nat) : Bool :=
  prm != r.prm || lit % 2 ^ 29 != r.lit % 2 ^ 29

/-- A core's contribution arrives at its stop (R172, R355). A contribution that receives no results leaves tl at once. -/
def contribute (s : State) (x : Contribution) (pasid prm lit : Nat) (sums : List RxSum) : State :=
  let a := credArgs prm lit
  let (s, id) := match openReduction s a.tag x.ch with
    | some r => (s, r.id)
    | none =>
      let r : Reduction := { id := s.nextId, tag := a.tag, pasid := pasid, lit := lit, prm := prm, n := a.n }
      ({ s with nextId := s.nextId + 1, reductions := s.reductions ++ [r] }, s.nextId)
  let s := s.setReduction id fun r =>
    let whole := decide (r.args.k ≤ r.countAt x.ch + 1)
    { r.gatherAll x.ch (if whole then 2 ^ x.ch else 0) sums with
      contribs := r.contribs ++ [x], bad := r.bad || r.differs prm lit, sent := if whole then r.sent ||| (1#16 <<< x.ch) else r.sent }
  match reductionOf s id with
  | some r => if r.sent.getLsbD x.ch then sendSums s id x.ch else checkRoot s id
  | none => s

/-- Whether a contributor receives the results (R355). -/
def Reduction.receives (r : Reduction) (x : Contribution) : Bool := r.args.all || x.ch == r.args.root

/-- The contributor with a place in the reduction's list that is to receive the results. -/
def Reduction.receiver (r : Reduction) (who : Nat) : Option Contribution :=
  match r.contribs[who]? with
  | some x => if r.receives x && r.results.isSome && !r.received.contains who then some x else none
  | none => none

/-- A reduction is over once every receiver has its results. -/
def finishReduction (s : State) (id : Nat) : State :=
  match reductionOf s id with
  | none => s
  | some r =>
    let left := (List.range r.contribs.length).any fun i => (r.receiver i).isSome
    if r.results.isSome && !left then { s with reductions := s.reductions.filter fun q => q.id != id } else s

/-- REDUCTION_RESULT (R355, R174): a receiver's results are written, in no stolen clock (R81), the root's flags are raised in its coach, and
the CRED leaves tl. DESIGN
CHOICE, unsafe: R178 gives results at every receiver that can still be reached and is silent on the others; in the model a receiver that a
divided ring cuts off from the root never gets results, and its CRED stays in tl. -/
def execReductionResult (red who : Nat) (s : State) : Host.Outcome State Fault Refusal :=
  match reductionOf s red with
  | none => .next s
  | some r =>
    match r.receiver who with
    | none => .next s
    | some x =>
      if !pathOpen s r.args.root x.ch || !reachable s r.args.root x.ch || stolenNow s x.ch then .next s else
      let s := s.setReduction red fun r => { r with received := r.received ++ [who] }
      match coachOf s x.coach with
      | none => .next (finishReduction s red)
      | some c =>
        match trainOf s c.train with
        | none => .next (finishReduction s red)
        | some t =>
          let s := windowWrite s t c.tcore 1 x.dst (packBytes (codeWidth r.args.out) (r.results.getD []))
          let c := updateOp (addFlagsAt c x.level x.fslot r.flags) x.op fun o => { o with done := true }
          .next (finishReduction (checkCoach (s.setCoach x.coach c) x.coach) red)

/-- A chassis has parked (R179, R355): it counts as complete with no contribution, and what its stop has gathered goes on. -/
def parkSums (s : State) (d : Nat) : State :=
  s.reductions.foldl (fun s r =>
    if (r.partsAt d).isEmpty then checkRoot s r.id else sendSums s r.id d) s

/-- Partial sums of a reduction that spans modules arrive at peer port `p` (R181): they are added at its stop to the reduction that runs under
the tag, and go on at once where the stop adds nothing more of its own; an exponent that differs makes every element invalid. Which reductions span modules the spec does not say (log entry 45). -/
def peerSums (s : State) (p tag part : Nat) (e : Int) (sums : List RxSum) : State :=
  let d := 2 * (p % 8) + 1
  match s.reductions.find? fun r => r.args.tag == tag && r.results.isNone with
  | none => s
  | some r =>
    if !(chassisOf s d).peer.state == 1 || r.n / 32 ≤ part || sums.length != 32 then s
    else if e = r.args.e then
      let u := s.setReduction r.id fun r => r.gather d 0 part sums
      if settledAt s r d then sendSums u r.id d else u
    else s.setReduction r.id fun r => { r with bad := true }

end Sys2Proof.Machine
end

