-- ==== Sys2Proof/Machine/Boot.lean ====
section
/-! DEFINITION. Staged start (21 R437, R438), resets (21 R434), attestation (21 R439), PASID teardown as events (02 R60), and parking (04 R108
to R110, 20 R429, R430). -/

namespace Sys2Proof.Machine

/-! ## Start and reset -/

/-- The module behind a module reset (R6, R437): every register at its reset value. What it has sent to the outside, and the model's own
fields, stay. -/
def resetModule (s : State) : State :=
  { State.reset with
    hostReads := s.hostReads, bar0Reads := s.bar0Reads, hostWrites := s.hostWrites, peerWrites := s.peerWrites, peerReplies := s.peerReplies, msix := s.msix, reports := s.reports
    freeCtr := s.freeCtr, agenda := s.agenda }

/-- POWER_GOOD (R437): the module enters S0. A module that the thermal stop has switched off stays so until a module reset (R427). -/
def execPowerGood (s : State) : Host.Outcome State Fault Refusal := .next (if s.powered then resetModule s else s)

/-- MODULE_RESET (R434, R437). -/
def execModuleReset (s : State) : Host.Outcome State Fault Refusal := .next (resetModule s)

/-- bootstage (R437). -/
def bootstageReg (s : State) : W64 := BitVec.ofNat 64 (s.stage + 256 * s.stageErr + 2 ^ 16 * s.memok.toNat)

/-- The stage event (R435, R437). -/
def stageEvent (s : State) : State := sendEvent s { ty := 13, ch := 0, data := [(bootstageReg s).toNat] }

/-- The start goes on to a stage. -/
def enterStage (s : State) (n : Nat) : State := stageEvent { s with stage := n }

/-- A write of fw.load (R438): in S0, while no check runs, it starts the check of an image. A start that has failed stays halted (R437). -/
def loadImage (s : State) (v : W64) : State :=
  if s.stage != 0 || s.stageErr != 0 || s.check.isSome then s
  else if !v.getLsbD 0 then { s with fwLoad := v &&& 0xFFFFFFFFFFFFF000 }
  else { s with fwLoad := v &&& 0xFFFFFFFFFFFFF000, check := some (bitsOf v.toNat 39 12 * 4096, bitsOf v.toNat 63 40 * 4096) }

/-- FW_LOAD (R438). -/
def execFwLoad (v : W64) (s : State) : Host.Outcome State Fault Refusal := .next (loadImage s v)

/-- The bytes of the memory of d0 from an offset on, sector by sector, as the boot ROM reads them at their homes (R72); of a sector that
cannot be read it takes free bytes (log entry 61). -/
def imageBytes (s : State) (a : Nat) : Nat → List Byte × State
  | 0 => ([], s)
  | n + 1 =>
    let (x, s) := loadPa s 0 a 32
    let (bs, s) := imageBytes s (a + 32) n
    (leBytes 32 x ++ bs, s)

/-- Whether fw.load names a part of the memory of d0 that an image may fill (R438). -/
def imageFits (a n : Nat) : Bool := n != 0 && n ≤ 4096 * 4096 && a + n ≤ 2 ^ 36

/-- The boot ROM's verdict on the bytes of an image (R437, R438): 0, or the error. Both signatures are over the hash. -/
def imageError (bs : List Byte) : Nat :=
  let h := Config.sha384 bs
  if !Config.imageWellFormed bs then 4
  else if !Config.rsaVerifies h bs then 1
  else if !Config.slhVerifies h bs then 2
  else if Config.imageVersion bs < Config.rollbackCounter then 3
  else 0

/-- The check of an image ends (R437, R438): an authenticated one enters S1, where the memories of all chassis test themselves, and the start
halts there if one fails; else err is set, and the start halts in S0. -/
def checkImage (s : State) (memok : BitVec 16) : State :=
  match s.check with
  | none => s
  | some (a, n) =>
    let s := { s with check := none }
    if !imageFits a n then { s with stageErr := 4 } else
    let (bs, s) := imageBytes s a (n / 32)
    match imageError bs with
    | 0 =>
      enterStage { s with
        image := some (Config.sha384 bs), memok := memok, stageErr := if memok = BitVec.allOnes 16 then 0 else 5 } 1
    | e => { s with stageErr := e }

/-- IMAGE_CHECK_DONE (R437, R438). -/
def execImageCheckDone (memok : BitVec 16) (s : State) : Host.Outcome State Fault Refusal :=
  .next (during (.turn (.event (.imageCheckDone memok))) .clean (checkImage · memok) s)

/-- The peer ports train at the entry to S2 (R436). -/
def trainPeers (s : State) (peers : BitVec 8) : State :=
  (List.range 8).foldl (fun s p =>
    let c := chassisOf s (2 * p + 1)
    s.setChassis (2 * p + 1) { c with peer := { c.peer with state := if peers.getLsbD p then 1 else 0, since := s.ns } }) s

/-- STAGE_S2_ENTRY (R437, R159): every ring hop is active, or ring training has failed. -/
def execStageS2Entry (ringOk : Bool) (peers : BitVec 8) (s : State) : Host.Outcome State Fault Refusal :=
  if s.stage != 1 || s.stageErr != 0 then .next s
  else if !ringOk then .next { s with stageErr := 6 }
  else
    let up (s : State) (d : Nat) : State :=
      let c := chassisOf s d
      s.setChassis d { c with east := { c.east with state := 1 }, west := { c.west with state := 1 } }
    .next (enterStage (trainPeers (dies.foldl up s) peers) 2)

/-- The configuration as it is measured (R439): every host.part and host.duty. -/
def configBytes (s : State) : List Byte :=
  dies.flatMap fun d => leBytes 8 (chassisOf s d).func.toNat ++ leBytes 8 (chassisOf s d).duty.toNat

/-- A write of go to bootstage (R437): in S2 the module enters S3. The cores are released with their chassis caches on, and the purses
start (R420). DESIGN CHOICE, unsafe: R111 turns a chassis cache on when its chassis leaves reset and names no clock for that; the model takes
the write of go, so that before it every access goes to DRAM. -/
def go (s : State) : State :=
  if s.stage != 2 || s.stageErr != 0 then s else
  let on (s : State) (d : Nat) : State :=
    let c := chassisOf s d
    s.setChassis d { c with cacheOn := c.parkState == 0 }
  enterStage { dies.foldl on s with measured := some (Config.sha384 (configBytes s)), epoch := s.ns } 3

/-- BOOTSTAGE_GO (R437). -/
def execBootstageGo (s : State) : Host.Outcome State Fault Refusal := .next (go s)

/-- The transcript of a report (R439): the boot ROM, the image and the configuration. -/
def transcript (s : State) : List Byte :=
  leBytes 48 Config.romMeasurement.toNat ++ leBytes 48 (s.image.getD 0).toNat ++ leBytes 48 (s.measured.getD 0).toNat

/-- The report of a state (R439): the three measurements, and both signatures over one transcript hash. -/
def reportOf (s : State) : Report :=
  let h := Config.sha384 (transcript s)
  { rom := Config.romMeasurement, image := s.image.getD 0, config := s.measured.getD 0, hash := h, rsa := Config.signRsa h
    slh := (List.range 16224).map (Config.signSlh h) }

/-- SPDM_REQUEST (R439): the module answers with a report. -/
def execSpdmRequest (s : State) : Host.Outcome State Fault Refusal := .next { s with reports := s.reports ++ [reportOf s] }

/-! ## Teardown and function-level reset (R60, R434) -/

/-- SV_TEARDOWN_WRITE (R59, R60). -/
def execSvTeardownWrite (pasid : BitVec 20) (s : State) : Host.Outcome State Fault Refusal := .next (startTeardown s pasid)

/-- TEARDOWN_COMPLETE (R60). -/
def execTeardownComplete (s : State) : Host.Outcome State Fault Refusal := .next (finishTeardown s)

/-- The queues of a function: every descriptor that names it, whether the firmware serves queues or not (R383, R384, R434). -/
def queuesOf (s : State) (f : Nat) : List Nat := (List.range (min 4096 s.qtsize)).filter fun q => descFunc s q == f

/-- VF_FLR (R434): the queues of a function are disabled, and their PASIDs torn down one after another. -/
def execVfFlr (n : Nat) (s : State) : Host.Outcome State Fault Refusal :=
  if n = 0 || 16 < n then .next s else
  .next (during (.turn (.event (.vfFlr n))) .clean (fun s =>
  let qs := queuesOf s n
  let s := qs.foldl (fun s q => let x := descField s q 14 1; putDesc s q 14 1 (x - x % 2)) s
  match s.flr ++ (qs.map fun q => BitVec.ofNat 20 (queuePasid s q)).eraseDups with
  | [] => s
  | p :: ps => if s.teardown.isSome then { s with flr := p :: ps } else startTeardown { s with flr := ps } p) s)

/-! ## Parking (R108 to R110, R429, R430) -/

/-- Whether the host reaches the control block of a chassis now: d0's alone in S0 (R437), and from S2 on those that d0 reaches (R178) over a
way that does not retrain (R176). -/
def hostReaches (s : State) (d : Nat) : Bool :=
  if s.stage = 0 then d == 0 else s.stage < 2 || (reachable s 0 d && pathOpen s 0 d)

/-- park.ctl (R429). -/
def parkReg (s : State) (d : Nat) : W64 :=
  let c := chassisOf s d
  if d = 0 then 0 else BitVec.ofNat 64 ((if c.parkReq then 1 else 0) + 2 * c.parkState)

/-- A write of park.ctl.req (R429, R430): d0 ignores it, and during a transition it takes effect when that completes. -/
def writePark (s : State) (d : Nat) (req : Bool) : State :=
  let c := chassisOf s d
  if d = 0 then s
  else s.setChassis d { c with parkReq := req, parkState := if c.parkState = 2 ∧ !req then 3 else c.parkState }

/-- PARK_REQUEST (R430), by the host. -/
def execParkRequest (ch : Nat) (s : State) : Host.Outcome State Fault Refusal :=
  .next (if hostReaches s (ch % 16) then writePark s (ch % 16) true else s)

/-- UNPARK_REQUEST (R430), by the host. -/
def execUnparkRequest (ch : Nat) (s : State) : Host.Outcome State Fault Refusal :=
  .next (if hostReaches s (ch % 16) then writePark s (ch % 16) false else s)

/-- Whether no train is resident on a chassis (R430): no coach occupies it, and no train holds a window or a matrix unit there. -/
def emptyDie (s : State) (d : Nat) : Bool :=
  !(s.coaches.any fun e => e.2.ch == d && (e.2.occupies || e.2.gone))
    && !(s.trains.any fun t => t.ch == d && (t.matrix || (mvals t.windows).any fun w => w.aSize != 0 || w.wSize != 0 || w.cSize != 0))

/-- The owned lines of a core's L1 go home, and the L1 is empty (step 1 of R109). -/
def dropL1 (s : State) (g : Nat) : State :=
  let s := ((coreG s g).l1.filter fun e => e.2.owned).foldl (fun s e => recallLine (enterSlice s (e.1 * 128)) e.1) s
  s.setCoreG g { coreG s g with l1 := [] }

/-- The lines of a chassis are recalled, and their dirty bytes go to the cells (steps 2 and 3 of R109). -/
def cleanCache (s : State) (d : Nat) : State :=
  (chassisOf s d).cache.foldl (fun s e => writeBack (recallLine (enterSlice s (e.1 * 128)) e.1) e.1) s

/-- The cores of a chassis by their global numbers. -/
def coresOn (d : Nat) : List Nat := (List.range 16).map fun k => 16 * d + k

/-- Steps 1 to 3 of R109. -/
def cleanDie (s : State) (d : Nat) : State := cleanCache ((coresOn d).foldl dropL1 s) d

/-- PARK_ENTRY_START (R109, R430). -/
def execParkEntryStart (ch : Nat) (s : State) : Host.Outcome State Fault Refusal :=
  let d := ch % 16
  .next (during (.turn (.event (.parkEntryStart ch))) .clean (fun s =>
    let c := chassisOf s d
    if !c.parkReq || c.parkState != 0 || !emptyDie s d then s else
    let s := cleanDie s d
    s.setChassis d { chassisOf s d with parkState := 1 }) s)

/-- A core that parking turns off (R108): its L1, instruction cache, and typed buffers hold nothing. -/
def coldCore (k : Core) : Core := { k with l1 := [], icache := [], aBuf := [], wBuf := [], cBuf := [], cells := [] }

/-- PARK_CUT_OVER (steps 4 and 5 of R109): lines that became dirty during the entry go to the cells, the chassis cache is empty and off, and
the chassis TLB and the table-entry cache are empty. A request that has changed meanwhile takes effect (R430). -/
def execParkCutOver (ch : Nat) (s : State) : Host.Outcome State Fault Refusal :=
  let d := ch % 16
  .next (during (.turn (.event (.parkCutOver ch))) .clean (fun s =>
    if (chassisOf s d).parkState != 1 then s else
    let s := cleanDie s d
    let c := chassisOf s d
    let s := s.setChassis d
      { c with cache := [], cacheOn := false, tlb := [], table := [], parkState := 2, cores := c.cores.map fun e => (e.1, coldCore e.2) }
    let s := sendEvent s { ty := 12, ch := d, data := [(parkReg s d).toNat] }
    let s := parkSums s d
    if (chassisOf s d).parkReq then s else s.setChassis d { chassisOf s d with parkState := 3 }) s)

/-- Whether no operation stands admitted in the bank queues of a chassis (R110). -/
def unitsIdle (s : State) (c : Chassis) : Bool := c.buses.all fun b => b.2.queues.all fun q => !(q.2.any (BankEntry.live s))

/-- PARK_EXIT_COMPLETE (R110, R430): the chassis cache starts empty and takes over its lines, behind every operation that the bank-side units
have admitted. -/
def execParkExitComplete (ch : Nat) (s : State) : Host.Outcome State Fault Refusal :=
  let d := ch % 16
  let c := chassisOf s d
  if c.parkState != 3 || !unitsIdle s c then .next s
  else .next (s.setChassis d
    { c with parkState := 0, cache := [], cacheOn := s.stage == 3, cores := c.cores.map fun e => (e.1, { e.2 with l1 := [], icache := [] }) })

end Sys2Proof.Machine
end

