-- ==== Sys2Proof/Machine/BusEvents.lean ====
section
/-! DEFINITION. Refresh of the DRAM banks and of the gain cells (03 R80, R81), and the background tester with its repairs (03 R82 to R84). -/

namespace Sys2Proof.Machine

/-- Replace a bus. -/
def setBus (s : State) (d n : Nat) (b : Bus) : State :=
  let c := chassisOf s d
  s.setChassis d { c with buses := mset c.buses n b }

/-- The refresh interval of a throttle state in ns (R80, R425). -/
def refreshInterval (ts : Nat) : Nat :=
  match ts with
  | 0 => 3900
  | 3 => 980
  | _ => 1950

/-- BANK_REFRESH (R80): an interval has passed since a bank's last refresh, and its next row is refreshed. -/
def execBankRefresh (ch bus chan bank : Nat) (s : State) : Host.Outcome State Fault Refusal :=
  let d := ch % 16
  let n := bus % 16
  let k := 16 * (chan % 32) + bank % 16
  let b := busOf (chassisOf s d) n
  let last := (mget b.refreshedAt k).getD 0
  if s.ns < last + refreshInterval (chassisOf s d).ts then .next s
  else .next (setBus s d n
    { b with refreshed := mset b.refreshed k (((mget b.refreshed k).getD 0 + 1) % 8192), refreshedAt := mset b.refreshedAt k s.ns })

/-- GAIN_CELL_REFRESH_STEAL (R81): a stolen clock of a chassis passes, in which its typed buffers, macros and cache slices accept no
access. -/
def execGainCellRefreshSteal (ch : Nat) (s : State) : Host.Outcome State Fault Refusal :=
  .next (if stolenNow s (ch % 16) then tick s else s)

/-! ## The background tester (R82, R83) -/

/-- TESTER_START (R82): a bus that has carried nothing for the idle count, and for which no operation waits (R73), starts the test of its
next group, if the testers run. -/
def execTesterStart (ch bus : Nat) (s : State) : Host.Outcome State Fault Refusal :=
  let d := ch % 16
  let c := chassisOf s d
  let b := busOf c (bus % 16)
  let idle := max 16 (bitsOf c.testctl.toNat 15 4)
  let waits := b.arrivals.any (BankEntry.live s) || b.queues.any fun q => q.2.any (BankEntry.live s)
  if b.state != 0 || !c.testctl.getLsbD 0 || c.clk < b.lastOp + idle || waits then .next s
  else .next (setBus s d (bus % 16) { b with state := 1, group := b.next, busyTo := c.clk + 512 })

/-- TESTER_YIELD (R82): the group under test is abandoned, to be tested again from its start. -/
def execTesterYield (ch bus : Nat) (s : State) : Host.Outcome State Fault Refusal :=
  let d := ch % 16
  let c := chassisOf s d
  let b := busOf c (bus % 16)
  .next (if b.state = 1 then setBus s d (bus % 16) { b with state := 0, lastOp := c.clk } else s)

/-- The spares that a mask names. -/
def spareNums : List Nat := List.range 8

/-- The lane that a place in a group stands for (R82): lanes in use by number; a spare in the last group. -/
def testedLane (group i : Nat) : Nat := 8 * group + i

/-- A lane in use has failed (R83): the lowest spare that is free and works takes its place, of which no test has shown an error yet;
without one the bus is unavailable (R84). A spare that stood in for it has failed. -/
def failLane (b : Bus) (lane : Nat) : Bus :=
  let b := { b with erred := mset b.erred (lane / 8) (rget b.erred (lane / 8) &&& ~~~(1#8 <<< (lane % 8))) }
  let old := spareNums.find? fun j => b.spareValid.getLsbD j && mget b.spareLane j == some lane
  let b := match old with
    | some j => { b with spareFailed := b.spareFailed ||| (1#8 <<< j), spareValid := b.spareValid &&& ~~~(1#8 <<< j) }
    | none => b
  match spareNums.find? fun j => !b.spareValid.getLsbD j && !b.spareFailed.getLsbD j with
  | some j => { b with spareLane := mset b.spareLane j lane, spareValid := b.spareValid ||| (1#8 <<< j), state := if b.state = 3 then 3 else 2 }
  | none => { b with state := 3 }

/-- A place of a group under test has failed (R83). -/
def failPlace (b : Bus) (group i : Nat) : Bus :=
  if group < 36 then failLane b (testedLane group i)
  else if b.spareValid.getLsbD i then failLane b ((mget b.spareLane i).getD 0)
  else { b with spareFailed := b.spareFailed ||| (1#8 <<< i) }

/-- A bus behind the test of a group: errors that appeared in this test and in the one before it are failures (R83). The next group is
tested when the bus is idle again (R82). Several lanes that fail in one test take spares in ascending place (DESIGN CHOICE, log entry 69). -/
def afterTest (b : Bus) (clk : Nat) (errs : BitVec 8) : Bus :=
  let g := b.group
  let twice := errs &&& rget b.erred g
  let b := { b with
    erred := mset b.erred g errs, next := (g + 1) % 37, passes := if g = 36 then (b.passes + 1) % 2 ^ 32 else b.passes, state := 0 }
  let b := spareNums.foldl (fun b i => if twice.getLsbD i then failPlace b g i else b) b
  if b.state = 2 then { b with busyTo := clk + 2048 } else b

/-- GROUP_TEST_DONE (R83, R84): after 512 clocks; `errs` says on which places of the group errors appeared. A bus
that becomes unavailable loses its lines in the chassis cache; the test ends once their owners can give them up. -/
def execGroupTestDone (ch bus : Nat) (errs : BitVec 8) (s : State) : Host.Outcome State Fault Refusal :=
  let d := ch % 16
  let c := chassisOf s d
  let b := busOf c (bus % 16)
  if b.state != 1 || c.clk < b.busyTo then .next s else
  let b := afterTest b c.clk errs
  .next (attempt (fun s =>
    let s := setBus s d (bus % 16) b
    if b.state = 3 then sendEvent (discardLines (enterSlice s (d * 2 ^ 36)) d (bus % 16)) { ty := 2, ch := d, data := [bus % 16] } else s) s)

/-- REPAIR_COMPLETE (R83): after 2,048 clocks the bus carries operations again. -/
def execRepairComplete (ch bus : Nat) (s : State) : Host.Outcome State Fault Refusal :=
  let d := ch % 16
  let c := chassisOf s d
  let b := busOf c (bus % 16)
  .next (if b.state = 2 ∧ b.busyTo ≤ c.clk then setBus s d (bus % 16) { b with state := 0, lastOp := c.clk } else s)

end Sys2Proof.Machine
end

