-- ==== Sys2Proof/Machine/Evict.lean ====
section
/-! DEFINITION. Eviction and restore (19 R412 to R417), ctx.evict and ctx.fresume (R410, R411, R414), and the outbound store of host events
(R411). -/

namespace Sys2Proof.Machine

/-! ## The save record (R415) -/

/-- Words of a list as `n` bytes each. -/
def words (n : Nat) (xs : List Nat) : List Byte := xs.flatMap (leBytes n)

/-- Bytes with zeros behind them up to a length. -/
def padTo (n : Nat) (bs : List Byte) : List Byte := bs ++ List.replicate (n - bs.length) 0

/-- The number of a level in a carriage's record (R415). -/
def slotBytes (k : Option Carriage) : List Byte :=
  match k with
  | none => List.replicate 64 0
  | some k =>
    padTo 64 (leBytes 8 k.pc.toNat ++ leBytes 4 k.lanes.toNat ++ leBytes 4 k.member.toNat ++ leBytes 4 (repCode k.rep)
      ++ [BitVec.ofNat 8 (k.level.code + 4 + if k.parked then 8 else 0), BitVec.ofNat 8 k.fslot, 0, 0] ++ leBytes 8 k.wake)

/-- A siding entry of 32 bytes. -/
def entryBytes (e : SidingEntry) : List Byte :=
  let h := match e.held with
    | some h => h.slot + 4 * h.level.ix + 8 * h.depth
    | none => 0
  leBytes 8 e.pc.toNat ++ leBytes 4 e.lanes.toNat ++ leBytes 4 e.member.toNat ++ leBytes 4 (repCode e.rep)
    ++ [BitVec.ofNat 8 (e.level.code + if e.held.isSome then 4 else 0), BitVec.ofNat 8 h,
      BitVec.ofNat 8 (if e.level = .U then 0 else e.fslot), 0] ++ leBytes 8 e.wake

/-- The two levels with frames. -/
def frameLevels : List Level := [.S, .H]

/-- A frame of 64 bytes. -/
def frameBytes (c : Coach) (k : Nat) (x : Level) : List Byte :=
  let f := frameOf c k x
  words 8 [(statusReg c k x).toNat + (if f.busy then 2 ^ 63 else 0), (rget f.traps f.depth).toNat, f.tpc.toNat, f.npc.toNat, f.frep.toNat,
    f.fmisc.toNat, f.mode.toNat, f.cstat.toNat]

/-- The record of a lane's pending error (R256). -/
def pendBytes (e : Option PendErr) : List Byte :=
  match e with
  | none => List.replicate 16 0
  | some e =>
    let marks := (if e.load then 1 else 0) + (if e.store then 2 else 0) + if e.copy.isSome then 4 else 0
    leBytes 8 e.addr.toNat ++ [BitVec.ofNat 8 e.cause, BitVec.ofNat 8 marks, e.tags, 0] ++ leBytes 4 (e.copy.getD 0)

/-- Whether a lane is a trap lane of a frame at a depth (R367): the depths that a TRET has left count no more, nor does a lane that has exited. -/
def trapLaneAt (c : Coach) (x : Level) (l d k : Nat) : Bool :=
  let f := frameOf c k x
  f.busy && d ≤ f.depth && (rget f.traps d).getLsbD l && !c.exited.getLsbD l

/-- The depths at which a lane is a trap lane of its frame of a level (R415). -/
def trapDepths (c : Coach) (x : Level) (l : Nat) : Nat :=
  ((List.range 8).filter fun d => slotNums.any (trapLaneAt c x l d)).foldl (fun n d => n + 2 ^ d) 0

/-- The direction of a port in a record. -/
def Dir.code : Dir → Nat
  | .none => 0 | .inbound => 1 | .outbound => 2

/-- The entries filled or complete. -/
def doneEntries (c : Coach) (p : QPort) : Nat := if p.dir = .outbound then passedOf c p else p.filled

/-- A queue port of 64 bytes. -/
def portBytes (c : Coach) (q : Nat) : List Byte :=
  let p := portOf c q
  padTo 64 ([BitVec.ofNat 8 p.dir.code, BitVec.ofNat 8 (p.depth - 1), 0, 0] ++ leBytes 4 p.head ++ leBytes 4 (doneEntries c p)
    ++ [0, 0, 0, 0] ++ laneNums.map fun l => BitVec.ofNat 8 (p.posOf l - p.head))

/-- The outrider context: its registers and control. -/
def outriderBytes (c : Coach) : List Byte :=
  let o := c.outr
  padTo 1024 (words 8 ((List.range 64).map fun n => if n = 0 then 0 else (rget o.s n).toNat) ++ leBytes 8 o.pc.toNat
    ++ leBytes 4 (repCode o.rep) ++ [BitVec.ofNat 8 ((if o.live && !o.ended then 1 else 0) + if o.qend then 2 else 0), 0, 0, 0]
    ++ leBytes 2 o.progress)

/-- The faulted elements and failed writes of a coach, by port and element. -/
def faultsOf (c : Coach) : List (Nat × Nat × QFault) :=
  (List.range 8).flatMap fun q => (portOf c q).faults.map fun e => (q, e.1, e.2)

/-- A faulted element of 16 bytes. -/
def faultBytes (f : Nat × Nat × QFault) : List Byte :=
  leBytes 8 f.2.2.addr.toNat ++ [BitVec.ofNat 8 f.2.2.cause, BitVec.ofNat 8 (f.1 + if f.2.2.write then 8 else 0), BitVec.ofNat 8 (f.2.1 % 32), 0]
    ++ leBytes 4 (f.2.1 / 32)

/-- The queue entries: each declared port's depth entries from its head. -/
def queueBytes (c : Coach) : List Byte :=
  (List.range 8).flatMap fun q =>
    let p := portOf c q
    if p.dir = .none then [] else words 4 ((List.range (32 * p.depth)).map fun i => (rget p.elems (32 * p.head + i)).toNat)

/-- The header of a record. -/
def headerBytes (c : Coach) : List Byte :=
  let flags := (if c.access then 1 else 0) + (if c.yard then 2 else 0) + if c.stuck then 4 else 0
  padTo 256 (leBytes 4 0x53560001 ++ leBytes 2 c.handle ++ leBytes 1 (c.vregs / 8) ++ leBytes 1 flags ++ leBytes 4 c.pasid.toNat
    ++ leBytes 2 c.vmid.toNat ++ leBytes 1 c.index ++ leBytes 1 c.tcore ++ leBytes 8 c.mode.toNat ++ leBytes 8 c.cstat.toNat
    ++ leBytes 8 c.cart ++ leBytes 1 c.fpen.toNat ++ leBytes 1 c.ldhint.toNat)

/-- The save record of a coach (R415). -/
def recordBytes (c : Coach) : List Byte :=
  headerBytes c
    ++ slotNums.flatMap (fun j => slotBytes (mget c.slots j))
    ++ padTo 1024 (c.siding.flatMap entryBytes)
    ++ slotNums.flatMap (fun j => frameLevels.flatMap (frameBytes c j))
    ++ slotNums.flatMap (fun j => frameLevels.flatMap fun x => words 8 ((List.range 16).map fun i => (rget c.k (kKey (frameKey j x) i)).toNat))
    ++ frameLevels.flatMap (fun x => laneNums.flatMap fun l => leBytes 16 (rget c.recs (recKey x l)).toNat)
    ++ words 8 ((List.range 256).map fun n => if n = 0 then 0 else (rget c.s n).toNat)
    ++ laneNums.flatMap (fun l => pendBytes (mget c.pend l))
    ++ words 8 (laneNums.map fun l => (rget c.workId l).toNat)
    ++ padTo 96 (words 4 ((List.range 8).map fun n => if n = 0 then 2 ^ 32 - 1 else (rget c.p n).toNat)
      ++ words 4 ((List.range 16).map fun n => (rget c.arrived n).toNat))
    ++ padTo 160 (frameLevels.flatMap fun x => laneNums.map fun l => BitVec.ofNat 8 (trapDepths c x l))
    ++ (List.range 8).flatMap (portBytes c)
    ++ outriderBytes c
    ++ padTo 1024 ((faultsOf c).flatMap faultBytes)
    ++ frameLevels.flatMap (fun x => (List.range 16).flatMap fun i => words 4 (laneNums.map fun l => (rget c.kv (kvKey x i l)).toNat))
    ++ (List.range c.vregs).flatMap (fun n => words 4 (laneNums.map fun l => (rget c.v (32 * n + l)).toNat))
    ++ queueBytes c

/-! ## Reading a record back (R417) -/

/-- A field of a record. -/
def recNat (b : List Byte) (off n : Nat) : Nat := leNat ((b.drop off).take n)

/-- The entries of a map of registers that are not zero. -/
def readRegs (w n : Nat) (b : List Byte) (off : Nat) (key : Nat → Nat) (count : Nat) : RMap w :=
  (List.range count).filterMap fun i =>
    let x := recNat b (off + n * i) n
    if x = 0 then none else some (key i, BitVec.ofNat w x)

/-- A carriage slot. What its instruction at pc has done already, by an arrival or by records of a SPAWN, stands. -/
def readSlot (b : List Byte) (c : Coach) (j : Nat) : Option Carriage :=
  let o := 0x100 + 64 * j
  let f := recNat b (o + 20) 1
  let lanes := BitVec.ofNat 32 (recNat b (o + 8) 4)
  let pc := BitVec.ofNat 64 (recNat b o 8)
  if !bitOf f 2 || lanes = 0 then none
  else
    let was := (mget c.slots j).filter fun k => k.pc == pc
    some
      { pc := pc, lanes := lanes, level := Level.ofCode (f % 4), member := BitVec.ofNat 32 (recNat b (o + 12) 4)
        rep := repOf (recNat b (o + 16) 4), fslot := recNat b (o + 21) 1 % 4, wake := recNat b (o + 24) 8, parked := bitOf f 3
        bar := was.bind Carriage.bar, spawn := was.bind Carriage.spawn, spawned := (was.map Carriage.spawned).getD 0 }

/-- A siding entry; the barrier at which its lanes wait stands. -/
def readEntry (b : List Byte) (c : Coach) (i : Nat) : Option SidingEntry :=
  let o := 0x200 + 32 * i
  let f := recNat b (o + 20) 1
  let h := recNat b (o + 21) 1
  let lanes := BitVec.ofNat 32 (recNat b (o + 8) 4)
  let pc := BitVec.ofNat 64 (recNat b o 8)
  if lanes = 0 then none
  else some
    { pc := pc, lanes := lanes, level := Level.ofCode (f % 4), member := BitVec.ofNat 32 (recNat b (o + 12) 4)
      rep := repOf (recNat b (o + 16) 4), fslot := recNat b (o + 22) 1 % 4, wake := recNat b (o + 24) 8
      held := if bitOf f 2 then some { slot := h % 4, level := if bitOf h 2 then .H else .S, depth := bitsOf h 5 3 } else none
      bar := ((c.siding[i]?).filter fun e => e.pc == pc).bind SidingEntry.bar }

/-- The trap lanes of a frame by depth (R415): a lane belongs to the frame that its fault record of the level names. -/
def readTraps (b : List Byte) (j : Nat) (x : Level) : RMap 32 :=
  (List.range 8).filterMap fun d =>
    let m := maskOf (laneNums.filter fun l =>
      bitOf (recNat b (0x1B60 + 32 * x.ix + l) 1) d && bitsOf (recNat b (0xC00 + 512 * x.ix + 16 * l) 16) 20 19 == j)
    if m = 0 then none else some (d, m)

/-- A frame; the lane that its flane names is kept, and the barrier at which its trap lanes had arrived. -/
def readFrame (b : List Byte) (c : Coach) (j : Nat) (x : Level) : Frame :=
  let o := 0x600 + 128 * j + 64 * x.ix
  let g (i : Nat) : W64 := BitVec.ofNat 64 (recNat b (o + 8 * i) 8)
  let st := (g 0).toNat
  let busy := bitOf st 63
  let depth := bitsOf st 3 1
  let was := frameOf c j x
  { busy := busy, rearmed := bitOf st 0, depth := depth, traps := mset (readTraps b j x) depth (BitVec.ofNat 32 (g 1).toNat)
    tpc := g 2, npc := g 3, frep := g 4 &&& frepMask, fmisc := g 5 &&& fmiscMask, flane := was.flane
    bar := if was.tpc = g 2 then was.bar else none
    mode := (g 6).setWidth 16, cstat := (g 7).setWidth 8 }

/-- A pending-error record: the cart number takes its upper bits from the cart counter. The code of a failed walk stands where cause and address
do. -/
def readPend (b : List Byte) (c : Coach) (l : Nat) : Option PendErr :=
  let o := 0x1800 + 16 * l
  let marks := recNat b (o + 9) 1
  let cart := recNat b 32 8
  let low := recNat b (o + 12) 4
  let up := cart - cart % 2 ^ 32 + low
  let cause := recNat b (o + 8) 1
  let addr := BitVec.ofNat 64 (recNat b o 8)
  if cause = 0 then none
  else some
    { cause := cause, addr := addr, walk := (((mget c.pend l).filter fun e => e.cause == cause && e.addr == addr).map PendErr.walk).getD {}
      load := bitOf marks 0, store := bitOf marks 1
      copy := if bitOf marks 2 then some (if cart < up then up - 2 ^ 32 else up) else none, tags := BitVec.ofNat 8 (recNat b (o + 10) 1)
      stamp := ((mget c.pend l).map PendErr.stamp).getD 0 }

/-- The direction and the depth of a port as a record has them. -/
def recDir (b : List Byte) (q : Nat) : Dir :=
  match recNat b (0x1C00 + 64 * q) 1 with
  | 1 => .inbound
  | 2 => .outbound
  | _ => .none
def recDepth (b : List Byte) (q : Nat) : Nat := recNat b (0x1C01 + 64 * q) 1 + 1

/-- The queue entries of the first ports of a record. -/
def recEntries (b : List Byte) (n : Nat) : Nat := total (List.range n) fun q => if recDir b q = .none then 0 else recDepth b q

/-- The vector registers that a record has. -/
def recVregs (b : List Byte) : Nat := 8 * recNat b 6 1

/-- The size of a record by what it holds (R415). -/
def recLength (b : List Byte) : Nat := 0x3600 + 128 * recVregs b + 128 * recEntries b 8

/-- The absolute count nearest to another whose low 32 bits a record gives. -/
def nearest (head n : Nat) : Nat :=
  let d := (n + 2 ^ 32 - head % 2 ^ 32) % 2 ^ 32
  if d < 2 ^ 31 ∨ head + d < 2 ^ 32 then head + d else head + d - 2 ^ 32

/-- The faulted-element list of a port whose head is known. -/
def readFaults (b : List Byte) (q head : Nat) : SMap QFault :=
  (List.range 64).foldl (fun m i =>
    let o := 0x2200 + 16 * i
    let f := recNat b (o + 9) 1
    if recNat b (o + 8) 1 = 0 || f % 8 ≠ q then m
    else mset m (32 * nearest head (recNat b (o + 12) 4) + recNat b (o + 10) 1 % 32)
      { cause := recNat b (o + 8) 1, addr := BitVec.ofNat 64 (recNat b o 8), write := bitOf f 3 }) []

/-- The mark of a faulted element, with what the coach knows of the failed access beside the record; one that it does not know is of an access
at the address, of the element in the record. -/
def knownFault (p : QPort) (elems : RMap 32) (n : Nat) (f : QFault) : QFault :=
  match mget p.faults n with
  | some g =>
    { f with
      stamp := g.stamp, va := g.va, base := g.base, shift := g.shift, called := g.called, data := g.data
      walk := if g.cause = f.cause ∧ g.addr = f.addr then g.walk else {} }
  | none => { f with va := f.addr, data := rget elems n }

/-- A queue port. Counts take their upper bits from the coach; the accesses that wait for a mark to be consumed (R416) are still to be made. -/
def readPort (b : List Byte) (c : Coach) (q : Nat) : QPort :=
  let p := portOf c q
  let o := 0x1C00 + 64 * q
  let head := p.head - p.head % 2 ^ 32 + recNat b (o + 4) 4
  let done := nearest head (recNat b (o + 8) 4)
  let inb := recDir b q = .inbound
  let elems := readRegs 32 4 b (0x3600 + 128 * recVregs b + 128 * recEntries b q) (32 * head + ·) (32 * recDepth b q)
  { dir := recDir b q, depth := recDepth b q, head := head, filled := if inb then done else 0
    taken := if inb then done + (p.taken - p.filled) else head + (p.taken - p.head)
    pos := laneNums.map fun l => (l, head + recNat b (o + 16 + l) 1)
    elems := elems, faults := (readFaults b q head).map fun f => (f.1, knownFault p elems f.1 f.2) }

/-- The outrider context; one that has ended stays ended, and a failure of its own at its pc stands (R208). -/
def readOutrider (b : List Byte) (c : Coach) : Outrider :=
  let f := recNat b 0x200C 1
  let pc := BitVec.ofNat 64 (recNat b 0x2000 8)
  if !c.outr.live && !bitOf f 0 then c.outr else
  { live := true, qend := bitOf f 1, ended := !bitOf f 0, pc := pc, rep := repOf (recNat b 0x2008 4)
    s := readRegs 64 8 b 0x1E00 id 64, progress := recNat b 0x2010 2, failed := if c.outr.pc = pc then c.outr.failed else none }

/-- Whether a record has a wrong ident or handle, or a value beyond a range of R415 (R417). -/
def recordBroken (b : List Byte) (c : Coach) : Bool :=
  recNat b 0 4 != 0x53560001 || recNat b 4 2 != c.handle || recNat b 6 1 == 0 || 32 < recNat b 6 1 || 7 < recNat b 7 1
    || 2 ^ 20 ≤ recNat b 8 4 || 2 ^ 12 ≤ recNat b 12 2 || 127 < recNat b 14 1 || 3 < recNat b 15 1 || 31 < recNat b 40 1 || 31 < recNat b 41 1
    || slotNums.any (fun j => bitOf (recNat b (0x114 + 64 * j) 1) 2 && recNat b (0x114 + 64 * j) 1 % 4 == 3)
    || (List.range 32).any (fun i => recNat b (0x208 + 32 * i) 4 != 0 && recNat b (0x214 + 32 * i) 1 % 4 == 3)
    || (List.range 8).any (fun q => 2 < recNat b (0x1C00 + 64 * q) 1 || 63 < recNat b (0x1C01 + 64 * q) 1
      || laneNums.any fun l => 64 < recNat b (0x1C10 + 64 * q + l) 1)
    || (List.range 64).any (fun i => recNat b (0x2208 + 16 * i) 1 != 0 && 31 < recNat b (0x220A + 16 * i) 1)
    || 64 < recNat b 0x2010 2 || 0x1C000 < recLength b

/-- A coach reloaded from its record on a partition and place (R417). -/
def reload (b : List Byte) (c : Coach) (part place : Nat) : Coach :=
  let flags := recNat b 7 1
  let slots := slotNums.filterMap fun j => (readSlot b c j).map fun k => (j, k)
  let siding := (List.range 32).filterMap (readEntry b c)
  { c with
    part := part
    place := place
    resid := .resident
    returning := false
    age := 0
    agedAt := 0
    vregs := recVregs b
    -- the lanes in the record are those that have not exited (08 R187)
    exited := ~~~(siding.foldl (fun m e => m ||| e.lanes) (slots.foldl (fun m k => m ||| k.2.lanes) 0))
    access := bitOf flags 0
    yard := bitOf flags 1
    stuck := bitOf flags 2
    pasid := BitVec.ofNat 20 (recNat b 8 4)
    vmid := BitVec.ofNat 12 (recNat b 12 2)
    index := recNat b 14 1
    tcore := recNat b 15 1
    mode := BitVec.ofNat 16 (recNat b 16 8)
    cstat := BitVec.ofNat 8 (recNat b 24 8)
    cart := recNat b 32 8
    fpen := BitVec.ofNat 5 (recNat b 40 1)
    ldhint := BitVec.ofNat 5 (recNat b 41 1)
    slots := slots
    siding := siding
    frames := slotNums.flatMap fun j => frameLevels.map fun x => (frameKey j x, readFrame b c j x)
    k := readRegs 64 8 b 0x800 id 128
    recs := readRegs 128 16 b 0xC00 id 64
    s := readRegs 64 8 b 0x1000 id 256
    pend := laneNums.filterMap fun l => (readPend b c l).map fun e => (l, e)
    workId := readRegs 64 8 b 0x1A00 id 32
    p := readRegs 32 4 b 0x1B00 id 8
    arrived := readRegs 32 4 b 0x1B20 id 16
    ports := ((List.range 8).filter fun q => recDir b q != .none).map fun q => (q, readPort b c q)
    outr := readOutrider b c
    kv := readRegs 32 4 b 0x2600 id 1024
    v := readRegs 32 4 b 0x3600 id (32 * recVregs b)
    granted := []
    fences := []
    raised := []
    hold := false }

/-! ## The save pool (R413) -/

/-- The physical address of a slot of a save pool. -/
def saveAddr (c : Chassis) (i : Nat) : Nat := bitsOf c.savebase.toNat 51 12 * 4096 + i * 0x1C000

/-- Write bytes at a physical address for a chassis, 32 at a time. -/
def storeBytes (s : State) (ch pa : Nat) (bs : List Byte) : State :=
  (List.range ((bs.length + 31) / 32)).foldl (fun s i =>
    let part := (bs.drop (32 * i)).take 32
    storePa s ch (pa + 32 * i) part.length (leNat part) plainAttr) s

/-- Bytes from a physical address on, for a chassis. -/
def loadBytes (s : State) (ch pa n : Nat) : List Byte × State :=
  (List.range ((n + 31) / 32)).foldl (fun (r : List Byte × State) i =>
    let m := min 32 (n - 32 * i)
    let (x, s) := loadPa r.2 ch (pa + 32 * i) m
    (r.1 ++ leBytes m x, s)) ([], s)

/-- The size of a coach's record (R415). -/
def recordSize (c : Coach) : Nat := 0x3600 + 128 * c.vregs + 128 * c.entries

/-! ## Eviction (R412) -/

/-- Whether the operations of a coach that is to be evicted have ended (steps 2 and 3 of R412). An outrider's access that waits for a mark to
be consumed (R416) does not hold the eviction. -/
def Coach.drained (c : Coach) : Bool :=
  c.ops.all (fun o => o.outrider && o.pieces.all fun p => 2 ≤ p.phase || p.late) && c.scopews.all (·.done)

/-- COACH_SAVE (R412, R413): steps 4 and 5, once the coach's operations have ended and a slot of the pool is free; not in hold (20 R427). As
a system-scope release it waits for stores of the core that the coach may have read in the L1 (R142, R155). -/
def saveStep (s : State) (r : CoachRef) : State :=
  match coachOf s r.key with
  | none => s
  | some c =>
    match c.resid, freeSave (chassisOf s c.ch) with
    | .evicting held, some i =>
      if !c.drained || (chassisOf s c.ch).hold || coreStoresBefore s c.gcore c.last then s else
      let s := storeBytes s c.ch (saveAddr (chassisOf s c.ch) i) (recordBytes c)
      let x := chassisOf s c.ch
      (s.setChassis c.ch { x with saveUsed := i :: x.saveUsed }).setCoach r.key { c with resid := .saved held i, fences := [], hold := false }
    | _, _ => s

/-- COACH_SAVE (R412). -/
def execCoachSave (r : CoachRef) (s : State) : Host.Outcome State Fault Refusal :=
  .next (during (.turn (.event (.coachSave r))) .clean (saveStep · r) s)

/-! ## ctx.fresume (R410, R411) -/

/-- Resolve a parked trap carriage: deliver lets it issue at its entry PC, retry acts as a TRET with every lane at choice 0. -/
def resumeParked (s : State) (c : Coach) (j : Nat) (k : Carriage) (deliver : Bool) : State :=
  if deliver then s.setCoach c.key { c with slots := mset c.slots j { k with parked := false } }
  else tretWith s { c := c, slot := j, k := { k with parked := false } } 0 fun _ => false

/-- A write of ctx.fresume: one that names no parked trap carriage has no effect; for an evicted coach it applies at restore (R417). -/
def fresume (s : State) (r : SlotRef) (deliver : Bool) : State :=
  match coachOf s r.key with
  | none => s
  | some c =>
    match mget c.slots r.slot with
    | none => s
    | some k =>
      if !k.parked then s
      else match c.resid with
        | .saved _ _ => s.setCoach r.key { c with resumes := mset c.resumes r.slot deliver }
        | _ => resumeParked s c r.slot k deliver

/-- CTX_FRESUME_RETRY (R410). -/
def execCtxFresumeRetry (r : SlotRef) (s : State) : Host.Outcome State Fault Refusal := .next (fresume s r false)

/-- CTX_FRESUME_DELIVER (R410). -/
def execCtxFresumeDeliver (r : SlotRef) (s : State) : Host.Outcome State Fault Refusal := .next (fresume s r true)

/-! ## Restore (R417) -/

/-- The coach's lanes exit with code 0xFFFF_FFFF, and the host is told (R417). -/
def restoreFails (s : State) (c : Coach) : State :=
  let live := liveOf c
  let c' := { c with
    resid := .resident, returning := false, slots := [], siding := [], granted := [], outr := { c.outr with ended := true } }
  let s := exitFrom s c' (maskOf live) live.length
  sendEvent s { ty := 10, ch := c.ch, handle := c.handle, who := c.pasid.toNat }

/-- What a ctx.fresume that came meanwhile does at restore. -/
def applyResumes (s : State) (key : Nat) (rs : SMap Bool) : State :=
  rs.foldl (fun s r =>
    match coachOf s key with
    | none => s
    | some c =>
      match mget c.slots r.1 with
      | some k => if k.parked then resumeParked s c r.1 k r.2 else s
      | none => s) s

/-- Whether a core has room for a coach of some vector registers and queue entries, with or without an outrider context (R185, R205). -/
def coreHasRoom (s : State) (ch core vregs entries : Nat) (outr : Bool) : Bool :=
  total parts (fun p => partRoom s ch core p vregs) != 0 && entries ≤ coreEntries s ch core && (!outr || coreContexts s ch core != 0)

/-- The coach comes back on its own core (R186, R417), as a system-scope acquire, with what its record holds. -/
def reviveCoach (s : State) (c : Coach) (i : Nat) (b : List Byte) : State :=
  let x := chassisOf s c.ch
  let s := s.setChassis c.ch { x with saveUsed := x.saveUsed.erase i }
  if recordBroken b c then restoreFails s c else
  let part := partFor s c.ch c.core (recVregs b)
  let c' := { reload b c part (placeFor s c.ch c.core part) with resumes := [], departs := [] }
  let c' := c.departs.foldl departCoach c'
  checkCoach (applyResumes ((l1Acquire s c.gcore).setCoach c.key c') c.key c.resumes) c.key

/-- The record is read as it stands (R417): its fields of known place, then its registers and queue entries. The coach waits where what the
record now asks for has no room. -/
def bringBack (s0 : State) (c : Coach) (i : Nat) : State :=
  let a := saveAddr (chassisOf s0 c.ch) i
  let (b, s) := loadBytes s0 c.ch a 0x3600
  if s.doing.stall.isSome then s
  else if recordBroken b c then reviveCoach s c i b
  else if !coreHasRoom s c.ch c.core (recVregs b) (recEntries b 8) (recNat b 7 1 % 4 == 1) then s0
  else
    let (rest, s) := loadBytes s c.ch (a + 0x3600) (recLength b - 0x3600)
    reviveCoach s c i (b ++ rest)

/-- COACH_RESTORE (R417, R397): where its core has room that pre-emption has not made for a train (R404). -/
def restoreStep (s : State) (r : CoachRef) : State :=
  match coachOf s r.key with
  | none => s
  | some c =>
    match c.resid with
    | .saved false i =>
      if s.stage ≠ 3 || tearing s c.pasid || !dieOpen s c.ch || (reservedFor s c.ch).isSome
          || !coreHasRoom s c.ch c.core c.vregs c.entries c.hasOutrider then s
      else bringBack s c i
    | _ => s

/-- COACH_RESTORE (R417). -/
def execCoachRestore (r : CoachRef) (s : State) : Host.Outcome State Fault Refusal :=
  .next (during (.turn (.event (.coachRestore r))) .clean (restoreStep · r) s)

/-! ## ctx.evict (R414) -/

/-- Whether the operation of ctx.evict still runs. -/
def evictBusy (s : State) : Bool :=
  s.coaches.any fun e => (match e.2.resid with
    | .evicting held => held
    | _ => false) || e.2.returning

/-- ctx.evict as it reads. -/
def evictReg (s : State) : W64 := s.evict ||| (if evictBusy s then 1#64 <<< 63 else 0)

/-- A coach of a gang launch of a PASID. -/
def gangCoach (s : State) (pasid : BitVec 20) (c : Coach) : Bool := c.pasid == pasid && c.occupies && (launchOf s c.launch).any Launch.gang

/-- Some chassis with those where the gang launches of a PASID that have coaches on them have others. -/
def gangSpread (s : State) (pasid : BitVec 20) (mask : BitVec 16) : BitVec 16 :=
  s.coaches.foldl (fun m e =>
    if gangCoach s pasid e.2 && s.coaches.any fun f => f.2.launch == e.2.launch && mask.getLsbD f.2.ch && gangCoach s pasid f.2 then
      m ||| (1#16 <<< e.2.ch)
    else m) mask

/-- The chassis of an evict: those of the mask, and those that take every gang launch met on them whole (R398, R414). -/
def evictMask (s : State) (pasid : BitVec 20) (mask : BitVec 16) : BitVec 16 := dies.foldl (fun m _ => gangSpread s pasid m) mask

/-- Evict every resident coach of a PASID on some chassis (step 1 of R412). -/
def evictPasid (s : State) (pasid : BitVec 20) (mask : BitVec 16) : State :=
  startEviction s true fun c => c.pasid == pasid && c.occupies && (evictMask s pasid mask).getLsbD c.ch

/-- Return every coach of a PASID that an evict holds on some chassis. -/
def returnPasid (s : State) (pasid : BitVec 20) (mask : BitVec 16) : State :=
  { s with coaches := s.coaches.map fun e => (e.1,
      match e.2.resid with
      | .saved true i =>
        if e.2.pasid == pasid && mask.getLsbD e.2.ch then { e.2 with resid := .saved false i, returning := true } else e.2
      | _ => e.2) }

/-- A write of ctx.evict; one while busy has no effect. -/
def writeEvict (s : State) (v : W64) : State :=
  if evictBusy s then s else
  let s := { s with evict := v &&& 0x1FFFFFFFFF }
  let pasid : BitVec 20 := v.setWidth 20
  let mask : BitVec 16 := v.extractLsb' 20 16
  if v.getLsbD 36 then returnPasid s pasid mask else evictPasid s pasid mask

/-- CTX_EVICT (R414). -/
def execCtxEvict (pasid : BitVec 20) (mask : BitVec 16) (s : State) : Host.Outcome State Fault Refusal :=
  .next (writeEvict s (BitVec.ofNat 64 (pasid.toNat + 2 ^ 20 * mask.toNat)))

/-- CTX_RESTORE (R414). -/
def execCtxRestore (pasid : BitVec 20) (mask : BitVec 16) (s : State) : Host.Outcome State Fault Refusal :=
  .next (writeEvict s (BitVec.ofNat 64 (pasid.toNat + 2 ^ 20 * mask.toNat + 2 ^ 36)))

/-! ## The outbound store (R411) -/

/-- EVENT_STORE_FLUSH (R411): the oldest stored event goes to the host event queue. -/
def flushStore (s : State) (ch : Nat) : State :=
  let c := chassisOf s ch
  match c.outbound with
  | [] => s
  | e :: es => if evqFull s then s else deliverEvent (s.setChassis ch { c with outbound := es }) e

/-- EVENT_STORE_FLUSH (R411). -/
def execEventStoreFlush (ch : Nat) (s : State) : Host.Outcome State Fault Refusal := .next (flushStore s ch)

end Sys2Proof.Machine
end

