-- ==== Sys2Proof/Machine/CopyEvents.lean ====
section
/-! DEFINITION. The copy channels at work (05 R112, R117 to R129) and the packets of stream contexts (07 R165 to R170): acceptance, start,
pieces, copy errors, and what a receiver of a stream does. -/

namespace Sys2Proof.Machine

/-! ## Acceptance and the ends of a copy -/

/-- Whether an earlier copy of the same coach to the same context is still to be accepted (R117). -/
def behindCopy (s : State) (y : Copy) : Bool :=
  s.copies.any fun z => z.phase == 0 && z.train == y.train && z.chan == y.chan && z.id < y.id
    && z.issuer.map Prod.fst == y.issuer.map Prod.fst

/-- COPY_ACCEPT (R117, R120): the context takes the copy behind the others, and its base is fixed. -/
def acceptCopy (s : State) (y : Copy) : State :=
  match trainOf s y.train with
  | none => s
  | some t =>
    let ch := (mget t.chans y.chan).getD {}
    let held := s.copies.filter fun z => z.train == y.train && z.chan == y.chan && 1 ≤ z.phase && z.phase ≤ 3
    if y.phase != 0 || behindCopy s y || 16 ≤ held.length then s else
    let s := s.setTrain y.train fun t =>
      { t with chans := mset t.chans y.chan { ch with accepted := ch.accepted + y.total, queue := ch.queue ++ [y.id] } }
    s.setCopy y.id fun y => { y with phase := 1, base := ch.accepted }

/-- COPY_ACCEPT. -/
def execCopyAccept (copy : Nat) (s : State) : Host.Outcome State Fault Refusal :=
  .next (match copyOf s copy with
    | some y => acceptCopy s y
    | none => s)

/-- The operation of a copy is complete (R126, R129): an error is attached to its lanes at once (R256), and the operation leaves its counter
behind the earlier ones. -/
def endCopyOp (s : State) (y : Copy) (err : Option (Nat × W64 × WalkCode)) : State :=
  match y.issuer with
  | none => checkTrain s y.train
  | some (key, op) =>
    match coachOf s key with
    | none => s
    | some c =>
      let c := match err, opOf c op with
        | some (e, a, w), some o => { c with pend := (lanesOf o.lanes).foldl (attach o e a w) c.pend }
        | _, _ => c
      checkCoach (s.setCoach key (updateOp c op fun o => { o with done := true })) key

/-- The last write of a copy has been performed (R120, R126). -/
def finishCopy (s : State) (y : Copy) : State := endCopyOp (releaseCopy s y) y none

/-- A stream context goes on behind what a copy that ends early would have sent. -/
def skipStream (s : State) (y : Copy) : State :=
  match y.dst with
  | .stream id =>
    { s with streams := updFirst (fun z => z.id == id) (fun z =>
        let n := y.skip + y.total - z.sent
        { z with sent := z.sent + n, credited := z.credited + n }) s.streams }
  | _ => s

/-- A copy error (R128, R129): err is set and the count stops; the copy counts as complete and its lanes receive the error. A copy of a
copy program is released at once, and its launch counts the error (R393). -/
def copyError (s : State) (y : Copy) (cause : Nat) (va : W64) (walk : WalkCode := {}) : State :=
  let s := s.setTrain y.train fun t =>
    { t with chans := mset t.chans y.chan { (mget t.chans y.chan).getD {} with err := true } }
  let s := skipStream s y
  match y.issuer with
  | none =>
    let s := match trainOf s y.train with
      | some t => s.setLaunch t.launch fun l => { l with copyErr := true }
      | none => s
    endCopyOp (releaseCopy s y) y none
  | some _ =>
    let s := s.setCopy y.id fun y => { y with phase := 4, fail := some (cause, va), windows := [] }
    endCopyOp s y (some (cause, va, walk))

/-! ## Where the bytes of a copy lie -/

/-- The place of one byte. -/
structure Spot where
  space : Space
  addr : Nat
  attr : Attr := {}
  deriving DecidableEq, Repr

/-- How the places of some bytes come out: there, after a walk, or with an error. -/
inductive Spots where
  | ok (l : List Spot)
  | miss (m : Miss)
  | bad (cause : Nat) (walk : WalkCode := {})
  deriving DecidableEq, Repr

/-- The byte of a typed buffer at a window offset; the macro image lies behind the W-buffer (R89). -/
def bufSpot (t : Train) (kind tc : Nat) (o : Nat) : Spot :=
  let g := 16 * t.ch + t.cores.getD tc 0
  if kind = 2 ∧ imageBase ≤ o then { space := .buf 4 g, addr := o - imageBase }
  else { space := .buf kind g, addr := ((windowsOf t tc).of kind).1 + o }

/-- The index of an element of a gather: the uint32 in the A-buffer of the destination core (R113). -/
def gatherIndex (s : State) (t : Train) (y : Copy) (x i : Nat) : Nat :=
  leNat (bufRead s (16 * y.ch + y.core) 1 ((windowsOf t (y.chan / 4)).aBase + x + 4 * i) 4)

/-- The offset of a source byte from the base of the source (R113, R332). -/
def srcOffset (s : State) (t : Train) (y : Copy) (pos : Nat) : Int :=
  match y.form with
  | .one => pos
  | .two _ ss _ => rowOffset y.len ss (y.skip + pos)
  | .gather e x => gatherIndex s t y x (pos / e) * e + pos % e

/-- The offset of a destination byte. -/
def dstOffset (y : Copy) (pos : Nat) : Int :=
  match y.form with
  | .two _ _ ds => rowOffset y.len ds pos
  | _ => pos

/-- The virtual address of a byte of a global end; of a typed buffer, its fault address (R87). -/
def endVa (e : Endpoint) (o : Int) : W64 :=
  match e with
  | .glob va => va + BitVec.ofInt 64 o
  | .buf kind _ off => bufAddr kind (off.toNat + o)
  | .stream _ => 0

/-- The address of a source byte. -/
def srcVa (s : State) (t : Train) (y : Copy) (pos : Nat) : W64 := endVa y.src (srcOffset s t y pos)

/-- Whether two addresses lie in different 256-byte granules of global memory (R25). -/
def newGranule (e : Endpoint) (a b : W64) : Bool :=
  match e with
  | .glob _ => a.toNat / 256 != b.toNat / 256
  | _ => false

/-- Whether a piece starts at a position (R120): every 256 bytes, and at every granule of a global end. -/
def pieceStart (s : State) (t : Train) (y : Copy) (pos : Nat) : Bool :=
  pos % 256 == 0 || newGranule y.dst (endVa y.dst (dstOffset y pos)) (endVa y.dst (dstOffset y (pos - 1)))
    || newGranule y.src (srcVa s t y pos) (srcVa s t y (pos - 1))

/-- Whether a position lies in a piece that has been performed. -/
def Copy.past (y : Copy) (pos : Nat) : Bool := pos < y.front || y.done.any fun q => q.1 ≤ pos && pos < q.1 + q.2

/-- The length of the piece at a position: to the next start, and not into a piece that has been performed. -/
def pieceLen (s : State) (t : Train) (y : Copy) (pos : Nat) : Nat :=
  ((List.range 256).find? fun i => y.total ≤ pos + i + 1 || pieceStart s t y (pos + i + 1) || y.past (pos + i + 1)).getD 255 + 1

/-- Who translates the pages of a copy that its issue did not translate (R116, R128). -/
def Copy.asker (y : Copy) (va : W64) : Asker :=
  { core := 16 * y.ch + y.core, level := y.level, ctx := y.ctx, who := (2 ^ 32 + y.id, 0, va) }

/-- The page of an address: as translated at issue, else now (R128). -/
def copyPage (s : State) (y : Copy) (ps : PageMap) (acc : Acc) (va : W64) : Spots :=
  let spot (sp : Space) (base : Nat) (a : Attr) : Spots := .ok [{ space := sp, addr := base, attr := a }]
  if va.toNat / 2 ^ 56 ≠ 0 then .bad 7 else
  match ps.find? fun p => p.1 == va.toNat / 4096 with
  | some (_, sp, base, a) => spot sp base a
  | none =>
    match translate s (y.asker (va / 4096#64 * 4096#64)) acc va with
    | .miss m => .miss m
    | .fault f => .bad f.cause f.code
    | .pa pa a =>
      match placeIn s { acc := acc, size := 1, control := false } pa with
      | .error e => .bad e
      | .ok (sp, b) => spot sp (b - va.toNat % 4096) a

/-- The places of global bytes. -/
def globSpots (s : State) (y : Copy) (ps : PageMap) (acc : Acc) (vas : List W64) : Spots :=
  let pages := (vas.map fun v => v.toNat / 4096).eraseDups
  let found := pages.map fun g => (g, copyPage s y ps acc (BitVec.ofNat 64 (g * 4096)))
  let base (v : W64) : List Spot := found.flatMap fun e => match e.2 with
    | .ok l => if e.1 = v.toNat / 4096 then l.map fun p => { p with addr := p.addr + v.toNat % 4096 } else []
    | _ => []
  match found.find? fun e => match e.2 with
      | .ok _ => false
      | _ => true with
  | some e => e.2
  | none => .ok (vas.flatMap base)

/-- The places of the bytes of one end of a piece. -/
def endSpots (s : State) (t : Train) (y : Copy) (e : Endpoint) (ps : PageMap) (acc : Acc) (offs : List Int) : Spots :=
  match e with
  | .glob _ => globSpots s y ps acc (offs.map (endVa e))
  | .buf kind tc off => .ok (offs.map fun (o : Int) => bufSpot t kind tc (off.toNat + o).toNat)
  | .stream _ => .ok []

/-- The offsets of the source bytes of a piece. -/
def srcOffsets (s : State) (t : Train) (y : Copy) (pos n : Nat) : List Int := (List.range n).map fun i => srcOffset s t y (pos + i)
def dstOffsets (y : Copy) (pos n : Nat) : List Int := (List.range n).map fun i => dstOffset y (pos + i)

/-- The place of a copy's issue in the order of the module, with its coach. -/
def Copy.issue (s : State) (y : Copy) : Option (Coach × Nat) :=
  y.issuer.bind fun p => (coachOf s p.1).map fun c => (c, match opOf c p.2 with
    | some o => o.stamp
    | none => 0)

/-- Whether the issuing coach has earlier typed-buffer writes on its core that a reader of them there must wait for (R118). -/
def ownWritesOpen (s : State) (y : Copy) (g : Nat) : Bool := (y.issue s).any fun i => g == i.1.gcore && bufWritesOpen i.1 i.2

/-- Whether the index list of a gather cannot be read yet (R113, R118), nor in a stolen clock (R81). -/
def indexHeld (s : State) (y : Copy) : Bool :=
  match y.form with
  | .gather _ _ => ownWritesOpen s y (16 * y.ch + y.core) || stolenNow s y.ch
  | _ => false

/-! ## Start (R117, R127) -/

/-- The other chassis in which pages of a copy have their homes, of those that can be reached; a replicated page is written in every chassis
and read in its own (R47). -/
def Copy.others (s : State) (y : Copy) (write : Bool) (ps : PageMap) : List Nat :=
  ((ps.flatMap fun p =>
    if p.2.1 ≠ .mem then [] else if write && p.2.2.2.repl then dies else [(homeAt p.2.2.1).d]).eraseDups).filter fun d =>
      d != y.ch && reachable s d y.ch

/-- Where the page of an address lies as its tables stand now, if it translates; nothing of the walk stays. -/
def Copy.peek (s : State) (y : Copy) (acc : Acc) (va : W64) : PageMap :=
  let put (pa : Nat) (a : Attr) : PageMap :=
    match placeIn s { acc := acc, size := 1, control := false } pa with
    | .ok (sp, b) => [(va.toNat / 4096, sp, b - va.toNat % 4096, a)]
    | .error _ => []
  match translate s (y.asker (va / 4096#64 * 4096#64)) acc va with
  | .pa pa a => put pa a
  | .fault _ => []
  | .miss m =>
    match (walkNow s (rootsOf (chassisOf s y.ch)) m 48 []).1 with
    | .ok e => put (place e acc y.ch (e.addr va)) e.attr
    | .error _ => []

/-- The pages of an end that the issue of the copy has not translated, by an address in each: those of the elements of a gather (R116), and
those of a copy program (R393). -/
def Copy.latePages (s : State) (t : Train) (y : Copy) (write : Bool) : List W64 :=
  match y.form, (if write then y.dst else y.src) with
  | .gather e _, .glob va =>
    if write then (if y.issuer.isSome then [] else (mvals (pagesOf va [(0, y.total)])).map (BitVec.ofNat 64))
    else (List.range (y.total / e)).map fun i => srcVa s t y (e * i)
  | .one, .glob va => if y.issuer.isSome then [] else (mvals (pagesOf va [(0, y.total)])).map (BitVec.ofNat 64)
  | .two rows ss ds, .glob va =>
    if y.issuer.isSome then [] else (mvals (pagesOf va (rowsOf y.len rows (if write then ds else ss)))).map (BitVec.ofNat 64)
  | _, _ => []

/-- The pages of an end of a copy (R116, R127): those that its issue has translated, and where the others lie at its start. -/
def Copy.pages (s : State) (y : Copy) (write : Bool) : PageMap :=
  let known := if write then y.dpages else y.spages
  match trainOf s y.train with
  | none => known
  | some t =>
    let fresh := (y.latePages s t write).filter fun a => !known.any fun p => p.1 == a.toNat / 4096
    known ++ fresh.flatMap (y.peek s (if write then .write else .read))

/-- The contexts and windows that a copy takes (R127): at each sender a tag of its direction, at each receiver a window. -/
def Copy.needs (s : State) (y : Copy) : List (Nat × Bool × Bool) :=
  let pair (a b : Nat) : List (Nat × Bool × Bool) := [(a, !goesEast s a b, true), (b, !goesEast s a b, false)]
  ((y.others s false (y.pages s false)).flatMap (fun d => pair d y.ch)
    ++ (y.others s true (y.pages s true)).flatMap fun d => pair y.ch d).eraseDups

/-- How many copies hold a tag or a window of a stop and direction. -/
def windowsHeld (s : State) (w : Nat × Bool × Bool) : Nat := (s.copies.filter fun y => y.windows.contains w).length

/-- Whether a tag or a window is free for a copy (R127): of each there are 64, and no request that came earlier waits for a window. -/
def windowFree (s : State) (ahead : List Copy) (w : Nat × Bool × Bool) : Bool :=
  windowsHeld s w < 64 && (w.2.2 || !(ahead.any fun z => (z.needs s).contains w))

/-- Whether a queued copy may take its receive windows, in order of arrival (R127). -/
def windowsFree (s : State) (y : Copy) : Bool :=
  let ahead := (s.copies.filter fun z => z.phase == 2).takeWhile fun z => z.id != y.id
  (y.needs s).all fun w => y.windows.contains w || windowFree s ahead w

/-- A copy runs; one without a byte is complete. -/
def runCopy (s : State) (y : Copy) : State :=
  let y' := { y with phase := 3, windows := y.needs s }
  let s := s.setCopy y.id fun _ => y'
  if y.total = 0 then finishCopy s y' else s

/-- COPY_START (R117, R127): the first copy of a context starts, where its index list can be read and a sending tag is free; one that finds no receive window keeps its
tags and waits behind the requests that came earlier. -/
def startCopy (s : State) (y : Copy) : State :=
  let first := match trainOf s y.train with
    | some t => ((mget t.chans y.chan).getD {}).queue.head? == some y.id
    | none => false
  let tags := (y.needs s).filter fun w => w.2.2
  if y.phase != 1 || !first || indexHeld s y || !(tags.all (windowFree s [])) then s
  else if (y.needs s).all (windowFree s (s.copies.filter fun z => z.phase == 2)) then runCopy s y
  else { s with copies := (s.copies.filter fun z => z.id != y.id) ++ [{ y with phase := 2, windows := tags }] }

/-- COPY_START. -/
def execCopyStart (copy : Nat) (s : State) : Host.Outcome State Fault Refusal :=
  .next (match copyOf s copy with
    | some y => startCopy s y
    | none => s)

/-- STREAM_WINDOW_GRANT (R127): the receiving stops of a queued copy have windows for it, in order of arrival. -/
def execStreamWindowGrant (copy : Nat) (s : State) : Host.Outcome State Fault Refusal :=
  .next (match copyOf s copy with
    | some y => if y.phase == 2 && windowsFree s y then runCopy s y else s
    | none => s)

/-! ## Reading and writing places -/

/-- A run of consecutive places, of local memory within one 128-byte line. -/
structure Run where
  spot : Spot
  n : Nat
  deriving DecidableEq, Repr

/-- Cut places into runs. -/
def runsOf (l : List Spot) : List Run :=
  let grow (rs : List Run) (p : Spot) : List Run :=
    match rs with
    | r :: rs' =>
      if r.spot.space = p.space ∧ r.spot.addr + r.n = p.addr ∧ (p.space ≠ .mem ∨ p.addr % 128 ≠ 0) then { r with n := r.n + 1 } :: rs'
      else { spot := p, n := 1 } :: rs
    | [] => [{ spot := p, n := 1 }]
  (l.foldl grow []).reverse

/-- Why a piece fails: the cause, and the host or peer address of a request that failed (R128); for the rest the piece's own address counts. -/
abbrev Bad := Nat × Option W64

/-- The address that a request to the host or a peer carries (R29 to R31). -/
def Run.far (r : Run) : Option W64 :=
  match r.spot.space with
  | .host => some (BitVec.ofNat 64 r.spot.addr)
  | .peer => some (BitVec.ofNat 64 (r.spot.addr % 2 ^ 40))
  | _ => none

/-- Read one run. -/
def readRun (s : State) (r : Run) : Except Bad (List Byte) × State :=
  let a := r.spot.addr
  match r.spot.space with
  | .mem => (match tryRead s r.spot.attr a r.n with
    | (.ok bs, s) => (.ok bs, s)
    | (.error e, s) => (.error (e, none), s))
  | .buf kind g => (.ok (bufRead s g kind a r.n), s)
  | _ =>
    if s.doing.ecc = .uncorrectable then (.error (0x20, r.far), s)
    else let (bs, s) := takeFreeBytes s r.n; (.ok bs, s)

/-- Read runs in order: the bytes, or the first failure. -/
def readRuns (s : State) : List Run → Except Bad (List Byte) × State
  | [] => (.ok [], s)
  | r :: rs =>
    match readRun s r with
    | (.error e, s) => (.error e, s)
    | (.ok bs, s) =>
      match readRuns s rs with
      | (.ok bs', s) => (.ok (bs ++ bs'), s)
      | (.error e, s) => (.error e, s)

/-- The copies of a run: sixteen on a replicated page (R47, R148). -/
def Run.copies (r : Run) : List Run :=
  if r.spot.space = .mem && r.spot.attr.repl then
    dies.map fun d => { r with spot := { r.spot with addr := d * 2 ^ 36 + r.spot.addr % 2 ^ 36 } }
  else [r]

/-- Runs with the bytes that each takes, one for each copy of a replicated one, those in local memory cut at sectors (R63, R69). -/
def runData : List Run → List Byte → List (Run × List Byte)
  | [], _ => []
  | r :: rs, bs =>
    let cut (c : Run) : List (Run × List Byte) :=
      if c.spot.space = .mem then (sectorsOf c.spot.addr c.n).map fun x =>
        ({ spot := { c.spot with addr := x.1 }, n := x.2 }, (bs.drop (x.1 - c.spot.addr)).take x.2)
      else [(c, bs.take c.n)]
    r.copies.flatMap cut ++ runData rs (bs.drop r.n)

/-- Make ready for a write of one part at its home (R71, R84, R128): the failure, if any. -/
def readyRun (s : State) (w : Run × List Byte) : Option Bad × State :=
  match w.1.spot.space with
  | .mem => (match readyWrite s [(w.1.spot.addr, w.2)] w.1.spot.attr with
    | (some e, s) => (some (e, none), s)
    | (none, s) => (none, s))
  | .peer => if s.doing.ecc = .uncorrectable then (some (0x20, w.1.far), s) else (none, s)
  | _ => (none, s)

/-- Make ready for the writes of a piece. -/
def readyRuns : State → List (Run × List Byte) → Option Bad × State
  | s, [] => (none, s)
  | s, w :: ws =>
    match readyRun s w with
    | (some e, s) => (some e, s)
    | (none, s) => readyRuns s ws

/-- Write one part. `g` is the core whose L1 and instruction cache drop what is written (R122). -/
def writeRun (g : Option Nat) (s : State) (w : Run × List Byte) : State :=
  let a := w.1.spot.addr
  match w.1.spot.space with
  | .mem =>
    let s := putSector s g [(a, w.2)] w.1.spot.attr
    (match g with
    | some g => l1Drop s g a w.1.n
    | none => s)
  | .buf kind g => bufWrite s g kind a w.2
  | .host => { s with hostWrites := s.hostWrites ++ [(a, w.2)] }
  | .peer => { s with peerWrites := s.peerWrites ++ [(a / 2 ^ 40 % 8, a % 2 ^ 40, w.2)] }
  | .control => s

/-- Write a piece whole, or not at all with the reason (R129). -/
def writePiece (s : State) (g : Option Nat) (rs : List Run) (bs : List Byte) : Option Bad × State :=
  let ws := runData rs bs
  match readyRuns s ws with
  | (some e, s) => (some e, s)
  | (none, s) => (none, ws.foldl (writeRun g) s)

/-- The reach of runs from a chassis: the worst of theirs. -/
def runsReach (s : State) (ch : Nat) (rs : List Run) : Reach :=
  let all := rs.map fun r => reachAt s ch r.spot.space r.spot.addr
  if all.contains .never then .never else if all.contains .later then .later else .now

/-- Whether runs lie in the host or a peer window, whose pieces go in position order (R127). -/
def outside (rs : List Run) : Bool := rs.any fun r => r.spot.space == .host || r.spot.space == .peer

/-! ## Pieces (R118, R120, R123, R128) -/

/-- Whether a piece must wait for the issuing coach: for its earlier typed-buffer writes where it reads those of the coach's core (R118),
and for its earlier matrix instructions where it writes what they read (R151). -/
def pieceHeld (s : State) (y : Copy) (src dst : List Run) : Bool :=
  (src.any fun r => match r.spot.space with
      | .buf _ g => ownWritesOpen s y g
      | _ => false)
    || dst.any fun r => match r.spot.space with
      | .buf kind g => (y.issue s).any fun i => matHolds s i.1.key i.2 g kind r.spot.addr r.n
      | _ => false

/-- Whether two lists of runs have a byte in common. -/
def runsMeet (a b : List Run) : Bool :=
  a.any fun r => b.any fun q => r.spot.space == q.spot.space && r.spot.addr < q.spot.addr + q.n && q.spot.addr < r.spot.addr + r.n

/-- The pieces before a position that have not been performed: starts and lengths. -/
def piecesAhead (s : State) (t : Train) (y : Copy) (pos : Nat) : Nat → Nat → List (Nat × Nat)
  | 0, _ => []
  | k + 1, q =>
    if pos ≤ q then [] else
    let n := pieceLen s t y q
    match y.done.find? fun d => d.1 ≤ q && q < d.1 + d.2 with
    | some d => piecesAhead s t y pos k (d.1 + d.2)
    | none => (q, n) :: piecesAhead s t y pos k (q + n)

/-- Whether a piece would overwrite what an earlier piece of its copy is still to read (R123): it waits for that one. -/
def overtakes (s : State) (t : Train) (y : Copy) (pos : Nat) (dst : List Run) : Bool :=
  (piecesAhead s t y pos (pos - y.front) y.front).any fun q =>
    match endSpots s t y y.src y.spages .read (srcOffsets s t y q.1 q.2) with
    | .ok l => runsMeet (runsOf l) dst
    | _ => true

/-- Every byte below the first position that is not performed; the pieces beyond it. -/
def settleFront : Nat → Nat → List (Nat × Nat) → Nat × List (Nat × Nat)
  | 0, f, ds => (f, ds)
  | k + 1, f, ds =>
    match ds.find? fun d => d.1 == f with
    | some d => settleFront k (f + d.2) (ds.erase d)
    | none => (f, ds)

/-- A physical channel has served a copy (R112). -/
def serveChannel (s : State) (y : Copy) : State :=
  let k := coreOf s y.ch y.core
  s.setCore y.ch y.core { k with served := mset k.served (y.chan % 4) y.train }

/-- A piece has been performed (R120): the count moves as far as every byte below it has been. -/
def pieceDone (s : State) (y : Copy) (pos n : Nat) : State :=
  let ds := y.done ++ [(pos, n)]
  let (f, ds) := settleFront (ds.length + 1) y.front ds
  let y' := { y with front := f, done := ds }
  let s := s.setCopy y.id fun _ => y'
  let s := s.setTrain y.train fun t =>
    { t with chans := mset t.chans y.chan { (mget t.chans y.chan).getD {} with count := y.base + f } }
  if f = y.total then finishCopy s y' else s

/-- Whether the pages of a piece wait for a walk. -/
def Spots.runs : Spots → List Run
  | .ok l => runsOf l
  | _ => []

/-- How a piece stands: it waits, it needs a walk, it has failed at once, or it can go, with its source, its destination, and the contexts
and windows of the ring that it still has to take. -/
inductive PieceState where
  | wait
  | miss (m : Miss)
  | fail (cause : Nat) (va : W64) (walk : WalkCode := {})
  | go (src dst : List Run) (take : List (Nat × Bool × Bool))
  deriving DecidableEq, Repr

/-- What runs between a copy's chassis and other homes take of the ring and the copy does not hold (R127): those of pages whose tables or indexes
have changed since the copy started (log entry 20). -/
def takesFor (s : State) (y : Copy) (src dst : List Run) : List (Nat × Bool × Bool) :=
  let far (r : Run) : Option Nat :=
    let d := (homeAt r.spot.addr).d
    if r.spot.space = .mem ∧ d ≠ y.ch then some d else none
  let pair (a b : Nat) : List (Nat × Bool × Bool) := [(a, !goesEast s a b, true), (b, !goesEast s a b, false)]
  ((src.filterMap far).flatMap (fun d => pair d y.ch) ++ (dst.filterMap far).flatMap fun d => pair y.ch d).eraseDups.filter fun w =>
    !y.windows.contains w

/-- The stream context that a copy sends into. -/
def Copy.stream (s : State) (y : Copy) : Option Stream :=
  match y.dst with
  | .stream id => s.streams.find? fun z => z.id == id
  | _ => none

/-- Whether the stream context of a copy takes a piece of a length now (R165, R332): in position order, within the window. -/
def Stream.takes (z : Stream) (y : Copy) (pos n : Nat) : Bool := z.sent == y.skip + pos && z.sent - z.credited + n ≤ z.window

/-- The place from which a copy goes on. -/
def Copy.cursor (s : State) (y : Copy) : Nat :=
  match y.stream s with
  | some z => z.sent - y.skip
  | none => y.front

/-- How the piece at a position of a running copy stands (R118, R120, R123, R127, R128). A failure counts once every byte below it has been
written (R129). -/
def pieceState (s : State) (t : Train) (y : Copy) (pos : Nat) : PieceState :=
  if y.phase != 3 || y.total ≤ pos || y.past pos || indexHeld s y || !(pos == y.cursor s || pieceStart s t y pos) then .wait else
  let n := pieceLen s t y pos
  let va := srcVa s t y pos
  let dva := endVa y.dst (dstOffset y pos)
  let fail (e : Nat) (a : W64) (w : WalkCode := {}) : PieceState := if pos = y.front then .fail e a w else .wait
  match endSpots s t y y.src y.spages .read (srcOffsets s t y pos n), endSpots s t y y.dst y.dpages .write (dstOffsets y pos n) with
  | .miss m, _ => .miss m
  | _, .miss m => .miss m
  | .bad e w, _ => fail e va w
  | _, .bad e w => fail e dva w
  | .ok a, .ok b =>
    let src := runsOf a
    let dst := runsOf b
    let all := dst.flatMap Run.copies
    let take := takesFor s y src all
    let waiting := s.copies.filter fun z => z.phase == 2
    if pieceHeld s y src dst || overtakes s t y pos all || ((outside src || outside dst) && pos != y.front) then .wait else
    match runsReach s y.ch src, runsReach s y.ch all with
    | .never, _ => fail 0x20 va
    | _, .never => fail 0x20 dva
    | .now, .now =>
      (match y.stream s with
      | some z =>
        if !reachable s z.src z.dst then fail 0x20 va
        else if z.takes y pos n && take.all (windowFree s waiting) then .go src dst take else .wait
      | none => if take.all (windowFree s waiting) then .go src dst take else .wait)
    | _, _ => .wait

/-- Whether a copy has work for its channel. -/
def hasWork (s : State) (y : Copy) : Bool :=
  match trainOf s y.train with
  | none => false
  | some t => match pieceState s t y (y.cursor s) with
    | .fail _ _ _ => true
    | .go _ _ _ => true
    | _ => false

/-- How far a train stands behind the one that a channel served last, in the round of the trains by their numbers. -/
def roundPlace (s : State) (y : Copy) (train : Nat) : Nat :=
  match mget (coreOf s y.ch y.core).served (y.chan % 4) with
  | some n => if n < train then train - n else s.nextId + 1 + train - n
  | none => train

/-- Whether another train's context on the same physical channel has work and comes before a copy's in the round (R112). -/
def channelTaken (s : State) (y : Copy) : Bool :=
  s.copies.any fun z => z.train != y.train && z.ch == y.ch && z.core == y.core && z.chan % 4 == y.chan % 4 && z.phase == 3
    && roundPlace s y z.train < roundPlace s y y.train && hasWork s z

/-- A piece of a stream copy is sent (R165, R167). -/
def sendPiece (s : State) (y : Copy) (z : Stream) (pos : Nat) (bs : List Byte) : State :=
  let p : Packet :=
    { id := s.nextId, seq := s.nextId, src := z.src, dst := z.dst, stop := z.src, west := !goesEast s z.src z.dst
      load := .stream y.id pos z.id pos bs }
  { s with
    nextId := s.nextId + 1
    packets := s.packets ++ [p]
    streams := updFirst (fun w => w.id == z.id) (fun w => { w with sent := w.sent + bs.length }) s.streams }

/-- A piece that can go: its bytes are read and written, or sent. One that fails then does so as R129 says. -/
def runPiece (s : State) (t : Train) (y : Copy) (pos : Nat) (src dst : List Run) (wr : Ecc) : State :=
  let fail (u : State) (b : Bad) (a : W64) : State := if pos = y.front then copyError u y b.1 (b.2.getD a) else s
  match readRuns s src with
  | (.error e, u) => fail u e (srcVa s t y pos)
  | (.ok bs, u) =>
    match y.stream s with
    | some z => sendPiece u y z pos bs
    | none =>
      match writePiece { u with doing := { u.doing with ecc := wr } } (some (16 * y.ch + y.core)) dst bs with
      | (some e, u) => fail u e (endVa y.dst (dstOffset y pos))
      | (none, u) => pieceDone u y pos bs.length

/-- COPY_PIECE_WRITE (R112, R120 to R123, R128, R332): the piece at a position of a running copy, in the round of its channel. -/
def copyPiece (s : State) (y : Copy) (pos : Nat) (wr : Ecc) : State :=
  match trainOf s y.train with
  | none => s
  | some t =>
    let w := y.asker 0
    let go (s : State) : State := serveChannel (forget s w.core w.who) y
    match pieceState s t y pos with
    | .wait => s
    | .miss m => enqueueMiss s m
    | .fail e a c => if channelTaken s y then s else copyError (go s) y e a c
    | .go src dst take =>
      if channelTaken s y then s else
      let y := { y with windows := y.windows ++ take }
      runPiece ((go s).setCopy y.id fun _ => y) t y pos src dst wr

/-- COPY_PIECE_WRITE. -/
def execCopyPieceWrite (copy piece : Nat) (rd wr : Ecc) (s : State) : Host.Outcome State Fault Refusal :=
  .next (match copyOf s copy with
    | some y => during (.turn (.event (.copyPieceWrite copy piece .clean .clean))) rd (copyPiece · y piece wr) s
    | none => s)

/-! ## Stream contexts (R165, R167, R169, R170) -/

/-- A packet leaves the ring, with any copy of it that its source stop has sent again (R177). -/
def dropPacket (s : State) (id : Nat) : State :=
  match s.packets.find? fun p => p.id == id with
  | some p => { s with packets := s.packets.filter fun q => q.seq != p.seq }
  | none => s

/-- The class of a packet (R161) for its order: stream; credit or error, which R161 puts in no class, and which travel in one of their own (DESIGN
CHOICE, log entry 74); reduction. -/
def Load.cls : Load → Nat
  | .stream _ _ _ _ _ => 0
  | .credit _ _ _ _ => 1
  | .error _ _ _ _ _ _ => 1
  | .reduction _ _ _ _ => 2

/-- Whether an earlier packet of the same class, source and destination is still to be delivered (R163): the order holds across a route
epoch too (R177), and in one epoch the source and the destination fix the direction (R162). -/
def behindPacket (s : State) (p : Packet) : Bool :=
  s.packets.any fun q => q.src == p.src && q.dst == p.dst && q.load.cls == p.load.cls && q.seq < p.seq

/-- The packet of a number that has reached its destination and is the first of its order. -/
def deliverable (s : State) (pkt : Nat) : Option Packet :=
  match s.packets.find? fun p => p.id == pkt with
  | some p => if p.arrived && p.stop == p.dst && !behindPacket s p then some p else none
  | none => none

/-- A receiver sends an answer to the sender of a piece. -/
def answerPiece (s : State) (z : Stream) (l : Load) : State :=
  let p : Packet :=
    { id := s.nextId, seq := s.nextId, src := z.dst, dst := z.src, stop := z.dst, west := !goesEast s z.dst z.src, load := l }
  { s with nextId := s.nextId + 1, packets := s.packets ++ [p] }

def State.setStream (s : State) (id : Nat) (f : Stream → Stream) : State :=
  { s with streams := updFirst (fun z => z.id == id) f s.streams }

/-- The train of a stream's launch whose windows hold its typed-buffer destination: the lowest-numbered one on the receiving chassis
(log entry 12). -/
def receiverTrain (s : State) (z : Stream) : Option Train :=
  match trainOf s z.train with
  | none => none
  | some t =>
    let ts := s.trains.filter fun u => u.launch == t.launch && u.ch == z.dst && !u.yard
    ts.foldl (fun b u => match b with
      | some v => if u.index < v.index then some u else b
      | none => some u) none

/-- The offset of the byte of a position in a stream's destination. -/
def Stream.offset (z : Stream) (pos : Nat) : Int := rowOffset z.dstLen z.dstStride.toInt pos

/-- Translate the pages of a destination, each by its first address, at the receiver, one after another (R169). DESIGN CHOICE, unsafe: R167 and
R169 give a context a VMID and a PASID and no privilege level; the model translates it as at level U, so that a page without u is a fault
(R48). -/
def streamPages (s : State) (z : Stream) : List W64 → Except (Nat × W64 × WalkCode) PageMap × State
  | [] => (.ok [], s)
  | va :: gs =>
    match translateNow s z.dst z.vmid z.pasid .write va with
    | (.error f, s) => (.error (f.cause, f.addr, f.code), s)
    | (.ok (pa, a), s) =>
      match placeIn s { acc := .write, size := 1, control := false } pa with
      | .error e => (.error (e, va, {}), s)
      | .ok (sp, b) =>
        match streamPages s z gs with
        | (.ok ps, s) => (.ok ((va.toNat / 4096, sp, b - va.toNat % 4096, a) :: ps), s)
        | r => r

/-- The places of a payload, or the cause and address of the failure with the code of a walk (R169, R407). -/
def streamSpots (s : State) (z : Stream) (n : Nat) : Except (Nat × W64 × WalkCode) (List Spot) × State :=
  let offs := (List.range n).map fun i => z.offset (z.next + i)
  if z.dstKind = 0 then
    let vas := offs.map fun o => z.dstBase + BitVec.ofInt 64 o
    let pages := (vas.map fun v => v.toNat / 4096).eraseDups
    match streamPages s z (pages.filterMap fun g => vas.find? fun v => v.toNat / 4096 == g) with
    | (.error e, s) => (.error e, s)
    | (.ok ps, s) =>
      let spot (v : W64) : Option Spot := (ps.find? fun p => p.1 == v.toNat / 4096).map fun p =>
        { space := p.2.1, addr := p.2.2.1 + v.toNat % 4096, attr := p.2.2.2 }
      (.ok (vas.filterMap spot), s)
  else
    match receiverTrain s z with
    | none => (.error (0x13, bufAddr z.dstKind z.dstBase.toNat, {}), s)
    | some t =>
      match checkEnd s t true z.dstKind z.dstCore z.dstBase (offs.map fun o => (o, 1)) with
      | some a => (.error (0x13, a, {}), s)
      | none => (.ok (offs.map fun (o : Int) => bufSpot t z.dstKind z.dstCore (z.dstBase.toNat + o).toNat), s)

/-- A receiver refuses a piece: err, and the cause and address go back (R169). -/
def refusePiece (s : State) (z : Stream) (copy piece : Nat) (e : Nat × W64 × WalkCode) : State :=
  answerPiece (s.setStream z.id fun z => { z with err := true, why := (e.1, e.2.1), walk := e.2.2 }) z
    (.error copy piece z.id e.1 e.2.1 e.2.2)

/-- The core whose L1 and instruction cache drop what a stream copy writes into global memory: that of the channel, the issuing one (R112,
R122, R332). -/
def dropCore (s : State) (copy : Nat) : Option Nat := (copyOf s copy).map fun y => 16 * y.ch + y.core

/-- A receiver writes a payload at its next position (R167). -/
def receivePiece (s : State) (z : Stream) (pkt copy piece : Nat) (bs : List Byte) : State :=
  if z.err then refusePiece (dropPacket s pkt) z copy piece (z.why.1, z.why.2, z.walk) else
  match streamSpots s z bs.length with
  | (.error e, s) => refusePiece (dropPacket s pkt) z copy piece e
  | (.ok l, s') =>
    let rs := runsOf l
    let va : W64 := if z.dstKind = 0 then z.dstBase + BitVec.ofInt 64 (z.offset z.next) else bufAddr z.dstKind (z.dstBase.toNat + z.offset z.next)
    match runsReach s' z.dst (rs.flatMap Run.copies) with
    | .later => s
    | .never => refusePiece (dropPacket s' pkt) z copy piece (0x20, va, {})
    | .now =>
      match writePiece s' (dropCore s copy) rs bs with
      | (some e, s') => refusePiece (dropPacket s' pkt) z copy piece (e.1, e.2.getD va, {})
      | (none, s') =>
        answerPiece ((dropPacket s' pkt).setStream z.id fun z => { z with next := z.next + bs.length }) z
          (.credit copy piece z.id bs.length)

/-- STREAM_PACKET_RECEIVE (R167, R169). -/
def execStreamPacketReceive (pkt : Nat) (ecc : Ecc) (s : State) : Host.Outcome State Fault Refusal :=
  .next (during (.turn (.event (.streamPacketReceive pkt .clean))) ecc (fun s =>
    match deliverable s pkt with
    | some p =>
      (match p.load with
      | .stream copy piece strm _ bs =>
        (match s.streams.find? fun z => z.id == strm with
        | some z => receivePiece s z pkt copy piece bs
        | none => dropPacket s pkt)
      | _ => s)
    | none => s) s)

/-- The credit of a piece has returned (R165, R332): the count moves behind it. -/
def creditPiece (s : State) (copy piece strm n : Nat) : State :=
  let s := s.setStream strm fun z => { z with credited := z.credited + n }
  let s := match copyOf s copy with
    | some y =>
      let y' := { y with front := piece + n }
      let s := s.setCopy copy fun _ => y'
      let s := s.setTrain y.train fun t =>
        { t with chans := mset t.chans y.chan { (mget t.chans y.chan).getD {} with count := y.base + piece + n } }
      if y.phase = 3 ∧ piece + n = y.total then finishCopy s y' else s
    | none => s
  match s.streams.find? fun z => z.id == strm with
  | some z => tryRetire s z.train
  | none => s

/-- STREAM_CREDIT (R165). -/
def execStreamCredit (pkt : Nat) (s : State) : Host.Outcome State Fault Refusal :=
  .next (match deliverable s pkt with
    | some p =>
      (match p.load with
      | .credit copy piece strm n => creditPiece (dropPacket s pkt) copy piece strm n
      | _ => s)
    | none => s)

/-- The copy that carried a piece takes a copy error (R169). -/
def failStreamPiece (s : State) (copy strm cause : Nat) (va : W64) (walk : WalkCode := {}) : State :=
  let s := match copyOf s copy with
    | some y => if y.phase = 3 then copyError s y cause va walk else s
    | none => s
  match s.streams.find? fun z => z.id == strm with
  | some z => tryRetire s z.train
  | none => s

/-- STREAM_ERROR_REPORT (R169). -/
def execStreamErrorReport (pkt : Nat) (s : State) : Host.Outcome State Fault Refusal :=
  .next (match deliverable s pkt with
    | some p =>
      (match p.load with
      | .error copy _ strm cause va w => failStreamPiece (dropPacket s pkt) copy strm cause va w
      | _ => s)
    | none => s)

/-- STREAM_CLOSE_DONE (R170): a closing context whose pieces have been credited is freed. -/
def execStreamCloseDone (strm : Nat) (s : State) : Host.Outcome State Fault Refusal :=
  .next (match s.streams.find? fun z => z.id == strm with
    | some z =>
      if z.closing && z.idle && !(s.copies.any fun y => y.dst == .stream strm && y.phase != 4) then
        tryRetire { s with streams := s.streams.filter fun w => w.id != strm } z.train
      else s
    | none => s)

end Sys2Proof.Machine
end

