-- ==== Sys2Proof/Machine/RingEvents.lean ====
section
/-! DEFINITION. The ring (07 R159 to R164): packets on their way, link errors and retraining (R175, R176), hops that go down and the route
epochs (R177, R178), and the peer ports (R180, R181, 21 R436). -/

namespace Sys2Proof.Machine

/-! ## Packets (R161 to R164, R178) -/

/-- The hop that a packet takes next, by the ring position west of it, and the stop behind it. -/
def Packet.hop (p : Packet) : Nat × Nat := if p.west then ((p.stop + 15) % 16, (p.stop + 15) % 16) else (p.stop, (p.stop + 1) % 16)

/-- The source address of a stream piece, for a copy error. -/
def pieceVa (s : State) (copy piece : Nat) : W64 :=
  match copyOf s copy with
  | some y => (match trainOf s y.train with
    | some t => srcVa s t y piece
    | none => 0)
  | none => 0

/-- A packet cannot reach its destination (R178): the copy of a stream piece takes a copy error with cause 0x20, and so does that of a
credit; sums are lost, and their reduction is invalid. -/
def losePacket (s : State) (p : Packet) : State :=
  let s := dropPacket s p.id
  match p.load with
  | .stream copy piece strm _ bs =>
    failStreamPiece (s.setStream strm fun z => { z with credited := z.credited + bs.length }) copy strm 0x20 (pieceVa s copy piece)
  | .credit copy piece strm n =>
    failStreamPiece (s.setStream strm fun z => { z with credited := z.credited + n }) copy strm 0x20 (pieceVa s copy piece)
  | .error copy _ strm cause va w => failStreamPiece s copy strm cause va w
  | .reduction id _ _ _ => checkRoot s id

/-- A packet reaches the next stop (R164): sums stay there to be added, another packet stays at its destination. Behind the dateline it
uses channel 1 (R161). -/
def movePacket (s : State) (p : Packet) : State :=
  let (h, d) := p.hop
  if (chassisOf s h).east.state != 1 then s else
  let sums := match p.load with
    | .reduction _ _ _ _ => true
    | _ => false
  let p' := { p with stop := d, vc := if h = 15 then 1 else p.vc, arrived := sums || d == p.dst }
  { s with packets := updFirst (fun q => q.id == p.id) (fun _ => p') s.packets }

/-- RING_PACKET_ARRIVE (R164). -/
def execRingPacketArrive (pkt : Nat) (s : State) : Host.Outcome State Fault Refusal :=
  .next (match s.packets.find? fun p => p.id == pkt with
    | none => s
    | some p =>
      if p.arrived then s
      else if !reachable s p.src p.dst then losePacket s p
      else if s.switching then s
      else movePacket s p)

/-- REDUCTION_PACKET (R172, R179): arriving partial sums are added at a stop of the mask whose own have not gone on, or at the root in the
order of R163; elsewhere, and at a parked stop, which adds nothing of its own, they travel on. -/
def execReductionPacket (pkt : Nat) (s : State) : Host.Outcome State Fault Refusal :=
  match s.packets.find? fun p => p.id == pkt with
  | none => .next s
  | some p =>
    match p.load with
    | .reduction id mask part sums =>
      if !p.arrived then .next s else
      (match reductionOf s id with
      | none => .next (dropPacket s pkt)
      | some r =>
        if p.stop = r.args.root || !settledAt s r p.stop then
          if p.stop = r.args.root && behindPacket s p then .next s
          else .next (checkRoot ((dropPacket s pkt).setReduction id fun r => r.gather p.stop mask part sums) id)
        else .next { s with packets := updFirst (fun q => q.id == pkt) (fun q => { q with arrived := false }) s.packets })
    | _ => .next s

/-! ## Links (R175, R176, R181, R182) -/

/-- The hop of a ring port, by the ring position west of it; a peer port has none. -/
def hopOf (ch : Nat) (port : Port) : Nat :=
  match port with
  | .east => ch % 16
  | .west => (ch + 15) % 16
  | .peer => 16

/-- Change both ends of a hop. -/
def setHop (s : State) (h : Nat) (f : Link → Link) : State :=
  let a := chassisOf s h
  let s := s.setChassis h { a with east := f a.east }
  let b := chassisOf s ((h + 1) % 16)
  s.setChassis ((h + 1) % 16) { b with west := f b.west }

/-- The state of a hop. -/
def hopState (s : State) (h : Nat) : Nat := (chassisOf s h).east.state

/-- The link of a port of a chassis. -/
def Chassis.link (c : Chassis) : Port → Link
  | .east => c.east
  | .west => c.west
  | .peer => c.peer

/-- Change the link of a port: a ring hop at both its ends, a peer port at the module's (R181). -/
def setLink (s : State) (ch : Nat) (port : Port) (f : Link → Link) : State :=
  match port with
  | .peer => let c := chassisOf s (ch % 16); s.setChassis (ch % 16) { c with peer := f c.peer }
  | _ => setHop s (hopOf ch port) f

/-- FLIT_REPLAY (R175, R182): one more replayed flit is counted at the port. -/
def execFlitReplay (ch : Nat) (port : Port) (s : State) : Host.Outcome State Fault Refusal :=
  let d := ch % 16
  let c := chassisOf s d
  let more (l : Link) : Link := { l with crc := min (2 ^ 32 - 1) (l.crc + 1) }
  if (c.link port).state != 1 then .next s else
  .next (s.setChassis d (match port with
    | .east => { c with east := more c.east }
    | .west => { c with west := more c.west }
    | .peer => { c with peer := more c.peer }))

/-- LINK_RETRAIN_START (R176, R181): an active link retrains. -/
def execLinkRetrainStart (ch : Nat) (port : Port) (s : State) : Host.Outcome State Fault Refusal :=
  .next (if ((chassisOf s (ch % 16)).link port).state = 1 then setLink s ch port fun l => { l with state := 2, since := s.ns } else s)

/-- LINK_RETRAIN_COMPLETE (R176, R181): the link is active again, within 50 µs. -/
def execLinkRetrainComplete (ch : Nat) (port : Port) (s : State) : Host.Outcome State Fault Refusal :=
  let l := (chassisOf s (ch % 16)).link port
  .next (if l.state = 2 ∧ s.ns ≤ l.since + 50000 then
      setLink s ch port fun l => { l with state := 1, retrains := min 255 (l.retrains + 1) }
    else s)

/-! ## Hops that go down (R177, R178) -/

/-- ring.route (R182). -/
def routeReg (s : State) : W64 :=
  BitVec.ofNat 64 (s.routeMode + 16 * s.brk0 + 256 * s.brk1 + 2 ^ 32 * (s.routeEpoch % 2 ^ 16))

/-- Whether what is left of a packet's way takes a hop. -/
def Packet.willCross (p : Packet) (h : Nat) : Bool := if p.west then crossesEast p.dst p.stop h else crossesEast p.stop p.dst h

/-- Whether a packet has come over a hop as its last one. -/
def Packet.cameOver (p : Packet) (h : Nat) : Bool :=
  p.src != p.stop && (if p.west then p.stop == h else p.stop == (h + 1) % 16)

/-- A packet sent again by its source stop, with the number it had (R177). -/
def resent (s : State) (p : Packet) (id : Nat) : Packet :=
  { p with id := id, stop := p.src, west := !goesEast s p.src p.dst, vc := 0, arrived := false }

/-- The packets of a route epoch that begins with a hop down (R177): one whose way would cross it turns; one that stands before it, or that no
turn helps, is sent again by its source stop; of one that has just crossed it, the retry buffer still holds a copy, which is sent
again. -/
def reroutePacket (s : State) (h : Nat) (p : Packet) (id : Nat) : List Packet :=
  let lost (q : Packet) : Bool := dies.any fun g => hopIsDown s g && q.willCross g
  let there := p.arrived && p.stop == p.dst
  if !there && lost p then
    let q := { p with west := !p.west }
    if p.hop.1 = h || lost q then [resent s p p.id] else [q]
  else if p.cameOver h && reachable s p.src p.dst then [p, resent s p id]
  else [p]

/-- All packets in a new route epoch. -/
def reroute (s : State) (h : Nat) : State :=
  s.packets.foldl (fun u p => { u with nextId := u.nextId + 1, packets := u.packets ++ reroutePacket s h p u.nextId }) { s with packets := [] }

/-- Whether a hop other than one is down. -/
def otherDown (s : State) (h : Nat) : Nat := (dies.filter fun g => g != h && hopIsDown s g).length

/-- Reductions that a broken ring divides are invalid (R178). -/
def settleReductions (s : State) : State := s.reductions.foldl (fun s r => checkRoot s r.id) s

/-- HOP_DOWN (R177, R178): a hop that has retrained for 50 µs is declared down. The first begins a route epoch with a switch of the routes;
the second divides the module. -/
def execHopDown (ch : Nat) (s : State) : Host.Outcome State Fault Refusal :=
  let h := ch % 16
  if hopState s h != 2 || s.ns < (chassisOf s h).east.since + 50000 then .next s else
  let n := otherDown s h
  let s := setHop s h fun l => { l with state := 3, wasdown := true }
  let s := { s with routeEpoch := s.routeEpoch + 1 }
  if n = 0 then .next (reroute { s with brk0 := h, switching := true } h)
  else if n = 1 then
    let s := reroute { s with brk1 := h, routeMode := 2 } h
    .next (settleReductions (sendEvent s { ty := 4, ch := h, data := [(routeReg s).toNat] }))
  else .next (settleReductions (reroute s h))

/-- ROUTE_SWITCH_COMPLETE (R177): the new epoch is in force. Where a second hop has gone down meanwhile, the mode is 2 already and no
ring-degraded event is sent (DESIGN CHOICE, log entry 64: the spec orders the two cases nowhere). -/
def execRouteSwitchComplete (s : State) : Host.Outcome State Fault Refusal :=
  if !s.switching then .next s else
  let s := { s with switching := false, routeMode := max 1 s.routeMode }
  if s.routeMode = 1 then .next (sendEvent s { ty := 3, ch := s.brk0, data := [(routeReg s).toNat] }) else .next s

/-! ## Peer ports (R181, R436) -/

/-- The accesses through a peer port that are still to be performed. -/
def peerPieces (s : State) (p : Nat) : List OpRef :=
  s.coaches.flatMap fun e => e.2.ops.flatMap fun o => (List.range o.pieces.length).filterMap fun i =>
    match o.pieces[i]? with
    | some q =>
      if q.space == .peer && q.waits && q.addr / 2 ^ 40 % 8 == p then some { ch := e.2.ch, handle := e.2.handle, op := o.id, piece := i }
      else none
    | none => none

/-- An access fails as one across a broken ring (R178, R181). -/
def failAccess (s : State) (r : OpRef) : State :=
  match accessOf s r with
  | some x => failPiece s r x 0x20
  | none => s

/-- PEER_LINK_DOWN (R181): the link of a port has retrained for 50 µs. -/
def execPeerLinkDown (p : Nat) (s : State) : Host.Outcome State Fault Refusal :=
  let p := p % 8
  let d := 2 * p + 1
  let c := chassisOf s d
  if c.peer.state != 2 || s.ns < c.peer.since + 50000 then .next s else
  let s := s.setChassis d { c with peer := { c.peer with state := 3, wasdown := true } }
  .next ((peerPieces s p).foldl failAccess s)

/-- PEER_PORT_RETRY (R436): every 10 ms an untrained port tries again; `trained` says whether it finds a partner. -/
def execPeerPortRetry (p : Nat) (trained : Bool) (s : State) : Host.Outcome State Fault Refusal :=
  let d := 2 * (p % 8) + 1
  let c := chassisOf s d
  if s.stage < 2 || c.peer.state != 0 || s.ns < c.peer.since + 10000000 then .next s
  else .next (s.setChassis d { c with peer := { c.peer with state := if trained then 1 else 0, since := s.ns } })

end Sys2Proof.Machine
end

