-- ==== Sys2Proof/Machine/ControlRegs.lean ====
section
/-! DEFINITION. The registers of the control window (01 R26 to R28) by chassis and offset: what a read gives and what a write does, under the
access codes of 00 R6 and R7. The maps are those of 01 R15, 02 R38 and R59, 03 R85, 07 R182, 16 R365, 18 R383 and R390, 19 R411, R413 and
R414, 20 R419, R428 and R429, and 21 R433, R435, R437, R438 and R440. -/

namespace Sys2Proof.Machine

/-! ## Reading -/

/-- ring.link and the peer-port registers (R182). -/
def linkReg (l : Link) : W64 :=
  BitVec.ofNat 64 (l.state % 4 + 256 * l.retrains + 2 ^ 16 * l.crc + if l.wasdown then 2 ^ 63 else 0)

/-- mc.busstat (R85). -/
def busstatReg (b : Bus) : W64 :=
  BitVec.ofNat 64 (b.state + 16 * (spareNums.filter fun j => b.spareValid.getLsbD j).length + 256 * b.group + 2 ^ 16 * b.passes)

/-- mc.spare0 and mc.spare1 (R85): four slots from `j` on. -/
def spareReg (b : Bus) (j : Nat) : W64 :=
  let slot (i : Nat) : Nat :=
    (mget b.spareLane i).getD 0 + (if b.spareFailed.getLsbD i then 2 ^ 14 else 0) + if b.spareValid.getLsbD i then 2 ^ 15 else 0
  BitVec.ofNat 64 (slot j + 2 ^ 16 * slot (j + 1) + 2 ^ 32 * slot (j + 2) + 2 ^ 48 * slot (j + 3))

/-- A register of a bus (R85), by its offset in the bus's range. -/
def busReg (b : Bus) (r : Nat) : W64 :=
  match r with
  | 0 => busstatReg b
  | 8 => spareReg b 0
  | 0x10 => spareReg b 4
  | 0x18 => BitVec.ofNat 64 (b.corrected + 2 ^ 32 * b.uncorrected)
  | _ => 0

/-- ctx.evstat (R411). -/
def evstatReg (c : Chassis) : W64 := BitVec.ofNat 64 (c.outbound.length + (if c.overflow then 32 else 0) + 2 ^ 16 * c.lost)

/-- A core's registers (R365). -/
def coreReg (k : Core) (r : Nat) : W64 :=
  match r with
  | 0 => k.svTvec
  | 8 => k.hvTvec
  | 0x10 => BitVec.ofNat 64 k.yard
  | _ => 0

/-- fw.slot (R390). -/
def slotReg (f : FwSlot) : W64 := BitVec.ofNat 64 (f.queue + (if f.valid then 2 ^ 12 else 0) + if f.hostown then 2 ^ 13 else 0)

/-- The module registers on d0, by offset behind 0x30_0000. -/
def moduleReg (s : State) (r : Nat) : W64 :=
  match r with
  | 0x000 => BitVec.ofNat 64 s.ceiling
  | 0x008 => BitVec.ofNat 64 s.pscap
  | 0x010 => BitVec.ofNat 64 (s.power + 2 ^ 11 * s.duty + 2 ^ 16 * s.tokens)
  | 0x100 => teardownReg s
  | 0x200 => s.qtbase
  | 0x208 => BitVec.ofNat 64 s.qtsize
  | 0x300 => evictReg s
  | 0x400 => bootstageReg s
  | 0x410 => s.fwLoad
  | 0x500 => s.evqBase
  | 0x508 => s.evqCtl
  | 0x510 => s.evqHead.setWidth 64
  | 0x518 => s.evqTail.setWidth 64
  | r => if 0x600 ≤ r ∧ r < 0x700 then slotReg (fwSlotOf s ((r - 0x600) / 8)) else 0

/-- Whether only the host and H carriages reach a register (R15, R85, R365, R383, R390, R419, R429). -/
def guarded (off : Nat) : Bool :=
  off == 0 || off == 0x100 || (0x040000 ≤ off && off < 0x0C0000) || (0x200000 ≤ off && off < 0x300000)
    || (0x300000 ≤ off && off < 0x300018) || (0x300200 ≤ off && off < 0x300210) || (0x300600 ≤ off && off < 0x300700)

/-- Whether parking hides a register (R28): those of the cores and of the chassis cache. -/
def hidden (s : State) (d off : Nat) : Bool :=
  (chassisOf s d).parkState == 2 && ((0x0C0000 ≤ off && off < 0x100000) || (0x200000 ≤ off && off < 0x300000))

/-- A peer port on a chassis, by the offset of its register (R182). -/
def peerAt (d off : Nat) : Bool := 0x010020 ≤ off && off < 0x010060 && d == 2 * ((off - 0x010020) / 8) + 1

/-- The 64-bit register at an 8-aligned offset of a chassis's block. -/
def blockReg (s : State) (d off : Nat) : W64 :=
  let c := chassisOf s d
  match off with
  | 0x000000 => orientReg d
  | 0x000100 => parkReg s d
  | 0x000200 => c.func.setWidth 64
  | 0x000208 => c.duty.setWidth 64
  | 0x000400 => c.savebase
  | 0x000410 => evstatReg c
  | 0x010000 => linkReg c.east
  | 0x010008 => linkReg c.west
  | 0x010010 => routeReg s
  | 0x050000 => c.errlog
  | 0x050008 => c.testctl
  | 0x0C0000 => c.cdtb
  | 0x0C0008 => c.s2tb
  | 0x0C0010 => c.ttbr
  | 0x100000 => tstateReg c
  | 0x100008 => c.thctl
  | off =>
    if peerAt d off then linkReg c.peer
    else if 0x040000 ≤ off ∧ off < 0x041000 then busReg (busOf c ((off - 0x040000) / 0x100)) (off % 0x100)
    else if 0x200000 ≤ off ∧ off < 0x300000 then coreReg (coreOf s d ((off - 0x200000) / 0x10000)) (off % 0x10000)
    else if 0x300000 ≤ off ∧ d = 0 then moduleReg s (off - 0x300000)
    else 0

/-- What a read of 4 or 8 bytes gives (R26 to R28); `strong` stands for the physical function and for H. -/
def controlRead (s : State) (strong : Bool) (d off n : Nat) : Nat :=
  let r := off / 8 * 8
  if (guarded r && !strong) || hidden s d r then 0
  else (blockReg s d r).toNat / 2 ^ (8 * (off % 8)) % 2 ^ (8 * n)

/-! ## Writing -/

/-- A register's RW bits with the written bytes in place. -/
def merged (old v m rw : W64) : W64 := (old &&& ~~~(m &&& rw)) ||| (v &&& m &&& rw)

/-- A write of ring.link or a peer-port register (R182). -/
def writeLink (l : Link) (v m : W64) : Link :=
  let x := merged (linkReg l) v m 0x0000FFFFFFFF0000
  { l with crc := bitsOf x.toNat 47 16, wasdown := l.wasdown && !(v &&& m).getLsbD 63 }

/-- A write of mc.ecccnt (R85). -/
def writeBusReg (b : Bus) (r : Nat) (v m : W64) : Bus :=
  if r = 0x18 then
    let x := merged (busReg b 0x18) v m 0x0000FFFFFFFFFFFF
    { b with corrected := bitsOf x.toNat 31 0, uncorrected := bitsOf x.toNat 47 32 }
  else b

/-- A write of a core's register (R365). -/
def writeCoreReg (k : Core) (r : Nat) (v m : W64) : Core :=
  match r with
  | 0 => { k with svTvec := merged k.svTvec v m tvecMask }
  | 8 => { k with hvTvec := merged k.hvTvec v m tvecMask }
  | 0x10 => { k with yard := (merged (coreReg k 0x10) v m 0xFFFF).toNat }
  | _ => k

/-- host.duty (R440): written in S2; therm is mirrored into th.ctl.host of the partition, which acts by its lowest chassis. -/
def writeDuty (s : State) (d : Nat) (v : BitVec 5) : State :=
  if s.stage ≠ 2 then s else
  let s := s.setChassis d { chassisOf s d with duty := v }
  (partitionOf s (ownerOf s d)).foldl (fun s e =>
    let c := chassisOf s e
    s.setChassis e { c with thctl := merged c.thctl (if (dutyOf s e).getLsbD 3 then 1 else 0) 1 1 }) s

/-- The chassis whose thermal policy is another than before take the new one into th.ctl.host (R440). -/
def mirrorTherm (s0 s : State) : State :=
  dies.foldl (fun s d =>
    let on := (dutyOf s d).getLsbD 3
    if (dutyOf s0 d).getLsbD 3 = on then s else
    let c := chassisOf s d
    s.setChassis d { c with thctl := merged c.thctl (if on then 1 else 0) 1 1 }) s

/-- host.part (R433): from S2 on, while no train is resident on the chassis (R430). The partitions that change act by the thermal policies of
their lowest chassis (R440). -/
def writePart (s : State) (d : Nat) (v : BitVec 5) : State :=
  if s.stage < 2 || !emptyDie s d then s else mirrorTherm s (s.setChassis d { chassisOf s d with func := v })

/-- Whether the low half of a register is written. -/
def lowHalf (m : W64) : Bool := m.getLsbD 0

/-- A write of a module register on d0. -/
def writeModuleReg (s : State) (org : Origin) (r : Nat) (v m : W64) : State :=
  let new (rw : W64) : W64 := merged (moduleReg s r) v m rw
  match r with
  | 0x000 => if lowHalf m then { s with ceiling := max 300 (min 1500 (new 0x7FF).toNat) } else s
  | 0x008 => if lowHalf m then writePscap s (new 7).toNat else s
  | 0x100 => if lowHalf m then startTeardown s (v.setWidth 20) else s
  | 0x200 => { s with qtbase := new 0x000FFFFFFFFFF001 }
  | 0x208 => { s with qtsize := (new 0x1FFF).toNat }
  | 0x300 => writeEvict s (merged s.evict v m 0x1FFFFFFFFF)
  | 0x400 => if (v &&& m).getLsbD 2 then go s else s
  | 0x410 => loadImage s (merged s.fwLoad v m 0xFFFFFFFFFFFFF001)
  | 0x500 => { s with evqBase := new 0x0003FFFFFFFFF001 }
  | 0x508 => { s with evqCtl := new 0x7FF }
  | 0x510 => { s with evqHead := (new 0xFFFFFFFF).setWidth 32 }
  | 0x1000 => if lowHalf m then ringDoorbell s org (bitsOf v.toNat 11 0) else s
  | r =>
    if 0x600 ≤ r ∧ r < 0x700 ∧ lowHalf m then
      writeSlot s ((r - 0x600) / 8) (bitsOf v.toNat 11 0) (v.getLsbD 12) (v.getLsbD 13)
    else s

/-- ctx.fresume (R411). -/
def writeFresume (s : State) (d : Nat) (v : W64) : State :=
  fresume s { ch := d, handle := bitsOf v.toNat 11 0, slot := bitsOf v.toNat 14 13 } (v.getLsbD 12)

/-- A write at an 8-aligned offset of a chassis's block: the value in place, and the mask of the bytes written. -/
def writeBlock (s : State) (org : Origin) (d off : Nat) (v m : W64) : State :=
  let c := chassisOf s d
  let put (c : Chassis) : State := s.setChassis d c
  match off with
  | 0x000100 => if lowHalf m then writePark s d (v.getLsbD 0) else s
  | 0x000200 => if lowHalf m then writePart s d (v.setWidth 5) else s
  | 0x000208 => if lowHalf m then writeDuty s d (v.setWidth 5) else s
  | 0x000400 => put { c with savebase := merged c.savebase v m 0xFFFFFFFFFFFFF001 }
  | 0x000410 =>
    put { c with
      overflow := c.overflow && !(v &&& m).getLsbD 5, lost := bitsOf (merged (evstatReg c) v m 0xFFFF0000).toNat 31 16 }
  | 0x000418 => if lowHalf m then writeFresume s d v else s
  | 0x010000 => put { c with east := writeLink c.east v m }
  | 0x010008 => put { c with west := writeLink c.west v m }
  | 0x050000 => put { c with errlog := if (v &&& m).getLsbD 63 then c.errlog &&& 0x7FFFFFFFFFFFFFFF else c.errlog }
  | 0x050008 => put { c with testctl := merged c.testctl v m 0xFFF1 }
  | 0x0C0000 => put { c with cdtb := merged c.cdtb v m cdtbMask }
  | 0x0C0008 => put { c with s2tb := merged c.s2tb v m s2tbMask }
  | 0x0C0010 => put { c with ttbr := merged c.ttbr v m ttbrMask }
  | 0x100008 => put { c with thctl := merged c.thctl v m 7 }
  | off =>
    if peerAt d off then put { c with peer := writeLink c.peer v m }
    else if 0x040000 ≤ off ∧ off < 0x041000 then
      let n := (off - 0x040000) / 0x100
      setBus s d n (writeBusReg (busOf c n) (off % 0x100) v m)
    else if 0x200000 ≤ off ∧ off < 0x300000 then
      let n := (off - 0x200000) / 0x10000
      s.setCore d n (writeCoreReg (coreOf s d n) (off % 0x10000) v m)
    else if 0x300000 ≤ off ∧ d = 0 then writeModuleReg s org (off - 0x300000) v m
    else s

/-- A write of 4 or 8 bytes (R26 to R28). A guarded register ignores a carriage below H, and host.part one too (R433). -/
def controlWrite (s : State) (org : Origin) (strong : Bool) (d off n : Nat) (x : Nat) : State :=
  let r := off / 8 * 8
  if ((guarded r || r == 0x200) && !strong) || hidden s d r then s
  else
    let sh := 8 * (off % 8)
    writeBlock s org d r (BitVec.ofNat 64 (x % 2 ^ (8 * n) * 2 ^ sh)) (BitVec.ofNat 64 ((2 ^ (8 * n) - 1) * 2 ^ sh))

/-- Whether the control window takes an access (R27): 4 or 8 bytes, naturally aligned, in a block. -/
def controlFits (off n : Nat) : Bool := (n == 4 || n == 8) && off % n == 0 && off < 2 ^ 22

/-- REGISTER_WRITE (R6): a write through BAR0 or by an H carriage. BAR0 of a virtual function is the doorbell at offset 0, and ignores other
writes (R433). -/
def execRegisterWrite (org : Origin) (ch off size : Nat) (v : W64) (s : State) : Host.Outcome State Fault Refusal :=
  .next (if !controlFits off size then s else match org with
    | .host 0 => if hostReaches s (ch % 16) then controlWrite s org true (ch % 16) off size v.toNat else s
    | .host _ => if ch % 16 = 0 ∧ off = 0 then ringDoorbell s org (bitsOf v.toNat 11 0) else s
    | .carriage => controlWrite s org true (ch % 16) off size v.toNat)

/-- How a host read through BAR0 completes (R26, R432, R433): of the physical function, a register of the control window; of a virtual one,
zeros, since its one register is write-only (R383). An access beyond the BAR, one that R27 refuses, and one of a chassis that the host does not
reach complete with completer abort; none while the way retrains (R176). -/
def bar0Answer (s : State) (func off n : Nat) : Option HostReply :=
  let d := off / 2 ^ 22
  let within := if func = 0 then off < 2 ^ 26 else off < 2 ^ 16
  if 16 < func then some .unsupported
  else if !within || !controlFits (off % 2 ^ 22) n then some .abort
  else if func ≠ 0 then some (.data (List.replicate n 0))
  else if hostReaches s d then some (.data (leBytes n (controlRead s true d (off % 2 ^ 22) n)))
  else if 2 ≤ s.stage && reachable s 0 d then none
  else some .abort

/-- The host reads through BAR0 of a function (R15, R26, R432). -/
def bar0Read (s : State) (func off n : Nat) : State :=
  match bar0Answer s func off n with
  | some r => { s with bar0Reads := s.bar0Reads ++ [(off, r)] }
  | none => s

end Sys2Proof.Machine
end

