-- ==== Sys2Proof/Machine/MemoryEvents.lean ====
section
/-! DEFINITION. The steps of outstanding operations (10 R253, 03 R72, R75, 04 R100, R105, R107), of an outrider's accesses (14 R329, 06 R152,
08 R208, 19 R416), and of accesses whose completion never arrives (01 R32). -/

namespace Sys2Proof.Machine

/-! ## Memory commands and atomics -/

/-- BANK_OPERATION (R72): a memory command, or an atomic that executes at the bank-side unit. -/
def bankOperation (s : State) (r : OpRef) : State :=
  match accessOf s r with
  | none => s
  | some x =>
    match x.o.kind with
    | .cmd k => cmdStep s r x k
    | .atomic aop n => if x.p.site = .bank then atomStep s r x aop n else s
    | _ => s

/-- BANK_OPERATION (R72). -/
def execBankOperation (r : OpRef) (ecc : Ecc) (s : State) : Host.Outcome State Fault Refusal := .next (duringOp r ecc (bankOperation · r) s)

/-- COMMAND_REPLY (R75). -/
def commandReply (s : State) (r : OpRef) : State :=
  match accessOf s r with
  | none => s
  | some x => if x.o.kind.isCmd then replyStep s r x else s

/-- COMMAND_REPLY (R75). -/
def execCommandReply (r : OpRef) (s : State) : Host.Outcome State Fault Refusal := .next (commandReply s r)

/-- ATOMIC_EXECUTE (R105): at its site. -/
def atomicExecute (s : State) (r : OpRef) : State :=
  match accessOf s r with
  | none => s
  | some x =>
    match x.o.kind with
    | .atomic aop n => atomStep s r x aop n
    | _ => s

/-- ATOMIC_EXECUTE (R105). -/
def execAtomicExecute (r : OpRef) (ecc : Ecc) (s : State) : Host.Outcome State Fault Refusal := .next (duringOp r ecc (atomicExecute · r) s)

/-! ## Loads (R253) -/

/-- A register of the control window that an access reaches: chassis and offset. -/
def Piece.block (p : Piece) : Nat × Nat := (p.addr / 2 ^ 22 % 16, p.addr % 2 ^ 22)

/-- The value of a load, the control window among its places. -/
def loadAny (s : State) (x : Site1) : Except Nat Nat × State :=
  if x.p.space = .control then (.ok (controlRead s (x.o.level == .H) x.p.block.1 x.p.block.2 x.p.size), s) else loadValue s x

/-- A load that is still to be performed. -/
def performLoad (s : State) (r : OpRef) (x : Site1) : State :=
  if !inOrder s x then s else
  match reachSite s x with
  | .later => s
  | .never => failPiece s r x 0x20
  | .now =>
    match loadAny s x with
    | (.error e, s) => failPiece s r x e
    | (.ok v, s) => acquireDone (returnValue s r x v) x.c x.o

/-- LOAD_RETURN (R253): the data of a load that is performed now, or the value that a load or atomic has obtained before; a value on its way
back that the divided ring cuts off gives cause 0x20 (R178). -/
def loadReturn (s : State) (r : OpRef) : State :=
  match accessOf s r with
  | none => s
  | some x =>
    match x.o.kind with
    | .load =>
      if x.p.phase = 0 then performLoad s r x
      else if x.p.phase = 1 then acquireDone (returnValue s r x x.p.result) x.c x.o
      else s
    | .atomic _ _ =>
      if x.p.phase != 1 then s else
      match reachSite s x with
      | .later => s
      | .never => failPiece s r x 0x20
      | .now => acquireDone (returnValue s r x x.p.result) x.c x.o
    | _ => s

/-- LOAD_RETURN (R253). -/
def execLoadReturn (r : OpRef) (ecc : Ecc) (s : State) : Host.Outcome State Fault Refusal := .next (duringOp r ecc (loadReturn · r) s)

/-! ## Stores (R253) -/

/-- Whether an earlier matrix instruction of the coach still reads bytes of a typed-buffer store (R151). -/
def storeHeld (s : State) (x : Site1) : Bool :=
  match x.p.space with
  | .buf kind g => matHolds s x.c.key x.o.stamp g kind x.p.addr x.p.size
  | _ => false

/-- A store, the control window among its places. -/
def storeAny (s : State) (x : Site1) : Option Nat × State :=
  if x.p.space = .control then
    (none, controlWrite s .carriage (x.o.level == .H) x.p.block.1 x.p.block.2 x.p.size x.p.data)
  else storeValue s x

/-- A store that is still to be performed, with those that reach the home with it; an error is that of each (R71). -/
def performStore (s : State) (r : OpRef) (x : Site1) : State :=
  let is := storeGroup x
  let first (i : Nat) : Bool := (x.o.pieces[i]?).any fun p => inOrder s { x with p := p, i := i } is
  if !is.all first || storeHeld s x then s else
  let end_ (s : State) (err : Option Nat) : State :=
    putPieces s r.key x.o.id (mapPieces x.o.pieces is fun p => { p with phase := 2, err := err })
  match reachSite s x with
  | .later => s
  | .never => end_ s (some 0x20)
  | .now => let (e, s) := storeAny s x; end_ s e

/-- A line of a CFLUSH or CINV (R335): one that the divided ring cuts off cannot be written back (R178); the L1 gives up a line in any case. -/
def performLine (s : State) (r : OpRef) (x : Site1) : State :=
  if x.p.phase ≠ 0 || !inOrder s x then s
  else if x.o.kind != .cflush then completePiece (dropLine s x.c.gcore x.p.addr) r x
  else
    match reachOf s x.c x.p with
    | .later => s
    | .never => failPiece s r x 0x20
    | .now => completePiece (flushLine s x.p.addr) r x

/-- STORE_PERFORMED (R253): a store is performed, or one that was performed in place leaves; or a line of a CFLUSH or CINV is done. -/
def storePerformed (s : State) (r : OpRef) : State :=
  match accessOf s r with
  | none => s
  | some x =>
    match x.o.kind with
    | .store =>
      if x.p.phase = 0 then performStore s r x
      else if x.p.phase = 1 then completePiece s r x
      else s
    | .cflush => performLine s r x
    | .cinv => performLine s r x
    | _ => s

/-- STORE_PERFORMED (R253). -/
def execStorePerformed (r : OpRef) (ecc : Ecc) (s : State) : Host.Outcome State Fault Refusal := .next (duringOp r ecc (storePerformed · r) s)

/-! ## Caches (R100, R107) -/

/-- CACHE_FILL_RETURN (R100, R95): at the chassis cache, or at the L1 of a core. -/
def execCacheFillReturn (ch pa : Nat) (l1 : Option Nat) (ecc : Ecc) (s : State) : Host.Outcome State Fault Refusal :=
  .next (during (.turn (.event (.cacheFillReturn ch pa l1 .clean))) ecc (fun s =>
    match resolve pa, l1 with
    | none, _ => s
    | some h, none => fillHome s (ch % 16) h.wa
    | some h, some core => fillL1 s (16 * (ch % 16) + core % 16) h.wa) s)

/-- L1_OWNERSHIP_GRANT (R107). -/
def execL1OwnershipGrant (ch core pa : Nat) (ecc : Ecc) (s : State) : Host.Outcome State Fault Refusal :=
  .next (during (.turn (.event (.l1OwnershipGrant ch core pa .clean))) ecc (fun s =>
    match resolve pa with
    | some h => grantLine s (16 * (ch % 16) + core % 16) h.wa
    | none => s) s)

/-- OWNERSHIP_RECALL (R107). -/
def execOwnershipRecall (pa : Nat) (s : State) : Host.Outcome State Fault Refusal :=
  .next (during (.turn (.event (.ownershipRecall pa))) .clean (fun s =>
    match resolve pa with
    | some h => recallLine (enterSlice s h.wa) (lineOf h.wa)
    | none => s) s)

/-! ## The outrider's accesses (R152, R207, R208, R329) -/

/-- How an element's access is identified among those that wait for walks. -/
def elemAsker (c : Coach) (r : OpRef) (va : W64) : Asker :=
  { core := c.gcore, level := .U, ctx := ctxOf c .U, who := (c.key, 16 + 64 * r.op + r.piece, va) }

/-- An outrider's access has ended: the operation, and how far its port has come. -/
def endElement (s : State) (r : OpRef) (o : Op) (p : Piece) (q : Nat) : State :=
  let s := match coachOf s r.key with
    | some c => s.setCoach r.key { c with ops := (c.setOp o.id fun o => { o with pieces := setNth o.pieces r.piece p }).ops }
    | none => s
  let s := match coachOf s r.key with
    | some c => s.setCoach r.key (settlePort c q)
    | none => s
  putPiece s r o p

/-- The elements of a coach that are marked as faulted (R416). -/
def faultCount (c : Coach) : Nat := c.ports.foldl (fun n e => n + e.2.faults.length) 0

/-- Whether a failed access would make a 65th mark (R416). -/
def marksFull (x : Site1) : Bool := !x.c.exited.getLsbD x.p.lane && 64 ≤ faultCount x.c

/-- An access that would make a 65th mark waits (R416). -/
def withhold (s : State) (r : OpRef) (x : Site1) : State := putPiece s r x.o { x.p with late := true }

/-- An element's access has failed (R208): the element is marked, unless its lane has exited; a context holds at most 64 marks (R416). -/
def failElement (s : State) (r : OpRef) (x : Site1) (q e cause : Nat) (va : W64) (write : Bool) (walk : WalkCode := {}) : State :=
  let live := !x.c.exited.getLsbD x.p.lane
  if marksFull x then withhold s r x else
  let p := portOf x.c q
  let f : QFault :=
    { cause := cause, addr := va, write := write, walk := walk, data := BitVec.ofNat 32 x.p.data, stamp := x.o.stamp, va := x.p.va
      base := x.p.data, shift := x.p.data2 }
  let c := if live then { x.c with ports := mset x.c.ports q { p with faults := mset p.faults (elemKey e x.p.lane) f } } else x.c
  endElement (s.putCoach c) r x.o { x.p with phase := 2 } q

/-- The checks of an element's access, then `go` with its place. -/
def withElement (s : State) (r : OpRef) (x : Site1) (q e : Nat) (acc : Acc) (go : State → Site1 → State) : State :=
  let write := acc == .write
  let k := elemAsker x.c r x.p.va
  match checkAccess s k { acc := acc, size := 4 } x.p.lane x.p.va with
  | .miss m => enqueueMiss s m
  | .trap t =>
    failElement (forget s k.core k.who) r x q e t.cause t.addr write { reason := t.reason, stage := t.stage, wlevel := t.wlevel }
  | .ok sp a at_ =>
    let x := { x with p := { x.p with space := sp, addr := a, attr := at_ } }
    match reachOf s x.c x.p with
    | .later => s
    | .never => failElement (forget s k.core k.who) r x q e 0x20 x.p.errAddr write
    | .now => go (forget s k.core k.who) x

/-- QUEUE_ELEMENT_FILL (R329): an element of an inbound entry, or the index of one of a QGAT. A lane that has exited reads nothing. -/
def fillElement (s : State) (r : OpRef) (x : Site1) (q e : Nat) : State :=
  if x.c.exited.getLsbD x.p.lane then endElement s r x.o { x.p with phase := 2 } q else
  withElement s r x q e .read fun s x =>
    match loadAny s x with
    | (.error n, s') => if marksFull x then withhold s r x else failElement s' r x q e n x.p.errAddr false
    | (.ok v, s) =>
      if x.p.data2 ≠ 0 then
        let va := BitVec.ofNat 64 x.p.data + ((BitVec.ofNat 32 v).signExtend 64 <<< (x.p.data2 - 1))
        putPiece s r x.o { x.p with va := va, data2 := 0, space := .mem, addr := 0, attr := {} }
      else
        let p := portOf x.c q
        let c := { x.c with ports := mset x.c.ports q { p with elems := mset p.elems (elemKey e x.p.lane) (BitVec.ofNat 32 v) } }
        endElement (s.putCoach c) r x.o { x.p with phase := 2 } q

/-- QUEUE_ELEMENT_FILL (R329). -/
def queueFill (s : State) (r : OpRef) : State :=
  match accessOf s r with
  | none => s
  | some x =>
    match x.o.kind, x.p.dst with
    | .qread, .elem q e => if x.p.phase = 0 && !x.c.saved then fillElement s r x q e else s
    | _, _ => s

/-- QUEUE_ELEMENT_FILL (R329). -/
def execQueueElementFill (r : OpRef) (ecc : Ecc) (s : State) : Host.Outcome State Fault Refusal := .next (duringOp r ecc (queueFill · r) s)

/-- Store an access and its copies (R47, R148), until one fails; the L1 of the core takes each as it is performed. -/
def storeCopies (x : Site1) : State → List Piece → Option Nat × State
  | s, [] => (none, s)
  | s, p :: ps =>
    let p := { p with late := true }
    match storeAny s { x with p := p, o := { x.o with pieces := [p] }, i := 0 } with
    | (some e, s) => (some e, s)
    | (none, s) => storeCopies x s ps

/-- Whether a lower lane's element of the same entry, still to be written, lies at the same place (R319). One whose translation is not known yet
may. -/
def behindLane (s : State) (r : OpRef) (x : Site1) : Bool :=
  (x.o.pieces.take x.i).any fun p => p.waits && p.dst == x.p.dst
    && (match checkAccess s (elemAsker x.c r p.va) { acc := .write, size := 4 } p.lane p.va with
      | .ok sp a _ => sp == x.p.space && a == x.p.addr
      | .miss _ => true
      | .trap _ => false)

/-- QUEUE_ENTRY_DRAIN (R152): an element of an outbound entry is written, behind the stores that the core has issued there (R96) and behind lower
lanes (R319). -/
def drainElement (s : State) (r : OpRef) (x : Site1) (q e : Nat) : State :=
  withElement s r x q e .write fun s x =>
    if behindLane s r x then s else
    let ps := copiesOf x.p
    let fails (s' : State) (n : Nat) : State :=
      if marksFull x then withhold s r x else failElement s' r x q e n x.p.errAddr true
    if ps.any fun p => reachOf s x.c p == .later || coreStoresOpen s x.c.gcore s.nextId p then s
    else if ps.any fun p => reachOf s x.c p == .never then fails s 0x20
    else
      match storeCopies x s ps with
      | (some n, s') => fails s' n
      | (none, s) => endElement s r x.o { x.p with phase := 2 } q

/-- QUEUE_ENTRY_DRAIN (R152). -/
def queueDrain (s : State) (r : OpRef) : State :=
  match accessOf s r with
  | none => s
  | some x =>
    match x.o.kind, x.p.dst with
    | .qwrite, .elem q e => if x.p.phase = 0 && !x.c.saved then drainElement s r x q e else s
    | _, _ => s

/-- QUEUE_ENTRY_DRAIN (R152). -/
def execQueueEntryDrain (r : OpRef) (ecc : Ecc) (s : State) : Host.Outcome State Fault Refusal := .next (duringOp r ecc (queueDrain · r) s)

/-! ## Completion timeout (R32) -/

/-- COMPLETION_TIMEOUT (R32): a load from the host or a peer window, or a store to a peer window, fails at its far end. Host writes are
posted and have no completion. -/
def completionTimeout (s : State) (r : OpRef) : State :=
  match accessOf s r with
  | none => s
  | some x =>
    if x.p.phase ≠ 0 then s else
    match x.o.kind, x.p.space with
    | .load, .host => failPiece s r x 0x20
    | .load, .peer => failPiece s r x 0x20
    | .store, .peer => failPiece s r x 0x20
    | _, _ => s

/-- COMPLETION_TIMEOUT (R32). -/
def execCompletionTimeout (r : OpRef) (s : State) : Host.Outcome State Fault Refusal := .next (completionTimeout s r)

end Sys2Proof.Machine
end

