-- ==== Sys2Proof/Machine/HostEvents.lean ====
section
/-! DEFINITION. Accesses that come from outside: the host's through BAR2 (01 R33, 06 R157, 21 R432, R433, R437) and those of peer modules
(01 R30, 06 R158, 07 R181). -/

namespace Sys2Proof.Machine

/-- The attributes of an access from outside: it allocates no line. -/
def outsideAttr : Attr := { cp := 2 }

/-- Write bytes at their homes, sector by sector; a sector whose write fails keeps its bytes (R71). Whether every one was written. -/
def writeOutside (s : State) (a : Nat) (bs : List Byte) : Bool × State :=
  (sectorsOf a bs.length).foldl (fun r x =>
    let (e, s) := tryWrite r.2 none x.1 ((bs.drop (x.1 - a)).take x.2) outsideAttr
    (r.1 && e.isNone, s)) (true, s)

/-- Read sectors at their homes: none where one fails (R71). -/
def readSectors (s : State) : List (Nat × Nat) → Option (List Byte) × State
  | [] => (some [], s)
  | x :: xs =>
    match tryRead s outsideAttr x.1 x.2 with
    | (.error _, s) => (none, s)
    | (.ok bs, s) =>
      match readSectors s xs with
      | (some r, s) => (some (bs ++ r), s)
      | (none, s) => (none, s)

/-- The host sizes BAR2 of the physical function (R432): a power of two from 1 GiB to 1 TiB. -/
def resizeBar2 (s : State) (n : Nat) : State := if 30 ≤ n && n ≤ 40 then { s with bar2 := n } else s

/-- Where an offset of BAR2 of a function leads (R33, R433): a chassis-window address. -/
def bar2Place (s : State) (func off : Nat) : Option Nat :=
  if func = 0 then (if off < 2 ^ s.bar2 then some off else none)
  else if 16 < func then none
  else ((partitionOf s func)[off / 2 ^ 36]?).map fun d => d * 2 ^ 36 + off % 2 ^ 36

/-- The size of BAR2 of a virtual function whose partition has `c` chassis (R433): the least power of two that covers 64 GiB for each. -/
def vfBar2 (c : Nat) : Nat := if c = 0 then 0 else 2 ^ (36 + ((List.range 5).find? fun k => c ≤ 2 ^ k).getD 4)

/-- How a host read that is not performed completes: an offset within BAR2 of a virtual function and beyond its chassis with unsupported
request (R433), every other with completer abort (R432, R437). -/
def bar2Refusal (s : State) (func off n : Nat) : HostReply :=
  let x := if (bar2Place s func off).isNone then off else off + (n - 1)
  let c := (partitionOf s func).length
  if func != 0 && func ≤ 16 && c * 2 ^ 36 ≤ x && x < vfBar2 c then .unsupported else .abort

/-- How a host access of some bytes ends before it is performed: beyond the BAR or out of reach, later, or at an address (R178, R432, R437).
Before the ring stands, BAR2 reaches the memories directly. -/
def bar2Reach (s : State) (func off n : Nat) : Reach × Nat :=
  match bar2Place s func off, bar2Place s func (off + (n - 1)) with
  | some a, some b =>
    let d := (homeAt a).d
    if (homeAt b).d ≠ d || (s.stage = 0 && d ≠ 0) then (.never, a)
    else if s.stage < 2 then (.now, a)
    else if !reachable s 0 d then (.never, a)
    else if !pathOpen s 0 d then (.later, a)
    else (.now, a)
  | _, _ => (.never, 0)

/-- HOST_BAR2_WRITE (R157): a posted write; one that is refused changes nothing. -/
def execHostBar2Write (func off : Nat) (bytes : List Byte) (ecc : Ecc) (s : State) : Host.Outcome State Fault Refusal :=
  .next (during (.turn (.event (.hostBar2Write func off bytes .clean))) ecc (fun s =>
    match bar2Reach s func off bytes.length with
    | (.now, a) => (writeOutside s a bytes).2
    | _ => s) s)

/-- HOST_BAR2_READ (R157): the completion carries the bytes, or says how the read was refused. -/
def execHostBar2Read (func off n : Nat) (ecc : Ecc) (s : State) : Host.Outcome State Fault Refusal :=
  .next (during (.turn (.event (.hostBar2Read func off n .clean))) ecc (fun s =>
    let reply (s : State) (r : HostReply) : State := { s with hostReads := s.hostReads ++ [(off, r)] }
    match bar2Reach s func off n with
    | (.now, a) => let (r, s) := readSectors s (sectorsOf a n); reply s ((r.map HostReply.data).getD .abort)
    | (.never, _) => reply s (bar2Refusal s func off n)
    | (.later, _) => holdStep s) s)

/-- PEER_REQUEST_ARRIVE (R158): a write is performed at its home, or refused at its far end; a read is answered. -/
def execPeerRequestArrive (p pa : Nat) (write : Bool) (bytes : List Byte) (ecc : Ecc) (s : State) : Host.Outcome State Fault Refusal :=
  .next (during (.turn (.event (.peerRequestArrive p pa write bytes .clean))) ecc (fun s =>
    let n := bytes.length
    let a := pa % 2 ^ 40
    let at_ := 2 * (p % 8) + 1
    let d := (homeAt a).d
    let reply (s : State) (r : Option (List Byte)) : State := { s with peerReplies := s.peerReplies ++ [(p % 8, a, r)] }
    -- one that has come to its unit needs the port no more
    if (chassisOf s at_).peer.state != 1 && !s.doing.head then holdStep s
    else if (homeAt (a + (n - 1))).d ≠ d || !reachable s at_ d then reply s none
    else if !pathOpen s at_ d then holdStep s
    else if write then
      -- a failed sector is refused at the far end
      let (ok, s) := writeOutside s a bytes
      reply s (if ok then some [] else none)
    else let (r, s) := readSectors s (sectorsOf a n); reply s r) s)

end Sys2Proof.Machine
end

