-- ==== Sys2Proof/Machine/Vector.lean ====
section
/-! DEFINITION. Vector instructions (12 R286 to R300): one meaning for each, over the shared lane step. Each runs for every lane in the
active set, on the elements of its registers or, under int64, of its pairs. -/

namespace Sys2Proof.Machine

/-! ## Shapes -/

/-- An element instruction of one operand (R286): v[d] ← f(v[a]). -/
def elem1 (s : State) (i : Instr) (d a : BitVec 8) (f : Mode → Nat → Nat × FlagSet) : Host.Outcome State Fault Refusal :=
  vector s i 4 fun c k l =>
    let m := modeOf c k
    let r := f m (readE c k m l a.toNat)
    { writes := writesE m d.toNat r.1, flags := r.2 }

/-- An element instruction of two operands: v[d] ← f(v[a], v[b]). -/
def elem2 (s : State) (i : Instr) (d a b : BitVec 8) (f : Mode → Nat → Nat → Nat × FlagSet) : Host.Outcome State Fault Refusal :=
  vector s i 4 fun c k l =>
    let m := modeOf c k
    let r := f m (readE c k m l a.toNat) (readE c k m l b.toNat)
    { writes := writesE m d.toNat r.1, flags := r.2 }

/-- An element instruction that also reads its destination: v[d] ← f(v[a], v[b], v[d]). -/
def elem3 (s : State) (i : Instr) (d a b : BitVec 8) (f : Mode → Nat → Nat → Nat → Nat × FlagSet) : Host.Outcome State Fault Refusal :=
  vector s i 4 fun c k l =>
    let m := modeOf c k
    let r := f m (readE c k m l a.toNat) (readE c k m l b.toNat) (readE c k m l d.toNat)
    { writes := writesE m d.toNat r.1, flags := r.2 }

/-- An element instruction with a scalar operand (R289): v[d] ← f(v[a], s[b], v[d]). -/
def elemS (s : State) (i : Instr) (d a b : BitVec 8) (f : Mode → Nat → Nat → Nat → Nat × FlagSet) : Host.Outcome State Fault Refusal :=
  vector s i 4 fun c k l =>
    let m := modeOf c k
    let r := f m (readE c k m l a.toNat) (readS c k b.toNat).toNat (readE c k m l d.toNat)
    { writes := writesE m d.toNat r.1, flags := r.2 }

/-- An instruction on 32-bit registers, whatever the element type: v[d] ← f(v[a], v[b], v[d]). -/
def word3 (s : State) (i : Instr) (d a b : BitVec 8) (f : Mode → Nat → Nat → Nat → Nat × FlagSet) : Host.Outcome State Fault Refusal :=
  vector s i 4 fun c k l =>
    let r := f (modeOf c k) (readV c k l a.toNat).toNat (readV c k l b.toNat).toNat (readV c k l d.toNat).toNat
    { writes := [(d.toNat, BitVec.ofNat 32 r.1)], flags := r.2 }

/-- An instruction on 32-bit registers with one operand: v[d] ← f(v[a]). -/
def word1 (s : State) (i : Instr) (d a : BitVec 8) (f : Mode → Nat → Nat × FlagSet) : Host.Outcome State Fault Refusal :=
  vector s i 4 fun c k l =>
    let r := f (modeOf c k) (readV c k l a.toNat).toNat
    { writes := [(d.toNat, BitVec.ofNat 32 r.1)], flags := r.2 }

/-- A compare (R295): p[d] ← f(v[a], v[b]). -/
def pred2 (s : State) (i : Instr) (d : BitVec 3) (a b : BitVec 8) (f : Mode → Nat → Nat → Bool × FlagSet) :
    Host.Outcome State Fault Refusal :=
  vector s i 4 fun c k l =>
    let m := modeOf c k
    let r := f m (readE c k m l a.toNat) (readE c k m l b.toNat)
    { preds := [(d.toNat, r.1)], flags := r.2 }

/-- Predicate logic (R296): p[d] ← f(l). -/
def predP (s : State) (i : Instr) (d : BitVec 3) (f : Coach → Carriage → Nat → Bool) : Host.Outcome State Fault Refusal :=
  vector s i 4 fun c k l => { preds := [(d.toNat, f c k l)] }

/-- The element move instructions (R294): v[d], or the pair, ← f(l). -/
def moveE (s : State) (i : Instr) (len : Nat) (d : BitVec 8) (f : Coach → Carriage → Mode → Nat → Nat) :
    Host.Outcome State Fault Refusal :=
  vector s i len fun c k l => let m := modeOf c k; { writes := writesE m d.toNat (f c k m l) }

/-! ## Arithmetic (R289 to R291) -/

/-- VADD (R289): a + b, for each element. -/
def execVadd (d a b : BitVec 8) (s : State) : Host.Outcome State Fault Refusal :=
  elem2 s (.vadd d a b) d a b fun m x y => regArith .add m x y 0

/-- VSUB (R289): a − b, for each element. -/
def execVsub (d a b : BitVec 8) (s : State) : Host.Outcome State Fault Refusal :=
  elem2 s (.vsub d a b) d a b fun m x y => regArith .sub m x y 0

/-- VMUL (R289): a × b, for each element. -/
def execVmul (d a b : BitVec 8) (s : State) : Host.Outcome State Fault Refusal :=
  elem2 s (.vmul d a b) d a b fun m x y => regArith .mul m x y 0

/-- VMIN (R289): the lesser (R290), for each element. -/
def execVmin (d a b : BitVec 8) (s : State) : Host.Outcome State Fault Refusal :=
  elem2 s (.vmin d a b) d a b fun m x y => regArith .min m x y 0

/-- VMAX (R289): the greater (R290), for each element. -/
def execVmax (d a b : BitVec 8) (s : State) : Host.Outcome State Fault Refusal :=
  elem2 s (.vmax d a b) d a b fun m x y => regArith .max m x y 0

/-- VDIV (R289): a / b (R291), for each element. -/
def execVdiv (d a b : BitVec 8) (s : State) : Host.Outcome State Fault Refusal :=
  elem2 s (.vdiv d a b) d a b fun m x y => regArith .div m x y 0

/-- VFMA (R289): a × b + d, rounded once, for each element. -/
def execVfma (d a b : BitVec 8) (s : State) : Host.Outcome State Fault Refusal :=
  elem3 s (.vfma d a b) d a b (regArith .fma)

/-- VFNMA (R289): −(a × b) + d, rounded once, for each element. -/
def execVfnma (d a b : BitVec 8) (s : State) : Host.Outcome State Fault Refusal :=
  elem3 s (.vfnma d a b) d a b (regArith .fnma)

/-- VABS (R289): |a|, for each element. -/
def execVabs (d a : BitVec 8) (s : State) : Host.Outcome State Fault Refusal :=
  elem1 s (.vabs d a) d a fun m x => regArith .abs m x 0 0

/-- VNEG (R289): −a, for each element. -/
def execVneg (d a : BitVec 8) (s : State) : Host.Outcome State Fault Refusal :=
  elem1 s (.vneg d a) d a fun m x => regArith .neg m x 0 0

/-- VSQRT (R289): the square root of a (R291), for each element. -/
def execVsqrt (d a : BitVec 8) (s : State) : Host.Outcome State Fault Refusal :=
  elem1 s (.vsqrt d a) d a fun m x => regArith .sqrt m x 0 0

/-- VRNDI (R289): a rounded to an integer under mode.rnd, for each element. -/
def execVrndi (d a : BitVec 8) (s : State) : Host.Outcome State Fault Refusal :=
  elem1 s (.vrndi d a) d a fun m x => regArith .rndi m x 0 0

/-- VMULH (R289): the high half of the integer product. -/
def execVmulh (d a b : BitVec 8) (s : State) : Host.Outcome State Fault Refusal :=
  elem2 s (.vmulh d a b) d a b regMulh

/-- VADDS (R289): a + c, with the scalar operand c. -/
def execVadds (d a b : BitVec 8) (s : State) : Host.Outcome State Fault Refusal :=
  elemS s (.vadds d a b) d a b (regArithS .add)

/-- VMULS (R289): a × c, with the scalar operand c. -/
def execVmuls (d a b : BitVec 8) (s : State) : Host.Outcome State Fault Refusal :=
  elemS s (.vmuls d a b) d a b (regArithS .mul)

/-- VFMAS (R289): a × c + d, rounded once, with the scalar operand c. -/
def execVfmas (d a b : BitVec 8) (s : State) : Host.Outcome State Fault Refusal :=
  elemS s (.vfmas d a b) d a b (regArithS .fma)

/-! ## Bits (R292, R293) -/

/-- VAND (R292): bitwise and of the patterns. -/
def execVand (d a b : BitVec 8) (s : State) : Host.Outcome State Fault Refusal :=
  elem2 s (.vand d a b) d a b fun _ x y => (Nat.land x y, 0)

/-- VOR (R292): bitwise or of the patterns. -/
def execVor (d a b : BitVec 8) (s : State) : Host.Outcome State Fault Refusal :=
  elem2 s (.vor d a b) d a b fun _ x y => (Nat.lor x y, 0)

/-- VXOR (R292): bitwise exclusive-or of the patterns. -/
def execVxor (d a b : BitVec 8) (s : State) : Host.Outcome State Fault Refusal :=
  elem2 s (.vxor d a b) d a b fun _ x y => (Nat.xor x y, 0)

/-- VNOT (R292): every bit of the pattern inverted. -/
def execVnot (d a : BitVec 8) (s : State) : Host.Outcome State Fault Refusal :=
  elem1 s (.vnot d a) d a fun _ x => (Nat.xor x (2 ^ 64 - 1), 0)

/-- VSHL (R292): shift left. -/
def execVshl (d a b : BitVec 8) (s : State) : Host.Outcome State Fault Refusal :=
  elem2 s (.vshl d a b) d a b (regBits .shl)

/-- VSHR (R292): shift right, arithmetic for signed types. -/
def execVshr (d a b : BitVec 8) (s : State) : Host.Outcome State Fault Refusal :=
  elem2 s (.vshr d a b) d a b (regBits .shr)

/-- VCLZ (R292): the number of leading zero bits. -/
def execVclz (d a : BitVec 8) (s : State) : Host.Outcome State Fault Refusal :=
  elem1 s (.vclz d a) d a fun m x => regBits .clz m x 0

/-- VPOPC (R292): the number of one bits. -/
def execVpopc (d a : BitVec 8) (s : State) : Host.Outcome State Fault Refusal :=
  elem1 s (.vpopc d a) d a fun m x => regBits .popc m x 0

/-- The position, width and sign of a bit-field descriptor of a lane (R293). -/
def laneField (y : Nat) : Nat × Nat × Bool := (bitsOf y 4 0, min (bitsOf y 13 8) 32, bitOf y 16)

/-- VBFX (R293): the field of v[a] that v[b] describes. -/
def execVbfx (d a b : BitVec 8) (s : State) : Host.Outcome State Fault Refusal :=
  word3 s (.vbfx d a b) d a b fun _ x y _ =>
    let (pos, wd, sx) := laneField y
    (bitFieldExtract 32 x pos wd sx, 0)

/-- VBFI (R293): v[a] inserted into the field of v[d] that v[b] describes. -/
def execVbfi (d a b : BitVec 8) (s : State) : Host.Outcome State Fault Refusal :=
  word3 s (.vbfi d a b) d a b fun _ x y z =>
    let (pos, wd, _) := laneField y
    (bitFieldInsert 32 z x pos wd, 0)

/-! ## Moves and select (R294) -/

/-- VIMM (R294): the immediate, sign-extended. -/
def execVimm (d : BitVec 8) (i : BitVec 16) (s : State) : Host.Outcome State Fault Refusal :=
  moveE s (.vimm d i) 4 d fun _ _ _ _ => (i.signExtend 64).toNat

/-- VLIT (R294): the literal, sign-extended under int64. -/
def execVlit (d : BitVec 8) (lit : W32) (s : State) : Host.Outcome State Fault Refusal :=
  moveE s (.vlit d lit) 8 d fun _ _ _ _ => (lit.signExtend 64).toNat

/-- VMOV (R294): the pattern of v[a]. -/
def execVmov (d a : BitVec 8) (s : State) : Host.Outcome State Fault Refusal :=
  moveE s (.vmov d a) 4 d fun c k m l => readE c k m l a.toNat

/-- VFRS (R294): the low word of s[a], or all of it under int64. -/
def execVfrs (d a : BitVec 8) (s : State) : Host.Outcome State Fault Refusal :=
  moveE s (.vfrs d a) 4 d fun c k _ _ => (readS c k a.toNat).toNat

/-- VSEL (R294): v[a] where the predicate holds, otherwise v[d]. -/
def execVsel (d a : BitVec 8) (p : BitVec 3) (s : State) : Host.Outcome State Fault Refusal :=
  moveE s (.vsel d a p) 4 d fun c k m l => readE c k m l (if readP c p.toNat l then a.toNat else d.toNat)

/-! ## Compares and predicate logic (R295, R296) -/

/-- VCMPEQ (R295): a = b, on element 0. -/
def execVcmpeq (d : BitVec 3) (a b : BitVec 8) (s : State) : Host.Outcome State Fault Refusal :=
  pred2 s (.vcmpeq d a b) d a b (compare .eq)

/-- VCMPNE (R295): a ≠ b, on element 0. -/
def execVcmpne (d : BitVec 3) (a b : BitVec 8) (s : State) : Host.Outcome State Fault Refusal :=
  pred2 s (.vcmpne d a b) d a b (compare .ne)

/-- VCMPLT (R295): a < b, on element 0. -/
def execVcmplt (d : BitVec 3) (a b : BitVec 8) (s : State) : Host.Outcome State Fault Refusal :=
  pred2 s (.vcmplt d a b) d a b (compare .lt)

/-- VCMPLE (R295): a ≤ b, on element 0. -/
def execVcmple (d : BitVec 3) (a b : BitVec 8) (s : State) : Host.Outcome State Fault Refusal :=
  pred2 s (.vcmple d a b) d a b (compare .le)

/-- VCMPUN (R295): either operand is NaN, on element 0. -/
def execVcmpun (d : BitVec 3) (a b : BitVec 8) (s : State) : Host.Outcome State Fault Refusal :=
  pred2 s (.vcmpun d a b) d a b (compare .un)

/-- PAND (R296): the and of two predicates. -/
def execPand (d a b : BitVec 3) (s : State) : Host.Outcome State Fault Refusal :=
  predP s (.pand d a b) d fun c _ l => readP c a.toNat l && readP c b.toNat l

/-- POR (R296): the or of two predicates. -/
def execPor (d a b : BitVec 3) (s : State) : Host.Outcome State Fault Refusal :=
  predP s (.por d a b) d fun c _ l => readP c a.toNat l || readP c b.toNat l

/-- PXOR (R296): the exclusive-or of two predicates. -/
def execPxor (d a b : BitVec 3) (s : State) : Host.Outcome State Fault Refusal :=
  predP s (.pxor d a b) d fun c _ l => readP c a.toNat l != readP c b.toNat l

/-- PNOT (R296): the predicate inverted. -/
def execPnot (d a : BitVec 3) (s : State) : Host.Outcome State Fault Refusal :=
  predP s (.pnot d a) d fun c _ l => !readP c a.toNat l

/-- PFRS (R296): bit l of s[a]. -/
def execPfrs (d : BitVec 3) (a : BitVec 8) (s : State) : Host.Outcome State Fault Refusal :=
  predP s (.pfrs d a) d fun c k l => (readS c k a.toNat).getLsbD l

/-! ## Conversion, packing and exponents (R297 to R299) -/

/-- VCVT (R297): element 0 of v[a], or the pair under source code 13, converted to the type of the mode. -/
def execVcvt (d a : BitVec 8) (t : BitVec 4) (s : State) : Host.Outcome State Fault Refusal :=
  vector s (.vcvt d a t) 4 fun c k l =>
    let m := modeOf c k
    let r := convert m t.toNat (if t = 13 then (readPair c k l a.toNat).toNat else (readV c k l a.toNat).toNat)
    { writes := writesE m d.toNat r.1, flags := r.2 }

/-- VPACK (R298): element 0 of v[a] into element k of v[d]. -/
def execVpack (d a : BitVec 8) (w : BitVec 2) (k : BitVec 4) (s : State) : Host.Outcome State Fault Refusal :=
  word3 s (.vpack d a w k) d a d fun _ x _ z => (setElem z k.toNat (packWidth w.toNat) (elem x 0 (packWidth w.toNat)), 0)

/-- VUNPK (R298): element k of v[a], extended. -/
def execVunpk (d a : BitVec 8) (w : BitVec 2) (sx : BitVec 1) (k : BitVec 4) (s : State) : Host.Outcome State Fault Refusal :=
  word1 s (.vunpk d a w sx k) d a fun _ x => (unpack x w.toNat k.toNat (sx == 1), 0)

/-- VXINS (R299): each element scaled by a power of two. -/
def execVxins (d a b : BitVec 8) (s : State) : Host.Outcome State Fault Refusal :=
  word3 s (.vxins d a b) d a b fun m x y _ => regXins m x y

/-- VXEXT (R299): the binary exponent of each element. -/
def execVxext (d a : BitVec 8) (s : State) : Host.Outcome State Fault Refusal :=
  word1 s (.vxext d a) d a regXext

/-! ## Special functions (R300) -/

/-- VSFU rcp (R300): 1 / x. -/
def execVsfuRcp (d a : BitVec 8) (s : State) : Host.Outcome State Fault Refusal :=
  word1 s (.vsfuRcp d a) d a (regSfu .rcp)

/-- VSFU rsq (R300): 1 over the square root of x. -/
def execVsfuRsq (d a : BitVec 8) (s : State) : Host.Outcome State Fault Refusal :=
  word1 s (.vsfuRsq d a) d a (regSfu .rsq)

/-- VSFU lg2 (R300): the base-two logarithm. -/
def execVsfuLg2 (d a : BitVec 8) (s : State) : Host.Outcome State Fault Refusal :=
  word1 s (.vsfuLg2 d a) d a (regSfu .lg2)

/-- VSFU fexp (R300): two to the power x. -/
def execVsfuFexp (d a : BitVec 8) (s : State) : Host.Outcome State Fault Refusal :=
  word1 s (.vsfuFexp d a) d a (regSfu .fexp)

/-- VSFU sin (R300): sine. -/
def execVsfuSin (d a : BitVec 8) (s : State) : Host.Outcome State Fault Refusal :=
  word1 s (.vsfuSin d a) d a (regSfu .sin)

/-- VSFU cos (R300): cosine. -/
def execVsfuCos (d a : BitVec 8) (s : State) : Host.Outcome State Fault Refusal :=
  word1 s (.vsfuCos d a) d a (regSfu .cos)

/-- VSFU tanh (R300): hyperbolic tangent. -/
def execVsfuTanh (d a : BitVec 8) (s : State) : Host.Outcome State Fault Refusal :=
  word1 s (.vsfuTanh d a) d a (regSfu .tanh)

/-- VSFU sigm (R300): the logistic sigmoid. -/
def execVsfuSigm (d a : BitVec 8) (s : State) : Host.Outcome State Fault Refusal :=
  word1 s (.vsfuSigm d a) d a (regSfu .sigm)

end Sys2Proof.Machine
end

