-- ==== Sys2Proof/Machine/LevelIndexInstr.lean ====
section
/-! DEFINITION. Level-index instructions (13 R308 to R314): one meaning for each, over the shared lane step. -/

namespace Sys2Proof.Machine

/-- The level-index format of the mode (R308): its fraction bits. -/
def slOf (m : Mode) : Nat := m.etype.asSl

/-- LIARITH over the elements of a register (R310). -/
def liReg (op : SlOp) (m : Mode) (x y : Nat) : Nat × FlagSet :=
  let w := slOf m + 5
  perElem w fun j => liArith op (slOf m) (elem x j w) (elem y j w)

/-- LIADD (R310). -/
def execLiadd (d a b : BitVec 8) (s : State) : Host.Outcome State Fault Refusal :=
  word3 s (.liadd d a b) d a b fun m x y _ => liReg .add m x y

/-- LISUB (R310). -/
def execLisub (d a b : BitVec 8) (s : State) : Host.Outcome State Fault Refusal :=
  word3 s (.lisub d a b) d a b fun m x y _ => liReg .sub m x y

/-- LIMUL (R310). -/
def execLimul (d a b : BitVec 8) (s : State) : Host.Outcome State Fault Refusal :=
  word3 s (.limul d a b) d a b fun m x y _ => liReg .mul m x y

/-- LIDIV (R310). -/
def execLidiv (d a b : BitVec 8) (s : State) : Host.Outcome State Fault Refusal :=
  word3 s (.lidiv d a b) d a b fun m x y _ => liReg .div m x y

/-- A level-index compare (R311) on element 0: neither operand NaN and `f` of the values; `nanFlag` is raised for a NaN. -/
def liCompare (s : State) (i : Instr) (d : BitVec 3) (a b : BitVec 8) (f : SlVal → SlVal → Bool) (nanFlag : FlagSet) :
    Host.Outcome State Fault Refusal :=
  vector s i 4 fun c k l =>
    let fb := slOf (modeOf c k)
    let x := decodeSl fb (elem (readV c k l a.toNat).toNat 0 (fb + 5))
    let y := decodeSl fb (elem (readV c k l b.toNat).toNat 0 (fb + 5))
    let un := x == .nan || y == .nan
    { preds := [(d.toNat, !un && f x y)], flags := if un then nanFlag else 0 }

/-- LICLT (R311): x < y; IV for a NaN. -/
def execLiclt (d : BitVec 3) (a b : BitVec 8) (s : State) : Host.Outcome State Fault Refusal :=
  liCompare s (.liclt d a b) d a b SlVal.lt fIV

/-- LICEQ (R311): x = y. -/
def execLiceq (d : BitVec 3) (a b : BitVec 8) (s : State) : Host.Outcome State Fault Refusal :=
  liCompare s (.liceq d a b) d a b SlVal.eqv 0

/-- The canonical pattern of a function of each element's value (R312). -/
def liSign (f : SlVal → SlVal) (m : Mode) (x : Nat) : Nat × FlagSet :=
  let fb := slOf m
  perElem (fb + 5) fun j => ((f (decodeSl fb (elem x j (fb + 5)))).pattern fb, 0)

/-- LINEG (R312). -/
def execLineg (d a : BitVec 8) (s : State) : Host.Outcome State Fault Refusal := word1 s (.lineg d a) d a (liSign SlVal.negate)

/-- LIABS (R312). -/
def execLiabs (d a : BitVec 8) (s : State) : Host.Outcome State Fault Refusal :=
  word1 s (.liabs d a) d a (liSign fun v => if v.neg then v.negate else v)

/-- LITOF (R313): element 0 to a binary float type. -/
def execLitof (d a : BitVec 8) (t : BitVec 4) (s : State) : Host.Outcome State Fault Refusal :=
  word1 s (.litof d a t) d a fun m x =>
    let p := elem x 0 (slOf m + 5)
    match EType.ofCode t.toNat with
    | .float f => slToFloat (slOf m) p f m.rnd m.sat m.ftz
    | _ => (0, 0)

/-- LIFRF (R313): element 0 of a binary float type to the level-index type. -/
def execLifrf (d a : BitVec 8) (t : BitVec 4) (s : State) : Host.Outcome State Fault Refusal :=
  word1 s (.lifrf d a t) d a fun m x =>
    match EType.ofCode t.toNat with
    | .float f =>
      let p := elem x 0 f.w
      let v := f.decode m.ftz p
      let r := encodeSl (slOf m) v
      (r.1, r.2 ||| sigIV [v])
    | _ => (0, 0)

/-- LITOI (R313): element 0 to an integer type; int64 writes the pair. -/
def execLitoi (d a : BitVec 8) (t : BitVec 4) (s : State) : Host.Outcome State Fault Refusal :=
  vector s (.litoi d a t) 4 fun c k l =>
    let m := modeOf c k
    let p := elem (readV c k l a.toNat).toNat 0 (slOf m + 5)
    let r := slToInt (slOf m) p (EType.ofCode t.toNat).asInt m.rnd m.sat
    let lo : Nat × W32 := (d.toNat, BitVec.ofNat 32 r.1)
    { writes := if t = 13 then [lo, (d.toNat + 1, BitVec.ofNat 32 (r.1 / 2 ^ 32))] else [lo], flags := r.2 }

/-- LIFRI (R313): element 0 of an integer type, or the pair under int64, to the level-index type. -/
def execLifri (d a : BitVec 8) (t : BitVec 4) (s : State) : Host.Outcome State Fault Refusal :=
  vector s (.lifri d a t) 4 fun c k l =>
    let m := modeOf c k
    let f := (EType.ofCode t.toNat).asInt
    let x := if t = 13 then (readPair c k l a.toNat).toNat else elem (readV c k l a.toNat).toNat 0 f.w
    let r := encodeSl (slOf m) (Val.ofInt (f.decode x))
    { writes := [(d.toNat, BitVec.ofNat 32 r.1)], flags := r.2 }

/-- LILVL (R314): the level, fraction, index or sign of element 0. -/
def execLilvl (d a : BitVec 8) (f : BitVec 2) (s : State) : Host.Outcome State Fault Refusal :=
  word1 s (.lilvl d a f) d a fun m x => (liLvl (slOf m) (elem x 0 (slOf m + 5)) f.toNat, 0)

end Sys2Proof.Machine
end

