-- ==== Sys2Proof/Machine/MatrixEvents.lean ====
section
/-! DEFINITION. What happens in the matrix unit after issue: token requests (18 R403), and the start and end of queued instructions (15 R338,
R343 to R358). -/

namespace Sys2Proof.Machine

/-- TOKEN_REQUEST (R403): a carriage that is otherwise ready at a matrix instruction that draws tokens makes one request for them. -/
def execTokenRequest (r : SlotRef) (s : State) : Host.Outcome State Fault Refusal :=
  match coachOf s r.key with
  | none => .next s
  | some c =>
    match mget c.slots r.slot with
    | none => .next s
    | some k =>
      if !(c.canIssue && choosable s c k) || requestedBy (chassisOf s c.ch) c.key r.slot then .next s else
      match fetchOf s c r.slot k with
      | .ok i _ =>
        let n := drawOf s c k i
        let served := { c with granted := mset c.granted r.slot n }
        if n = 0 || mget c.granted r.slot == some n || (notReady s served r.slot k i).isSome then .next s
        else .next (requestTokens s c r.slot n)
      | _ => .next s

/-- The place in the issue order of a queued instruction. -/
def MatEntry.stamp (e : MatEntry) (c : Coach) : Nat :=
  match opOf c e.op with
  | some o => o.stamp
  | none => 0

/-- Whether the head of a core's queue can start (R151): the coach's earlier typed-buffer writes have been performed, and so have its earlier
counted instructions, a CRED among them, whose results come after its source read (DESIGN CHOICE between R151 and R338 with R358: log entry
63). -/
def headReady (s : State) (e : MatEntry) : Bool :=
  match coachOf s e.coach with
  | some c => !bufWritesOpen c (e.stamp c) && !c.ops.any fun o => o.counter == .tl && o.stamp < e.stamp c && !o.done
  | none => true

/-- MATRIX_INSTRUCTION_START (R358, R357): the instruction at the head of the queue starts at a work clock behind its issue clock; tokens of gated segments
return, and what it consumes counts for its train and the module. -/
def execMatrixInstructionStart (ch core : Nat) (s : State) : Host.Outcome State Fault Refusal :=
  let k := coreOf s ch core
  match k.matq with
  | [] => .next s
  | e :: es =>
    let clk := (chassisOf s ch).clk
    if e.started || clk ≤ e.issued || !headReady s e || !workClock (chassisOf s ch).ts clk then .next s else
    let net := netTokens k (fmtOf e.fmt) e.what
    let err := match e.what with
      | .bgat _ _ _ _ _ => false
      | _ => k.csrerr
    let s := s.setCore ch core { k with matq := { e with started := true } :: es, csrerr := err }
    let s := refund s ch (e.drawn - net)
    let s := s.setTrain e.train fun t => { t with tokens := mset t.tokens e.tcore (rget t.tokens e.tcore + BitVec.ofNat 64 net) }
    .next { s with consumed := s.consumed + net }

/-- The flags of a queued instruction are raised in the cstat of the level that issued it (R350). -/
def raiseFor (s : State) (e : MatEntry) (f : FlagSet) : State :=
  match coachOf s e.coach with
  | some c => s.setCoach e.coach (addFlagsAt c e.level e.fslot f)
  | none => s

/-- A queued instruction leaves tl (R253). -/
def leaveTl (s : State) (e : MatEntry) : State :=
  match coachOf s e.coach with
  | some c => checkCoach (s.setCoach e.coach (updateOp c e.op fun o => { o with done := true })) e.coach
  | none => s

/-- The source read of a CRED, and its contribution (R355): a receiver stays in tl. -/
def runCred (s : State) (g : Nat) (t : Train) (e : MatEntry) (prm src dst lit : W64) : State :=
  let a := credArgs prm.toNat lit.toNat
  let (sums, fl) := readCred s t e.tcore (fmtOf e.fmt) a src.toNat
  let s := raiseFor s e fl
  let x : Contribution :=
    { ch := g / 16, coach := e.coach, op := e.op, core := g % 16, dst := dst.toNat, all := a.all, level := e.level, fslot := e.fslot }
  let pasid := ((launchOf s t.launch).map fun l => l.pasid.toNat).getD 0
  let s := contribute s x pasid prm.toNat lit.toNat sums
  if a.all || g / 16 == a.root then s else leaveTl s e

/-- What a queued instruction does (R346 to R355). -/
def runMatrix (s : State) (g : Nat) (t : Train) (e : MatEntry) : State :=
  let f := fmtOf e.fmt
  match e.what with
  | .bld o => leaveTl (runBld s g t e.tcore f o) e
  | .bgat p ci vo lo hi => leaveTl (runBgat s g t e.tcore f p ci vo lo hi) e
  | .tzero m => leaveTl (runTzero s g t e.tcore m) e
  | .tmul tile o m row0 st =>
    let (s, fl) := runTmul s g t e.tcore f tile o m row0 st
    leaveTl (raiseFor s e fl) e
  | .tdrain tile prm cdst tdst ps =>
    let (s, fl) := runTdrain s g t e.tcore f tile prm cdst tdst ps
    leaveTl (raiseFor s e fl) e
  | .cred prm src dst lit => runCred s g t e prm src dst lit

/-- The chassis in which a page of a drain is written: every one for a replicated page (R47). -/
def pageDies (p : Nat × Space × Nat × Attr) : List Nat := if p.2.2.2.repl then dies else [(homeAt p.2.2.1).d]

/-- Whether the homes that a TDRAIN writes can be reached at this moment (R176, R177). A write to a home beyond a broken ring is lost, as no
matrix instruction faults after it has issued (R336). -/
def drainOpen (s : State) (ch : Nat) : MatOp → Bool
  | .tdrain _ _ _ _ ps => ps.all fun p => (pageDies p).all fun d => pathOpen s ch d || !reachable s ch d
  | _ => true

/-- A TDRAIN without the pages that no packet reaches (R178). -/
def reachablePages (s : State) (ch : Nat) : MatOp → MatOp
  | .tdrain tile prm cdst tdst ps => .tdrain tile prm cdst tdst (ps.filter fun p => (pageDies p).any (reachable s ch))
  | m => m

/-- MATRIX_INSTRUCTION_END (R358): the running instruction's work clocks are over with the span of the last one, and the buffers and macros accept its
accesses (R81). It reads its operands, performs all its writes, raises its
flags and leaves the queue. -/
def execMatrixInstructionEnd (ch core : Nat) (s : State) : Host.Outcome State Fault Refusal :=
  let k := coreOf s ch core
  match k.matq with
  | [] => .next s
  | e :: es =>
    if !e.started || e.work != 0 || (chassisOf s ch).clk < e.ends || !drainOpen s ch e.what || stolenNow s ch then .next s else
    match trainOf s e.train with
    | some t => .next (during (.turn (.event (.matrixInstructionEnd ch core))) .clean (fun s =>
        runMatrix (s.setCore ch core { k with matq := es }) (16 * ch + core) t { e with what := reachablePages s ch e.what }) s)
    | none => .next (leaveTl (s.setCore ch core { k with matq := es }) e)

end Sys2Proof.Machine
end

