-- ==== Sys2Proof/Machine/TranslateEvents.lean ====
section
/-! DEFINITION. The events of address translation: walks and table reads (02 R45 to R52), invalidations on their way (R54, R55), scope writes
(06 R139, 16 R370) and page scans (02 R56 to R58), with fetch faults (19 R409). -/

namespace Sys2Proof.Machine

/-! ## Walks (R45, R49 to R52) -/

/-- Whether two misses are of one 4 KiB page of one context. -/
def Miss.near (a b : Miss) : Bool := a.ctx == b.ctx && a.page == b.page

/-- TRANSLATION_WALK (R52): the oldest waiting miss whose page no walk serves starts one, with the registers as they stand (R39). -/
def startWalk (s : State) (ch : Nat) : State :=
  let c := chassisOf s ch
  if 64 ≤ c.walks.length then s else
  match c.misses.find? fun m => !c.walks.any fun w => w.miss.near m with
  | none => s
  | some m =>
    let w : Walk := { id := s.nextId, miss := m, cdtb := c.cdtb, s2tb := c.s2tb, ttbr := c.ttbr }
    ({ s with nextId := s.nextId + 1 } : State).setChassis ch { c with misses := c.misses.erase m, walks := c.walks ++ [w] }

/-- TRANSLATION_WALK (R45). -/
def execTranslationWalk (ch : Nat) (s : State) : Host.Outcome State Fault Refusal := .next (startWalk s ch)

/-- The registers that a walk uses. -/
def Walk.roots (w : Walk) : Roots := { cdtb := w.cdtb.toNat, s2tb := w.s2tb.toNat, ttbr := w.ttbr.toNat }

/-- Take a miss out of the miss buffer of its core. -/
def dropMiss (s : State) (m : Miss) : State :=
  let k := coreG s m.core
  s.setCoreG m.core { k with misses := k.misses.filter fun x => !m.same x }

/-- A miss fails (R50): its carriages find the fault when they ask again; one that nobody waits for any more is over. -/
def failMiss (s : State) (m : Miss) (f : XFault) : State :=
  let s := dropMiss s m
  if m.who.isEmpty then s else
  let k := coreG s m.core
  s.setCoreG m.core { k with failed := k.failed ++ [{ miss := m, fault := f }] }

/-- A miss is served by an entry, which its core's TLB takes (R51). -/
def serveMiss (s : State) (e : TlbEntry) (m : Miss) : State :=
  let s := dropMiss s m
  let k := coreG s m.core
  s.setCoreG m.core { k with tlb := addEntry 128 e k.tlb }

/-- Take misses out of the queue of a chassis. -/
def unqueue (s : State) (ch : Nat) (p : Miss → Bool) : State :=
  let c := chassisOf s ch
  s.setChassis ch { c with misses := c.misses.filter fun m => !p m }

/-- A completed walk serves its own miss and every waiting miss that its page covers (R52); one whose answer makes no entry ends its own
miss, whose carriages ask again. -/
def serveAll (s : State) (ch : Nat) (keep : Bool) (e : TlbEntry) (m : Miss) : State :=
  if !keep then dropMiss s m else
  let ok (x : Miss) : Bool := e.covers x.ctx (x.page * 4096) && e.serves x.acc
  let ms := (chassisOf s ch).misses.filter ok
  let s := unqueue s ch ok
  let c := chassisOf s ch
  (m :: ms).foldl (fun s x => serveMiss s e x) (s.setChassis ch { c with tlb := addEntry 8192 e c.tlb })

/-- Waiting misses on the page of a failed walk whose own walk over the same table reads fails share the failure (R52). -/
def failAll (s : State) (ch : Nat) (w : Walk) (f : XFault) : State :=
  let verdict (x : Miss) : Option XFault :=
    if !w.miss.near x then none
    else match walk w.roots x w.reads with
      | .fail g _ => some g
      | _ => none
  let ms := (chassisOf s ch).misses.filterMap fun x => (verdict x).map fun g => (x, g)
  let s := unqueue s ch fun x => (verdict x).isSome
  ms.foldl (fun s x => failMiss s x.1 x.2) (failMiss s w.miss f)

/-- The table reads of a walk that the table-entry cache keeps: context descriptors and non-leaf entries (R51). -/
def keepTables (s : State) (ch : Nat) (w : Walk) : State :=
  let c := chassisOf s ch
  let new := w.reads.filterMap fun r =>
    if pteV r.2.toNat && pteTable r.2.toNat then some { ctx := w.miss.ctx, addr := r.1, value := r.2 } else none
  s.setChassis ch { c with table := ((new ++ c.table).eraseDups).take 256 }

/-- Remove a walk. -/
def removeWalk (s : State) (ch id : Nat) : State :=
  let c := chassisOf s ch
  s.setChassis ch { c with walks := c.walks.filter fun w => w.id != id }

/-- A walk is over (R49): the accessed and dirty bits of the leaves it has used are set, and it ends as `fin` says; where an entry has changed
since it was read, it begins again at the top table of that entry's stage. -/
def closeWalk (s : State) (ch : Nat) (w : Walk) (us : List Used) (fin : State → State) : State :=
  match setUsed ch [] s us with
  | (none, s) => fin (removeWalk s ch w.id)
  | (some left, s) =>
    let c := chassisOf s ch
    s.setChassis ch { c with
      walks := updFirst (fun x => x.id == w.id) (fun x => { x with reads := w.reads.take (w.reads.length - left) }) c.walks }

/-- A walk ends (R45). -/
def endWalk (s : State) (ch : Nat) (w : Walk) : State :=
  match walk w.roots w.miss w.reads with
  | .need _ _ => s
  | .fail f us => closeWalk s ch w us (failAll · ch w f)
  | .ok x _ _ => closeWalk s ch w x.used fun s => serveAll (keepTables s ch w) ch x.keep x.entry w.miss

/-- A table read fails (R50, R71, R84, R178): the walk ends with the cause at the entry's physical address. -/
def failRead (s : State) (ch : Nat) (w : Walk) (cause a : Nat) (us : List Used) : State :=
  let f : XFault := { cause := cause, addr := BitVec.ofNat 64 a, reason := 0, stage := 0, wlevel := 0, own := false }
  closeWalk s ch w us (failMiss · w.miss f)

/-- How a table read ends: with a cause, or with a value. -/
inductive TableRead where
  | bad (cause : Nat)
  | value (v : W64)
  deriving DecidableEq, Repr

/-- A table read at the home of its address (R45), or from the table-entry cache (R51). -/
def tableRead (s : State) (ch : Nat) (ctx : Ctx) (a : Nat) : TableRead × State :=
  match (chassisOf s ch).table.find? fun t => t.ctx == ctx && t.addr == a with
  | some t => (.value t.value, s)
  | none =>
    match readPa s ch a 8 with
    | (.ok v, s) => (.value (BitVec.ofNat 64 v), s)
    | (.error e, s) => (.bad e, s)

/-- A value joins the reads of a walk. -/
def Walk.takeRead (w : Walk) (a : Nat) (v : W64) : Walk := { w with reads := w.reads ++ [(a, v)] }

/-- TABLE_READ_RETURN (R45): the read that the walk needs next returns, and the walk ends if it was the last. -/
def walkStep (s : State) (ch : Nat) (w : Walk) : State :=
  match walk w.roots w.miss w.reads with
  | .need a us =>
    (match tableRead s ch w.miss.ctx a with
    | (.bad e, s) => failRead s ch w e a us
    | (.value v, s) =>
      let w' := w.takeRead a v
      let c := chassisOf s ch
      endWalk (s.setChassis ch { c with walks := updFirst (fun x => x.id == w.id) (fun _ => w') c.walks }) ch w')
  | .fail _ _ => endWalk s ch w
  | .ok _ _ _ => endWalk s ch w

/-- TABLE_READ_RETURN (R45). -/
def execTableReadReturn (ch wk : Nat) (ecc : Ecc) (s : State) : Host.Outcome State Fault Refusal :=
  .next (during (.turn (.event (.tableReadReturn ch wk .clean))) ecc (fun s =>
    match (chassisOf s ch).walks.find? fun w => w.id == wk with
    | some w => walkStep s ch w
    | none => s) s)

/-! ## Invalidation (R55, R371) -/

/-- An outstanding TLBINV of a coach: the kind and its operands. -/
def tlbinvOf (o : Op) : Option (Nat × Nat × Nat × Nat) :=
  match o.kind with
  | .tlbinv k p v a => some (k, p, v, a)
  | _ => none

/-- Whether an earlier store of the issuing coach is still to be performed (R55). -/
def storesBefore (c : Coach) (o : Op) : Bool :=
  c.ops.any fun q => q.stamp < o.stamp && !q.outrider && q.kind.writes && q.pieces.any fun p => p.phase == 0

/-- TLBINV_ARRIVE (R55): the chassis applies the invalidation and acknowledges; the place of the last acknowledgement in the issue order is
kept. A chassis that a divided ring cuts off never answers, so that the TLBINV does not complete (DESIGN CHOICE, log entry 68). -/
def arriveInvalidation (s : State) (r : OpRef) (ch : Nat) : State :=
  match coachOf s r.key with
  | none => s
  | some c =>
    match opOf c r.op with
    | none => s
    | some o =>
      match tlbinvOf o with
      | none => s
      | some (k, p, v, a) =>
        if 16 ≤ ch || o.acks.getLsbD ch || storesBefore c o || !pathOpen s c.ch ch then s else
        let s := invalidateOn s ch k p v a
        match coachOf s r.key with
        | some c => s.setCoach r.key (c.setOp r.op fun o => { o with acks := o.acks ||| (1#16 <<< ch), acked := s.nextId })
        | none => s

/-- TLBINV_ARRIVE (R55). -/
def execTlbinvArrive (r : OpRef) (ch : Nat) (s : State) : Host.Outcome State Fault Refusal := .next (arriveInvalidation s r ch)

/-- Whether an access of a context can use an entry that an invalidation removes (R54). -/
def Ctx.hit (x : Ctx) (kind pasid vmid : Nat) : Bool :=
  match kind with
  | 1 => !x.hyp && x.vmid == vmid && x.pasid == pasid
  | 5 => x.hyp
  | 6 => true
  | _ => !x.hyp && x.vmid == vmid

/-- Whether an operation still holds a translation: an access not yet performed, a copy, or a drain to memory (R55, R371). -/
def Op.translated (s : State) (c : Coach) (o : Op) : Bool :=
  match o.kind with
  | .copy _ => !o.done
  | .tile => !o.done && (coreOf s c.ch c.core).matq.any fun e => e.coach == c.key && e.op == o.id && (match e.what with
      | .tdrain _ _ _ _ pages => !pages.isEmpty
      | _ => false)
  | .tlbinv _ _ _ _ => false
  | .qread => false
  | .qwrite => false
  | _ => o.pieces.any fun p => p.phase == 0

/-- TLBINV_COMPLETE (R55): every chassis has acknowledged, and every access issued before with a translation of the context is performed. -/
def completeInvalidation (s : State) (r : OpRef) : State :=
  match coachOf s r.key with
  | none => s
  | some c =>
    match opOf c r.op with
    | none => s
    | some o =>
      match tlbinvOf o with
      | none => s
      | some (k, p, v, _) =>
        let used := s.coaches.any fun e => e.2.ops.any fun q =>
          q.stamp < o.acked && (ctxOf e.2 q.level).hit k p v && q.translated s e.2
        if o.acks != BitVec.allOnes 16 || used || o.done then s
        else checkCoach (s.setCoach r.key (updateOp c r.op fun o => { o with done := true })) r.key

/-- TLBINV_COMPLETE (R55). -/
def execTlbinvComplete (r : OpRef) (s : State) : Host.Outcome State Fault Refusal := .next (completeInvalidation s r)

/-! ## SCOPEW (R139, R370) -/

/-- Whether another SCOPEW of the same context and entry was issued before and is in progress (R370). -/
def scopeBefore (s : State) (c : Coach) (w : ScopeWrite) : Bool :=
  s.coaches.any fun e => e.2.vmid == c.vmid && e.2.pasid == c.pasid && e.2.scopews.any fun v => v.n == w.n && v.stamp < w.stamp && !v.done

/-- Whether a carriage in a slot waits for a SCOPEW. -/
def scopeWaiter (w : ScopeWrite) (k : Carriage) : Bool :=
  w.of k && (match k.wait with
    | some (.scopew _) => true
    | _ => false)

/-- The SCOPEW whose completion is due for a slot: that of its carriage, or one whose carriage lies in the siding. -/
def scopeDue (s : State) (c : Coach) (slot : Nat) : Option ScopeWrite :=
  c.scopews.find? fun w => !w.done && !scopeBefore s c w
    && ((mget c.slots slot).any (scopeWaiter w) || !c.slots.any fun e => scopeWaiter w e.2)

/-- Whether the mask of a SCOPEW reaches every chassis at this moment (R139, R176): a hop that retrains holds it back. It is
written on the chassis that a divided ring cuts off as well (DESIGN CHOICE, log entry 68). -/
def scopeReaches (s : State) (c : Coach) : Bool := dies.all fun d => pathOpen s c.ch d || !reachable s c.ch d

/-- SCOPEW_COMPLETE (R139, R370): every chassis holds the mask, and the carriage goes on behind the SCOPEW once it waits for no other; one in
the siding goes on when it issues the SCOPEW again (R193). -/
def completeScope (s : State) (r : SlotRef) : State :=
  match coachOf s r.key with
  | none => s
  | some c =>
    match (if scopeReaches s c then scopeDue s c r.slot else none) with
    | none => s
    | some w =>
      let key := scopeKey c.vmid.toNat c.pasid.toNat w.n
      let s := dies.foldl (fun s d => let x := chassisOf s d; s.setChassis d { x with scopes := mset x.scopes key w.mask }) s
      match mget c.slots r.slot with
      | some k =>
        if scopeWaiter w k then
          let c := { c with scopews := c.scopews.erase w }
          s.setCoach r.key (if (scopeWaits c k).all (·.done) then advance { c with scopews := c.scopews.filter fun v => !(scopeWaits c k).contains v } r.slot 4
            else c)
        else s.setCoach r.key { c with scopews := updFirst (· == w) (fun v => { v with done := true }) c.scopews }
      | none => s.setCoach r.key { c with scopews := updFirst (· == w) (fun v => { v with done := true }) c.scopews }

/-- SCOPEW_COMPLETE (R139). -/
def execScopewComplete (r : SlotRef) (s : State) : Host.Outcome State Fault Refusal := .next (completeScope s r)

/-! ## Page scans (R56 to R58) -/

/-- Whether some carriage or outrider context waits for the scan of a page. -/
def scanWanted (s : State) (page : Nat) : Bool :=
  s.coaches.any fun e =>
    e.2.canIssue && (e.2.slots.any (fun j => fetchOf s e.2 j.1 j.2 == .scan page)
      || (e.2.outr.live && !e.2.outr.qend && e.2.outr.failed.isNone && outriderFetch s e.2 == .scan page))

/-- The chassis of a 4 KiB page of local memory, by its number in the chassis windows. -/
def pageDie (page : Nat) : Nat := page * 4096 / 2 ^ 36 % 16

/-- PAGE_SCAN_START (R56). -/
def startScan (s : State) (ch page : Nat) : State :=
  let c := chassisOf s ch
  if pageDie page ≠ ch || c.scans.any (fun r => r.page == page) || (mget c.scanned page).isSome || !scanWanted s page then s
  else s.setChassis ch { c with scans := c.scans ++ [{ page := page, spoilt := false }] }

/-- PAGE_SCAN_START (R56). -/
def execPageScanStart (ch page : Nat) (s : State) : Host.Outcome State Fault Refusal := .next (startScan s ch page)

/-- The bytes of a page as its scanner reads them at the home, line by line (R56); one that cannot be read gives free bytes (log entry 61). -/
def scanBytes (s : State) (page : Nat) : List Byte × State :=
  (List.range 32).foldl (fun (r : List Byte × State) i =>
    match tryRead r.2 plainAttr (page * 4096 + 128 * i) 128 with
    | (.ok bs, s) => (r.1 ++ bs, s)
    | (.error _, s) => let (bs, s) := takeFreeBytes s 128; (r.1 ++ bs, s)) ([], s)

/-- The words of some bytes. -/
def wordsIn (bs : List Byte) : List Nat := (List.range (bs.length / 4)).map fun i => leNat ((bs.drop (4 * i)).take 4)

/-- The result of a scan. -/
def scanResult (bs : List Byte) : Scan :=
  match scanFrom 0 [] (wordsIn bs) with
  | .ok ls => .accepted ls
  | .error o => .rejected o

/-- The scanned-page store of 4,096 entries with one more (R56); which one makes room is the model's choice (log entry 8). -/
def addScan (m : SMap Scan) (page : Nat) (r : Scan) : SMap Scan :=
  mset (if 4096 ≤ m.length && (mget m page).isNone then m.drop 1 else m) page r

/-- PAGE_SCAN_DONE (R56, R58): a scan that no write has spoilt gives its page an entry. -/
def endScan (s : State) (ch page : Nat) : State :=
  let c := chassisOf s ch
  match c.scans.find? fun r => r.page == page with
  | none => s
  | some r =>
    let c := { c with scans := c.scans.erase r }
    let s := s.setChassis ch c
    if r.spoilt then s else
    let (bs, s) := scanBytes s page
    let c := chassisOf s ch
    s.setChassis ch { c with scanned := addScan c.scanned page (scanResult bs) }

/-- PAGE_SCAN_DONE (R56). -/
def execPageScanDone (ch page : Nat) (s : State) : Host.Outcome State Fault Refusal :=
  .next (during (.turn (.event (.pageScanDone ch page))) .clean (endScan · ch page) s)

/-! ## FETCH_FAULT (R409) -/

/-- FETCH_FAULT (R409). -/
def execFetchFault (r : SlotRef) (s : State) : Host.Outcome State Fault Refusal := .next (fetchFaultStep s r)

end Sys2Proof.Machine
end

