-- ==== Sys2Proof/Machine/Dispatch.lean ====
section
/-! DEFINITION. Which meaning each instruction has: one arm per constructor, each one call. -/

namespace Sys2Proof.Machine

def exec (i : Instr) (s : State) : Host.Outcome State Fault Refusal :=
  match i with
  | .nop => Sys2Proof.Machine.execNop s
  | .mode m v => Sys2Proof.Machine.execMode m v s
  | .rep c d a b s1 => Sys2Proof.Machine.execRep c d a b s1 s
  | .wait l s1 c t => Sys2Proof.Machine.execWait l s1 c t s
  | .waitc a => Sys2Proof.Machine.execWaitc a s
  | .waitg m => Sys2Proof.Machine.execWaitg m s
  | .brv i1 p o => Sys2Proof.Machine.execBrv i1 p o s
  | .bru i1 p o => Sys2Proof.Machine.execBru i1 p o s
  | .bnz d i1 => Sys2Proof.Machine.execBnz d i1 s
  | .bz d i1 => Sys2Proof.Machine.execBz d i1 s
  | .jmp o => Sys2Proof.Machine.execJmp o s
  | .jal o => Sys2Proof.Machine.execJal o s
  | .jr a => Sys2Proof.Machine.execJr a s
  | .jrv a b => Sys2Proof.Machine.execJrv a b s
  | .exit => Sys2Proof.Machine.execExit s
  | .yield => Sys2Proof.Machine.execYield s
  | .sleep n => Sys2Proof.Machine.execSleep n s
  | .bar n => Sys2Proof.Machine.execBar n s
  | .spawn d a => Sys2Proof.Machine.execSpawn d a s
  | .syscall n => Sys2Proof.Machine.execSyscall n s
  | .hvcall n => Sys2Proof.Machine.execHvcall n s
  | .tret a b => Sys2Proof.Machine.execTret a b s
  | .breakOp n => Sys2Proof.Machine.execBreakOp n s
  | .xrd d r => Sys2Proof.Machine.execXrd d r s
  | .xwr d r => Sys2Proof.Machine.execXwr d r s
  | .scopew a n => Sys2Proof.Machine.execScopew a n s
  | .tlbinv d a k => Sys2Proof.Machine.execTlbinv d a k s
  | .time d c => Sys2Proof.Machine.execTime d c s
  | .wid d f => Sys2Proof.Machine.execWid d f s
  | .lid d f => Sys2Proof.Machine.execLid d f s
  | .sadd d a b => Sys2Proof.Machine.execSadd d a b s
  | .ssub d a b => Sys2Proof.Machine.execSsub d a b s
  | .smul d a b => Sys2Proof.Machine.execSmul d a b s
  | .smulh d a b => Sys2Proof.Machine.execSmulh d a b s
  | .smulhu d a b => Sys2Proof.Machine.execSmulhu d a b s
  | .sdiv d a b => Sys2Proof.Machine.execSdiv d a b s
  | .sdivu d a b => Sys2Proof.Machine.execSdivu d a b s
  | .srem d a b => Sys2Proof.Machine.execSrem d a b s
  | .sremu d a b => Sys2Proof.Machine.execSremu d a b s
  | .sand d a b => Sys2Proof.Machine.execSand d a b s
  | .sor d a b => Sys2Proof.Machine.execSor d a b s
  | .sxor d a b => Sys2Proof.Machine.execSxor d a b s
  | .sshl d a b => Sys2Proof.Machine.execSshl d a b s
  | .sshr d a b => Sys2Proof.Machine.execSshr d a b s
  | .ssra d a b => Sys2Proof.Machine.execSsra d a b s
  | .smin d a b => Sys2Proof.Machine.execSmin d a b s
  | .smax d a b => Sys2Proof.Machine.execSmax d a b s
  | .sminu d a b => Sys2Proof.Machine.execSminu d a b s
  | .smaxu d a b => Sys2Proof.Machine.execSmaxu d a b s
  | .sslt d a b => Sys2Proof.Machine.execSslt d a b s
  | .ssltu d a b => Sys2Proof.Machine.execSsltu d a b s
  | .sseq d a b => Sys2Proof.Machine.execSseq d a b s
  | .saddi d a i1 => Sys2Proof.Machine.execSaddi d a i1 s
  | .simm d i1 => Sys2Proof.Machine.execSimm d i1 s
  | .slit d lit => Sys2Proof.Machine.execSlit d lit s
  | .slith d a lit => Sys2Proof.Machine.execSlith d a lit s
  | .smov d a => Sys2Proof.Machine.execSmov d a s
  | .sclz d a => Sys2Proof.Machine.execSclz d a s
  | .spopc d a => Sys2Proof.Machine.execSpopc d a s
  | .sbfx d a b => Sys2Proof.Machine.execSbfx d a b s
  | .sbfi d a b => Sys2Proof.Machine.execSbfi d a b s
  | .ssel d a b => Sys2Proof.Machine.execSsel d a b s
  | .vadd d a b => Sys2Proof.Machine.execVadd d a b s
  | .vsub d a b => Sys2Proof.Machine.execVsub d a b s
  | .vmul d a b => Sys2Proof.Machine.execVmul d a b s
  | .vfma d a b => Sys2Proof.Machine.execVfma d a b s
  | .vfnma d a b => Sys2Proof.Machine.execVfnma d a b s
  | .vmin d a b => Sys2Proof.Machine.execVmin d a b s
  | .vmax d a b => Sys2Proof.Machine.execVmax d a b s
  | .vabs d a => Sys2Proof.Machine.execVabs d a s
  | .vneg d a => Sys2Proof.Machine.execVneg d a s
  | .vdiv d a b => Sys2Proof.Machine.execVdiv d a b s
  | .vsqrt d a => Sys2Proof.Machine.execVsqrt d a s
  | .vmulh d a b => Sys2Proof.Machine.execVmulh d a b s
  | .vand d a b => Sys2Proof.Machine.execVand d a b s
  | .vor d a b => Sys2Proof.Machine.execVor d a b s
  | .vxor d a b => Sys2Proof.Machine.execVxor d a b s
  | .vnot d a => Sys2Proof.Machine.execVnot d a s
  | .vshl d a b => Sys2Proof.Machine.execVshl d a b s
  | .vshr d a b => Sys2Proof.Machine.execVshr d a b s
  | .vclz d a => Sys2Proof.Machine.execVclz d a s
  | .vpopc d a => Sys2Proof.Machine.execVpopc d a s
  | .vbfx d a b => Sys2Proof.Machine.execVbfx d a b s
  | .vbfi d a b => Sys2Proof.Machine.execVbfi d a b s
  | .vadds d a b => Sys2Proof.Machine.execVadds d a b s
  | .vmuls d a b => Sys2Proof.Machine.execVmuls d a b s
  | .vfmas d a b => Sys2Proof.Machine.execVfmas d a b s
  | .vimm d i1 => Sys2Proof.Machine.execVimm d i1 s
  | .vlit d lit => Sys2Proof.Machine.execVlit d lit s
  | .vmov d a => Sys2Proof.Machine.execVmov d a s
  | .vfrs d a => Sys2Proof.Machine.execVfrs d a s
  | .vsel d a p => Sys2Proof.Machine.execVsel d a p s
  | .vcmpeq d a b => Sys2Proof.Machine.execVcmpeq d a b s
  | .vcmpne d a b => Sys2Proof.Machine.execVcmpne d a b s
  | .vcmplt d a b => Sys2Proof.Machine.execVcmplt d a b s
  | .vcmple d a b => Sys2Proof.Machine.execVcmple d a b s
  | .vcmpun d a b => Sys2Proof.Machine.execVcmpun d a b s
  | .pand d a b => Sys2Proof.Machine.execPand d a b s
  | .por d a b => Sys2Proof.Machine.execPor d a b s
  | .pxor d a b => Sys2Proof.Machine.execPxor d a b s
  | .pnot d a => Sys2Proof.Machine.execPnot d a s
  | .pfrs d a => Sys2Proof.Machine.execPfrs d a s
  | .vcvt d a t => Sys2Proof.Machine.execVcvt d a t s
  | .vpack d a w k => Sys2Proof.Machine.execVpack d a w k s
  | .vunpk d a w s1 k => Sys2Proof.Machine.execVunpk d a w s1 k s
  | .vsfuRcp d a => Sys2Proof.Machine.execVsfuRcp d a s
  | .vsfuRsq d a => Sys2Proof.Machine.execVsfuRsq d a s
  | .vsfuLg2 d a => Sys2Proof.Machine.execVsfuLg2 d a s
  | .vsfuFexp d a => Sys2Proof.Machine.execVsfuFexp d a s
  | .vsfuSin d a => Sys2Proof.Machine.execVsfuSin d a s
  | .vsfuCos d a => Sys2Proof.Machine.execVsfuCos d a s
  | .vsfuTanh d a => Sys2Proof.Machine.execVsfuTanh d a s
  | .vsfuSigm d a => Sys2Proof.Machine.execVsfuSigm d a s
  | .vrndi d a => Sys2Proof.Machine.execVrndi d a s
  | .vxins d a b => Sys2Proof.Machine.execVxins d a b s
  | .vxext d a => Sys2Proof.Machine.execVxext d a s
  | .voteany d a => Sys2Proof.Machine.execVoteany d a s
  | .voteall d a => Sys2Proof.Machine.execVoteall d a s
  | .vbal d a => Sys2Proof.Machine.execVbal d a s
  | .shfli d a b => Sys2Proof.Machine.execShfli d a b s
  | .shflu d a n => Sys2Proof.Machine.execShflu d a n s
  | .shfld d a n => Sys2Proof.Machine.execShfld d a n s
  | .shflx d a n => Sys2Proof.Machine.execShflx d a n s
  | .vred d a o => Sys2Proof.Machine.execVred d a o s
  | .vscan d a e o => Sys2Proof.Machine.execVscan d a e o s
  | .vmemb a => Sys2Proof.Machine.execVmemb a s
  | .vtos d a l => Sys2Proof.Machine.execVtos d a l s
  | .liadd d a b => Sys2Proof.Machine.execLiadd d a b s
  | .lisub d a b => Sys2Proof.Machine.execLisub d a b s
  | .limul d a b => Sys2Proof.Machine.execLimul d a b s
  | .lidiv d a b => Sys2Proof.Machine.execLidiv d a b s
  | .liclt d a b => Sys2Proof.Machine.execLiclt d a b s
  | .liceq d a b => Sys2Proof.Machine.execLiceq d a b s
  | .lineg d a => Sys2Proof.Machine.execLineg d a s
  | .liabs d a => Sys2Proof.Machine.execLiabs d a s
  | .litof d a t => Sys2Proof.Machine.execLitof d a t s
  | .lifrf d a t => Sys2Proof.Machine.execLifrf d a t s
  | .litoi d a t => Sys2Proof.Machine.execLitoi d a t s
  | .lifri d a t => Sys2Proof.Machine.execLifri d a t s
  | .lilvl d a f => Sys2Proof.Machine.execLilvl d a f s
  | .vld8s d a i1 => Sys2Proof.Machine.execVld8s d a i1 s
  | .vld8z d a i1 => Sys2Proof.Machine.execVld8z d a i1 s
  | .vld16s d a i1 => Sys2Proof.Machine.execVld16s d a i1 s
  | .vld16z d a i1 => Sys2Proof.Machine.execVld16z d a i1 s
  | .vld32 d a i1 => Sys2Proof.Machine.execVld32 d a i1 s
  | .vld64 d a i1 => Sys2Proof.Machine.execVld64 d a i1 s
  | .vld128 d a i1 => Sys2Proof.Machine.execVld128 d a i1 s
  | .vst8 d a i1 => Sys2Proof.Machine.execVst8 d a i1 s
  | .vst16 d a i1 => Sys2Proof.Machine.execVst16 d a i1 s
  | .vst32 d a i1 => Sys2Proof.Machine.execVst32 d a i1 s
  | .vst64 d a i1 => Sys2Proof.Machine.execVst64 d a i1 s
  | .vst128 d a i1 => Sys2Proof.Machine.execVst128 d a i1 s
  | .sld32 d a i1 => Sys2Proof.Machine.execSld32 d a i1 s
  | .sld64 d a i1 => Sys2Proof.Machine.execSld64 d a i1 s
  | .sst32 d a i1 => Sys2Proof.Machine.execSst32 d a i1 s
  | .sst64 d a i1 => Sys2Proof.Machine.execSst64 d a i1 s
  | .ald32 d a i1 => Sys2Proof.Machine.execAld32 d a i1 s
  | .ald128 d a i1 => Sys2Proof.Machine.execAld128 d a i1 s
  | .ast32 d a i1 => Sys2Proof.Machine.execAst32 d a i1 s
  | .ast128 d a i1 => Sys2Proof.Machine.execAst128 d a i1 s
  | .cld64 d a i1 => Sys2Proof.Machine.execCld64 d a i1 s
  | .cst64 d a i1 => Sys2Proof.Machine.execCst64 d a i1 s
  | .vlda d a s1 => Sys2Proof.Machine.execVlda d a s1 s
  | .vstl d a s1 => Sys2Proof.Machine.execVstl d a s1 s
  | .fence s1 => Sys2Proof.Machine.execFence s1 s
  | .vatom d a b lit => Sys2Proof.Machine.execVatom d a b lit s
  | .satom d a b lit => Sys2Proof.Machine.execSatom d a b lit s
  | .vcas d a b lit => Sys2Proof.Machine.execVcas d a b lit s
  | .mred a b lit => Sys2Proof.Machine.execMred a b lit s
  | .mcas d a b lit => Sys2Proof.Machine.execMcas d a b lit s
  | .msax d a b lit => Sys2Proof.Machine.execMsax d a b lit s
  | .mwrm d a b lit => Sys2Proof.Machine.execMwrm d a b lit s
  | .qld q a b lit => Sys2Proof.Machine.execQld q a b lit s
  | .qst q a b lit => Sys2Proof.Machine.execQst q a b lit s
  | .qgat q a b lit => Sys2Proof.Machine.execQgat q a b lit s
  | .qcnt d q => Sys2Proof.Machine.execQcnt d q s
  | .qend => Sys2Proof.Machine.execQend s
  | .copy d a b lit => Sys2Proof.Machine.execCopy d a b lit s
  | .sealCart d => Sys2Proof.Machine.execSealCart d s
  | .rdwp d k => Sys2Proof.Machine.execRdwp d k s
  | .strm d a b lit => Sys2Proof.Machine.execStrm d a b lit s
  | .cflush a b => Sys2Proof.Machine.execCflush a b s
  | .cinv a b => Sys2Proof.Machine.execCinv a b s
  | .chint a h => Sys2Proof.Machine.execChint a h s
  | .fmtl n a i1 => Sys2Proof.Machine.execFmtl n a i1 s
  | .bld n a => Sys2Proof.Machine.execBld n a s
  | .bgat n a b => Sys2Proof.Machine.execBgat n a b s
  | .tzero m => Sys2Proof.Machine.execTzero m s
  | .tmul n t a b => Sys2Proof.Machine.execTmul n t a b s
  | .tdrain n t a b => Sys2Proof.Machine.execTdrain n t a b s
  | .cred d a b lit => Sys2Proof.Machine.execCred d a b lit s
  | .tstat d s1 => Sys2Proof.Machine.execTstat d s1 s
  | .powerGood => Sys2Proof.Machine.execPowerGood s
  | .moduleReset => Sys2Proof.Machine.execModuleReset s
  | .fwLoad v => Sys2Proof.Machine.execFwLoad v s
  | .imageCheckDone memok => Sys2Proof.Machine.execImageCheckDone memok s
  | .stageS2Entry ringOk peers => Sys2Proof.Machine.execStageS2Entry ringOk peers s
  | .bootstageGo => Sys2Proof.Machine.execBootstageGo s
  | .vfFlr n => Sys2Proof.Machine.execVfFlr n s
  | .hostBar2Write func off bytes ecc => Sys2Proof.Machine.execHostBar2Write func off bytes ecc s
  | .hostBar2Read func off n ecc => Sys2Proof.Machine.execHostBar2Read func off n ecc s
  | .spdmRequest => Sys2Proof.Machine.execSpdmRequest s
  | .registerWrite org ch off size v => Sys2Proof.Machine.execRegisterWrite org ch off size v s
  | .fwDoorbellWrite org q => Sys2Proof.Machine.execFwDoorbellWrite org q s
  | .fwSlotMap n q => Sys2Proof.Machine.execFwSlotMap n q s
  | .fwSlotUnmap n => Sys2Proof.Machine.execFwSlotUnmap n s
  | .fwSlotHostown n own => Sys2Proof.Machine.execFwSlotHostown n own s
  | .firmwareRound => Sys2Proof.Machine.execFirmwareRound s
  | .queueSlotRotation => Sys2Proof.Machine.execQueueSlotRotation s
  | .dispatcherTakeBatch ch launch => Sys2Proof.Machine.execDispatcherTakeBatch ch launch s
  | .trainPlace ch launch index => Sys2Proof.Machine.execTrainPlace ch launch index s
  | .gangStart launch => Sys2Proof.Machine.execGangStart launch s
  | .ctxEvict pasid mask => Sys2Proof.Machine.execCtxEvict pasid mask s
  | .ctxRestore pasid mask => Sys2Proof.Machine.execCtxRestore pasid mask s
  | .coachSave r => Sys2Proof.Machine.execCoachSave r s
  | .coachRestore r => Sys2Proof.Machine.execCoachRestore r s
  | .ctxFresumeRetry r => Sys2Proof.Machine.execCtxFresumeRetry r s
  | .ctxFresumeDeliver r => Sys2Proof.Machine.execCtxFresumeDeliver r s
  | .eventStoreFlush ch => Sys2Proof.Machine.execEventStoreFlush ch s
  | .svTeardownWrite pasid => Sys2Proof.Machine.execSvTeardownWrite pasid s
  | .teardownComplete => Sys2Proof.Machine.execTeardownComplete s
  | .svStatusNestWrite r hyp => Sys2Proof.Machine.execSvStatusNestWrite r hyp s
  | .parkRequest ch => Sys2Proof.Machine.execParkRequest ch s
  | .unparkRequest ch => Sys2Proof.Machine.execUnparkRequest ch s
  | .parkEntryStart ch => Sys2Proof.Machine.execParkEntryStart ch s
  | .parkCutOver ch => Sys2Proof.Machine.execParkCutOver ch s
  | .parkExitComplete ch => Sys2Proof.Machine.execParkExitComplete ch s
  | .pscapWrite cap => Sys2Proof.Machine.execPscapWrite cap s
  | .powerEpoch watts => Sys2Proof.Machine.execPowerEpoch watts s
  | .psStepComplete ch => Sys2Proof.Machine.execPsStepComplete ch s
  | .tokenRequest r => Sys2Proof.Machine.execTokenRequest r s
  | .tokenGrant ch => Sys2Proof.Machine.execTokenGrant ch s
  | .thermalSample ch readings => Sys2Proof.Machine.execThermalSample ch readings s
  | .throttleChange ch => Sys2Proof.Machine.execThrottleChange ch s
  | .holdChange ch => Sys2Proof.Machine.execHoldChange ch s
  | .bankRefresh ch bus chan bank => Sys2Proof.Machine.execBankRefresh ch bus chan bank s
  | .gainCellRefreshSteal ch => Sys2Proof.Machine.execGainCellRefreshSteal ch s
  | .testerStart ch bus => Sys2Proof.Machine.execTesterStart ch bus s
  | .testerYield ch bus => Sys2Proof.Machine.execTesterYield ch bus s
  | .groupTestDone ch bus errs => Sys2Proof.Machine.execGroupTestDone ch bus errs s
  | .repairComplete ch bus => Sys2Proof.Machine.execRepairComplete ch bus s
  | .bankOperation r ecc => Sys2Proof.Machine.execBankOperation r ecc s
  | .commandReply r => Sys2Proof.Machine.execCommandReply r s
  | .loadReturn r ecc => Sys2Proof.Machine.execLoadReturn r ecc s
  | .storePerformed r ecc => Sys2Proof.Machine.execStorePerformed r ecc s
  | .cacheFillReturn ch pa l1 ecc => Sys2Proof.Machine.execCacheFillReturn ch pa l1 ecc s
  | .l1OwnershipGrant ch core pa ecc => Sys2Proof.Machine.execL1OwnershipGrant ch core pa ecc s
  | .ownershipRecall pa => Sys2Proof.Machine.execOwnershipRecall pa s
  | .atomicExecute r ecc => Sys2Proof.Machine.execAtomicExecute r ecc s
  | .translationWalk ch => Sys2Proof.Machine.execTranslationWalk ch s
  | .tableReadReturn ch walk ecc => Sys2Proof.Machine.execTableReadReturn ch walk ecc s
  | .tlbinvArrive r ch => Sys2Proof.Machine.execTlbinvArrive r ch s
  | .tlbinvComplete r => Sys2Proof.Machine.execTlbinvComplete r s
  | .scopewComplete r => Sys2Proof.Machine.execScopewComplete r s
  | .pageScanStart ch page => Sys2Proof.Machine.execPageScanStart ch page s
  | .pageScanDone ch page => Sys2Proof.Machine.execPageScanDone ch page s
  | .copyAccept copy => Sys2Proof.Machine.execCopyAccept copy s
  | .copyStart copy => Sys2Proof.Machine.execCopyStart copy s
  | .streamWindowGrant copy => Sys2Proof.Machine.execStreamWindowGrant copy s
  | .copyPieceWrite copy piece rd wr => Sys2Proof.Machine.execCopyPieceWrite copy piece rd wr s
  | .streamPacketReceive pkt ecc => Sys2Proof.Machine.execStreamPacketReceive pkt ecc s
  | .streamCredit pkt => Sys2Proof.Machine.execStreamCredit pkt s
  | .streamErrorReport pkt => Sys2Proof.Machine.execStreamErrorReport pkt s
  | .streamCloseDone strm => Sys2Proof.Machine.execStreamCloseDone strm s
  | .ringPacketArrive pkt => Sys2Proof.Machine.execRingPacketArrive pkt s
  | .flitReplay ch port => Sys2Proof.Machine.execFlitReplay ch port s
  | .linkRetrainStart ch port => Sys2Proof.Machine.execLinkRetrainStart ch port s
  | .linkRetrainComplete ch port => Sys2Proof.Machine.execLinkRetrainComplete ch port s
  | .hopDown ch => Sys2Proof.Machine.execHopDown ch s
  | .routeSwitchComplete => Sys2Proof.Machine.execRouteSwitchComplete s
  | .peerRequestArrive p pa write bytes ecc => Sys2Proof.Machine.execPeerRequestArrive p pa write bytes ecc s
  | .peerLinkDown p => Sys2Proof.Machine.execPeerLinkDown p s
  | .peerPortRetry p trained => Sys2Proof.Machine.execPeerPortRetry p trained s
  | .reductionPacket pkt => Sys2Proof.Machine.execReductionPacket pkt s
  | .reductionResult red who => Sys2Proof.Machine.execReductionResult red who s
  | .carriageDemote r => Sys2Proof.Machine.execCarriageDemote r s
  | .yieldExpire r => Sys2Proof.Machine.execYieldExpire r s
  | .sleepWake r => Sys2Proof.Machine.execSleepWake r s
  | .waitConditionMet r => Sys2Proof.Machine.execWaitConditionMet r s
  | .waitcConditionMet r => Sys2Proof.Machine.execWaitcConditionMet r s
  | .waitgConditionMet r => Sys2Proof.Machine.execWaitgConditionMet r s
  | .fenceConditionMet r => Sys2Proof.Machine.execFenceConditionMet r s
  | .exitWaitEnd r => Sys2Proof.Machine.execExitWaitEnd r s
  | .barrierDepart train n => Sys2Proof.Machine.execBarrierDepart train n s
  | .queueElementFill r ecc => Sys2Proof.Machine.execQueueElementFill r ecc s
  | .queueEntryDrain r ecc => Sys2Proof.Machine.execQueueEntryDrain r ecc s
  | .outriderEnd r => Sys2Proof.Machine.execOutriderEnd r s
  | .bayTimerExpire ch core bay => Sys2Proof.Machine.execBayTimerExpire ch core bay s
  | .yardCoachForm ch core bay part => Sys2Proof.Machine.execYardCoachForm ch core bay part s
  | .matrixInstructionStart ch core => Sys2Proof.Machine.execMatrixInstructionStart ch core s
  | .matrixInstructionEnd ch core => Sys2Proof.Machine.execMatrixInstructionEnd ch core s
  | .fetchFault r => Sys2Proof.Machine.execFetchFault r s
  | .completionTimeout r => Sys2Proof.Machine.execCompletionTimeout r s

end Sys2Proof.Machine
end

