-- ==== Sys2Proof/Machine/Unit.lean ====
section
/-! DEFINITION. The bank-side units' ports and queues (03 R72 to R74): arrival, admission by round-robin, and the write-back of corrected
data (R70). What its bank can take at once executes without standing in a queue (log entry 61). -/

namespace Sys2Proof.Machine

/-- Whether performing an access now reaches the cells (R72): a load that the core's L1 may keep takes its whole sector (R95). -/
def needsUnit (s : State) (x : Site1) : Bool :=
  let owned := l1Owns s x.c.gcore (lineOf x.p.addr)
  x.p.space == .mem && (match x.o.kind with
    | .load => !servedHere s x && (if usesL1 x then needsCells s (x.p.addr / 32 * 32) 32 else needsCells s x.p.addr x.p.size)
    | .store => !owned && writeToCells s x.p.addr x.p.attr
    | .atomic _ _ => x.p.site == .bank || (!owned && needsCells s x.p.addr x.p.size)
    | .cmd _ => true
    | _ => false)

/-- Whether an access, or one of its instruction to the same sector, stands at its unit already. -/
def standsAt (s : State) (r : OpRef) (p : Piece) : Bool :=
  (arrivalsAt s p.addr ++ queueAt s p.addr).any fun e => e.wa / 32 == p.addr / 32 && e.who.same (.access r 0)

/-- Whether an earlier command of the coach to the sector has not arrived (R76). -/
def commandBefore (s : State) (r : OpRef) (x : Site1) : Bool :=
  x.c.ops.any fun q => q.stamp < x.o.stamp && q.kind.isCmd
    && (q.pieces.any fun p => p.waits && p.sameSector x.p) && !standsAt s { r with op := q.id } x.p

/-- An access arrives at the unit of its sector and waits at its port (R73). -/
def arriveStep (s : State) (r : OpRef) : State :=
  match accessOf s r with
  | none => s
  | some x =>
    if !x.p.waits || !needsUnit s x || standsAt s r x.p || reachOf s x.c x.p != .now
        || (if x.o.kind.isCmd then commandBefore s r x else !inOrder s x) then s
    else waitAt s (.access r x.o.stamp) x.p.addr

/-- The operation that a unit admits next (R73): the oldest at the first port, behind the one served last, that has one for a bank whose
queue of 64 entries has room. -/
def nextAdmitted (s : State) (b : Bus) : Option BankEntry :=
  ((List.range 18).map fun i => (b.served + 1 + i) % 18).findSome? fun p =>
    b.arrivals.find? fun e => e.live s && e.port == p && (queueAt s e.wa).length < 64

/-- A unit admits an operation (R73). -/
def admitStep (s : State) (d bus : Nat) : State :=
  let c := chassisOf s d
  let b := busOf c bus
  match nextAdmitted s b with
  | none => s
  | some e =>
    let k := (homeAt e.wa).bank
    let b := { b with arrivals := b.arrivals.erase e, served := e.port, queues := mset b.queues k (queueAt s e.wa ++ [e]) }
    s.setChassis d { c with buses := mset c.buses bus b }

/-- The write-back of corrected data at the head of a bank's queue executes (R70): the sector is correct again; one that finds its bus
unavailable is logged (R71, R85). -/
def correctStep (s : State) (wa : Nat) : State :=
  let h := homeAt wa
  let c := chassisOf s h.d
  let b := busOf c h.col
  match queueAt s wa with
  | [] => s
  | e :: es =>
    if e.who != .corrected || b.state = 1 || b.state = 2 || refreshing s b h.bank then s else
    let s := s.setChassis h.d { c with buses := mset c.buses h.col { b with queues := mset b.queues h.bank es, lastOp := c.clk } }
    if b.state = 3 then logError s e.wa 5 else mend s e.wa

end Sys2Proof.Machine
end

