-- ==== Sys2Proof/Machine/Run.lean ====
section
/-! DEFINITION. One turn of the machine (log entry 3): an issue, an event, a clock, what a bank-side unit does, or what comes from outside; `ex` gives the meaning of an instruction. -/

namespace Sys2Proof.Machine

/-- The meaning of each instruction, as `exec` gives it. -/
abbrev Meaning := Instr → State → Host.Outcome State Fault Refusal

/-- Go on from a next state. -/
def andThen (o : Host.Outcome State Fault Refusal) (f : State → State) : Host.Outcome State Fault Refusal :=
  match o with
  | .next s => .next (f s)
  | .fault e => .fault e
  | .refused r => .refused r

/-- A turn of a carriage. -/
def turnCarriage (ex : Meaning) (r : SlotRef) (s : State) : Host.Outcome State Fault Refusal :=
  match prepareIssue s r with
  | .done s' => .next s'
  | .fault s' => .next (fetchFaultStep s' r)
  | .run i s' => andThen (ex i s') (endIssue s r)

/-- A turn of an outrider context. -/
def turnOutrider (ex : Meaning) (r : CoachRef) (s : State) : Host.Outcome State Fault Refusal :=
  match prepareOutrider s r with
  | .done s' => .next s'
  | .fault s' => .next s'
  | .run i s' => andThen (ex i s') fun t => { t with cur := none }

/-- A turn. -/
def runTurn (ex : Meaning) (t : Turn) (s : State) : Host.Outcome State Fault Refusal :=
  match t with
  | .issue r => turnCarriage ex r s
  | .outrider r => turnOutrider ex r s
  | .event i => ex i s
  | .tick => .next (tick s)
  | .flaw wa ecc => .next (strike s wa ecc)
  | .arrive r => .next (arriveStep s r)
  | .enqueue ch bus => .next (admitStep s (ch % 16) (bus % 16))
  | .correct wa => .next (correctStep s wa)
  | .resize n => .next (resizeBar2 s n)
  | .bar0Read func off n => .next (bar0Read s func off n)
  | .peerSums p tag part e sums => .next (peerSums s p tag part e sums)

end Sys2Proof.Machine
end

