-- ==== Sys2Proof/Machine/Schedule.lean ====
section
/-! DEFINITION. What happens next when no turn is named (log entry 3): the model tries the steps that the module takes by itself, in one
fixed order, and takes the first that changes the state; then the carriages, by the order of 18 R402 and 08 R188; and when none of them
does anything, each outrider context takes a turn and a clock passes. Steps whose outcome the surroundings choose take a clean outcome. -/

namespace Sys2Proof.Machine

/-- A step that the module may take. -/
abbrev Candidate := State → Host.Outcome State Fault Refusal

/-- The slots of the coaches. -/
def slotRefs (s : State) : List SlotRef :=
  s.coaches.flatMap fun e => e.2.slots.map fun j => { ch := e.2.ch, handle := e.2.handle, slot := j.1 }

/-- The coaches. -/
def coachRefs (s : State) : List CoachRef := s.coaches.map fun e => { ch := e.2.ch, handle := e.2.handle }

/-- The accesses that are not complete. -/
def opRefs (s : State) : List OpRef :=
  s.coaches.flatMap fun e => e.2.ops.flatMap fun o => (List.range o.pieces.length).filterMap fun i =>
    match o.pieces[i]? with
    | some p => if p.phase < 2 then some { ch := e.2.ch, handle := e.2.handle, op := o.id, piece := i } else none
    | none => none

/-- The operations that are not complete, each by its first access. -/
def wholeRefs (s : State) : List OpRef :=
  s.coaches.flatMap fun e => e.2.ops.map fun o => { ch := e.2.ch, handle := e.2.handle, op := o.id, piece := 0 }

/-- The line that an access waits for: the address of its byte, for a fill or a grant of ownership. -/
def lineRefs (s : State) : List (Nat × Nat × Nat) :=
  s.coaches.flatMap fun e => e.2.ops.flatMap fun o => o.pieces.filterMap fun p =>
    if p.phase = 0 && p.space == .mem && p.site == .l1 then some (e.2.ch, e.2.core, p.addr) else none

/-- Steps of the carriages. -/
def carriageSteps (s : State) : List Candidate :=
  (slotRefs s).flatMap (fun r => [execWaitConditionMet r, execWaitcConditionMet r, execWaitgConditionMet r, execFenceConditionMet r,
    execExitWaitEnd r, execScopewComplete r, execSleepWake r, execYieldExpire r, execCarriageDemote r, execTokenRequest r])
  ++ s.trains.flatMap (fun t => (List.range 8).map fun n => execBarrierDepart t.id n)
  ++ (coachRefs s).map execOutriderEnd

/-- Steps of translation and of page scans. -/
def translationSteps (s : State) : List Candidate :=
  let wanted := (slotRefs s).filterMap fun r => match coachOf s r.key with
    | some c => (match mget c.slots r.slot with
      | some k => (match fetchOf s c r.slot k with
        | .scan p => some p
        | _ => none)
      | none => none)
    | none => none
  let outr := s.coaches.filterMap fun e => match outriderFetch s e.2 with
    | .scan p => if e.2.outr.live then some p else none
    | _ => none
  dies.flatMap (fun d => execTranslationWalk d :: (chassisOf s d).walks.map fun w => execTableReadReturn d w.id .clean)
  ++ (wanted ++ outr).eraseDups.map (fun p => execPageScanStart (homeAt (p * 4096)).d p)
  ++ dies.flatMap (fun d => (chassisOf s d).scans.map fun r => execPageScanDone d r.page)
  ++ (wholeRefs s).flatMap fun r => dies.map (fun d => execTlbinvArrive r d) ++ [execTlbinvComplete r]

/-- Steps of outstanding accesses. -/
def memorySteps (s : State) : List Candidate :=
  (lineRefs s).map (fun x => execL1OwnershipGrant x.1 x.2.1 x.2.2 .clean)
  ++ (opRefs s).flatMap fun r => [execLoadReturn r .clean, execAtomicExecute r .clean, execStorePerformed r .clean, execBankOperation r .clean,
    execCommandReply r, execQueueElementFill r .clean, execQueueEntryDrain r .clean]

/-- The step that what stands at the head of a bank's queue takes: an access is tried among the steps of the accesses. -/
def headStep (e : BankEntry) : Option Candidate :=
  match e.who with
  | .access _ _ => none
  | .corrected => some fun s => .next (correctStep s e.wa)
  | .turn t => some (runTurn exec t)
  | .events l => some fun s => .next (payOwed s l)

/-- Steps of the bank-side units: admission, what stands at the head of a bank's queue, the write-back of corrected data, and the end of tests and repairs (R70, R73, R82, R83). -/
def busSteps (s : State) : List Candidate :=
  dies.flatMap fun d => (chassisOf s d).buses.flatMap fun b =>
    [(fun s => .next (admitStep s d b.1)), execGroupTestDone d b.1 0, execRepairComplete d b.1]
      ++ b.2.queues.filterMap fun q => (q.2.find? (BankEntry.live s)).bind headStep

/-- Steps of copies, packets and reductions. -/
def copySteps (s : State) : List Candidate :=
  s.copies.flatMap (fun y => [execCopyAccept y.id, execCopyStart y.id, execStreamWindowGrant y.id] ++
    (match y.dst with
    | .stream z => (s.streams.filter fun w => w.id == z).map fun w => execCopyPieceWrite y.id (w.sent - y.skip) .clean .clean
    | _ => [execCopyPieceWrite y.id y.front .clean .clean]))
  ++ s.packets.flatMap (fun p => [execRingPacketArrive p.id, execStreamPacketReceive p.id .clean, execStreamCredit p.id,
    execStreamErrorReport p.id, execReductionPacket p.id])
  ++ s.streams.map (fun z => execStreamCloseDone z.id)
  ++ s.reductions.flatMap fun r => (List.range r.contribs.length).map fun i => execReductionResult r.id i

/-- Steps of the matrix units and of the power and thermal units. -/
def unitSteps (s : State) : List Candidate :=
  dies.flatMap (fun d => (chassisOf s d).cores.flatMap fun k => [execMatrixInstructionStart d k.1, execMatrixInstructionEnd d k.1])
  ++ dies.flatMap (fun d => [execTokenGrant d, execPsStepComplete d, execThrottleChange d, execHoldChange d, execParkEntryStart d,
    execParkCutOver d, execParkExitComplete d, execEventStoreFlush d])
  ++ [execPowerEpoch [], execRouteSwitchComplete, execTeardownComplete]

/-- Steps of the firmware core and the dispatchers. -/
def dispatchSteps (s : State) : List Candidate :=
  (coachRefs s).flatMap (fun r => [execCoachSave r, execCoachRestore r])
  ++ s.launches.flatMap (fun l => execGangStart l.id :: dies.flatMap fun d =>
    execDispatcherTakeBatch d l.id :: (l.held.filter fun h => h.2 == d).map fun h => execTrainPlace d l.id h.1)
  ++ dies.flatMap (fun d => (chassisOf s d).cores.flatMap fun k => k.2.bays.flatMap fun b =>
    execBayTimerExpire d k.1 b.1 :: (List.range 16).map fun p => execYardCoachForm d k.1 b.1 p)
  ++ [execFirmwareRound, execQueueSlotRotation]

/-- Turns of the carriages; `prepareIssue` lets only the one issue that R188 and R402 choose. -/
def issueSteps (s : State) : List Candidate := (slotRefs s).map (turnCarriage exec)

/-- Each live outrider context takes a turn. -/
def outriderTurns (s : State) : State :=
  (s.coaches.filter fun e => e.2.outr.live).foldl (fun s e =>
    match turnOutrider exec { ch := e.2.ch, handle := e.2.handle } s with
    | .next t => t
    | _ => s) s

/-- The first step that changes the state. -/
def firstChange (s : State) : List Candidate → Option State
  | [] => none
  | f :: fs =>
    match f s with
    | .next t => if t = s then firstChange s fs else some t
    | _ => firstChange s fs

/-- What the module does when no turn is named: a step of its own, or a carriage's turn, that changes something; otherwise the outrider
contexts take a turn each and a clock passes. -/
def byItself (s : State) : State :=
  match firstChange s (carriageSteps s ++ translationSteps s ++ memorySteps s ++ busSteps s ++ copySteps s ++ unitSteps s ++ dispatchSteps s
      ++ issueSteps s) with
  | some t => t
  | none => tick (outriderTurns s)

end Sys2Proof.Machine
end

