-- ==== Sys2Proof/Machine/Step.lean ====
section
/-! DEFINITION. The step of the machine, and the state in which its next step runs a given instruction. -/

namespace Sys2Proof.Machine

/-- Whether the next turn is a module reset, which alone recovers a module that the thermal stop has switched off (20 R427). -/
def resets (s : State) : Bool := s.agenda.head? == some (.event .moduleReset)

/-- One step: the next turn of the agenda, or what the module does by itself (log entry 3). -/
def step (s : State) : Host.Outcome State Fault Refusal :=
  if !s.powered && !resets s then .fault .thermalStop
  else
    match s.agenda with
    | t :: ts => runTurn exec t { s with agenda := ts }
    | [] => .next (byItself s)

/-- The page at which `withFetchWord` places an instruction, virtual and physical. -/
def slicePage : Nat := 0x1000

/-- The coach that fetches it: at U on d0, core 0, with one lane. -/
def sliceCoach : Coach :=
  { ch := 0, handle := 0, core := 0, part := 0, place := 0, train := 0, exited := 0xFFFFFFFE
    slots := [(0, { pc := BitVec.ofNat 64 slicePage, lanes := 1 })] }

/-- The translation and the scan of its page. -/
def sliceChassis (w : Nat) : Chassis :=
  let leaf : Leaf := { r := true, w := false, x := true, u := true, d := true, level := 0 }
  let e : TlbEntry := { ctx := { vmid := 0, pasid := 0, hyp := false }, va := slicePage, size := 4096, pa := slicePage, s1 := leaf }
  { scanned := [(1, .accepted (if wordLength (w % 2 ^ 32) = 8 then [1] else []))], cores := [(0, { tlb := [e] })] }

/-- The bytes of the instruction; behind a REP stands a word that it may repeat, `sadd s0, s0, s0`. -/
def sliceBytes (nbits w : Nat) : List Byte :=
  match decodeTableWord nbits w with
  | some (.rep _ _ _ _ _) => leBytes 4 w ++ leBytes 4 0x20000000
  | _ => leBytes 8 w

/-- Tokens granted for the draw of a matrix instruction. -/
def sliceCoachFor (s : State) (nbits w : Nat) : Coach :=
  match decodeTableWord nbits w, mget sliceCoach.slots 0 with
  | some i, some k =>
    let n := drawOf s sliceCoach k i
    if n = 0 then sliceCoach else { sliceCoach with granted := [(0, n)] }
  | _, _ => sliceCoach

/-- A state with an instruction placed where the next step fetches it (log entry 13): a coach on d0 whose one carriage stands at it, with
the stage, the page and the turn that its issue takes. -/
def State.withFetchWord (s : State) (nbits w : Nat) : State :=
  let s' := { s with
    powered := true, stage := 3, duty := 8, dram := cwrite s.dram slicePage (sliceBytes nbits w), chassis := mset s.chassis 0 (sliceChassis w) }
  { s' with
    coaches := mset s.coaches 0 (sliceCoachFor s' nbits w), agenda := .issue { ch := 0, handle := 0, slot := 0 } :: s.agenda }

end Sys2Proof.Machine
end

