-- ==== Sys2Proof/Safety.lean ====
section
/-! DEFINITION. What counts as a safe state: the invariants that the statements use. -/

namespace Sys2Proof.Machine

/-- Every byte store of a core is in canonical form. -/
def Core.wf (k : Core) : Bool := cellsWf k.aBuf && cellsWf k.wBuf && cellsWf k.cBuf && cellsWf k.cells

/-- Every byte store of a chassis is in canonical form. -/
def Chassis.wf (c : Chassis) : Bool := c.cores.all fun e => e.2.wf

/-- Memory.wf: the DRAM and every typed buffer hold their addresses strictly rising, and no entry that an unlisted address would read. -/
def Memory.wf (s : State) : Bool := cellsWf s.dram && s.chassis.all fun e => e.2.wf

/-- The machine has not stopped. -/
def Running (s : State) : Prop := s.powered = true

end Sys2Proof.Machine
end

