-- ==== Sys2Proof/Certificates/Slice0/Rules.lean ====
section
/-! DEFINITION. What the statements say of instructions and coaches: tables of the spec's rules, written from its text in the arithmetic of
integers and apart from the meanings, and words for what a coach holds. -/

namespace Sys2Proof.Rules

open Sys2Proof.Machine

/-! ## Scalar instructions (11 R266 to R271) -/

/-- An integer as a 64-bit register: r[63:0]. -/
def low64 (n : Int) : W64 := BitVec.ofInt 64 n

/-- What 11 R266 to R271 give a scalar instruction: its destination, its length in bytes, and its result from the registers read at
issue. Signed values are `toInt`, unsigned ones `toNat`. -/
def scalarRule : Instr → Option (BitVec 8 × Nat × ((Nat → W64) → W64))
  | .sadd d a b => some (d, 4, fun r => low64 ((r a.toNat).toNat + (r b.toNat).toNat))
  | .ssub d a b => some (d, 4, fun r => low64 ((r a.toNat).toNat - (r b.toNat).toNat))
  | .smul d a b => some (d, 4, fun r => low64 ((r a.toNat).toNat * (r b.toNat).toNat))
  | .smulh d a b => some (d, 4, fun r => low64 ((r a.toNat).toInt * (r b.toNat).toInt / 2 ^ 64))
  | .smulhu d a b => some (d, 4, fun r => low64 ((r a.toNat).toNat * (r b.toNat).toNat / 2 ^ 64))
  | .sdiv d a b => some (d, 4, fun r =>
      if (r b.toNat).toNat = 0 then low64 (2 ^ 64 - 1) else low64 ((r a.toNat).toInt.tdiv (r b.toNat).toInt))
  | .sdivu d a b => some (d, 4, fun r =>
      if (r b.toNat).toNat = 0 then low64 (2 ^ 64 - 1) else low64 ((r a.toNat).toNat / (r b.toNat).toNat))
  | .srem d a b => some (d, 4, fun r =>
      if (r b.toNat).toNat = 0 then r a.toNat else low64 ((r a.toNat).toInt.tmod (r b.toNat).toInt))
  | .sremu d a b => some (d, 4, fun r =>
      if (r b.toNat).toNat = 0 then r a.toNat else low64 ((r a.toNat).toNat % (r b.toNat).toNat))
  | .sand d a b => some (d, 4, fun r => low64 (Nat.land (r a.toNat).toNat (r b.toNat).toNat))
  | .sor d a b => some (d, 4, fun r => low64 (Nat.lor (r a.toNat).toNat (r b.toNat).toNat))
  | .sxor d a b => some (d, 4, fun r => low64 (Nat.xor (r a.toNat).toNat (r b.toNat).toNat))
  | .sshl d a b => some (d, 4, fun r => low64 ((r a.toNat).toNat * 2 ^ ((r b.toNat).toNat % 64)))
  | .sshr d a b => some (d, 4, fun r => low64 ((r a.toNat).toNat / 2 ^ ((r b.toNat).toNat % 64)))
  | .ssra d a b => some (d, 4, fun r => low64 ((r a.toNat).toInt / 2 ^ ((r b.toNat).toNat % 64)))
  | .smin d a b => some (d, 4, fun r => low64 (min (r a.toNat).toInt (r b.toNat).toInt))
  | .smax d a b => some (d, 4, fun r => low64 (max (r a.toNat).toInt (r b.toNat).toInt))
  | .sminu d a b => some (d, 4, fun r => low64 (min (r a.toNat).toNat (r b.toNat).toNat))
  | .smaxu d a b => some (d, 4, fun r => low64 (max (r a.toNat).toNat (r b.toNat).toNat))
  | .sslt d a b => some (d, 4, fun r => if (r a.toNat).toInt < (r b.toNat).toInt then 1 else 0)
  | .ssltu d a b => some (d, 4, fun r => if (r a.toNat).toNat < (r b.toNat).toNat then 1 else 0)
  | .sseq d a b => some (d, 4, fun r => if (r a.toNat).toNat = (r b.toNat).toNat then 1 else 0)
  | .saddi d a i => some (d, 4, fun r => low64 ((r a.toNat).toNat + i.toInt))
  | .simm d i => some (d, 4, fun _ => low64 i.toInt)
  | .slit d lit => some (d, 8, fun _ => low64 lit.toInt)
  | .slith d a lit => some (d, 8, fun r => low64 ((2 ^ 32 * lit.toNat + (r a.toNat).toNat % 2 ^ 32 : Nat) : Int))
  | .smov d a => some (d, 4, fun r => r a.toNat)
  | .sclz d a => some (d, 4, fun r =>
      if (r a.toNat).toNat = 0 then 64 else low64 (63 - Nat.log2 (r a.toNat).toNat))
  | .spopc d a => some (d, 4, fun r => low64 ((List.range 64).countP fun n => (r a.toNat).getLsbD n))
  | .sbfx d a b => some (d, 4, fun r =>
      let y := r b.toNat
      let pos := y.toNat % 64
      let wd := min (y.toNat / 2 ^ 8 % 2 ^ 7) 64
      let f : Nat := (r a.toNat).toNat / 2 ^ pos % 2 ^ wd
      if y.getLsbD 16 ∧ 0 < wd ∧ 2 ^ (wd - 1) ≤ f then low64 ((f : Int) - 2 ^ wd) else low64 f)
  | .sbfi d a b => some (d, 4, fun r =>
      let y := r b.toNat
      let pos := y.toNat % 64
      let wd := min (y.toNat / 2 ^ 8 % 2 ^ 7) 64
      let m := (BitVec.ofNat 64 (2 ^ wd - 1)) <<< pos
      (r d.toNat &&& ~~~m) ||| ((r a.toNat <<< pos) &&& m))
  | .ssel d a b => some (d, 4, fun r => if (r d.toNat).toNat = 0 then r b.toNat else r a.toNat)
  | _ => none

/-- Whether a resolved scalar register is one that an instruction can name: the index of a banked one lies below 16. -/
def named : SDst → Prop
  | .k _ i => i < 16
  | _ => True

/-- A coach as a scalar result leaves it, before its carriage goes on: scalar register `d` of the carriage holds `v`, and nothing else has
changed (s0 discards the write, 10 R242). -/
def scalarWritten (c : Coach) (k : Carriage) (d : Nat) (v : W64) (w : Coach) : Prop :=
  w = { c with s := w.s, k := w.k }
    ∧ (∀ n, n < 256 → readS w k n = if n = d ∧ n ≠ 0 then v else readS c k n)
    ∧ ∀ t, named t → t ≠ sTarget k d → readSD w t = readSD c t

/-- The same of an outrider context: its register `d`, where that is one of s1 to s63. -/
def outriderWritten (o : Outrider) (d : Nat) (v : W64) (p : Outrider) : Prop :=
  p = { o with s := p.s } ∧ ∀ n, n < 256 → rget p.s n = if n = d ∧ n ≠ 0 ∧ n < 64 then v else rget o.s n

/-! ## Coaches -/

/-- The pc behind an instruction of `len` bytes. -/
def behind (pc : W64) (len : Nat) : W64 := low64 (pc.toNat + len)

/-- The target of a branch (10 R239): the address of the branch plus four times the signed offset, wrapped to 64 bits. -/
def target (pc : W64) {n : Nat} (off : BitVec n) : W64 := low64 (pc.toNat + 4 * off.toInt)

/-- Where a carriage stands after an instruction of `len` bytes that does not branch, or after one repeat of a REP (10 R252): while
repeats remain, at the same word with the next index; then behind it, with no repeat in progress. -/
def afterInstr (k : Carriage) (len : Nat) : W64 × Option Rep :=
  match k.rep with
  | some r => if r.index < r.count then (k.pc, some { r with index := r.index + 1 }) else (behind k.pc len, none)
  | none => (behind k.pc len, none)

/-- Where a lane stands: the pc, level and repeat state of the carriage or siding entry that holds it (08 R187, R190). -/
def laneAt (c : Coach) (l : Nat) : Option (W64 × Level × Option Rep) :=
  match c.slots.find? fun e => e.2.lanes.getLsbD l with
  | some e => some (e.2.pc, e.2.level, e.2.rep)
  | none => (c.siding.find? fun e => e.lanes.getLsbD l).map fun e => (e.pc, e.level, e.rep)

/-- A coach's slots are listed in order, and no lane is in two carriages or entries (08 R187, R190). -/
def orderly (c : Coach) : Prop :=
  (c.slots.map Prod.fst).Pairwise (· < ·)
    ∧ (c.slots.map (fun e => e.2.lanes) ++ c.siding.map SidingEntry.lanes).Pairwise fun a b => a &&& b = 0

/-- The carriages and entries of a coach have moved, and lanes may have arrived at a barrier with a carriage that they joined (24 R446);
nothing else of it has changed. -/
def onlyMoved (c w : Coach) : Prop := w = { c with slots := w.slots, siding := w.siding, arrived := w.arrived, hold := w.hold }

/-- The lanes of a carriage have gone where `f` says, and every other lane stands where it stood. -/
def movedLanes (c : Coach) (m : Mask) (f : Nat → Option (W64 × Level × Option Rep)) (w : Coach) : Prop :=
  ∀ l, l < 32 → laneAt w l = if m.getLsbD l then f l else laneAt c l

/-- A coach of several in its train has ended (08 R195, R204): its key is free, its train counts one coach less, and every other coach is as it
was. -/
def coachEnds (s t : State) (c : Coach) : Prop :=
  coachOf t c.key = none ∧ (∀ n, n ≠ c.key → coachOf t n = coachOf s n)
    ∧ ∀ u, trainOf s c.train = some u → 1 < u.left → trainOf t c.train = some { u with left := u.left - 1 }

/-- A coach with nothing outstanding for itself or its outrider context, all of whose lanes may exit now (08 R195, R205). -/
def mayEnd (c : Coach) : Prop :=
  c.gone = false ∧ c.yard = false ∧ c.ops = [] ∧ (∀ e ∈ c.ports, e.2.faults = [])
    ∧ (c.outr.live = false ∨ c.outr.ended = true ∨ c.outr.failed ≠ none)

/-- Lanes of a coach take the traps of their pending errors (05 R129, 10 R256): the failed copies that they issued are released, and the count
of a channel context moves to the end of such a copy. -/
def copiesReleased (s u : State) (c : Coach) (bad : List Nat) : Prop :=
  let freed (y : Copy) : Prop := y.phase = 4 ∧ (∃ n, y.issuer = some (c.key, n))
    ∧ ∃ l ∈ bad, l < 32 ∧ y.lanes.getLsbD l = true ∧ ∃ e, mget c.pend l = some e ∧ e.copy ≠ none
  u = { s with copies := u.copies, trains := u.trains }
    ∧ (∀ z, z ∈ u.copies ↔ z ∈ s.copies ∧ ∀ y ∈ s.copies, freed y → z.id ≠ y.id)
    ∧ ∀ y ∈ s.copies, freed y → (∀ z ∈ s.copies, freed z → z.train = y.train → z.chan = y.chan → z = y) →
        ∀ t, trainOf s y.train = some t → ∃ t', trainOf u y.train = some t'
          ∧ ((mget t'.chans y.chan).getD {}).count = y.base + y.total

/-! ## Outrider contexts (08 R205, 11 R265) -/

/-- A scalar register of an outrider context: s1 to s63, any other reads 0 (10 R242). -/
def outriderReg (o : Outrider) (n : Nat) : W64 := if n = 0 ∨ 63 < n then 0 else rget o.s n

/-- An outrider context behind an instruction of `len` bytes, or at the next repeat of it. -/
def outriderMoved (o : Outrider) (len : Nat) : Outrider :=
  match o.rep with
  | some r => if r.index < r.count then { o with rep := some { r with index := r.index + 1 }, wait := false }
    else { o with pc := behind o.pc len, rep := none, wait := false }
  | none => { o with pc := behind o.pc len, wait := false }

/-- What an outrider context runs (11 R265, 14 R329, R330): scalar instructions, NOP, REP, BNZ, BZ, JMP, JAL, JR, TIME and the stream
instructions. -/
def outriderRuns : Instr → Bool
  | .nop | .rep _ _ _ _ _ | .bnz _ _ | .bz _ _ | .jmp _ | .jal _ | .jr _ | .time _ _ => true
  | .qld _ _ _ _ | .qst _ _ _ _ | .qgat _ _ _ _ | .qcnt _ _ | .qend => true
  | i => (scalarRule i).isSome

/-! ## Fields -/

/-- The field of the mode register that holds a bit (10 R247): etype, rnd, guard, sat, ftz, tile. -/
def modeField (b : Nat) : Nat := if b < 4 then 0 else if b < 7 then 1 else if b < 11 then 2 else if b < 12 then 3 else if b < 13 then 4 else 5

/-! ## Traps (08 R197, R198, 19 R405 to R407) -/

/-- Whether a trap targets H (19 R405): from H; an HVCALL; a stage-2 fault; a privilege violation above U; a page or permission fault of an
H-regime walk. -/
def aimsHigh (k : Carriage) (t : LaneTrap) : Prop :=
  k.level = .H ∨ t.cause = 2 ∨ t.cause = 9 ∨ (t.cause = 0x11 ∧ k.level ≠ .U) ∨ ((t.cause = 4 ∨ t.cause = 5) ∧ t.stage = 3)

/-- Whether a frame takes no trap now (08 R197): busy, and not re-armed. -/
def blockedFrame (f : Frame) : Prop := f.busy = true ∧ f.rearmed = false

/-- The traps of every lane of a carriage with one cause, at the instruction. -/
def allTrap (k : Carriage) (cause code : Nat) : List LaneTrap :=
  (lanesOf k.lanes).map fun l => { lane := l, cause := cause, addr := k.pc, code := code }

/-- Traps of distinct lanes of a carriage, at least one. -/
def trapsOfCarriage (k : Carriage) (ts : List LaneTrap) : Prop :=
  ts ≠ [] ∧ (ts.map LaneTrap.lane).Nodup ∧ ∀ t ∈ ts, t.lane < 32 ∧ k.lanes.getLsbD t.lane = true

/-- A coach as trap entry leaves it (08 R198): the lanes of `ts` stand at the handler, at level `x`, with every lane a member; their siblings
are held at the next state; queue elements that the lanes have trapped for are marked (R208), no other; the frame holds the trapping and next states, the return level and the member mask, and its level's mode and cstat
are zero; each trapping lane has its record. -/
def trapEntered (c : Coach) (k : Carriage) (x : Level) (ts : List LaneTrap) (next : W64 × Option Rep) (tvec : W64) (w : Coach) : Prop :=
  let m := maskOf (ts.map LaneTrap.lane)
  let old := frameOf c k.fslot x
  let d := if old.busy then old.depth else 0
  let f := frameOf w k.fslot x
  w = { c with
      slots := w.slots, siding := w.siding, frames := w.frames, recs := w.recs, hold := w.hold, arrived := w.arrived, ports := w.ports }
    ∧ (∀ q, ∃ fs : SMap QFault, portOf w q = { portOf c q with faults := fs } ∧ fs.map Prod.fst = (portOf c q).faults.map Prod.fst)
    ∧ ((∀ t ∈ ts, t.kind ≠ 6 ∧ t.kind ≠ 7) → w.ports = c.ports)
    ∧ (∃ cause, (∃ t ∈ ts, t.cause = cause ∧ ∀ u ∈ ts, t.lane ≤ u.lane)
        ∧ movedLanes c k.lanes (fun l => if m.getLsbD l then some (tvec + BitVec.ofNat 64 (64 * cause), x, none)
            else some (next.1, k.level, next.2)) w)
    ∧ (∀ e ∈ w.slots, e.2.lanes &&& m ≠ 0 → e.2.member = BitVec.allOnes 32 ∧ e.2.fslot = k.fslot)
    ∧ (k.lanes &&& ~~~m ≠ 0 → ∃ e ∈ w.siding, e.lanes = k.lanes &&& ~~~m ∧ e.member = k.member
        ∧ e.held = some { slot := k.fslot, level := x, depth := d })
    ∧ f.busy = true ∧ f.rearmed = false ∧ f.depth = d ∧ rget f.traps d = m ∧ f.tpc = k.pc ∧ f.npc = next.1
    ∧ f.frep = BitVec.ofNat 64 (repCode k.rep + 2 ^ 32 * repCode next.2)
    ∧ f.fmisc = BitVec.ofNat 64 (k.level.code + 2 ^ 32 * k.member.toNat) ∧ f.mode = 0 ∧ f.cstat = 0 ∧ f.flane = old.flane
    ∧ (∀ j y, y ≠ .U → (j ≠ k.fslot ∨ y ≠ x) → frameOf w j y = frameOf c j y)
    ∧ (∀ t ∈ ts, rget w.recs (recKey x t.lane) = recordOf t k.fslot d)
    ∧ ∀ n, (∀ t ∈ ts, n ≠ recKey x t.lane) → rget w.recs n = rget c.recs n

/-! ## Registers by number (16 R363 to R369) -/

/-- The bits of a register that XWR writes and XRD reads back, by number; none for one that is read-only or acts otherwise. -/
def writable (r : Nat) : Option W64 :=
  if r = 0 then some 0xFF
  else if r = 7 then some 0x1F
  else if r = 0x102 ∨ r = 0x202 then some 0x1F
  else if r = 0x105 ∨ r = 0x106 ∨ r = 0x205 ∨ r = 0x206 then some (BitVec.allOnes 64)
  else if r = 0x107 ∨ r = 0x207 then some 0x0003FFFF0003FFFF
  else if r = 0x108 ∨ r = 0x208 then some 0xFFFFFFFF00000003
  else if r = 0x109 ∨ r = 0x209 then some 0x00FFFFFFFFFFFFFC
  else if r = 0x10A then some 0xFFFF
  else if r = 0x120 then some 0x000FFFFFFFFFF01F
  else if r = 0x220 then some 0xFFFFFFFFFFFFF001
  else if r = 0x221 then some 0x000FFFFFFFFFF001
  else none

/-- The numbers that a level may use (16 R362): below 0x100 every level, below 0x200 S and H, else H. -/
def mayReach (x : Level) (r : Nat) : Prop := r < 0x100 ∨ (r < 0x200 ∧ x ≠ .U) ∨ x = .H

end Sys2Proof.Rules
end

