-- ==== Sys2Proof/Certificates/Slice0/LaneRules.lean ====
section
/-! DEFINITION. What the spec's tables give each lane instruction (12 R286 to R307, 13 R308 to R314): how long it is, which lanes it runs for,
and what it makes of one lane; and what it is for a coach to hold such results. Bits, fields, moves, predicates, votes and shuffles are
written out here in the arithmetic of bit vectors and lists; an element result of R289, R295, R297 to R300, R305 or R310 to R314 is the
value of the model's function of that name, and what that function gives is said by the statements of numbers. -/

namespace Sys2Proof.Rules

open Sys2Proof.Machine

/-! ## Operands and results -/

/-- An element operand: v[n] with 32 zero bits above, or the pair at `n` under int64 (10 R243, 12 R286). -/
def wide (c : Coach) (k : Carriage) (l n : Nat) : W64 :=
  (if (modeOf c k).isInt64 then readV c k l (n + 1) else 0) ++ readV c k l n

/-- A result for v[d], or for the pair at `d` under int64. -/
def toElem (c : Coach) (k : Carriage) (d : BitVec 8) (r : W64) : LaneOut :=
  { writes := if (modeOf c k).isInt64 then [(d.toNat, r.setWidth 32), (d.toNat + 1, (r >>> 32).setWidth 32)]
      else [(d.toNat, r.setWidth 32)] }

/-- A result and flags for v[d], or for the pair at `d` under int64. -/
def toElemF (c : Coach) (k : Carriage) (d : BitVec 8) (r : Nat × FlagSet) : LaneOut :=
  { toElem c k d (BitVec.ofNat 64 r.1) with flags := r.2 }

/-- A result and flags for v[d] alone. -/
def toWord (d : BitVec 8) (r : Nat × FlagSet) : LaneOut := { writes := [(d.toNat, BitVec.ofNat 32 r.1)], flags := r.2 }

/-- A result for v[d] alone. -/
def toReg (d : BitVec 8) (r : W32) : LaneOut := { writes := [(d.toNat, r)] }

/-- A result for p[d]. -/
def toPred (d : BitVec 3) (b : Bool) : LaneOut := { preds := [(d.toNat, b)] }

/-- A result and flags for p[d]. -/
def toPredF (d : BitVec 3) (r : Bool × FlagSet) : LaneOut := { preds := [(d.toNat, r.1)], flags := r.2 }

/-- The mask of the field of a lane descriptor (12 R293): `wd` ones from bit `pos`. -/
def fieldMask (y : W32) : W32 := BitVec.ofNat 32 (2 ^ min (y.toNat / 2 ^ 8 % 2 ^ 6) 32 - 1) <<< (y.toNat % 32)

/-- The field of `x` that a descriptor names, extended as its bit 16 says (12 R293). -/
def fieldOf (x y : W32) : W32 :=
  let wd := min (y.toNat / 2 ^ 8 % 2 ^ 6) 32
  let f : Nat := x.toNat / 2 ^ (y.toNat % 32) % 2 ^ wd
  if y.getLsbD 16 ∧ 0 < wd ∧ 2 ^ (wd - 1) ≤ f then BitVec.ofInt 32 ((f : Int) - 2 ^ wd) else BitVec.ofNat 32 f

/-- The result of an element instruction of two operands. -/
def two (f : Mode → Nat → Nat → Nat × FlagSet) (d a b : BitVec 8) (c : Coach) (k : Carriage) (l : Nat) : LaneOut :=
  toElemF c k d (f (modeOf c k) (wide c k l a.toNat).toNat (wide c k l b.toNat).toNat)

/-- The result of an element instruction of one operand. -/
def one (f : Mode → Nat → Nat × FlagSet) (d a : BitVec 8) (c : Coach) (k : Carriage) (l : Nat) : LaneOut :=
  toElemF c k d (f (modeOf c k) (wide c k l a.toNat).toNat)

/-- The result of an element instruction that reads its destination too. -/
def three (f : Mode → Nat → Nat → Nat → Nat × FlagSet) (d a b : BitVec 8) (c : Coach) (k : Carriage) (l : Nat) : LaneOut :=
  toElemF c k d (f (modeOf c k) (wide c k l a.toNat).toNat (wide c k l b.toNat).toNat (wide c k l d.toNat).toNat)

/-- The result of an element instruction with a scalar operand. -/
def scaled (f : Mode → Nat → Nat → Nat → Nat × FlagSet) (d a b : BitVec 8) (c : Coach) (k : Carriage) (l : Nat) : LaneOut :=
  toElemF c k d (f (modeOf c k) (wide c k l a.toNat).toNat (readS c k b.toNat).toNat (wide c k l d.toNat).toNat)

/-- The result of a compare. -/
def cmp (f : Mode → Nat → Nat → Bool × FlagSet) (d : BitVec 3) (a b : BitVec 8) (c : Coach) (k : Carriage) (l : Nat) : LaneOut :=
  toPredF d (f (modeOf c k) (wide c k l a.toNat).toNat (wide c k l b.toNat).toNat)

/-- The result of an instruction on one word. -/
def word (f : Mode → Nat → Nat × FlagSet) (d a : BitVec 8) (c : Coach) (k : Carriage) (l : Nat) : LaneOut :=
  toWord d (f (modeOf c k) (readV c k l a.toNat).toNat)

/-- The result of an instruction on two words. -/
def words (f : Mode → Nat → Nat → Nat × FlagSet) (d a b : BitVec 8) (c : Coach) (k : Carriage) (l : Nat) : LaneOut :=
  toWord d (f (modeOf c k) (readV c k l a.toNat).toNat (readV c k l b.toNat).toNat)

/-! ## Tiles -/

/-- The tile width T (10 R247). -/
def tileWidth (c : Coach) (k : Carriage) : Nat := 32 / 2 ^ ((modeOf c k).toNat / 2 ^ 13 % 8)

/-- The active members of the tile of `l` (09 R12, 12 R301). -/
def peers (c : Coach) (k : Carriage) (l : Nat) : List Nat :=
  (List.range 32).filter fun n => n / tileWidth c k == l / tileWidth c k && k.member.getLsbD n && (activeOf c k).getLsbD n

/-- What lane `l` takes from source lane `u` (12 R301): its own operand where `u` lies outside its tile, the source's where the source is a
member that has not exited, otherwise zero. -/
def taken (c : Coach) (k : Carriage) (a : BitVec 8) (l : Nat) (u : Int) : W64 :=
  let t : Int := tileWidth c k
  if u / t ≠ l / t then wide c k l a.toNat
  else if k.member.getLsbD u.toNat ∧ c.exited.getLsbD u.toNat = false then wide c k u.toNat a.toNat
  else 0

/-! ## The table -/

/-- What the spec gives a lane instruction: its length in bytes, whether an active lane outside the member mask traps (12 R301), and what it
makes of one lane. -/
structure LaneRule where
  len : Nat := 4
  cross : Bool := false
  out : Coach → Carriage → Nat → LaneOut

/-- An entry of the table. -/
def rule (f : Coach → Carriage → Nat → LaneOut) : LaneRule := { out := f }

/-- An entry of the table for a cross-lane instruction. -/
def crossRule (f : Coach → Carriage → Nat → LaneOut) : LaneRule := { cross := true, out := f }

/-- The table of the lane instructions. -/
def laneRule : Instr → Option LaneRule
  | .vadd d a b => some (rule (two (fun m x y => regArith .add m x y 0) d a b))
  | .vsub d a b => some (rule (two (fun m x y => regArith .sub m x y 0) d a b))
  | .vmul d a b => some (rule (two (fun m x y => regArith .mul m x y 0) d a b))
  | .vfma d a b => some (rule (three (regArith .fma) d a b))
  | .vfnma d a b => some (rule (three (regArith .fnma) d a b))
  | .vmin d a b => some (rule (two (fun m x y => regArith .min m x y 0) d a b))
  | .vmax d a b => some (rule (two (fun m x y => regArith .max m x y 0) d a b))
  | .vabs d a => some (rule (one (fun m x => regArith .abs m x 0 0) d a))
  | .vneg d a => some (rule (one (fun m x => regArith .neg m x 0 0) d a))
  | .vdiv d a b => some (rule (two (fun m x y => regArith .div m x y 0) d a b))
  | .vsqrt d a => some (rule (one (fun m x => regArith .sqrt m x 0 0) d a))
  | .vrndi d a => some (rule (one (fun m x => regArith .rndi m x 0 0) d a))
  | .vmulh d a b => some (rule (two regMulh d a b))
  | .vadds d a b => some (rule (scaled (regArithS .add) d a b))
  | .vmuls d a b => some (rule (scaled (regArithS .mul) d a b))
  | .vfmas d a b => some (rule (scaled (regArithS .fma) d a b))
  | .vand d a b => some (rule (fun c k l => toElem c k d (wide c k l a.toNat &&& wide c k l b.toNat)))
  | .vor d a b => some (rule (fun c k l => toElem c k d (wide c k l a.toNat ||| wide c k l b.toNat)))
  | .vxor d a b => some (rule (fun c k l => toElem c k d (wide c k l a.toNat ^^^ wide c k l b.toNat)))
  | .vnot d a => some (rule (fun c k l => toElem c k d (~~~wide c k l a.toNat)))
  | .vshl d a b => some (rule (two (regBits .shl) d a b))
  | .vshr d a b => some (rule (two (regBits .shr) d a b))
  | .vclz d a => some (rule (one (fun m x => regBits .clz m x 0) d a))
  | .vpopc d a => some (rule (one (fun m x => regBits .popc m x 0) d a))
  | .vbfx d a b => some (rule (fun c k l => toReg d (fieldOf (readV c k l a.toNat) (readV c k l b.toNat))))
  | .vbfi d a b => some (rule (fun c k l =>
      let y := readV c k l b.toNat
      toReg d ((readV c k l d.toNat &&& ~~~fieldMask y) ||| ((readV c k l a.toNat <<< (y.toNat % 32)) &&& fieldMask y))))
  | .vimm d i => some (rule (fun c k _ => toElem c k d (low64 i.toInt)))
  | .vlit d lit => some { len := 8, out := fun c k _ => toElem c k d (low64 lit.toInt) }
  | .vmov d a => some (rule (fun c k l => toElem c k d (wide c k l a.toNat)))
  | .vfrs d a => some (rule (fun c k _ => toElem c k d (readS c k a.toNat)))
  | .vsel d a p => some (rule (fun c k l => toElem c k d (if readP c p.toNat l then wide c k l a.toNat else wide c k l d.toNat)))
  | .vcmpeq d a b => some (rule (cmp (compare .eq) d a b))
  | .vcmpne d a b => some (rule (cmp (compare .ne) d a b))
  | .vcmplt d a b => some (rule (cmp (compare .lt) d a b))
  | .vcmple d a b => some (rule (cmp (compare .le) d a b))
  | .vcmpun d a b => some (rule (cmp (compare .un) d a b))
  | .pand d a b => some (rule (fun c _ l => toPred d (readP c a.toNat l && readP c b.toNat l)))
  | .por d a b => some (rule (fun c _ l => toPred d (readP c a.toNat l || readP c b.toNat l)))
  | .pxor d a b => some (rule (fun c _ l => toPred d (xor (readP c a.toNat l) (readP c b.toNat l))))
  | .pnot d a => some (rule (fun c _ l => toPred d (!readP c a.toNat l)))
  | .pfrs d a => some (rule (fun c k l => toPred d ((readS c k a.toNat).getLsbD l)))
  | .vcvt d a t => some (rule (fun c k l => toElemF c k d (convert (modeOf c k) t.toNat
      (if t = 13 then (readV c k l (a.toNat + 1) ++ readV c k l a.toNat).toNat else (readV c k l a.toNat).toNat))))
  | .vpack d a w i => some (rule (fun c k l =>
      let wd := 16 / 2 ^ w.toNat
      let ones : W32 := BitVec.ofNat 32 (2 ^ wd - 1)
      toReg d ((readV c k l d.toNat &&& ~~~(ones <<< (i.toNat * wd))) ||| ((readV c k l a.toNat &&& ones) <<< (i.toNat * wd)))))
  | .vunpk d a w sx i => some (rule (word (fun _ x => (unpack x w.toNat i.toNat (sx == 1), 0)) d a))
  | .vsfuRcp d a => some (rule (word (regSfu .rcp) d a))
  | .vsfuRsq d a => some (rule (word (regSfu .rsq) d a))
  | .vsfuLg2 d a => some (rule (word (regSfu .lg2) d a))
  | .vsfuFexp d a => some (rule (word (regSfu .fexp) d a))
  | .vsfuSin d a => some (rule (word (regSfu .sin) d a))
  | .vsfuCos d a => some (rule (word (regSfu .cos) d a))
  | .vsfuTanh d a => some (rule (word (regSfu .tanh) d a))
  | .vsfuSigm d a => some (rule (word (regSfu .sigm) d a))
  | .vxins d a b => some (rule (words regXins d a b))
  | .vxext d a => some (rule (word regXext d a))
  | .voteany d a => some (crossRule (fun c k l => toPred d ((peers c k l).any fun n => readP c a.toNat n)))
  | .voteall d a => some (crossRule (fun c k l => toPred d ((peers c k l).all fun n => readP c a.toNat n)))
  | .vbal d a => some (crossRule (fun c k l =>
      toElem c k d ((List.range 32).foldl (fun m n => if n ∈ peers c k l ∧ readP c a.toNat n then m + 2 ^ n else m) 0)))
  | .shfli d a b => some (crossRule (fun c k l =>
      let t := tileWidth c k
      toElem c k d (taken c k a l ((t * (l / t) + (readV c k l b.toNat).toNat % t : Nat) : Int))))
  | .shflu d a n => some (crossRule (fun c k l => toElem c k d (taken c k a l ((l : Int) - n.toNat))))
  | .shfld d a n => some (crossRule (fun c k l => toElem c k d (taken c k a l ((l : Int) + n.toNat))))
  | .shflx d a n => some (crossRule (fun c k l =>
      let t := tileWidth c k
      toElem c k d (taken c k a l ((t * (l / t) + (Nat.xor (l % t) n.toNat) % t : Nat) : Int))))
  | .vred d a o => some (crossRule (fun c k l =>
      toElemF c k d (reduce (.ofCode o.toNat) c k a (membersOf k (modeOf c k) l))))
  | .vscan d a e o => some (crossRule (fun c k l =>
      toElemF c k d (reduce (.ofCode o.toNat) c k a
        ((membersOf k (modeOf c k) l).filter fun n => n < l || (e == 0 && n == l)))))
  | .liadd d a b => some (rule (words (liReg .add) d a b))
  | .lisub d a b => some (rule (words (liReg .sub) d a b))
  | .limul d a b => some (rule (words (liReg .mul) d a b))
  | .lidiv d a b => some (rule (words (liReg .div) d a b))
  | .liclt d a b => some (rule (fun c k l =>
      let fb := slOf (modeOf c k)
      let x := decodeSl fb (elem (readV c k l a.toNat).toNat 0 (fb + 5))
      let y := decodeSl fb (elem (readV c k l b.toNat).toNat 0 (fb + 5))
      toPredF d (if x = .nan ∨ y = .nan then (false, fIV) else (x.lt y, 0))))
  | .liceq d a b => some (rule (fun c k l =>
      let fb := slOf (modeOf c k)
      let x := decodeSl fb (elem (readV c k l a.toNat).toNat 0 (fb + 5))
      let y := decodeSl fb (elem (readV c k l b.toNat).toNat 0 (fb + 5))
      toPredF d (if x = .nan ∨ y = .nan then (false, 0) else (x.eqv y, 0))))
  | .lineg d a => some (rule (word (liSign SlVal.negate) d a))
  | .liabs d a => some (rule (word (liSign fun v => if v.neg then v.negate else v) d a))
  | .litof d a t => some (rule (word (fun m x =>
      match EType.ofCode t.toNat with
      | .float f => slToFloat (slOf m) (elem x 0 (slOf m + 5)) f m.rnd m.sat m.ftz
      | _ => (0, 0)) d a))
  | .lifrf d a t => some (rule (word (fun m x =>
      match EType.ofCode t.toNat with
      | .float f =>
        let v := f.decode m.ftz (elem x 0 f.w)
        let r := encodeSl (slOf m) v
        (r.1, r.2 ||| sigIV [v])
      | _ => (0, 0)) d a))
  | .litoi d a t => some (rule (fun c k l =>
      let m := modeOf c k
      let r := slToInt (slOf m) (elem (readV c k l a.toNat).toNat 0 (slOf m + 5)) (EType.ofCode t.toNat).asInt m.rnd m.sat
      let lo : Nat × W32 := (d.toNat, BitVec.ofNat 32 r.1)
      { writes := if t = 13 then [lo, (d.toNat + 1, BitVec.ofNat 32 (r.1 / 2 ^ 32))] else [lo], flags := r.2 }))
  | .lifri d a t => some (rule (fun c k l =>
      let m := modeOf c k
      let f := (EType.ofCode t.toNat).asInt
      let x := if t = 13 then (readV c k l (a.toNat + 1) ++ readV c k l a.toNat).toNat else elem (readV c k l a.toNat).toNat 0 f.w
      toWord d (encodeSl (slOf m) (Val.ofInt (f.decode x)))))
  | .lilvl d a f => some (rule (word (fun m x => (liLvl (slOf m) (elem x 0 (slOf m + 5)) f.toNat, 0)) d a))
  | _ => none

/-- The trap of a lane at a lane instruction, if it traps: an active lane outside the member mask of a cross-lane instruction (12 R301, cause
0x14), a failure at a queue port (08 R208), or a flag that fpen enables at U (16 R368, cause 0x30). -/
def laneTrap (r : LaneRule) (i : Instr) (c : Coach) (k : Carriage) (l : Nat) : Option LaneTrap :=
  if r.cross ∧ k.member.getLsbD l = false then some { lane := l, cause := 0x14, addr := k.pc }
  else match queueTrap c k i l with
    | some t => some t
    | none =>
      if k.level = .U ∧ (r.out c k l).flags.setWidth 5 &&& c.fpen ≠ 0 then some { lane := l, cause := 0x30, addr := k.pc } else none

/-- The results of the lanes that complete, in ascending order. -/
def outsBy (r : LaneRule) (i : Instr) (c : Coach) (k : Carriage) : List (Nat × LaneOut) :=
  ((lanesOf (activeOf c k)).filter fun l => (laneTrap r i c k l).isNone).map fun l => (l, r.out c k l)

/-- The traps of the lanes that trap, in ascending order. -/
def trapsBy (r : LaneRule) (i : Instr) (c : Coach) (k : Carriage) : List LaneTrap :=
  (lanesOf (activeOf c k)).filterMap (laneTrap r i c k)

/-! ## What a coach holds -/

/-- The vector register of a lane that a resolved number reaches, where it is no port. -/
def laneReg (c : Coach) (l : Nat) : VDst → W32
  | .reg n => rget c.v (32 * n + l)
  | .kv x i => rget c.kv (kvKey x i l)
  | _ => 0

/-- Whether a resolved vector register is one that an instruction can name, and no port. -/
def lane : VDst → Prop
  | .reg _ => True
  | .kv x i => x ≠ .U ∧ i < 16
  | _ => False

/-- The last result of a lane for a resolved register. -/
def resultFor (c : Coach) (k : Carriage) (outs : List (Nat × LaneOut)) (l : Nat) (t : VDst) : Option W32 :=
  ((outs.filter fun e => e.1 == l).flatMap fun e => (e.2.writes.filter fun w => vTarget c k w.1 == t).map Prod.snd).getLast?

/-- The last result of a lane for a predicate. -/
def predFor (outs : List (Nat × LaneOut)) (l n : Nat) : Option Bool :=
  ((outs.filter fun e => e.1 == l).flatMap fun e => (e.2.preds.filter fun w => w.1 == n).map Prod.snd).getLast?

/-- The flags that the lanes raise together (09 R235). -/
def flagsOf (outs : List (Nat × LaneOut)) : FlagSet := outs.foldl (fun f e => f ||| e.2.flags) 0

/-- The queue ports among an instruction's operands (08 R206). -/
def portsNamed (c : Coach) (k : Carriage) (i : Instr) : List Nat := popsOf c k i ++ pushesOf c k i

/-- A coach as the results of lanes leave it, before its carriage goes on: the registers and predicates named hold the results, every other
register and predicate is unchanged (p0 ignores writes); the flags are OR-ed into the status of the carriage's level and no other; each queue
port named has moved on by one entry for each lane that completes; nothing else has changed. -/
def lanesWritten (c : Coach) (k : Carriage) (i : Instr) (outs : List (Nat × LaneOut)) (w : Coach) : Prop :=
  w = { c with v := w.v, kv := w.kv, p := w.p, ports := w.ports, cstat := w.cstat, frames := w.frames }
    ∧ (∀ l t, l < 32 → lane t → laneReg w l t = (resultFor c k outs l t).getD (laneReg c l t))
    ∧ (∀ l n, l < 32 → readP w n l = if n = 0 then true else (predFor outs l n).getD (readP c n l))
    ∧ cstatOf w k = cstatOf c k ||| flagsOf outs
    ∧ (k.level ≠ .U → w.cstat = c.cstat)
    ∧ (∀ j x, x ≠ .U → frameOf w j x
        = if k.level = x ∧ j = k.fslot then { frameOf c j x with cstat := cstatOf w k } else frameOf c j x)
    ∧ ∀ q l, (portOf w q).posOf l
        = (portOf c q).posOf l + if q ∈ portsNamed c k i ∧ l ∈ outs.map Prod.fst then 1 else 0

/-! ## Integer results (09 R217, R218, 12 R287, R289) -/

/-- The exact integer that an operation of R289 computes, for those that need no division or root. -/
def exactOf (op : ArithOp) (x y z : Int) : Option Int :=
  match op with
  | .add => some (x + y)
  | .sub => some (x - y)
  | .mul => some (x * y)
  | .fma => some (x * y + z)
  | .fnma => some (z - x * y)
  | .min => some (min x y)
  | .max => some (max x y)
  | .abs => some x.natAbs
  | .neg => some (-x)
  | .div => if y = 0 then none else some (x.tdiv y)
  | .sqrt => none
  | .rndi => some x

/-- What 09 R218 makes of an exact integer: wrapped to the width of its type, or under mode.sat held to the range of the type, with SA raised
where that changes it. -/
def intHeld (t : IntFmt) (sat : Bool) (n : Int) : Nat × FlagSet :=
  let lo : Int := if t.signed then -2 ^ (t.w - 1) else 0
  let hi : Int := if t.signed then 2 ^ (t.w - 1) - 1 else 2 ^ t.w - 1
  let held := max lo (min hi n)
  (((if sat then held else n) % 2 ^ t.w).toNat, if sat ∧ held ≠ n then fSA else 0)

/-- The binary float formats (09 R219). -/
def floats : List FloatFmt := [fp32, fp16, bf16, fp8e4, fp8e5]

/-! ## Special operands of VSFU (12 R300) -/

/-- The fp32 pattern and the flags that the last column of the table of R300 gives a function, where it names the operand. -/
def sfuTable (op : SfuOp) (v : Val) : Option (Nat × FlagSet) :=
  let sg (n : Bool) : Nat := if n then 0x80000000 else 0
  let nan : Nat × FlagSet := (0x7FC00000, fIV)
  match v with
  | .nan s => some (0x7FC00000, if s then fIV else 0)
  | .zero n => some (match op with
    | .rcp => (sg n + 0x7F800000, fDZ)
    | .rsq => (sg n + 0x7F800000, fDZ)
    | .lg2 => (0xFF800000, fDZ)
    | .fexp => (0x3F800000, 0)
    | .sin => (sg n, 0)
    | .cos => (0x3F800000, 0)
    | .tanh => (sg n, 0)
    | .sigm => (0x3F000000, 0))
  | .inf n => some (match op with
    | .rcp => (sg n, 0)
    | .rsq => if n then nan else (0, 0)
    | .lg2 => if n then nan else (0x7F800000, 0)
    | .fexp => (if n then 0 else 0x7F800000, 0)
    | .sin => nan
    | .cos => nan
    | .tanh => (sg n + 0x3F800000, 0)
    | .sigm => (if n then 0 else 0x3F800000, 0))
  | .fin q => if q.num < 0 ∧ (op = .rsq ∨ op = .lg2) then some nan else none

/-! ## Level-index values (09 R230, R231) -/

/-- A number that orders level-index values as their real values lie: zero for both zeros. -/
def slPlace : SlVal → Int
  | .fin n t => (if n then -1 else 1) * (2 ^ 40 + if t.neg then -(t.u : Int) else t.u)
  | _ => 0

/-- DecodeSl, by the fields of a pattern. -/
def slValue (fb p : Nat) : SlVal :=
  let l := p / 2 ^ fb % 8
  let f := p % 2 ^ fb
  let sg := p.testBit (fb + 4)
  if l = 0 then (if f = 0 then .zero sg else .nan)
  else .fin sg { neg := p.testBit (fb + 3) && !(l == 1 && f == 0), u := 2 ^ fb * (l - 1) + f }

end Sys2Proof.Rules
end

