-- ==== Sys2Proof/Certificates/Slice0/MemRules.lean ====
section
/-! DEFINITION. What chapter 14 gives each memory instruction: the address and the checks of an access, the operation that it issues, and the
values that its accesses carry; and how memory reads through the caches. -/

namespace Sys2Proof.Rules

open Sys2Proof.Machine

/-! ## Operands -/

/-- The pair at `n` (10 R243). -/
def pairAt (x : Iss) (l n : Nat) : W64 := readV x.c x.k l (n + 1) ++ readV x.c x.k l n

/-- The registers from `n` on, `j` words, as one number. -/
def run (x : Iss) (l n j : Nat) : Nat := ((List.range j).map fun i => (readV x.c x.k l (n + i)).toNat * 2 ^ (32 * i)).sum

/-- The registers from `n` on that a result of `j` words goes to. -/
def goals (x : Iss) (n j : Nat) : List VDst := (List.range j).map fun i => vTarget x.c x.k (n + i)

/-- The address of a lane, and of a scalar access (14 R318). -/
def laneAddr (x : Iss) (l : Nat) (a imm : BitVec 8) (size : Nat) : W64 := low64 ((pairAt x l a.toNat).toNat + imm.toInt * size)
def scalarAddr (x : Iss) (a imm : BitVec 8) (size : Nat) : W64 := low64 ((readS x.c x.k a.toNat).toNat + imm.toInt * size)

/-- The window offset of a lane (14 R323). -/
def windowOffset (x : Iss) (l : Nat) (a imm : BitVec 8) (size : Nat) : Int := (readV x.c x.k l a.toNat).toNat + imm.toInt * size

/-- The fault address of a window access (04 R87): the kind above, the offset modulo 2^24 below. -/
def windowAddr (kind : Nat) (o : Int) : W64 := low64 (2 ^ 56 * kind + o % 2 ^ 24)

/-! ## The tables -/

/-- What the tables give a memory instruction: its length, the checks of an access, the accesses that one which passes makes, and the operation
that holds them, but for its place in the order of issue. -/
structure MemRule where
  len : Nat := 4
  check : State → Iss → Nat → Checked
  pieces : State → Iss → Passed → List Piece
  op : State → Iss → List Passed → Op

/-- The fields that every operation takes from its carriage. -/
def opBy (x : Iss) (counter : Counter) (kind : OpKind) : Op :=
  { id := 0, counter := counter, kind := kind, pieces := [], level := x.k.level, fslot := x.k.fslot, mode := modeOf x.c x.k }

/-- An access that has passed, at its address, of some bytes. -/
def plain (p : Passed) (va : W64) (size : Nat) : Piece :=
  { lane := p.lane, space := p.space, addr := p.addr, va := va, size := size, attr := p.attr }

/-- A store to a replicated location writes each of its sixteen copies (06 R148). -/
def eachCopy (p : Piece) : List Piece :=
  if p.space = .mem ∧ p.attr.repl = true then (List.range 16).map fun d => { p with addr := d * 2 ^ 36 + p.addr % 2 ^ 36 } else [p]

/-- A load of lanes from global memory (14 R321). -/
def loadRule (d a imm : BitVec 8) (size : Nat) (signed : Bool) : MemRule where
  check s x l := checkAccess s (askerOf x.c x.slot x.k) { acc := .read, size := size } l (laneAddr x l a imm size)
  pieces _ x p := [{ plain p (laneAddr x p.lane a imm size) size with
    dst := .vec (goals x d.toNat ((size + 3) / 4)) (8 * min 4 size) signed }]
  op _ x _ := opBy x .ld .load

/-- A store of lanes to global memory (14 R321). -/
def storeRule (d a imm : BitVec 8) (size : Nat) : MemRule where
  check s x l := checkAccess s (askerOf x.c x.slot x.k) { acc := .write, size := size } l (laneAddr x l a imm size)
  pieces _ x p := eachCopy { plain p (laneAddr x p.lane a imm size) size with
    data := run x p.lane d.toNat ((size + 3) / 4) % 2 ^ (8 * size) }
  op _ x _ := opBy x .st .store

/-- A load of lanes from a window (14 R323). -/
def windowLoad (kind : Nat) (d a imm : BitVec 8) (size : Nat) : MemRule where
  check s x l := checkBuffer s x.c kind size l (windowOffset x l a imm size)
  pieces _ x p := [{ plain p (windowAddr kind (windowOffset x p.lane a imm size)) size with
    dst := .vec (goals x d.toNat ((size + 3) / 4)) 32 false }]
  op _ x _ := opBy x .ld .load

/-- A store of lanes to a window (14 R323). -/
def windowStore (kind : Nat) (d a imm : BitVec 8) (size : Nat) : MemRule where
  check s x l := checkBuffer s x.c kind size l (windowOffset x l a imm size)
  pieces _ x p := [{ plain p (windowAddr kind (windowOffset x p.lane a imm size)) size with data := run x p.lane d.toNat ((size + 3) / 4) }]
  op _ x _ := opBy x .st .store

/-- The cores that an acquire or release concerns: those of its scope entry, and all where an access of it reaches the host or a peer
(14 R324). -/
def reaches (s : State) (x : Iss) (sc : BitVec 5) (ps : List Passed) : BitVec 256 :=
  if ∃ p ∈ ps, p.space = .host ∨ p.space = .peer then BitVec.allOnes 256 else scopeCores s x.c sc.toNat

/-- The checks of an atomic or a command: of an atomic's kind, in local memory alone (14 R326, R327). -/
def atomCheck (s : State) (x : Iss) (l : Nat) (va : W64) (size code : Nat) : Checked :=
  checkAccess s (askerOf x.c x.slot x.k) { acc := .atomic, size := size, kind := code, control := false, windows := false } l va

/-- The operation of an atomic (14 R326, 06 R140). -/
def atomOp (s : State) (x : Iss) (ret : Bool) (aop : Nat) (lit : W32) : Op :=
  { opBy x (if ret then .ld else .st) (.atomic aop (if lit.getLsbD 9 then 64 else 32)) with
    acquire := lit.getLsbD 10, release := lit.getLsbD 11, scope := scopeCores s x.c (lit.toNat / 2 ^ 4 % 32) }

/-- A memory command of lanes (14 R327). -/
def commandRule (a : BitVec 8) (size code tag : Nat) (kind : CmdKind) (fill : Iss → Nat → Piece → Piece) : MemRule where
  len := 8
  check s x l := atomCheck s x l (pairAt x l a.toNat) size code
  pieces _ x p := [fill x p.lane { plain p (pairAt x p.lane a.toNat) size with site := .bank }]
  op _ x _ := opBy x (.tag tag) (.cmd kind)

/-- Whether a literal, or the d field, holds a reserved value (14 R326, R327). -/
def reservedLit : Instr → Bool
  | .vatom d _ _ lit => 9 < lit.toNat % 16 || (lit.toNat % 16 == 9 && lit.getLsbD 9) || 2 ^ 13 ≤ lit.toNat || (!lit.getLsbD 12 && d != 0)
  | .satom d _ _ lit => 9 < lit.toNat % 16 || (lit.toNat % 16 == 9 && lit.getLsbD 9) || 2 ^ 13 ≤ lit.toNat || (!lit.getLsbD 12 && d != 0)
  | .vcas _ _ _ lit => lit.toNat % 16 != 0 || 2 ^ 12 ≤ lit.toNat
  | .mred _ _ lit => lit.toNat / 8 % 4 == 3 || 2 ^ 14 ≤ lit.toNat || (lit.toNat / 8 % 4 != 2 && 32 ≤ lit.toNat)
  | .mcas _ _ _ lit => 16 ≤ lit.toNat
  | .msax _ _ _ lit => 8 ≤ lit.toNat
  | .mwrm _ _ _ lit => 8 ≤ lit.toNat
  | _ => false

/-- The table of the memory instructions of lanes. -/
def laneMem : Instr → Option MemRule
  | .vld8s d a imm => some (loadRule d a imm 1 true)
  | .vld8z d a imm => some (loadRule d a imm 1 false)
  | .vld16s d a imm => some (loadRule d a imm 2 true)
  | .vld16z d a imm => some (loadRule d a imm 2 false)
  | .vld32 d a imm => some (loadRule d a imm 4 false)
  | .vld64 d a imm => some (loadRule d a imm 8 false)
  | .vld128 d a imm => some (loadRule d a imm 16 false)
  | .vst8 d a imm => some (storeRule d a imm 1)
  | .vst16 d a imm => some (storeRule d a imm 2)
  | .vst32 d a imm => some (storeRule d a imm 4)
  | .vst64 d a imm => some (storeRule d a imm 8)
  | .vst128 d a imm => some (storeRule d a imm 16)
  | .ald32 d a imm => some (windowLoad 1 d a imm 4)
  | .ald128 d a imm => some (windowLoad 1 d a imm 16)
  | .ast32 d a imm => some (windowStore 1 d a imm 4)
  | .ast128 d a imm => some (windowStore 1 d a imm 16)
  | .cld64 d a imm => some (windowLoad 3 d a imm 8)
  | .cst64 d a imm => some (windowStore 3 d a imm 8)
  | .vlda d a sc => some { loadRule d a 0 4 false with
      check := fun s x l =>
        checkAccess s (askerOf x.c x.slot x.k) { acc := .read, size := 4, control := false } l (pairAt x l a.toNat)
      op := fun s x ps => { opBy x .ld .load with acquire := true, scope := reaches s x sc ps } }
  | .vstl d a sc => some { storeRule d a 0 4 with
      check := fun s x l =>
        checkAccess s (askerOf x.c x.slot x.k) { acc := .write, size := 4, control := false } l (pairAt x l a.toNat)
      op := fun s x ps => { opBy x .st .store with release := true, scope := reaches s x sc ps } }
  | .vatom d a b lit =>
    let n := if lit.getLsbD 9 then 64 else 32
    some {
      len := 8
      check := fun s x l => atomCheck s x l (pairAt x l a.toNat) (n / 8) 3
      pieces := fun s x p => [{ plain p (pairAt x p.lane a.toNat) (n / 8) with
        data := run x p.lane b.toNat (n / 32)
        dst := if lit.getLsbD 12 then .vec (goals x d.toNat (n / 32)) 32 false else .none
        site := siteOf s x.c (scopeCores s x.c (lit.toNat / 2 ^ 4 % 32)) p.addr p.attr }]
      op := fun s x _ => atomOp s x (lit.getLsbD 12) (lit.toNat % 16) lit }
  | .vcas d a b lit =>
    let n := if lit.getLsbD 9 then 64 else 32
    some {
      len := 8
      check := fun s x l => atomCheck s x l (pairAt x l a.toNat) (n / 8) 3
      pieces := fun s x p => [{ plain p (pairAt x p.lane a.toNat) (n / 8) with
        data := run x p.lane b.toNat (n / 32)
        data2 := run x p.lane (b.toNat + n / 32) (n / 32)
        dst := .vec (goals x d.toNat (n / 32)) 32 false
        site := siteOf s x.c (scopeCores s x.c (lit.toNat / 2 ^ 4 % 32)) p.addr p.attr }]
      op := fun s x _ => atomOp s x true 16 lit }
  | .mred a b lit =>
    let k := lit.toNat / 8 % 4
    let e : Int := if 2 ^ 8 ≤ lit.toNat / 2 ^ 5 % 2 ^ 9 then (lit.toNat / 2 ^ 5 % 2 ^ 9 : Int) - 2 ^ 9 else (lit.toNat / 2 ^ 5 % 2 ^ 9 : Int)
    some (commandRule a (if k = 0 then 4 else 8) 3 (lit.toNat % 8) (if k = 0 then .mredI 32 else if k = 1 then .mredI 64 else .mredF e)
      fun x l p => { p with data := run x l b.toNat (if k = 1 then 2 else 1) })
  | .mcas d a b lit =>
    let k := if lit.getLsbD 3 then 2 else 1
    some (commandRule a (4 * k) 3 (lit.toNat % 8) (.mcas (32 * k)) fun x l p =>
      { p with data := run x l b.toNat k, data2 := run x l (b.toNat + k) k, dst := .vec (goals x d.toNat k) 32 false })
  | .msax d a b lit =>
    some (commandRule a 32 3 (lit.toNat % 8) .msax fun x l p => { p with data := run x l b.toNat 1, data2 := run x l d.toNat 8 })
  | .mwrm d a b lit =>
    some (commandRule a 4 2 (lit.toNat % 8) .mwrm fun x l p => { p with data := run x l d.toNat 1, data2 := run x l b.toNat 1 % 16 })
  | _ => none

/-- The table of the scalar loads, stores and atomics (14 R322, R326): one access for the carriage, which stands for lane 32. -/
def scalarMem : Instr → Option MemRule
  | .sld32 d a imm => some (load d a imm 4)
  | .sld64 d a imm => some (load d a imm 8)
  | .sst32 d a imm => some (store d a imm 4)
  | .sst64 d a imm => some (store d a imm 8)
  | .satom d a b lit =>
    let n := if lit.getLsbD 9 then 64 else 32
    some {
      len := 8
      check := fun s x l => atomCheck s x l (readS x.c x.k a.toNat) (n / 8) 3
      pieces := fun s x p => [{ plain p (readS x.c x.k a.toNat) (n / 8) with
        data := (readS x.c x.k b.toNat).toNat % 2 ^ n
        dst := if lit.getLsbD 12 then .scalar (sTarget x.k d.toNat) else .none
        site := siteOf s x.c (scopeCores s x.c (lit.toNat / 2 ^ 4 % 32)) p.addr p.attr }]
      op := fun s x _ => atomOp s x (lit.getLsbD 12) (lit.toNat % 16) lit }
  | _ => none
where
  load (d a imm : BitVec 8) (size : Nat) : MemRule :=
    { check := fun s x l => checkAccess s (askerOf x.c x.slot x.k) { acc := .read, size := size } l (scalarAddr x a imm size)
      pieces := fun _ x p => [{ plain p (scalarAddr x a imm size) size with dst := .scalar (sTarget x.k d.toNat) }]
      op := fun _ x _ => opBy x .ld .load }
  store (d a imm : BitVec 8) (size : Nat) : MemRule :=
    { check := fun s x l => checkAccess s (askerOf x.c x.slot x.k) { acc := .write, size := size } l (scalarAddr x a imm size)
      pieces := fun _ x p => eachCopy { plain p (scalarAddr x a imm size) size with
        data := (readS x.c x.k d.toNat).toNat % 2 ^ (8 * size) }
      op := fun _ x _ => opBy x .st .store }

/-! ## Issuing -/

/-- How the checks of a lane end: a queue failure comes first (08 R208). -/
def endOf (r : MemRule) (i : Instr) (s : State) (x : Iss) (l : Nat) : Checked :=
  match queueTrap x.c x.k i l with
  | some t => .trap t
  | none => r.check s x l

/-- The active lanes that pass, with the places of their accesses, and the traps of those that do not. -/
def passing (r : MemRule) (i : Instr) (s : State) (x : Iss) : List Passed :=
  (lanesOf (activeOf x.c x.k)).filterMap fun l => match endOf r i s x l with
    | .ok sp a at_ => some { lane := l, space := sp, addr := a, attr := at_ }
    | _ => none
def trapping (r : MemRule) (i : Instr) (s : State) (x : Iss) : List LaneTrap :=
  (lanesOf (activeOf x.c x.k)).filterMap fun l => match endOf r i s x l with
    | .trap t => some t
    | _ => none

/-- No fence, and no acquire that is not done, holds back a coach's memory instructions (04 R97, 06 R140, 14 R325). -/
def unheld (c : Coach) : Prop := c.hold = false ∧ c.fences = [] ∧ ∀ o ∈ c.ops, o.acquire = true → o.done = true

/-- The machine after an issue of memory accesses: the order of issue has moved on, and the core's L1 and walk results may have changed; local
memory reads as before at its home, and nothing else has changed. -/
def onlyIssued (s u : State) : Prop :=
  u = { s with nextId := u.nextId, chassis := u.chassis } ∧ ∀ a, homeByte u a = homeByte s a

/-! ## Memory through the caches (04 R100, R107) -/

/-- What a byte of local memory holds: the owning L1's where it is dirty there, else the chassis cache's where it is valid there, else the
cells'. -/
def memByte (s : State) (a : Nat) : Byte :=
  let line := cacheLine s (lineOf a)
  let owned := (line.bind CacheLine.owner).bind fun g => (l1Line s g (lineOf a)).bind fun o =>
    if o.dirty.getLsbD (a % 128) then mget o.bytes (a % 128) else none
  (owned.orElse fun _ => line.bind fun l => mget l.bytes (a % 128)).getD (cget s.dram a)

/-- The little-endian value of `n` bytes of local memory. -/
def memValue (s : State) (a n : Nat) : Nat := leNat ((List.range n).map fun i => memByte s (a + i))

/-- The caches agree with one another and with the cells: every line lists its bytes in order; a valid byte of the chassis cache that is not
dirty is the cells' byte; and the L1 that a home records as an owner holds the line as its own. -/
def coherent (s : State) : Prop :=
  (∀ ln l, cacheLine s ln = some l → (l.bytes.map Prod.fst).Pairwise (· < ·) ∧ ∀ e ∈ l.bytes, e.1 < 128)
    ∧ (∀ g ln l, l1Line s g ln = some l → (l.bytes.map Prod.fst).Pairwise (· < ·) ∧ ∀ e ∈ l.bytes, e.1 < 128)
    ∧ (∀ ln l i b, cacheLine s ln = some l → mget l.bytes i = some b → l.dirty.getLsbD i = false → cget s.dram (128 * ln + i) = b)
    ∧ ∀ ln l g, cacheLine s ln = some l → l.owner = some g → l1Owns s g ln = true

/-! ## Issuing through the L1 (04 R95, R96, R107, 06 R147) -/

/-- Bytes written one access after another, the later of which stand where two overlap. -/
def overlay (ps : List Piece) (f : Nat → Byte) : Nat → Byte :=
  ps.foldl (fun f p b => if p.addr ≤ b ∧ b < p.addr + p.size then BitVec.ofNat 8 (p.data / 256 ^ (b - p.addr)) else f b) f

/-- A byte that a core's L1 holds. -/
def l1Byte (s : State) (g b : Nat) : Option Byte := (l1Line s g (lineOf b)).bind fun l => mget l.bytes (b % 128)

/-- A load that its core's L1 serves at issue, and a store that the L1 takes then: it shows the store, and where the core owns the line has
performed it (log entry 17: that both are done at the issue itself is the model's choice). -/
def servedBy (s : State) (g : Nat) (p : Piece) : Piece := { p with phase := 1, result := leNat (l1Bytes s g p.addr p.size) }
def shownBy (s : State) (g : Nat) (p : Piece) : Piece := { p with shown := true, phase := if l1Owns s g (lineOf p.addr) = true then 1 else 0 }

/-- No store of a core that has still to show in its L1 lies in the sector of an access. -/
def noneLate (s : State) (g : Nat) (p : Piece) : Prop := ∀ q ∈ openStores s g, q.2.late = true → q.2.addr / 32 ≠ p.addr / 32

/-- An access as issued: one that its L1 does not hold is still to be performed; a load or store that it holds it takes, at once where no earlier
operation of the coach and no late store of the core stands before it. -/
def asIssued (s : State) (x : Iss) (o : Op) (p q : Piece) : Prop :=
  let g := x.c.gcore
  let held : Prop := p.space = .mem ∧ l1Holds s g p.addr p.size = true
  let alone : Prop := held ∧ x.c.ops = [] ∧ noneLate s g p
  (¬held → q = p)
    ∧ (o.kind = .load → (q = p ∨ q = servedBy s g p) ∧ (o.acquire = false → alone → p.attr.cp = 0 → p.attr.atomic = false → q = servedBy s g p))
    ∧ (o.kind = .store → (q = p ∨ q = { p with late := true } ∨ q = shownBy s g p) ∧ (o.release = false → alone → q = shownBy s g p))
    ∧ (o.kind ≠ .load → o.kind ≠ .store → q = p)

/-- What the stores of an issued operation do at once: the core's L1 holds the bytes of those that it shows, and memory those of them that lie in
lines which the core owns. -/
def storesTaken (s u : State) (g : Nat) (o : Op) : Prop :=
  coherent s → (∀ q ∈ o.pieces, q.addr % 128 + q.size ≤ 128) →
  (∀ q ∈ o.pieces, l1Owns s g (lineOf q.addr) = true → (cacheLine s (lineOf q.addr)).bind CacheLine.owner = some g) →
    (∀ b, memByte u b = overlay (o.pieces.filter fun q => q.shown && q.phase == 1) (memByte s) b)
      ∧ ∀ b, l1Byte u g b = if ∃ q ∈ o.pieces, q.shown = true ∧ q.addr ≤ b ∧ b < q.addr + q.size then
          some (overlay (o.pieces.filter Piece.shown) (fun _ => 0) b) else l1Byte s g b

/-- What a coach holds once an operation has been issued: it stands behind the others, with the next number and place. -/
def opIssued (s u : State) (x : Iss) (base : Op) (lanes : Mask) (ps : List Piece) (c : Coach) : Prop :=
  ∃ o : Op, o = { base with id := x.c.nextOp, stamp := s.nextId, cart := x.c.cart, lanes := lanes, pieces := o.pieces }
    ∧ List.Forall₂ (asIssued s x o) ps o.pieces ∧ (o.kind = .store → storesTaken s u x.c.gcore o)
    ∧ c.ops = x.c.ops ++ [o] ∧ c.nextOp = x.c.nextOp + 1 ∧ c.last = s.nextId + 1

/-! ## Homes that take accesses -/

/-- A state without what a step that is over had standing at bank-side units (03 R73): a step of an access, and one of an event. -/
def overAt (s : State) (r : OpRef) (x : Site1) : State := leaveUnits s (.access r x.o.stamp)
def overEvent (s : State) (i : Instr) : State := leaveUnits s (.turn (.event i))

/-- No bus is unavailable (03 R84). -/
def busesUp (s : State) : Prop := ∀ a, busLost s a = false

/-- Nothing keeps the bank of a byte from taking an operation (03 R67, R73, R80, R82, R83): its bus is neither under test nor under repair, no
refresh holds the bank, and no operation waits there. -/
def bankFree (s : State) (a : Nat) : Prop :=
  let h := homeAt a
  let b := busOf (chassisOf s h.d) h.col
  b.state ≠ 1 ∧ b.state ≠ 2 ∧ refreshing s b h.bank = false ∧ queueAt s a = [] ∧ arrivalsAt s a = []

/-- The home of a line takes an access at this moment: its cache slice and the banks of its four sectors are free, none of the sectors holds an
error, and the line can be recalled from its owner. -/
def lineFree (s : State) (ln : Nat) : Prop :=
  sliceOpen s (lineDie ln) = true ∧ (∀ i, i < 4 → bankFree s (128 * ln + 32 * i) ∧ flawAt s (128 * ln + 32 * i) = .clean)
    ∧ ∀ g, (cacheLine s ln).bind CacheLine.owner = some g →
      pathOpen s (lineDie ln) (g / 16) = true ∨ reachable s (lineDie ln) (g / 16) = false

/-- Every home takes accesses at this moment, and no cell holds an error. -/
def quiet (s : State) : Prop := ∀ ln, lineFree s ln

/-- A line is in the chassis cache of its home, or its set has a way to spare (04 R100). -/
def hasWay (s : State) (ln : Nat) : Prop :=
  (cacheLine s ln).isSome = true ∨ ((chassisOf s (lineDie ln)).cache.filter fun e => Machine.setOf e.1 == Machine.setOf ln).length < 12

/-- The L1 of a core has room for a line in its set of 16 ways, at most by dropping a line that it does not own (04 R95). -/
def hasL1Way (s : State) (g ln : Nat) : Prop :=
  let same := (coreG s g).l1.filter fun e => e.1 % 128 == ln % 128
  same.length < 16 ∨ ∀ e ∈ same, e.2.owned = false

/-- Memory reads as before but for `n` bytes at `a`, which hold a value. -/
def wrote (s u : State) (a n v : Nat) : Prop :=
  ∀ b, memByte u b = if a ≤ b ∧ b < a + n then BitVec.ofNat 8 (v / 256 ^ (b - a)) else memByte s b

/-- Memory reads as before but for the bytes of some accesses, the later of which stand where two overlap. -/
def wroteAll (s u : State) (ps : List Piece) : Prop := ∀ b, memByte u b = overlay ps (memByte s) b

/-- The accesses of a store that reach the home of a sector as one write (03 R69): those of one instruction to the sector, under the same
attributes, that are still to be performed. -/
def together (x : Site1) (p : Piece) : Bool :=
  p.phase == 0 && p.space == .mem && p.addr / 32 == x.p.addr / 32 && p.attr == x.p.attr

/-- Memory reads as before. -/
def sameMemory (s u : State) : Prop := ∀ b, memByte u b = memByte s b

/-- A coach in which the accesses of an operation have become `ps`: the operation is done once all of them are complete, and what is done
leaves its counter. -/
def accessed (c : Coach) (id : Nat) (ps : List Piece) : Coach :=
  updateOp c id fun o => { o with pieces := ps, done := o.done || ps.all fun p => 2 ≤ p.phase }

/-- The same where one access has changed. -/
def performed (c : Coach) (o : Op) (i : Nat) (p : Piece) : Coach := accessed c o.id (o.pieces.set i p)

/-- What an atomic makes of the old value (14 R326). -/
def atomRule (aop n old x y : Nat) : Nat :=
  let o := BitVec.ofNat n old
  let v := BitVec.ofNat n x
  match aop with
  | 0 => (o + v).toNat
  | 1 => (o &&& v).toNat
  | 2 => (o ||| v).toNat
  | 3 => (o ^^^ v).toNat
  | 4 => if v.slt o then x else old
  | 5 => if o.slt v then x else old
  | 6 => if v.ult o then x else old
  | 7 => if o.ult v then x else old
  | 8 => x
  | 9 => (fp32.encode 0 false false (Val.add (fp32.decode false old) (fp32.decode false x) 0).1).1
  | _ => if old = x then y else old

/-- The bytes that one lane of a memory command takes (03 R78). -/
def cmdSize : CmdKind → Nat
  | .mredI n => n / 8
  | .mredF _ => 8
  | .mcas n => n / 8
  | .msax => 32
  | .mwrm => 4

/-- The value of `n` bytes, and memory with `n` bytes replaced. -/
def valueAt (f : Nat → Byte) (a n : Nat) : Nat := leNat ((List.range n).map fun i => f (a + i))
def putAt (f : Nat → Byte) (a n v : Nat) (b : Nat) : Byte := if a ≤ b ∧ b < a + n then BitVec.ofNat 8 (v / 256 ^ (b - a)) else f b

/-- What one lane of a memory command makes of memory (03 R78). -/
def cmdRule (k : CmdKind) (m : Mode) (p : Piece) (f : Nat → Byte) : Nat → Byte :=
  match k with
  | .mredI n => putAt f p.addr (n / 8) (valueAt f p.addr (n / 8) + p.data)
  | .mredF e => putAt f p.addr 8 (mredF (valueAt f p.addr 8) p.data e m.ftz).1
  | .mcas n => if valueAt f p.addr (n / 8) = p.data then putAt f p.addr (n / 8) p.data2 else f
  | .msax => fun b =>
    let w := (b - p.addr) / 4
    if 7 < w then f b else putAt f (p.addr + 4 * w) 4 (msaxWord m p.data (p.data2 / 2 ^ (32 * w) % 2 ^ 32) (valueAt f (p.addr + 4 * w) 4)).1 b
  | .mwrm => fun b => if p.addr ≤ b ∧ b < p.addr + 4 ∧ p.data2.testBit (b - p.addr) then BitVec.ofNat 8 (p.data / 256 ^ (b - p.addr)) else f b

/-- The same of the accesses to one sector, one after another. -/
def cmdRules (k : CmdKind) (m : Mode) (ps : List Piece) (f : Nat → Byte) : Nat → Byte := ps.foldl (fun f p => cmdRule k m p f) f

end Sys2Proof.Rules
end

