-- ==== Sys2Proof/Certificates/Slice0/StepRules.lean ====
section
/-! DEFINITION. What the rules give the outrider, the copy channels, the streams, the matrix unit and the ring, in words that the statements
share. -/

namespace Sys2Proof.Rules

open Sys2Proof.Machine

/-! ## The outrider (14 R329, 08 R207) -/

/-- The address of an element of a QLD or QST: s[a] + j·s[b] + i·lstride (14 R329). -/
def elementAt (o : Outrider) (a b : BitVec 8) (lit : W32) (j i : Nat) : W64 :=
  low64 ((outriderReg o a.toNat).toNat + j * (outriderReg o b.toNat).toNat + i * (lit.extractLsb' 16 16).toInt)

/-- A coach after an entry of a stream instruction: the accesses are outstanding, in lane order, the entry is taken, and the context stands at
its next entry or behind the instruction. Other ports stand as they were. -/
def entryTaken (s : State) (c : Coach) (q n : Nat) (kind : OpKind) (ps : List Piece) (w : Coach) : Prop :=
  w = { c with ops := w.ops, nextOp := w.nextOp, last := w.last, ports := w.ports, outr := w.outr }
    ∧ (ps = [] → w.ops = c.ops ∧ w.nextOp = c.nextOp ∧ w.last = c.last)
    ∧ (ps ≠ [] → w.nextOp = c.nextOp + 1 ∧ w.last = s.nextId + 1 ∧ w.ops = c.ops
        ++ [{ id := c.nextOp, counter := .none, kind := kind, pieces := ps, outrider := true, stamp := s.nextId, cart := c.cart }])
    ∧ (portOf w q).taken = (portOf c q).taken + 1 ∧ (portOf w q).pos = (portOf c q).pos ∧ (portOf w q).dir = (portOf c q).dir
    ∧ (∀ j, j ≠ q → portOf w j = portOf c j)
    ∧ w.outr = if c.outr.progress + 1 < n then { c.outr with progress := c.outr.progress + 1, wait := false }
        else outriderMoved { c.outr with progress := 0 } 8

/-- The machine after an entry: the order of issue has moved on where there is an access. -/
def entryIssued (s : State) (key : Nat) (ps : List Piece) (w : Coach) : State :=
  { s.setCoach key w with nextId := if ps = [] then s.nextId else s.nextId + 1 }

/-- A coach in which an element's access has ended: the port is filled, or drained, as far as no access is open. -/
def elementDone (c : Coach) (o : Op) (i : Nat) (p : Piece) (q : Nat) : Coach :=
  performed (settlePort { c with ops := updFirst (fun n => n.id == o.id) (fun n => { n with pieces := o.pieces.set i p }) c.ops } q) o i p

/-! ## Copies and streams (05 R113 to R117, 14 R331, R334) -/

/-- Bits `hi` to `lo` of a number. -/
def field (w hi lo : Nat) : Nat := w / 2 ^ lo % 2 ^ (hi + 1 - lo)

/-- The form, the row length and the total length of a COPY, where its parameters keep the limits of 05 R114; `p` are the parameter registers. -/
def copyShape (lit : W32) (p : Nat → W64) : Option (Form × Nat × Nat) :=
  let p0 := (p 0).toNat
  let p1 := (p 1).toNat
  match field lit.toNat 1 0 with
  | 0 => if p0 ≤ 2 ^ 24 then some (.one, p0, p0) else none
  | 1 =>
    if 1 ≤ p0 ∧ p0 ≤ 2 ^ 16 ∧ 1 ≤ p1 ∧ p1 ≤ 2 ^ 16 ∧ p0 ≤ (p 3).toNat ∧ (p 3).toNat ≤ 2 ^ 32 ∧ p0 * p1 ≤ 2 ^ 24 then
      some (.two p1 (p 2).toInt (p 3).toNat, p0, p0 * p1)
    else none
  | _ =>
    let e := 4 * 2 ^ field lit.toNat 14 12
    if 1 ≤ p0 ∧ p0 ≤ 2 ^ 16 ∧ p0 * e ≤ 2 ^ 24 then some (.gather e p1, p0 * e, p0 * e) else none

/-- The end of a copy that a kind, a train-core index and a register name (05 R115): kind 0 is global memory. -/
def endOfCopy (kind tc : Nat) (v : W64) : Endpoint := if kind = 0 then .glob v else .buf kind tc v

/-- The operation of a copy, behind those of its coach. -/
def copyIssued (s : State) (x : Iss) : Coach :=
  let o : Op :=
    { opBy x .cp (.copy s.nextId) with id := x.c.nextOp, lanes := x.k.lanes, stamp := s.nextId + 1, cart := x.c.cart }
  { x.c with ops := x.c.ops ++ [o], nextOp := x.c.nextOp + 1, last := s.nextId + 2 }

/-- What a copy takes from its issue whatever its ends. -/
def copyBy (s : State) (x : Iss) (y : Copy) : Prop :=
  y.id = s.nextId ∧ y.train = x.c.train ∧ y.issuer = some (x.c.key, x.c.nextOp) ∧ y.ctx = ctxOf x.c x.k.level ∧ y.level = x.k.level
    ∧ y.ch = x.c.ch ∧ y.lanes = x.k.lanes ∧ y.cart = x.c.cart ∧ y.phase = 0 ∧ y.front = 0 ∧ y.done = [] ∧ y.fail = none ∧ y.windows = []

/-- The registers of a carriage as the operands of STRM name them. -/
def sreg (x : Iss) (n i : Nat) : W64 := readS x.c x.k (n + i)

/-- What STRM open writes into its context (14 R334). -/
def streamFields (x : Iss) (a b : BitVec 8) (lit : W32) (z : Stream) : Prop :=
  let w := lit.toNat
  z.train = x.c.train ∧ z.src = x.c.ch ∧ z.dst = field w 4 1 ∧ z.window = 256 * field w 21 13 ∧ z.vmid = x.c.vmid.toNat
    ∧ z.pasid = x.c.pasid.toNat ∧ z.srcKind = field w 10 9 ∧ z.srcCore = field w 12 11 ∧ z.dstKind = field w 6 5 ∧ z.dstCore = field w 8 7
    ∧ z.srcBase = sreg x a.toNat 0 ∧ z.srcLen = (sreg x a.toNat 1).toNat ∧ z.srcRows = (sreg x a.toNat 2).toNat
    ∧ z.srcStride = sreg x a.toNat 3 ∧ z.dstBase = sreg x b.toNat 0 ∧ z.dstLen = (sreg x b.toNat 1).toNat
    ∧ z.dstRows = (sreg x b.toNat 2).toNat ∧ z.dstStride = sreg x b.toNat 3
    ∧ z.claimed = 0 ∧ z.sent = 0 ∧ z.next = 0 ∧ z.credited = 0 ∧ z.err = false ∧ z.closing = false

/-- A byte of local memory, as it reads, or of a typed buffer. -/
def spotByte (s : State) (p : Spot) : Byte :=
  match p.space with
  | .buf kind g => if kind = 4 then cget (coreG s g).cells p.addr else cget (bufCells (coreG s g) kind) p.addr
  | _ => memByte s p.addr

/-- A place of local memory or of a typed buffer; and one of which there is one copy. -/
def inside (p : Spot) : Prop := p.space = .mem ∨ ∃ kind g, p.space = .buf kind g ∧ kind ∈ [1, 2, 3, 4]
def single (p : Spot) : Prop := inside p ∧ (p.space = .mem → p.attr.repl = false)

/-- The channel context of a train. -/
def channelOf (s : State) (train chan : Nat) : Option Channel := (trainOf s train).map fun t => (mget t.chans chan).getD {}

/-- A channel context after a change, and nothing else of the machine. -/
def withChannel (s : State) (train chan : Nat) (f : Channel → Channel) : State :=
  s.setTrain train fun t => { t with chans := mset t.chans chan (f ((mget t.chans chan).getD {})) }

/-- A packet from a stop to another, on the shorter open way. -/
def packet (s : State) (src dst : Nat) (load : Load) : Packet :=
  { id := s.nextId, seq := s.nextId, src := src, dst := dst, stop := src, west := !goesEast s src dst, load := load }

/-- Packets without one, and without a copy of it that its source has sent again (07 R177). -/
def packetsWithout (s : State) (p : Packet) : List Packet := s.packets.filter fun q => q.seq != p.seq

/-- Every lane of the carriage traps with one cause and address. -/
def carriageTraps (s : State) (x : Iss) (i : Instr) (len cause : Nat) (a : W64) : Prop :=
  ∃ (u : State) (ts : List LaneTrap), exec i s = .next (takeTrap u x.c x.slot x.k ts (afterInstr x.k len)) ∧ onlyIssued s u
    ∧ ts.map LaneTrap.lane = lanesOf x.k.lanes ∧ ∀ t ∈ ts, t.cause = cause ∧ t.addr = a

end Sys2Proof.Rules
end

