-- ==== Sys2Proof/Certificates/Slice0/UnitRules.lean ====
section
/-! DEFINITION. What the rules give the matrix unit, the ring, and the units of the chassis, in words that the statements share. -/

namespace Sys2Proof.Rules

open Sys2Proof.Machine

/-! ## Matrix instructions at issue (15 R336 to R358) -/

/-- A range of a window of `size` bytes; `n` bytes from `o`. -/
def fits (size : Nat) (o : Int) (n : Nat) : Prop := 0 ≤ o ∧ o + n ≤ size

/-- The tokens granted to a carriage have gone back to the purse of its chassis, which holds no more than its limit (15 R336, R357). -/
def tokensBack (s u : State) (x : Iss) : Prop :=
  (chassisOf u x.c.ch).purse
    = max (chassisOf s x.c.ch).purse (min 8388608 ((chassisOf s x.c.ch).purse + (mget x.c.granted x.slot).getD 0))

/-- A check of a matrix instruction fails: every lane traps with the cause and address, its tokens go back, and nothing else is done. -/
def matrixTraps (s : State) (x : Iss) (i : Instr) (len cause : Nat) (a : W64) : Prop :=
  ∃ (u : State) (ts : List LaneTrap),
    exec i s = .next (takeTrap u { x.c with granted := mdel x.c.granted x.slot } x.slot x.k ts (afterInstr x.k len))
      ∧ onlyIssued s u ∧ tokensBack s u x ∧ ts.map LaneTrap.lane = lanesOf x.k.lanes ∧ ∀ t ∈ ts, t.cause = cause ∧ t.addr = a

/-- The queue of the core's matrix unit has one more instruction, which counts in tl; its tokens are drawn. -/
def matrixQueued (s : State) (x : Iss) (i : Instr) (len : Nat) (t : Train) (b : FmtBlock) (what : MatOp) (work : Nat) : Prop :=
  ∃ u : State,
    let o : Op := { opBy x .tl .tile with id := x.c.nextOp, stamp := s.nextId, cart := x.c.cart, lanes := x.k.lanes }
    let e : MatEntry :=
      { coach := x.c.key, op := x.c.nextOp, train := t.id, tcore := x.c.tcore, fmt := b, what := what, level := x.k.level, fslot := x.k.fslot
        drawn := (mget x.c.granted x.slot).getD 0, work := work, issued := (chassisOf s x.c.ch).clk }
    let w : Coach :=
      { x.c with ops := x.c.ops ++ [o], nextOp := x.c.nextOp + 1, last := s.nextId + 1, granted := mdel x.c.granted x.slot }
    exec i s = .next (u.setCoach x.c.key (advance w x.slot len))
      ∧ u = { s with nextId := s.nextId + 1, chassis := u.chassis }
      ∧ ∀ d, chassisOf u d = { chassisOf s d with cores := (chassisOf u d).cores }
          ∧ ∀ n, coreOf u d n = { coreOf s d n with
              failed := (coreOf u d n).failed
              matq := if d = x.c.ch ∧ n = x.c.core then (coreOf s d n).matq ++ [e] else (coreOf s d n).matq }

/-- The first of several ranges of windows, by kind, offset and length, that does not fit, or of several offsets, by kind, offset and
multiple, that is not aligned, as the address of its fault (04 R87). -/
def firstOutside (w : Windows) : List (Nat × Int × Nat) → W64 → Prop
  | [], _ => False
  | (kind, o, n) :: rs, a => (¬fits (w.of kind).2 o n ∧ a = windowAddr kind o) ∨ (fits (w.of kind).2 o n ∧ firstOutside w rs a)
def firstCrooked : List (Nat × Int × Nat) → W64 → Prop
  | [], _ => False
  | (kind, o, m) :: rs, a => (o % m ≠ 0 ∧ a = windowAddr kind o) ∨ (o % m = 0 ∧ firstCrooked rs a)

/-- Every range fits, and every offset is aligned. -/
def allFit (w : Windows) (rs : List (Nat × Int × Nat)) : Prop := ∀ r ∈ rs, fits (w.of r.1).2 r.2.1 r.2.2
def allEven (rs : List (Nat × Int × Nat)) : Prop := ∀ r ∈ rs, r.2.1 % (r.2.2 : Int) = 0

/-- Checks 4 and 5 of a matrix instruction, and its entry into the queue when they pass. -/
def windowChecks (s : State) (x : Iss) (i : Instr) (len : Nat) (w : Windows) (rs os : List (Nat × Int × Nat)) (passes : Prop) : Prop :=
  (∀ a, firstOutside w rs a → matrixTraps s x i len 0x13 a)
    ∧ (∀ a, allFit w rs → firstCrooked os a → matrixTraps s x i len 6 a)
    ∧ (allFit w rs → allEven os → passes)

/-- Whether a type code has blocks; the scales of a B operand in the staging window (15 R340, R345). -/
def blocked (t : Nat) : Prop := t = 10 ∨ t = 11
def scalesB (f : Fmt) : List (Nat × Int × Nat) :=
  if f.bt = 10 then [(2, f.bScale, 256 * (512 / (16 * 2 ^ f.bb)))] else if f.bt = 11 then [(2, f.bScale, 128 * (512 / (16 * 2 ^ f.bb)))] else []

/-- The bits of a B element, the planes and the row bytes of A (15 R341). -/
def bitsB (t : Nat) : Nat := if t = 4 then 2 else if t = 11 then 16 else 8
def planesA (t : Nat) : Nat := if t = 3 then 4 else if t = 11 then 16 else 8

/-- A tile of the C-buffer. -/
def tileAt (t : Nat) : Nat × Int × Nat := (3, (0x20000 * t : Nat), 0x20000)

/-! ## The matrix unit (15 R343 to R358, 18 R403) -/

/-- The tokens that an instruction draws (15 R357). -/
def draws (f : Fmt) (prm : Nat) : Instr → Nat
  | .bld _ _ | .bgat _ _ _ => 256
  | .tmul _ _ _ _ => (field prm 5 0 + 1) * planesA f.at_ * 256
  | .tdrain _ _ _ _ => if prm.testBit 1 then 128 else 64
  | _ => 0

/-- The tokens that a queued instruction consumes with the segments active at its start (15 R357). -/
def consumes (k : Core) (f : Fmt) : MatOp → Nat
  | .bld _ | .bgat _ _ _ _ _ => 256
  | .tmul _ _ m _ _ => m * planesA f.at_ * (List.range 256).countP fun i => k.segs.getLsbD i
  | .tdrain _ prm _ _ _ => if prm.getLsbD 1 then 128 else 64
  | _ => 0

/-- Whether a clock is a work clock (15 R358, 03 R81). -/
def worksAt (ts clk : Nat) : Prop :=
  (ts = 0 ∧ clk % 64 ≠ 63) ∨ (ts = 1 ∧ clk % 32 ≠ 31) ∨ (ts = 2 ∧ clk % 2 = 0) ∨ (ts = 3 ∧ clk % 4 = 0)

/-- A cell of the macro image; element k of an A row; weight (k, j) of the resident B (15 R343, R350). -/
def cell (k : Core) (row n : Nat) : Byte := cget k.cells (256 * row + n)
def aValue (f : Fmt) (row : Nat → Byte) (k : Nat) : Int :=
  if f.at_ = 3 then (BitVec.ofNat 4 ((row (k / 2)).toNat / 16 ^ (k % 2))).toInt
  else if f.at_ = 11 then (row (2 * k + 1) ++ row (2 * k)).toInt
  else (row k).toInt
def bValue (k : Core) (bt row j : Nat) : Int :=
  if bt = 4 then [0, 1, 0, -1].getD ((cell k row (j / 4)).toNat / 4 ^ (j % 4) % 4) 0
  else if bt = 11 then (cell k row (2 * j + 1) ++ cell k row (2 * j)).toInt
  else (cell k row j).toInt

/-- The weight columns of a B type, and the rows of a block (15 R340, R341). -/
def columnsB (bt : Nat) : Nat := if bt = 4 then 1024 else if bt = 11 then 128 else 256
def rowsIn (t code : Nat) : Nat := if t = 10 ∨ t = 11 then 16 * 2 ^ code else 256

/-- The exponent of a scale byte (15 R345, R350). -/
def scaleTerm (t e : Nat) : Int := if t = 10 then e - 127 - 6 else if t = 11 then e - 127 - 14 else 0

/-- The captured scale of a column at a row (15 R345): those of the columns from 256 on are 127. -/
def scaleOf (k : Core) (row j : Nat) : Nat := if 256 ≤ j then 127 else ((mget k.scales (32 * j + row / k.scaleBlock)).getD 127).toNat

/-- An element of a TMUL (15 R350): group after group, exact partial sums enter the accumulator; a group with a scale of 0xFF gives IV alone. -/
def tmulElement (k : Core) (f : Fmt) (row : Nat → Byte) (scaleA : Nat → Nat) (j x : Nat) : Nat × FlagSet :=
  let g := min (rowsIn f.at_ f.ab) (rowsIn f.bt f.bb)
  (List.range (512 / g)).foldl (fun q n =>
    let ks := n * g
    let ea := scaleA (ks / rowsIn f.at_ f.ab)
    let eb := scaleOf k ks j
    if ((f.at_ = 10 ∨ f.at_ = 11) ∧ ea = 255) ∨ eb = 255 then (q.1, q.2 ||| fIV)
    else
      let ps : Int := ((List.range g).map fun i => aValue f row (ks + i) * bValue k f.bt (ks + i) j).sum
      let r := accAdd q.1 ps (scaleTerm f.at_ ea + scaleTerm f.bt eb - f.eacc)
      (r.1, q.2 ||| r.2)) (x, 0)

/-- The place of an element of a tile in the C-buffer (04 R94), and its word. -/
def tilePlace (w : Windows) (tile row col : Nat) : Nat := w.cBase + 0x20000 * tile + 8 * (256 * row + col)
def tileWord (k : Core) (w : Windows) (tile row col : Nat) : Nat := valueAt (cget k.cBuf) (tilePlace w tile row col) 8

/-- A resident B with the cells of BLD or BGAT, and the scales that they capture (15 R344, R345). -/
def residentB (k : Core) (w : Windows) (f : Fmt) (es : List MatEntry) (k' : Core) : Prop :=
  k' = { k with matq := es, cells := k'.cells, segs := k'.segs, scales := k'.scales, csrerr := k'.csrerr, btype := BitVec.ofNat 4 f.bt
                scaleBlock := rowsIn f.bt f.bb }
    ∧ ∀ j b, j < 256 → b < 512 / rowsIn f.bt f.bb → (mget k'.scales (32 * j + b)).getD 127
      = if (f.bt = 10 ∨ f.bt = 11) ∧ j < columnsB f.bt then cget k.wBuf (w.wBase + f.bScale + j * (512 / rowsIn f.bt f.bb) + b) else 127

/-- The machine as a queued instruction leaves it: the coach has no more of it, and its level's flags have been raised. -/
def leftTile (s : State) (e : MatEntry) (c : Coach) : State := s.setCoach e.coach (updateOp c e.op fun o => { o with done := true })

/-- A reduction with the contribution of a core gathered (07 R172, 15 R355): element by element added at its chassis, part by part of 32
elements, and counted there once it is the last of k. -/
def contributed (r : Reduction) (x : Contribution) (whole differs : Bool) (sums : List RxSum) (r' : Reduction) : Prop :=
  r' = { r with contribs := r.contribs ++ [x], sums := r'.sums, incl := r'.incl, bad := r.bad || differs
                sent := if whole then r.sent ||| (1#16 <<< x.ch) else r.sent }
    ∧ (∀ i, i < r.n / 32 →
      let mine := (sums.drop (32 * i)).take 32
      mget r'.sums (512 * x.ch + i)
          = some ((mget r.sums (512 * x.ch + i)).elim mine fun old => List.zipWith (fun a b => ((a.1 + b.1) % 2 ^ 80, a.2 || b.2)) old mine)
        ∧ mget r'.incl (512 * x.ch + i) = some (Nat.lor ((mget r.incl (512 * x.ch + i)).getD 0) (if whole then 2 ^ x.ch else 0)))
    ∧ ∀ m, (∀ i, i < r.n / 32 → m ≠ 512 * x.ch + i) → mget r'.sums m = mget r.sums m ∧ mget r'.incl m = mget r.incl m

/-- A reduction of which a stop has sent on what it had gathered: nothing of it is left there. -/
def sentFrom (g : Reduction) (d : Nat) (r' : Reduction) : Prop :=
  r' = { g with sums := r'.sums, incl := r'.incl }
    ∧ (∀ i, i < g.n / 32 → mget r'.sums (512 * d + i) = none ∧ mget r'.incl (512 * d + i) = none)
    ∧ ∀ m, (∀ i, i < g.n / 32 → m ≠ 512 * d + i) → mget r'.sums m = mget g.sums m ∧ mget r'.incl m = mget g.incl m

/-- The packets that carry on what a stop has gathered of every part, numbered from `m` on. -/
def sumPackets (s : State) (g : Reduction) (d m : Nat) : List Packet :=
  (List.range (g.n / 32)).map fun j =>
    { packet s d g.args.root (.reduction g.id ((mget g.incl (512 * d + j)).getD 0) j ((mget g.sums (512 * d + j)).getD [])) with
      id := m + j, seq := m + j }

/-- Whether the root's sums hold the contributions of every chassis of the mask but those that are parked, whether some are still on their
way, and whether the mask spans two segments of a divided ring (07 R178, R179, 15 R355). -/
def wholeAtRoot (s : State) (r : Reduction) : Prop :=
  ∀ i d, i < r.n / 32 → d < 16 → r.args.mask.getLsbD d = true →
    ((mget r.incl (512 * r.args.root + i)).getD 0).testBit d = true ∨ parkedDie s d = true
def sumsTravel (s : State) (r : Reduction) : Prop :=
  (∃ d i, d < 16 ∧ d ≠ r.args.root ∧ i < r.n / 32 ∧ (mget r.sums (512 * d + i)).isSome = true)
    ∨ ∃ p ∈ s.packets, ∃ mask part sums, p.load = .reduction r.id mask part sums
def divided (s : State) (r : Reduction) : Prop := ∃ d, d < 16 ∧ r.args.mask.getLsbD d = true ∧ reachable s d r.args.root = false

/-- The root's rounding (07 R173): its sums, or every element invalid. -/
def roundedAt (r : Reduction) (bad : Bool) : Reduction :=
  let sums : List RxSum := if bad then List.replicate r.args.n (0, true)
    else (List.range (r.n / 32)).flatMap fun i => (mget r.sums (512 * r.args.root + i)).getD (List.replicate 32 (0, false))
  let results := sums.map (roundRx r.args.out r.args.rnd r.args.sat r.args.e)
  { r with bad := bad, results := some (results.map Prod.fst), flags := results.foldl (fun f x => f ||| x.2) 0 }

/-- What the root makes of a reduction: it rounds once all of it is there, or at once where the ring divides it. -/
def rootChecked (s : State) (r r' : Reduction) : Prop :=
  (r.results ≠ none → r' = r)
    ∧ (r.results = none → divided s r → r' = roundedAt r true)
    ∧ (r.results = none → ¬divided s r → wholeAtRoot s r → ¬sumsTravel s r → r' = roundedAt r r.bad)
    ∧ (r.results = none → ¬divided s r → (¬wholeAtRoot s r ∨ sumsTravel s r) → r' = r)

/-! ## The ring (07 R161 to R182) -/

/-- The hop of a port, by the ring position west of it. -/
def hopAt (d : Nat) (p : Port) : Nat := if p = .east then d % 16 else (d + 15) % 16

/-- The link at a port of a chassis; a chassis whose link there is changed. -/
def linkAt (c : Chassis) (p : Port) : Link := match p with | .east => c.east | .west => c.west | .peer => c.peer
def withLink (c : Chassis) (p : Port) (l : Link) : Chassis :=
  match p with
  | .east => { c with east := l }
  | .west => { c with west := l }
  | .peer => { c with peer := l }

/-- Both ends of a hop, changed. -/
def hopEnds (s : State) (h : Nat) (f : Link → Link) : State :=
  let u := s.setChassis h { chassisOf s h with east := f (chassisOf s h).east }
  u.setChassis ((h + 1) % 16) { chassisOf u ((h + 1) % 16) with west := f (chassisOf u ((h + 1) % 16)).west }

/-- Whether a packet that goes a way from a stop takes a hop before its end. -/
def onWay (west : Bool) (a b h : Nat) : Bool := if west then crossesEast b a h else crossesEast a b h

/-- What becomes of a packet when a hop goes down (07 R177): one that has still to take a hop that is down turns where it stands, or, where that
does not help or the hop is the next one, is sent again by its source stop; so is one that has just come over the hop, of which the retry
buffer has a copy. It keeps the number that its source gave it. -/
def resentPackets (s : State) (h : Nat) (p : Packet) (id : Nat) : List Packet :=
  let blocked (west : Bool) : Bool := (List.range 16).any fun g => (chassisOf s g).east.state == 3 && onWay west p.stop p.dst g
  let next := if p.west then (p.stop + 15) % 16 else p.stop
  let crossed := p.src ≠ p.stop ∧ p.stop = if p.west then h else (h + 1) % 16
  let again (id : Nat) : Packet := { p with id := id, stop := p.src, west := !goesEast s p.src p.dst, vc := 0, arrived := false }
  if ¬(p.arrived = true ∧ p.stop = p.dst) ∧ blocked p.west = true then
    if next = h ∨ blocked (!p.west) = true then [again p.id] else [{ p with west := !p.west }]
  else if crossed ∧ reachable s p.src p.dst = true then [p, again id]
  else [p]

/-- All packets after a hop has gone down. -/
def turned (s : State) (h : Nat) : State :=
  { s with
    nextId := s.nextId + s.packets.length
    packets := (List.range s.packets.length).flatMap fun i => match s.packets[i]? with
      | some p => resentPackets s h p (s.nextId + i)
      | none => [] }

/-- An access that has failed with a cause; what its destination holds is a free value (01 R32, 06 R152). -/
def accessFailed (s : State) (r : OpRef) (x : Site1) (cause : Nat) : State :=
  let (bs, u) := takeFreeBytes s x.p.size
  u.setCoach r.key (performed (deliver x.c x.p (leNat bs)) x.o r.piece { x.p with phase := 2, err := some cause })

/-! ## Translation (02 R40 to R58) -/

/-- How a walk fails: the stage (1, 2, or 3 for H), the reason and the level (02 R50). -/
abbrev WalkFail := Nat × Nat × Nat

/-- An entry is a table pointer where r, w and x are zero (02 R42). -/
def isTable (e : Nat) : Bool := field e 3 1 == 0

/-- The span of one entry, and the size of the page of a leaf (02 R43). -/
def spanOf (lv : Nat) : Nat := 4096 * 512 ^ lv
def pageOf (e lv : Nat) : Nat := spanOf lv * [1, 4, 16, 1].getD (field e 9 8) 1

/-- A malformed entry (02 R42). -/
def badEntry (e lv : Nat) : Bool :=
  if field e 63 56 ≠ 0 then true
  else if isTable e then lv = 0 ∨ field e 11 4 ≠ 0 ∨ field e 55 52 ≠ 0
  else lv = 4 ∨ lv = 3 ∨ (e.testBit 2 ∧ !e.testBit 1) ∨ (e.testBit 2 ∧ e.testBit 3) ∨ field e 9 8 = 3 ∨ field e 11 10 = 3
    ∨ (field e 9 8 = 1 ∧ lv ≠ 0) ∨ field e 51 12 * 4096 % spanOf lv ≠ 0
    ∨ (e.testBit 53 ∧ e.testBit 54) ∨ ((e.testBit 53 ∨ e.testBit 54) ∧ field e 51 40 ≠ 0)

/-- The address that a leaf gives (02 R44, R45): within its page, which is that of a contiguous group. -/
def leafAt (e lv ia : Nat) : Nat := field e 51 12 * 4096 / pageOf e lv * pageOf e lv + ia % pageOf e lv

/-- Load(a, 8) of a table entry at a physical address, from memory as `M` gives it. -/
def loadEntry (M : Nat → W64) (st a lv : Nat) : Except WalkFail Nat := if 1 < field a 51 40 then .error (st, 5, lv) else .ok (M a).toNat

/-- Stage(ia, t, st) of 02 R45 from a level down, over a way to read entries. -/
def stageOf (read : Nat → Nat → Except WalkFail Nat) (st ia : Nat) : Nat → Nat → Except WalkFail (Nat × Nat × Nat)
  | lv, t =>
    let a := t + 8 * if lv = 4 then field ia 55 48 else field ia (20 + 9 * lv) (12 + 9 * lv)
    match read a lv with
    | .error f => .error f
    | .ok e =>
      if !e.testBit 0 then .error (st, 1, lv)
      else if badEntry e lv then .error (st, 2, lv)
      else if isTable e then (match lv with
        | 0 => .error (st, 2, 0)
        | n + 1 => stageOf read st ia n (field e 51 12 * 4096))
      else .ok (e, lv, a)

/-- ReadEntry(a, 1, lv) of 02 R45: with stage 2 on, an access at an IPA. -/
def readAt1 (r : Roots) (M : Nat → W64) (a lv : Nat) : Except WalkFail Nat :=
  if r.s2tb.testBit 0 then
    match stageOf (loadEntry M 2) 2 a 4 (field r.s2tb 51 12 * 4096) with
    | .error f => .error f
    | .ok (e, n, _) => if !e.testBit 1 then .error (2, 3, n) else loadEntry M 1 (leafAt e n a) lv
  else loadEntry M 1 a lv

/-- Whether a leaf gives an access kind what it needs (02 R48). -/
def grants (e : Nat) (a : Acc) : Bool :=
  match a with
  | .read => e.testBit 1
  | .write => e.testBit 2
  | .atomic => e.testBit 1 && e.testBit 2
  | .exec => e.testBit 3

/-- Whether the first stage also lets the level have it: U needs u, S and H fetch from pages without it (02 R48). -/
def levelMay (e : Nat) (a : Acc) (x : Level) : Bool := if x = .U then e.testBit 4 else !(a == .exec && e.testBit 4)

/-- Whether an update of a stage-1 leaf is due (02 R49), and the leaf of its table page denies it. -/
def updateDenied (r : Roots) (M : Nat → W64) (e at_ : Nat) (a : Acc) : Option WalkFail :=
  if (e.testBit 6 ∧ (!(a == .write || a == .atomic) ∨ e.testBit 7)) ∨ !r.s2tb.testBit 0 then none else
  match stageOf (loadEntry M 2) 2 at_ 4 (field r.s2tb 51 12 * 4096) with
  | .ok (f, n, _) => if f.testBit 2 then none else some (2, 3, n)
  | .error f => some f

/-- The walk of 02 R45 to R49 over memory as it stands: the leaves of both stages, or its failure; the bits a and d are updated before placement
refuses the access (R46). -/
def walkRule (r : Roots) (m : Miss) (M : Nat → W64) : Except WalkFail ((Nat × Nat) × Option (Nat × Nat)) :=
  let va := m.page * 4096
  if m.ctx.hyp then
    match stageOf (loadEntry M 3) 3 va 4 (field r.ttbr 51 12 * 4096) with
    | .error f => .error f
    | .ok (e, n, _) =>
      if !(grants e m.acc && levelMay e m.acc m.level) then .error (3, 3, n)
      else if e.testBit 53 && m.acc == .atomic then .error (3, 4, n)
      else .ok ((e, n), none)
  else if 2 ^ min (field r.cdtb 4 0) 20 ≤ m.ctx.pasid then .error (1, 1, 5)
  else match readAt1 r M (field r.cdtb 51 12 * 4096 + 8 * m.ctx.pasid) 5 with
    | .error f => .error f
    | .ok c =>
      if !c.testBit 0 then .error (1, 1, 5)
      else if field c 11 1 ≠ 0 ∨ field c 63 52 ≠ 0 then .error (1, 2, 5)
      else match stageOf (readAt1 r M) 1 va 4 (field c 51 12 * 4096) with
        | .error f => .error f
        | .ok (e, n, at_) =>
          let denied1 : Option WalkFail := if !(grants e m.acc && levelMay e m.acc m.level) then some (1, 3, n) else none
          let finish (x : Except WalkFail (Option (Nat × Nat))) : Except WalkFail ((Nat × Nat) × Option (Nat × Nat)) :=
            match x with
            | .error f => .error f
            | .ok l =>
              let denied2 : Option WalkFail := match l with
                | some (f, k) => if !grants f m.acc then some (2, 3, k) else none
                | none => none
              let copies : Option WalkFail := match l with
                | some (f, k) => if f.testBit 53 && m.acc == .atomic then some (2, 4, k) else none
                | none => if e.testBit 53 && m.acc == .atomic then some (1, 4, n) else none
              (match denied1.orElse fun _ => denied2.orElse fun _ => (updateDenied r M e at_ m.acc).orElse fun _ => copies with
              | some f => .error f
              | none => .ok ((e, n), l))
          if r.s2tb.testBit 0 then
            finish (match stageOf (loadEntry M 2) 2 (leafAt e n va) 4 (field r.s2tb 51 12 * 4096) with
              | .error f => .error f
              | .ok (f, k, _) => .ok (some (f, k)))
          else finish (.ok none)

/-- The cause of a failure (02 R50). -/
def walkCause (f : WalkFail) : Nat := if f.1 = 2 then 9 else if f.2.1 = 3 ∨ f.2.1 = 4 then 5 else 4

/-- The attributes of a combination (02 R46). -/
def attrRule (e : Nat) (l : Option (Nat × Nat)) : Attr :=
  match l with
  | none => { cp := field e 11 10, atomic := e.testBit 52, bank := e.testBit 55, repl := e.testBit 53 }
  | some (f, _) =>
    { cp := max (field e 11 10) (field f 11 10), atomic := e.testBit 52 || f.testBit 52, bank := e.testBit 55 || f.testBit 55
      repl := f.testBit 53 }

/-- What an invalidation removes of the TLBs (02 R54): kind, PASID, VMID and address; one may remove more than it names. -/
def removes (kind pasid vmid va : Nat) (e : TlbEntry) : Prop :=
  let us : Prop := e.ctx.hyp = false ∧ e.ctx.vmid = vmid
  let inside : Prop := e.va ≤ va ∧ va < e.va + e.size
  match kind with
  | 0 => us ∧ (e.glob = true ∨ e.ctx.pasid = pasid) ∧ inside
  | 1 => us ∧ e.glob = false ∧ e.ctx.pasid = pasid
  | 2 => us
  | 3 => us ∧ e.s2.isSome = true ∧ va / 4096 ∈ e.ipas
  | 4 => us
  | 5 => e.ctx.hyp = true ∧ inside
  | _ => True

/-- The words of a page that are literals: those behind a two-word instruction that is not a literal itself (02 R56). -/
def literalWord (w : Nat → Nat) : Nat → Bool
  | 0 => false
  | n + 1 => !literalWord w n && twoWordOpcode (opcodeOf (w n))

/-- Whether the scanner lets a word of a page be an instruction (02 R56, 10 R251, R259). -/
def scannedWord (w : Nat → Nat) (n : Nat) : Bool :=
  match decodeWords (w n) 0 with
  | .error _ => false
  | .ok i =>
    if twoWordOpcode (opcodeOf (w n)) then n != 1023
    else match i with
      | .rep _ d a b _ => n != 1023 && repeatable d a b (w (n + 1))
      | _ => true

end Sys2Proof.Rules
end

