-- ==== Sys2Proof/Certificates/Slice0/HostRules.lean ====
section
/-! DEFINITION. What the rules give the host interface and the firmware core: the event queue, the places that BAR2 reaches, the registers of
the control window. -/

namespace Sys2Proof.Rules

open Sys2Proof.Machine

/-! ## The event queue (21 R435, 19 R411) -/

/-- The number of entries of the event ring. -/
def ringSize (s : State) : Nat :=
  let n := s.evqCtl.toNat % 32
  2 ^ (if n < 6 then 6 else if 16 < n then 16 else n)

/-- The event queue is enabled, and not full. -/
def queueOpen (s : State) : Prop := s.evqBase.toNat % 2 = 1 ∧ (s.evqTail - s.evqHead).toNat ≠ ringSize s

/-- The 32 bytes of an entry. -/
def eventEntry (e : HostEvent) : List Byte :=
  let x := e.ty % 2 ^ 8 + 2 ^ 8 * (e.ch % 2 ^ 8) + 2 ^ 16 * (e.handle % 2 ^ 16) + 2 ^ 32 * (e.who % 2 ^ 32)
  (List.range 32).map fun i => BitVec.ofNat 8 (if i < 8 then x / 256 ^ i else e.data.getD (i / 8 - 1) 0 / 256 ^ (i % 8))

/-- An event written to the ring: the entry, then the tail, then the message. -/
def toRing (s : State) (e : HostEvent) : State :=
  { s with
    hostWrites := s.hostWrites ++ [(field s.evqBase.toNat 49 12 * 4096 + 32 * (s.evqTail.toNat % ringSize s), eventEntry e)]
    evqTail := s.evqTail + 1
    msix := s.msix ++ [(0, field s.evqCtl.toNat 10 5)] }

/-- `u` is the machine `s` after an event: in the ring; or, where the queue takes none or older ones wait, in the outbound store of the chassis;
or, where that is full, lost and counted. -/
def sends (s : State) (e : HostEvent) (u : State) : Prop :=
  let c := chassisOf s e.ch
  (queueOpen s → c.outbound = [] → u = toRing s e)
    ∧ (¬(queueOpen s ∧ c.outbound = []) →
      (c.outbound.length < 16 → u = s.setChassis e.ch { c with outbound := c.outbound ++ [e], overflow := true })
        ∧ (16 ≤ c.outbound.length → u = s.setChassis e.ch { c with lost := min 65535 (c.lost + 1) }))

/-- bootstage as it reads (21 R437). -/
def stageWord (s : State) : Nat := (s.stage + 256 * s.stageErr + 65536 * s.memok.toNat) % 2 ^ 64

/-! ## BAR2 (21 R432, R433) -/

/-- The function that owns a chassis. -/
def ownedBy (s : State) (d : Nat) : Nat := let f := (chassisOf s d).func.toNat; if f ≤ 16 then f else 0

/-- The chassis of a function in ascending order. -/
def chassisFor (s : State) (f : Nat) : List Nat := (List.range 16).filter fun d => ownedBy s d = f

/-- The chassis-window address that an offset of BAR2 reaches. -/
def barPlace (s : State) (f off : Nat) : Option Nat :=
  if f = 0 then (if off < 2 ^ s.bar2 then some off else none)
  else if f ≤ 16 then ((chassisFor s f)[off / 2 ^ 36]?).map fun d => d * 2 ^ 36 + off % 2 ^ 36
  else none

/-- Nothing keeps an access from `d0` to `n` bytes of a chassis: before S1 only d0's memory is there, before S2 the ring is not used, and
the homes of its lines take accesses. -/
def barOpen (s : State) (a n : Nat) : Prop :=
  let d := a / 2 ^ 36 % 16
  ((s.stage = 0 ∧ d = 0) ∨ s.stage = 1 ∨ (2 ≤ s.stage ∧ reachable s 0 d = true ∧ pathOpen s 0 d = true))
    ∧ ∀ x ∈ sectorsOf a n, lineFree s (lineOf x.1)

/-- A host access is refused: beyond the BAR, before S1 at another chassis, or at one that nothing reaches. -/
def barRefused (s : State) (f off n : Nat) : Prop :=
  barPlace s f off = none ∨ barPlace s f (off + (n - 1)) = none
    ∨ ∃ a, barPlace s f off = some a ∧ ((s.stage = 0 ∧ a / 2 ^ 36 % 16 ≠ 0) ∨ (2 ≤ s.stage ∧ reachable s 0 (a / 2 ^ 36 % 16) = false))

/-- How a host read that is refused completes (21 R432, R433): an offset beyond the chassis of a virtual function, within the least power of
two that covers them, with unsupported request, and every other with completer abort. -/
def refusedAs (s : State) (f off n : Nat) : HostReply :=
  let x := if barPlace s f off = none then off else off + (n - 1)
  let c := (chassisFor s f).length
  if 1 ≤ f ∧ f ≤ 16 ∧ c * 2 ^ 36 ≤ x ∧ ∃ k < 5, 2 ^ k / 2 < c ∧ c ≤ 2 ^ k ∧ x < 2 ^ (36 + k) then .unsupported else .abort

/-- The host reaches the control block of a chassis: d0's alone before S1, and from S2 on over the ring (07 R176, R178, 21 R437). -/
def blockOpen (s : State) (d : Nat) : Prop :=
  (s.stage = 0 ∧ d = 0) ∨ s.stage = 1 ∨ (2 ≤ s.stage ∧ reachable s 0 d = true ∧ pathOpen s 0 d = true)

/-! ## Registers of the control window (00 R6, R7) -/

/-- A register after a write of all of it: the bits of `rw` take the value. -/
def written (old v rw : W64) : W64 := (old &&& ~~~rw) ||| (v &&& rw)

/-- The tokens granted to coaches that leave have gone back to the purse of their chassis, their requests are gone, and no instruction of theirs
waits at a translation check or at a fetch (18 R403, 19 R412). -/
def tokensReturned (s u : State) (out : Coach → Prop) : Prop :=
  ∀ d, (chassisOf s d).purse ≤ 8388608 → ∃ p : Coach → Bool, (∀ e ∈ s.coaches, (p e.2 = true ↔ out e.2))
    ∧ chassisOf u d = { chassisOf s d with
      misses := (chassisOf u d).misses, walks := (chassisOf u d).walks, cores := (chassisOf u d).cores
      reserved := (chassisOf u d).reserved
      purse := min 8388608 ((chassisOf s d).purse
        + ((s.coaches.filter fun e => p e.2 && e.2.ch == d).map fun e => ((List.range 4).map fun j => (mget e.2.granted j).getD 0).sum).sum)
      requests := (chassisOf s d).requests.filter fun q => !(s.coaches.any fun e => p e.2 && e.2.ch == d && e.2.key == q.1) }
    ∧ ∀ n, coreOf u d n = { coreOf s d n with misses := (coreOf u d n).misses, failed := (coreOf u d n).failed }
      ∧ ∀ f ∈ (coreOf u d n).failed, ∀ w ∈ f.miss.who, w.2.1 ≤ 4 → ∀ c, coachOf s w.1 = some c → ¬out c

/-- What a chassis holds for coaches that leave runs on for no one (02 R60): their matrix instructions name the key of no coach, 2^16, and no
token request is theirs. -/
def onlyOrphans (leaves : Nat → Prop) (c x : Chassis) : Prop :=
  x = { c with requests := x.requests, misses := x.misses, walks := x.walks, cores := x.cores }
    ∧ (∀ r, r ∈ x.requests ↔ r ∈ c.requests ∧ ¬leaves r.1)
    ∧ ∀ n, let k := (mget c.cores n).getD {}
      let j := (mget x.cores n).getD {}
      j = { k with matq := j.matq, misses := j.misses, failed := j.failed }
        ∧ List.Forall₂ (fun a b : MatEntry => (leaves a.coach → b = { a with coach := 2 ^ 16 }) ∧ (¬leaves a.coach → b = a)) k.matq j.matq

/-! ## Queues (18 R383 to R387) -/

/-- Byte 14 of a queue's descriptor lies at a chassis-window address. -/
def stateByte (s : State) (q a : Nat) : Prop :=
  ∃ h, resolve (field s.qtbase.toNat 51 12 * 4096 + 64 * q + 14) = some h ∧ h.wa = a

/-- The ring carries an access of any chassis to any other at this moment (07 R176 to R178). -/
def ringOpen (s : State) : Prop := ∀ a b, a < 16 → b < 16 → reachable s a b = true ∧ pathOpen s a b = true

/-- Accesses of memory meet no error and do not wait: the caches agree, the buses and the ring are up, and every home is free. -/
def calm (s : State) : Prop :=
  coherent s ∧ busesUp s ∧ quiet s ∧ ringOpen s ∧ s.doing.stall = none ∧ s.doing.ecc = .clean

/-- `v` is `s` after accesses that leave memory as it reads. -/
def still (s v : State) : Prop := v = { s with chassis := v.chassis, dram := v.dram, flaws := v.flaws } ∧ sameMemory s v

/-- Memory can be written at an aligned address, and is then as it stands. -/
def writeReady (s : State) (wa n : Nat) : Prop := wa % n = 0 ∧ calm s

/-- The bytes of a value at an address, over a memory. -/
def withBytes (m : Nat → Byte) (a n v b : Nat) : Byte := if a ≤ b ∧ b < a + n then BitVec.ofNat 8 (v / 256 ^ (b - a)) else m b

/-- Where the descriptor of a queue lies. -/
def descOf (s : State) (q : Nat) : Nat := field s.qtbase.toNat 51 12 * 4096 + 64 * q

/-- A queue that is served: the table is enabled and holds it, and it is enabled and has not stopped (18 R383, R385). -/
def served (s : State) (q : Nat) : Prop :=
  s.qtbase.getLsbD 0 = true ∧ q < 4096 ∧ q < s.qtsize ∧ descField s q 14 1 % 2 = 1 ∧ descField s q 14 1 / 2 % 2 = 0

/-- A descriptor keeps the rules of 18 R384. -/
def descFits (s : State) (q : Nat) : Prop :=
  descField s q 0 8 % 128 = 0 ∧ descField s q 8 4 < 2 ^ 20 ∧ 4 ≤ descField s q 12 1 ∧ descField s q 12 1 ≤ 16 ∧ descField s q 13 1 ≤ 3
    ∧ descField s q 14 1 ≤ 3 ∧ descField s q 15 1 ≤ 16 ∧ ∀ i, 36 ≤ i → i < 64 → descField s q i 1 = 0

/-- A queue with packets to consume (18 R388). -/
def hasWork (s : State) (q : Nat) : Prop := served s q ∧ descField s q 16 8 ≠ descField s q 24 8

/-- The chassis that translates for a queue: the lowest of its function. -/
def queueHome (s : State) (q : Nat) : Nat := (chassisFor s (descField s q 15 1)).headD 0

/-- Whether the host maps the queues of a function (18 R389, R390, 21 R440). -/
def hostMaps (s : State) (f : Nat) : Prop := ∃ d ds, chassisFor s f = d :: ds ∧ (chassisOf s d).duty.getLsbD 1 = true

/-- A queue is mapped in some slot. -/
def inSlot (s : State) (q : Nat) : Prop := ∃ n, n < 32 ∧ (fwSlotOf s n).valid = true ∧ (fwSlotOf s n).queue = q

/-! ## The end of a round (18 R389, R390) -/

/-- A write of a slot's register: a change of hostown unmaps the slot first; queue and valid change in a slot that is then the host's. -/
def slotWritten (v : State) (w : Nat × Bool × Bool) (f g : FwSlot) : Prop :=
  let x : FwSlot := if w.2.2 = f.hostown then f else { f with hostown := w.2.2, valid := false }
  (w.2.2 = false → g = x)
    ∧ (w.2.2 = true → ∃ b, g = { x with queue := w.1, valid := b, mapped := v.ns }
      ∧ (b = true ↔ w.2.1 = true ∧ hostMaps v (descField v w.1 15 1)))

/-- The same of the writes of a round, in their order. -/
def slotWrites (v : State) : List (Nat × Bool × Bool) → FwSlot → FwSlot → Prop
  | [], f, g => g = f
  | w :: ws, f, g => ∃ h, slotWritten v w f h ∧ slotWrites v ws h g

/-- A waiting queue that the firmware core maps: the host does not map those of its function (18 R390). -/
def mapsItself (s : State) (q : Nat) : Prop := ¬hostMaps s (descField s q 15 1)

/-- A list of waiting queues without the first `n` of those that a test names. -/
def withoutFirst (ok : Nat → Bool) : List Nat → Nat → List Nat
  | [], _ => []
  | q :: qs, n => if ok q = true ∧ 0 < n then withoutFirst ok qs (n - 1) else q :: withoutFirst ok qs n

/-- The firmware core has work in a slot: its queue has packets, and is the host's to map only in a slot of the host (18 R388, R390). -/
def slotWorks (s : State) (x : FwSlot) : Prop := hasWork s x.queue ∧ (x.hostown = true ∨ mapsItself s x.queue)

/-- What slots a round leaves, in order: writes of the host take effect, slots without work are given up while a queue waits, and free slots
take the waiting queues in order; queues that have become the host's to map wait on. -/
def roundEnd (v u : State) : Prop :=
  ∃ (f : Nat → FwSlot) (ok : Nat → Bool), (∀ q, ok q = true ↔ mapsItself v q) ∧
    (∀ n, n < 32 → ∃ x, slotWrites v (fwSlotOf v n).pending { fwSlotOf v n with pending := [] } x
      ∧ let idle : Prop := x.valid = true ∧ x.hostown = false ∧ (∃ q ∈ v.fwWaiting, ok q = true) ∧ ¬slotWorks v x
        (idle → f n = { x with valid := false }) ∧ (¬idle → f n = x))
    ∧ let free := (List.range 32).filter fun n => !(f n).valid && !(f n).hostown
      u = { v with fwSlots := u.fwSlots, fwWaiting := withoutFirst ok v.fwWaiting free.length }
        ∧ ∀ n, n < 32 → fwSlotOf u n = match (free.zip (v.fwWaiting.filter ok)).find? fun e => e.1 == n with
          | some (_, q) => { f n with queue := q, valid := true, mapped := v.ns }
          | none => f n

/-! ## Packets and bundles (18 R386, R387, R391, 17 R379) -/

/-- A field of a packet or a header: `n` bytes, little-endian. -/
def bytesAt (p : List Byte) (off n : Nat) : Nat := leNat ((p.drop off).take n)

/-- Bytes from `off` up to `top` are zero. -/
def blank (p : List Byte) (off top : Nat) : Prop := ∀ i, off ≤ i → i < top → p.getD i 0 = 0

/-- A packet that is no bundle keeps its layout. -/
def packetFits (p : List Byte) : Prop :=
  let a8 : Prop := bytesAt p 8 8 % 8 = 0
  match bytesAt p 0 1 with
  | 0 => blank p 1 128
  | 1 => blank p 1 128
  | 2 => bytesAt p 1 1 ≤ 3 ∧ blank p 2 8 ∧ a8 ∧ blank p 32 128
  | 4 => bytesAt p 1 1 ≤ 1 ∧ blank p 2 8 ∧ a8 ∧ blank p 24 128
  | 5 => blank p 1 8 ∧ a8 ∧ blank p 16 128
  | _ => False

/-- The widths and the extents of a bundle. -/
def widthAt (p : List Byte) (k : Nat) : Nat := field (bytesAt p 8 8) (6 * k + 5) (6 * k)
def extentAt (p : List Byte) (k : Nat) : Nat :=
  if k = 0 then bytesAt p 16 2 else if bytesAt p (20 + 4 * (k - 1)) 4 = 0 then 2 ^ 32 else bytesAt p (20 + 4 * (k - 1)) 4

/-- A bundle keeps its layout (18 R391, 08 R203). -/
def bundleFits (p : List Byte) : Prop :=
  let w := bytesAt p 0 4
  field w 31 17 = 0 ∧ field w 16 12 ≤ 16 ∧ blank p 6 8 ∧ field (bytesAt p 8 8) 63 36 = 0 ∧ blank p 18 20 ∧ field (bytesAt p 64 4) 31 12 = 0
    ∧ blank p 70 72 ∧ blank p 120 128 ∧ (w.testBit 8 = false → blank p 72 120)
    ∧ 5 ≤ widthAt p 0 ∧ widthAt p 0 ≤ 12 ∧ (∀ k, k < 6 → widthAt p k ≤ 32) ∧ ((List.range 6).map (widthAt p)).sum ≤ 64
    ∧ 1 ≤ extentAt p 0 ∧ (∀ k, k < 6 → extentAt p k ≤ 2 ^ widthAt p k)
    ∧ bytesAt p 40 8 % 64 = 0 ∧ bytesAt p 48 8 % 8 = 0 ∧ bytesAt p 56 8 % 32 = 0 ∧ (field w 16 12 = 0 → bytesAt p 56 8 = 0)

/-- The chassis on which a launch may run: those of its mask that its function owns and that are neither parked nor to be (18 R394, 20 R430). -/
def mayRun (s : State) (f mask d : Nat) : Bool :=
  mask.testBit d && ownedBy s d == f && (chassisOf s d).parkState == 0 && !(chassisOf s d).parkReq

/-- The launch of a bundle of a queue, but for its kernel and its cores. -/
def launchRule (s : State) (q : Nat) (p : List Byte) (mask : BitVec 16) : Launch :=
  let w := bytesAt p 0 4
  { id := s.nextId, queue := q, func := descField s q 15 1, pasid := BitVec.ofNat 20 (descField s q 8 4), placed := w.testBit 8
    gang := w.testBit 9, prio := min (field w 11 10) (descField s q 13 1 % 4), mask := mask, places := mask
    widths := (List.range 6).map (widthAt p), extents := (List.range 6).map (extentAt p), sig := BitVec.ofNat 64 (bytesAt p 48 8)
    ev := BitVec.ofNat 12 (bytesAt p 64 4), vector := bytesAt p 68 2, hbase := BitVec.ofNat 64 (bytesAt p 72 8)
    coeffs := (List.range 5).map fun k => BitVec.ofNat 64 (bytesAt p (80 + 8 * k) 8)
    trains := extentAt p 1 * extentAt p 2 * extentAt p 3 * extentAt p 4 * extentAt p 5 }

/-- The direction that a header gives a queue. -/
def portDir (n : Nat) : Dir :=
  match n with
  | 1 => .inbound
  | 2 => .outbound
  | _ => .none

/-- A header keeps its layout (17 R379, R380). -/
def headerFits (h : List Byte) : Prop :=
  let flags := bytesAt h 5 1
  bytesAt h 0 4 = 0x4B480001 ∧ 1 ≤ bytesAt h 4 1 ∧ bytesAt h 4 1 ≤ 32 ∧ flags ≤ 3 ∧ bytesAt h 6 1 ≤ 3 ∧ bytesAt h 7 1 = 0
    ∧ (flags.testBit 0 = false → bytesAt h 12 4 = 0) ∧ bytesAt h 16 1 ≤ 32 ∧ bytesAt h 17 1 ≤ 6
    ∧ bytesAt h 18 1 ≤ 8 ∧ bytesAt h 19 1 = 0 ∧ blank h 36 64
    ∧ ∀ n, n < 8 → bytesAt h (20 + 2 * n) 1 ≤ 2 ∧ bytesAt h (21 + 2 * n) 1 ≤ 63 ∧ (flags.testBit 0 = false → bytesAt h (20 + 2 * n) 1 = 0)

/-- The kernel of a header at an address. -/
def kernelRule (h : List Byte) (va : W64) : Kernel :=
  let near (off : Nat) : W64 := va + (BitVec.ofNat 32 (bytesAt h off 4)).signExtend 64
  { vregs := 8 * bytesAt h 4 1, entry := near 8, access := if (bytesAt h 5 1).testBit 0 = true then some (near 12) else none
    matrix := (bytesAt h 5 1).testBit 1, trapctl := bytesAt h 6 1 != 0
    aSize := 2 ^ 16 * bytesAt h 16 1, wSize := 2 ^ 16 * bytesAt h 17 1, cSize := 2 ^ 17 * bytesAt h 18 1
    ports := (List.range 8).map fun n => (portDir (bytesAt h (20 + 2 * n) 1), bytesAt h (21 + 2 * n) 1 + 1) }

/-! ## Dispatch (18 R394 to R397, 08 R184, R202, R203) -/

/-- The launch that a dispatcher serves first: of those with a place there, none has a higher priority, and none of its priority came before. -/
def servedFirst (s : State) (d : Nat) (l : Launch) : Prop :=
  ∃ pre post, s.launches = pre ++ l :: post ∧ l.at d = true ∧ (∀ x ∈ pre, x.at d = true → x.prio < l.prio)
    ∧ ∀ x ∈ post, x.at d = true → x.prio ≤ l.prio

/-- The extent of a field of a launch. -/
def extentOf (l : Launch) (k : Nat) : Nat := max 1 (l.extents.getD k 1)

/-- Field `k` of train `t`, from f1 on. -/
def trainField (l : Launch) (t k : Nat) : Nat := t / ((List.range (k - 1)).map fun i => extentOf l (i + 1)).prod % extentOf l k

/-- The work id of a train with f0 zero. -/
def trainWid (l : Launch) (t : Nat) : W64 :=
  BitVec.ofNat 64 (((List.range 5).map fun i => trainField l t (i + 1) * 2 ^ ((List.range (i + 1)).map fun j => l.widths.getD j 0).sum).sum)

/-- Pre-emption has made room on a chassis for the trains of a launch that its dispatcher still serves first (18 R404). -/
def madeFor (s : State) (d : Nat) (id : Nat) : Prop := (chassisOf s d).reserved = some id ∧ ∃ l, servedFirst s d l ∧ l.id = id

/-- Nothing waits for freed space of a core before trains do (18 R397): no evicted coach is to come back to it, and no bay of it is full or
expired. -/
def noneBefore (s : State) (d k : Nat) : Prop :=
  (∀ e ∈ s.coaches, e.2.ch = d → e.2.core = k → e.2.waitsRestore = false)
    ∧ ∀ b ∈ (coreOf s d k).bays, b.2.expired = false ∧ b.2.recs.length < 32

/-- A core may take `n` coaches of a train of a launch: it has the room, and nothing that goes before waits for it. -/
def mayTake (s : State) (d : Nat) (l : Launch) (k n : Nat) : Prop :=
  k < 16 ∧ (chassisOf s d).parkReq = false ∧ (chassisOf s d).parkState = 0 ∧ coreTakes s d k l n = true
    ∧ (madeFor s d l.id ∨ noneBefore s d k)

/-- The coaches of a train of `n` on its train-core `i` of `c`: the last core that takes any takes the rest (08 R202). -/
def shareOf (n c i : Nat) : Nat := let per := (n + c - 1) / c; min per (n - i * per)

/-- Coach `j` of a train as it is formed. -/
def formed (s : State) (l : Launch) (t : Train) (j : Nat) (c : Coach) : Prop :=
  let per := (t.coaches + l.cores - 1) / l.cores
  c = { ch := t.ch, handle := c.handle, core := t.cores.getD (j / per) 0, part := c.part, place := c.place, train := t.id, index := j
        tcore := j / per, launch := l.id, vmid := BitVec.ofNat 12 (field (chassisOf s t.ch).s2tb.toNat 63 52), pasid := l.pasid
        vregs := l.kernel.vregs, access := l.kernel.access.isSome, exited := c.exited, slots := c.slots, workId := c.workId
        ports := c.ports, outr := c.outr, born := c.born }
    ∧ (∀ i, i < 32 → (c.exited.getLsbD i = true ↔ t.extent ≤ 32 * j + i) ∧ rget c.workId i = t.wid + BitVec.ofNat 64 (32 * j + i))
    ∧ c.slots = [(0, { pc := l.kernel.entry, lanes := ~~~c.exited })]
    ∧ (∀ n, n < 8 → portOf c n = match l.kernel.ports[n]? with
      | some (.none, _) => {}
      | some (dir, depth) => { dir := dir, depth := depth }
      | none => {})
    ∧ (l.kernel.access = none → c.outr.live = false)
    ∧ ∀ a, l.kernel.access = some a → c.outr.live = true ∧ c.outr.pc = a ∧ c.outr.ended = false
      ∧ ∀ n, rget c.outr.s n = if n = 1 then BitVec.ofNat 64 j else if n = 2 then BitVec.ofNat 64 (j / per) else 0

/-- Coaches of a kernel that fit on an empty core (08 R185, R202, 04 R99); the windows of a header always do. -/
def fitOnCore (k : Kernel) (n : Nat) : Prop :=
  n ≤ 16 * min 8 (512 / k.vregs) ∧ n * ((k.ports.filter fun x => x.1 != .none).map Prod.snd).sum ≤ 2048

/-- The core count of a train of `n` coaches. -/
def coresNeeded (k : Kernel) (n c : Nat) : Prop :=
  1 ≤ c ∧ c ≤ 4 ∧ fitOnCore k ((n + c - 1) / c) ∧ ∀ b, 1 ≤ b → b < c → ¬fitOnCore k ((n + b - 1) / b)

/-- A launch whose places stand as they must: a chassis keeps one while trains are to be taken, or while one that it holds is to start. -/
def placesKept (l x : Launch) : Prop :=
  ∀ d, d < 16 → (x.places.getLsbD d = true ↔ l.places.getLsbD d = true ∧ (x.counter = x.trains → ∃ h ∈ x.held, h.2 = d))

/-- The top-level update of a signal word (18 R400). -/
def topUpdate (badexit : Nat) (err : Bool) (x : Nat) : Nat :=
  field x 31 0 + 2 ^ 32 * ((field x 47 32 + 1) % 65536) + 2 ^ 48 * min 32767 (field x 62 48 + badexit)
    + if x.testBit 63 = true ∨ err = true then 2 ^ 63 else 0

/-! ## Eviction and restore (19 R412 to R417) -/

/-- The slot of a save pool at an address (19 R413). -/
def slotAt (c : Chassis) (i : Nat) : Nat := field c.savebase.toNat 51 12 * 4096 + i * 0x1C000

/-- The slots that a pool has. -/
def poolSlots (c : Chassis) : Nat := if c.savebase.getLsbD 0 = true then min 2048 (field c.savebase.toNat 63 52) else 0

/-- The depths at which a lane is a trap lane of a frame of its coach at a level, as bits (19 R415, R367): those that the frame is at or below,
while the lane lives. -/
def trapSet (c : Coach) (x : Level) (l : Nat) : Nat :=
  ((List.range 8).map fun d => if c.exited.getLsbD l = false ∧ ((List.range 4).any fun j =>
    (frameOf c j x).busy && d ≤ (frameOf c j x).depth && (rget (frameOf c j x).traps d).getLsbD l) = true then 2 ^ d else 0).sum

/-- The operations of a coach that is to be evicted have ended (19 R412, R416): what is left waits for a mark of a faulted element to be
consumed. -/
def operationsOver (c : Coach) : Prop :=
  (∀ o ∈ c.ops, o.outrider = true ∧ ∀ p ∈ o.pieces, 2 ≤ p.phase ∨ p.late = true) ∧ ∀ w ∈ c.scopews, w.done = true

/-- A core has room for a coach of some vector registers and queue entries, and an outrider context where it needs one (08 R185, R205). -/
def hasRoomFor (s : State) (ch core vregs entries : Nat) (outr : Prop) : Prop :=
  (∃ p, p < 16 ∧ 0 < partRoom s ch core p vregs) ∧ entries ≤ coreEntries s ch core ∧ (outr → coreContexts s ch core ≠ 0)

/-- The queue entries before those of a port in a record. -/
def entriesBefore (c : Coach) (q : Nat) : Nat := ((List.range q).map fun i => if (portOf c i).dir = .none then 0 else (portOf c i).depth).sum

/-- The fields that 19 R415 gives the record of a coach: offset, size and value. -/
def recordRows (c : Coach) : List (Nat × Nat × Nat) :=
  let nat (b : Bool) : Nat := if b then 1 else 0
  let levels : List (Nat × Level) := [(0, .S), (1, .H)]
  let many (n : Nat) (f : Nat → List (Nat × Nat × Nat)) : List (Nat × Nat × Nat) := (List.range n).flatMap f
  [(0, 4, 0x53560001), (4, 2, c.handle), (6, 1, c.vregs / 8), (7, 1, nat c.access + 2 * nat c.yard + 4 * nat c.stuck), (8, 4, c.pasid.toNat),
    (12, 2, c.vmid.toNat), (14, 1, c.index), (15, 1, c.tcore), (16, 8, c.mode.toNat), (24, 8, c.cstat.toNat), (32, 8, c.cart),
    (40, 1, c.fpen.toNat), (41, 1, c.ldhint.toNat)]
    ++ many 4 (fun j => let o := 0x100 + 64 * j
      match mget c.slots j with
      | none => [(o + 20, 1, 0)]
      | some k => [(o, 8, k.pc.toNat), (o + 8, 4, k.lanes.toNat), (o + 12, 4, k.member.toNat), (o + 16, 4, repCode k.rep),
          (o + 20, 1, k.level.code + 4 + 8 * nat k.parked), (o + 21, 1, k.fslot), (o + 24, 8, k.wake)])
    ++ many 32 (fun i => let o := 0x200 + 32 * i
      match c.siding[i]? with
      | none => [(o + 8, 4, 0)]
      | some e =>
        let h := match e.held with
          | some h => h.slot + 4 * h.level.ix + 8 * h.depth
          | none => 0
        [(o, 8, e.pc.toNat), (o + 8, 4, e.lanes.toNat), (o + 12, 4, e.member.toNat), (o + 16, 4, repCode e.rep),
          (o + 20, 1, e.level.code + 4 * nat e.held.isSome), (o + 21, 1, h), (o + 22, 1, if e.level = .U then 0 else e.fslot), (o + 24, 8, e.wake)])
    ++ many 4 (fun j => levels.flatMap fun x =>
      let o := 0x600 + 128 * j + 64 * x.1
      let f := frameOf c j x.2
      let status := nat f.rearmed + 2 * (f.depth % 8) + (if x.1 = 0 then 256 * c.fpen.toNat else 0) + 2 ^ 63 * nat f.busy
      [(o, 8, status), (o + 8, 8, (rget f.traps f.depth).toNat), (o + 16, 8, f.tpc.toNat), (o + 24, 8, f.npc.toNat), (o + 32, 8, f.frep.toNat),
        (o + 40, 8, f.fmisc.toNat), (o + 48, 8, f.mode.toNat), (o + 56, 8, f.cstat.toNat)])
    ++ many 4 (fun j => levels.flatMap fun x => many 16 fun i => [(0x800 + 256 * j + 128 * x.1 + 8 * i, 8, (rget c.k (32 * j + 16 * x.1 + i)).toNat)])
    ++ levels.flatMap (fun x => many 32 fun l => [(0xC00 + 512 * x.1 + 16 * l, 16, (rget c.recs (32 * x.1 + l)).toNat)])
    ++ many 256 (fun n => [(0x1000 + 8 * n, 8, if n = 0 then 0 else (rget c.s n).toNat)])
    ++ many 32 (fun l => let o := 0x1800 + 16 * l
      match mget c.pend l with
      | none => [(o + 8, 1, 0)]
      | some e => [(o, 8, e.addr.toNat), (o + 8, 1, e.cause), (o + 9, 1, nat e.load + 2 * nat e.store + 4 * nat e.copy.isSome),
          (o + 10, 1, e.tags.toNat), (o + 12, 4, e.copy.getD 0)])
    ++ many 32 (fun l => [(0x1A00 + 8 * l, 8, (rget c.workId l).toNat)])
    ++ many 8 (fun n => [(0x1B00 + 4 * n, 4, if n = 0 then 2 ^ 32 - 1 else (rget c.p n).toNat)])
    ++ many 16 (fun n => [(0x1B20 + 4 * n, 4, (rget c.arrived n).toNat)])
    ++ levels.flatMap (fun x => many 32 fun l => [(0x1B60 + 32 * x.1 + l, 1, trapSet c x.2 l)])
    ++ many 8 (fun q =>
      let o := 0x1C00 + 64 * q
      let p := portOf c q
      [(o, 1, p.dir.code), (o + 1, 1, p.depth - 1), (o + 4, 4, p.head)] ++ (if p.dir = .inbound then [(o + 8, 4, p.filled)] else if p.dir = .outbound then
          ((((List.range 32).filter fun l => !c.exited.getLsbD l).map p.posOf).min?.map fun n => (o + 8, 4, n)).toList else [])
        ++ many 32 fun l => [(o + 16 + l, 1, p.posOf l - p.head)])
    ++ many 64 (fun n => [(0x1E00 + 8 * n, 8, if n = 0 then 0 else (rget c.outr.s n).toNat)])
    ++ [(0x2000, 8, c.outr.pc.toNat), (0x2008, 4, repCode c.outr.rep),
      (0x200C, 1, nat (c.outr.live && !c.outr.ended) + 2 * nat c.outr.qend), (0x2010, 2, c.outr.progress)]
    ++ many 64 (fun i => let o := 0x2200 + 16 * i
      match ((List.range 8).flatMap fun q => (portOf c q).faults.map fun e => (q, e))[i]? with
      | none => [(o + 8, 1, 0)]
      | some (q, n, f) => [(o, 8, f.addr.toNat), (o + 8, 1, f.cause), (o + 9, 1, q + 8 * nat f.write), (o + 10, 1, n % 32), (o + 12, 4, n / 32)])
    ++ levels.flatMap (fun x => many 16 fun i => many 32 fun l =>
      [(0x2600 + 2048 * x.1 + 128 * i + 4 * l, 4, (rget c.kv (512 * x.1 + 32 * i + l)).toNat)])
    ++ many c.vregs (fun n => many 32 fun l => [(0x3600 + 128 * n + 4 * l, 4, (rget c.v (32 * n + l)).toNat)])
    ++ many 8 (fun q =>
      let p := portOf c q
      if p.dir = .none then [] else many (32 * p.depth) fun i =>
        [(0x3600 + 128 * c.vregs + 128 * entriesBefore c q + 4 * i, 4, (rget p.elems (32 * p.head + i)).toNat)])

/-- A field of a record in memory. -/
def recordField (s : State) (wa off n : Nat) : Nat := memValue s (wa + off) n

/-- The direction and the depth of a port in a record, and the queue entries of the record before it. -/
def recordDir (s : State) (wa q : Nat) : Dir :=
  match recordField s wa (0x1C00 + 64 * q) 1 with
  | 1 => .inbound
  | 2 => .outbound
  | _ => .none
def recordDepth (s : State) (wa q : Nat) : Nat := recordField s wa (0x1C01 + 64 * q) 1 + 1
def recordBefore (s : State) (wa q : Nat) : Nat :=
  ((List.range q).map fun i => if recordDir s wa i = .none then 0 else recordDepth s wa i).sum

/-- A record has its ident and the coach's handle, and no value beyond a range of 19 R415. -/
def recordFits (s : State) (wa : Nat) (c : Coach) : Prop :=
  let g := recordField s wa
  g 0 4 = 0x53560001 ∧ g 4 2 = c.handle ∧ 1 ≤ g 6 1 ∧ g 6 1 ≤ 32 ∧ g 7 1 ≤ 7 ∧ g 8 4 < 2 ^ 20 ∧ g 12 2 < 2 ^ 12
    ∧ g 14 1 ≤ 127 ∧ g 15 1 ≤ 3 ∧ g 40 1 ≤ 31 ∧ g 41 1 ≤ 31
    ∧ (∀ i, i < 64 → g (0x2208 + 16 * i) 1 ≠ 0 → g (0x220A + 16 * i) 1 ≤ 31)
    ∧ 0x3600 + 128 * (8 * g 6 1) + 128 * recordBefore s wa 8 ≤ 0x1C000
    ∧ (∀ j, j < 4 → (g (0x114 + 64 * j) 1).testBit 2 = true → g (0x114 + 64 * j) 1 % 4 ≠ 3)
    ∧ (∀ i, i < 32 → g (0x208 + 32 * i) 4 ≠ 0 → g (0x214 + 32 * i) 1 % 4 ≠ 3)
    ∧ (∀ q, q < 8 → g (0x1C00 + 64 * q) 1 ≤ 2 ∧ g (0x1C01 + 64 * q) 1 ≤ 63 ∧ ∀ l, l < 32 → g (0x1C10 + 64 * q + l) 1 ≤ 64)
    ∧ g 0x2010 2 ≤ 64

/-- An absolute count whose low 32 bits a record gives, near another. -/
def near32 (head low e : Nat) : Prop := e % 2 ^ 32 = low ∧ head ≤ e + 2 ^ 31 ∧ e < head + 2 ^ 31

/-- What a record gives a slot, a siding entry and a frame of a coach (19 R415). Of the instruction at pc, what the coach has done already
stands. -/
def slotReloaded (s : State) (wa : Nat) (c w : Coach) (j : Nat) : Prop :=
  let g := recordField s wa
  let o := 0x100 + 64 * j
  ((g (o + 20) 1).testBit 2 = false ∨ g (o + 8) 4 = 0 → mget w.slots j = none)
    ∧ ((g (o + 20) 1).testBit 2 = true → g (o + 8) 4 ≠ 0 → ∃ k, mget w.slots j = some k
      ∧ k = { pc := BitVec.ofNat 64 (g o 8), lanes := BitVec.ofNat 32 (g (o + 8) 4), level := Level.ofCode (g (o + 20) 1 % 4)
              member := BitVec.ofNat 32 (g (o + 12) 4), rep := repOf (g (o + 16) 4), fslot := g (o + 21) 1 % 4, wake := g (o + 24) 8
              parked := (g (o + 20) 1).testBit 3, bar := k.bar, spawn := k.spawn, spawned := k.spawned }
      ∧ ∀ x, mget c.slots j = some x → x.pc = k.pc → k.bar = x.bar ∧ k.spawn = x.spawn ∧ k.spawned = x.spawned)

def entryReloaded (s : State) (wa : Nat) (c : Coach) (i : Nat) : SidingEntry :=
  let g := recordField s wa
  let o := 0x200 + 32 * i
  let h := g (o + 21) 1
  { pc := BitVec.ofNat 64 (g o 8), lanes := BitVec.ofNat 32 (g (o + 8) 4), level := Level.ofCode (g (o + 20) 1 % 4)
    member := BitVec.ofNat 32 (g (o + 12) 4), rep := repOf (g (o + 16) 4), fslot := g (o + 22) 1 % 4, wake := g (o + 24) 8
    held := if (g (o + 20) 1).testBit 2 = true then
      some { slot := h % 4, level := if h.testBit 2 = true then .H else .S, depth := field h 5 3 } else none
    bar := match c.siding[i]? with
      | some e => if e.pc = BitVec.ofNat 64 (g o 8) then e.bar else none
      | none => none }

def frameReloaded (s : State) (wa : Nat) (c w : Coach) (j x : Nat) : Prop :=
  let g := recordField s wa
  let o := 0x600 + 128 * j + 64 * x
  let l : Level := if x = 0 then .S else .H
  let f := frameOf w j l
  f.busy = (g o 8).testBit 63 ∧ f.rearmed = (g o 8).testBit 0 ∧ f.depth = field (g o 8) 3 1 ∧ f.tpc = BitVec.ofNat 64 (g (o + 16) 8)
    ∧ f.npc = BitVec.ofNat 64 (g (o + 24) 8) ∧ f.frep = BitVec.ofNat 64 (g (o + 32) 8) &&& 0x0003FFFF0003FFFF
    ∧ f.fmisc = BitVec.ofNat 64 (g (o + 40) 8) &&& 0xFFFFFFFF00000003 ∧ f.mode = BitVec.ofNat 16 (g (o + 48) 8)
    ∧ f.cstat = BitVec.ofNat 8 (g (o + 56) 8) ∧ f.flane = (frameOf c j l).flane
    ∧ ∀ d, d < 8 → if d = f.depth then rget f.traps d = BitVec.ofNat 32 (g (o + 8) 8) else
      ∀ n, n < 32 → ((rget f.traps d).getLsbD n = true
        ↔ (g (0x1B60 + 32 * x + n) 1).testBit d = true ∧ field (g (0xC00 + 512 * x + 16 * n) 16) 20 19 = j)

/-- What a record gives the pending error of a lane (10 R256, 19 R415): the cart number takes its upper bits from the cart counter. -/
def pendReloaded (s : State) (wa : Nat) (w : Coach) (l : Nat) : Prop :=
  let g := recordField s wa
  let o := 0x1800 + 16 * l
  let low := g (o + 12) 4
  let cart := g 32 8
  (g (o + 8) 1 = 0 → mget w.pend l = none)
    ∧ (g (o + 8) 1 ≠ 0 → ∃ e, mget w.pend l = some e ∧ e.cause = g (o + 8) 1 ∧ e.addr = BitVec.ofNat 64 (g o 8)
      ∧ e.load = (g (o + 9) 1).testBit 0 ∧ e.store = (g (o + 9) 1).testBit 1 ∧ e.tags = BitVec.ofNat 8 (g (o + 10) 1)
      ∧ ((g (o + 9) 1).testBit 2 = false → e.copy = none)
      ∧ ((g (o + 9) 1).testBit 2 = true → (low ≤ cart % 2 ^ 32 → e.copy = some (cart - cart % 2 ^ 32 + low))
        ∧ (cart % 2 ^ 32 < low → 2 ^ 32 ≤ cart → e.copy = some (cart - cart % 2 ^ 32 + low - 2 ^ 32))))

/-- What a record gives a queue port: head, counts, positions, entries and faulted elements. -/
def portReloaded (s : State) (wa : Nat) (c w : Coach) (q : Nat) : Prop :=
  let g := recordField s wa
  let o := 0x1C00 + 64 * q
  let p := portOf w q
  let at_ (i : Nat) : Nat := 0x2200 + 16 * i
  let low (i : Nat) : Nat := g (at_ i + 12) 4
  let lane (i : Nat) : Nat := g (at_ i + 10) 1
  let mine (i : Nat) : Prop := i < 64 ∧ g (at_ i + 8) 1 ≠ 0 ∧ g (at_ i + 9) 1 % 8 = q
  p.dir = recordDir s wa q ∧ (p.dir ≠ .none →
    p.depth = recordDepth s wa q ∧ p.head % 2 ^ 32 = g (o + 4) 4 ∧ p.head / 2 ^ 32 = (portOf c q).head / 2 ^ 32
      ∧ (p.dir = .inbound → ∀ n, near32 p.head (g (o + 8) 4) n → p.filled = n)
      ∧ (∀ l, l < 32 → p.posOf l = p.head + g (o + 16 + l) 1)
      ∧ (∀ i, i < 32 * p.depth →
        rget p.elems (32 * p.head + i) = BitVec.ofNat 32 (g (0x3600 + 128 * (8 * g 6 1) + 128 * recordBefore s wa q + 4 * i) 4))
      ∧ (∀ n, (∀ i, mine i → ¬(n / 32 % 2 ^ 32 = low i ∧ n % 32 = lane i)) → mget p.faults n = none)
      ∧ ∀ i e, mine i → (∀ k, i < k → mine k → ¬(low k = low i ∧ lane k = lane i)) → near32 p.head (low i) e →
        ∃ f, mget p.faults (32 * e + lane i) = some f ∧ f.cause = g (at_ i + 8) 1 ∧ f.addr = BitVec.ofNat 64 (g (at_ i) 8)
          ∧ f.write = (g (at_ i + 9) 1).testBit 3)

/-- What a record gives the outrider context. -/
def outriderReloaded (s : State) (wa : Nat) (c w : Coach) : Prop :=
  let g := recordField s wa
  let live : Bool := (g 0x200C 1).testBit 0
  (c.outr.live = true ∨ live = true → w.outr.live = true ∧ w.outr.ended = !live ∧ w.outr.qend = (g 0x200C 1).testBit 1
    ∧ w.outr.pc = BitVec.ofNat 64 (g 0x2000 8) ∧ w.outr.rep = repOf (g 0x2008 4) ∧ w.outr.progress = g 0x2010 2
    ∧ ∀ n, 1 ≤ n → n < 64 → rget w.outr.s n = BitVec.ofNat 64 (g (0x1E00 + 8 * n) 8))

/-- A lane stands in a slot or a siding entry of a record. -/
def recordLane (s : State) (wa l : Nat) : Prop :=
  let g := recordField s wa
  (∃ j, j < 4 ∧ (g (0x114 + 64 * j) 1).testBit 2 = true ∧ (g (0x108 + 64 * j) 4).testBit l = true)
    ∨ ∃ i, i < 32 ∧ (g (0x208 + 32 * i) 4).testBit l = true

/-- A coach whose state is what its record gives it. -/
def reloaded (s : State) (wa : Nat) (c w : Coach) : Prop :=
  let g := recordField s wa
  w.vregs = 8 * g 6 1 ∧ w.access = (g 7 1).testBit 0 ∧ w.yard = (g 7 1).testBit 1 ∧ w.stuck = (g 7 1).testBit 2
    ∧ w.pasid = BitVec.ofNat 20 (g 8 4) ∧ w.vmid = BitVec.ofNat 12 (g 12 2) ∧ w.index = g 14 1 ∧ w.tcore = g 15 1
    ∧ w.mode = BitVec.ofNat 16 (g 16 8) ∧ w.cstat = BitVec.ofNat 8 (g 24 8) ∧ w.cart = g 32 8 ∧ w.fpen = BitVec.ofNat 5 (g 40 1)
    ∧ w.ldhint = BitVec.ofNat 5 (g 41 1)
    ∧ (∀ l, l < 32 → (w.exited.getLsbD l = true ↔ ¬recordLane s wa l))
    ∧ (∀ n, 1 ≤ n → n < 256 → rget w.s n = BitVec.ofNat 64 (g (0x1000 + 8 * n) 8))
    ∧ (∀ n l, n < 8 * g 6 1 → l < 32 → rget w.v (32 * n + l) = BitVec.ofNat 32 (g (0x3600 + 128 * n + 4 * l) 4))
    ∧ (∀ x i l, x < 2 → i < 16 → l < 32 → rget w.kv (512 * x + 32 * i + l) = BitVec.ofNat 32 (g (0x2600 + 2048 * x + 128 * i + 4 * l) 4))
    ∧ (∀ j x i, j < 4 → x < 2 → i < 16 → rget w.k (32 * j + 16 * x + i) = BitVec.ofNat 64 (g (0x800 + 256 * j + 128 * x + 8 * i) 8))
    ∧ (∀ x l, x < 2 → l < 32 → rget w.recs (32 * x + l) = BitVec.ofNat 128 (g (0xC00 + 512 * x + 16 * l) 16))
    ∧ (∀ l, l < 32 → rget w.workId l = BitVec.ofNat 64 (g (0x1A00 + 8 * l) 8) ∧ pendReloaded s wa w l)
    ∧ (∀ n, n < 8 → (1 ≤ n → rget w.p n = BitVec.ofNat 32 (g (0x1B00 + 4 * n) 4)) ∧ portReloaded s wa c w n)
    ∧ (∀ n, n < 16 → rget w.arrived n = BitVec.ofNat 32 (g (0x1B20 + 4 * n) 4))
    ∧ (∀ j, j < 4 → slotReloaded s wa c w j ∧ ∀ x, x < 2 → frameReloaded s wa c w j x)
    ∧ w.siding = ((List.range 32).filter fun i => g (0x208 + 32 * i) 4 ≠ 0).map (entryReloaded s wa c)
    ∧ outriderReloaded s wa c w

/-! ## Power, temperature, parking and the memory controller (20, 03 R80 to R84) -/

/-- The clock of a performance state in MHz (20 R423), and of a chassis: in a step the slower of two. -/
def rateOf (p : Nat) : Nat := [1200, 1100, 1000, 900, 800, 600, 450, 300].getD (min p 7) 300
def rateNow (c : Chassis) : Nat :=
  match c.psStep with
  | some (p, _) => min (rateOf c.ps) (rateOf p)
  | none => rateOf c.ps

/-- A chassis that starts a step to a state, in place of one that runs: 2 µs within a voltage band, 20 µs between bands (20 R423). -/
def stepsTo (s : State) (c : Chassis) (p : Nat) : Chassis :=
  { c with psStep := if c.ps = p then none else some (p, s.ns + if c.ps / 2 = p / 2 then 2000 else 20000) }

/-- The state that a chassis is in, or steps to. -/
def stateAhead (c : Chassis) : Nat :=
  match c.psStep with
  | some (p, _) => p
  | none => c.ps

/-- The steps that a chassis of some state owes, slower ones positive: they end between the cap and PS7. -/
def stepsOwed (cap p : Nat) (n : Int) : Int := max (cap : Int) (min 7 ((p : Int) + n)) - (p : Int)

/-- A chassis that starts the next of the steps that it owes, which stand one after another (20 R423, log entry 26). -/
def stepsOn (s : State) (c : Chassis) : Chassis :=
  let n := stepsOwed s.pscap c.ps c.psDue
  if 0 < n then stepsTo s { c with psDue := n - 1 } (c.ps + 1)
  else if n < 0 then stepsTo s { c with psDue := n + 1 } (c.ps - 1)
  else { c with psDue := 0 }

/-- A chassis that is to go one state slower (1) or faster (-1). -/
def stepsOne (s : State) (c : Chassis) (n : Int) : Chassis :=
  let x : Chassis := { c with psDue := stepsOwed s.pscap (stateAhead c) (c.psDue + n) }
  if c.psStep.isSome = true then x else stepsOn s x

/-- A chassis under a cap: one that is faster, or is to be, goes to the cap in one step. -/
def stepsToCap (s : State) (c : Chassis) : Chassis :=
  if c.ps < s.pscap ∨ stateAhead c < s.pscap then stepsTo s { c with psDue := 0 } (max c.ps s.pscap)
  else { c with psDue := stepsOwed s.pscap (stateAhead c) c.psDue }

/-- A chassis whose step is over, if one is (20 R423). -/
def stepDone (s : State) (c : Chassis) : Chassis :=
  match c.psStep with
  | some (p, t) => if t ≤ s.ns then stepsOn s { c with ps := p, psStep := none } else c
  | none => c

/-- tstate (20 R428). -/
def tstateOf (c : Chassis) : Nat := c.ts % 4 + (if c.hold = true then 4 else 0) + 8 * (c.ps % 8) + 256 * (c.since % 2 ^ 56)

/-- A throttle state from a reading in units of 0.125 °C and three thresholds. -/
def reached (a b c r : Nat) : Nat := (if a ≤ r then 1 else 0) + (if b ≤ r then 1 else 0) + if c ≤ r then 1 else 0

/-- The target of the governor (20 R426, R428): up at 85, 95 and 102 °C; down below 82, 92 and 99 °C; not below a floor that the host sets. -/
def targetRule (c : Chassis) (r : Nat) : Nat :=
  let t := if c.ts < reached 680 760 816 r then reached 680 760 816 r else min c.ts (reached 656 736 792 r)
  if c.thctl.getLsbD 0 = true then max (field c.thctl.toNat 2 1) t else t

/-- Whether the governor is to hold (20 R427): from 105 °C until below 102 °C, by what the samples before have chosen. -/
def holdRule (c : Chassis) (r : Nat) : Bool :=
  let was := match c.holdNext with
    | some x => x.1
    | none => c.hold
  decide (840 ≤ r) || (was && decide (816 ≤ r))

/-- The time from which a change can take effect, 1 µs after the sample, in twelve-hundredths of a nanosecond; one that was chosen before
keeps its time (20 R426). -/
def dueTime {α : Type} (s : State) (old : Option (α × Nat)) : Nat :=
  match old with
  | some x => x.2
  | none => 1200 * s.ns + s.nsPart + 1200000

/-- What the governor of a chassis chooses by a sample (20 R425 to R428): an entry to hold that comes with a change of ts takes effect with it. -/
def governed (s : State) (c : Chassis) (r : Nat) : Chassis :=
  let t := targetRule c r
  let h := holdRule c r
  let n := dueTime s c.tsNext
  { c with
    sampled := some (1200 * s.ns + s.nsPart)
    tsNext := if t = c.ts then none else some (t, n)
    holdNext := if h = c.hold then none else some (h, match c.holdNext with
      | some x => x.2
      | none => if h = true ∧ t ≠ c.ts then n else 1200 * s.ns + s.nsPart + 1200000) }

/-- The present clock of a chassis is one at which a change due from some time on takes effect: its clk is a multiple of 64 (20 R426). -/
def takesEffect (s : State) (c : Chassis) (n : Nat) : Prop := c.clk % 64 = 0 ∧ n ≤ 1200 * s.ns + s.nsPart

/-- Nothing is resident on a chassis (20 R430). -/
def deserted (s : State) (d : Nat) : Prop :=
  (∀ e ∈ s.coaches, e.2.ch = d → e.2.gone = false ∧ ∃ held i, e.2.resid = .saved held i)
    ∧ ∀ t ∈ s.trains, t.ch = d → t.matrix = false ∧ ∀ e ∈ t.windows, e.2.aSize = 0 ∧ e.2.wSize = 0 ∧ e.2.cSize = 0

/-- The reductions of a machine in which a chassis has just parked (07 R172, R181, 15 R355): the stop sends on what it has gathered of one, and
keeps none of it; at the root it stays, and the chassis counts there as complete. -/
def sumsSentOn (s w : State) (d : Nat) : Prop :=
  (s.reductions = [] → w = s)
    ∧ ∀ r, s.reductions = [r] →
      ((d = r.args.root ∨ ∀ i, i < r.n / 32 → mget r.sums (512 * d + i) = none) →
        ∃ r', rootChecked s r r' ∧ w = { s with reductions := [r'] })
      ∧ (d ≠ r.args.root → 0 < r.n / 32 → (∀ i, i < r.n / 32 → (mget r.sums (512 * d + i)).isSome = true) →
        ∃ h r', sentFrom r d h ∧ rootChecked w h r'
          ∧ w = { s with
            nextId := s.nextId + r.n / 32, packets := s.packets ++ sumPackets s r d s.nextId, reductions := [r'] })

/-- Every line of a chassis is at home and clean, and the L1s of its cores are empty (steps 1 to 3 of 04 R109). -/
def swept (s : State) (d : Nat) : Prop :=
  (∀ ln l, lineDie ln = d → cacheLine s ln = some l → l.owner = none ∧ ∀ i, l.dirty.getLsbD i = true → mget l.bytes i = none)
    ∧ ∀ k, k < 16 → (coreOf s d k).l1 = []

end Sys2Proof.Rules
end

