-- ==== Sys2Proof/Certificates/Slice0/Obligations.lean ====
section
/-! DEFINITION. The statements about the model. Those whose docstring begins with rules of spec/ formalise them; a log entry that a docstring
names is the model's own choice, and no rule. -/

open Sys2Proof
open Sys2Proof.Machine
open Sys2Proof.Rules

/-! ## The whole machine -/

/-- 00 R6, 21 R437, 20 R419, 21 R435, 11 R282: what module reset leaves, by the reset columns of the register maps. -/
def Obligations.ResetLeavesTheStatedValues : Prop :=
  let s := State.reset
  s.powered = true ∧ s.stage = 0 ∧ s.stageErr = 0 ∧ s.memok = 0 ∧ s.evqBase = 0 ∧ evqLsize s = 6 ∧ s.evqHead = 0 ∧ s.evqTail = 0
    ∧ s.ceiling = 1000 ∧ s.pscap = 0 ∧ s.power = 0 ∧ s.duty = 8 ∧ s.tokens = 0 ∧ s.qtbase = 0 ∧ s.ns = 0
    ∧ s.launches = [] ∧ s.trains = [] ∧ s.coaches = [] ∧ s.copies = [] ∧ s.streams = []
    ∧ ∀ d, (chassisOf s d).cacheOn = false ∧ (chassisOf s d).clk = 0 ∧ (chassisOf s d).cdtb = 0 ∧ (chassisOf s d).s2tb = 0
      ∧ (chassisOf s d).ttbr = 0 ∧ (chassisOf s d).testctl = 0x1001 ∧ (chassisOf s d).func = 0
      ∧ ∀ k, (coreOf s d k).btype = 15 ∧ (coreOf s d k).csrerr = false ∧ (coreOf s d k).yard = 125 ∧ (coreOf s d k).svTvec = 0
        ∧ (coreOf s d k).hvTvec = 0

/-- Log entry 1: the form is the model's. Local memory of the reset state is in canonical form: the premise of `StepKeepsMemoryCanonical` holds there. -/
def Obligations.ResetMemoryIsCanonical : Prop := Memory.wf State.reset = true

/-- No instruction of the opcode table stops the machine: whatever the state, each has a next state. For an event whose conditions do not hold,
and an instruction that nothing issues, that the state stays is the model's own choice (log entry 55). -/
def Obligations.EveryInstructionHasANextState : Prop := ∀ (i : Instr) (s : State), ∃ t, exec i s = .next t

/-- Log entry 1: the form is the model's. Every step keeps the list that holds local memory in canonical form: addresses strictly rising, no byte equal to what an unlisted
address reads as. -/
def Obligations.StepKeepsMemoryCanonical : Prop :=
  ∀ s t : State, cellsWf s.dram = true → step s = .next t → cellsWf t.dram = true

/-- 20 R427: the machine stops where the thermal stop has taken the power away and no module reset is due, and only there. -/
def Obligations.StepStopsOnlyWithoutPower : Prop :=
  ∀ s : State, (∀ r, step s ≠ .refused r)
    ∧ ((∃ f, step s = .fault f) ↔ s.powered = false ∧ s.agenda.head? ≠ some (.event .moduleReset))

/-- 10 R237 to R246: the decoder reads each well-formed instruction back from the bytes of its words, whatever bytes follow. -/
def Obligations.DecodeReadsBackEveryEncoding : Prop :=
  ∀ (i : Instr) (rest : List Byte), encode i ≠ [] → wellFormed i = true →
    decode ((encode i).flatMap (leBytes 4) ++ rest) = .ok (i, 4 * (encode i).length)

/-- 10 R246, R259: what the decoder accepts is well formed, so a reserved value of a field is rejected. -/
def Obligations.DecodeAcceptsWellFormedOnly : Prop :=
  ∀ (bs : List Byte) (i : Instr) (n : Nat), decode bs = .ok (i, n) → wellFormed i = true ∧ encode i ≠ [] ∧ (n = 4 ∨ n = 8)

/-- Words of chapters 10 to 16, each written out bit by bit from its encoding, decode to their instructions; two reserved ones to none. -/
def Obligations.WordsDecodeAsTheSpecEncodesThem : Prop :=
  decodeTableWord 32 0x020F0000 = some (.rep 3 1 1 0 0)
    ∧ decodeTableWord 32 0x20050607 = some (.sadd 5 6 7)
    ∧ decodeTableWord 64 0x12345678_38050000 = some (.slit 5 0x12345678)
    ∧ decodeTableWord 32 0x40081028 = some (.vadd 8 16 40)
    ∧ decodeTableWord 32 0x08FFFFFF = some (.bnz 255 0xFFFF)
    ∧ decodeTableWord 32 0x0D000000 = some (.jrv 0 0)
    ∧ decodeTableWord 32 0x82102030 = some (.limul 16 32 48)
    ∧ decodeTableWord 32 0x940810FF = some (.vld32 8 16 0xFF)
    ∧ decodeTableWord 32 0xC1021400 = some (.bld 2 20)
    ∧ decodeTableWord 32 0x13001234 = some (.syscall 0x1234)
    ∧ decodeTableWord 32 0x11000007 = some (.bar 7)
    ∧ decodeTableWord 32 0x0E000001 = none
    ∧ decodeTableWord 32 0xFF000000 = none

/-- Log entry 3: where the next turn is that of a carriage or an outrider context whose instruction is fetched and ready, or an event, the
step is `exec` of it, from the state that its issue prepares; a carriage that the instruction leaves alone is then accounted as having
issued. -/
def Obligations.StepRunsTheDecodedInstruction : Prop :=
  ∀ (s : State) (ts : List Turn), s.powered = true →
    (∀ i, s.agenda = .event i :: ts → step s = exec i { s with agenda := ts })
    ∧ (∀ r i u, s.agenda = .issue r :: ts → prepareIssue { s with agenda := ts } r = .run i u →
        u.cur = some (.carriage r) ∧ wellFormed i = true
          ∧ ∀ t, exec i u = .next t → step s = .next (endIssue { s with agenda := ts } r t))
    ∧ (∀ r i u, s.agenda = .outrider r :: ts → prepareOutrider { s with agenda := ts } r = .run i u →
        u.cur = some (.outrider r) ∧ wellFormed i = true ∧ ∀ t, exec i u = .next t → step s = .next { t with cur := none })

/-- 02 R56, R57, 10 R237, R252: where the code at a carriage's pc translates to local memory and its words have been read, the fetch gives
the instruction that the decoder reads from them, with the fields that a REP in progress selects stepped; a word that the decoder refuses
is a fetch fault with cause 0x08 at the pc. A word of an accepted page that is in no line of the instruction cache is read from memory, where
nothing keeps its home from being read at this moment. -/
def Obligations.FetchDecodesTheWordsAtThePc : Prop :=
  (∀ (s : State) (c : Coach) (j : Nat) (k : Carriage) (pa : Nat) (a : Attr) (h : Home) (w lit : Nat) (b : Bool),
    k.pc.toNat < 2 ^ 56 → k.pc.toNat % 4 = 0 → translate s (askerOf c j k) .exec k.pc = .pa pa a → regionOf pa = .dram →
    resolve pa = some h → fetchWord s c.gcore h.wa k.pc = .ok (w, false) → fetchWord s c.gcore (h.wa + 4) (k.pc + 4) = .ok (lit, b) →
    let w' := match k.rep with
      | some r => stepWord w r.steps r.stride r.index
      | none => w
    ∀ i, (decodeWords w' (if wordLength w' = 8 then lit else 0) = .ok i → fetchOf s c j k = .ok i (wordLength w'))
      ∧ ((∀ i, decodeWords w' (if wordLength w' = 8 then lit else 0) ≠ .ok i) → fetchOf s c j k = fetchTrap 8 k.pc))
  ∧ ∀ (s : State) (g wa : Nat) (va : W64) (ls : List Nat),
    mget (coreG s g).icache (lineOf wa) = none → reachable s (g / 16) (homeAt wa).d = true → pathOpen s (g / 16) (homeAt wa).d = true →
    coherent s → wa % 4 = 0 → busLost s wa = false → sliceOpen s (homeAt wa).d = true →
    (needsCells s wa 4 = true → unitOpen s wa = true ∧ flawAt s wa ≠ .uncorrectable) →
    mget (chassisOf s (homeAt wa).d).scanned (wa / 4096) = some (.accepted ls) →
    fetchWord s g wa va = .ok (memValue s wa 4, ls.contains (wa % 4096 / 4))

/-- 18 R401, R402, 08 R188, log entry 3: where the next turn is that of the carriage that its partition chooses, its fetch gives an
instruction and nothing keeps the instruction back, the step is `exec` of that instruction, issued by that carriage. Before it, the carriage
and its coach are noted as having issued last, and the lines that the fetch has read enter the caches, with what such a read does at its
home. -/
def Obligations.IssuedInstructionIsExecuted : Prop :=
  ∀ (s : State) (ts : List Turn) (r : SlotRef) (c : Coach) (k : Carriage) (i : Instr) (len : Nat),
    s.powered = true → s.agenda = .issue r :: ts →
    let s1 := { s with agenda := ts }
    coachOf s1 r.key = some c → c.key = r.key → mget c.slots r.slot = some k →
    c.canIssue = true → slotOpen s1 c.ch = true → slotFree s1 c = true → choosable s1 c k = true →
    chosenNow s1 c r.slot k = true → fetchOf s1 c r.slot k = .ok i len → notReady s1 c r.slot k i = none →
    ∃ (u : State) (x : Iss) (t : State),
      x.slot = r.slot ∧ x.k = { k with lastIssue := clkOf s1 c, wait := none }
        ∧ x.c = { c with age := 0, agedAt := 0, slots := mset c.slots r.slot x.k }
        ∧ u = { s1 with
            cur := some (.carriage r), coaches := mset s1.coaches r.key x.c, chassis := u.chassis, dram := u.dram, flaws := u.flaws
            freeCtr := u.freeCtr, hostWrites := u.hostWrites, evqTail := u.evqTail, msix := u.msix }
        ∧ issuer u = some x ∧ exec i u = .next t ∧ step s = .next (endIssue s1 r t)

/-! ## Carriages (08) -/

/-- 10 R252, 08 R192: an instruction that does not branch, or one repeat of it, takes every lane of its carriage to the next word or repeat
and leaves every other lane where it stands, however carriages and siding entries couple. -/
def Obligations.InstructionMovesItsCarriageOn : Prop :=
  ∀ (c : Coach) (j : Nat) (k : Carriage) (len : Nat), orderly c → mget c.slots j = some k →
    let w := advance c j len
    onlyMoved c w ∧ orderly w ∧ movedLanes c k.lanes (fun _ => some ((afterInstr k len).1, k.level, (afterInstr k len).2)) w

/-- 08 R191, R192: of two carriages that stand at one pc, level and repeat state, and at S or H in one frame slot, one is left, in the lower
slot, with the lanes and the members of both; and a free slot takes the lowest siding entry that is not held, with its fields, an entry at U
with that slot as its frame slot. For the choice of R188 it counts as having issued when its coach last did (log entry 10, the model's reading). -/
def Obligations.CarriagesCoupleAndFreeSlotsFill : Prop :=
  (∀ (c : Coach) (i j : Nat) (a b : Carriage), i < j → j < 4 → c.slots = [(i, a), (j, b)] → c.siding = [] →
    a.pc = b.pc → a.level = b.level → a.rep = b.rep → (a.level ≠ .U → a.fslot = b.fslot) →
    ∃ k, (settle c).slots = [(i, k)] ∧ k.pc = a.pc ∧ k.level = a.level ∧ k.rep = a.rep ∧ k.lanes = a.lanes ||| b.lanes
      ∧ k.member = a.member ||| b.member ∧ (a.level ≠ .U → k.fslot = a.fslot) ∧ (settle c).siding = [])
  ∧ ∀ (c : Coach) (i : Nat) (a : Carriage) (e : SidingEntry), i < 4 → c.slots = [(i, a)] → c.siding = [e] → e.held = none →
    (e.pc ≠ a.pc ∨ e.level ≠ a.level ∨ e.rep ≠ a.rep) →
    let j := if i = 0 then 1 else 0
    let k : Carriage :=
      { pc := e.pc, lanes := e.lanes, level := e.level, member := e.member, rep := e.rep, wake := e.wake
        fslot := if e.level = .U then j else e.fslot, bar := e.bar, lastIssue := c.issued }
    (settle c).siding = [] ∧ mget (settle c).slots i = some a ∧ mget (settle c).slots j = some k

/-- 08 R190, R193: a blocked carriage whose slot goes to the lowest siding entry that is not held becomes an entry at its own pc, in ascending
order of pc: no lane moves. The slot holds that entry as a carriage that is not blocked and was promoted at this clock, at U in the slot's
frame; nothing else of the coach changes, where no two of its carriages and entries couple. -/
def Obligations.DemotionMovesNoLane : Prop :=
  (∀ (c : Coach) (j clk : Nat) (k : Carriage), orderly c → mget c.slots j = some k →
    onlyMoved c (demote c j clk) ∧ orderly (demote c j clk) ∧ movedLanes c 0 (fun _ => none) (demote c j clk))
  ∧ ∀ (c : Coach) (j clk : Nat) (k : Carriage) (e : SidingEntry) (pre post : List SidingEntry),
    c.slots.map Prod.fst = [0, 1, 2, 3] → mget c.slots j = some k → c.siding = pre ++ e :: post →
    (∀ y ∈ pre, y.held ≠ none) → e.held = none →
    (c.slots.map fun x => (x.2.pc, x.2.level, x.2.rep)).Nodup →
    (∀ y ∈ c.siding, y.held = none → (y.pc, y.level, y.rep) ∉ c.slots.map fun x => (x.2.pc, x.2.level, x.2.rep)) →
    (∀ y ∈ post, y.held = none → (y.pc, y.level, y.rep) ≠ (e.pc, e.level, e.rep)) →
    let w := demote c j clk
    w = { c with slots := w.slots, siding := w.siding }
      ∧ mget w.slots j = some
          { pc := e.pc, lanes := e.lanes, level := e.level, member := e.member, rep := e.rep, wake := e.wake, bar := e.bar, blocked := 0
            fslot := if e.level = .U then j else e.fslot, promoted := clk, lastIssue := c.issued }
      ∧ (∀ n, n ≠ j → mget w.slots n = mget c.slots n)
      ∧ ∃ a b, pre ++ post = a ++ b
          ∧ w.siding = a ++ { pc := k.pc, lanes := k.lanes, level := k.level, member := k.member, rep := k.rep, fslot := k.fslot
                              wake := k.wake, bar := k.bar } :: b
          ∧ (∀ y ∈ a, y.pc.toNat ≤ k.pc.toNat) ∧ ∀ y ∈ b.head?, k.pc.toNat < y.pc.toNat

/-! ## Scalar instructions (11) -/

/-- 11 R266 to R271: the scalar instructions of a carriage, each of those listed: it goes on with the result that the table gives it. -/
def Obligations.ScalarInstructionsComputeTheTable : Prop :=
  (∀ (d a b : BitVec 8) (i : BitVec 16) (lit : W32), ∀ x ∈ (
      [.sadd d a b, .ssub d a b, .smul d a b, .smulh d a b, .smulhu d a b, .sdiv d a b, .sdivu d a b, .srem d a b, .sremu d a b,
        .sand d a b, .sor d a b, .sxor d a b, .sshl d a b, .sshr d a b, .ssra d a b, .smin d a b, .smax d a b, .sminu d a b, .smaxu d a b,
        .sslt d a b, .ssltu d a b, .sseq d a b, .saddi d a b, .simm d i, .slit d lit, .slith d a lit, .smov d a, .sclz d a, .spopc d a,
        .sbfx d a b]
      ++ [.sbfi d a b, .ssel d a b] : List Instr), (scalarRule x).isSome = true)
  ∧ ∀ (i : Instr) (d : BitVec 8) (len : Nat) (f : (Nat → W64) → W64) (s : State) (x : Iss),
    scalarRule i = some (d, len, f) → issuer s = some x →
    ∃ w, exec i s = .next (s.setCoach x.c.key (advance w x.slot len)) ∧ scalarWritten x.c x.k d.toNat (f (readS x.c x.k)) w

/-- 11 R265: the scalar instructions of an outrider context, those that `ScalarInstructionsComputeTheTable` lists. -/
def Obligations.ScalarInstructionsRunInOutriders : Prop :=
  ∀ (i : Instr) (d : BitVec 8) (len : Nat) (f : (Nat → W64) → W64) (s : State) (r : CoachRef) (c : Coach),
    scalarRule i = some (d, len, f) → s.cur = some (.outrider r) → coachOf s r.key = some c →
    ∃ p, exec i s = .next (s.setCoach r.key { c with outr := outriderMoved p len })
      ∧ outriderWritten c.outr d.toNat (f (outriderReg c.outr)) p

/-- 11 R265, R275 to R277, R282, 10 R252, R258: the other instructions of these chapters that an outrider context runs. -/
def Obligations.OutridersRunTransfersAndTime : Prop :=
  ∀ (s : State) (r : CoachRef) (c : Coach), s.cur = some (.outrider r) → coachOf s r.key = some c →
    let put (o : Outrider) : State := s.setCoach r.key { c with outr := o }
    let o := c.outr
    let goes (o : Outrider) (pc : W64) : State := put { o with pc := pc, rep := none, wait := false }
    exec .nop s = .next (put (outriderMoved o 4))
      ∧ (∀ n d a b st,
          let rep : Rep := { count := n.toNat, index := 0, steps := 4 * d.toNat + 2 * a.toNat + b.toNat, stride := st.toNat }
          exec (.rep n d a b st) s = .next (put { o with pc := behind o.pc 4, rep := some rep, wait := false }))
      ∧ (∀ d i, exec (.bnz d i) s = .next (goes o (if outriderReg o d.toNat ≠ 0 then target o.pc i else behind o.pc 4)))
      ∧ (∀ d i, exec (.bz d i) s = .next (goes o (if outriderReg o d.toNat = 0 then target o.pc i else behind o.pc 4)))
      ∧ (∀ i, exec (.jmp i) s = .next (goes o (target o.pc i)))
      ∧ (∀ i, ∃ p, exec (.jal i) s = .next (goes p (target o.pc i)) ∧ outriderWritten o 1 (behind o.pc 4) p)
      ∧ (∀ a, exec (.jr a) s = .next (goes o (outriderReg o a.toNat)))
      ∧ ∀ d u, ∃ p, exec (.time d u) s = .next (put (outriderMoved p 4))
          ∧ outriderWritten o d.toNat (BitVec.ofNat 64 (if u = 0 then (chassisOf s r.ch).clk else s.ns)) p

/-- 11 R265, 10 R260, 08 R208: any other instruction word that an outrider context fetches is a failure of that fetch, and nothing else. -/
def Obligations.OtherInstructionsFailTheOutrider : Prop :=
  ∀ (i : Instr) (s : State) (r : CoachRef) (c : Coach), encode i ≠ [] → outriderRuns i = false →
    s.cur = some (.outrider r) → coachOf s r.key = some c →
    exec i s = .next (s.setCoach r.key { c with outr := { c.outr with failed := some c.outr.pc } })

/-! ## Control (10, 11) -/

/-- 10 R248, R252, R258, 11 R280: NOP, MODE, REP and YIELD. -/
def Obligations.NopModeRepAndYieldComplete : Prop :=
  ∀ (s : State) (x : Iss), issuer s = some x → orderly x.c →
    exec .nop s = .next (s.setCoach x.c.key (advance x.c x.slot 4))
      ∧ (∀ m v, ∃ w, exec (.mode m v) s = .next (s.setCoach x.c.key (advance w x.slot 4))
          ∧ (∀ b, b < 16 → (modeOf w x.k).getLsbD b = if m.getLsbD (modeField b) then v.getLsbD b else (modeOf x.c x.k).getLsbD b)
          ∧ w = { x.c with mode := w.mode, frames := w.frames } ∧ (x.k.level ≠ .U → w.mode = x.c.mode)
          ∧ ∀ j l, l ≠ .U → frameOf w j l = if x.k.level = l ∧ j = x.k.fslot then { frameOf x.c j l with mode := modeOf w x.k }
              else frameOf x.c j l)
      ∧ (∀ n d a b st, ∃ w, exec (.rep n d a b st) s = .next (s.setCoach x.c.key w) ∧ onlyMoved x.c w
          ∧ movedLanes x.c x.k.lanes (fun _ => some (behind x.k.pc 4, x.k.level,
              some { count := n.toNat, index := 0, steps := 4 * d.toNat + 2 * a.toNat + b.toNat, stride := st.toNat })) w)
      ∧ ∃ w, exec .yield s = .next (s.setCoach x.c.key w) ∧ onlyMoved x.c w
          ∧ movedLanes x.c x.k.lanes (fun _ => some ((afterInstr x.k 4).1, x.k.level, (afterInstr x.k 4).2)) w
          ∧ ∃ e ∈ w.slots, x.k.lanes &&& ~~~e.2.lanes = 0 ∧ clkOf s x.c + 32 ≤ e.2.yieldUntil

/-- 11 R272 to R277, 10 R239: the transfers of a whole carriage. BRU takes the way of the lowest lane, and sets UBM where another lane would
go the other way. -/
def Obligations.TransfersMoveTheWholeCarriage : Prop :=
  ∀ (s : State) (x : Iss), issuer s = some x → orderly x.c →
    let goes (i : Instr) (c : Coach) (pc : W64) : Prop :=
      ∃ w, exec i s = .next (s.setCoach x.c.key w) ∧ onlyMoved c w ∧ movedLanes x.c x.k.lanes (fun _ => some (pc, x.k.level, none)) w
    let cond (i : BitVec 1) (p : BitVec 3) (l : Nat) : Bool := xor (readP x.c p.toNat l) (i == 1)
    (∀ i, goes (.jmp i) x.c (target x.k.pc i))
      ∧ (∀ i, ∃ c, goes (.jal i) c (target x.k.pc i) ∧ scalarWritten x.c x.k 1 (behind x.k.pc 4) c)
      ∧ (∀ a, goes (.jr a) x.c (readS x.c x.k a.toNat))
      ∧ (∀ d i, goes (.bnz d i) x.c (if readS x.c x.k d.toNat ≠ 0 then target x.k.pc i else behind x.k.pc 4))
      ∧ (∀ d i, goes (.bz d i) x.c (if readS x.c x.k d.toNat = 0 then target x.k.pc i else behind x.k.pc 4))
      ∧ ∀ i p o l0, (lanesOf x.k.lanes).head? = some l0 →
          goes (.bru i p o) (if ∀ l ∈ lanesOf x.k.lanes, cond i p l = cond i p l0 then x.c else addFlags x.c x.k fUBM)
            (if cond i p l0 then target x.k.pc o else behind x.k.pc 4)

/-- 11 R274, R278, 08 R189, R198: the divergent transfers. Every lane of the carriage goes to its own target, whatever the guard; JRV pops each
queue port that it names once for each lane. Where lanes trap at their pops, they take the trap, with the JRV as their trapping and their next
state, and the other lanes complete the transfer. -/
def Obligations.DivergentTransfersMoveEachLane : Prop :=
  ∀ (s : State) (x : Iss), issuer s = some x → orderly x.c → x.k.rep = none →
    let goal (a b : BitVec 8) (l : Nat) : Option (W64 × Level × Option Rep) :=
      some (low64 ((readS x.c x.k b.toNat).toNat + (readV x.c x.k l a.toNat).toNat), x.k.level, none)
    (∀ i p o, ∃ w, exec (.brv i p o) s = .next (s.setCoach x.c.key w) ∧ onlyMoved x.c w
        ∧ movedLanes x.c x.k.lanes (fun l => some
            (if xor (readP x.c p.toNat l) (i == 1) then target x.k.pc o else behind x.k.pc 4, x.k.level, none)) w)
      ∧ (∀ a b, (∀ l ∈ lanesOf x.k.lanes, queueTrap x.c x.k (.jrv a b) l = none) →
          ∃ c w, exec (.jrv a b) s = .next (s.setCoach x.c.key w) ∧ onlyMoved c w ∧ c = { x.c with ports := c.ports }
            ∧ (∀ q l, (portOf c q).posOf l = (portOf x.c q).posOf l
                + if q ∈ popsOf x.c x.k (.jrv a b) ∧ l < 32 ∧ x.k.lanes.getLsbD l = true then 1 else 0)
            ∧ movedLanes x.c x.k.lanes (goal a b) w)
      ∧ ∀ a b,
          let ts := (lanesOf x.k.lanes).filterMap (queueTrap x.c x.k (.jrv a b))
          let m := maskOf (ts.map LaneTrap.lane)
          let k := { x.k with lanes := m }
          ts ≠ [] → reportWaits s x.c x.k ts = false →
          ∃ c u w, c = { x.c with slots := mset x.c.slots x.slot k, ports := c.ports }
            ∧ (∀ q l, (portOf c q).posOf l = (portOf x.c q).posOf l
                + if q ∈ popsOf x.c x.k (.jrv a b) ∧ l < 32 ∧ (x.k.lanes &&& ~~~m).getLsbD l = true then 1 else 0)
            ∧ coachOf (takeTrap s c x.slot k ts (x.k.pc, none)) x.c.key = some u
            ∧ exec (.jrv a b) s = .next ((takeTrap s c x.slot k ts (x.k.pc, none)).setCoach x.c.key w)
            ∧ onlyMoved u w ∧ movedLanes u (x.k.lanes &&& ~~~m) (goal a b) w

/-! ## Lane instructions (12, 13) -/

/-- 12 R286 to R307, 13 R308 to R317, 10 R249, 00 R11, R13: the vector, predicate, cross-lane and level-index instructions. Every active lane of the carriage takes the result
that its table gives it, from the registers as they stand at issue; a lane that traps writes nothing, and the others complete. -/
def Obligations.LaneInstructionsWriteActiveLanes : Prop :=
  (∀ (d a b : BitVec 8) (i : BitVec 16) (lit : W32) (p q r : BitVec 3) (t : BitVec 4) (w : BitVec 2) (e : BitVec 1) (n : BitVec 5), ∀ x ∈ (
      [.vadd d a b, .vsub d a b, .vmul d a b, .vfma d a b, .vfnma d a b, .vmin d a b, .vmax d a b, .vabs d a, .vneg d a, .vdiv d a b,
        .vsqrt d a, .vmulh d a b, .vand d a b, .vor d a b, .vxor d a b, .vnot d a, .vshl d a b, .vshr d a b, .vclz d a, .vpopc d a,
        .vbfx d a b, .vbfi d a b, .vadds d a b, .vmuls d a b, .vfmas d a b, .vimm d i, .vlit d lit, .vmov d a, .vfrs d a, .vsel d a p]
      ++ [.vcmpeq p d a, .vcmpne p d a, .vcmplt p d a, .vcmple p d a, .vcmpun p d a, .pand p q r, .por p q r, .pxor p q r, .pnot p q,
        .pfrs p d, .vcvt d a t, .vpack d a w t, .vunpk d a w e t, .vsfuRcp d a, .vsfuRsq d a, .vsfuLg2 d a, .vsfuFexp d a, .vsfuSin d a,
        .vsfuCos d a, .vsfuTanh d a, .vsfuSigm d a, .vrndi d a, .vxins d a b, .vxext d a, .voteany p q, .voteall p q, .vbal d p,
        .shfli d a b, .shflu d a n, .shfld d a n]
      ++ [.shflx d a n, .vred d a p, .vscan d a e p, .liadd d a b, .lisub d a b, .limul d a b, .lidiv d a b, .liclt p d a, .liceq p d a,
        .lineg d a, .liabs d a, .litof d a t, .lifrf d a t, .litoi d a t, .lifri d a t, .lilvl d a w] : List Instr), (laneRule x).isSome = true)
  ∧ ∀ (i : Instr) (r : LaneRule) (s : State) (x : Iss), laneRule i = some r → issuer s = some x →
    ∃ w, lanesWritten x.c x.k i (outsBy r i x.c x.k) w
      ∧ (trapsBy r i x.c x.k = [] → exec i s = .next (s.setCoach x.c.key (advance w x.slot r.len)))
      ∧ (trapsBy r i x.c x.k ≠ [] → reportWaits s x.c x.k (trapsBy r i x.c x.k) = false →
          exec i s = .next (takeTrap s w x.slot x.k (trapsBy r i x.c x.k) (afterInstr x.k r.len)))

/-- 09 R217, R218, 12 R286, R287, R289, R297, R305: an integer element is the exact result, wrapped to its width, or under mode.sat held to the
range of its type with SA raised where that changes it; an sl type computes as int32; and each element of a register is computed by itself. The
same of a conversion to an integer type, which rounds a binary value once, and of a sum over members; the least and the greatest of integers,
and the bit operations, are what their names say. -/
def Obligations.IntegerElementsWrapOrSaturate : Prop :=
  (∀ (op : ArithOp) (m : Mode) (t : IntFmt) (a b d : Nat) (n : Int), m.etype.noSl = .int t →
    exactOf op (t.decode a) (t.decode b) (t.decode d) = some n →
    (op ≠ .rndi → elemArith op m a b d = intHeld t m.sat n) ∧ (op = .rndi → elemArith op m a b d = (a % 2 ^ t.w, 0)))
  ∧ (∀ (m : Mode) (t : IntFmt) (a b d : Nat), m.etype.noSl = .int t → t.decode b = 0 → elemArith .div m a b d = (2 ^ t.w - 1, 0))
  ∧ (∀ (op : ArithOp) (m : Mode) (a b d k : Nat), k < elemCount (vecWidth m) →
    let w := vecWidth m
    elem (regArith op m a b d).1 k w = (elemArith op m (elem a k w) (elem b k w) (elem d k w)).1 % 2 ^ w)
  ∧ (∀ (m : Mode) (src x : Nat) (t : IntFmt), m.etype.noSl = .int t →
    (∀ u, EType.ofCode src = .int u → convert m src x = intHeld t m.sat (u.decode x))
      ∧ ∀ f, EType.ofCode src = .float f →
        let v := f.decode m.ftz (x % 2 ^ f.w)
        (∀ g, v = .nan g → convert m src x = (0, fIV)) ∧ (∀ n, v = .zero n → convert m src x = (0, 0))
          ∧ (∀ n, v = .inf n → convert m src x = ((intHeld t true (if n then -2 ^ 64 else 2 ^ 64)).1, fIV))
          ∧ ∀ q, v = .fin q → convert m src x
              = ((intHeld t m.sat (roundInt q m.rnd)).1,
                (if roundInt q m.rnd * q.den = q.num then 0 else fNX) ||| (intHeld t m.sat (roundInt q m.rnd)).2))
  ∧ (∀ (m : Mode) (t : IntFmt) (xs : List (Nat × Bool)), m.etype = .int t → xs ≠ [] →
    contributed .add m xs = intHeld t m.sat (xs.map fun x => t.decode x.1).sum
      ∧ (contributed .min m xs).2 = 0 ∧ (contributed .max m xs).2 = 0
      ∧ (contributed .min m xs).1 ∈ xs.map Prod.fst ∧ (contributed .max m xs).1 ∈ xs.map Prod.fst
      ∧ ∀ x ∈ xs, t.decode (contributed .min m xs).1 ≤ t.decode x.1 ∧ t.decode x.1 ≤ t.decode (contributed .max m xs).1)
  ∧ ∀ (m : Mode) (xs : List (Nat × Bool)) (b : Nat), xs ≠ [] → b < m.etype.width →
    (contributed .and m xs).1.testBit b = (xs.all fun x => x.1.testBit b)
      ∧ (contributed .or m xs).1.testBit b = (xs.any fun x => x.1.testBit b)
      ∧ (contributed .xor m xs).1.testBit b = decide ((xs.countP fun x => x.1.testBit b) % 2 = 1)
      ∧ ∀ op ∈ [RedOp.and, .or, .xor], (contributed op m xs).2 = 0

/-- 09 R220, R222 to R225, 12 R297: each rounding direction gives the neighbour that the rule names; a pattern of a float format that is no NaN is
the encoding of its value, in every direction, without a flag; any other finite value is rounded once, to the fraction bits of its exponent or
of the least exponent: the pattern written holds that value, with NX where it is inexact and UF where it is tiny as well; a tiny result is a
zero under ftz; a value beyond the largest overflows as its direction and mode.sat say. A conversion between float formats is such a
rounding. -/
def Obligations.FloatResultsAreRoundedOnce : Prop :=
  (∀ (a : Rat') (rnd : Nat), 0 < a.den →
    let r := roundInt a rnd
    let d : Int := a.den
    (rnd = 0 → 2 * (a.num - r * d).natAbs ≤ a.den ∧ (2 * (a.num - r * d).natAbs = a.den → r % 2 = 0))
      ∧ (rnd = 1 → r.natAbs * a.den ≤ a.num.natAbs ∧ a.num.natAbs < (r.natAbs + 1) * a.den ∧ 0 ≤ r * a.num)
      ∧ (rnd = 2 → (r - 1) * d < a.num ∧ a.num ≤ r * d)
      ∧ (rnd = 3 → r * d ≤ a.num ∧ a.num < (r + 1) * d)
      ∧ (rnd = 4 → 2 * (a.num - r * d).natAbs ≤ a.den
          ∧ (2 * (a.num - r * d).natAbs = a.den → a.num.natAbs < r.natAbs * a.den)))
  ∧ (∀ (t : FloatFmt) (b rnd : Nat) (sat : Bool), t ∈ floats → b < 2 ^ t.w → rnd ≤ 4 → (t.decode false b).isNan = false →
    t.encode rnd sat false (t.decode false b) = (b, 0))
  ∧ (∀ (t : FloatFmt) (x : Rat') (rnd : Nat) (sat ftz : Bool), t ∈ floats → 0 < x.den → x.num ≠ 0 → rnd ≤ 4 →
    let m : Int := t.m
    let e := max x.log2 t.emin
    let n := roundInt (x.scale (m - e)) rnd
    let y := (Rat'.ofInt n).scale (e - m)
    let tiny := ((Rat'.ofInt (roundInt (x.scale (m - x.log2)) rnd)).scale (x.log2 - m)).abs.lt (Rat'.pow2 t.emin) = true
    let sg : Nat := if x.num < 0 then 2 ^ (t.w - 1) else 0
    let r := t.encode rnd sat ftz (.fin x)
    (Rat'.pow2 x.log2).le x.abs = true ∧ x.abs.lt (Rat'.pow2 (x.log2 + 1)) = true
      ∧ (tiny → ftz = true → r = (sg, fUF ||| fNX))
      ∧ (¬(tiny ∧ ftz = true) → t.maxVal.lt y.abs = false →
          (n = 0 → t.decode false r.1 = .zero (decide (x.num < 0)))
            ∧ (n ≠ 0 → ∃ q, t.decode false r.1 = .fin q ∧ q.eqv y = true)
            ∧ r.2 = (if y.eqv x then 0 else fNX ||| if tiny then fUF else 0))
      ∧ (t.maxVal.lt y.abs = true →
          r.2 = fOF ||| fNX
            ∧ r.1 = if sat = true ∨ rnd = 1 ∨ (rnd = 2 ∧ x.num < 0) ∨ (rnd = 3 ∧ 0 < x.num) then sg + t.maxPat
                else if t.e4 then t.nanC else sg + t.infPat))
  ∧ ∀ (m : Mode) (src x : Nat) (s t : FloatFmt), EType.ofCode src = .float s → m.etype.noSl = .float t →
    let v := s.decode m.ftz (x % 2 ^ s.w)
    (v.isNan = false → convert m src x = t.encode m.rnd m.sat m.ftz v)
      ∧ ∀ g, v = .nan g → convert m src x = (t.nanC, if g then fIV else 0)

/-- 09 R230, R231, R233, 12 R305, 13 R310 to R313: level-index results. A pattern decodes by its fields; negation and the absolute value
are exact; values compare as their places lie. A NaN, a zero, a one, an operand with itself and a pair of exponents below one have the
results that the rules fix; LX says that the level of a result that is no NaN is not the greater one of its operands. Conversions of NaNs,
infinities, zeros and ones, and the encodings that R233 works out. A combination of contributions does not depend on their order, and an
empty one is the identity (log entry 34, the model's reading). Where a rounding of a transcendental value is decided by enclosures, log
entry 4 names the model's reading; no clause rests on it. -/
def Obligations.LevelIndexAndReductionResults : Prop :=
  (∀ (fb pa pb : Nat), fb = 27 ∨ fb = 11 → pa < 2 ^ (fb + 5) → pb < 2 ^ (fb + 5) →
    let x := decodeSl fb pa
    let y := decodeSl fb pb
    let one (n : Bool) : SlVal := .fin n { neg := false, u := 0 }
    let ar (op : SlOp) : Nat × FlagSet := liArith op fb pa pb
    let zero (n : Bool) : Nat := if n then 2 ^ (fb + 4) else 0
    x = slValue fb pa ∧ decodeSl fb (x.pattern fb) = x ∧ decodeSl fb (x.negate.pattern fb) = x.negate
      ∧ (x ≠ .nan → y ≠ .nan → (x.lt y = true ↔ slPlace x < slPlace y) ∧ (x.eqv y = true ↔ slPlace x = slPlace y))
      ∧ (∀ op, (x = .nan ∨ y = .nan → ar op = (2 ^ fb - 1, 0))
          ∧ (ar op).2 &&& ~~~(fIV ||| fDZ ||| fLX) = 0
          ∧ (x ≠ .nan → y ≠ .nan → ¬(op = .div ∧ slPlace x = 0 ∧ slPlace y = 0) →
              ((ar op).2.getLsbD 5 = true ↔ slLevel fb (ar op).1 ≠ max (slLevel fb pa) (slLevel fb pb))
                ∧ (ar op).2.getLsbD 0 = false ∧ ((ar op).2.getLsbD 1 = true ↔ op = .div ∧ slPlace y = 0)))
      ∧ (∀ m n, x = .zero m → y = .zero n →
          ar .div = (2 ^ fb - 1, fIV) ∧ (ar .mul).1 = zero (xor m n) ∧ (ar .add).1 = zero (m && n) ∧ (ar .sub).1 = zero (m && !n))
      ∧ (∀ m t n, x = .fin m t → y = .zero n →
          (ar .div).1 = zero (xor m n) + (2 ^ (fb + 3) - 1) ∧ (ar .mul).1 = zero (xor m n) ∧ (ar .add).1 = x.pattern fb
            ∧ (ar .sub).1 = x.pattern fb)
      ∧ (∀ m n t, x = .zero m → y = .fin n t →
          (ar .div).1 = zero (xor m n) ∧ (ar .mul).1 = zero (xor m n) ∧ (ar .add).1 = y.pattern fb ∧ (ar .sub).1 = y.negate.pattern fb)
      ∧ (∀ m n t, x = .fin m t → y = one n →
          (ar .mul).1 = (SlVal.fin (xor m n) t).pattern fb ∧ (ar .div).1 = (SlVal.fin (xor m n) t).pattern fb)
      ∧ (∀ m n t, x = .fin m t → y = .fin n t →
          (ar .div).1 = (one (xor m n)).pattern fb ∧ (m = n → (ar .sub).1 = 0) ∧ (m ≠ n → (ar .add).1 = 0))
      ∧ (∀ m n s t, x = .fin m s → y = .fin n t → s.u < 2 ^ fb → t.u < 2 ^ fb →
          let sum : Int := (if s.neg then -(s.u : Int) else s.u) + if t.neg then -(t.u : Int) else t.u
          sum.natAbs ≤ 2 ^ fb → (ar .mul).1 = (SlVal.fin (xor m n) { neg := decide (sum < 0), u := sum.natAbs }).pattern fb)
      ∧ (∀ t rnd sat ftz, t ∈ floats →
          (x = .nan → slToFloat fb pa t rnd sat ftz = (t.nanC, 0))
            ∧ ∀ n, (x = .zero n → slToFloat fb pa t rnd sat ftz = (if n then 2 ^ (t.w - 1) else 0, 0))
              ∧ (x = one n → slToFloat fb pa t rnd sat ftz = ((if n then 2 ^ (t.w - 1) else 0) + t.bias.toNat * 2 ^ t.m, 0)))
      ∧ ∀ t rnd sat, (x = .nan → slToInt fb pa t rnd sat = (0, fIV))
          ∧ ∀ n, (x = .zero n → slToInt fb pa t rnd sat = (0, 0)) ∧ (x = one n → slToInt fb pa t rnd sat = intHeld t sat (if n then -1 else 1)))
  ∧ (∀ fb, (∀ g, encodeSl fb (.nan g) = (2 ^ fb - 1, 0)) ∧ (∀ n, encodeSl fb (.inf n) = (slMax fb n, fIV))
    ∧ (∀ n, encodeSl fb (.zero n) = (slZero fb n, 0)) ∧ encodeSl fb (Val.ofInt 1) = (2 ^ fb, 0)
    ∧ encodeSl fb (Val.ofInt (-1)) = (2 ^ (fb + 4) + 2 ^ fb, 0))
  ∧ encodeSl 27 (Val.ofInt 2) = (0x0D8B90C0, 0) ∧ encodeSl 27 (.fin ⟨1, 2⟩) = (0x4D8B90C0, 0) ∧ encodeSl 27 (Val.ofInt (-2)) = (0x8D8B90C0, 0)
  ∧ encodeSl 11 (Val.ofInt 2) = (0x0D8C, 0) ∧ encodeSl 11 (.fin ⟨1, 2⟩) = (0x4D8C, 0) ∧ encodeSl 11 (Val.ofInt (-2)) = (0x8D8C, 0)
  ∧ slToFloat 27 0x10000000 fp32 0 false false = (0x402DF854, fNX)
  ∧ (∀ (op : RedOp) (m : Mode) (xs ys : List (Nat × Bool)), op ∈ [RedOp.add, .and, .or, .xor] → xs.Perm ys →
    contributed op m xs = contributed op m ys)
  ∧ ∀ (m : Mode),
    let empty (op : RedOp) (r : Nat) : Prop := contributed op m [] = (r, 0)
    empty .add 0 ∧ empty .or 0 ∧ empty .xor 0 ∧ empty .and (2 ^ m.etype.width - 1)
      ∧ (∀ t, m.etype = .int t → empty .min (intHeld t true (2 ^ 64)).1 ∧ empty .max (intHeld t true (-2 ^ 64)).1)
      ∧ (∀ t ∈ floats, m.etype = .float t → empty .min (if t.e4 then 0x7E else t.infPat)
          ∧ empty .max (if t.e4 then 0xFE else 2 ^ (t.w - 1) + t.infPat))
      ∧ (m.etype = .sl 27 → empty .min 0x3FFFFFFF ∧ empty .max 0xBFFFFFFF) ∧ (m.etype = .sl 11 → empty .min 0x3FFF ∧ empty .max 0xBFFF)

/-- 09 R221, 12 R287, R289, R291, R300, R305: the float results that R221 and the tables single out: a NaN operand gives the canonical NaN, and IV
where it is signalling; infinities that cancel, a zero times an infinity, zero by zero and infinity by infinity give it with IV; a finite
value by zero gives an infinity with DZ; the same of the NaNs and infinities of a sum over members. VSFU gives the results of its table for
special operands and exact cases, and a reciprocal within one place; of the mode it depends on ftz and sat alone, FEXP on rnd too. Which of the
places that R300 allows it takes is a free value (log entry 4). -/
def Obligations.FloatExceptionalResults : Prop :=
  (∀ (t : FloatFmt) (m : Mode) (a b d : Nat), t ∈ floats →
    let x := t.decode m.ftz a
    let y := t.decode m.ftz b
    let z := t.decode m.ftz d
    let ar (op : ArithOp) : Nat × FlagSet := floatArith op t m a b d
    let iv (op : ArithOp) : Prop := (ar op).1 = t.nanC ∧ (ar op).2.getLsbD 0 = true
    (∀ op ∈ [ArithOp.add, .sub, .mul, .div], x.isNan ∨ y.isNan → (ar op).1 = t.nanC ∧ (x = .nan true ∨ y = .nan true → iv op))
      ∧ (∀ op ∈ [ArithOp.fma, .fnma], x.isNan ∨ y.isNan ∨ z.isNan →
          (ar op).1 = t.nanC ∧ (x = .nan true ∨ y = .nan true ∨ z = .nan true → iv op))
      ∧ (∀ n, x = .inf n → y = .inf (!n) → iv .add)
      ∧ (∀ n, x = .inf n → y = .inf n → iv .sub)
      ∧ (∀ n e, (x = .inf n ∧ y = .zero e) ∨ (x = .zero n ∧ y = .inf e) → iv .mul ∧ iv .fma ∧ iv .fnma)
      ∧ (∀ n e, (x = .inf n ∧ y = .inf e) ∨ (x = .zero n ∧ y = .zero e) → iv .div)
      ∧ (∀ q e, x = .fin q → y = .zero e → (ar .div).2.getLsbD 1 = true
          ∧ (t.e4 = false → (ar .div).1 = (if xor q.isNeg e then 2 ^ (t.w - 1) else 0) + t.infPat)))
  ∧ (∀ (t : FloatFmt) (m : Mode) (xs : List (Nat × Bool)), t ∈ floats → m.etype = .float t → xs ≠ [] →
    let has (p : Val → Bool) : Prop := ∃ x ∈ xs, p (t.decode m.ftz x.1) = true
    (has Val.isNan ∨ (has (· == .inf false) ∧ has (· == .inf true)) → contributed .add m xs = (t.nanC, fIV))
      ∧ (¬has Val.isNan → has (· == .inf false) → ¬has (· == .inf true) → contributed .add m xs = (t.infPat, 0))
      ∧ (¬has Val.isNan → has (· == .inf true) → ¬has (· == .inf false) → contributed .add m xs = (2 ^ (t.w - 1) + t.infPat, 0))
      ∧ ((∀ x ∈ xs, t.decode m.ftz x.1 = .zero true) → contributed .add m xs = (2 ^ (t.w - 1), 0)))
  ∧ ∀ (m : Mode) (pat : BitVec 32),
    (∀ op v r, sfuTable op v = some r → sfu32 op m pat v = r)
      ∧ (∀ k : Int, -126 ≤ k → k ≤ 126 → sfu32 .rcp m pat (.fin (Rat'.pow2 k)) = ((127 - k).toNat * 2 ^ 23, 0))
      ∧ (∀ k : Int, -63 ≤ k → k ≤ 63 → sfu32 .rsq m pat (.fin (Rat'.pow2 (2 * k))) = ((127 - k).toNat * 2 ^ 23, 0))
      ∧ (∀ k : Int, -149 ≤ k → k ≤ 127 → k ≠ 0 → sfu32 .lg2 m pat (.fin (Rat'.pow2 k)) = fp32.encode 0 false false (.fin (Rat'.ofInt k)))
      ∧ (∀ k : Int, -126 ≤ k → k ≤ 127 → k ≠ 0 → sfu32 .fexp m pat (.fin (Rat'.ofInt k)) = ((127 + k).toNat * 2 ^ 23, 0))
      ∧ (∀ q : Rat', 0 < q.den → q.num ≠ 0 → isPow2 q = false → m.ftz = false →
          let v : Rat' := { num := if q.num < 0 then -(q.den : Int) else q.den, den := q.num.natAbs }
          (fp32.encode 0 m.sat false (.fin v)).2 &&& (fOF ||| fUF) = 0 →
          let r := sfu32 .rcp m pat (.fin q)
          (r.1 = (fp32.encode 2 true false (.fin v)).1 ∨ r.1 = (fp32.encode 3 true false (.fin v)).1) ∧ r.2.getLsbD 4 = true)
      ∧ ∀ op v (m' : Mode), m'.ftz = m.ftz → m'.sat = m.sat → (op = .fexp → m'.rnd = m.rnd) → sfu32 op m' pat v = sfu32 op m pat v

/-- 12 R302, R307: VMEMB sets the member mask from the low half of a scalar register, unless no lane is active; VTOS takes the value of the lane
named, or of the lowest active one, to a scalar register, and zero where that lane is not active. -/
def Obligations.VmembAndVtosComplete : Prop :=
  ∀ (s : State) (x : Iss), issuer s = some x →
    (∀ a,
        let k := if activeOf x.c x.k = 0 then x.k else { x.k with member := (readS x.c x.k a.toNat).setWidth 32 }
        exec (.vmemb a) s = .next (s.setCoach x.c.key (advance { x.c with slots := mset x.c.slots x.slot k } x.slot 4)))
      ∧ (∀ d a l, (l.toNat < 32 → (activeOf x.c x.k).getLsbD l.toNat = false) → (32 ≤ l.toNat → activeOf x.c x.k = 0) →
          ∃ w, exec (.vtos d a l) s = .next (s.setCoach x.c.key (advance w x.slot 4)) ∧ scalarWritten x.c x.k d.toNat 0 w)
      ∧ ∀ d a l n, n < 32 → (activeOf x.c x.k).getLsbD n = true →
          (if l.toNat < 32 then n = l.toNat else ∀ j, j < n → (activeOf x.c x.k).getLsbD j = false) →
          queueTrap x.c x.k (.vtos d a l) n = none →
          ∃ w u, exec (.vtos d a l) s = .next (s.setCoach x.c.key (advance u x.slot 4))
            ∧ scalarWritten x.c x.k d.toNat (wide x.c x.k n a.toNat) w ∧ u = { w with ports := u.ports }
            ∧ ∀ q j, (portOf u q).posOf j = (portOf x.c q).posOf j + if q ∈ popsOf x.c x.k (.vtos d a l) ∧ j = n then 1 else 0

/-- 11 R283, R284: WID and LID write every lane of the carriage, whatever the guard: a field of the lane's work id or all of it, an extent of
the launch, or where the lane stands. No clause says what an extent of 2^32 gives (log entry 72). -/
def Obligations.WidAndLidWriteEveryLane : Prop :=
  ∀ (s : State) (x : Iss), issuer s = some x →
    let outs (f : Nat → LaneOut) : List (Nat × LaneOut) := (lanesOf x.k.lanes).map fun l => (l, f l)
    let done (i : Instr) (f : Nat → LaneOut) : Prop := (∀ l ∈ lanesOf x.k.lanes, queueTrap x.c x.k i l = none) →
      ∃ w, exec i s = .next (s.setCoach x.c.key (advance w x.slot 4)) ∧ lanesWritten x.c x.k i (outs f) w
    (∀ d, done (.wid d 6) fun l =>
        { writes := [(d.toNat, (rget x.c.workId l).setWidth 32), (d.toNat + 1, (rget x.c.workId l >>> 32).setWidth 32)] })
      ∧ (∀ d n lau, n.toNat ≤ 5 → launchOf s x.c.launch = some lau →
          done (.wid d n) fun l =>
            toReg d (BitVec.ofNat 32 ((rget x.c.workId l).toNat / 2 ^ ((List.range n.toNat).map lau.width).sum % 2 ^ lau.width n.toNat)))
      ∧ (∀ d n lau, 8 ≤ n.toNat → n.toNat ≤ 13 → launchOf s x.c.launch = some lau →
          ∃ e : W32, (lau.extent (n.toNat - 8) < 2 ^ 32 → e.toNat = lau.extent (n.toNat - 8)) ∧ done (.wid d n) fun _ => toReg d e)
      ∧ (∀ d, done (.lid d 0) fun l => toReg d (BitVec.ofNat 32 l))
      ∧ (∀ d, done (.lid d 1) fun l => toReg d (BitVec.ofNat 32 (l % tileWidth x.c x.k)))
      ∧ (∀ d, done (.lid d 2) fun _ => toReg d (BitVec.ofNat 32 (if x.c.yard then 0 else x.c.index)))
      ∧ (∀ d, done (.lid d 3) fun _ => toReg d (BitVec.ofNat 32 x.c.part))
      ∧ (∀ d, done (.lid d 4) fun _ => toReg d (BitVec.ofNat 32 (16 * x.c.ch + x.c.core)))
      ∧ ∀ d, done (.lid d 5) fun _ => toReg d (BitVec.ofNat 32 (if x.c.yard then 0 else x.c.tcore))

/-! ## Waits, traps and the system registers (10, 11, 16, 19) -/

/-- 10 R255 to R257, 14 R328: a wait whose condition holds ends, and where it covers no pending error of its lanes the carriage goes on; one
whose condition does not hold blocks its carriage, and nothing else changes. -/
def Obligations.WaitsEndOrBlock : Prop :=
  ∀ (s : State) (x : Iss), issuer s = some x →
    let on : State := s.setCoach x.c.key (advance x.c x.slot 4)
    let blocked (w : Wait) : State := s.setCoach x.c.key { x.c with slots := mset x.c.slots x.slot { x.k with wait := some w } }
    let left (c : Counter) : Nat := (x.c.ops.filter fun o => o.counter = c).length
    let under (f : BitVec 6) (c : Counter) : Prop := f = 63 ∨ left c ≤ f.toNat
    let errs (v : Covers) : Prop := ∃ l, l < 32 ∧ x.k.lanes.getLsbD l = true ∧ ∃ e, mget x.c.pend l = some e ∧ v.covers e = true
    (∀ l st c t,
        let met := under l .ld ∧ under st .st ∧ under c .cp ∧ under t .tl
        let v : Covers := { load := l.toNat < 63, store := st.toNat < 63, copy := if c.toNat < 63 then some (2 ^ 64) else none }
        (met → ¬errs v → exec (.wait l st c t) s = .next on)
          ∧ (¬met → exec (.wait l st c t) s = .next (blocked (.wait l.toNat st.toNat c.toNat t.toNat))))
      ∧ (∀ a,
        let n := (readS x.c x.k a.toNat).toNat
        let met := ∀ o ∈ x.c.ops, o.counter = .cp → o.cart ≤ n → x.c.cart ≤ o.cart
        (met → ¬errs (waitcCovers x.c n) → exec (.waitc a) s = .next on) ∧ (¬met → exec (.waitc a) s = .next (blocked (.waitc n))))
      ∧ ∀ m,
        let met := ∀ t, t < 8 → m.getLsbD t = true → left (.tag t) = 0
        (met → ¬errs { tags := m } → exec (.waitg m) s = .next on) ∧ (¬met → exec (.waitg m) s = .next (blocked (.waitg m)))

/-- 10 R256, R257, 14 R328, 05 R129, 19 R411: a WAIT, WAITC or WAITG that has ended and covers pending errors of lanes of its carriage traps those
lanes with their causes, addresses and translation codes; the errors are gone, and the failed copies of those lanes are released. A trap that
must report to the host and cannot leaves everything as it is. -/
def Obligations.CoveredErrorsTrapAtTheWait : Prop :=
  ∀ (s : State) (x : Iss), issuer s = some x →
    let traps (v : Covers) (i : Instr) : Prop :=
      let bad := (lanesOf x.k.lanes).filter fun l => (mget x.c.pend l).any v.covers
      let ts : List LaneTrap := bad.filterMap fun l => (mget x.c.pend l).map fun e =>
        { lane := l, cause := e.cause, addr := e.addr, reason := e.walk.reason, stage := e.walk.stage, wlevel := e.walk.wlevel }
      bad ≠ [] →
        (reportWaits s x.c x.k ts = true →
            exec i s = .next (s.setCoach x.c.key { x.c with slots := mset x.c.slots x.slot { x.k with wait := some .report } }))
          ∧ (reportWaits s x.c x.k ts = false → ∃ u, copiesReleased s u x.c bad
            ∧ exec i s
              = .next (takeTrap u { x.c with pend := x.c.pend.filter fun e => e.1 ∉ bad } x.slot x.k ts (afterInstr x.k 4)))
    (∀ l st c t, waitMet x.c l.toNat st.toNat c.toNat t.toNat = true →
        traps { load := l.toNat < 63, store := st.toNat < 63, copy := if c.toNat < 63 then some (2 ^ 64) else none } (.wait l st c t))
      ∧ (∀ a, cartsDone x.c (readS x.c x.k a.toNat).toNat = true →
          traps { copy := if x.c.cart = 0 then none else some (min (readS x.c x.k a.toNat).toNat (x.c.cart - 1)) } (.waitc a))
      ∧ ∀ m, tagsFree x.c m = true → traps { tags := m } (.waitg m)

/-- 11 R279, 08 R195: at U, once every counter is zero and every tag free, EXIT removes the lanes of its carriage that hold no error; while
other lanes live, the coach goes on with them; with its last lanes a coach that has nothing outstanding ends. -/
def Obligations.ExitRemovesItsLanes : Prop :=
  ∀ (s : State) (x : Iss), issuer s = some x → orderly x.c → x.k.level = .U →
    (∀ o ∈ x.c.ops, o.counter = .none) → (∀ l, l < 32 → x.k.lanes.getLsbD l = true → mget x.c.pend l = none) →
    (∀ e ∈ x.c.ports, e.2.faults = []) →
    (x.c.exited ||| x.k.lanes = BitVec.allOnes 32 → mayEnd x.c → ∃ t, exec .exit s = .next t ∧ coachEnds s t x.c)
    ∧ (x.c.exited ||| x.k.lanes ≠ BitVec.allOnes 32 →
    ∃ w, exec .exit s = .next (s.setCoach x.c.key w) ∧ w.exited = x.c.exited ||| x.k.lanes
      ∧ w = { x.c with
          slots := w.slots, siding := w.siding, exited := w.exited, ports := w.ports, arrived := w.arrived, hold := w.hold }
      ∧ movedLanes x.c x.k.lanes (fun _ => none) w)

/-- 11 R279, 10 R256, 08 R208, 05 R129, 19 R411: an EXIT at U whose wait has not ended blocks its carriage. At the end of the wait the lanes with
a pending error or a failed outbound queue write trap at the EXIT, once, with the cause and address of the older, and the other lanes exit; the
errors are gone, and the failed copies of those lanes are released. The kind of the record of a lane that has both is the model's choice (log
entry 71). -/
def Obligations.ExitWaitsForWhatIsOutstanding : Prop :=
  (∀ (s : State) (x : Iss) (o : Op), issuer s = some x → x.k.level = .U → o ∈ x.c.ops →
    (o.counter = .ld ∨ o.counter = .st ∨ o.counter = .cp ∨ o.counter = .tl ∨ ∃ t, t < 8 ∧ o.counter = .tag t) →
    exec .exit s = .next (s.setCoach x.c.key { x.c with slots := mset x.c.slots x.slot { x.k with wait := some .exit } }))
  ∧ (∀ (c : Coach) (l : Nat),
    let wrote (q n : Nat) (f : QFault) : Prop := ∃ p, (q, p) ∈ c.ports ∧ failedWrite p l = some (n, f)
    let late (e : PendErr) : LaneTrap :=
      { lane := l, cause := e.cause, addr := e.addr, reason := e.walk.reason, stage := e.walk.stage, wlevel := e.walk.wlevel }
    ((∀ q n f, ¬wrote q n f) → exitTrap c l = (mget c.pend l).map late)
      ∧ ∀ q n f, wrote q n f → (∀ q' n' f', wrote q' n' f' → (q', f') = (q, f) ∨ f.stamp < f'.stamp) →
          let failed : LaneTrap :=
            { lane := l, cause := f.cause, addr := f.addr, kind := 7, reason := f.walk.reason, stage := f.walk.stage
              wlevel := f.walk.wlevel, port := q }
          (mget c.pend l = none → exitTrap c l = some failed)
            ∧ ∀ e, mget c.pend l = some e → exitTrap c l = some (if f.stamp < e.stamp then failed else late e))
  ∧ ∀ (s : State) (x : Iss), issuer s = some x → x.k.level = .U → (∀ o ∈ x.c.ops, o.counter = .none) →
    let ts := (lanesOf x.k.lanes).filterMap (exitTrap x.c)
    let bad := ts.map LaneTrap.lane
    let k := { x.k with lanes := maskOf bad }
    ts ≠ [] →
      (reportWaits s x.c x.k ts = true →
          exec .exit s = .next (s.setCoach x.c.key { x.c with slots := mset x.c.slots x.slot { x.k with wait := some .report } }))
        ∧ (reportWaits s x.c x.k ts = false → ∃ u c, copiesReleased s u x.c bad
          ∧ c = { x.c with
              slots := mset x.c.slots x.slot k, pend := x.c.pend.filter fun e => e.1 ∉ bad
              exited := x.c.exited ||| (x.k.lanes &&& ~~~maskOf bad), ports := c.ports }
          ∧ exec .exit s = .next (takeTrap u c x.slot k ts (afterInstr x.k 4)))

/-- 16 R359, R360, 11 R279: SYSCALL, HVCALL and BREAK trap every lane with their code; EXIT above U, HVCALL, TRET, SCOPEW and TLBINV at U, SPAWN
above U, and a register or an invalidation of a higher level trap every lane with cause 0x11. -/
def Obligations.CallsAndPrivilegeViolationsTrap : Prop :=
  ∀ (s : State) (x : Iss), issuer s = some x → x.k.lanes ≠ 0 →
    let traps (i : Instr) (cause code : Nat) : Prop :=
      exec i s = .next (takeTrap s x.c x.slot x.k (allTrap x.k cause code) (afterInstr x.k 4))
    let denies (i : Instr) : Prop := traps i 0x11 0
    (∀ n, traps (.syscall n) 1 n.toNat) ∧ (∀ n, traps (.breakOp n) 3 n.toNat)
      ∧ (∀ n, x.k.level ≠ .U → traps (.hvcall n) 2 n.toNat)
      ∧ (x.k.level = .U → (∀ n, denies (.hvcall n)) ∧ (∀ a b, denies (.tret a b)) ∧ (∀ a n, denies (.scopew a n))
          ∧ ∀ d a k, denies (.tlbinv d a k))
      ∧ (x.k.level ≠ .U → denies .exit ∧ ∀ d a, denies (.spawn d a))
      ∧ (x.k.level = .S → ∀ d a k, 3 ≤ k.toNat → denies (.tlbinv d a k))
      ∧ ∀ d r, ¬mayReach x.k.level r.toNat → denies (.xrd d r) ∧ denies (.xwr d r)

/-- 08 R198, 19 R405, R406: taking a trap. The lanes enter at H where a cause of theirs targets H or the S frame is busy, otherwise at S; where
the H frame is busy too, the coach is stuck and the host is told. A fault that the host serves (19 R410) is reported as well. -/
def Obligations.TrapEntersTheTargetLevel : Prop :=
  ∀ (s : State) (c : Coach) (j : Nat) (k : Carriage) (ts : List LaneTrap) (next : W64 × Option Rep),
    orderly c → mget c.slots j = some k → trapsOfCarriage k ts →
    let high := (∃ t ∈ ts, aimsHigh k t) ∨ blockedFrame (frameOf c k.fslot .S)
    let tvec (x : Level) : W64 := if x = .H then (coreOf s c.ch c.core).hvTvec else (coreOf s c.ch c.core).svTvec
    (¬(high ∧ blockedFrame (frameOf c k.fslot .H)) →
        ∃ x w, (high → x = .H) ∧ (¬high → x = .S) ∧ trapEntered c k x ts next (tvec x) w
          ∧ (reported s c k ts = false → takeTrap s c j k ts next = s.setCoach c.key w)
          ∧ (reported s c k ts = true → takeTrap s c j k ts next = sendEvent (s.setCoach c.key w) (reportEvent c k j ts)))
      ∧ (high ∧ blockedFrame (frameOf c k.fslot .H) →
          takeTrap s c j k ts next = sendEvent (s.setCoach c.key { c with stuck := true })
            { ty := 5, ch := c.ch, handle := c.handle, who := c.pasid.toNat, data := [j] })

/-- 08 R200, R208, 16 R361, R367: TRET sends each trap lane to the trapping state, to the next state, or out of the coach, as its two bits
of the resume mask say, at the frame's return level; the other lanes of its carriage go on behind it; the frame is free, or back at the
depth below. A frame that is still re-armed is first taken back by that depth. Of the queue elements for which its lanes have trapped, one
is read again where its lane resumes at the instruction and passed where it resumes behind it, and a failed write is written again. With
its last lanes a coach that has nothing outstanding ends. Which lanes go on behind the TRET, and what becomes of a queue element where
both resume points are one, are the model's readings (log entry 58). -/
def Obligations.TretResolvesTheTrapLanes : Prop :=
  ∀ (s : State) (x : Iss) (a b : BitVec 8), issuer s = some x → orderly x.c → x.k.level ≠ .U → x.k.rep = none →
    let g := frameOf x.c x.k.fslot x.k.level
    let f := if g.rearmed = true ∧ g.depth ≠ 0 then { g with rearmed := false, depth := g.depth - 1 } else g
    let ts := rget f.traps f.depth &&& ~~~x.c.exited
    let mask := readS x.c x.k a.toNat
    let choice (l : Nat) : Nat := mask.toNat / 2 ^ (2 * l) % 4
    let gone := (List.range 32).filter fun l => ts.getLsbD l && 2 ≤ choice l
    let level := Level.ofCode (f.fmisc.toNat % 4)
    let same : Prop := f.npc = f.tpc ∧ repOf (f.frep.toNat % 2 ^ 32) = repOf (f.frep.toNat / 2 ^ 32)
    ts &&& ~~~x.k.lanes = 0 →
    (x.c.exited ||| maskOf gone = BitVec.allOnes 32 → mayEnd x.c → ∃ t, exec (.tret a b) s = .next t ∧ coachEnds s t x.c)
    ∧ (x.c.exited ||| maskOf gone ≠ BitVec.allOnes 32 →
    ∃ t w, exec (.tret a b) s = .next t ∧ t = { s with coaches := mset s.coaches x.c.key w, launches := t.launches }
      ∧ w = { x.c with
          slots := w.slots, siding := w.siding, frames := w.frames, exited := w.exited, ports := w.ports, arrived := w.arrived
          hold := w.hold, ops := w.ops, nextOp := w.nextOp }
      ∧ (level ≠ .U ∨ (∀ e ∈ x.c.ports, e.2.faults = []) → w.ops = x.c.ops ∧ w.nextOp = x.c.nextOp)
      ∧ (level = .U → (x.c.ports.map Prod.fst).Nodup → ∀ q l n e, l < 32 → ts.getLsbD l = true →
          let p := portOf x.c q
          let r := portOf w q
          let key := elemKey n l
          (p.faults.map Prod.fst).Nodup → mget p.faults key = some e → e.called = true →
          (p.dir = .inbound → e.write = false → n = p.posOf l →
              (choice l = 1 → ¬same → r.posOf l = n + 1)
                ∧ (choice l = 0 ∨ (choice l = 1 ∧ same) → r.posOf l = n ∧ mget r.faults key = none
                  ∧ ∃ o ∈ w.ops, o.kind = .qread ∧ o.outrider = true ∧ ∃ y ∈ o.pieces, y.lane = l ∧ y.dst = .elem q n ∧ y.va = e.va))
            ∧ (e.write = true → choice l < 2 → mget r.faults key = none
              ∧ ∃ o ∈ w.ops, o.kind = .qwrite ∧ o.outrider = true
                ∧ ∃ y ∈ o.pieces, y.lane = l ∧ y.dst = .elem q n ∧ y.va = e.va ∧ y.data = e.data.toNat))
      ∧ w.exited = x.c.exited ||| maskOf gone
      ∧ movedLanes x.c x.k.lanes (fun l =>
          if ts.getLsbD l then
            (if choice l = 0 then some (f.tpc, level, repOf (f.frep.toNat % 2 ^ 32))
            else if choice l = 1 then some (f.npc, level, repOf (f.frep.toNat / 2 ^ 32))
            else none)
          else some (behind x.k.pc 4, x.k.level, none)) w
      ∧ (frameOf w x.k.fslot x.k.level).busy = (f.depth ≠ 0 && f.busy)
      ∧ (frameOf w x.k.fslot x.k.level).depth = f.depth - 1 ∧ (frameOf w x.k.fslot x.k.level).rearmed = false
      ∧ (∀ j y, y ≠ .U → (j ≠ x.k.fslot ∨ y ≠ x.k.level) → frameOf w j y = frameOf x.c j y)
      ∧ ∀ l, launchOf s x.c.launch = some l → ∃ l', launchOf t x.c.launch = some l'
          ∧ l' = { l with badexit := l.badexit + (gone.filter fun n => readV x.c x.k n b.toNat ≠ 0).length })

/-- 16 R362 to R369: XRD reads the register of its number; XWR of a register with writable bits makes it read as those bits of s[d], with the flags that
replies and results have raised in this clock ORed into cstat (09 R236), and changes no other such register, no general register and no memory; XWR of a read-only register changes nothing. XWR of sv.teardown starts the teardown of a PASID (02 R59, R60), unless one is under way. -/
def Obligations.XrdAndXwrReachTheRegisters : Prop :=
  ∀ (s : State) (x : Iss), issuer s = some x → coachOf s x.c.key = some x.c →
    (∀ d r, mayReach x.k.level r.toNat →
        ∃ w, exec (.xrd d r) s = .next (s.setCoach x.c.key (advance w x.slot 4))
          ∧ scalarWritten x.c x.k d.toNat (readReg s x.c x.k r.toNat) w)
      ∧ (∀ d r m, mayReach x.k.level r.toNat → writable r.toNat = some m →
          ∃ t w, exec (.xwr d r) s = .next (t.setCoach x.c.key (advance w x.slot 4)) ∧ coachOf t x.c.key = some w
            ∧ readReg t w x.k r.toNat = (readS x.c x.k d.toNat &&& m)
              ||| (if r.toNat = 0 then (rget x.c.raised (cstatKey x.k.level x.k.fslot)).setWidth 64 else 0)
            ∧ (∀ n, n ≠ r.toNat → (writable n).isSome → readReg t w x.k n = readReg s x.c x.k n)
            ∧ t = { s with coaches := t.coaches, chassis := t.chassis } ∧ (∀ n, n ≠ x.c.key → coachOf t n = coachOf s n)
            ∧ w = { x.c with cstat := w.cstat, ldhint := w.ldhint, frames := w.frames })
      ∧ (∀ d r, mayReach x.k.level r.toNat → r.toNat ∈ [1, 2, 3, 4, 5, 6, 0x101, 0x103, 0x104, 0x201, 0x203, 0x204] →
          exec (.xwr d r) s = .next (s.setCoach x.c.key (advance x.c x.slot 4)))
      ∧ (∀ d r, mayReach x.k.level r.toNat → r.toNat = 0x121 →
          let p := (readS x.c x.k d.toNat).setWidth 20
          let t := startTeardown s p
          (s.teardown ≠ none → exec (.xwr d r) s = .next (s.setCoach x.c.key (advance x.c x.slot 4)))
            ∧ (s.teardown = none → t.teardown = some p ∧ t.teardownPasid = p
              ∧ exec (.xwr d r) s = .next (match coachOf t x.c.key with
                  | some c => t.setCoach x.c.key (advance c x.slot 4)
                  | none => t)))
      ∧ (readReg s x.c x.k 0x121).setWidth 20 = s.teardownPasid ∧ (readReg s x.c x.k 0x121).getLsbD 31 = s.teardown.isSome
      ∧ (readReg s x.c x.k 0).setWidth 8 = cstatOf x.c x.k ∧ (readReg s x.c x.k 1).setWidth 16 = modeOf x.c x.k
      ∧ readReg s x.c x.k 2 = BitVec.ofNat 64 (clkOf s x.c) ∧ readReg s x.c x.k 3 = BitVec.ofNat 64 s.ns
      ∧ readReg s x.c x.k 0x105 = (frameOf x.c x.k.fslot .S).tpc ∧ readReg s x.c x.k 0x206 = (frameOf x.c x.k.fslot .H).npc
      ∧ readReg s x.c x.k 0x109 = (coreOf s x.c.ch x.c.core).svTvec ∧ readReg s x.c x.k 0x220 = (chassisOf s x.c.ch).s2tb

/-- 16 R366, R367: a write of nest re-arms a busy frame of the carriage's own level, one depth deeper with no trap lane there; sv.status also holds
fpen. A carriage at H that writes sv.status changes fpen alone. -/
def Obligations.StatusNestRearmsTheFrame : Prop :=
  ∀ (s : State) (x : Iss) (d : BitVec 8) (r : BitVec 10), issuer s = some x → coachOf s x.c.key = some x.c →
    (x.k.level = .H → r.toNat = 0x100 → exec (.xwr d r) s = .next (s.setCoach x.c.key
        (advance { x.c with fpen := BitVec.ofNat 5 ((readS x.c x.k d.toNat).toNat / 2 ^ 8) } x.slot 4)))
    ∧ (x.k.level ≠ .U → r.toNat = (if x.k.level = .S then 0x100 else 0x200) →
    let f := frameOf x.c x.k.fslot x.k.level
    let v := readS x.c x.k d.toNat
    ∃ w, exec (.xwr d r) s = .next (s.setCoach x.c.key (advance w x.slot 4))
      ∧ w = { x.c with frames := w.frames, fpen := if x.k.level = .S then BitVec.ofNat 5 (v.toNat / 2 ^ 8) else x.c.fpen }
      ∧ frameOf w x.k.fslot x.k.level
        = (if v.getLsbD 0 ∧ f.busy = true ∧ f.rearmed = false ∧ f.depth < 7 then
            { f with rearmed := true, depth := f.depth + 1, traps := mset f.traps (f.depth + 1) 0 }
          else f)
      ∧ ∀ j y, y ≠ .U → (j ≠ x.k.fslot ∨ y ≠ x.k.level) → frameOf w j y = frameOf x.c j y)

/-- 11 R281, R282, 16 R370 to R372: SLEEP, TIME, SCOPEW, TLBINV and BAR. SLEEP and BAR block their carriage, SCOPEW its carriage until the write has
completed on every chassis, when it goes on, and TLBINV is an operation of the st counter. -/
def Obligations.TimeAndBlockingInstructionsComplete : Prop :=
  ∀ (s : State) (x : Iss), issuer s = some x →
    let waiting (c : Coach) (k : Carriage) (w : Wait) : State :=
      s.setCoach x.c.key { c with slots := mset x.c.slots x.slot { k with wait := some w } }
    let clk := (chassisOf s x.c.ch).clk
    let mine (w : ScopeWrite) : Prop := w.pc = x.k.pc ∧ w.level = x.k.level ∧ w.lanes &&& ~~~x.k.lanes = 0
    (∀ d u, ∃ w, exec (.time d u) s = .next (s.setCoach x.c.key (advance w x.slot 4))
        ∧ scalarWritten x.c x.k d.toNat (BitVec.ofNat 64 (if u = 0 then clk else s.ns)) w)
      ∧ (∀ n, x.k.wake = 0 → n ≠ 0 → exec (.sleep n) s = .next (waiting x.c { x.k with wake := clk + 16 * n.toNat } .sleep))
      ∧ (∀ n, x.k.wake ≠ 0 → x.k.wake ≤ clk → exec (.sleep n) s = .next (s.setCoach x.c.key (advance x.c x.slot 4)))
      ∧ (x.k.wake = 0 → exec (.sleep 0) s = .next (s.setCoach x.c.key (advance x.c x.slot 4)))
      ∧ (∀ n, ∃ c : Coach, exec (.bar n) s = .next (s.setCoach x.c.key
            { c with slots := mset x.c.slots x.slot { x.k with wait := some (.bar n.toNat), bar := some n.toNat } })
          ∧ c = { x.c with arrived := c.arrived, hold := x.c.hold || unfenced x.c }
          ∧ ∀ m, rget c.arrived m = rget x.c.arrived m ||| if m = n.toNat then x.k.lanes else 0)
      ∧ (∀ a n, x.k.level ≠ .U → (∀ w ∈ x.c.scopews, ¬mine w) → ∃ t,
          exec (.scopew a n) s = .next t ∧ ∃ v : ScopeWrite, v.n = n.toNat ∧ v.lanes = x.k.lanes ∧ v.stamp = s.nextId
            ∧ v.pc = x.k.pc ∧ v.level = x.k.level ∧ v.done = false
            ∧ (∀ i, i < 4 → v.mask.extractLsb' (64 * i) 64 = readS x.c x.k (a.toNat + i))
            ∧ t = { waiting { x.c with scopews := x.c.scopews ++ [v] } x.k (.scopew n.toNat) with nextId := s.nextId + 1 })
      ∧ (∀ a n, x.k.level ≠ .U → (∃ w ∈ x.c.scopews, mine w) → (∀ w ∈ x.c.scopews, mine w → w.done = true) →
          exec (.scopew a n) s = .next (s.setCoach x.c.key
            (advance { x.c with scopews := x.c.scopews.filter fun w => !decide (mine w) } x.slot 4)))
      ∧ (∀ a n, x.k.level ≠ .U → (∃ w ∈ x.c.scopews, mine w ∧ w.done = false) →
          exec (.scopew a n) s = .next (waiting x.c x.k (.scopew n.toNat)))
      ∧ ∀ d a k, x.k.level ≠ .U → (x.k.level = .S → k.toNat < 3) →
          let av := (readS x.c x.k a.toNat).toNat
          let vmid := if k.toNat < 3 then (chassisOf s x.c.ch).s2tb.toNat / 2 ^ 52 else av % 2 ^ 12
          let va := (readS x.c x.k d.toNat).toNat / 2 ^ 12 % 2 ^ 44 * 4096
          let o : Op :=
            { id := x.c.nextOp, counter := .st, kind := .tlbinv k.toNat (av % 2 ^ 20) vmid va, pieces := [], lanes := x.k.lanes
              level := x.k.level, fslot := x.k.fslot, stamp := s.nextId, cart := x.c.cart }
          let c := { x.c with ops := x.c.ops ++ [o], nextOp := x.c.nextOp + 1, last := s.nextId + 1 }
          exec (.tlbinv d a k) s = .next { s.setCoach x.c.key (advance c x.slot 4) with nextId := s.nextId + 1 }

/-- 08 R210 to R212, 16 R373: SPAWN at U deposits, for each active lane in ascending order, the entry in v[d], the payload in v[a] and the lane's work
id in a bay of its core, and goes on. A bay that takes its first record starts its timer; each record counts in the train. Where no bay takes
the next record, the carriage waits with those done noted. Of several free bays the lowest is taken (log entry 76, the model's choice). -/
def Obligations.SpawnDepositsRecords : Prop :=
  (∀ (s : State) (x : Iss) (d a : BitVec 8) (u : State), issuer s = some x → x.k.level = .U → x.k.spawned = 0 →
    x.k.spawn = none → (∀ l ∈ lanesOf (activeOf x.c x.k), queueTrap x.c x.k (.spawn d a) l = none) →
    let step (o : Option State) (l : Nat) : Option State :=
      o.bind fun t => deposit t x.c (readPair x.c x.k l d.toNat) (readPair x.c x.k l a.toNat) (rget x.c.workId l)
    ((lanesOf (activeOf x.c x.k)).foldl step (some s) = some u →
        ∃ w, exec (.spawn d a) s = .next (u.setCoach x.c.key (advance w x.slot 4)) ∧ w = { x.c with ports := w.ports })
      ∧ ∀ pre l post, lanesOf (activeOf x.c x.k) = pre ++ l :: post → pre.foldl step (some s) = some u → step (some u) l = none →
          exec (.spawn d a) s = .next (u.setCoach x.c.key { x.c with
            slots := mset x.c.slots x.slot
              { x.k with spawn := some { lanes := activeOf x.c x.k, d := d.toNat, a := a.toNat }, spawned := maskOf pre, wait := some .yard } }))
  ∧ ∀ (s : State) (c : Coach) (entry payload wid : W64),
    let k := coreOf s c.ch c.core
    let r : YardRec := { payload := payload, wid := wid, train := c.train }
    let takes (b : Bay) : Prop := b.entry = entry ∧ b.launch = c.launch ∧ b.recs.length < 32
    (∀ i b, i < 8 → mget k.bays i = some b → takes b → (∀ j e, j < i → mget k.bays j = some e → ¬takes e) →
        ∃ u, deposit s c entry payload wid = some u
          ∧ coreOf u c.ch c.core = { k with bays := mset k.bays i { b with recs := b.recs ++ [r] } }
          ∧ u = { s with chassis := u.chassis, trains := u.trains }
          ∧ ∀ t, trainOf s c.train = some t → trainOf u c.train = some { t with yardLeft := t.yardLeft + 1 })
      ∧ (∀ i, i < 8 → (∀ j e, j < 8 → mget k.bays j = some e → ¬takes e) → mget k.bays i = none →
          (∀ j, j < i → mget k.bays j ≠ none) →
          ∃ u b, deposit s c entry payload wid = some u ∧ coreOf u c.ch c.core = { k with bays := mset k.bays i b }
            ∧ b.entry = entry ∧ b.launch = c.launch ∧ b.vmid = c.vmid ∧ b.recs = [r] ∧ b.deadline = s.ns + 16 * max 1 k.yard ∧ b.expired = false)
      ∧ ((∀ i, i < 8 → ∃ b, mget k.bays i = some b ∧ ¬takes b) → deposit s c entry payload wid = none)

/-! ## Memory (14, 10, 06, 04, 03) -/

/-- 14 R318, R323, 04 R87: the checks of an access come in order: range, alignment, translation, region; those of a window access, its
bound and its alignment. That the first check that fails gives the cause is the model's reading (log entry 59). -/
def Obligations.AccessChecksComeInOrder : Prop :=
  (∀ (s : State) (q : Asker) (w : Want) (l : Nat) (va : W64), 0 < w.size →
    let t (cause : Nat) : Checked := .trap { lane := l, cause := cause, addr := va, kind := w.kind }
    let sound : Prop := va.toNat < 2 ^ 56 ∧ w.size ∣ va.toNat
    (2 ^ 56 ≤ va.toNat → checkAccess s q w l va = t 7)
      ∧ (va.toNat < 2 ^ 56 → ¬w.size ∣ va.toNat → checkAccess s q w l va = t 6)
      ∧ (∀ f, sound → translate s q w.acc va = .fault f → ∃ r, checkAccess s q w l va = .trap r
          ∧ r.lane = l ∧ r.cause = f.cause ∧ r.addr = f.addr ∧ r.kind = w.kind ∧ r.reason = f.reason ∧ r.stage = f.stage
          ∧ r.wlevel = f.wlevel)
      ∧ (∀ m, sound → translate s q w.acc va = .miss m → checkAccess s q w l va = .miss m)
      ∧ ∀ pa at_, sound → translate s q w.acc va = .pa pa at_ →
          (∀ h, regionOf pa = .dram → resolve pa = some h → checkAccess s q w l va = .ok .mem h.wa at_)
            ∧ (regionOf pa = .reserved → checkAccess s q w l va = t 7)
            ∧ (regionOf pa = .control → w.control = true → w.size = 4 ∨ w.size = 8 →
                checkAccess s q w l va = .ok .control (pa % 2 ^ 26) at_)
            ∧ (regionOf pa = .control → w.control = true → w.size ≠ 4 → w.size ≠ 8 → checkAccess s q w l va = t 6)
            ∧ (regionOf pa = .control → w.control = false → checkAccess s q w l va = t 7)
            ∧ (regionOf pa = .host → w.windows = true → checkAccess s q w l va = .ok .host (pa % 2 ^ 50) at_)
            ∧ (regionOf pa = .host → w.windows = false → checkAccess s q w l va = t 7)
            ∧ ∀ p, regionOf pa = .peer p →
                checkAccess s q w l va = if w.windows ∧ peerTrained s p then .ok .peer (pa % 2 ^ 43) at_ else t 7)
  ∧ ∀ (s : State) (c : Coach) (kind size l : Nat) (o : Int), 0 < size →
    let win := ownWindow s c kind
    let t (cause : Nat) : Checked := .trap { lane := l, cause := cause, addr := windowAddr kind o, kind := 5 }
    (o < 0 ∨ (win.2 : Int) < o + size → checkBuffer s c kind size l o = t 0x13)
      ∧ (0 ≤ o → o + size ≤ win.2 → ¬(size : Int) ∣ o → checkBuffer s c kind size l o = t 6)
      ∧ (0 ≤ o → o + size ≤ win.2 → (size : Int) ∣ o → checkBuffer s c kind size l o = .ok (.buf kind c.gcore) (win.1 + o.toNat) {})

/-- 14 R318, R319, R321, R323, R324, R326, R327, 04 R95, R96, R107: a memory instruction of lanes. The lanes whose checks pass issue their accesses
as one operation, behind those of their coach, and the others trap. While a lane's check waits for a walk, or a fence or an acquire holds the
coach's accesses, the instruction waits unissued. A load that the L1 holds takes its bytes, and a store there shows in it, at issue where nothing
stands before it (log entry 17, the model's choice of the moment); a store into a line that the core owns is then performed. -/
def Obligations.MemoryInstructionsIssueTheirAccesses : Prop :=
  (∀ (d a b : BitVec 8) (lit : W32) (n : BitVec 5), ∀ x ∈ (
      [.vld8s d a b, .vld8z d a b, .vld16s d a b, .vld16z d a b, .vld32 d a b, .vld64 d a b, .vld128 d a b, .vst8 d a b, .vst16 d a b,
        .vst32 d a b, .vst64 d a b, .vst128 d a b, .ald32 d a b, .ald128 d a b, .ast32 d a b, .ast128 d a b, .cld64 d a b, .cst64 d a b,
        .vlda d a n, .vstl d a n, .vatom d a b lit, .vcas d a b lit, .mred d a lit, .mcas d a b lit, .msax d a b lit, .mwrm d a b lit] : List Instr), (laneMem x).isSome = true)
  ∧ ∀ (i : Instr) (r : MemRule) (s : State) (x : Iss), laneMem i = some r → reservedLit i = false → issuer s = some x →
    let ps := passing r i s x
    let ts := trapping r i s x
    let pieces := ps.flatMap (r.pieces s x)
    let missing : Prop := ∃ l ∈ lanesOf (activeOf x.c x.k), ∃ m, endOf r i s x l = .miss m
    (¬missing → (ps ≠ [] → unheld x.c) → reportWaits s x.c x.k ts = false →
        ∃ u w, onlyIssued s u ∧ w = { x.c with ops := w.ops, nextOp := w.nextOp, last := w.last, ports := w.ports }
          ∧ (ps = [] → u.nextId = s.nextId ∧ w.ops = x.c.ops ∧ w.nextOp = x.c.nextOp ∧ w.last = x.c.last)
          ∧ (ps ≠ [] → u.nextId = s.nextId + 1 ∧ opIssued s u x (r.op s x ps) (maskOf (ps.map Passed.lane)) pieces w)
          ∧ (∀ q l, (portOf w q).posOf l
              = (portOf x.c q).posOf l + if q ∈ popsOf x.c x.k i ∧ l ∈ ps.map Passed.lane then 1 else 0)
          ∧ (ts = [] → exec i s = .next (u.setCoach x.c.key (advance w x.slot r.len)))
          ∧ (ts ≠ [] → exec i s = .next (takeTrap u w x.slot x.k ts (afterInstr x.k r.len))))
      ∧ (¬missing → ps ≠ [] → ¬unheld x.c → reportWaits s x.c x.k ts = false → exec i s
          = .next (s.setCoach x.c.key { x.c with slots := mset x.c.slots x.slot { x.k with wait := some .resource } }))
      ∧ (missing → ∃ u, onlyIssued s u ∧ u.nextId = s.nextId ∧ exec i s
          = .next (u.setCoach x.c.key { x.c with slots := mset x.c.slots x.slot { x.k with wait := some .translation } }))

/-- 14 R318, R322, R326, 04 R95, R96, R107: a scalar load, store or atomic makes one access for its carriage, which its L1 takes as it does those of
lanes (log entry 17); a trap is that of every lane. -/
def Obligations.ScalarAccessesIssueOnce : Prop :=
  (∀ (d a b : BitVec 8) (lit : W32), ∀ x ∈ (
      [.sld32 d a b, .sld64 d a b, .sst32 d a b, .sst64 d a b, .satom d a b lit] : List Instr), (scalarMem x).isSome = true)
  ∧ ∀ (i : Instr) (r : MemRule) (s : State) (x : Iss), scalarMem i = some r → reservedLit i = false → issuer s = some x →
    (∀ sp a at_, r.check s x 32 = .ok sp a at_ →
        let ps := r.pieces s x { lane := 32, space := sp, addr := a, attr := at_ }
        let o := r.op s x [{ lane := 32, space := sp, addr := a, attr := at_ }]
        (unheld x.c → ∃ u w, onlyIssued s u ∧ u.nextId = s.nextId + 1 ∧ w = { x.c with ops := w.ops, nextOp := w.nextOp, last := w.last }
          ∧ opIssued s u x o x.k.lanes ps w ∧ exec i s = .next (u.setCoach x.c.key (advance w x.slot r.len)))
          ∧ (¬unheld x.c → exec i s
            = .next (s.setCoach x.c.key { x.c with slots := mset x.c.slots x.slot { x.k with wait := some .resource } })))
      ∧ (∀ t, r.check s x 32 = .trap t → x.k.lanes ≠ 0 →
          let ts : List LaneTrap := (lanesOf x.k.lanes).map fun l => { t with lane := l }
          reportWaits s x.c x.k ts = false →
          ∃ u, onlyIssued s u ∧ exec i s = .next (takeTrap u x.c x.slot x.k ts (afterInstr x.k r.len)))
      ∧ ∀ m, r.check s x 32 = .miss m → ∃ u, onlyIssued s u ∧ exec i s
          = .next (u.setCoach x.c.key { x.c with slots := mset x.c.slots x.slot { x.k with wait := some .translation } })

/-- 10 R260, 14 R326, R327: a reserved value of an atomic's or a command's literal traps each active lane, for SATOM every lane, with cause 0x07 at
the literal's address; where no lane is active it does nothing. -/
def Obligations.ReservedLiteralsTrap : Prop :=
  ∀ (i : Instr) (s : State) (x : Iss), reservedLit i = true → issuer s = some x →
    let m := match i with
      | .satom _ _ _ _ => x.k.lanes
      | _ => activeOf x.c x.k
    let ts : List LaneTrap := (lanesOf m).map fun l => { lane := l, cause := 7, addr := x.k.pc + 4 }
    (m = 0 → exec i s = .next (s.setCoach x.c.key (advance x.c x.slot 8)))
      ∧ (m ≠ 0 → exec i s = .next (takeTrap s x.c x.slot x.k ts (afterInstr x.k 8)))

/-- 14 R325, 06 R140, 04 R97: a FENCE ends at once where every earlier load, store, atomic and command of its coach is done and, with another
core in its scope, every earlier store of its core; the L1 then keeps owned lines only. Otherwise its carriage waits. -/
def Obligations.FencesEndOrBlock : Prop :=
  (∀ (s : State) (x : Iss) (sc : BitVec 5), issuer s = some x → (∀ g ∈ x.c.fences, x.k.lanes &&& ~~~g.lanes ≠ 0) →
    let wide := scopeWide x.c (scopeCores s x.c sc.toNat) = true
    let met : Prop := (∀ o ∈ x.c.ops, o.fenced = true → s.nextId ≤ o.stamp)
      ∧ (wide → ∀ e ∈ s.coaches, e.2.gcore = x.c.gcore → ∀ o ∈ e.2.ops, o.kind = .store → o.stamp < s.nextId →
          ∀ p ∈ o.pieces, p.phase ≠ 0)
    (met → ¬wide → exec (.fence sc) s = .next (s.setCoach x.c.key (advance x.c x.slot 4)))
      ∧ (met → wide → exec (.fence sc) s = .next ((l1Acquire s x.c.gcore).setCoach x.c.key (advance x.c x.slot 4)))
      ∧ (¬met → ∃ f : FenceRec, f.lanes = x.k.lanes ∧ (f.wide = true ↔ wide) ∧ f.stamp = s.nextId
          ∧ exec (.fence sc) s = .next (s.setCoach x.c.key
              { x.c with fences := x.c.fences ++ [f], slots := mset x.c.slots x.slot { x.k with wait := some .fence } })))
  ∧ ∀ (s : State) (g ln : Nat), let u := l1Acquire s g
    u = { s with chassis := u.chassis } ∧ (∀ h, h ≠ g → coreG u h = coreG s h)
      ∧ (∀ l, l1Line u g ln = some l → l1Line s g ln = some l ∧ l.owned = true) ∧ (coreG u g).icache = []

/-- 10 R253, R256, 14 R319, R321, R324, 04 R95, R96, R100, R107, 03 R69, R71, 07 R178: a load returns the value that memory holds, from the L1
where it holds the bytes, through the caches otherwise, when its sector may fill the L1; a store makes memory hold its bytes, with those of its
instruction to the same sector, at the home or in place in a line that its core owns; other bytes keep their values. An uncorrectable error, or
a home that the divided ring cuts off, gives cause 0x20. A load's value goes to its registers. An operation leaves its counter once it and every
earlier one of that counter are done. The model's choices: what a window's far end answers is a free value (log entry 2), and an access that the
L1 took at its issue only returns here (log entry 17). -/
def Obligations.AccessesArePerformed : Prop :=
  (∀ (s : State) (r : OpRef) (x : Site1), accessOf s r = some x → x.c.key = r.key → x.c.exited ≠ BitVec.allOnes 32 →
    x.o.kind = .load →
    let g := x.c.gcore
    let ln := lineOf x.p.addr
    let arrives (u : State) (v : Nat) : State :=
      acquireDone (u.setCoach r.key (performed (deliver x.c x.p v) x.o r.piece { x.p with phase := 2, result := v })) x.c x.o
    let fails (u : State) (v : Nat) : State :=
      u.setCoach r.key (performed (deliver x.c x.p v) x.o r.piece { x.p with phase := 2, err := some 0x20 })
    let out (u : State) : State := overAt u r x
    (x.p.phase = 1 → ∀ ecc, exec (.loadReturn r ecc) s = .next (out (arrives s x.p.result)))
      ∧ (x.p.phase = 0 → inOrder s x = true → reachSite s x = .never → ∀ ecc, ∃ v,
          exec (.loadReturn r ecc) s = .next (out (fails (takeFreeBytes s x.p.size).2 v)))
      ∧ (x.p.phase = 0 → inOrder s x = true → reachSite s x = .now →
          let ofL1 : Prop := mayHit s x = true ∧ l1Holds s g x.p.addr x.p.size = true
          (x.p.space = .mem → ofL1 → ∀ ecc,
              exec (.loadReturn r ecc) s = .next (out (arrives s (leNat (l1Bytes s g x.p.addr x.p.size)))))
            ∧ (x.p.space = .mem → ¬ofL1 → coherent s → busesUp s → lineFree s ln → hasWay s ln → (usesL1 x = true → hasL1Way s g ln) →
                0 < x.p.size → x.p.addr % 32 + x.p.size ≤ 32 →
                (∃ u, exec (.loadReturn r .clean) s = .next (arrives u (memValue s x.p.addr x.p.size))
                    ∧ u = { s with chassis := u.chassis } ∧ sameMemory s u
                    ∧ (usesL1 x = true → l1Holds u g (x.p.addr / 32 * 32) 32 = true))
                  ∧ (needsCells (recallLine s ln) x.p.addr x.p.size = true →
                      ∃ u v, exec (.loadReturn r .uncorrectable) s = .next (fails u v) ∧ sameMemory s u))
            ∧ (∀ kind h ecc, x.p.space = .buf kind h →
                exec (.loadReturn r ecc) s = .next (out (arrives s (leNat (bufRead s h kind x.p.addr x.p.size)))))
            ∧ (x.p.space = .host ∨ x.p.space = .peer →
                (exec (.loadReturn r .clean) s
                    = .next (out (arrives (takeFreeBytes s x.p.size).2 (leNat (takeFreeBytes s x.p.size).1))))
                  ∧ ∃ v, exec (.loadReturn r .uncorrectable) s = .next (out (fails (takeFreeBytes s x.p.size).2 v)))))
  ∧ (∀ (s : State) (r : OpRef) (x : Site1), accessOf s r = some x → x.c.key = r.key → x.c.exited ≠ BitVec.allOnes 32 →
    x.o.kind = .store →
    let ln := lineOf x.p.addr
    let g := x.c.gcore
    let out (u : State) : State := overAt u r x
    let ends (u : State) (err : Option Nat) : State := u.setCoach r.key (performed x.c x.o r.piece { x.p with phase := 2, err := err })
    let endAll (u : State) (err : Option Nat) : State := u.setCoach r.key
      (accessed x.c x.o.id (x.o.pieces.map fun p => if together x p then { p with phase := 2, err := err } else p))
    let ordered : Prop := ∀ i ∈ storeGroup x, ∃ p, x.o.pieces[i]? = some p ∧ inOrder s { x with p := p, i := i } (storeGroup x) = true
    let small : Prop := ∀ p ∈ x.o.pieces, together x p = true → 0 < p.size ∧ p.addr % 32 + p.size ≤ 32
    (x.p.phase = 1 → ∀ ecc, exec (.storePerformed r ecc) s = .next (out (ends s x.p.err)))
      ∧ (x.p.phase = 0 → ordered → storeHeld s x = false → reachSite s x = .never → ∀ ecc, exec (.storePerformed r ecc) s
          = .next (out (if x.p.space = .mem then endAll s (some 0x20) else ends s (some 0x20))))
      ∧ (x.p.phase = 0 → ordered → storeHeld s x = false → reachSite s x = .now →
          (x.p.space = .mem → coherent s → busesUp s → lineFree s ln → hasWay s ln → l1Owns s g ln = false → small →
              (∃ u : State, exec (.storePerformed r .clean) s = .next (endAll u none)
                ∧ u = { s with chassis := u.chassis, dram := u.dram, flaws := u.flaws } ∧ wroteAll s u (x.o.pieces.filter (together x)))
                ∧ (writeToCells s x.p.addr x.p.attr = true →
                  (∃ b, b / 32 = x.p.addr / 32 ∧ ∀ p ∈ x.o.pieces, together x p = true → ¬(p.addr ≤ b ∧ b < p.addr + p.size)) →
                  ∃ u : State, exec (.storePerformed r .uncorrectable) s = .next (endAll u (some 0x20)) ∧ sameMemory s u))
            ∧ (x.p.space = .mem → coherent s → l1Owns s g ln = true → (cacheLine s ln).bind CacheLine.owner = some g → small →
              (∀ p ∈ x.o.pieces, together x p = true → l1Holds s g p.addr p.size = true) → ∀ ecc,
              ∃ u : State, exec (.storePerformed r ecc) s = .next (endAll u none) ∧ u = { s with chassis := u.chassis }
                ∧ wroteAll s u (x.o.pieces.filter (together x)))
            ∧ (∀ kind h, kind ∈ [1, 2, 3] → x.p.space = .buf kind h →
                ∃ u, exec (.storePerformed r .clean) s = .next (ends u none) ∧ u = { s with chassis := u.chassis }
                  ∧ (∀ b, cget (bufCells (coreG u h) kind) b
                      = if x.p.addr ≤ b ∧ b < x.p.addr + x.p.size then BitVec.ofNat 8 (x.p.data / 256 ^ (b - x.p.addr))
                        else cget (bufCells (coreG s h) kind) b)
                  ∧ ∀ j k, j ∈ [1, 2, 3] → j ≠ kind ∨ k ≠ h → bufCells (coreG u k) j = bufCells (coreG s k) j)
            ∧ (x.p.space = .host → exec (.storePerformed r .clean) s
                = .next (out (ends { s with hostWrites := s.hostWrites ++ [(x.p.addr, x.p.bytes)] } none)))
            ∧ (x.p.space = .peer → exec (.storePerformed r .clean) s
                = .next (out (ends { s with peerWrites := s.peerWrites ++ [(x.p.addr / 2 ^ 40 % 8, x.p.addr % 2 ^ 40, x.p.bytes)] } none)))))
  ∧ (∀ (c : Coach) (p : Piece) (n k v j : Nat), j < k → p.lane < 32 → p.size = 4 * k →
    p.dst = .vec ((List.range k).map fun i => .reg (n + i)) 32 false →
    rget (deliver c p v).v (32 * (n + j) + p.lane) = BitVec.ofNat 32 (v / 2 ^ (32 * j)))
  ∧ (∀ (c : Coach) (p : Piece) (n v : Nat), p.lane < 32 → p.size ≤ 2 → 0 < p.size →
    (p.dst = .vec [.reg n] (8 * p.size) true →
        rget (deliver c p v).v (32 * n + p.lane) = (BitVec.ofNat (8 * p.size) v).signExtend 32)
      ∧ (p.dst = .vec [.reg n] (8 * p.size) false →
        rget (deliver c p v).v (32 * n + p.lane) = (BitVec.ofNat (8 * p.size) v).setWidth 32))
  ∧ ∀ (c : Coach) (pre post : List Op) (o : Op), c.ops = pre ++ o :: post → (c.ops.map Op.id).Nodup →
    let free : Prop := o.counter = .none ∨ ∃ t, o.counter = .tag t
    (o ∈ (retireOps c).ops ↔ ¬(o.done = true ∧ (free ∨ ∀ q ∈ pre, q.counter = o.counter → q.done = true)))

/-- 03 R72, R75, R77, R78, 04 R104, R105, 07 R178, 14 R326, R327: an atomic reads the old value and writes the new one in one step, at the bank-side
unit, at its home or in a line that its L1 owns; the accesses of a memory command to a sector act one after another; a reply sets flags and
returns old values. What the divided ring cuts off ends with cause 0x20. -/
def Obligations.AtomicsAndCommandsExecute : Prop :=
  (∀ (s : State) (r : OpRef) (x : Site1) (aop n : Nat), accessOf s r = some x → x.c.key = r.key → x.c.exited ≠ BitVec.allOnes 32 →
    x.o.kind = .atomic aop n → n = 32 ∨ n = 64 → x.p.space = .mem → x.p.size = n / 8 → x.p.data < 2 ^ n → x.p.data2 < 2 ^ n →
    let ln := lineOf x.p.addr
    let old := memValue s x.p.addr x.p.size
    let ready : Prop := x.p.phase = 0 ∧ inOrder s x = true ∧ atomSiteReady s x = true ∧ reachSite s x = .now ∧ coherent s ∧ busesUp s
      ∧ lineFree s ln ∧ x.p.addr % 32 + x.p.size ≤ 32
    let acts (i : Instr) : Prop := ∃ u : State,
      exec i s = .next
          (if x.p.dst = .none then acquireDone (u.setCoach r.key (performed x.c x.o r.piece { x.p with phase := 2 })) x.c x.o
          else u.setCoach r.key (performed x.c x.o r.piece { x.p with phase := 1, result := old }))
        ∧ u = { s with chassis := u.chassis, dram := u.dram, flaws := u.flaws }
        ∧ wrote s u x.p.addr x.p.size (atomRule aop n old x.p.data x.p.data2)
    (ready → x.p.site = .bank → acts (.atomicExecute r .clean) ∧ acts (.bankOperation r .clean))
      ∧ (ready → x.p.site = .home ∨ (x.p.site = .l1 ∧ l1Owns s x.c.gcore ln = false) → hasWay s ln → acts (.atomicExecute r .clean))
      ∧ (ready → x.p.site = .l1 → l1Owns s x.c.gcore ln = true → (cacheLine s ln).bind CacheLine.owner = some x.c.gcore →
          l1Holds s x.c.gcore x.p.addr x.p.size = true → old = leNat (l1Bytes s x.c.gcore x.p.addr x.p.size) →
          acts (.atomicExecute r .clean))
      ∧ (x.p.phase = 1 → reachSite s x = .now → ∀ ecc, exec (.loadReturn r ecc) s
          = .next (overAt (acquireDone (s.setCoach r.key
              (performed (deliver x.c x.p x.p.result) x.o r.piece { x.p with phase := 2 })) x.c x.o) r x))
      ∧ (x.p.phase = 1 → reachSite s x = .never → ∀ ecc, ∃ v, exec (.loadReturn r ecc) s
          = .next (overAt ((takeFreeBytes s x.p.size).2.setCoach r.key
              (performed (deliver x.c x.p v) x.o r.piece { x.p with phase := 2, err := some 0x20 })) r x)))
  ∧ ∀ (s : State) (r : OpRef) (x : Site1) (k : CmdKind), accessOf s r = some x → x.c.key = r.key → x.c.exited ≠ BitVec.allOnes 32 →
    x.o.kind = .cmd k →
    let sector (ph : Nat) (p : Piece) : Prop := p.phase = ph ∧ p.addr / 32 = x.p.addr / 32
    let group (ph : Nat) : List Piece := x.o.pieces.filter fun p => p.phase = ph ∧ p.addr / 32 = x.p.addr / 32
    (x.p.phase = 0 → behindCommand x.c x.o x.p = false → reachOf s x.c x.p = .now → coherent s → busesUp s →
        lineFree s (lineOf x.p.addr) →
        (∀ n, k = .mredI n ∨ k = .mcas n → n = 32 ∨ n = 64) → (∀ p ∈ group 0, p.addr % 32 + cmdSize k ≤ 32) →
        ∃ (u : State) (qs : List Piece), exec (.bankOperation r .clean) s = .next (u.setCoach r.key (accessed x.c x.o.id qs))
          ∧ List.Forall₂ (fun p q => (sector 0 p → ∃ v f, q = { p with phase := 1, result := v, flags := f }) ∧ (¬sector 0 p → q = p))
              x.o.pieces qs
          ∧ u = { s with chassis := u.chassis, dram := u.dram, flaws := u.flaws }
          ∧ ∀ b, memByte u b = cmdRules k x.o.mode (group 0) (memByte s) b)
      ∧ (x.p.phase = 1 → reachOf s x.c x.p = .now → (∀ p ∈ group 1, p.err = none) →
        ∃ (u : State) (qs : List Piece), exec (.commandReply r) s = .next (u.setCoach r.key (accessed
              ((group 1).foldl (fun c p => deliver c p p.result)
                (addFlagsAt x.c x.o.level x.o.fslot ((group 1).foldl (fun f p => f ||| p.flags) 0))) x.o.id qs))
          ∧ List.Forall₂ (fun p q => (sector 1 p → q = { p with phase := 2 }) ∧ (¬sector 1 p → q = p)) x.o.pieces qs
          ∧ u = { s with chassis := u.chassis })
      ∧ (x.p.phase = 1 → reachOf s x.c x.p = .never →
        ∃ (u : State) (w : Coach) (qs : List Piece), exec (.commandReply r) s = .next (u.setCoach r.key (accessed w x.o.id qs))
          ∧ List.Forall₂ (fun p q => (sector 1 p → q = { p with phase := 2, err := some 0x20 }) ∧ (¬sector 1 p → q = p)) x.o.pieces qs
          ∧ u = { s with chassis := u.chassis, freeCtr := u.freeCtr })

/-- 04 R95, R100, R103, R107, 14 R335: what the caches do changes no byte of memory as it reads through them: a fill makes a sector of a line
or of an L1 valid; a grant makes the line the L1's own; a recall ends that; a line of a CFLUSH is written back, one of a CINV leaves the L1. -/
def Obligations.CachesKeepMemory : Prop :=
  ∀ (s : State) (pa : Nat) (h : Home), coherent s → busesUp s → resolve pa = some h →
    let ln := lineOf h.wa
    let a := h.wa / 32 * 32
    let onlyCaches (t : State) : Prop :=
      t = { s with chassis := t.chassis, dram := t.dram, flaws := t.flaws } ∧ sameMemory s t ∧ coherent t
    let open_ (g : Nat) : Prop := pathOpen s (g / 16) (homeAt h.wa).d = true ∧ reachable s (g / 16) (homeAt h.wa).d = true
    lineFree s ln →
    (∀ ch, lineDie ln = ch % 16 → cacheOnAt s ln = true → needsCells s a 32 = true → hasWay s ln →
        ((cacheLine s ln).isSome = true ∨ ∃ e ∈ s.coaches, ∃ o ∈ e.2.ops, ∃ p ∈ o.pieces,
            p.phase = 0 ∧ p.space = .mem ∧ lineOf p.addr = ln ∧ p.attr.allocates = true) →
        ∃ t, exec (.cacheFillReturn ch pa none .clean) s = .next t ∧ onlyCaches t
          ∧ ∃ l, cacheLine t ln = some l ∧ ∀ i, i < 32 → (mget l.bytes (a % 128 + i)).isSome = true)
      ∧ (∀ ch core, let g := 16 * (ch % 16) + core % 16
          wanted s (fillsL1 g a) = true → l1Holds s g a 32 = false → (∀ q ∈ openStores s g, q.2.addr / 32 ≠ a / 32) →
          coreStoresOpen s g s.nextId { lane := 0, addr := a, va := 0, size := 32 } = false → open_ g → hasWay s ln → hasL1Way s g ln →
          ∃ t, exec (.cacheFillReturn ch pa (some core) .clean) s = .next t ∧ onlyCaches t ∧ l1Holds t g a 32 = true
            ∧ l1Bytes t g a 32 = (List.range 32).map fun i => memByte s (a + i))
      ∧ (∀ ch core, let g := 16 * (ch % 16) + core % 16
          wanted s (wantsLine g ln) = true → cacheOnAt s ln = true → (chassisOf s (homeAt h.wa).d).parkState ≠ 1 →
          l1Owns s g ln = false → hasWay s ln → hasL1Way s g ln →
          (∀ i, i < 4 → coreStoresOpen s g s.nextId { lane := 0, addr := ln * 128 + 32 * i, va := 0, size := 32 } = false) → open_ g →
          ∃ t, exec (.l1OwnershipGrant ch core pa .clean) s = .next t ∧ onlyCaches t ∧ l1Owns t g ln = true
            ∧ (cacheLine t ln).bind CacheLine.owner = some g ∧ l1Bytes t g (ln * 128) 128 = (List.range 128).map fun i => memByte s (ln * 128 + i))
      ∧ (∃ t, exec (.ownershipRecall pa) s = .next t ∧ onlyCaches t ∧ (cacheLine t ln).bind CacheLine.owner = none)
      ∧ ∀ (r : OpRef) (x : Site1), accessOf s r = some x → x.c.key = r.key → x.c.exited ≠ BitVec.allOnes 32 → x.p.addr = h.wa →
          x.p.phase = 0 → inOrder s x = true →
          let ends (t : State) : State := t.setCoach r.key (performed x.c x.o r.piece { x.p with phase := 2 })
          (x.o.kind = .cflush → reachOf s x.c x.p = .now → ∃ t, exec (.storePerformed r .clean) s = .next (ends t) ∧ onlyCaches t
              ∧ ∀ l, cacheLine t ln = some l → dirtyBytes l.bytes l.dirty = [])
            ∧ (x.o.kind = .cinv → (l1Owns s x.c.gcore ln = true → (cacheLine s ln).bind CacheLine.owner = some x.c.gcore) →
              ∃ t, exec (.storePerformed r .clean) s = .next (ends t) ∧ onlyCaches t ∧ l1Line t x.c.gcore ln = none)

/-! ## The outrider (08, 14) -/

/-- 14 R329, R330, 08 R205, R207, R208, 10 R260, 06 R152: the stream instructions. A carriage that issues one traps with cause 0x12. A QLD
or QGAT of an outrider context takes the next entry of an inbound port once there is room for those it still fills, and issues the read of
each live lane's element; a QST the writes of a complete entry of an outbound port; a wrong port or a reserved literal is a failure of the
context. The model's choices: what a reserved literal does in a context, and the cause of a carriage's (log entry 73), and the zero that a
QST writes for an exited lane (log entry 16). -/
def Obligations.StreamInstructionsIssueEntries : Prop :=
  (∀ (s : State) (x : Iss), issuer s = some x →
    let traps (i : Instr) (len : Nat) : Prop :=
      let ts : List LaneTrap := (lanesOf (activeOf x.c x.k)).map fun l => { lane := l, cause := 0x12, addr := x.k.pc }
      (activeOf x.c x.k = 0 → exec i s = .next (s.setCoach x.c.key (advance x.c x.slot len)))
        ∧ (activeOf x.c x.k ≠ 0 → exec i s = .next (takeTrap s x.c x.slot x.k ts (afterInstr x.k len)))
    (∀ q a b lit, traps (.qld q a b lit) 8 ∧ traps (.qst q a b lit) 8 ∧ traps (.qgat q a b lit) 8)
      ∧ (∀ d q, traps (.qcnt d q) 4) ∧ traps .qend 4)
  ∧ ∀ (s : State) (r : CoachRef) (c : Coach), s.cur = some (.outrider r) → coachOf s r.key = some c →
    let o := c.outr
    let live := (List.range 32).filter fun l => c.exited.getLsbD l = false
    let fails (i : Instr) : Prop := exec i s = .next (s.setCoach r.key { c with outr := { o with failed := some o.pc } })
    let issues (i : Instr) (q n : Nat) (kind : OpKind) (ps : List Piece) : Prop :=
      ∃ w, exec i s = .next (entryIssued s r.key ps w) ∧ entryTaken s c q n kind ps w
    (∀ (q : BitVec 3) (a b : BitVec 8) (lit : W32),
        let p := portOf c q.toNat
        let n := lit.toNat % 64 + 1
        let right (d : Dir) : Prop := p.dir = d ∧ n ≤ p.depth
        let room : Prop := p.taken - p.head + (n - o.progress) ≤ p.depth
        let complete : Prop := p.taken + (n - o.progress) ≤ passedOf c p
        let read (f : Nat → Piece) : List Piece := live.map fun l => { f l with lane := l, size := 4, dst := .elem q.toNat p.taken }
        let writes : List Nat := (List.range 32).filter fun l => !(lit.getLsbD 6 && c.exited.getLsbD l && p.posOf l ≤ p.taken)
        (¬(right .inbound ∧ lit.toNat / 64 % 1024 = 0) → fails (.qld q a b lit))
          ∧ (right .inbound → lit.toNat / 64 % 1024 = 0 → room → issues (.qld q a b lit) q.toNat n .qread
              (read fun l => { lane := l, addr := 0, va := elementAt o a b lit o.progress l, size := 4 }))
          ∧ (¬(right .inbound ∧ lit.toNat < 512) → fails (.qgat q a b lit))
          ∧ (right .inbound → lit.toNat < 512 → room → issues (.qgat q a b lit) q.toNat n .qread
              (read fun l => { lane := l, addr := 0, va := low64 ((outriderReg o b.toNat).toNat + 4 * (32 * o.progress + l) : Nat), size := 4
                               data := (outriderReg o a.toNat).toNat, data2 := lit.toNat / 64 + 1 }))
          ∧ (¬(right .outbound ∧ lit.toNat / 128 % 512 = 0) → fails (.qst q a b lit))
          ∧ (right .outbound → lit.toNat / 128 % 512 = 0 → complete → issues (.qst q a b lit) q.toNat n .qwrite
              (writes.map fun l => { lane := l, addr := 0, va := elementAt o a b lit o.progress l, size := 4, dst := .elem q.toNat p.taken
                                     data := if c.exited.getLsbD l ∧ p.posOf l ≤ p.taken then 0
                                       else (rget p.elems (32 * p.taken + l)).toNat })))
      ∧ (∀ d q, let p := portOf c q.toNat
          let n := match p.dir with
            | .inbound => p.filled - p.head
            | .outbound => passedOf c p - p.head
            | .none => 0
          ∃ p, exec (.qcnt d q) s = .next (s.setCoach r.key { c with outr := outriderMoved p 4 })
            ∧ outriderWritten o d.toNat (BitVec.ofNat 64 n) p)
      ∧ exec .qend s = .next (s.setCoach r.key { c with outr := { o with qend := true } })

/-- 14 R329, R330, 08 R207, R208, 06 R152: an outrider's access. A read fills its lane's element, an index read gives the element's address, and a
write of an element is performed; an access that fails marks its element with the cause and the address. A context whose program has ended and
whose accesses are performed ends. -/
def Obligations.OutriderAccessesArePerformed : Prop :=
  (∀ (s : State) (r : OpRef) (x : Site1) (q e : Nat), accessOf s r = some x → x.c.key = r.key → x.c.exited ≠ BitVec.allOnes 32 →
    x.p.dst = .elem q e → x.p.phase = 0 → x.p.size = 4 →
    let p := portOf x.c q
    let key := 32 * e + x.p.lane
    let check (a : Acc) : Checked := checkAccess s (elemAsker x.c r x.p.va) { acc := a, size := 4 } x.p.lane x.p.va
    let at_ (a : Nat) (t : Attr) : Piece := { x.p with space := .mem, addr := a, attr := t }
    let put (p : QPort) : Coach := { x.c with ports := mset x.c.ports q p }
    let marked (w : Bool) (i : Instr) (t : LaneTrap) : Prop := ∃ (u : State) (f : QFault),
      exec i s = .next (u.setCoach r.key
          (elementDone (put { p with faults := mset p.faults key f }) x.o r.piece { x.p with phase := 2 } q))
        ∧ f.cause = t.cause ∧ f.addr = t.addr ∧ f.write = w ∧ u = { s with chassis := u.chassis }
    let usable (a : Nat) (t : Attr) : Prop := reachOf s x.c (at_ a t) = .now ∧ coherent s ∧ busesUp s ∧ lineFree s (lineOf a)
      ∧ hasWay s (lineOf a) ∧ hasL1Way s x.c.gcore (lineOf a) ∧ a % 32 + 4 ≤ 32
    let k := elemAsker x.c r x.p.va
    (x.o.kind = .qread → x.c.saved = false →
        (x.c.exited.getLsbD x.p.lane = true → ∀ ecc, exec (.queueElementFill r ecc) s
            = .next (overAt (s.setCoach r.key (elementDone x.c x.o r.piece { x.p with phase := 2 } q)) r x))
          ∧ (∀ a t, x.c.exited.getLsbD x.p.lane = false → check .read = .ok .mem a t → usable a t →
              ¬(t.l1 = true ∧ l1Holds s x.c.gcore a 4 = true) →
              let v := memValue s a 4
              let w : Coach := if x.p.data2 = 0 then
                  elementDone (put { p with elems := mset p.elems key (BitVec.ofNat 32 v) }) x.o r.piece { at_ a t with phase := 2 } q
                else performed x.c x.o r.piece
                  { x.p with va := low64 (x.p.data + (BitVec.ofNat 32 v).toInt * 2 ^ (x.p.data2 - 1)), data2 := 0, space := .mem, addr := 0
                             attr := {} }
              ∃ u : State, exec (.queueElementFill r .clean) s = .next (u.setCoach r.key w) ∧ u = { s with chassis := u.chassis }
                ∧ sameMemory s u)
          ∧ ∀ t, x.c.exited.getLsbD x.p.lane = false → check .read = .trap t → faultCount x.c < 64 →
              marked false (.queueElementFill r .clean) t)
      ∧ (x.o.kind = .qwrite → x.c.saved = false →
        (∀ a t, check .write = .ok .mem a t → t.repl = false → usable a t → l1Owns s x.c.gcore (lineOf a) = false →
            coreStoresOpen s x.c.gcore s.nextId (at_ a t) = false → behindLane (forget s k.core k.who) r { x with p := at_ a t } = false →
            ∃ u : State, exec (.queueEntryDrain r .clean) s
                = .next (u.setCoach r.key (elementDone x.c x.o r.piece { at_ a t with phase := 2 } q))
              ∧ u = { s with chassis := u.chassis, dram := u.dram, flaws := u.flaws } ∧ wrote s u a 4 x.p.data)
          ∧ ∀ t, x.c.exited.getLsbD x.p.lane = false → check .write = .trap t → faultCount x.c < 64 →
              marked true (.queueEntryDrain r .clean) t))
  ∧ ∀ (s : State) (r : CoachRef) (c : Coach), coachOf s r.key = some c → c.exited ≠ BitVec.allOnes 32 → c.outr.live = true →
    c.outr.qend = true → c.outr.ended = false → (∀ o ∈ c.ops, o.outrider = false) →
    exec (.outriderEnd r) s = .next (s.setCoach r.key { c with outr := { c.outr with ended := true } })

/-! ## Copies, streams and caches (05, 07, 14) -/

/-- 05 R113, R114, R116, R117, R124, 14 R331 to R335, 04 R103: the copy and cache instructions. A COPY whose checks pass is outstanding
under cp and comes to its channel context; one that breaks a limit, a window or a page's rights, or names no stream context, traps every
lane; one whose pages are being walked waits, with those translated kept. SEAL gives the cart number and opens the next. RDWP reads the
write pointer. STRM opens a context, waits while its way retrains, or closes one; that it takes the lowest free tag, and opens toward a
chassis that a divided ring cuts off as toward another, is the model's choice (log entry 12). CFLUSH and CINV have an access for each
line, and trap where a page fails. CHINT changes a line's priority. The order of the checks of a COPY is the model's reading (log entry
19). -/
def Obligations.CopyInstructionsComplete : Prop :=
  ∀ (s : State) (x : Iss), issuer s = some x → x.k.lanes ≠ 0 →
    let gives (i : Instr) (len : Nat) (d : BitVec 8) (v : W64) (t : State) : Prop :=
      ∃ w, exec i s = .next (t.setCoach x.c.key (advance w x.slot len)) ∧ scalarWritten x.c x.k d.toNat v w
    let trapsWith (i : Instr) (len : Nat) (t : LaneTrap) : Prop :=
      let ts : List LaneTrap := (lanesOf x.k.lanes).map fun l => { t with lane := l }
      reportWaits s x.c x.k ts = false → exec i s = .next (takeTrap s x.c x.slot x.k ts (afterInstr x.k len))
    let waits (i : Instr) (ks : Kept) : Prop := ∃ u : State, onlyIssued s u ∧ u.nextId = s.nextId
      ∧ exec i s = .next (u.setCoach x.c.key
          { x.c with slots := mset x.c.slots x.slot { x.k with wait := some .translation, pages := ks } })
    (∀ dst v n f, 0 < n → v.toNat % 4096 + n ≤ 4096 → v.toNat + n ≤ 2 ^ 56 → x.k.pages = [] →
        translate s (askerOf x.c x.slot x.k) (if dst then .write else .read) v = .fault f →
        ∃ t, checkCopyEnd s x dst 0 v [(0, n)] 1 = .trap t ∧ t.cause = f.cause ∧ t.addr = f.addr ∧ t.reason = f.reason ∧ t.stage = f.stage
          ∧ t.wlevel = f.wlevel)
      ∧ (∀ (d a b : BitVec 8) (lit : W32),
        let w := lit.toNat
        let p (i : Nat) : W64 := sreg x b.toNat i
        let i : Instr := .copy d a b lit
        let dk := field w 5 4
        let tc := if dk = 0 then x.c.tcore else field w 9 8
        let dv := readS x.c x.k d.toNat
        let sv := readS x.c x.k a.toNat
        let issues (u : State) (y : Copy) : Prop := u = { s with chassis := u.chassis, streams := u.streams } ∧ copyBy s x y
          ∧ exec i s = .next ({ u with copies := s.copies ++ [y], nextId := s.nextId + 2 }.setCoach x.c.key (advance (copyIssued s x) x.slot 8))
        (copyReserved s x.c d a lit = true → carriageTraps s x i 8 7 (x.k.pc + 4))
          ∧ (w.testBit 20 = true → streamOf s x.c.train (field w 28 21) (w.testBit 29) = none → carriageTraps s x i 8 7 (x.k.pc + 4))
          ∧ (copyReserved s x.c d a lit = false → copyShape lit p = none → carriageTraps s x i 8 7 x.k.pc)
          ∧ ∀ plan t, copyReserved s x.c d a lit = false → copyPlan (copyLit lit) p = some plan → trainOf s x.c.train = some t →
            copyShape lit p = some (plan.form, plan.len, plan.total)
              ∧ (w.testBit 20 = false →
                (∀ v, copyBounds s t (copyLit lit) tc plan dv sv = some v → carriageTraps s x i 8 0x13 v)
                  ∧ (copyBounds s t (copyLit lit) tc plan dv sv = none →
                    let src := checkCopyEnd s x false (field w 7 6) sv plan.src (match plan.form with | .gather e _ => e | _ => 1)
                    let dst := checkCopyEnd s x true dk dv plan.dst 1
                    (∀ t, src = .trap t → trapsWith i 8 t) ∧ (∀ ms ks, src = .miss ms ks → waits i ks)
                      ∧ ∀ sp ks, src = .ok sp ks →
                          (∀ t, dst = .trap t → trapsWith i 8 t) ∧ ∀ ms ks', dst = .miss ms ks' → waits i (ks ++ ks'))
                  ∧ ∀ sp dp ks kd, copyBounds s t (copyLit lit) tc plan dv sv = none →
                    checkCopyEnd s x false (field w 7 6) sv plan.src (match plan.form with | .gather e _ => e | _ => 1) = .ok sp ks →
                    checkCopyEnd s x true dk dv plan.dst 1 = .ok dp kd →
                    ∃ u y, issues u y ∧ u.streams = s.streams ∧ y.chan = 4 * tc + field w 3 2 ∧ y.core = t.cores.getD tc x.c.core
                      ∧ y.form = plan.form ∧ y.len = plan.len ∧ y.total = plan.total ∧ y.skip = 0 ∧ y.spages = sp ∧ y.dpages = dp
                      ∧ y.src = endOfCopy (field w 7 6) (field w 11 10) sv ∧ y.dst = endOfCopy dk (field w 9 8) dv)
              ∧ ∀ z sp ks, w.testBit 20 = true → streamOf s t.id (field w 28 21) (w.testBit 29) = some z →
                let rows := if plan.total = 0 then [] else streamRows z.srcLen z.srcStride.toInt z.claimed plan.total
                let src := checkCopyEnd s x false z.srcKind z.srcBase rows 1
                (∀ v, z.srcKind ≠ 0 → checkEnd s t false z.srcKind z.srcCore z.srcBase rows = some v → carriageTraps s x i 8 0x13 v)
                ∧ ((z.srcKind ≠ 0 → checkEnd s t false z.srcKind z.srcCore z.srcBase rows = none) →
                (∀ t, src = .trap t → trapsWith i 8 t) ∧ (∀ ms ks, src = .miss ms ks → waits i ks)
                ∧ (src = .ok sp ks → ∃ u y, issues u y ∧ u.streams = updFirst (fun v => v.id == z.id) (fun v => { v with claimed := v.claimed + plan.total }) s.streams
                  ∧ y.dst = .stream z.id ∧ y.src = endOfCopy z.srcKind z.srcCore z.srcBase ∧ y.skip = z.claimed ∧ y.total = plan.total
                  ∧ y.chan = 4 * x.c.tcore + field w 3 2 ∧ y.spages = sp)))
      ∧ (∀ d, ∃ w, exec (.sealCart d) s = .next (s.setCoach x.c.key (advance { w with cart := x.c.cart + 1 } x.slot 4))
          ∧ scalarWritten x.c x.k d.toNat (BitVec.ofNat 64 x.c.cart) w)
      ∧ (∀ d k t, trainOf s x.c.train = some t →
          let ch := (mget t.chans (4 * x.c.tcore + k.toNat)).getD {}
          gives (.rdwp d k) 4 d
            (if x.c.yard then 0 else BitVec.ofNat 64 (ch.count % 2 ^ 63) ||| (if ch.err then 1#64 <<< 63 else 0)) s)
      ∧ (∀ (d a b : BitVec 8) (lit : W32),
          let w := lit.toNat
          let i : Instr := .strm d a b lit
          let west := !goesEast s x.c.ch (field w 4 1)
          let here (z : Stream) : Bool := z.dst == field w 4 1
          let used := ((s.streams.filter fun z => here z && z.west == west).map Stream.window).sum
          let window := 256 * field w 21 13
          let taken (t : Nat) : Prop := ∃ z ∈ s.streams, z.src = x.c.ch ∧ z.west = west ∧ z.tag = t
          let room : Prop := (s.streams.filter here).length < 896 ∧ used + window ≤ 768 * 1024
          let barred : Prop := reachable s x.c.ch (field w 4 1) = true ∧ pathOpen s x.c.ch (field w 4 1) = false
          let w16 : Nat := if west then 2 ^ 16 else 0
          (strmReserved x a b lit = true → carriageTraps s x i 8 7 (x.k.pc + 4))
            ∧ (strmReserved x a b lit = false → w % 2 = 0 →
              (field w 4 1 = x.c.ch → gives i 8 d (BitVec.ofNat 64 (2 + w16)) s)
                ∧ (field w 4 1 ≠ x.c.ch → barred → exec i s
                    = .next (s.setCoach x.c.key { x.c with slots := mset x.c.slots x.slot { x.k with wait := some .resource } }))
                ∧ (field w 4 1 ≠ x.c.ch → ¬barred → (∀ t, t < 192 → taken t) → gives i 8 d (BitVec.ofNat 64 (1 + w16)) s)
                ∧ ∀ t, t < 192 → field w 4 1 ≠ x.c.ch → ¬barred → ¬taken t → (∀ n, n < t → taken n) →
                  (¬room → gives i 8 d (BitVec.ofNat 64 (2 + w16)) s)
                    ∧ (room → ∃ z : Stream, z.id = s.nextId ∧ z.tag = t ∧ z.west = west ∧ streamFields x a b lit z
                        ∧ gives i 8 d (BitVec.ofNat 64 (256 * t + w16)) { s with nextId := s.nextId + 1, streams := s.streams ++ [z] }))
            ∧ (strmReserved x a b lit = false → w % 2 = 1 →
              (streamOf s x.c.train (field w 8 1) (w.testBit 9) = none → gives i 8 d 3 s)
                ∧ ∀ z, streamOf s x.c.train (field w 8 1) (w.testBit 9) = some z →
                  gives i 8 d 0 { s with streams := updFirst (fun v => v.id == z.id) (fun v => { v with closing := true }) s.streams }))
      ∧ (∀ (a b : BitVec 8) (i : Instr) (kind : OpKind), (i = .cflush a b ∧ kind = .cflush) ∨ (i = .cinv a b ∧ kind = .cinv) →
          let va := readS x.c x.k a.toNat
          let n := (readS x.c x.k b.toNat).toNat
          (n = 0 → exec i s = .next (s.setCoach x.c.key (advance x.c x.slot 4)))
            ∧ (2 ^ 24 < n → carriageTraps s x i 4 7 va)
            ∧ (0 < n → n ≤ 2 ^ 24 →
              let low := mvals (pagesOf va [(0, n)])
              let pages := paged s (askerOf x.c x.slot x.k) x.k.pages .read low
              (∀ m, (low.find? fun m => decide (2 ^ 56 ≤ m)) = some m → carriageTraps s x i 4 7 (BitVec.ofNat 64 m))
                ∧ ((∀ m ∈ low, m < 2 ^ 56) →
                  (∀ t, pages = .trap t → trapsWith i 4 t) ∧ (∀ ms ks, pages = .miss ms ks → waits i ks)
                    ∧ ∀ ps ks v m, pages = .ok ps ks → maintBad ps = some v → mget (pagesOf va [(0, n)]) v = some m →
                        carriageTraps s x i 4 7 (BitVec.ofNat 64 m)))
            ∧ ∀ ps ks, 0 < n → n ≤ 2 ^ 24 → (∀ m ∈ mvals (pagesOf va [(0, n)]), m < 2 ^ 56) →
              paged s (askerOf x.c x.slot x.k) x.k.pages .read (mvals (pagesOf va [(0, n)])) = .ok ps ks → maintBad ps = none →
              let lines := linesOf va.toNat n (maintPages ps)
              ∃ u w, onlyIssued s u ∧ exec i s = .next (u.setCoach x.c.key (advance w x.slot 4))
                ∧ w = { x.c with ops := w.ops, nextOp := w.nextOp, last := w.last }
                ∧ (lines = [] → w = x.c ∧ u.nextId = s.nextId)
                ∧ (lines ≠ [] → u.nextId = s.nextId + 1 ∧ w.nextOp = x.c.nextOp + 1 ∧ w.last = s.nextId + 1 ∧ w.ops = x.c.ops
                    ++ [{ opBy x .st kind with id := x.c.nextOp, stamp := s.nextId, cart := x.c.cart, lanes := x.k.lanes
                                               pieces := lines.map fun l => { lane := 32, addr := l.2, va := BitVec.ofNat 64 l.1, size := 128 } }]))
      ∧ ∀ a h pa at_, translate s (askerOf x.c x.slot x.k) .read (readS x.c x.k a.toNat) = .pa pa at_ →
          ∃ u : State, exec (.chint a h) s = .next (u.setCoach x.c.key (advance x.c x.slot 4)) ∧ onlyIssued s u ∧ u.nextId = s.nextId
            ∧ ∀ home l, resolve pa = some home → cacheLine s (lineOf home.wa) = some l →
              cacheLine u (lineOf home.wa) = some
                { l with prio := if h = 3 then 1 else if l.prio = 2 then 2 else h.toNat }

/-- 05 R117, R120, R122, R123, R126 to R129, 07 R165, R167, R169, R170: copies and streams at work. A context accepts copies in order and fixes
their bases; its first copy starts where its index list can be read and its tags and windows are free. A piece carries each source byte to its
place, and the count moves behind it; a failing piece sets err, and the count stops. A stream's piece goes as a packet while the window has
room; its receiver writes it at its next position and returns a credit, or an error with its translation code. The model's choices: where pieces
end, and which contexts and windows the pages need that are first translated later (log entry 20); that a copy without a window keeps its tags,
waits behind earlier ones and takes all its windows at once (log entry 21). -/
def Obligations.CopiesAndStreamsRun : Prop :=
  (∀ (s : State) (y : Copy) (t : Train), copyOf s y.id = some y → trainOf s y.train = some t →
    let ch := (mget t.chans y.chan).getD {}
    let becomes (u : State) (y' : Copy) : State := u.setCopy y.id fun _ => y'
    let counts (n : Nat) (u : State) : State := withChannel u y.train y.chan fun c => { c with count := n }
    let first : Prop := ch.queue.head? = some y.id
    let tags : Prop := ∀ w ∈ y.needs s, w.2.2 = true → windowsHeld s w < 64
    let windows : Prop := ∀ w ∈ y.needs s, w.2.2 = false → windowsHeld s w < 64 ∧ ∀ z ∈ s.copies, z.phase = 2 → w ∉ z.needs s
    (y.phase = 0 → behindCopy s y = false →
        (s.copies.filter fun z => z.train == y.train && z.chan == y.chan && 1 ≤ z.phase && z.phase ≤ 3).length < 16 →
        exec (.copyAccept y.id) s = .next (becomes
          (withChannel s y.train y.chan fun c => { c with accepted := c.accepted + y.total, queue := c.queue ++ [y.id] })
          { y with phase := 1, base := ch.accepted }))
      ∧ (y.phase = 1 → first → indexHeld s y = false → tags → windows → y.total ≠ 0 →
        exec (.copyStart y.id) s = .next (becomes s { y with phase := 3, windows := y.needs s }))
      ∧ (y.phase = 1 → first → indexHeld s y = false → tags → ¬windows →
        exec (.copyStart y.id) s = .next { s with
          copies := (s.copies.filter fun z => z.id != y.id) ++ [{ y with phase := 2, windows := (y.needs s).filter fun w => w.2.2 }] })
      ∧ (y.phase = 2 → windowsFree s y = true → y.total ≠ 0 →
        exec (.streamWindowGrant y.id) s = .next (becomes s { y with phase := 3, windows := y.needs s }))
      ∧ ∀ a b take,
        let n := pieceLen s t y y.front
        let taking (u : State) (f : Nat) : State := becomes u { y with front := f, windows := y.windows ++ take }
        y.front < y.total → channelTaken s y = false →
        endSpots s t y y.src y.spages .read (srcOffsets s t y y.front n) = .ok a →
        endSpots s t y y.dst y.dpages .write (dstOffsets y y.front n) = .ok b →
        pieceState s t y y.front = .go (runsOf a) (runsOf b) take →
        ((∀ id, y.dst ≠ .stream id) → coherent s → busesUp s → quiet s → (∀ p ∈ a, inside p) → (∀ p ∈ b, single p) →
            (b.map fun p => (p.space, p.addr)).Nodup → a.length = n → b.length = n → y.done = [] → y.front + n < y.total →
            ∃ u, exec (.copyPieceWrite y.id y.front .clean .clean) s = .next (counts (y.base + (y.front + n)) (taking u (y.front + n)))
              ∧ u = { s with chassis := u.chassis, dram := u.dram, flaws := u.flaws }
              ∧ (∀ i p q, i < n → a[i]? = some p → b[i]? = some q → spotByte u q = spotByte s p)
              ∧ ∀ q, inside q → (∀ p ∈ b, (p.space, p.addr) ≠ (q.space, q.addr)) → spotByte u q = spotByte s q)
          ∧ (y.issuer = none → (∀ id, y.dst ≠ .stream id) → a ≠ [] → (∀ p ∈ a, p.space = .host) →
            ∀ wr, ∃ u, exec (.copyPieceWrite y.id y.front .uncorrectable wr) s = .next u
              ∧ ∀ c, channelOf u y.train y.chan = some c → c.err = true)
          ∧ ∀ id z, y.dst = .stream id → (s.streams.find? fun z => z.id == id) = some z → coherent s → busesUp s → quiet s →
            (∀ p ∈ a, inside p) → a.length = n →
            ∃ (v : State) (bs : List Byte), let u := taking v y.front
              exec (.copyPieceWrite y.id y.front .clean .clean) s = .next { u with
                nextId := u.nextId + 1
                packets := u.packets ++ [packet u z.src z.dst (.stream y.id y.front id y.front bs)]
                streams := updFirst (fun v => v.id == id) (fun v => { v with sent := v.sent + n }) u.streams }
              ∧ v = { s with chassis := v.chassis, dram := v.dram, flaws := v.flaws } ∧ bs = a.map (spotByte s))
  ∧ (∀ (s : State) (p : Packet) (z : Stream), deliverable s p.id = some p →
    let gone : State := { s with packets := packetsWithout s p }
    let event : Instr := .streamPacketReceive p.id .clean
    let begins (ecc : Ecc) : State := { s with doing := { ecc := ecc, head := heads s (.turn (.event event)) } }
    let answers (u : State) (f : Stream → Stream) (l : Load) : State :=
      let v : State := { u with packets := packetsWithout u p, streams := updFirst (fun v => v.id == z.id) f u.streams }
      { v with nextId := v.nextId + 1, packets := v.packets ++ [packet v z.dst z.src l] }
    (s.streams.find? fun v => v.id == z.id) = some z →
    (∀ copy piece pos bs, p.load = .stream copy piece z.id pos bs →
        (z.err = true → ∀ ecc, exec (.streamPacketReceive p.id ecc) s
            = .next (overEvent (answers s (fun v => { v with err := true, why := z.why, walk := z.walk })
                (.error copy piece z.id z.why.1 z.why.2 z.walk)) event))
          ∧ (∀ e u ecc, z.err = false → streamSpots (begins ecc) z bs.length = (.error e, u) → u.doing.stall = none →
            exec (.streamPacketReceive p.id ecc) s
              = .next (overEvent (answers { u with doing := s.doing }
                  (fun v => { v with err := true, why := (e.1, e.2.1), walk := e.2.2 }) (.error copy piece z.id e.1 e.2.1 e.2.2)) event))
          ∧ ∀ l u v ecc, z.err = false → streamSpots (begins ecc) z bs.length = (.ok l, u) →
            runsReach u z.dst ((runsOf l).flatMap Run.copies) = .now →
            writePiece u ((copyOf s copy).map fun y => 16 * y.ch + y.core) (runsOf l) bs = (none, v) → v.doing.stall = none →
            exec (.streamPacketReceive p.id ecc) s
              = .next (overEvent (answers { v with doing := s.doing } (fun w => { w with next := w.next + bs.length })
                (.credit copy piece z.id bs.length)) event))
      ∧ (∀ copy piece n y, p.load = .credit copy piece z.id n → copyOf s copy = some y → y.phase = 3 → piece + n < y.total →
        (∀ t, trainOf s z.train = some t → t.completed = false) →
        exec (.streamCredit p.id) s = .next (withChannel
          ({ gone with streams := updFirst (fun v => v.id == z.id) (fun v => { v with credited := v.credited + n }) s.streams }.setCopy copy
            fun _ => { y with front := piece + n })
          y.train y.chan fun c => { c with count := y.base + piece + n }))
      ∧ (∀ copy piece cause va walk y key op c t, p.load = .error copy piece z.id cause va walk → copyOf s copy = some y → y.phase = 3 →
        y.issuer = some (key, op) → coachOf s key = some c → c.exited ≠ BitVec.allOnes 32 → trainOf s y.train = some t →
        (∀ t, trainOf s z.train = some t → t.completed = false) →
        ∃ u, exec (.streamErrorReport p.id) s = .next u ∧ (∀ c, channelOf u y.train y.chan = some c → c.err = true)
          ∧ (copyOf u copy).map (fun y => (y.phase, y.fail)) = some (4, some (cause, va)) ∧ u.packets = packetsWithout s p))
  ∧ ∀ (s : State) (z : Stream), (s.streams.find? fun v => v.id == z.id) = some z → z.closing = true → (z.err = true ∨ z.sent = z.credited) →
      (∀ y ∈ s.copies, y.dst = .stream z.id → y.phase = 4) → (∀ t, trainOf s z.train = some t → t.completed = false) →
      exec (.streamCloseDone z.id) s = .next { s with streams := s.streams.filter fun w => w.id != z.id }

/-! ## The matrix unit (15) -/

/-- 15 R336, R338, R342, R346 to R349, R352, R354, R356 to R358: the matrix instructions at issue. One whose carriage does not hold all its lanes, or
whose train does not hold the unit, or whose parameters, windows or alignments fail traps every lane, and its tokens return. One that passes
enters the queue, under tl, with the work clocks of its row; FMTL reads its block, which
the slot takes 4 clocks later, and TSTAT writes a register. What reads a buffer at issue does so in no stolen clock (03 R81). -/
def Obligations.MatrixInstructionsIssue : Prop :=
  ∀ (s : State) (x : Iss), issuer s = some x → x.k.lanes ≠ 0 →
    let core := coreOf s x.c.ch x.c.core
    let reg (n : BitVec 8) (i : Nat) : W64 := readS x.c x.k (n.toNat + i)
    let off (n : BitVec 8) (i : Nat) : Nat := (reg n i).toNat
    let both (i : Instr) (len : Nat) : Prop :=
      (x.k.lanes ≠ BitVec.allOnes 32 → matrixTraps s x i len 0x10 x.k.pc)
        ∧ (x.k.lanes = BitVec.allOnes 32 → (x.c.yard = true ∨ core.holder ≠ some x.c.train ∨ trainOf s x.c.train = none) →
          matrixTraps s x i len 0x13 x.k.pc)
    ((∀ n a m, both (.fmtl n a m) 4) ∧ (∀ n a, both (.bld n a) 4) ∧ (∀ n a b, both (.bgat n a b) 4) ∧ (∀ m, both (.tzero m) 4)
        ∧ (∀ n d a b, both (.tmul n d a b) 4) ∧ (∀ n d a b, both (.tdrain n d a b) 4) ∧ (∀ d v, both (.tstat d v) 4)
        ∧ ∀ d a b lit, both (.cred d a b lit) 8)
      ∧ ∀ t, x.k.lanes = BitVec.allOnes 32 → x.c.yard = false → core.holder = some x.c.train → trainOf s x.c.train = some t →
        let w := windowsOf t x.c.tcore
        let slot (n : BitVec 2) : FmtBlock := (mget t.fmts (4 * x.c.tcore + n.toNat)).getD []
        let goes (i : Instr) (len : Nat) (b : FmtBlock) (what : MatOp) (work : Nat) : Prop := matrixQueued s x i len t b what work
        (∀ (n : BitVec 2) (a m : BitVec 8),
            let o : Int := (off a 0 : Int) + 64 * m.toInt
            let b := windowRead s t x.c.tcore 1 o.toNat 64
            let i : Instr := .fmtl n a m
            windowChecks s x i 4 w [(1, o, 64)] [(1, o, 64)] (bufWritesOpen x.c s.nextId = false → stolenNow s x.c.ch = false →
              (fmtValid b = true → exec i s = .next ((s.setTrain t.id fun t => { t with
                  loads := t.loads ++ [((chassisOf s x.c.ch).clk + 4, 4 * x.c.tcore + n.toNat, b)] }).setCoach x.c.key (advance x.c x.slot 4)))
                ∧ (fmtValid b = false → matrixTraps s x i 4 7 (windowAddr 1 o))))
          ∧ (∀ n a, let f := fmtOf (slot n)
              windowChecks s x (.bld n a) 4 w ((2, off a 0, 0x20000) :: scalesB f) [(2, off a 0, 256)]
                (goes (.bld n a) 4 (slot n) (.bld (off a 0)) (if f.bt = 10 ∨ f.bt = 11 then 160 else 144)))
          ∧ (∀ n a b, let f := fmtOf (slot n)
              let i : Instr := .bgat n a b
              let ptr (j : Nat) : Nat := leNat (windowRead s t x.c.tcore 2 (off a 0 + 4 * j) 4)
              let lo := ptr 0
              let hi := ptr 512
              let first := off b 1 + lo * bitsB f.bt / 8
              let used : List (Nat × Int × Nat) := if lo < hi then
                [(2, (off b 0 + 2 * lo : Nat), 2 * (hi - lo)), (2, first, off b 1 + (hi * bitsB f.bt + 7) / 8 - first)] else []
              f.bt ∈ [0, 4, 10, 11] →
              windowChecks s x i 4 w ((2, off a 0, 2052) :: scalesB f) [(2, off a 0, 4)]
                (bufWritesOpen x.c s.nextId = false → stolenNow s x.c.ch = false → (131072 < hi - lo → matrixTraps s x i 4 7 (windowAddr 2 (off a 0)))
                  ∧ (hi - lo ≤ 131072 → windowChecks s x i 4 w used [(2, off b 0, 2)]
                    (goes i 4 (slot n) (.bgat (off a 0) (off b 0) (off b 1) lo hi)
                      (192 + (hi - lo + 15) / 16 + if f.bt = 10 ∨ f.bt = 11 then 16 else 0)))))
          ∧ (∀ m : BitVec 8, windowChecks s x (.tzero m) 4 w (((List.range 8).filter fun d => m.getLsbD d).map tileAt) []
              (goes (.tzero m) 4 (slot 0) (.tzero m.toNat) 68))
          ∧ (∀ (n : BitVec 2) (d : BitVec 3) (a b : BitVec 8), let f := fmtOf (slot n)
              let i : Instr := .tmul n d a b
              let p := off b 0
              let m := field p 5 0 + 1
              let row := field p 11 6
              let len := 64 * planesA f.at_
              let stride := if field p 31 16 = 0 then len else 32 * field p 31 16
              let per := 512 / (16 * 2 ^ f.ab)
              let tiles := if f.bt = 4 then 4 else 1
              let rows : List (Nat × Int × Nat) := (List.range m).map fun j => (1, (off a 0 + j * stride : Nat), len)
              let scales : List (Nat × Int × Nat) := if f.at_ = 10 ∨ f.at_ = 11 then [(1, (f.aScale + row * per : Nat), m * per)] else []
              let kept : Prop := field p 15 12 = 0 ∧ field p 63 32 = 0 ∧ row + m ≤ 64 ∧ d.toNat + tiles ≤ 8
              f.at_ ∈ [0, 3, 10, 11] →
              (¬kept → matrixTraps s x i 4 7 x.k.pc)
                ∧ (kept → windowChecks s x i 4 w (rows ++ scales ++ (List.range tiles).map fun j => tileAt (d.toNat + j)) [(1, off a 0, 32)]
                  (goes i 4 (slot n) (.tmul d.toNat (off a 0) m row stride) (m * planesA f.at_ + 48))))
          ∧ (∀ (n : BitVec 2) (d : BitVec 3) (a b : BitVec 8), let f := fmtOf (slot n)
              let i : Instr := .tdrain n d a b
              let p := off b 0
              let kept : Prop := field p 7 3 = 0 ∧ field p 63 56 = 0 ∧ (p.testBit 1 = true → f.tt ≠ 15)
              let outs := drainOuts f (reg b 0) (reg a 0) (reg b 1)
              let near := outs.filter fun v => !v.glob
              let at_ (v : DrainOut) (j : Int) : Int := v.dst.toNat + j
              (¬kept → matrixTraps s x i 4 7 x.k.pc)
                ∧ (kept → windowChecks s x i 4 w (tileAt d.toNat :: near.flatMap fun v => v.ranges.map fun r => (1, at_ v r.1, r.2))
                  (near.flatMap fun v => [(1, at_ v 0, 32), (1, at_ v v.stride, 32)])
                  ((∀ ps ks, drainGlobal s x outs = .ok ps ks → goes i 4 (slot n) (.tdrain d.toNat (reg b 0) (reg a 0) (reg b 1) ps)
                      (if p.testBit 1 then 600 else 536))
                    ∧ ∀ e, drainGlobal s x outs = .trap e → e.cause ≠ 4 → e.cause ≠ 5 → matrixTraps s x i 4 e.cause e.addr)))
          ∧ (∀ d a b lit, credReserved lit = true → carriageTraps s x (.cred d a b lit) 8 7 (x.k.pc + 4))
          ∧ (∀ d a b lit, let p := off d 0
              let l := lit.toNat
              let i : Instr := .cred d a b lit
              let count := 32 * (field p 40 32 + 1)
              let inSize := [4, 4, 2, 2, 8].getD (field l 19 17) 0
              let out := field l 23 20
              let outSize := if out = 2 ∨ out = 5 then 4 else if out = 6 ∨ out = 7 then 2 else 1
              let kind := if field l 19 17 = 4 then 3 else 1
              let kept : Prop := field p 31 25 = 0 ∧ field p 63 41 = 0 ∧ p.testBit x.c.ch = true ∧ p.testBit (field p 19 16) = true
                ∧ 1 ≤ field p 24 20 ∧ field p 24 20 ≤ 16
              x.c.ch < 16 → credReserved lit = false →
              (¬kept → matrixTraps s x i 8 7 x.k.pc)
                ∧ (kept → windowChecks s x i 8 w [(kind, off a 0, count * inSize), (1, off b 0, count * outSize)]
                  [(kind, off a 0, inSize), (1, off b 0, outSize)]
                  (goes i 8 (slot (BitVec.ofNat 2 (field l 30 29))) (.cred (reg d 0) (reg a 0) (reg b 0) (lit.setWidth 64))
                    (16 + (count * inSize + 255) / 256))))
          ∧ ∀ (d : BitVec 8) (v : BitVec 3), v.toNat < 6 →
              let value : W64 := match v.toNat with
                | 0 => BitVec.ofNat 64 (((List.range 256).countP fun i => core.segs.getLsbD i) + 2 ^ 9 * core.btype.toNat
                    + (if core.csrerr then 2 ^ 13 else 0) + 2 ^ 16 * core.matq.length)
                | 1 => rget t.tokens x.c.tcore
                | n => BitVec.ofNat 64 (core.segs.toNat / 2 ^ (64 * (n - 2)))
              ∃ w, exec (.tstat d v) s = .next (s.setCoach x.c.key (advance w x.slot 4)) ∧ scalarWritten x.c x.k d.toNat value w

/-- 15 R338, R343 to R350, R353, R355, R357, R358, 18 R403, 07 R172 to R174: the matrix unit at work. A carriage requests the tokens that its
instruction draws, and the purse grants the oldest request. The head of a queue starts at a work clock, where tokens of gated segments return;
when its clocks are over it does all it does and leaves tl. Partial sums are added at stops of the mask, and a stop keeps nothing of what it
sends on; the root rounds, and each receiver writes the results. The model's choices here: all of an instruction's effect at its end (log entry
23), a scale of 0xFF (24), which open reduction a contribution joins (25), CRED before the coach's next instruction (63), and the events that
change nothing where they cannot happen (55). -/
def Obligations.MatrixUnitsRunTheirQueues : Prop :=
  (∀ (s : State) (r : SlotRef) (c : Coach) (k : Carriage) (i : Instr) (n : Nat), coachOf s r.key = some c → c.key = r.key →
    mget c.slots r.slot = some k → (c.canIssue && choosable s c k) = true → requestedBy (chassisOf s c.ch) c.key r.slot = false →
    fetchOf s c r.slot k = .ok i n → mget c.granted r.slot = none →
    let f := fun (m : Nat) => match trainOf s c.train with
      | some t => fmtOf ((mget t.fmts (4 * c.tcore + m)).getD [])
      | none => fmtOf []
    let draw := match i with
      | .tmul m _ _ b => draws (f m.toNat) (readS c k b.toNat).toNat i
      | .tdrain m _ _ b => draws (f m.toNat) (readS c k b.toNat).toNat i
      | _ => draws (f 0) 0 i
    (∀ m d a b, i = .tmul m d a b → (f m.toNat).at_ ∈ [0, 3, 10, 11]) → draw ≠ 0 →
    notReady s { c with granted := mset c.granted r.slot draw } r.slot k i = none →
    let u := s.setCoach c.key c
    let d := chassisOf u c.ch
    exec (.tokenRequest r) s
      = .next (u.setChassis c.ch { d with requests := d.requests ++ [(c.key, r.slot, draw)], draws := d.draws + draw }))
  ∧ (∀ (s : State) (d key slot n : Nat) (rest : List (Nat × Nat × Nat)) (c : Coach), (chassisOf s d).requests = (key, slot, n) :: rest →
      coachOf s key = some c → (mget c.slots slot).isSome = true →
      let x := chassisOf s d
      (n ≤ x.purse → exec (.tokenGrant d) s
          = .next ((s.setChassis d { x with requests := rest, purse := x.purse - n }).setCoach key
              { c with granted := mset c.granted slot n }))
        ∧ (x.purse < n → exec (.tokenGrant d) s = .next s))
  ∧ (∀ (s : State) (d n : Nat) (e : MatEntry) (es : List MatEntry),
      let k := coreOf s d n
      k.matq = e :: es → e.started = false → headReady s e = true → e.issued < (chassisOf s d).clk → worksAt (chassisOf s d).ts (chassisOf s d).clk →
      (fmtOf e.fmt).at_ ∈ [0, 3, 10, 11] →
      let cost := consumes k (fmtOf e.fmt) e.what
      let gat : Prop := ∃ p ci vo lo hi, e.what = .bgat p ci vo lo hi
      ∃ err : Bool, (gat → err = false) ∧ (¬gat → err = k.csrerr)
        ∧ let u := s.setCore d n { k with matq := { e with started := true } :: es, csrerr := err }
          let x := chassisOf u d
          let v := u.setChassis d { x with purse := max x.purse (min 8388608 (x.purse + (e.drawn - cost))) }
          let w := v.setTrain e.train fun t => { t with tokens := mset t.tokens e.tcore (rget t.tokens e.tcore + BitVec.ofNat 64 cost) }
          exec (.matrixInstructionStart d n) s = .next { w with consumed := w.consumed + cost })
  ∧ (∀ (s : State) (d n : Nat) (e : MatEntry) (es : List MatEntry) (t : Train) (c : Coach),
      let k := coreOf s d n
      let f := fmtOf e.fmt
      let w := windowsOf t e.tcore
      let i : Instr := .matrixInstructionEnd d n
      k.matq = e :: es → e.started = true → e.work = 0 → e.ends ≤ (chassisOf s d).clk → stolenNow s d = false →
      trainOf s e.train = some t → t.ch = d → t.cores.getD e.tcore 0 = n → n < 16 →
      coachOf s e.coach = some c → c.exited ≠ BitVec.allOnes 32 → fmtValid e.fmt = true →
      (∀ o, e.what = .bld o → ∃ k', residentB k w f es k' ∧ exec i s = .next (overEvent (leftTile (s.setCore d n k') e c) i)
          ∧ (∀ r m, r < 512 → m < 256 → cell k' r m = cget k.wBuf (w.wBase + o + 256 * r + m)) ∧ k'.segs = BitVec.allOnes 256
          ∧ k'.csrerr = k.csrerr)
        ∧ (∀ p ci vo lo hi, e.what = .bgat p ci vo lo hi →
          let ptr (j : Nat) : Nat := valueAt (cget k.wBuf) (w.wBase + p + 4 * j) 4
          let col (e : Nat) : Nat := valueAt (cget k.wBuf) (w.wBase + ci + 2 * e) 2
          let bits := bitsB f.bt
          let value (e : Nat) : Nat :=
            valueAt (cget k.wBuf) (w.wBase + (vo + e * bits / 8)) ((bits + 7) / 8) / 2 ^ (e * bits % 8) % 2 ^ bits
          let here (row j e : Nat) : Bool := decide (lo ≤ e ∧ ptr row ≤ e ∧ e < ptr (row + 1) ∧ col e = j)
          ∃ k', residentB k w f es k' ∧ exec i s = .next (overEvent (leftTile (s.setCore d n k') e c) i)
            ∧ (∀ row j, row < 512 → j < columnsB f.bt → bValue k' f.bt row j
              = match ((List.range hi).filter (here row j)).getLast? with
                | some e => if f.bt = 4 then [0, 1, 0, -1].getD (value e) 0 else (BitVec.ofNat bits (value e)).toInt
                | none => 0)
            ∧ (∀ g, g < 256 → (k'.segs.getLsbD g = true ↔ ∃ r m, r < 64 ∧ m < 8 ∧ cell k' (g / 32 * 64 + r) (g % 32 * 8 + m) ≠ 0))
            ∧ (k'.csrerr = true ↔ ∃ row, row < 512 ∧ (ptr (row + 1) < ptr row
                ∨ ∃ e, ptr row ≤ e ∧ e < ptr (row + 1) ∧ (e < lo ∨ hi ≤ e ∨ columnsB f.bt ≤ col e))))
        ∧ (∀ m, e.what = .tzero m → ∃ k', k' = { k with matq := es, cBuf := k'.cBuf } ∧ exec i s = .next (overEvent (leftTile (s.setCore d n k') e c) i)
          ∧ ∀ a, let cleared : Prop := ∃ j, j < 8 ∧ m.testBit j = true ∧ w.cBase + 0x20000 * j ≤ a ∧ a < w.cBase + 0x20000 * (j + 1)
            (cleared → cget k'.cBuf a = 0) ∧ (¬cleared → cget k'.cBuf a = cget k.cBuf a))
        ∧ (∀ tile o m row stride, e.what = .tmul tile o m row stride → row + m ≤ 64 → m ≤ 64 →
          let a (i p : Nat) : Byte := cget k.aBuf (w.aBase + (o + i * stride) + p)
          let per := 512 / rowsIn f.at_ f.ab
          let sc (i b : Nat) : Nat := (cget k.aBuf (w.aBase + (f.aScale + (row + i) * per) + b)).toNat
          let el (i j : Nat) : Nat × FlagSet :=
            tmulElement k f (a i) (sc i) j (tileWord k w (tile + j / 256) (row + i) (j % 256))
          let cols := columnsB f.bt
          let flags : FlagSet := (List.range m).foldl (fun x i => (List.range cols).foldl (fun x j => x ||| (el i j).2) x) 0
          ∃ k', k' = { k with matq := es, cBuf := k'.cBuf }
            ∧ exec i s = .next (overEvent (leftTile (s.setCore d n k') e (addFlagsAt c e.level e.fslot flags)) i)
            ∧ (∀ i j, i < m → j < cols → tileWord k' w (tile + j / 256) (row + i) (j % 256) = (el i j).1)
            ∧ ∀ a, (∀ i j, i < m → j < cols →
                a < tilePlace w (tile + j / 256) (row + i) (j % 256) ∨ tilePlace w (tile + j / 256) (row + i) (j % 256) + 8 ≤ a) →
              cget k'.cBuf a = cget k.cBuf a)
        ∧ (∀ tile prm cdst tdst ps, e.what = .tdrain tile prm cdst tdst ps → drainOpen s d e.what = true →
          let dst := cdst.toNat
          let size := codeWidth f.ct / 8
          let stride := if field prm.toNat 31 8 = 0 then 256 * size else field prm.toNat 31 8
          let el (i j : Nat) : Nat × FlagSet :=
            let q := tileWord k w tile i j
            if f.ct = 12 then (q, 0) else encodeCode f.ct f.cRnd (f.sat % 2 == 1) (fixedVal (BitVec.ofNat 64 q).toInt f.eacc)
          let flags : FlagSet := (List.range 64).foldl (fun x i => (List.range 256).foldl (fun x j => x ||| (el i j).2) x) 0
          let far := ps.filter fun p => (pageDies p).any (reachable s d)
          let r := runTdrain ({ s with doing := { ecc := .clean, head := heads s (.turn (.event i)) } }.setCore d n { k with matq := es }) (16 * d + n) t e.tcore f tile prm cdst
            tdst far
          (∀ c', r.1.doing.stall = none → coachOf r.1 e.coach = some c' → c'.exited ≠ BitVec.allOnes 32 →
              exec i s = .next (overEvent (leftTile { r.1 with doing := s.doing } e (addFlagsAt c' e.level e.fslot r.2)) i))
            ∧ (prm.getLsbD 0 = false → prm.getLsbD 1 = false → f.ct ≠ 10 → f.ct ≠ 11 → 256 * size ≤ stride →
              ∃ k', k' = { k with matq := es, aBuf := k'.aBuf }
                ∧ exec i s = .next (overEvent (leftTile (s.setCore d n k') e (addFlagsAt c e.level e.fslot flags)) i)
                ∧ (∀ i j, i < 64 → j < 256 → valueAt (cget k'.aBuf) (w.aBase + dst + i * stride + j * size) size = (el i j).1)
                ∧ ∀ a, (∀ i, i < 64 → a < w.aBase + dst + i * stride ∨ w.aBase + dst + i * stride + 256 * size ≤ a) →
                  cget k'.aBuf a = cget k.aBuf a))
        ∧ ∀ prm src dst lit, e.what = .cred prm src dst lit →
          let a := credArgs prm.toNat lit.toNat
          let r := (openReduction s a.tag d).getD
            { id := s.nextId, tag := a.tag, pasid := ((launchOf s t.launch).map fun l => l.pasid.toNat).getD 0, lit := lit.toNat, prm := prm.toNat, n := a.n }
          let x : Contribution := { ch := d, coach := e.coach, op := e.op, core := n, dst := dst.toNat, all := a.all, level := e.level
                                    fslot := e.fslot }
          let size := [4, 4, 2, 2, 8].getD a.inp 8
          let input (j : Nat) : Nat := if a.inp = 4 then valueAt (cget k.cBuf) (w.cBase + src.toNat + 8 * j) 8
            else valueAt (cget k.aBuf) (w.aBase + src.toNat + size * j) size
          let rx (j : Nat) : Int × Bool × FlagSet := toRx a.e (credVal a.inp f.eacc (input j))
          let sums : List RxSum := (List.range a.n).map fun j => ((BitVec.ofInt 80 (rx j).1).toNat, (rx j).2.1)
          let flags : FlagSet := (List.range a.n).foldl (fun m j => m ||| (rx j).2.2) 0
          let whole := decide (r.args.k ≤ r.countAt d + 1)
          let c' := addFlagsAt c e.level e.fslot flags
          let last : Prop := whole = true ∨ r.sent.getLsbD d = true
          d < 16 → a.inp ≤ 4 → (openReduction s a.tag d = none → reductionOf s s.nextId = none) →
          (∀ r, openReduction s a.tag d = some r → reductionOf s r.id = some r) →
          ∃ u g h r', exec i s = .next u ∧ reductionOf u r.id = some r' ∧ contributed r x whole (r.differs prm.toNat lit.toNat) sums g
            ∧ rootChecked u h r'
            ∧ coachOf u e.coach = some (if a.all ∨ d = a.root then c' else updateOp c' e.op fun o => { o with done := true })
            ∧ (last → d ≠ r.args.root →
              sentFrom g d h ∧ ∃ m, u.nextId = m + g.n / 32 ∧ u.packets = s.packets ++ sumPackets s g d m)
            ∧ ((¬last ∨ d = r.args.root) → h = g ∧ u.packets = s.packets))
  ∧ (∀ (s : State) (p : Packet) (id mask part : Nat) (sums : List RxSum) (r : Reduction), (s.packets.find? fun q => q.id == p.id) = some p →
      p.arrived = true → p.load = .reduction id mask part sums → reductionOf s id = some r →
      let adds : Prop := p.stop = r.args.root
        ∨ (r.args.mask.getLsbD p.stop = true ∧ r.sent.getLsbD p.stop = false ∧ parkedDie s p.stop = false)
      let late : Prop := p.stop = r.args.root ∧ behindPacket s p = true
      let g := r.gather p.stop mask part sums
      let v := { s with packets := packetsWithout s p }
      mget g.sums (512 * p.stop + part) = some ((mget r.sums (512 * p.stop + part)).elim sums fun old => addSums old sums)
        ∧ (¬adds → exec (.reductionPacket p.id) s
            = .next { s with packets := updFirst (fun q => q.id == p.id) (fun q => { q with arrived := false }) s.packets })
        ∧ (late → exec (.reductionPacket p.id) s = .next s)
        ∧ (¬late → adds → ∃ r', rootChecked v g r' ∧ exec (.reductionPacket p.id) s = .next (v.setReduction id fun _ => r')))
  ∧ ∀ (s : State) (id who : Nat) (r : Reduction) (x : Contribution) (c : Coach) (t : Train) (out : List Nat),
      reductionOf s id = some r → r.contribs[who]? = some x → (r.args.all = true ∨ x.ch = r.args.root) → who ∉ r.received →
      r.results = some out → pathOpen s r.args.root x.ch = true → reachable s r.args.root x.ch = true → stolenNow s x.ch = false →
      coachOf s x.coach = some c →
      trainOf s c.train = some t → c.exited ≠ BitVec.allOnes 32 →
      let r' := { r with received := r.received ++ [who] }
      let v := windowWrite s t c.tcore 1 x.dst (packBytes (codeWidth r.args.out) out)
      let u := v.setCoach x.coach (updateOp (addFlagsAt c x.level x.fslot r.flags) x.op fun o => { o with done := true })
      let left : Prop := ∃ j, (r'.receiver j).isSome = true
      (left → exec (.reductionResult id who) s = .next (u.setReduction id fun _ => r'))
        ∧ (¬left → exec (.reductionResult id who) s = .next { u with reductions := s.reductions.filter fun q => q.id != id })

/-! ## The ring and the peer ports (07, 21) -/

/-- 07 R161, R162, R164, R175 to R178, R181, R182, 01 R32, 06 R158, 21 R436: packets take their hops, on channel 1 behind the dateline, and one that
nothing reaches is lost with its copy's error. A replay is counted; a hop retrains, and within 50 µs is active again; after that it is down: the
first starts a route switch, the second divides the ring. A peer port fails, trains again, and brings requests that are performed at their
homes. A far end that does not answer fails its access with cause 0x20. The model's choices here: an epoch at every hop that goes down (log
entry 36), the retraining and the failing accesses of a peer link (37), a switch that ends behind the second hop (64), and where the parts of
an event lie (11). -/
def Obligations.RingAndPeerPortsRun : Prop :=
  (∀ (s : State) (p : Packet), (s.packets.find? fun q => q.id == p.id) = some p → p.arrived = false →
    let h := if p.west then (p.stop + 15) % 16 else p.stop
    let next := if p.west then (p.stop + 15) % 16 else (p.stop + 1) % 16
    let dateline : Prop := (p.west = true ∧ p.stop % 16 = 0) ∨ (p.west = false ∧ p.stop = 15)
    let partial_ : Prop := ∃ red mask part sums, p.load = .reduction red mask part sums
    (reachable s p.src p.dst = true → s.switching = false → (chassisOf s h).east.state = 1 → p.stop < 16 →
        ∃ q : Packet, exec (.ringPacketArrive p.id) s
            = .next { s with packets := updFirst (fun q => q.id == p.id) (fun _ => q) s.packets }
          ∧ q = { p with stop := next, vc := q.vc, arrived := q.arrived } ∧ (dateline → q.vc = 1) ∧ (¬dateline → q.vc = p.vc)
          ∧ (q.arrived = true ↔ partial_ ∨ next = p.dst))
      ∧ (∀ copy piece strm pos bs z y key op c t, reachable s p.src p.dst = false → p.load = .stream copy piece strm pos bs →
        (s.streams.find? fun v => v.id == strm) = some z → copyOf s copy = some y → y.phase = 3 → y.issuer = some (key, op) →
        coachOf s key = some c → c.exited ≠ BitVec.allOnes 32 → trainOf s y.train = some t →
        (∀ t, trainOf s z.train = some t → t.completed = false) →
        ∃ u, exec (.ringPacketArrive p.id) s = .next u ∧ u.packets = packetsWithout s p
          ∧ ((copyOf u copy).bind Copy.fail).map Prod.fst = some 0x20 ∧ ∀ c, channelOf u y.train y.chan = some c → c.err = true))
  ∧ (∀ (s : State) (d : Nat) (p : Port),
      let c := chassisOf s (d % 16)
      let e := linkAt c p
      let changed (f : Link → Link) : State := if p = .peer then s.setChassis (d % 16) (withLink c p (f e)) else hopEnds s (hopAt d p) f
      (e.state = 1 → exec (.flitReplay d p) s
          = .next (s.setChassis (d % 16) (withLink c p { e with crc := min (2 ^ 32 - 1) (e.crc + 1) })))
        ∧ (e.state = 1 → exec (.linkRetrainStart d p) s = .next (changed fun l => { l with state := 2, since := s.ns }))
        ∧ (e.state = 2 → s.ns ≤ e.since + 50000 → exec (.linkRetrainComplete d p) s
          = .next (changed fun l => { l with state := 1, retrains := min 255 (l.retrains + 1) })))
  ∧ (∀ (s : State) (d : Nat),
      let h := d % 16
      let e := (chassisOf s h).east
      let down := (List.range 16).countP fun g => g ≠ h ∧ (chassisOf s g).east.state = 3
      let v : State := { hopEnds s h fun l => { l with state := 3, wasdown := true } with routeEpoch := s.routeEpoch + 1 }
      e.state = 2 → e.since + 50000 ≤ s.ns →
      (down = 0 → exec (.hopDown d) s = .next (turned { v with brk0 := h, switching := true } h))
        ∧ (down = 1 → s.reductions = [] →
          let u := turned { v with brk1 := h, routeMode := 2 } h
          exec (.hopDown d) s = .next (sendEvent u
            { ty := 4, ch := h, data := [(2 + 16 * s.brk0 + 256 * h + 2 ^ 32 * ((s.routeEpoch + 1) % 2 ^ 16)) % 2 ^ 64] }))
        ∧ (2 ≤ down → s.reductions = [] → exec (.hopDown d) s = .next (turned v h)))
  ∧ (∀ s : State, s.switching = true →
      (s.routeMode = 0 ∨ s.routeMode = 1 → exec .routeSwitchComplete s = .next (sendEvent { s with switching := false, routeMode := 1 }
          { ty := 3, ch := s.brk0
            data := [(1 + 16 * s.brk0 + 256 * s.brk1 + 2 ^ 32 * (s.routeEpoch % 2 ^ 16)) % 2 ^ 64] }))
        ∧ (2 ≤ s.routeMode → exec .routeSwitchComplete s = .next { s with switching := false }))
  ∧ (∀ (s : State) (p : Nat),
      let d := 2 * (p % 8) + 1
      let c := chassisOf s d
      let v := s.setChassis d { c with peer := { c.peer with state := 3, wasdown := true } }
      (c.peer.state = 2 → c.peer.since + 50000 ≤ s.ns →
          (peerPieces s (p % 8) = [] → exec (.peerLinkDown p) s = .next v)
            ∧ ∀ r x, peerPieces s (p % 8) = [r] → accessOf s r = some x → x.c.key = r.key → x.c.exited ≠ BitVec.allOnes 32 →
              exec (.peerLinkDown p) s = .next (accessFailed v r x 0x20))
        ∧ (2 ≤ s.stage → c.peer.state = 0 → c.peer.since + 10000000 ≤ s.ns → ∀ b : Bool, exec (.peerPortRetry p b) s
          = .next (s.setChassis d { c with peer := { c.peer with state := if b then 1 else 0, since := s.ns } })))
  ∧ (∀ (s : State) (p pa : Nat) (bs : List Byte),
      let d := 2 * (p % 8) + 1
      let a := pa % 2 ^ 40
      let home := (homeAt a).d
      let replies (u : State) (r : Option (List Byte)) : State := { u with peerReplies := s.peerReplies ++ [(p % 8, a, r)] }
      (chassisOf s d).peer.state = 1 → (homeAt (a + (bs.length - 1))).d = home →
      (reachable s d home = false → ∀ w ecc, exec (.peerRequestArrive p pa w bs ecc) s
          = .next (overEvent (replies s none) (.peerRequestArrive p pa w bs .clean)))
        ∧ (reachable s d home = true → pathOpen s d home = true → coherent s → busesUp s →
          (∀ x ∈ sectorsOf a bs.length, lineFree s (lineOf x.1)) → bs ≠ [] →
          (∃ u, exec (.peerRequestArrive p pa true bs .clean) s = .next (replies u (some []))
              ∧ u = { s with chassis := u.chassis, dram := u.dram, flaws := u.flaws } ∧ wrote s u a bs.length (leNat bs))
            ∧ ∃ u, exec (.peerRequestArrive p pa false bs .clean) s
                = .next (replies u (some ((List.range bs.length).map fun i => memByte s (a + i))))
              ∧ u = { s with chassis := u.chassis } ∧ sameMemory s u))
  ∧ ∀ (s : State) (r : OpRef) (x : Site1), accessOf s r = some x → x.c.key = r.key → x.c.exited ≠ BitVec.allOnes 32 → x.p.phase = 0 →
    ((x.o.kind = .load ∧ (x.p.space = .host ∨ x.p.space = .peer)) ∨ (x.o.kind = .store ∧ x.p.space = .peer)) →
    exec (.completionTimeout r) s = .next (accessFailed s r x 0x20)

/-! ## Events of carriages (08, 10, 11, 14, 16, 19) -/

/-- 10 R255 to R257, 11 R279 to R281, 14 R325, R328, 08 R193, R195, 16 R367, R370, R372, 19 R409: what carriages wait for, and its end. A wait whose
condition holds, and which covers no error of its lanes, a wake, a FENCE and a SCOPEW let their carriage go on; the end of an EXIT removes its
lanes, and with the last of them the coach; a YIELD ends; a blocked carriage goes to the siding; a barrier lets every coach of its train go; a
frame is re-armed; and a fetch that fails traps every lane at its pc, without a repeat. O14 says what a demotion makes of the coach. That a SCOPEW
is written on all chassis in one step is the model's choice (log entry 51), and so is what it does toward a chassis that is cut off (68). -/
def Obligations.CarriageEventsEndTheirWaits : Prop :=
  (∀ (s : State) (r : SlotRef) (c : Coach) (k : Carriage), coachOf s r.key = some c → c.key = r.key → mget c.slots r.slot = some k →
    c.canIssue = true →
    let on : State := s.setCoach r.key (advance c r.slot 4)
    let clk := (chassisOf s c.ch).clk
    let left (n : Counter) : Nat := (c.ops.filter fun o => o.counter = n).length
    let under (f : Nat) (n : Counter) : Prop := f = 63 ∨ left n ≤ f
    let errs (v : Covers) : Prop := ∃ l, l < 32 ∧ k.lanes.getLsbD l = true ∧ ∃ e, mget c.pend l = some e ∧ v.covers e = true
    (∀ l st cp t, k.wait = some (.wait l st cp t) → under l .ld → under st .st → under cp .cp → under t .tl →
        ¬errs { load := l < 63, store := st < 63, copy := if cp < 63 then some (2 ^ 64) else none } → exec (.waitConditionMet r) s = .next on)
      ∧ (∀ n, k.wait = some (.waitc n) → (∀ o ∈ c.ops, o.counter = .cp → o.cart ≤ n → c.cart ≤ o.cart) → ¬errs (waitcCovers c n) →
        exec (.waitcConditionMet r) s = .next on)
      ∧ (∀ m, k.wait = some (.waitg m) → (∀ t, t < 8 → m.getLsbD t = true → left (.tag t) = 0) → ¬errs { tags := m } →
        exec (.waitgConditionMet r) s = .next on)
      ∧ (k.wait = some .sleep → k.wake ≤ clk → exec (.sleepWake r) s = .next on)
      ∧ (k.yieldUntil ≤ clk →
        exec (.yieldExpire r) s = .next (s.setCoach r.key { c with slots := mset c.slots r.slot { k with yieldUntil := 0 } }))
      ∧ (16 ≤ k.blocked → (k.promoted = 0 ∨ k.promoted + 16 ≤ clk) → (∃ e ∈ c.siding, e.held = none) →
        exec (.carriageDemote r) s = .next (s.setCoach r.key (demote c r.slot clk)))
      ∧ (∀ f, k.wait = some .fence → c.fences = [f] → fenceMet s c f = true → k.lanes &&& ~~~f.lanes = 0 →
        exec (.fenceConditionMet r) s
          = .next ((if f.wide then l1Acquire s c.gcore else s).setCoach r.key (advance { c with fences := [] } r.slot 4)))
      ∧ (∀ n w, k.wait = some (.scopew n) → c.scopews = [w] → w.done = false → w.lanes &&& ~~~k.lanes = 0 → w.pc = k.pc → w.level = k.level →
        scopeBefore s c w = false → (∀ d, d < 16 → pathOpen s c.ch d = true ∨ reachable s c.ch d = false) →
        ∃ u, exec (.scopewComplete r) s = .next (u.setCoach r.key (advance { c with scopews := [] } r.slot 4))
          ∧ u = { s with chassis := u.chassis }
          ∧ ∀ d, chassisOf u d = { chassisOf s d with scopes := (chassisOf u d).scopes }
            ∧ ∀ key, rget (chassisOf u d).scopes key
              = if d < 16 ∧ key = 32 * (c.vmid.toNat * 2 ^ 20 + c.pasid.toNat) + w.n then w.mask else rget (chassisOf s d).scopes key)
      ∧ (∀ hyp : Bool,
        let x : Level := if hyp then .H else .S
        let f := frameOf c k.fslot x
        k.level = x →
        ∃ w, exec (.svStatusNestWrite r hyp) s = .next (s.setCoach r.key w) ∧ w = { c with frames := w.frames }
          ∧ frameOf w k.fslot x
            = (if f.busy = true ∧ f.rearmed = false ∧ f.depth < 7 then
                { f with rearmed := true, depth := f.depth + 1, traps := mset f.traps (f.depth + 1) 0 }
              else f)
          ∧ ∀ j y, y ≠ .U → (j ≠ k.fslot ∨ y ≠ x) → frameOf w j y = frameOf c j y)
      ∧ (∀ t : LaneTrap, slotOpen s c.ch = true → slotFree s c = true → choosable s c k = true → chosenNow s c r.slot k = true →
        fetchOf (atHead s (heads s (.turn (.issue r)))) c r.slot k = .fault t →
        let k' := { k with rep := none }
        let ts := (lanesOf k.lanes).map fun l => { t with lane := l }
        reportWaits s c k ts = false →
        ∃ u, exec (.fetchFault r) s = .next (takeTrap u { c with slots := mset c.slots r.slot k' } r.slot k' ts (k.pc, none))
          ∧ (t.cause ≠ 0x20 → t.cause ≠ 0x21 → onlyIssued s u)
          ∧ u = { s with chassis := u.chassis, hostWrites := u.hostWrites, evqTail := u.evqTail, msix := u.msix })
      ∧ (k.wait = some .exit → k.level = .U → (∀ o ∈ c.ops, o.counter = .none) →
        (∀ l, l < 32 → k.lanes.getLsbD l = true → mget c.pend l = none) → (∀ e ∈ c.ports, e.2.faults = []) →
        (c.exited ||| k.lanes ≠ BitVec.allOnes 32 → orderly c →
            ∃ w, exec (.exitWaitEnd r) s = .next (s.setCoach r.key w) ∧ w.exited = c.exited ||| k.lanes
              ∧ w = { c with slots := w.slots, siding := w.siding, exited := w.exited, ports := w.ports, arrived := w.arrived, hold := w.hold }
              ∧ movedLanes c k.lanes (fun _ => none) w)
          ∧ (c.exited ||| k.lanes = BitVec.allOnes 32 → c.ops = [] → c.yard = false → c.gone = false →
            (c.outr.live = false ∨ c.outr.ended = true) →
            ∀ t, trainOf s c.train = some t → 2 ≤ t.left →
              ∃ u, exec (.exitWaitEnd r) s = .next u ∧ u = { s with coaches := u.coaches, trains := u.trains, launches := u.launches }
                ∧ coachOf u r.key = none
                ∧ (∀ j, j ≠ r.key → coachOf u j = coachOf s j) ∧ trainOf u c.train = some { t with left := t.left - 1 })))
  ∧ ∀ (s : State) (t : Train) (n : Nat), trainOf s t.id = some t → (s.coaches.map Prod.fst).Pairwise (· < ·) →
    (∃ e ∈ s.coaches, e.2.train = t.id ∧ rget e.2.arrived n ≠ 0) →
    (∀ e ∈ s.coaches, e.2.train = t.id → rget e.2.arrived n ||| e.2.exited = BitVec.allOnes 32 ∧ ∀ o ∈ e.2.ops, o.fenced = false) →
    (t.cores.length ≤ 1 ∨ ∀ e ∈ s.coaches, e.2.ch = t.ch → e.2.core ∈ t.cores → ∀ o ∈ e.2.ops, o.kind = .store →
      ∀ p ∈ o.pieces, p.phase ≠ 0) →
    ∃ u, exec (.barrierDepart t.id n) s = .next u ∧ u = { s with coaches := u.coaches, chassis := u.chassis }
      ∧ (t.cores.length ≤ 1 → u.chassis = s.chassis)
      ∧ (∀ g ln l, 2 ≤ t.cores.length → (∃ core ∈ t.cores, g = 16 * t.ch + core) → l1Line u g ln = some l → l.owned = true)
      ∧ ∀ key c, coachOf s key = some c →
        (¬(c.train = t.id ∧ rget c.arrived n ≠ 0) → coachOf u key = some c)
          ∧ (c.train = t.id → rget c.arrived n ≠ 0 → ∃ w, coachOf u key = some w
            ∧ (∀ a b, c.resid = .saved a b → w = { c with arrived := w.arrived, departs := c.departs ++ [n] }
              ∧ ∀ m, rget w.arrived m = if m = n then 0 else rget c.arrived m)
            ∧ ((∀ a b, c.resid ≠ .saved a b) →
              let waits (l : Nat) : Prop := (∃ e ∈ c.slots, e.2.lanes.getLsbD l = true ∧ e.2.bar = some n)
                ∨ ∃ e ∈ c.siding, e.lanes.getLsbD l = true ∧ e.bar = some n
              onlyMoved { c with frames := w.frames } w ∧ rget w.arrived n = 0
                ∧ ((∀ e ∈ c.slots, e.2.bar = none ∨ e.2.bar = some n) → (∀ e ∈ c.siding, e.bar = none ∨ e.bar = some n) →
                  ∀ m, m ≠ n → rget w.arrived m = rget c.arrived m)
                ∧ (orderly c → ∀ l, l < 32 → (waits l → laneAt w l = (laneAt c l).map fun p => (p.1 + 4, p.2))
                  ∧ (¬waits l → laneAt w l = laneAt c l))
                ∧ ∀ j y, y ≠ .U → let f := frameOf c j y
                  frameOf w j y = if f.bar = some n then { f with tpc := f.tpc + 4, npc := f.npc + 4, bar := none } else f))

/-! ## Translation and code pages (02) -/

/-- 02 R40 to R52, R54 to R58: a walk reads what the rules say and ends as they say; where the group of a leaf is consistent its address is that of
R45. The oldest miss starts a walk; its reads return what memory holds; its end puts an entry into the TLBs and serves every miss, with a and d
set, or leaves the fault for its carriages. An invalidation removes its entries from each chassis and completes when all have acknowledged. A
page is scanned, and its result says which words are literals or which is the first that is illegal. The model's choices here: the address
that an inconsistent group gives (log entry 49), and what an invalidation by page removes beyond what it names (50). -/
def Obligations.TranslationWalksAndScans : Prop :=
  (∀ (r : Roots) (m : Miss) (M : Nat → W64), (m.ctx.hyp = true → r.ttbr.testBit 0 = true) →
    ∃ rs : List (Nat × W64), (∀ p ∈ rs, p.2 = M p.1) ∧ match walkRule r m M with
    | .error f => ∃ x us, walk r m rs = .fail x us ∧ x.stage = f.1 ∧ x.reason = f.2.1 ∧ x.wlevel = f.2.2 ∧ x.cause = walkCause f
    | .ok ((e, n), l) => ∃ w us, walk r m rs = .ok w [] us
      ∧ w.entry.addr (BitVec.ofNat 64 (m.page * 4096 % 2 ^ 64)) = (match l with
        | none => leafAt e n (m.page * 4096 % 2 ^ 64)
        | some (f, k) => leafAt f k (leafAt e n (m.page * 4096 % 2 ^ 64)))
      ∧ w.entry.attr = attrRule e l ∧ w.entry.ctx = m.ctx ∧ w.entry.glob = (e.testBit 5 && !m.ctx.hyp)
      ∧ w.entry.size = (match l with
        | none => pageOf e n
        | some (f, k) => min (pageOf e n) (pageOf f k)))
  ∧ (∀ (r : Roots) (m : Miss) (rs : List (Nat × W64)), m.ctx.hyp = true → r.ttbr.testBit 0 = false → m.page < 2 ^ 52 →
    ∃ w, walk r m rs = .ok w [] [] ∧ w.keep = false ∧ ∀ va : W64, va.toNat / 4096 = m.page → w.entry.addr va = va.toNat)
  ∧ (∀ e lv ia : Nat, badEntry e lv = false → isTable e = false → lv ≤ 2 →
    field e 51 12 * 4096 % pageOf e lv = ia % pageOf e lv / spanOf lv * spanOf lv →
    leafAt e lv ia = field e 51 12 * 4096 + ia % spanOf lv)
  ∧ (∀ (s : State) (d : Nat) (m : Miss) (pre post : List Miss),
    let c := chassisOf s d
    c.misses = pre ++ m :: post → c.walks.length < 64 → (∀ w ∈ c.walks, w.miss.near m = false) →
    (∀ x ∈ pre, ∃ w ∈ c.walks, w.miss.near x = true) →
    exec (.translationWalk d) s = .next (({ s with nextId := s.nextId + 1 } : State).setChassis d { c with
      misses := pre ++ post
      walks := c.walks ++ [{ id := s.nextId, miss := m, cdtb := c.cdtb, s2tb := c.s2tb, ttbr := c.ttbr }] }))
  ∧ (∀ (s : State) (d : Nat) (w : Walk) (a : Nat) (on : List Used) (h : Home), ((chassisOf s d).walks.find? fun x => x.id == w.id) = some w →
    walk w.roots w.miss w.reads = .need a on → (∀ t ∈ (chassisOf s d).table, t.ctx = w.miss.ctx → t.addr ≠ a) → resolve a = some h →
    coherent s → busesUp s → lineFree s (lineOf h.wa) → hasWay s (lineOf h.wa) → h.wa % 128 + 8 ≤ 128 →
    let w' : Walk := { w with reads := w.reads ++ [(a, BitVec.ofNat 64 (memValue s h.wa 8))] }
    let ends (u : State) : Prop := exec (.tableReadReturn d w.id .clean) s = .next u
    let gone (u : State) : Prop := ∀ x ∈ (chassisOf u d).walks, x.id ≠ w.id
    (reachable s d h.d = true → pathOpen s d h.d = true →
      (∀ b vs, walk w'.roots w'.miss w'.reads = .need b vs → ∃ u, ends u ∧ sameMemory s u ∧ u = { s with chassis := u.chassis }
          ∧ ((chassisOf u d).walks.find? fun x => x.id == w.id) = some w')
        ∧ (∀ x rs us, walk w'.roots w'.miss w'.reads = .ok x rs us → (∀ q ∈ x.used, q.bits = 0) →
          ∃ u, ends u ∧ sameMemory s u ∧ u = { s with chassis := u.chassis } ∧ gone u ∧ x.entry ∈ (chassisOf u d).tlb
            ∧ x.entry ∈ (coreG u w.miss.core).tlb ∧ (∀ y ∈ (coreG u w.miss.core).misses, w.miss.same y = false)
            ∧ ∀ y ∈ (chassisOf u d).misses, ¬(x.entry.covers y.ctx (y.page * 4096) = true ∧ x.entry.serves y.acc = true))
        ∧ (∀ x rs us q g, walk w'.roots w'.miss w'.reads = .ok x rs us → (x.used.filter fun q => q.bits != 0) = [q] →
          resolve q.addr = some g → memValue s g.wa 8 = q.value → g.wa % 8 = 0 → quiet s → reachable s d g.d = true → pathOpen s d g.d = true →
          ∃ u, ends u ∧ gone u ∧ x.entry ∈ (chassisOf u d).tlb ∧ wrote s u g.wa 8 (Nat.lor q.value q.bits))
        ∧ (∀ f us, walk w'.roots w'.miss w'.reads = .fail f us → (∀ q ∈ us, q.bits = 0) →
          ∃ u, ends u ∧ sameMemory s u ∧ u = { s with chassis := u.chassis } ∧ gone u
            ∧ (∃ x ∈ (coreG u w.miss.core).failed, x.miss = w.miss ∧ x.fault = f)
            ∧ ∀ y ∈ (coreG u w.miss.core).misses, w.miss.same y = false))
      ∧ (reachable s d h.d = false → (∀ q ∈ on, q.bits = 0) → ∃ u, ends u ∧ gone u ∧ ∃ x ∈ (coreG u w.miss.core).failed,
          x.miss = w.miss ∧ x.fault.cause = 0x20 ∧ x.fault.addr = BitVec.ofNat 64 a ∧ x.fault.own = false))
  ∧ (∀ (s : State) (r : OpRef) (c : Coach) (o : Op) (kind pasid vmid va : Nat), coachOf s r.key = some c → opOf c r.op = some o →
    o.kind = .tlbinv kind pasid vmid va →
    (∀ d, d < 16 → o.acks.getLsbD d = false → storesBefore c o = false → pathOpen s c.ch d = true → ∃ u,
        let emptied (x : Coach) : Coach := if x.ch = d then { x with slots := x.slots.map fun k => (k.1, { k.2 with pages := [] }) } else x
        exec (.tlbinvArrive r d) s = .next (u.setCoach r.key ((emptied c).setOp r.op fun o =>
            { o with acks := o.acks ||| (1#16 <<< d), acked := s.nextId }))
          ∧ u = { s with chassis := u.chassis, coaches := s.coaches.map fun e => (e.1, emptied e.2) } ∧ (∀ j, j ≠ d → chassisOf u j = chassisOf s j)
          ∧ (chassisOf u d).table = []
          ∧ (∀ e, (e ∈ (chassisOf u d).tlb → ¬removes kind pasid vmid va e ∧ e ∈ (chassisOf s d).tlb)
            ∧ (kind ≠ 3 → ¬removes kind pasid vmid va e → e ∈ (chassisOf s d).tlb → e ∈ (chassisOf u d).tlb)
            ∧ ∀ j, e ∈ (coreOf u d j).tlb → ¬removes kind pasid vmid va e ∧ e ∈ (coreOf s d j).tlb)
          ∧ ∀ w ∈ (chassisOf u d).walks, w.reads = [] ∧ w.cdtb = (chassisOf s d).cdtb ∧ w.s2tb = (chassisOf s d).s2tb
            ∧ w.ttbr = (chassisOf s d).ttbr)
      ∧ (o.acks = BitVec.allOnes 16 → o.done = false → c.exited ≠ BitVec.allOnes 32 →
        (∀ e ∈ s.coaches, ∀ q ∈ e.2.ops, q.stamp < o.acked → (ctxOf e.2 q.level).hit kind pasid vmid = true →
          q.translated s e.2 = false) →
        exec (.tlbinvComplete r) s = .next (s.setCoach r.key (updateOp c r.op fun o => { o with done := true }))))
  ∧ ∀ (s : State) (d page : Nat),
    let c := chassisOf s d
    (page * 4096 / 2 ^ 36 % 16 = d → (∀ r ∈ c.scans, r.page ≠ page) → mget c.scanned page = none → scanWanted s page = true →
        exec (.pageScanStart d page) s = .next (s.setChassis d { c with scans := c.scans ++ [{ page := page, spoilt := false }] }))
      ∧ (∀ r, c.scans = [r] → r.page = page → r.spoilt = true →
        exec (.pageScanDone d page) s = .next (overEvent (s.setChassis d { c with scans := [] }) (.pageScanDone d page)))
      ∧ ∀ r, c.scans = [r] → r.page = page → r.spoilt = false → coherent s → busesUp s → quiet s → page * 4096 / 2 ^ 36 = d →
        let word (n : Nat) : Nat := memValue s (page * 4096 + 4 * n) 4
        let fine (n : Nat) : Prop := literalWord word n = true ∨ scannedWord word n = true
        ∃ u, exec (.pageScanDone d page) s = .next u ∧ sameMemory s u ∧ (chassisOf u d).scans = []
          ∧ ((∀ n, n < 1024 → fine n) →
              mget (chassisOf u d).scanned page = some (.accepted ((List.range 1024).filter (literalWord word))))
          ∧ ∀ n, n < 1024 → ¬fine n → (∀ j, j < n → fine j) → mget (chassisOf u d).scanned page = some (.rejected (4 * n))

/-! ## Start, the host, teardown (21, 02 R59 to R61) -/

/-- 21 R434, R435, R437 to R439, 06 R157, 00 R6, R7, 02 R59, R60, 19 R411: reset gives every register its reset value; an image is
checked for its form, its signatures in order, and its version; the stages follow one another, each with its event, and an error halts them. The
host reads and writes memory through BAR2 and registers through BAR0, and registers take the bits that may be written; a report is signed over
the measurements. Stored events go out in order. Teardown stops the lanes and queues of a PASID, then, once its walks have completed, drops
what it holds, and tells the host. The model's choices here: where the parts of an event lie (log entry 11), teardown in two steps (35), the
order of the image's checks and the errors 4 and 5 (38), what a reset keeps (39), the control blocks before S2 (41), what a report holds (43),
the events that change nothing where they cannot happen (55), and that a reset of a function shows in sv.teardown (75). -/
def Obligations.ResetStartAndHostAccesses : Prop :=
  (∀ s : State,
    let reset : State := { State.reset with
      hostReads := s.hostReads, bar0Reads := s.bar0Reads, hostWrites := s.hostWrites, peerWrites := s.peerWrites
      peerReplies := s.peerReplies, msix := s.msix, reports := s.reports, freeCtr := s.freeCtr, agenda := s.agenda }
    exec .moduleReset s = .next reset ∧ (s.powered = true → exec .powerGood s = .next reset)
      ∧ (s.powered = false → exec .powerGood s = .next s))
  ∧ (∀ (s : State) (v : W64), s.stage = 0 → s.stageErr = 0 → s.check = none →
      (v.getLsbD 0 = true → exec (.fwLoad v) s = .next { s with
          fwLoad := v &&& 0xFFFFFFFFFFFFF000, check := some (field v.toNat 39 12 * 4096, field v.toNat 63 40 * 4096) })
        ∧ (v.getLsbD 0 = false → exec (.fwLoad v) s = .next { s with fwLoad := v &&& 0xFFFFFFFFFFFFF000 }))
  ∧ (∀ (s : State) (v : W64), (s.stage ≠ 0 ∨ s.check.isSome = true) → exec (.fwLoad v) s = .next s)
  ∧ (∀ (s : State) (a n : Nat) (memok : BitVec 16), s.check = some (a, n) →
      let i : Instr := .imageCheckDone memok
      let fits : Prop := 0 < n ∧ n ≤ 4096 * 4096 ∧ a + n ≤ 2 ^ 36
      let bs := (List.range n).map fun j => memByte s (a + j)
      let h := Config.sha384 bs
      (¬fits → exec i s = .next (overEvent { s with check := none, stageErr := 4 } i))
        ∧ (fits → a % 32 = 0 → n % 32 = 0 → coherent s → busesUp s → quiet s →
          ∃ u, u = { s with check := none, chassis := u.chassis, dram := u.dram, flaws := u.flaws } ∧ sameMemory s u ∧
            let halts (e : Nat) : Prop := exec i s = .next (overEvent { u with stageErr := e } i)
            (Config.imageWellFormed bs = false → halts 4)
              ∧ (Config.imageWellFormed bs = true → Config.rsaVerifies h bs = false → halts 1)
              ∧ (Config.imageWellFormed bs = true → Config.rsaVerifies h bs = true → Config.slhVerifies h bs = false → halts 2)
              ∧ (Config.imageWellFormed bs = true → Config.rsaVerifies h bs = true → Config.slhVerifies h bs = true →
                (Config.imageVersion bs < Config.rollbackCounter → halts 3)
                  ∧ (Config.rollbackCounter ≤ Config.imageVersion bs →
                    let v : State := { u with
                      stage := 1, image := some h, memok := memok, stageErr := if memok = BitVec.allOnes 16 then 0 else 5 }
                    ∃ w, exec i s = .next (overEvent w i) ∧ sends v { ty := 13, ch := 0, data := [stageWord v] } w))))
  ∧ (∀ (s : State) (peers : BitVec 8), s.stage = 1 → s.stageErr = 0 →
      exec (.stageS2Entry false peers) s = .next { s with stageErr := 6 }
        ∧ ∃ u v, exec (.stageS2Entry true peers) s = .next u ∧ v = { s with stage := 2, chassis := v.chassis }
          ∧ sends v { ty := 13, ch := 0, data := [stageWord v] } u
          ∧ ∀ d, d < 16 →
            let c := chassisOf s d
            chassisOf v d = { c with
              east := { c.east with state := 1 }, west := { c.west with state := 1 }
              peer := if d % 2 = 1 then { c.peer with state := if peers.getLsbD (d / 2) = true then 1 else 0, since := s.ns } else c.peer })
  ∧ (∀ s : State, (s.stage = 2 → s.stageErr = 0 → ∃ u v, exec .bootstageGo s = .next u ∧ sends v { ty := 13, ch := 0, data := [stageWord v] } u
        ∧ v = { s with
          stage := 3, epoch := s.ns, chassis := v.chassis
          measured := some (Config.sha384 ((List.range 16).flatMap fun d =>
            leBytes 8 (chassisOf s d).func.toNat ++ leBytes 8 (chassisOf s d).duty.toNat)) }
        ∧ ∀ d, d < 16 → chassisOf v d = { chassisOf s d with cacheOn := (chassisOf s d).parkState == 0 })
      ∧ (s.stage ≠ 2 → exec .bootstageGo s = .next s))
  ∧ (∀ s : State,
      let h := Config.sha384 (leBytes 48 Config.romMeasurement.toNat ++ leBytes 48 (s.image.getD 0).toNat ++ leBytes 48 (s.measured.getD 0).toNat)
      exec .spdmRequest s = .next { s with reports := s.reports ++
        [{ rom := Config.romMeasurement, image := s.image.getD 0, config := s.measured.getD 0, hash := h, rsa := Config.signRsa h
           slh := (List.range 16224).map (Config.signSlh h) }] })
  ∧ (∀ (s : State) (f off : Nat) (bs : List Byte) (a b : Nat), bs ≠ [] → barPlace s f off = some a →
      barPlace s f (off + (bs.length - 1)) = some b → b / 2 ^ 36 % 16 = a / 2 ^ 36 % 16 → barOpen s a bs.length → coherent s → busesUp s →
      (∃ u, exec (.hostBar2Write f off bs .clean) s = .next u ∧ u = { s with chassis := u.chassis, dram := u.dram, flaws := u.flaws }
          ∧ wrote s u a bs.length (leNat bs))
        ∧ ∃ u, exec (.hostBar2Read f off bs.length .clean) s = .next u ∧ sameMemory s u
          ∧ u = { s with
            chassis := u.chassis, dram := u.dram
            hostReads := s.hostReads ++ [(off, .data ((List.range bs.length).map fun i => memByte s (a + i)))] })
  ∧ (∀ (s : State) (f off n : Nat) (ecc : Ecc), barRefused s f off n →
      exec (.hostBar2Read f off n ecc) s
          = .next (overEvent { s with hostReads := s.hostReads ++ [(off, refusedAs s f off n)] } (.hostBar2Read f off n .clean))
        ∧ ∀ bs : List Byte, bs.length = n → exec (.hostBar2Write f off bs ecc) s = .next (overEvent s (.hostBar2Write f off bs .clean)))
  ∧ (∀ (s : State) (ts : List Turn) (f off n : Nat), s.powered = true → s.agenda = .bar0Read f off n :: ts →
      let answered (r : HostReply) : Prop := step s = .next { s with agenda := ts, bar0Reads := s.bar0Reads ++ [(off, r)] }
      let d := off / 2 ^ 22
      (f = 0 → off < 2 ^ 26 → n = 8 → blockOpen s d →
          (off % 2 ^ 22 = 0 → answered (.data (leBytes 8 (d % 4 + 16 * d + 256 * d))))
            ∧ (off % 2 ^ 22 = 0x000400 → answered (.data (leBytes 8 (chassisOf s d).savebase.toNat))))
        ∧ (f = 0 → (2 ^ 26 ≤ off ∨ ¬((n = 4 ∨ n = 8) ∧ off % n = 0)) → answered .abort)
        ∧ (f = 0 → off < 2 ^ 26 → (n = 4 ∨ n = 8) → off % n = 0 → ((s.stage = 0 ∧ d ≠ 0) ∨ (2 ≤ s.stage ∧ reachable s 0 d = false)) →
          answered .abort))
  ∧ (∀ (s : State) (d off n : Nat) (v : W64), d < 16 → ((s.stage = 0 ∧ d ≠ 0) ∨ (2 ≤ s.stage ∧ reachable s 0 d = false)) →
      exec (.registerWrite (.host 0) d off n v) s = .next s)
  ∧ (∀ (s : State) (d : Nat) (v : W64), d < 16 → blockOpen s d →
      let c := chassisOf s d
      let write (off : Nat) : Host.Outcome State Fault Refusal := exec (.registerWrite (.host 0) d off 8 v) s
      let put (c : Chassis) : State := s.setChassis d c
      (c.parkState ≠ 2 →
        write 0x0C0000 = .next (put { c with cdtb := written c.cdtb v 0x000FFFFFFFFFF01F })
          ∧ write 0x0C0008 = .next (put { c with s2tb := written c.s2tb v 0xFFFFFFFFFFFFF001 })
          ∧ write 0x0C0010 = .next (put { c with ttbr := written c.ttbr v 0x000FFFFFFFFFF001 })
          ∧ ∀ k, k < 16 → write (0x200000 + 0x10000 * k)
            = .next (s.setCore d k { coreOf s d k with svTvec := written (coreOf s d k).svTvec v 0x00FFFFFFFFFFFFFC }))
        ∧ write 0x000400 = .next (put { c with savebase := written c.savebase v 0xFFFFFFFFFFFFF001 })
        ∧ write 0x050008 = .next (put { c with testctl := written c.testctl v 0xFFF1 })
        ∧ write 0x100008 = .next (put { c with thctl := written c.thctl v 7 })
        ∧ write 0x050000 = .next (put { c with errlog := if v.getLsbD 63 = true then c.errlog &&& 0x7FFFFFFFFFFFFFFF else c.errlog })
        ∧ write 0x010010 = .next s ∧ write 0x100000 = .next s
        ∧ (∀ f off n, d ≠ 0 ∨ off ≠ 0 → exec (.registerWrite (.host (f + 1)) d off n v) s = .next s)
        ∧ (∀ f n, d = 0 → n = 4 ∨ n = 8 →
          exec (.registerWrite (.host (f + 1)) 0 0 n v) s = exec (.fwDoorbellWrite (.host (f + 1)) (field v.toNat 11 0)) s)
        ∧ (∀ org off n, ¬((n = 4 ∨ n = 8) ∧ off % n = 0 ∧ off < 2 ^ 22) → exec (.registerWrite org d off n v) s = .next s)
        ∧ exec (.registerWrite .carriage d 0x000404 4 v) s
          = .next (put { c with savebase := written c.savebase (v <<< 32) 0xFFFFFFFF00000000 }))
  ∧ (∀ (s : State) (v : W64),
      let write (off : Nat) : Host.Outcome State Fault Refusal := exec (.registerWrite (.host 0) 0 off 8 v) s
      (s.ceiling < 2048 → write 0x300000 = .next { s with
          ceiling := if v.toNat % 2048 < 300 then 300 else if 1500 < v.toNat % 2048 then 1500 else v.toNat % 2048 })
        ∧ write 0x300200 = .next { s with qtbase := written s.qtbase v 0x000FFFFFFFFFF001 }
        ∧ write 0x300500 = .next { s with evqBase := written s.evqBase v 0x0003FFFFFFFFF001 }
        ∧ write 0x300508 = .next { s with evqCtl := written s.evqCtl v 0x7FF }
        ∧ write 0x300510 = .next { s with evqHead := v.setWidth 32 })
  ∧ (∀ (s : State) (d : Nat),
      let c := chassisOf s d
      (c.outbound = [] ∨ ¬queueOpen s → exec (.eventStoreFlush d) s = .next s)
        ∧ ∀ e es, c.outbound = e :: es → queueOpen s → e.data.length ≤ 3 →
          exec (.eventStoreFlush d) s = .next (toRing (s.setChassis d { c with outbound := es }) e))
  ∧ (∀ (s : State) (p : BitVec 20),
      let mine (q : Nat) : Prop := queuePasid s q = p.toNat
      let leaves (key : Nat) : Prop := ∃ e ∈ s.coaches, e.1 = key ∧ e.2.pasid = p ∧ (e.2.gone = true ∨ ∀ held i, e.2.resid ≠ .saved held i)
      (s.teardown.isSome = true → exec (.svTeardownWrite p) s = .next s)
        ∧ (s.teardown = none → ∃ u, exec (.svTeardownWrite p) s = .next u
          ∧ u = { s with
            teardown := some p, teardownPasid := p, coaches := u.coaches, launches := u.launches, fwSlots := u.fwSlots,
            fwWaiting := u.fwWaiting, gangHold := u.gangHold, copies := u.copies, reductions := u.reductions, chassis := u.chassis }
          ∧ (∀ e, e ∈ u.coaches ↔ e ∈ s.coaches ∧ ¬(e.2.pasid = p ∧ (e.2.gone = true ∨ ∀ held i, e.2.resid ≠ .saved held i)))
          ∧ (∀ d, onlyOrphans leaves (chassisOf s d) (chassisOf u d))
          ∧ List.Forall₂ (fun x y : Copy => ((∃ j, x.issuer = some j ∧ leaves j.1) → y = { x with issuer := none })
              ∧ (¬(∃ j, x.issuer = some j ∧ leaves j.1) → y = x)) s.copies u.copies
          ∧ u.launches = s.launches.map (fun l =>
            if l.pasid = p then { l with stopped := true, owed := [], held := [], places := 0, counter := l.trains } else l)
          ∧ (∀ q, q ∈ u.fwWaiting ↔ q ∈ s.fwWaiting ∧ ¬mine q)
          ∧ (∀ n, (fwSlotOf s n).valid = true → mine (fwSlotOf s n).queue → fwSlotOf u n = { fwSlotOf s n with valid := false })
          ∧ ∀ n, ¬((fwSlotOf s n).valid = true ∧ mine (fwSlotOf s n).queue) → fwSlotOf u n = fwSlotOf s n))
  ∧ (∀ (s : State) (p : BitVec 20), s.teardown = some p → s.flr = [] →
      let mine (launch : Nat) : Prop := ∃ l, launchOf s launch = some l ∧ l.pasid = p
      let walking : Prop := ∃ e ∈ s.chassis, ∃ w ∈ e.2.walks, w.miss.ctx.hyp = false ∧ w.miss.ctx.pasid = p.toNat
      (walking → exec .teardownComplete s = .next s) ∧ (¬walking → ∃ u v, exec .teardownComplete s = .next u ∧ sends v { ty := 1, ch := 0, who := p.toNat } u ∧ v.teardown = none ∧ v.dram = s.dram
        ∧ v.coaches = s.coaches.filter (fun e => e.2.pasid != p) ∧ v.launches = s.launches.filter (fun l => l.pasid != p)
        ∧ (∀ t, t ∈ v.trains ↔ t ∈ s.trains ∧ ∀ w ∈ s.trains, w.id = t.id → ¬mine w.launch)
        ∧ (∀ z ∈ v.streams, z.pasid ≠ p.toNat) ∧ (∀ y ∈ v.copies, y.ctx.pasid ≠ p.toNat ∨ y.ctx.hyp = true)
        ∧ v.reductions = s.reductions.filter (fun r => r.pasid != p.toNat)
        ∧ ∀ d, d < 16 →
          let c := chassisOf s d
          let x := chassisOf v d
          x.cache = c.cache ∧ x.table = [] ∧ (∀ e, e ∈ x.tlb ↔ e ∈ c.tlb ∧ ¬removes 1 p.toNat e.ctx.vmid 0 e)
            ∧ (∀ m ∈ x.misses, m.ctx.hyp = true ∨ m.ctx.pasid ≠ p.toNat)
            ∧ (∀ k, (coreOf v d k).l1 = (coreOf s d k).l1 ∧ ∀ e ∈ (coreOf v d k).tlb, ¬removes 1 p.toNat e.ctx.vmid 0 e)
            ∧ ∀ key, key / 32 % 2 ^ 20 = p.toNat → rget x.scopes key = 0))
  ∧ ∀ (s : State) (n : Nat) (at_ : Nat → Nat), 1 ≤ n → n ≤ 16 → calm s →
      let qs := (List.range 4096).filter fun q => q < s.qtsize && descFunc s q == n
      (∀ q ∈ qs, stateByte s q (at_ q)) →
      ∃ v, v = { s with chassis := v.chassis, dram := v.dram, flaws := v.flaws }
        ∧ (∀ b, memByte v b = if ∃ q ∈ qs, b = at_ q then memByte s b &&& 0xFE else memByte s b)
        ∧ (s.flr = [] → qs = [] → exec (.vfFlr n) s = .next (overEvent v (.vfFlr n)))
        ∧ ∀ p ps, s.flr ++ (qs.map fun q => BitVec.ofNat 20 (queuePasid v q)).eraseDups = p :: ps →
          (s.teardown.isSome = true → exec (.vfFlr n) s = .next (overEvent { v with flr := p :: ps } (.vfFlr n)))
            ∧ (s.teardown = none → ∃ u, exec (.vfFlr n) s = .next (overEvent u (.vfFlr n)) ∧ exec (.svTeardownWrite p) { v with flr := ps } = .next u)

/-! ## Queues and dispatch (18, 08, 17) -/

/-- 18 R383 to R399, R404, 17 R379, R380, 08 R184, R185, R202 to R206, R210 to R212: a doorbell puts its queue on the waiting list, and a write of
a slot waits for the end of the round. A round consumes the head packet of a mapped queue, leaves it, or stops the queue, and a bundle becomes a
launch or is refused. The slots mapped longest pass on. A dispatcher takes batches, and starts the trains of the launch that it serves first: its
coaches stand as they are formed, on the cores with most room. Where a train does not fit, coaches of lower priority are chosen, and what they
free is for it. A gang starts as one; a bay forms a coach of its records, on a chassis that is not to be parked. The model's choices here: the
lowest chassis as a queue's (log entry 27), the order of the reasons of a refusal (28), the lowest base, handle and place (29), bits that no
field takes (32), no new launch on a chassis to be parked (53), what the lanes of a round share and the writes of its slots (60), room for what
the last core takes (62), and no interrupt for a vector beyond the 64 (77). -/
def Obligations.QueuesLaunchesAndTrains : Prop :=
  (∀ (s : State) (q : Nat), q < 4096 →
    let f := descField s q 15 1
    (2 ≤ s.stage → served s q → ¬inSlot s q → q ∉ s.fwWaiting → ¬hostMaps s f →
        ∀ org, (org = .carriage ∨ org = .host 0 ∨ org = .host f) →
          exec (.fwDoorbellWrite org q) s = .next { s with fwWaiting := s.fwWaiting ++ [q] })
      ∧ ∀ org, (¬served s q ∨ inSlot s q ∨ q ∈ s.fwWaiting ∨ hostMaps s f ∨ ∃ n, org = .host n ∧ n ≠ 0 ∧ n ≠ f) →
        exec (.fwDoorbellWrite org q) s = .next s)
  ∧ (∀ (s : State) (n q : Nat), n < 32 → q < 4096 →
    let f := fwSlotOf s n
    let now := f.pending.getLastD (f.queue, f.valid, f.hostown)
    let put (x : Nat × Bool × Bool) : State := { s with fwSlots := mset s.fwSlots n { f with pending := f.pending ++ [x] } }
    now.1 < 4096 → exec (.fwSlotMap n q) s = .next (put (q, true, now.2.2)) ∧ exec (.fwSlotUnmap n) s = .next (put (now.1, false, now.2.2))
      ∧ ∀ own, exec (.fwSlotHostown n own) s = .next (put (now.1, now.2.1, own)))
  ∧ (∀ s : State, 2 ≤ s.stage → s.teardown = none → s.doing = {} → heads s (.turn (.event .firmwareRound)) = false →
      (∀ n, n < 32 → (fwSlotOf s n).valid = false) → ∃ u, exec .firmwareRound s = .next (overEvent u .firmwareRound) ∧ roundEnd s u)
  ∧ (∀ (s : State) (n q g : Nat) (gh : Home), 2 ≤ s.stage → s.teardown = none → n < 32 → (fwSlotOf s n).valid = true →
      (fwSlotOf s n).queue = q → ((fwSlotOf s n).hostown = true ∨ mapsItself s q) → (∀ m, m < 32 → m ≠ n → (fwSlotOf s m).valid = false) → served s q → s.doing = {} → calm s →
      descOf s q = g → resolve g = some gh →
      let r0 := (loadPa s 0 g 64).2
      let ends (v : State) : Prop := ∃ u, exec .firmwareRound s = .next (overEvent u .firmwareRound) ∧ roundEnd v u
      let stops (r : State) (reason : Nat) : Prop := calm r → ∃ c v,
        c = { r with doing := {}, chassis := c.chassis, dram := c.dram, fwSlots := c.fwSlots, flaws := c.flaws }
          ∧ (∀ m, fwSlotOf c m = if (fwSlotOf r m).valid = true ∧ (fwSlotOf r m).queue = q then { fwSlotOf r m with valid := false }
            else fwSlotOf r m)
          ∧ (∀ b, memByte c b
            = withBytes (withBytes (memByte r) (gh.wa + 14) 1 (descField r q 14 1 ||| 2)) (gh.wa + 32) 4 reason b)
          ∧ sends c { ty := 6, ch := 0, who := q, data := [reason] } v ∧ ends v
      let moves (r : State) (goal : State) (m : Nat → Byte) : Prop := ∃ v,
        v = { goal with doing := {}, chassis := v.chassis, dram := v.dram, flaws := v.flaws }
          ∧ (∀ b, memByte v b = withBytes m (gh.wa + 16) 8 (descField r q 16 8 + 1) b) ∧ ends v
      let stays (r : State) : Prop := ends { r with doing := {} }
      (¬descFits s q → stops r0 3)
        ∧ (descFits s q → descField s q 16 8 = descField s q 24 8 → ∃ v, still s v ∧ ends v)
        ∧ (descFits s q → descField s q 16 8 ≠ descField s q 24 8 → ∀ r, readHead r0 q = (none, r) → stops r 2)
        ∧ ∀ p r, descFits s q → descField s q 16 8 ≠ descField s q 24 8 → readHead r0 q = (some p, r) → calm r →
          let home := queueHome r q
          (bytesAt p 0 1 ≠ 3 → ¬packetFits p → stops r 1)
            ∧ (bytesAt p 0 1 = 0 → packetFits p → moves r r (memByte r))
            ∧ (bytesAt p 0 1 = 1 → packetFits p → ((∀ l ∈ r.launches, l.queue = q → l.topDone = true) → moves r r (memByte r))
              ∧ ((∃ l ∈ r.launches, l.queue = q ∧ l.topDone = false) → stays r))
            ∧ (packetFits p → ∀ ty cond, bytesAt p 0 1 = ty → bytesAt p 1 1 = cond → (ty = 2 ∨ ty = 4 ∨ ty = 5) →
              let kind : Acc := if ty = 2 then .read else if ty = 4 ∧ cond = 1 then .atomic else .write
              let at_ := localNow r home (vmidOf r home) (descField r q 8 4 % 2 ^ 20) kind (BitVec.ofNat 64 (bytesAt p 8 8))
              (at_.1 = none → stops at_.2 2)
                ∧ ∀ pa a h, at_.1 = some (pa, a) → a.repl = false → resolve pa = some h →
                  writeReady at_.2 h.wa 8 → (h.wa + 8 ≤ gh.wa ∨ gh.wa + 64 ≤ h.wa) →
                  let x := memValue at_.2 h.wa 8
                  let w := bytesAt p 16 8
                  let y := x &&& bytesAt p 24 8
                  let met : Prop := (cond = 0 ∧ y = w) ∨ (cond = 1 ∧ y ≠ w) ∨ (cond = 2 ∧ w ≤ y) ∨ (cond = 3 ∧ y < w)
                  (ty = 2 → (met → moves at_.2 at_.2 (memByte at_.2))
                      ∧ (¬met → ∃ v, v = { at_.2 with doing := {}, chassis := v.chassis, dram := v.dram, flaws := v.flaws }
                        ∧ sameMemory at_.2 v ∧ ends v))
                    ∧ (ty ≠ 2 → moves at_.2 at_.2 (withBytes (memByte at_.2) h.wa 8 (if ty = 5 then s.ns else if cond = 1 then x + w else w))))
            ∧ (bytesAt p 0 1 = 3 →
              let hosted : Prop := (bytesAt p 0 4).testBit 8 = true ∧ (dutyOf r home).getLsbD 2 = true ∧ ¬blank p 80 120
              (¬bundleFits p ∨ hosted → stops r 1)
                ∧ ∀ mask : BitVec 16, bundleFits p → ¬hosted →
                  (∀ d, d < 16 → mask.getLsbD d = mayRun r (descField r q 15 1) (bytesAt p 4 2) d) →
                  let full (d : Nat) : Prop := 64 ≤ (r.launches.filter fun l => l.at d).length
                  let l := launchRule r q p mask
                  let lowest := ((List.range 16).find? fun d => mask.getLsbD d).getD 0
                  let va := BitVec.ofNat 64 (bytesAt p 40 8)
                  let header := readNow { r with nextId := r.nextId + 1 } lowest (vmidOf r lowest) l.pasid.toNat va 64
                  let records := readRecords header.2 lowest l (bytesAt p 56 8) (field (bytesAt p 0 4) 16 12)
                  let refused (v : State) (reason : Nat) : Prop := calm v → (∀ x ∈ r.launches, x.id ≠ r.nextId) →
                    (∀ e ∈ r.coaches, e.2.launch ≠ r.nextId) → ∃ u, exec .firmwareRound s = .next u
                    ∧ (∃ x ∈ u.launches, x.id = r.nextId ∧ x.queue = q ∧ x.refused = some reason ∧ x.places = 0 ∧ x.topDone = true)
                    ∧ (queueOpen r → (chassisOf r 0).outbound = [] → (r.evqTail - r.evqHead).toNat + 2 ≤ ringSize r →
                      ∃ x ∈ u.hostWrites, x.2 = eventEntry { ty := 7, ch := 0, who := q, data := [reason] })
                  ((∃ d, d < 16 ∧ mask.getLsbD d = true ∧ full d) → stays r)
                    ∧ ((∀ d, d < 16 → mask.getLsbD d = true → ¬full d) →
                      (mask = 0 → refused r 5)
                        ∧ (mask ≠ 0 → header.1 = none → stops header.2 2)
                        ∧ (mask ≠ 0 → header.1.isSome = true → records.1 = none → stops records.2 2)
                        ∧ (∀ h, mask ≠ 0 → header.1 = some h → records.1.isSome = true → ¬headerFits h → refused records.2 1)
                        ∧ ∀ h z, mask ≠ 0 → header = (some h, z) → headerFits h → field (bytesAt p 0 4) 16 12 = 0 → calm z →
                          let k := kernelRule h va
                          let n := (extentAt p 0 + 31) / 32
                          let open_ (g : Nat) : Prop := g < 256 ∧ mask.getLsbD (g / 16) = true
                          let noVector : Prop := ∃ g, open_ g ∧ (((bytesAt h 6 1).testBit 0 = true ∧ (coreG z g).svTvec = 0)
                            ∨ ((bytesAt h 6 1).testBit 1 = true ∧ (coreG z g).hvTvec = 0))
                          let held : Prop := k.matrix = true ∧ ∀ g, open_ g → (coreG z g).holder.isSome = true
                          ((∀ c, ¬coresNeeded k n c) → refused z 2)
                            ∧ ∀ c, coresNeeded k n c → (held → refused z 3) ∧ (¬held → noVector → refused z 4)
                              ∧ (¬held → ¬noVector → l.gang = false →
                                moves z { z with launches := z.launches ++ [{ l with kernel := k, cores := c }] } (memByte z)))))
  ∧ (∀ (s : State) (order : List Nat), 2 ≤ s.stage → s.teardown = none → s.rotation < s.ns / 100000 →
      (∀ n, n ∈ order ↔ n < 32 ∧ (fwSlotOf s n).valid = true ∧ (fwSlotOf s n).hostown = false) →
      (order.Pairwise fun a b => (fwSlotOf s a).mapped < (fwSlotOf s b).mapped ∨ ((fwSlotOf s a).mapped = (fwSlotOf s b).mapped ∧ a < b)) →
      ∃ ok : Nat → Bool, (∀ q, ok q = true ↔ mapsItself s q) ∧
      let waiting := s.fwWaiting.filter ok
      let passed := order.take waiting.length
      ∃ (u : State) (kept : List Nat), exec .queueSlotRotation s = .next u
        ∧ kept.Sublist (passed.map fun n => (fwSlotOf s n).queue) ∧ (∀ n ∈ passed, (fwSlotOf s n).queue ∈ kept ↔ slotWorks s (fwSlotOf s n))
        ∧ u = { s with fwSlots := u.fwSlots, rotation := s.ns / 100000, fwWaiting := withoutFirst ok s.fwWaiting passed.length ++ kept }
        ∧ ∀ n, fwSlotOf u n = match (passed.zip waiting).find? fun e => e.1 == n with
          | some (_, q) => { fwSlotOf s n with queue := q, mapped := s.ns }
          | none => fwSlotOf s n)
  ∧ (∀ (s : State) (ch : Nat) (l : Launch), s.stage = 3 → s.doing = {} → servedFirst s ch l → launchOf s l.id = some l → l.gang = false →
      (l.counter < l.trains → (∀ h ∈ l.held, h.2 ≠ ch) → (coresFor s ch l).isSome = true →
        heads s (.turn (.event (.dispatcherTakeBatch ch l.id))) = false →
        let taken (b : State) (hs : List (Nat × Nat)) : Prop := ∃ u x,
          exec (.dispatcherTakeBatch ch l.id) s = .next (overEvent u (.dispatcherTakeBatch ch l.id))
          ∧ u = { b with doing := {}, launches := u.launches } ∧ launchOf u l.id = some x ∧ (∀ i, i ≠ l.id → launchOf u i = launchOf s i)
          ∧ x = { l with counter := l.counter + hs.length, held := l.held ++ hs, places := x.places } ∧ placesKept l x
        (l.placed = false → taken s ((List.range (min 8 (l.trains - l.counter))).map fun i => (l.counter + i, ch)))
          ∧ (l.placed = true → l.trains = l.counter + 1 → (dutyOf s ch).getLsbD 2 = false →
            let va := l.hbase + BitVec.ofNat 64
              ((List.range 5).map fun i => (l.coeffs.getD i 0).toNat * trainField l l.counter (i + 1)).sum
            let goal := translateNow s ch (vmidOf s ch) l.pasid.toNat .read va
            goal.2.doing.stall = none → (∀ e, goal.1 = .error e → taken goal.2 [(l.counter, ch)])
              ∧ ∀ pa a h, goal.1 = .ok (pa, a) → resolve pa = some h → taken goal.2
                [(l.counter, if a.repl = false ∧ l.mask.getLsbD h.d = true then h.d else ch)]))
        ∧ ∀ index, (index, ch) ∈ l.held → (∀ h ∈ l.held, h.2 = ch → index ≤ h.1) →
          (∀ ks, coresFor s ch l = some ks → l.records = [] → 1 ≤ l.cores → ∀ hs : List Nat,
            let n := (l.extents.getD 0 1 + 31) / 32
            hs.length = n → hs.Pairwise (· < ·) → (∀ h ∈ hs, h < 4096 ∧ coachOf s (coachKey ch h) = none) →
            (∀ h, coachOf s (coachKey ch h) = none → (∃ x ∈ hs, h < x) → h ∈ hs) →
            ∃ u t x, exec (.trainPlace ch l.id index) s = .next u
              ∧ u = { s with
                trains := s.trains ++ [t], coaches := u.coaches, chassis := u.chassis, launches := u.launches, nextId := u.nextId }
              ∧ t = { id := s.nextId, launch := l.id, index := index, ch := ch, cores := ks, wid := trainWid l index
                      extent := l.extents.getD 0 1, coaches := n, windows := t.windows, matrix := l.kernel.matrix, left := n
                      prio := l.prio, gang := l.gang }
              ∧ ks.length = l.cores ∧ ks.Nodup
              ∧ (∀ i, i < l.cores →
                let k := ks.getD i 0
                let m := shareOf n l.cores i
                mayTake s ch l k m ∧ ∀ j, j ∉ ks → mayTake s ch l j m →
                  freeRegs s ch j < freeRegs s ch k ∨ (freeRegs s ch j = freeRegs s ch k ∧ k < j))
              ∧ (∀ i, i < l.cores → ∃ w, mget t.windows i = some w
                ∧ w = { w with aSize := l.kernel.aSize, wSize := l.kernel.wSize, cSize := l.kernel.cSize }
                ∧ (∀ b, w.aBase ≤ b → b < w.aBase + w.aSize → cget (coreOf u ch (ks.getD i 0)).aBuf b = 0)
                ∧ (w.aSize ≠ 0 → w.aBase + w.aSize ≤ 0x200000 ∧ ∀ y ∈ usedWindows s ch (ks.getD i 0) 1,
                  y.2 = 0 ∨ w.aBase + w.aSize ≤ y.1 ∨ y.1 + y.2 ≤ w.aBase))
              ∧ (∀ k ∈ ks, (coreOf u ch k).icache = [] ∧ (∀ e ∈ (coreOf u ch k).l1, e.2.owned = true)
                ∧ (l.kernel.matrix = true → (coreOf u ch k).holder = some t.id ∧ (coreOf u ch k).cells = []))
              ∧ (∀ key c, coachOf s key = some c → coachOf u key = some c)
              ∧ (∀ j, j < n → ∃ c, coachOf u (coachKey ch (hs.getD j 0)) = some c ∧ c.handle = hs.getD j 0 ∧ formed s l t j c)
              ∧ launchOf u l.id = some x ∧ placesKept l x
              ∧ x = { l with started := l.started + 1, held := l.held.erase (index, ch), places := x.places })
            ∧ (coresFor s ch l = none → (∀ e ∈ s.coaches, e.2.key = e.1) → (s.coaches.map Prod.fst).Nodup →
              let leaves (u : State) (c : Coach) : Prop := coachOf u c.key = some { c with resid := .evicting false, granted := [] }
              ∃ u, exec (.trainPlace ch l.id index) s = .next u ∧ u = { s with coaches := u.coaches, chassis := u.chassis }
                ∧ (∀ key c, coachOf s key = some c → coachOf u key = some c
                  ∨ (leaves u c ∧ evictable s l.prio c = true ∧ c.ch = ch
                    ∧ ∀ j b, coachOf s j = some b → b.ch = ch → evictable s l.prio b = true →
                      (prioOf s b < prioOf s c ∨ (prioOf s b = prioOf s c ∧ c.born < b.born)) → leaves u b))
                ∧ ((∃ e ∈ s.coaches, e.2.resid = .resident ∧ leaves u e.2) → (chassisOf u ch).reserved = some l.id)
                ∧ tokensReturned s u fun c => c.resid = .resident ∧ leaves u c))
  ∧ (∀ (s : State) (l : Launch), s.stage = 3 → launchOf s l.id = some l → l.gang = true → l.counter < l.trains → l.stopped = false →
      l.refused = none → l.mask ≠ 0 → (∀ d, d < 16 → l.at d = true → servedFirst s d l) →
      (∀ h g, s.gangHold = some h → launchOf s h = some g → g.id ≠ l.id → ∃ d, d < 16 ∧ g.at d = true ∧ ¬servedFirst s d g) →
      s.doing = {} → heads s (.turn (.event (.gangStart l.id))) = false →
      (∀ v, gangTry s l = some v → v.doing.stall = none → ∃ u ts x, exec (.gangStart l.id) s = .next u ∧ u.trains = s.trains ++ ts
          ∧ u.gangHold = none
          ∧ ts.map Train.index = List.range l.trains ∧ (∀ t ∈ ts, t.launch = l.id ∧ t.gang = true ∧ l.mask.getLsbD t.ch = true)
          ∧ launchOf u l.id = some x ∧ x.counter = l.trains)
        ∧ (gangTry s l = none → ∃ u, exec (.gangStart l.id) s = .next u
          ∧ u = { s with coaches := u.coaches, chassis := u.chassis, gangHold := some l.id }))
  ∧ (∀ (s : State) (r : SlotRef) (c : Coach) (k : Carriage) (t : Train) (l : Launch), coachOf s r.key = some c → c.key = r.key →
      mget c.slots r.slot = some k → c.canIssue = true → k.wait = some .exit → k.level = .U → c.exited ||| k.lanes = BitVec.allOnes 32 →
      c.ops = [] → (c.outr.live = false ∨ c.outr.ended = true) → (∀ i, i < 32 → mget c.pend i = none) → (∀ e ∈ c.ports, e.2.faults = []) →
      c.yard = false → c.gone = false → s.doing = {} → (∀ e ∈ s.coaches, e.2.launch = c.launch → e.2.gone = false) →
      (∀ e ∈ s.coaches, e.2.ops = []) → c.launch = t.launch → trainOf s c.train = some t → t.left = 1 → t.yardLeft = 0 → t.yard = false → t.completed = false → (∀ y ∈ s.copies, y.train ≠ t.id) →
      (∀ z ∈ s.streams, z.train ≠ t.id) → launchOf s t.launch = some l → l.stopped = false → l.trains = 1 → l.done = [] →
      l.owed = [] →
      (∀ i, 1 ≤ i → i < 6 → l.widths.getD i 0 = 0) →
      let goal := localNow s t.ch (vmidOf s t.ch) l.pasid.toNat .atomic l.sig
      ∀ pa a h, goal.1 = some (pa, a) → a.repl = false → resolve pa = some h → writeReady goal.2 h.wa 8 →
        ∃ u, exec (.exitWaitEnd r) s = .next u ∧ coachOf u r.key = none ∧ (∀ x ∈ u.trains, x.id ≠ t.id)
          ∧ u.msix = s.msix ++ (if l.ev.getLsbD 11 = true ∧ l.vector < 64 then [(l.func, l.vector)] else [])
          ∧ (∃ x, launchOf u t.launch = some x ∧ x = { l with done := [t.index], topDone := true, covers := x.covers })
          ∧ ∀ b, memByte u b = withBytes (memByte goal.2) h.wa 8
            (topUpdate l.badexit (l.copyErr || l.badexit != 0) (memValue goal.2 h.wa 8)) b)
  ∧ ∀ (s : State) (ch core bay : Nat) (b : Bay),
      let k := coreOf s ch core
      mget k.bays bay = some b →
      (b.deadline ≤ s.ns → exec (.bayTimerExpire ch core bay) s
          = .next (s.setCore ch core { k with bays := mset k.bays bay { b with expired := true } }))
        ∧ (s.ns < b.deadline → exec (.bayTimerExpire ch core bay) s = .next s)
        ∧ ∀ l part h, launchOf s b.launch = some l → s.stage = 3 → s.teardown = none → part < 16 → (b.expired = true ∨ 32 ≤ b.recs.length) →
          b.recs.length ≤ 32 → 0 < partRoom s ch core part l.kernel.vregs → (∀ e ∈ s.coaches, e.2.ch = ch → e.2.core = core → e.2.waitsRestore = false) →
          (chassisOf s ch).parkReq = false → (chassisOf s ch).parkState = 0 → (∀ id, ¬madeFor s ch id) → h < 4096 → coachOf s (coachKey ch h) = none → (∀ j, j < h → coachOf s (coachKey ch j) ≠ none) →
          let n := b.recs.length
          ∃ u t c, exec (.yardCoachForm ch core bay part) s = .next u
            ∧ u = { s with trains := s.trains ++ [t], coaches := u.coaches, chassis := u.chassis, nextId := s.nextId + 1 }
            ∧ t = { id := s.nextId, launch := l.id, index := 0, ch := ch, cores := [core], wid := 0, left := 1, yard := true
                    parents := t.parents, prio := l.prio, gang := l.gang }
            ∧ (t.parents.map Prod.fst).Nodup
            ∧ (∀ i m, (i, m) ∈ t.parents ↔ 0 < m ∧ m = (b.recs.filter fun r => r.train == i).length)
            ∧ mget (coreOf u ch core).bays bay = none ∧ (∀ key, key ≠ coachKey ch h → coachOf u key = coachOf s key)
            ∧ coachOf u (coachKey ch h) = some c
            ∧ c = { ch := ch, handle := h, core := core, part := part, place := c.place, train := s.nextId, launch := l.id, yard := true
                    vmid := b.vmid, pasid := l.pasid, vregs := l.kernel.vregs, access := l.kernel.access.isSome, exited := c.exited
                    born := c.born, workId := c.workId, slots := [(0, { pc := b.entry, lanes := ~~~c.exited })], v := c.v }
            ∧ (∀ i, i < 32 → (c.exited.getLsbD i = true ↔ n ≤ i))
            ∧ ∀ i r, b.recs[i]? = some r → rget c.workId i = r.wid ∧ rget c.v i = r.payload.setWidth 32
              ∧ rget c.v (32 + i) = r.payload.extractLsb' 32 32

/-! ## Pre-emption and context switch (19 R410 to R417) -/

/-- 19 R410 to R417: ctx.evict takes every coach of a PASID on the chassis of the mask, or returns those that it holds. A coach whose operations
have ended is written to the lowest free slot of the pool, each field where R415 puts it, and its place is free. It comes back on its own core
with the state that the record then gives, where there is room for it; a record that is broken ends its lanes and tells the host. A parked trap
carriage is resolved by ctx.fresume, now or at restore. The model's choices here: what the record does not hold, and a level code of 3 as a
broken record (log entry 30), a coach that ctx.evict returns waiting for room (52), and the lowest slot of the pool (29). -/
def Obligations.EvictedCoachesComeBack : Prop :=
  (∀ (s : State) (pasid : BitVec 20) (mask : BitVec 16),
      let v (op : Nat) : W64 := BitVec.ofNat 64 (pasid.toNat + 2 ^ 20 * mask.toNat + 2 ^ 36 * op)
      let busy : Prop := ∃ e ∈ s.coaches, e.2.resid = .evicting true ∨ e.2.returning = true
      let there (c : Coach) : Prop := c.pasid = pasid ∧ c.gone = false ∧ ∀ held i, c.resid ≠ .saved held i
      let gang (c : Coach) : Prop := there c ∧ ∃ l, launchOf s c.launch = some l ∧ l.gang = true
      let whole (m : BitVec 16) : Prop := (∀ d, mask.getLsbD d = true → m.getLsbD d = true)
        ∧ ∀ a ∈ s.coaches, ∀ b ∈ s.coaches, gang a.2 → gang b.2 → a.2.launch = b.2.launch → m.getLsbD a.2.ch = true → b.2.ch < 16 →
          m.getLsbD b.2.ch = true
      ∃ m : BitVec 16, whole m ∧ (∀ n, whole n → ∀ d, m.getLsbD d = true → n.getLsbD d = true) ∧
      let goes (c : Coach) : Prop := there c ∧ m.getLsbD c.ch = true
      (busy → exec (.ctxEvict pasid mask) s = .next s ∧ exec (.ctxRestore pasid mask) s = .next s)
        ∧ (¬busy → (∃ u, exec (.ctxEvict pasid mask) s = .next u
            ∧ u = { s with evict := v 0, coaches := u.coaches, chassis := u.chassis } ∧ tokensReturned s u goes
            ∧ ∀ key, (coachOf s key = none → coachOf u key = none)
              ∧ ∀ c, coachOf s key = some c → (goes c → coachOf u key = some { c with resid := .evicting true, granted := [] })
                ∧ (¬goes c → coachOf u key = some c))
          ∧ ∃ u, exec (.ctxRestore pasid mask) s = .next u ∧ u = { s with evict := v 1, coaches := u.coaches }
            ∧ ∀ key c, coachOf s key = some c →
              (∀ i, c.resid = .saved true i → c.pasid = pasid → mask.getLsbD c.ch = true →
                  coachOf u key = some { c with resid := .saved false i, returning := true })
                ∧ (¬((∃ i, c.resid = .saved true i) ∧ c.pasid = pasid ∧ mask.getLsbD c.ch = true) → coachOf u key = some c)))
  ∧ (∀ (s : State) (r : CoachRef) (c : Coach) (held : Bool) (i : Nat), coachOf s r.key = some c → c.key = r.key → c.resid = .evicting held →
      let x := chassisOf s c.ch
      let wa := slotAt x i
      let waits : Prop := exec (.coachSave r) s = .next (overEvent s (.coachSave r))
      (¬operationsOver c → waits) ∧ (x.hold = true → waits) ∧ ((∀ j, j < poolSlots x → j ∈ x.saveUsed) → waits)
        ∧ (coreStoresBefore s c.gcore c.last = true → waits)
        ∧ (operationsOver c → x.hold = false → i < poolSlots x → i ∉ x.saveUsed →
          (∀ j, j < i → j ∈ x.saveUsed) → c.ch < 16 → coreStoresBefore s c.gcore c.last = false → calm s →
          ∃ u w, exec (.coachSave r) s = .next u
            ∧ u = { s with coaches := mset s.coaches r.key w, chassis := u.chassis, dram := u.dram, flaws := u.flaws }
            ∧ w = { c with resid := .saved held i, fences := [], hold := false } ∧ (chassisOf u c.ch).saveUsed = i :: x.saveUsed
            ∧ (chassisOf u c.ch).purse = x.purse ∧ (chassisOf u c.ch).requests = x.requests
            ∧ (wa + 0x1C000 ≤ 2 ^ 40 → c.vregs ≤ 256 → c.siding.length ≤ 32 → (∀ q, q < 8 → (portOf c q).depth ≤ 64) →
              ((List.range 8).map fun q => (portOf c q).faults.length).sum ≤ 64 →
              (∀ f ∈ recordRows c, memValue u (wa + f.1) f.2.1 = f.2.2 % 256 ^ f.2.1)
                ∧ ∀ b, (b < wa ∨ wa + 0x1C000 ≤ b) → memByte u b = memByte s b)))
  ∧ (∀ (s : State) (r : CoachRef) (c : Coach) (i : Nat), coachOf s r.key = some c → c.key = r.key → c.resid = .saved false i → s.stage = 3 →
      let x := chassisOf s c.ch
      let wa := slotAt x i
      let g := recordField s wa
      let room (p : Nat) : Nat := partRoom s c.ch c.core p (8 * g 6 1)
      s.teardown = none → calm s → c.ch < 16 → c.core < 16 → x.parkReq = false → x.parkState = 0 → (∀ id, ¬madeFor s c.ch id) →
      hasRoomFor s c.ch c.core c.vregs c.entries (c.access = true ∧ c.yard = false) → wa + 0x1C000 ≤ 2 ^ 40 →
      (recordFits s wa c → ¬hasRoomFor s c.ch c.core (8 * g 6 1) (recordBefore s wa 8) (g 7 1 % 4 = 1) →
          exec (.coachRestore r) s = .next (overEvent s (.coachRestore r)))
        ∧ (recordFits s wa c → hasRoomFor s c.ch c.core (8 * g 6 1) (recordBefore s wa 8) (g 7 1 % 4 = 1) →
          c.resumes = [] → c.departs = [] → (∃ l, l < 32 ∧ recordLane s wa l) → ∃ u w, exec (.coachRestore r) s = .next u
          ∧ u = { s with coaches := mset s.coaches r.key w, chassis := u.chassis, dram := u.dram, flaws := u.flaws } ∧ sameMemory s u
          ∧ reloaded s wa c w ∧ w.resid = .resident ∧ w.returning = false ∧ w.age = 0 ∧ w.part < 16 ∧ 0 < room w.part
          ∧ (∀ p, p < 16 → 0 < room p → freePlaces s c.ch c.core p ≤ freePlaces s c.ch c.core w.part)
          ∧ w = { w with
            ch := c.ch, handle := c.handle, core := c.core, train := c.train, launch := c.launch, ops := c.ops, nextOp := c.nextOp }
          ∧ (chassisOf u c.ch).saveUsed = x.saveUsed.erase i
          ∧ (∀ e ∈ (coreOf u c.ch c.core).l1, e.2.owned = true) ∧ (coreOf u c.ch c.core).icache = [])
        ∧ (¬recordFits s wa c → c.ops = [] → c.gone = false → c.yard = false → ∀ t l, trainOf s c.train = some t → 2 ≤ t.left → launchOf s c.launch = some l →
          ∃ v u k, exec (.coachRestore r) s = .next (overEvent u (.coachRestore r)) ∧ sends v { ty := 10, ch := c.ch, handle := c.handle, who := c.pasid.toNat } u
            ∧ v = { s with
              coaches := v.coaches, trains := v.trains, launches := v.launches, chassis := v.chassis, dram := v.dram, flaws := v.flaws }
            ∧ coachOf v r.key = none ∧ trainOf v c.train = some { t with left := t.left - 1 }
            ∧ (∃ y, launchOf v c.launch = some y ∧ y = { l with badexit := l.badexit + k, covers := y.covers })
            ∧ k = ((List.range 32).filter fun n => !c.exited.getLsbD n).length))
  ∧ ∀ (s : State) (r : SlotRef) (c : Coach) (k : Carriage), coachOf s r.key = some c → c.key = r.key → mget c.slots r.slot = some k →
      let f := frameOf c k.fslot k.level
      let ts := rget f.traps f.depth &&& ~~~c.exited
      let gone : Prop := ∃ held i, c.resid = .saved held i
      (k.parked = false → exec (.ctxFresumeRetry r) s = .next s ∧ exec (.ctxFresumeDeliver r) s = .next s)
        ∧ (k.parked = true → gone →
          exec (.ctxFresumeRetry r) s = .next (s.setCoach r.key { c with resumes := mset c.resumes r.slot false })
            ∧ exec (.ctxFresumeDeliver r) s = .next (s.setCoach r.key { c with resumes := mset c.resumes r.slot true }))
        ∧ (k.parked = true → ¬gone →
          exec (.ctxFresumeDeliver r) s = .next (s.setCoach r.key { c with slots := mset c.slots r.slot { k with parked := false } })
            ∧ (orderly c → k.level ≠ .U → f.rearmed = false → k.lanes = ts → ts ≠ 0 → (∀ e ∈ c.ports, e.2.faults = []) →
              ∃ w, exec (.ctxFresumeRetry r) s = .next (s.setCoach r.key w)
                ∧ w = { c with slots := w.slots, siding := w.siding, frames := w.frames, ports := w.ports, arrived := w.arrived, hold := w.hold }
                ∧ movedLanes c k.lanes
                  (fun _ => some (f.tpc, Level.ofCode (f.fmisc.toNat % 4), repOf (f.frep.toNat % 2 ^ 32))) w
                ∧ (frameOf w k.fslot k.level).busy = (f.depth ≠ 0 && f.busy)
                ∧ ∀ j y, y ≠ .U → (j ≠ k.fslot ∨ y ≠ k.level) → frameOf w j y = frameOf c j y))

/-! ## Power, temperature, parking and the memory controller (20, 03 R80 to R84, 04 R108 to R110) -/

/-- 20 R420 to R430, 03 R80 to R84, 04 R108 to R110: epochs fill the purses under the ceiling, move the duty and, in the end, the performance
states; the sixteen readings of a sample choose the state of the governor, and a change takes effect at its clock, with an event. A chassis
without trains is parked by writing its lines back and turning its caches off, and comes back with empty ones; no byte of memory changes. Banks
are refreshed; a stolen clock passes. An idle bus is tested group by group; a lane that errs twice is replaced by the lowest spare, and without
one the bus is lost. Of this the model's own choices are: how steps follow one another and end at the cap (log entry 26), what parking turns off
and when its sums go on (log entries 40, 45), the groups of a test (44), which events change nothing (55), the grant of a waiting request in an
epoch without draws (66) and what the loss of a bus counts (69). -/
def Obligations.PowerParkingAndTheMemoryController : Prop :=
  (∀ (s : State) (watts : List Nat), s.stage = 3 → s.epoch + 1000 ≤ s.ns → (∀ d, d < 16 → (chassisOf s d).purse ≤ 8388608) → s.ceiling ≤ 1500 →
      let P := watts.sum
      let G := (((s.ceiling : Int) - P) * 175438 + s.consumed).toNat
      let all := ((List.range 16).map fun d => (chassisOf s d).draws).sum
      let grant (d : Nat) : Nat :=
        let c := chassisOf s d
        max (if all = 0 then 0 else G * c.draws / all) (match c.requests with
          | [] => 0
          | r :: _ => r.2.2)
      let purse (d : Nat) : Nat := min ((chassisOf s d).purse + grant d) 8388608
      let slow := if s.duty ≤ 4 then s.slowEpochs + 1 else 0
      let fast := if s.duty = 8 ∧ min 2047 P * 10 < s.ceiling * 9 then s.fastEpochs + 1 else 0
      ∃ u, exec (.powerEpoch watts) s = .next u
        ∧ u = { s with
          chassis := u.chassis, power := min 2047 P, consumed := 0, epoch := s.epoch + 1000
          duty := if s.ceiling < P then max 1 (s.duty - 1) else if P + 20 ≤ s.ceiling then min 8 (s.duty + 1) else s.duty
          tokens := min (2 ^ 32 - 1) ((List.range 16).map fun d => purse d - (chassisOf s d).purse).sum
          slowEpochs := if slow = 100 then 0 else slow, fastEpochs := if fast = 1000 then 0 else fast }
        ∧ ∀ d, d < 16 →
          let c : Chassis := { chassisOf s d with purse := purse d, draws := 0 }
          chassisOf u d = if slow = 100 then (if c.parkState = 0 then stepsOne s c 1 else c)
            else if fast = 1000 then stepsOne s c (-1) else c)
  ∧ (∀ (s : State) (watts : List Nat), s.stage ≠ 3 ∨ s.ns < s.epoch + 1000 → exec (.powerEpoch watts) s = .next s)
  ∧ (∀ (s : State) (cap : BitVec 3), ∃ u, exec (.pscapWrite cap) s = .next u ∧ u = { s with pscap := cap.toNat, chassis := u.chassis }
      ∧ ∀ d, d < 16 →
        let c := chassisOf s d
        let v : State := { s with pscap := cap.toNat }
        chassisOf u d = if cap.toNat < s.pscap ∧ cap.toNat < c.ps then stepsOne v c (-1) else stepsToCap v c)
  ∧ (∀ (s : State) (d p t : Nat),
      let c := chassisOf s d
      c.psStep = some (p, t) → (t ≤ s.ns → exec (.psStepComplete d) s
          = .next (s.setChassis d (stepsOn s { c with ps := p, psStep := none })))
        ∧ (s.ns < t → exec (.psStepComplete d) s = .next s))
  ∧ (∀ (s : State) (d r : Nat) (readings : List Nat),
      let c := chassisOf s d
      let early : Prop := ∃ t, c.sampled = some t ∧ 1200 * s.ns + s.nsPart < t + 1200000
      (readings.length ≠ 16 ∨ early → exec (.thermalSample d readings) s = .next s)
        ∧ (readings.length = 16 → ¬early → r ∈ readings → (∀ x ∈ readings, x ≤ r) →
          (920 ≤ r → exec (.thermalSample d readings) s = .next { s with powered := false })
            ∧ (r < 920 → exec (.thermalSample d readings) s = .next (s.setChassis d (governed s c r)))))
  ∧ (∀ (s : State) (d n : Nat),
      let c := chassisOf s d
      let shows (i : Instr) (y : Chassis) : Prop := ∃ u, exec i s = .next u
        ∧ sends (s.setChassis d y) { ty := 11, ch := d, data := [tstateOf y] } u
      (∀ t : Nat, c.tsNext = some (t, n) →
          (takesEffect s c n → shows (.throttleChange d) { c with ts := t, tsNext := none, since := c.clk % 2 ^ 56 })
            ∧ (¬takesEffect s c n → exec (.throttleChange d) s = .next s))
        ∧ (∀ h : Bool, c.holdNext = some (h, n) →
          (takesEffect s c n → shows (.holdChange d) { c with hold := h, holdNext := none, since := c.clk % 2 ^ 56 })
            ∧ (¬takesEffect s c n → exec (.holdChange d) s = .next s)))
  ∧ (∀ (s : State) (d : Nat),
      ((chassisOf s d).tsNext = none → exec (.throttleChange d) s = .next s)
        ∧ ((chassisOf s d).holdNext = none → exec (.holdChange d) s = .next s))
  ∧ (∀ (s : State) (d : Nat), d < 16 →
      let c := chassisOf s d
      let unpark : Chassis := { c with parkReq := false, parkState := if c.parkState = 2 then 3 else c.parkState }
      ((d = 0 ∨ ¬blockOpen s d) → exec (.parkRequest d) s = .next s ∧ exec (.unparkRequest d) s = .next s)
        ∧ (d ≠ 0 → blockOpen s d → exec (.parkRequest d) s = .next (s.setChassis d { c with parkReq := true })
          ∧ exec (.unparkRequest d) s = .next (s.setChassis d unpark))
        ∧ ((c.parkReq = false ∨ c.parkState ≠ 0 ∨ ¬deserted s d) →
          exec (.parkEntryStart d) s = .next (overEvent s (.parkEntryStart d)))
        ∧ (c.parkReq = true → c.parkState = 0 → deserted s d → coherent s → busesUp s → quiet s →
          ∃ u, exec (.parkEntryStart d) s = .next u ∧ still s u ∧ swept u d
            ∧ (chassisOf u d).parkState = 1)
        ∧ (c.parkState ≠ 1 → exec (.parkCutOver d) s = .next (overEvent s (.parkCutOver d)))
        ∧ (c.parkState = 1 → coherent s → busesUp s → quiet s →
          ∃ w u v, exec (.parkCutOver d) s = .next (overEvent
              (if c.parkReq = true then w else w.setChassis d { chassisOf w d with parkState := 3 }) (.parkCutOver d))
            ∧ sumsSentOn u w d
            ∧ sends v { ty := 12, ch := d, data := [if d = 0 then 0 else 4 + if c.parkReq = true then 1 else 0] } u
            ∧ still s v
            ∧ chassisOf v d = { chassisOf v d with cache := [], cacheOn := false, tlb := [], table := [], parkState := 2, parkReq := c.parkReq }
            ∧ ∀ k, k < 16 → let x := coreOf v d k
              x.l1 = [] ∧ x.icache = [] ∧ x.aBuf = [] ∧ x.wBuf = [] ∧ x.cBuf = [] ∧ x.cells = [])
        ∧ (let waits : Prop := ∃ b ∈ c.buses, ∃ q ∈ b.2.queues, ∃ e ∈ q.2, e.live s = true
          (c.parkState ≠ 3 ∨ waits → exec (.parkExitComplete d) s = .next s)
            ∧ (c.parkState = 3 → ¬waits → ∃ u, exec (.parkExitComplete d) s = .next u ∧ u = { s with chassis := u.chassis }
              ∧ chassisOf u d = { c with parkState := 0, cache := [], cacheOn := s.stage == 3, cores := (chassisOf u d).cores }
              ∧ ∀ k, coreOf u d k = { coreOf s d k with l1 := [], icache := [] })))
  ∧ (∀ (s : State) (d n chan bank : Nat), d < 16 → n < 16 → chan < 32 → bank < 16 →
      let c := chassisOf s d
      let b := busOf c n
      let at_ := 16 * chan + bank
      let put (x : Bus) : State := s.setChassis d { c with buses := mset c.buses n x }
      let interval := [3900, 1950, 1950, 980].getD (min c.ts 3) 0
      c.ts ≤ 3 → ((mget b.refreshedAt at_).getD 0 + interval ≤ s.ns →
          exec (.bankRefresh d n chan bank) s = .next (put { b with
            refreshed := mset b.refreshed at_ (((mget b.refreshed at_).getD 0 + 1) % 8192), refreshedAt := mset b.refreshedAt at_ s.ns }))
        ∧ (s.ns < (mget b.refreshedAt at_).getD 0 + interval → exec (.bankRefresh d n chan bank) s = .next s)
        ∧ (b.state = 1 → exec (.testerYield d n) s = .next (put { b with state := 0, lastOp := c.clk }))
        ∧ (b.state = 2 → b.busyTo ≤ c.clk → exec (.repairComplete d n) s = .next (put { b with state := 0, lastOp := c.clk }))
        ∧ (let waits : Prop := (∃ e ∈ b.arrivals, e.live s = true) ∨ ∃ q ∈ b.queues, ∃ e ∈ q.2, e.live s = true
          (b.state = 0 → c.testctl.getLsbD 0 = true → b.lastOp + max 16 (field c.testctl.toNat 15 4) ≤ c.clk → ¬waits →
              exec (.testerStart d n) s = .next (put { b with state := 1, group := b.next, busyTo := c.clk + 512 }))
            ∧ (waits → exec (.testerStart d n) s = .next s))
        ∧ (c.testctl.getLsbD 0 = false → exec (.testerStart d n) s = .next s)
        ∧ ∀ errs : BitVec 8, b.state = 1 → b.busyTo ≤ c.clk →
          let g := b.group
          let twice := errs &&& rget b.erred g
          let tested : Bus := { b with
            erred := mset b.erred g errs, next := (g + 1) % 37, passes := if g = 36 then (b.passes + 1) % 2 ^ 32 else b.passes, state := 0 }
          let ends (x : Bus) : Prop := exec (.groupTestDone d n errs) s = .next (put x)
          (twice = 0 → ends tested)
            ∧ (∀ i, i < 8 → twice = 1#8 <<< i → g = 36 → b.spareValid.getLsbD i = false →
              ends { tested with spareFailed := b.spareFailed ||| (1#8 <<< i) })
            ∧ ∀ i, i < 8 → twice = 1#8 <<< i → g < 36 → (∀ j, j < 8 → mget b.spareLane j ≠ some (8 * g + i)) →
              let other := errs &&& ~~~(1#8 <<< i)
              (∀ j, j < 8 → b.spareValid.getLsbD j = false → b.spareFailed.getLsbD j = false →
                (∀ k, k < j → b.spareValid.getLsbD k = true ∨ b.spareFailed.getLsbD k = true) →
                  ends { tested with
                    erred := mset tested.erred g other, spareLane := mset b.spareLane j (8 * g + i)
                    spareValid := b.spareValid ||| (1#8 <<< j), state := 2, busyTo := c.clk + 2048 })
                ∧ ((∀ j, j < 8 → b.spareValid.getLsbD j = true ∨ b.spareFailed.getLsbD j = true) →
                  let lost := put { tested with erred := mset tested.erred g other, state := 3 }
                  let held (ln : Nat) (g : Nat) : Prop := lineDie ln = d ∧ (cacheLine s ln).bind CacheLine.owner = some g
                  (sliceOpen s d = false → exec (.groupTestDone d n errs) s = .next s)
                    ∧ (sliceOpen s d = true → (∀ ln g, held ln g → pathOpen s d (g / 16) = true ∨ reachable s d (g / 16) = false) →
                      ∃ u v, exec (.groupTestDone d n errs) s = .next u ∧ sends v { ty := 2, ch := d, data := [n] } u
                        ∧ v = discardLines lost d n ∧ v.dram = s.dram
                        ∧ ∀ ln, lineDie ln = d → (homeAt (128 * ln)).col = n → cacheLine v ln = none)))
  ∧ ∀ (s : State) (d : Nat), d < 16 →
      let c := chassisOf s d
      let stolen : Prop := (c.ts = 0 ∧ c.clk % 64 = 63) ∨ ((c.ts = 1 ∨ c.ts = 2) ∧ c.clk % 32 = 31) ∨ (c.ts = 3 ∧ c.clk % 16 = 15)
      c.ts ≤ 3 → (¬stolen → exec (.gainCellRefreshSteal d) s = .next s)
        ∧ (stolen → (∀ wa, wa / 2 ^ 36 % 16 = d → c.cacheOn = true → busOpen s wa = false)
          ∧ ((∀ l ∈ s.launches, l.owed = []) → ∃ u, exec (.gainCellRefreshSteal d) s = .next u ∧ u.dram = s.dram
            ∧ 1200 * u.ns + u.nsPart = 1200 * s.ns + s.nsPart + 1000
            ∧ (∀ e, e < 16 →
              let x := chassisOf s e
              let y := chassisOf u e
              1200 * y.clk + y.phase = 1200 * x.clk + x.phase + rateNow (stepDone { s with ns := u.ns } x)
                ∧ (y.clk = x.clk → y.ts = x.ts ∧ y.hold = x.hold)
                ∧ (y.clk ≠ x.clk →
                  (∀ t n, x.tsNext = some (t, n) → y.ts = (if y.clk % 64 = 0 ∧ n ≤ 1200 * u.ns + u.nsPart then t else x.ts))
                    ∧ (∀ h n, x.holdNext = some (h, n) → y.hold = (if y.clk % 64 = 0 ∧ n ≤ 1200 * u.ns + u.nsPart then h else x.hold))
                    ∧ ∀ n, let b := busOf x n
                      let late (q : BankEntry) : Prop := q.live s = true ∧ q.since + 16 ≤ y.clk
                      b.state = 1 → ((∃ q ∈ b.arrivals, late q) ∨ ∃ m ∈ b.queues, ∃ q ∈ m.2, late q) →
                        busOf y n = { b with state := 0, lastOp := y.clk }))
            ∧ ∀ id t, trainOf s id = some t → t.ch < 16 →
              let now := (chassisOf u t.ch).clk
              ∃ w, trainOf u id = some w ∧ w = { t with fmts := w.fmts, loads := w.loads }
                ∧ (now = (chassisOf s t.ch).clk → w = t)
                ∧ (now ≠ (chassisOf s t.ch).clk → w.loads = t.loads.filter (fun e => now < e.1)
                  ∧ (∀ k, (∀ e ∈ t.loads, e.1 ≤ now → e.2.1 ≠ k) → mget w.fmts k = mget t.fmts k)
                  ∧ ∀ e, t.loads = [e] → e.1 ≤ now → mget w.fmts e.2.1 = some e.2.2)))
end

