-- ==== Sys2Proof/Laws/Maps.lean ====
section
/-! SUPPORT. Laws of the finite maps and of the byte stores: reads after writes, and the canonical form, which every operation keeps. -/

namespace Sys2Proof.Machine

/-! ## Maps -/

@[simp] theorem mget_mset_self {α : Type} (m : SMap α) (k : Nat) (v : α) : mget (mset m k v) k = some v := by
  induction m with
  | nil => simp [mset, mget]
  | cons e m ih =>
    obtain ⟨a, b⟩ := e
    simp only [mset]
    split
    · simp [mget]
    · split
      · simp [mget]
      · simp [mget, *]

theorem mget_mset_ne {α : Type} (m : SMap α) {k j : Nat} (v : α) (h : j ≠ k) : mget (mset m k v) j = mget m j := by
  induction m with
  | nil => simp [mset, mget, Ne.symm h]
  | cons e m ih =>
    obtain ⟨a, b⟩ := e
    simp only [mset]
    split
    · next hk => subst hk; simp [mget, Ne.symm h]
    · split
      · simp [mget, Ne.symm h]
      · simp [mget, ih]

theorem mget_mset {α : Type} (m : SMap α) (k j : Nat) (v : α) : mget (mset m k v) j = if j = k then some v else mget m j := by
  split
  · next h => rw [h, mget_mset_self]
  · next h => exact mget_mset_ne m v h

theorem mget_mdel {α : Type} (m : SMap α) (k j : Nat) : mget (mdel m k) j = if j = k then none else mget m j := by
  induction m with
  | nil => simp [mdel, mget]
  | cons e m ih =>
    obtain ⟨a, b⟩ := e
    unfold mdel at *
    by_cases ha : a = k
    · subst ha
      simp only [ne_eq, not_true_eq_false, decide_false, Bool.false_eq_true, not_false_eq_true, List.filter_cons_of_neg, ih]
      split
      · rfl
      · next h => simp [mget, Ne.symm h]
    · simp only [ne_eq, ha, not_false_eq_true, decide_true, List.filter_cons_of_pos, mget, ih]
      by_cases hj : a = j
      · subst hj; simp [ha]
      · simp [hj]

@[simp] theorem rget_mset_self {w : Nat} (m : RMap w) (k : Nat) (v : BitVec w) : rget (mset m k v) k = v := by simp [rget]

theorem rget_mset {w : Nat} (m : RMap w) (k j : Nat) (v : BitVec w) : rget (mset m k v) j = if j = k then v else rget m j := by
  simp only [rget, mget_mset]; split <;> rfl

/-- What holds of every entry holds of every entry after a write of one that satisfies it. -/
theorem all_mset {α : Type} (p : Nat × α → Bool) (m : SMap α) (k : Nat) (v : α) (hm : m.all p = true) (hv : p (k, v) = true) :
    (mset m k v).all p = true := by
  induction m with
  | nil => simp [mset, hv]
  | cons e m ih =>
    obtain ⟨a, b⟩ := e
    simp only [List.all_cons, Bool.and_eq_true] at hm
    simp only [mset]
    split
    · simp [hv, hm.2]
    · split
      · simp [hv, hm.1, hm.2]
      · simp [hm.1, ih hm.2]

theorem mem_of_mget {α : Type} {m : SMap α} {k : Nat} {v : α} (h : mget m k = some v) : (k, v) ∈ m := by
  induction m with
  | nil => simp [mget] at h
  | cons e m ih =>
    obtain ⟨a, b⟩ := e
    simp only [mget] at h
    split at h
    · next hk => subst hk; simp at h; simp [h]
    · exact List.mem_cons_of_mem _ (ih h)

/-! ## Byte stores -/

theorem cget_eq (m : List Host.Cell) (k : Nat) : cget m k = (mget (α := Byte) m k).getD 0 := by
  induction m with
  | nil => simp [cget, mget]
  | cons e m ih =>
    obtain ⟨a, b⟩ := e
    simp only [cget, mget]
    split <;> simp [ih]

theorem cget_cset (m : List Host.Cell) (k j : Nat) (v : Byte) : cget (cset m k v) j = if j = k then v else cget m j := by
  simp only [cget_eq, cset]
  split
  · next h => subst h; rw [mget_mdel]; split <;> simp
  · rw [mget_mset]; split <;> simp

theorem cget_cwrite (bs : List Byte) : ∀ (m : List Host.Cell) (a j : Nat),
    cget (cwrite m a bs) j = if a ≤ j ∧ j < a + bs.length then bs.getD (j - a) 0 else cget m j := by
  induction bs with
  | nil => intro m a j; simp only [cwrite, List.length_nil]; split <;> simp_all; omega
  | cons b bs ih =>
    intro m a j
    rw [cwrite, ih, cget_cset]
    by_cases h : j = a
    · subst h; simp
    · by_cases h1 : a ≤ j ∧ j < a + (b :: bs).length
      · have h2 : a + 1 ≤ j ∧ j < a + 1 + bs.length := by simp at h1; omega
        rw [if_pos h1, if_pos h2]
        obtain ⟨n, rfl⟩ : ∃ n, j = a + (n + 1) := ⟨j - a - 1, by omega⟩
        have h3 : a + (n + 1) - (a + 1) = n := by omega
        have h4 : a + (n + 1) - a = n + 1 := by omega
        simp [h3, h4]
      · have h2 : ¬ (a + 1 ≤ j ∧ j < a + 1 + bs.length) := by simp at h1; omega
        rw [if_neg h1, if_neg h2, if_neg h]

theorem length_cread (m : List Host.Cell) (n : Nat) : ∀ a, (cread m a n).length = n := by
  induction n with
  | zero => simp [cread]
  | succ n ih => simp [cread, ih]

/-- The first address of a store, where it has one, lies above a bound. -/
theorem cellsWf_cons (a : Nat) (v : Byte) (m : List Host.Cell) :
    cellsWf ((a, v) :: m) = true ↔ v ≠ 0 ∧ (∀ e ∈ m.head?, a < e.1) ∧ cellsWf m = true := by
  cases m with
  | nil => simp [cellsWf]
  | cons e m =>
    obtain ⟨b, w⟩ := e
    simp [cellsWf]
    tauto

theorem head_mset {α : Type} (m : SMap α) (k : Nat) (v : α) (b : Nat) (hb : b < k) (h : ∀ e ∈ m.head?, b < e.1) :
    ∀ e ∈ (mset m k v).head?, b < e.1 := by
  cases m with
  | nil => simp [mset]; omega
  | cons e m =>
    obtain ⟨a, c⟩ := e
    simp only [mset]
    split
    · simp; omega
    · split
      · simp; omega
      · simpa using h

theorem cellsWf_mset (m : List Host.Cell) (k : Nat) (v : Byte) (hv : v ≠ 0) (h : cellsWf m = true) : cellsWf (mset m k v) = true := by
  induction m with
  | nil => simpa [mset, cellsWf] using hv
  | cons e m ih =>
    obtain ⟨a, b⟩ := e
    rw [cellsWf_cons] at h
    simp only [mset]
    split
    · next hk => subst hk; rw [cellsWf_cons]; exact ⟨hv, h.2⟩
    · split
      · rw [cellsWf_cons]
        refine ⟨hv, by simpa, ?_⟩
        rw [cellsWf_cons]; exact h
      · rw [cellsWf_cons]
        exact ⟨h.1, head_mset m k v a (by omega) h.2.1, ih h.2.2⟩

theorem cellsWf_filter (p : Host.Cell → Bool) (m : List Host.Cell) (h : cellsWf m = true) : cellsWf (m.filter p) = true := by
  have key : ∀ (m : List Host.Cell) (b : Nat), cellsWf m = true → (∀ e ∈ m.head?, b < e.1) →
      cellsWf (m.filter p) = true ∧ ∀ e ∈ (m.filter p).head?, b < e.1 := by
    intro m
    induction m with
    | nil => simp [cellsWf]
    | cons e m ih =>
      obtain ⟨a, v⟩ := e
      intro b hm hb
      rw [cellsWf_cons] at hm
      obtain ⟨h1, h2, h3⟩ := hm
      simp only [List.head?_cons, Option.mem_def, Option.some.injEq, forall_eq'] at hb
      cases hp : p (a, v) with
      | true =>
        rw [List.filter_cons_of_pos (by simpa using hp)]
        obtain ⟨i1, i2⟩ := ih a h3 h2
        refine ⟨?_, by simpa using hb⟩
        rw [cellsWf_cons]
        exact ⟨h1, i2, i1⟩
      | false =>
        rw [List.filter_cons_of_neg (by simp [hp])]
        exact ih b h3 fun e he => Nat.lt_trans hb (h2 e he)
  cases m with
  | nil => simpa using h
  | cons e m =>
    obtain ⟨a, v⟩ := e
    rw [cellsWf_cons] at h
    obtain ⟨h1, h2, h3⟩ := h
    obtain ⟨i1, i2⟩ := key m a h3 h2
    cases hp : p (a, v) with
    | true =>
      rw [List.filter_cons_of_pos (by simpa using hp), cellsWf_cons]
      exact ⟨h1, i2, i1⟩
    | false => rwa [List.filter_cons_of_neg (by simp [hp])]

theorem cellsWf_cset (m : List Host.Cell) (k : Nat) (v : Byte) (h : cellsWf m = true) : cellsWf (cset m k v) = true := by
  unfold cset
  split
  · exact cellsWf_filter _ m h
  · next hv => exact cellsWf_mset m k v hv h

theorem cellsWf_cwrite (bs : List Byte) : ∀ (m : List Host.Cell) (a : Nat), cellsWf m = true → cellsWf (cwrite m a bs) = true := by
  induction bs with
  | nil => intro m a h; simpa [cwrite] using h
  | cons b bs ih => intro m a h; exact ih _ _ (cellsWf_cset m a b h)

theorem cellsWf_cclear (m : List Host.Cell) (a n : Nat) (h : cellsWf m = true) : cellsWf (cclear m a n) = true :=
  cellsWf_filter _ m h

/-! ## The parts of the state -/

@[simp] theorem chassisOf_setChassis_self (s : State) (d : Nat) (c : Chassis) : chassisOf (s.setChassis d c) d = c := by
  simp [chassisOf, State.setChassis]

theorem chassisOf_setChassis_ne (s : State) {d e : Nat} (c : Chassis) (h : e ≠ d) : chassisOf (s.setChassis d c) e = chassisOf s e := by
  simp [chassisOf, State.setChassis, mget_mset, h]

@[simp] theorem chassisOf_setCoach (s : State) (key : Nat) (c : Coach) (d : Nat) : chassisOf (s.setCoach key c) d = chassisOf s d := rfl

@[simp] theorem coachOf_setCoach_self (s : State) (key : Nat) (c : Coach) : coachOf (s.setCoach key c) key = some c := by
  simp [coachOf, State.setCoach]

theorem coachOf_setCoach_ne (s : State) {key j : Nat} (c : Coach) (h : j ≠ key) : coachOf (s.setCoach key c) j = coachOf s j := by
  simp [coachOf, State.setCoach, mget_mset, h]

@[simp] theorem coachOf_setChassis (s : State) (d : Nat) (c : Chassis) (j : Nat) : coachOf (s.setChassis d c) j = coachOf s j := rfl

@[simp] theorem coreOf_setCore_self (s : State) (d k : Nat) (c : Core) : coreOf (s.setCore d k c) d k = c := by
  simp [coreOf, State.setCore]

end Sys2Proof.Machine
end

