-- ==== Sys2Proof/Laws/State.lean ====
section
/-! SUPPORT. What the updates of the state leave alone: one lemma for each field and each update, true by unfolding. -/

namespace Sys2Proof.Machine

@[simp] theorem State.setChassis_powered (s : State) (d : Nat) (c : Chassis) : (s.setChassis d c).powered = s.powered := rfl
@[simp] theorem State.setChassis_stage (s : State) (d : Nat) (c : Chassis) : (s.setChassis d c).stage = s.stage := rfl
@[simp] theorem State.setChassis_stageErr (s : State) (d : Nat) (c : Chassis) : (s.setChassis d c).stageErr = s.stageErr := rfl
@[simp] theorem State.setChassis_memok (s : State) (d : Nat) (c : Chassis) : (s.setChassis d c).memok = s.memok := rfl
@[simp] theorem State.setChassis_fwLoad (s : State) (d : Nat) (c : Chassis) : (s.setChassis d c).fwLoad = s.fwLoad := rfl
@[simp] theorem State.setChassis_check (s : State) (d : Nat) (c : Chassis) : (s.setChassis d c).check = s.check := rfl
@[simp] theorem State.setChassis_measured (s : State) (d : Nat) (c : Chassis) : (s.setChassis d c).measured = s.measured := rfl
@[simp] theorem State.setChassis_image (s : State) (d : Nat) (c : Chassis) : (s.setChassis d c).image = s.image := rfl
@[simp] theorem State.setChassis_reports (s : State) (d : Nat) (c : Chassis) : (s.setChassis d c).reports = s.reports := rfl
@[simp] theorem State.setChassis_hostReads (s : State) (d : Nat) (c : Chassis) : (s.setChassis d c).hostReads = s.hostReads := rfl
@[simp] theorem State.setChassis_bar0Reads (s : State) (d : Nat) (c : Chassis) : (s.setChassis d c).bar0Reads = s.bar0Reads := rfl
@[simp] theorem State.setChassis_hostWrites (s : State) (d : Nat) (c : Chassis) : (s.setChassis d c).hostWrites = s.hostWrites := rfl
@[simp] theorem State.setChassis_peerWrites (s : State) (d : Nat) (c : Chassis) : (s.setChassis d c).peerWrites = s.peerWrites := rfl
@[simp] theorem State.setChassis_peerReplies (s : State) (d : Nat) (c : Chassis) : (s.setChassis d c).peerReplies = s.peerReplies := rfl
@[simp] theorem State.setChassis_msix (s : State) (d : Nat) (c : Chassis) : (s.setChassis d c).msix = s.msix := rfl
@[simp] theorem State.setChassis_bar2 (s : State) (d : Nat) (c : Chassis) : (s.setChassis d c).bar2 = s.bar2 := rfl
@[simp] theorem State.setChassis_evqBase (s : State) (d : Nat) (c : Chassis) : (s.setChassis d c).evqBase = s.evqBase := rfl
@[simp] theorem State.setChassis_evqCtl (s : State) (d : Nat) (c : Chassis) : (s.setChassis d c).evqCtl = s.evqCtl := rfl
@[simp] theorem State.setChassis_evqHead (s : State) (d : Nat) (c : Chassis) : (s.setChassis d c).evqHead = s.evqHead := rfl
@[simp] theorem State.setChassis_evqTail (s : State) (d : Nat) (c : Chassis) : (s.setChassis d c).evqTail = s.evqTail := rfl
@[simp] theorem State.setChassis_teardown (s : State) (d : Nat) (c : Chassis) : (s.setChassis d c).teardown = s.teardown := rfl
@[simp] theorem State.setChassis_teardownPasid (s : State) (d : Nat) (c : Chassis) : (s.setChassis d c).teardownPasid = s.teardownPasid := rfl
@[simp] theorem State.setChassis_flr (s : State) (d : Nat) (c : Chassis) : (s.setChassis d c).flr = s.flr := rfl
@[simp] theorem State.setChassis_evict (s : State) (d : Nat) (c : Chassis) : (s.setChassis d c).evict = s.evict := rfl
@[simp] theorem State.setChassis_qtbase (s : State) (d : Nat) (c : Chassis) : (s.setChassis d c).qtbase = s.qtbase := rfl
@[simp] theorem State.setChassis_qtsize (s : State) (d : Nat) (c : Chassis) : (s.setChassis d c).qtsize = s.qtsize := rfl
@[simp] theorem State.setChassis_fwSlots (s : State) (d : Nat) (c : Chassis) : (s.setChassis d c).fwSlots = s.fwSlots := rfl
@[simp] theorem State.setChassis_fwWaiting (s : State) (d : Nat) (c : Chassis) : (s.setChassis d c).fwWaiting = s.fwWaiting := rfl
@[simp] theorem State.setChassis_rotation (s : State) (d : Nat) (c : Chassis) : (s.setChassis d c).rotation = s.rotation := rfl
@[simp] theorem State.setChassis_launches (s : State) (d : Nat) (c : Chassis) : (s.setChassis d c).launches = s.launches := rfl
@[simp] theorem State.setChassis_gangHold (s : State) (d : Nat) (c : Chassis) : (s.setChassis d c).gangHold = s.gangHold := rfl
@[simp] theorem State.setChassis_trains (s : State) (d : Nat) (c : Chassis) : (s.setChassis d c).trains = s.trains := rfl
@[simp] theorem State.setChassis_coaches (s : State) (d : Nat) (c : Chassis) : (s.setChassis d c).coaches = s.coaches := rfl
@[simp] theorem State.setChassis_copies (s : State) (d : Nat) (c : Chassis) : (s.setChassis d c).copies = s.copies := rfl
@[simp] theorem State.setChassis_streams (s : State) (d : Nat) (c : Chassis) : (s.setChassis d c).streams = s.streams := rfl
@[simp] theorem State.setChassis_reductions (s : State) (d : Nat) (c : Chassis) : (s.setChassis d c).reductions = s.reductions := rfl
@[simp] theorem State.setChassis_packets (s : State) (d : Nat) (c : Chassis) : (s.setChassis d c).packets = s.packets := rfl
@[simp] theorem State.setChassis_nextId (s : State) (d : Nat) (c : Chassis) : (s.setChassis d c).nextId = s.nextId := rfl
@[simp] theorem State.setChassis_ceiling (s : State) (d : Nat) (c : Chassis) : (s.setChassis d c).ceiling = s.ceiling := rfl
@[simp] theorem State.setChassis_pscap (s : State) (d : Nat) (c : Chassis) : (s.setChassis d c).pscap = s.pscap := rfl
@[simp] theorem State.setChassis_power (s : State) (d : Nat) (c : Chassis) : (s.setChassis d c).power = s.power := rfl
@[simp] theorem State.setChassis_duty (s : State) (d : Nat) (c : Chassis) : (s.setChassis d c).duty = s.duty := rfl
@[simp] theorem State.setChassis_tokens (s : State) (d : Nat) (c : Chassis) : (s.setChassis d c).tokens = s.tokens := rfl
@[simp] theorem State.setChassis_consumed (s : State) (d : Nat) (c : Chassis) : (s.setChassis d c).consumed = s.consumed := rfl
@[simp] theorem State.setChassis_slowEpochs (s : State) (d : Nat) (c : Chassis) : (s.setChassis d c).slowEpochs = s.slowEpochs := rfl
@[simp] theorem State.setChassis_fastEpochs (s : State) (d : Nat) (c : Chassis) : (s.setChassis d c).fastEpochs = s.fastEpochs := rfl
@[simp] theorem State.setChassis_epoch (s : State) (d : Nat) (c : Chassis) : (s.setChassis d c).epoch = s.epoch := rfl
@[simp] theorem State.setChassis_ns (s : State) (d : Nat) (c : Chassis) : (s.setChassis d c).ns = s.ns := rfl
@[simp] theorem State.setChassis_nsPart (s : State) (d : Nat) (c : Chassis) : (s.setChassis d c).nsPart = s.nsPart := rfl
@[simp] theorem State.setChassis_routeMode (s : State) (d : Nat) (c : Chassis) : (s.setChassis d c).routeMode = s.routeMode := rfl
@[simp] theorem State.setChassis_brk0 (s : State) (d : Nat) (c : Chassis) : (s.setChassis d c).brk0 = s.brk0 := rfl
@[simp] theorem State.setChassis_brk1 (s : State) (d : Nat) (c : Chassis) : (s.setChassis d c).brk1 = s.brk1 := rfl
@[simp] theorem State.setChassis_routeEpoch (s : State) (d : Nat) (c : Chassis) : (s.setChassis d c).routeEpoch = s.routeEpoch := rfl
@[simp] theorem State.setChassis_switching (s : State) (d : Nat) (c : Chassis) : (s.setChassis d c).switching = s.switching := rfl
@[simp] theorem State.setChassis_dram (s : State) (d : Nat) (c : Chassis) : (s.setChassis d c).dram = s.dram := rfl
@[simp] theorem State.setChassis_flaws (s : State) (d : Nat) (c : Chassis) : (s.setChassis d c).flaws = s.flaws := rfl
@[simp] theorem State.setChassis_freeCtr (s : State) (d : Nat) (c : Chassis) : (s.setChassis d c).freeCtr = s.freeCtr := rfl
@[simp] theorem State.setChassis_agenda (s : State) (d : Nat) (c : Chassis) : (s.setChassis d c).agenda = s.agenda := rfl
@[simp] theorem State.setChassis_cur (s : State) (d : Nat) (c : Chassis) : (s.setChassis d c).cur = s.cur := rfl
@[simp] theorem State.setChassis_doing (s : State) (d : Nat) (c : Chassis) : (s.setChassis d c).doing = s.doing := rfl

@[simp] theorem State.setCore_powered (s : State) (d k : Nat) (c : Core) : (s.setCore d k c).powered = s.powered := rfl
@[simp] theorem State.setCore_stage (s : State) (d k : Nat) (c : Core) : (s.setCore d k c).stage = s.stage := rfl
@[simp] theorem State.setCore_stageErr (s : State) (d k : Nat) (c : Core) : (s.setCore d k c).stageErr = s.stageErr := rfl
@[simp] theorem State.setCore_memok (s : State) (d k : Nat) (c : Core) : (s.setCore d k c).memok = s.memok := rfl
@[simp] theorem State.setCore_fwLoad (s : State) (d k : Nat) (c : Core) : (s.setCore d k c).fwLoad = s.fwLoad := rfl
@[simp] theorem State.setCore_check (s : State) (d k : Nat) (c : Core) : (s.setCore d k c).check = s.check := rfl
@[simp] theorem State.setCore_measured (s : State) (d k : Nat) (c : Core) : (s.setCore d k c).measured = s.measured := rfl
@[simp] theorem State.setCore_image (s : State) (d k : Nat) (c : Core) : (s.setCore d k c).image = s.image := rfl
@[simp] theorem State.setCore_reports (s : State) (d k : Nat) (c : Core) : (s.setCore d k c).reports = s.reports := rfl
@[simp] theorem State.setCore_hostReads (s : State) (d k : Nat) (c : Core) : (s.setCore d k c).hostReads = s.hostReads := rfl
@[simp] theorem State.setCore_bar0Reads (s : State) (d k : Nat) (c : Core) : (s.setCore d k c).bar0Reads = s.bar0Reads := rfl
@[simp] theorem State.setCore_hostWrites (s : State) (d k : Nat) (c : Core) : (s.setCore d k c).hostWrites = s.hostWrites := rfl
@[simp] theorem State.setCore_peerWrites (s : State) (d k : Nat) (c : Core) : (s.setCore d k c).peerWrites = s.peerWrites := rfl
@[simp] theorem State.setCore_peerReplies (s : State) (d k : Nat) (c : Core) : (s.setCore d k c).peerReplies = s.peerReplies := rfl
@[simp] theorem State.setCore_msix (s : State) (d k : Nat) (c : Core) : (s.setCore d k c).msix = s.msix := rfl
@[simp] theorem State.setCore_bar2 (s : State) (d k : Nat) (c : Core) : (s.setCore d k c).bar2 = s.bar2 := rfl
@[simp] theorem State.setCore_evqBase (s : State) (d k : Nat) (c : Core) : (s.setCore d k c).evqBase = s.evqBase := rfl
@[simp] theorem State.setCore_evqCtl (s : State) (d k : Nat) (c : Core) : (s.setCore d k c).evqCtl = s.evqCtl := rfl
@[simp] theorem State.setCore_evqHead (s : State) (d k : Nat) (c : Core) : (s.setCore d k c).evqHead = s.evqHead := rfl
@[simp] theorem State.setCore_evqTail (s : State) (d k : Nat) (c : Core) : (s.setCore d k c).evqTail = s.evqTail := rfl
@[simp] theorem State.setCore_teardown (s : State) (d k : Nat) (c : Core) : (s.setCore d k c).teardown = s.teardown := rfl
@[simp] theorem State.setCore_teardownPasid (s : State) (d k : Nat) (c : Core) : (s.setCore d k c).teardownPasid = s.teardownPasid := rfl
@[simp] theorem State.setCore_flr (s : State) (d k : Nat) (c : Core) : (s.setCore d k c).flr = s.flr := rfl
@[simp] theorem State.setCore_evict (s : State) (d k : Nat) (c : Core) : (s.setCore d k c).evict = s.evict := rfl
@[simp] theorem State.setCore_qtbase (s : State) (d k : Nat) (c : Core) : (s.setCore d k c).qtbase = s.qtbase := rfl
@[simp] theorem State.setCore_qtsize (s : State) (d k : Nat) (c : Core) : (s.setCore d k c).qtsize = s.qtsize := rfl
@[simp] theorem State.setCore_fwSlots (s : State) (d k : Nat) (c : Core) : (s.setCore d k c).fwSlots = s.fwSlots := rfl
@[simp] theorem State.setCore_fwWaiting (s : State) (d k : Nat) (c : Core) : (s.setCore d k c).fwWaiting = s.fwWaiting := rfl
@[simp] theorem State.setCore_rotation (s : State) (d k : Nat) (c : Core) : (s.setCore d k c).rotation = s.rotation := rfl
@[simp] theorem State.setCore_launches (s : State) (d k : Nat) (c : Core) : (s.setCore d k c).launches = s.launches := rfl
@[simp] theorem State.setCore_gangHold (s : State) (d k : Nat) (c : Core) : (s.setCore d k c).gangHold = s.gangHold := rfl
@[simp] theorem State.setCore_trains (s : State) (d k : Nat) (c : Core) : (s.setCore d k c).trains = s.trains := rfl
@[simp] theorem State.setCore_coaches (s : State) (d k : Nat) (c : Core) : (s.setCore d k c).coaches = s.coaches := rfl
@[simp] theorem State.setCore_copies (s : State) (d k : Nat) (c : Core) : (s.setCore d k c).copies = s.copies := rfl
@[simp] theorem State.setCore_streams (s : State) (d k : Nat) (c : Core) : (s.setCore d k c).streams = s.streams := rfl
@[simp] theorem State.setCore_reductions (s : State) (d k : Nat) (c : Core) : (s.setCore d k c).reductions = s.reductions := rfl
@[simp] theorem State.setCore_packets (s : State) (d k : Nat) (c : Core) : (s.setCore d k c).packets = s.packets := rfl
@[simp] theorem State.setCore_nextId (s : State) (d k : Nat) (c : Core) : (s.setCore d k c).nextId = s.nextId := rfl
@[simp] theorem State.setCore_ceiling (s : State) (d k : Nat) (c : Core) : (s.setCore d k c).ceiling = s.ceiling := rfl
@[simp] theorem State.setCore_pscap (s : State) (d k : Nat) (c : Core) : (s.setCore d k c).pscap = s.pscap := rfl
@[simp] theorem State.setCore_power (s : State) (d k : Nat) (c : Core) : (s.setCore d k c).power = s.power := rfl
@[simp] theorem State.setCore_duty (s : State) (d k : Nat) (c : Core) : (s.setCore d k c).duty = s.duty := rfl
@[simp] theorem State.setCore_tokens (s : State) (d k : Nat) (c : Core) : (s.setCore d k c).tokens = s.tokens := rfl
@[simp] theorem State.setCore_consumed (s : State) (d k : Nat) (c : Core) : (s.setCore d k c).consumed = s.consumed := rfl
@[simp] theorem State.setCore_slowEpochs (s : State) (d k : Nat) (c : Core) : (s.setCore d k c).slowEpochs = s.slowEpochs := rfl
@[simp] theorem State.setCore_fastEpochs (s : State) (d k : Nat) (c : Core) : (s.setCore d k c).fastEpochs = s.fastEpochs := rfl
@[simp] theorem State.setCore_epoch (s : State) (d k : Nat) (c : Core) : (s.setCore d k c).epoch = s.epoch := rfl
@[simp] theorem State.setCore_ns (s : State) (d k : Nat) (c : Core) : (s.setCore d k c).ns = s.ns := rfl
@[simp] theorem State.setCore_nsPart (s : State) (d k : Nat) (c : Core) : (s.setCore d k c).nsPart = s.nsPart := rfl
@[simp] theorem State.setCore_routeMode (s : State) (d k : Nat) (c : Core) : (s.setCore d k c).routeMode = s.routeMode := rfl
@[simp] theorem State.setCore_brk0 (s : State) (d k : Nat) (c : Core) : (s.setCore d k c).brk0 = s.brk0 := rfl
@[simp] theorem State.setCore_brk1 (s : State) (d k : Nat) (c : Core) : (s.setCore d k c).brk1 = s.brk1 := rfl
@[simp] theorem State.setCore_routeEpoch (s : State) (d k : Nat) (c : Core) : (s.setCore d k c).routeEpoch = s.routeEpoch := rfl
@[simp] theorem State.setCore_switching (s : State) (d k : Nat) (c : Core) : (s.setCore d k c).switching = s.switching := rfl
@[simp] theorem State.setCore_dram (s : State) (d k : Nat) (c : Core) : (s.setCore d k c).dram = s.dram := rfl
@[simp] theorem State.setCore_flaws (s : State) (d k : Nat) (c : Core) : (s.setCore d k c).flaws = s.flaws := rfl
@[simp] theorem State.setCore_freeCtr (s : State) (d k : Nat) (c : Core) : (s.setCore d k c).freeCtr = s.freeCtr := rfl
@[simp] theorem State.setCore_agenda (s : State) (d k : Nat) (c : Core) : (s.setCore d k c).agenda = s.agenda := rfl
@[simp] theorem State.setCore_cur (s : State) (d k : Nat) (c : Core) : (s.setCore d k c).cur = s.cur := rfl
@[simp] theorem State.setCore_doing (s : State) (d k : Nat) (c : Core) : (s.setCore d k c).doing = s.doing := rfl

@[simp] theorem State.setCoreG_powered (s : State) (g : Nat) (c : Core) : (s.setCoreG g c).powered = s.powered := rfl
@[simp] theorem State.setCoreG_stage (s : State) (g : Nat) (c : Core) : (s.setCoreG g c).stage = s.stage := rfl
@[simp] theorem State.setCoreG_stageErr (s : State) (g : Nat) (c : Core) : (s.setCoreG g c).stageErr = s.stageErr := rfl
@[simp] theorem State.setCoreG_memok (s : State) (g : Nat) (c : Core) : (s.setCoreG g c).memok = s.memok := rfl
@[simp] theorem State.setCoreG_fwLoad (s : State) (g : Nat) (c : Core) : (s.setCoreG g c).fwLoad = s.fwLoad := rfl
@[simp] theorem State.setCoreG_check (s : State) (g : Nat) (c : Core) : (s.setCoreG g c).check = s.check := rfl
@[simp] theorem State.setCoreG_measured (s : State) (g : Nat) (c : Core) : (s.setCoreG g c).measured = s.measured := rfl
@[simp] theorem State.setCoreG_image (s : State) (g : Nat) (c : Core) : (s.setCoreG g c).image = s.image := rfl
@[simp] theorem State.setCoreG_reports (s : State) (g : Nat) (c : Core) : (s.setCoreG g c).reports = s.reports := rfl
@[simp] theorem State.setCoreG_hostReads (s : State) (g : Nat) (c : Core) : (s.setCoreG g c).hostReads = s.hostReads := rfl
@[simp] theorem State.setCoreG_bar0Reads (s : State) (g : Nat) (c : Core) : (s.setCoreG g c).bar0Reads = s.bar0Reads := rfl
@[simp] theorem State.setCoreG_hostWrites (s : State) (g : Nat) (c : Core) : (s.setCoreG g c).hostWrites = s.hostWrites := rfl
@[simp] theorem State.setCoreG_peerWrites (s : State) (g : Nat) (c : Core) : (s.setCoreG g c).peerWrites = s.peerWrites := rfl
@[simp] theorem State.setCoreG_peerReplies (s : State) (g : Nat) (c : Core) : (s.setCoreG g c).peerReplies = s.peerReplies := rfl
@[simp] theorem State.setCoreG_msix (s : State) (g : Nat) (c : Core) : (s.setCoreG g c).msix = s.msix := rfl
@[simp] theorem State.setCoreG_bar2 (s : State) (g : Nat) (c : Core) : (s.setCoreG g c).bar2 = s.bar2 := rfl
@[simp] theorem State.setCoreG_evqBase (s : State) (g : Nat) (c : Core) : (s.setCoreG g c).evqBase = s.evqBase := rfl
@[simp] theorem State.setCoreG_evqCtl (s : State) (g : Nat) (c : Core) : (s.setCoreG g c).evqCtl = s.evqCtl := rfl
@[simp] theorem State.setCoreG_evqHead (s : State) (g : Nat) (c : Core) : (s.setCoreG g c).evqHead = s.evqHead := rfl
@[simp] theorem State.setCoreG_evqTail (s : State) (g : Nat) (c : Core) : (s.setCoreG g c).evqTail = s.evqTail := rfl
@[simp] theorem State.setCoreG_teardown (s : State) (g : Nat) (c : Core) : (s.setCoreG g c).teardown = s.teardown := rfl
@[simp] theorem State.setCoreG_teardownPasid (s : State) (g : Nat) (c : Core) : (s.setCoreG g c).teardownPasid = s.teardownPasid := rfl
@[simp] theorem State.setCoreG_flr (s : State) (g : Nat) (c : Core) : (s.setCoreG g c).flr = s.flr := rfl
@[simp] theorem State.setCoreG_evict (s : State) (g : Nat) (c : Core) : (s.setCoreG g c).evict = s.evict := rfl
@[simp] theorem State.setCoreG_qtbase (s : State) (g : Nat) (c : Core) : (s.setCoreG g c).qtbase = s.qtbase := rfl
@[simp] theorem State.setCoreG_qtsize (s : State) (g : Nat) (c : Core) : (s.setCoreG g c).qtsize = s.qtsize := rfl
@[simp] theorem State.setCoreG_fwSlots (s : State) (g : Nat) (c : Core) : (s.setCoreG g c).fwSlots = s.fwSlots := rfl
@[simp] theorem State.setCoreG_fwWaiting (s : State) (g : Nat) (c : Core) : (s.setCoreG g c).fwWaiting = s.fwWaiting := rfl
@[simp] theorem State.setCoreG_rotation (s : State) (g : Nat) (c : Core) : (s.setCoreG g c).rotation = s.rotation := rfl
@[simp] theorem State.setCoreG_launches (s : State) (g : Nat) (c : Core) : (s.setCoreG g c).launches = s.launches := rfl
@[simp] theorem State.setCoreG_gangHold (s : State) (g : Nat) (c : Core) : (s.setCoreG g c).gangHold = s.gangHold := rfl
@[simp] theorem State.setCoreG_trains (s : State) (g : Nat) (c : Core) : (s.setCoreG g c).trains = s.trains := rfl
@[simp] theorem State.setCoreG_coaches (s : State) (g : Nat) (c : Core) : (s.setCoreG g c).coaches = s.coaches := rfl
@[simp] theorem State.setCoreG_copies (s : State) (g : Nat) (c : Core) : (s.setCoreG g c).copies = s.copies := rfl
@[simp] theorem State.setCoreG_streams (s : State) (g : Nat) (c : Core) : (s.setCoreG g c).streams = s.streams := rfl
@[simp] theorem State.setCoreG_reductions (s : State) (g : Nat) (c : Core) : (s.setCoreG g c).reductions = s.reductions := rfl
@[simp] theorem State.setCoreG_packets (s : State) (g : Nat) (c : Core) : (s.setCoreG g c).packets = s.packets := rfl
@[simp] theorem State.setCoreG_nextId (s : State) (g : Nat) (c : Core) : (s.setCoreG g c).nextId = s.nextId := rfl
@[simp] theorem State.setCoreG_ceiling (s : State) (g : Nat) (c : Core) : (s.setCoreG g c).ceiling = s.ceiling := rfl
@[simp] theorem State.setCoreG_pscap (s : State) (g : Nat) (c : Core) : (s.setCoreG g c).pscap = s.pscap := rfl
@[simp] theorem State.setCoreG_power (s : State) (g : Nat) (c : Core) : (s.setCoreG g c).power = s.power := rfl
@[simp] theorem State.setCoreG_duty (s : State) (g : Nat) (c : Core) : (s.setCoreG g c).duty = s.duty := rfl
@[simp] theorem State.setCoreG_tokens (s : State) (g : Nat) (c : Core) : (s.setCoreG g c).tokens = s.tokens := rfl
@[simp] theorem State.setCoreG_consumed (s : State) (g : Nat) (c : Core) : (s.setCoreG g c).consumed = s.consumed := rfl
@[simp] theorem State.setCoreG_slowEpochs (s : State) (g : Nat) (c : Core) : (s.setCoreG g c).slowEpochs = s.slowEpochs := rfl
@[simp] theorem State.setCoreG_fastEpochs (s : State) (g : Nat) (c : Core) : (s.setCoreG g c).fastEpochs = s.fastEpochs := rfl
@[simp] theorem State.setCoreG_epoch (s : State) (g : Nat) (c : Core) : (s.setCoreG g c).epoch = s.epoch := rfl
@[simp] theorem State.setCoreG_ns (s : State) (g : Nat) (c : Core) : (s.setCoreG g c).ns = s.ns := rfl
@[simp] theorem State.setCoreG_nsPart (s : State) (g : Nat) (c : Core) : (s.setCoreG g c).nsPart = s.nsPart := rfl
@[simp] theorem State.setCoreG_routeMode (s : State) (g : Nat) (c : Core) : (s.setCoreG g c).routeMode = s.routeMode := rfl
@[simp] theorem State.setCoreG_brk0 (s : State) (g : Nat) (c : Core) : (s.setCoreG g c).brk0 = s.brk0 := rfl
@[simp] theorem State.setCoreG_brk1 (s : State) (g : Nat) (c : Core) : (s.setCoreG g c).brk1 = s.brk1 := rfl
@[simp] theorem State.setCoreG_routeEpoch (s : State) (g : Nat) (c : Core) : (s.setCoreG g c).routeEpoch = s.routeEpoch := rfl
@[simp] theorem State.setCoreG_switching (s : State) (g : Nat) (c : Core) : (s.setCoreG g c).switching = s.switching := rfl
@[simp] theorem State.setCoreG_dram (s : State) (g : Nat) (c : Core) : (s.setCoreG g c).dram = s.dram := rfl
@[simp] theorem State.setCoreG_flaws (s : State) (g : Nat) (c : Core) : (s.setCoreG g c).flaws = s.flaws := rfl
@[simp] theorem State.setCoreG_freeCtr (s : State) (g : Nat) (c : Core) : (s.setCoreG g c).freeCtr = s.freeCtr := rfl
@[simp] theorem State.setCoreG_agenda (s : State) (g : Nat) (c : Core) : (s.setCoreG g c).agenda = s.agenda := rfl
@[simp] theorem State.setCoreG_cur (s : State) (g : Nat) (c : Core) : (s.setCoreG g c).cur = s.cur := rfl
@[simp] theorem State.setCoreG_doing (s : State) (g : Nat) (c : Core) : (s.setCoreG g c).doing = s.doing := rfl

@[simp] theorem State.setCoach_powered (s : State) (key : Nat) (c : Coach) : (s.setCoach key c).powered = s.powered := rfl
@[simp] theorem State.setCoach_stage (s : State) (key : Nat) (c : Coach) : (s.setCoach key c).stage = s.stage := rfl
@[simp] theorem State.setCoach_stageErr (s : State) (key : Nat) (c : Coach) : (s.setCoach key c).stageErr = s.stageErr := rfl
@[simp] theorem State.setCoach_memok (s : State) (key : Nat) (c : Coach) : (s.setCoach key c).memok = s.memok := rfl
@[simp] theorem State.setCoach_fwLoad (s : State) (key : Nat) (c : Coach) : (s.setCoach key c).fwLoad = s.fwLoad := rfl
@[simp] theorem State.setCoach_check (s : State) (key : Nat) (c : Coach) : (s.setCoach key c).check = s.check := rfl
@[simp] theorem State.setCoach_measured (s : State) (key : Nat) (c : Coach) : (s.setCoach key c).measured = s.measured := rfl
@[simp] theorem State.setCoach_image (s : State) (key : Nat) (c : Coach) : (s.setCoach key c).image = s.image := rfl
@[simp] theorem State.setCoach_reports (s : State) (key : Nat) (c : Coach) : (s.setCoach key c).reports = s.reports := rfl
@[simp] theorem State.setCoach_hostReads (s : State) (key : Nat) (c : Coach) : (s.setCoach key c).hostReads = s.hostReads := rfl
@[simp] theorem State.setCoach_bar0Reads (s : State) (key : Nat) (c : Coach) : (s.setCoach key c).bar0Reads = s.bar0Reads := rfl
@[simp] theorem State.setCoach_hostWrites (s : State) (key : Nat) (c : Coach) : (s.setCoach key c).hostWrites = s.hostWrites := rfl
@[simp] theorem State.setCoach_peerWrites (s : State) (key : Nat) (c : Coach) : (s.setCoach key c).peerWrites = s.peerWrites := rfl
@[simp] theorem State.setCoach_peerReplies (s : State) (key : Nat) (c : Coach) : (s.setCoach key c).peerReplies = s.peerReplies := rfl
@[simp] theorem State.setCoach_msix (s : State) (key : Nat) (c : Coach) : (s.setCoach key c).msix = s.msix := rfl
@[simp] theorem State.setCoach_bar2 (s : State) (key : Nat) (c : Coach) : (s.setCoach key c).bar2 = s.bar2 := rfl
@[simp] theorem State.setCoach_evqBase (s : State) (key : Nat) (c : Coach) : (s.setCoach key c).evqBase = s.evqBase := rfl
@[simp] theorem State.setCoach_evqCtl (s : State) (key : Nat) (c : Coach) : (s.setCoach key c).evqCtl = s.evqCtl := rfl
@[simp] theorem State.setCoach_evqHead (s : State) (key : Nat) (c : Coach) : (s.setCoach key c).evqHead = s.evqHead := rfl
@[simp] theorem State.setCoach_evqTail (s : State) (key : Nat) (c : Coach) : (s.setCoach key c).evqTail = s.evqTail := rfl
@[simp] theorem State.setCoach_teardown (s : State) (key : Nat) (c : Coach) : (s.setCoach key c).teardown = s.teardown := rfl
@[simp] theorem State.setCoach_teardownPasid (s : State) (key : Nat) (c : Coach) : (s.setCoach key c).teardownPasid = s.teardownPasid := rfl
@[simp] theorem State.setCoach_flr (s : State) (key : Nat) (c : Coach) : (s.setCoach key c).flr = s.flr := rfl
@[simp] theorem State.setCoach_evict (s : State) (key : Nat) (c : Coach) : (s.setCoach key c).evict = s.evict := rfl
@[simp] theorem State.setCoach_qtbase (s : State) (key : Nat) (c : Coach) : (s.setCoach key c).qtbase = s.qtbase := rfl
@[simp] theorem State.setCoach_qtsize (s : State) (key : Nat) (c : Coach) : (s.setCoach key c).qtsize = s.qtsize := rfl
@[simp] theorem State.setCoach_fwSlots (s : State) (key : Nat) (c : Coach) : (s.setCoach key c).fwSlots = s.fwSlots := rfl
@[simp] theorem State.setCoach_fwWaiting (s : State) (key : Nat) (c : Coach) : (s.setCoach key c).fwWaiting = s.fwWaiting := rfl
@[simp] theorem State.setCoach_rotation (s : State) (key : Nat) (c : Coach) : (s.setCoach key c).rotation = s.rotation := rfl
@[simp] theorem State.setCoach_launches (s : State) (key : Nat) (c : Coach) : (s.setCoach key c).launches = s.launches := rfl
@[simp] theorem State.setCoach_gangHold (s : State) (key : Nat) (c : Coach) : (s.setCoach key c).gangHold = s.gangHold := rfl
@[simp] theorem State.setCoach_trains (s : State) (key : Nat) (c : Coach) : (s.setCoach key c).trains = s.trains := rfl
@[simp] theorem State.setCoach_copies (s : State) (key : Nat) (c : Coach) : (s.setCoach key c).copies = s.copies := rfl
@[simp] theorem State.setCoach_streams (s : State) (key : Nat) (c : Coach) : (s.setCoach key c).streams = s.streams := rfl
@[simp] theorem State.setCoach_reductions (s : State) (key : Nat) (c : Coach) : (s.setCoach key c).reductions = s.reductions := rfl
@[simp] theorem State.setCoach_packets (s : State) (key : Nat) (c : Coach) : (s.setCoach key c).packets = s.packets := rfl
@[simp] theorem State.setCoach_nextId (s : State) (key : Nat) (c : Coach) : (s.setCoach key c).nextId = s.nextId := rfl
@[simp] theorem State.setCoach_ceiling (s : State) (key : Nat) (c : Coach) : (s.setCoach key c).ceiling = s.ceiling := rfl
@[simp] theorem State.setCoach_pscap (s : State) (key : Nat) (c : Coach) : (s.setCoach key c).pscap = s.pscap := rfl
@[simp] theorem State.setCoach_power (s : State) (key : Nat) (c : Coach) : (s.setCoach key c).power = s.power := rfl
@[simp] theorem State.setCoach_duty (s : State) (key : Nat) (c : Coach) : (s.setCoach key c).duty = s.duty := rfl
@[simp] theorem State.setCoach_tokens (s : State) (key : Nat) (c : Coach) : (s.setCoach key c).tokens = s.tokens := rfl
@[simp] theorem State.setCoach_consumed (s : State) (key : Nat) (c : Coach) : (s.setCoach key c).consumed = s.consumed := rfl
@[simp] theorem State.setCoach_slowEpochs (s : State) (key : Nat) (c : Coach) : (s.setCoach key c).slowEpochs = s.slowEpochs := rfl
@[simp] theorem State.setCoach_fastEpochs (s : State) (key : Nat) (c : Coach) : (s.setCoach key c).fastEpochs = s.fastEpochs := rfl
@[simp] theorem State.setCoach_epoch (s : State) (key : Nat) (c : Coach) : (s.setCoach key c).epoch = s.epoch := rfl
@[simp] theorem State.setCoach_ns (s : State) (key : Nat) (c : Coach) : (s.setCoach key c).ns = s.ns := rfl
@[simp] theorem State.setCoach_nsPart (s : State) (key : Nat) (c : Coach) : (s.setCoach key c).nsPart = s.nsPart := rfl
@[simp] theorem State.setCoach_routeMode (s : State) (key : Nat) (c : Coach) : (s.setCoach key c).routeMode = s.routeMode := rfl
@[simp] theorem State.setCoach_brk0 (s : State) (key : Nat) (c : Coach) : (s.setCoach key c).brk0 = s.brk0 := rfl
@[simp] theorem State.setCoach_brk1 (s : State) (key : Nat) (c : Coach) : (s.setCoach key c).brk1 = s.brk1 := rfl
@[simp] theorem State.setCoach_routeEpoch (s : State) (key : Nat) (c : Coach) : (s.setCoach key c).routeEpoch = s.routeEpoch := rfl
@[simp] theorem State.setCoach_switching (s : State) (key : Nat) (c : Coach) : (s.setCoach key c).switching = s.switching := rfl
@[simp] theorem State.setCoach_chassis (s : State) (key : Nat) (c : Coach) : (s.setCoach key c).chassis = s.chassis := rfl
@[simp] theorem State.setCoach_dram (s : State) (key : Nat) (c : Coach) : (s.setCoach key c).dram = s.dram := rfl
@[simp] theorem State.setCoach_flaws (s : State) (key : Nat) (c : Coach) : (s.setCoach key c).flaws = s.flaws := rfl
@[simp] theorem State.setCoach_freeCtr (s : State) (key : Nat) (c : Coach) : (s.setCoach key c).freeCtr = s.freeCtr := rfl
@[simp] theorem State.setCoach_agenda (s : State) (key : Nat) (c : Coach) : (s.setCoach key c).agenda = s.agenda := rfl
@[simp] theorem State.setCoach_cur (s : State) (key : Nat) (c : Coach) : (s.setCoach key c).cur = s.cur := rfl
@[simp] theorem State.setCoach_doing (s : State) (key : Nat) (c : Coach) : (s.setCoach key c).doing = s.doing := rfl

@[simp] theorem State.setTrain_powered (s : State) (id : Nat) (f : Train → Train) : (s.setTrain id f).powered = s.powered := rfl
@[simp] theorem State.setTrain_stage (s : State) (id : Nat) (f : Train → Train) : (s.setTrain id f).stage = s.stage := rfl
@[simp] theorem State.setTrain_stageErr (s : State) (id : Nat) (f : Train → Train) : (s.setTrain id f).stageErr = s.stageErr := rfl
@[simp] theorem State.setTrain_memok (s : State) (id : Nat) (f : Train → Train) : (s.setTrain id f).memok = s.memok := rfl
@[simp] theorem State.setTrain_fwLoad (s : State) (id : Nat) (f : Train → Train) : (s.setTrain id f).fwLoad = s.fwLoad := rfl
@[simp] theorem State.setTrain_check (s : State) (id : Nat) (f : Train → Train) : (s.setTrain id f).check = s.check := rfl
@[simp] theorem State.setTrain_measured (s : State) (id : Nat) (f : Train → Train) : (s.setTrain id f).measured = s.measured := rfl
@[simp] theorem State.setTrain_image (s : State) (id : Nat) (f : Train → Train) : (s.setTrain id f).image = s.image := rfl
@[simp] theorem State.setTrain_reports (s : State) (id : Nat) (f : Train → Train) : (s.setTrain id f).reports = s.reports := rfl
@[simp] theorem State.setTrain_hostReads (s : State) (id : Nat) (f : Train → Train) : (s.setTrain id f).hostReads = s.hostReads := rfl
@[simp] theorem State.setTrain_bar0Reads (s : State) (id : Nat) (f : Train → Train) : (s.setTrain id f).bar0Reads = s.bar0Reads := rfl
@[simp] theorem State.setTrain_hostWrites (s : State) (id : Nat) (f : Train → Train) : (s.setTrain id f).hostWrites = s.hostWrites := rfl
@[simp] theorem State.setTrain_peerWrites (s : State) (id : Nat) (f : Train → Train) : (s.setTrain id f).peerWrites = s.peerWrites := rfl
@[simp] theorem State.setTrain_peerReplies (s : State) (id : Nat) (f : Train → Train) : (s.setTrain id f).peerReplies = s.peerReplies := rfl
@[simp] theorem State.setTrain_msix (s : State) (id : Nat) (f : Train → Train) : (s.setTrain id f).msix = s.msix := rfl
@[simp] theorem State.setTrain_bar2 (s : State) (id : Nat) (f : Train → Train) : (s.setTrain id f).bar2 = s.bar2 := rfl
@[simp] theorem State.setTrain_evqBase (s : State) (id : Nat) (f : Train → Train) : (s.setTrain id f).evqBase = s.evqBase := rfl
@[simp] theorem State.setTrain_evqCtl (s : State) (id : Nat) (f : Train → Train) : (s.setTrain id f).evqCtl = s.evqCtl := rfl
@[simp] theorem State.setTrain_evqHead (s : State) (id : Nat) (f : Train → Train) : (s.setTrain id f).evqHead = s.evqHead := rfl
@[simp] theorem State.setTrain_evqTail (s : State) (id : Nat) (f : Train → Train) : (s.setTrain id f).evqTail = s.evqTail := rfl
@[simp] theorem State.setTrain_teardown (s : State) (id : Nat) (f : Train → Train) : (s.setTrain id f).teardown = s.teardown := rfl
@[simp] theorem State.setTrain_teardownPasid (s : State) (id : Nat) (f : Train → Train) : (s.setTrain id f).teardownPasid = s.teardownPasid := rfl
@[simp] theorem State.setTrain_flr (s : State) (id : Nat) (f : Train → Train) : (s.setTrain id f).flr = s.flr := rfl
@[simp] theorem State.setTrain_evict (s : State) (id : Nat) (f : Train → Train) : (s.setTrain id f).evict = s.evict := rfl
@[simp] theorem State.setTrain_qtbase (s : State) (id : Nat) (f : Train → Train) : (s.setTrain id f).qtbase = s.qtbase := rfl
@[simp] theorem State.setTrain_qtsize (s : State) (id : Nat) (f : Train → Train) : (s.setTrain id f).qtsize = s.qtsize := rfl
@[simp] theorem State.setTrain_fwSlots (s : State) (id : Nat) (f : Train → Train) : (s.setTrain id f).fwSlots = s.fwSlots := rfl
@[simp] theorem State.setTrain_fwWaiting (s : State) (id : Nat) (f : Train → Train) : (s.setTrain id f).fwWaiting = s.fwWaiting := rfl
@[simp] theorem State.setTrain_rotation (s : State) (id : Nat) (f : Train → Train) : (s.setTrain id f).rotation = s.rotation := rfl
@[simp] theorem State.setTrain_launches (s : State) (id : Nat) (f : Train → Train) : (s.setTrain id f).launches = s.launches := rfl
@[simp] theorem State.setTrain_gangHold (s : State) (id : Nat) (f : Train → Train) : (s.setTrain id f).gangHold = s.gangHold := rfl
@[simp] theorem State.setTrain_coaches (s : State) (id : Nat) (f : Train → Train) : (s.setTrain id f).coaches = s.coaches := rfl
@[simp] theorem State.setTrain_copies (s : State) (id : Nat) (f : Train → Train) : (s.setTrain id f).copies = s.copies := rfl
@[simp] theorem State.setTrain_streams (s : State) (id : Nat) (f : Train → Train) : (s.setTrain id f).streams = s.streams := rfl
@[simp] theorem State.setTrain_reductions (s : State) (id : Nat) (f : Train → Train) : (s.setTrain id f).reductions = s.reductions := rfl
@[simp] theorem State.setTrain_packets (s : State) (id : Nat) (f : Train → Train) : (s.setTrain id f).packets = s.packets := rfl
@[simp] theorem State.setTrain_nextId (s : State) (id : Nat) (f : Train → Train) : (s.setTrain id f).nextId = s.nextId := rfl
@[simp] theorem State.setTrain_ceiling (s : State) (id : Nat) (f : Train → Train) : (s.setTrain id f).ceiling = s.ceiling := rfl
@[simp] theorem State.setTrain_pscap (s : State) (id : Nat) (f : Train → Train) : (s.setTrain id f).pscap = s.pscap := rfl
@[simp] theorem State.setTrain_power (s : State) (id : Nat) (f : Train → Train) : (s.setTrain id f).power = s.power := rfl
@[simp] theorem State.setTrain_duty (s : State) (id : Nat) (f : Train → Train) : (s.setTrain id f).duty = s.duty := rfl
@[simp] theorem State.setTrain_tokens (s : State) (id : Nat) (f : Train → Train) : (s.setTrain id f).tokens = s.tokens := rfl
@[simp] theorem State.setTrain_consumed (s : State) (id : Nat) (f : Train → Train) : (s.setTrain id f).consumed = s.consumed := rfl
@[simp] theorem State.setTrain_slowEpochs (s : State) (id : Nat) (f : Train → Train) : (s.setTrain id f).slowEpochs = s.slowEpochs := rfl
@[simp] theorem State.setTrain_fastEpochs (s : State) (id : Nat) (f : Train → Train) : (s.setTrain id f).fastEpochs = s.fastEpochs := rfl
@[simp] theorem State.setTrain_epoch (s : State) (id : Nat) (f : Train → Train) : (s.setTrain id f).epoch = s.epoch := rfl
@[simp] theorem State.setTrain_ns (s : State) (id : Nat) (f : Train → Train) : (s.setTrain id f).ns = s.ns := rfl
@[simp] theorem State.setTrain_nsPart (s : State) (id : Nat) (f : Train → Train) : (s.setTrain id f).nsPart = s.nsPart := rfl
@[simp] theorem State.setTrain_routeMode (s : State) (id : Nat) (f : Train → Train) : (s.setTrain id f).routeMode = s.routeMode := rfl
@[simp] theorem State.setTrain_brk0 (s : State) (id : Nat) (f : Train → Train) : (s.setTrain id f).brk0 = s.brk0 := rfl
@[simp] theorem State.setTrain_brk1 (s : State) (id : Nat) (f : Train → Train) : (s.setTrain id f).brk1 = s.brk1 := rfl
@[simp] theorem State.setTrain_routeEpoch (s : State) (id : Nat) (f : Train → Train) : (s.setTrain id f).routeEpoch = s.routeEpoch := rfl
@[simp] theorem State.setTrain_switching (s : State) (id : Nat) (f : Train → Train) : (s.setTrain id f).switching = s.switching := rfl
@[simp] theorem State.setTrain_chassis (s : State) (id : Nat) (f : Train → Train) : (s.setTrain id f).chassis = s.chassis := rfl
@[simp] theorem State.setTrain_dram (s : State) (id : Nat) (f : Train → Train) : (s.setTrain id f).dram = s.dram := rfl
@[simp] theorem State.setTrain_flaws (s : State) (id : Nat) (f : Train → Train) : (s.setTrain id f).flaws = s.flaws := rfl
@[simp] theorem State.setTrain_freeCtr (s : State) (id : Nat) (f : Train → Train) : (s.setTrain id f).freeCtr = s.freeCtr := rfl
@[simp] theorem State.setTrain_agenda (s : State) (id : Nat) (f : Train → Train) : (s.setTrain id f).agenda = s.agenda := rfl
@[simp] theorem State.setTrain_cur (s : State) (id : Nat) (f : Train → Train) : (s.setTrain id f).cur = s.cur := rfl
@[simp] theorem State.setTrain_doing (s : State) (id : Nat) (f : Train → Train) : (s.setTrain id f).doing = s.doing := rfl

@[simp] theorem State.setLaunch_powered (s : State) (id : Nat) (f : Launch → Launch) : (s.setLaunch id f).powered = s.powered := rfl
@[simp] theorem State.setLaunch_stage (s : State) (id : Nat) (f : Launch → Launch) : (s.setLaunch id f).stage = s.stage := rfl
@[simp] theorem State.setLaunch_stageErr (s : State) (id : Nat) (f : Launch → Launch) : (s.setLaunch id f).stageErr = s.stageErr := rfl
@[simp] theorem State.setLaunch_memok (s : State) (id : Nat) (f : Launch → Launch) : (s.setLaunch id f).memok = s.memok := rfl
@[simp] theorem State.setLaunch_fwLoad (s : State) (id : Nat) (f : Launch → Launch) : (s.setLaunch id f).fwLoad = s.fwLoad := rfl
@[simp] theorem State.setLaunch_check (s : State) (id : Nat) (f : Launch → Launch) : (s.setLaunch id f).check = s.check := rfl
@[simp] theorem State.setLaunch_measured (s : State) (id : Nat) (f : Launch → Launch) : (s.setLaunch id f).measured = s.measured := rfl
@[simp] theorem State.setLaunch_image (s : State) (id : Nat) (f : Launch → Launch) : (s.setLaunch id f).image = s.image := rfl
@[simp] theorem State.setLaunch_reports (s : State) (id : Nat) (f : Launch → Launch) : (s.setLaunch id f).reports = s.reports := rfl
@[simp] theorem State.setLaunch_hostReads (s : State) (id : Nat) (f : Launch → Launch) : (s.setLaunch id f).hostReads = s.hostReads := rfl
@[simp] theorem State.setLaunch_bar0Reads (s : State) (id : Nat) (f : Launch → Launch) : (s.setLaunch id f).bar0Reads = s.bar0Reads := rfl
@[simp] theorem State.setLaunch_hostWrites (s : State) (id : Nat) (f : Launch → Launch) : (s.setLaunch id f).hostWrites = s.hostWrites := rfl
@[simp] theorem State.setLaunch_peerWrites (s : State) (id : Nat) (f : Launch → Launch) : (s.setLaunch id f).peerWrites = s.peerWrites := rfl
@[simp] theorem State.setLaunch_peerReplies (s : State) (id : Nat) (f : Launch → Launch) : (s.setLaunch id f).peerReplies = s.peerReplies := rfl
@[simp] theorem State.setLaunch_msix (s : State) (id : Nat) (f : Launch → Launch) : (s.setLaunch id f).msix = s.msix := rfl
@[simp] theorem State.setLaunch_bar2 (s : State) (id : Nat) (f : Launch → Launch) : (s.setLaunch id f).bar2 = s.bar2 := rfl
@[simp] theorem State.setLaunch_evqBase (s : State) (id : Nat) (f : Launch → Launch) : (s.setLaunch id f).evqBase = s.evqBase := rfl
@[simp] theorem State.setLaunch_evqCtl (s : State) (id : Nat) (f : Launch → Launch) : (s.setLaunch id f).evqCtl = s.evqCtl := rfl
@[simp] theorem State.setLaunch_evqHead (s : State) (id : Nat) (f : Launch → Launch) : (s.setLaunch id f).evqHead = s.evqHead := rfl
@[simp] theorem State.setLaunch_evqTail (s : State) (id : Nat) (f : Launch → Launch) : (s.setLaunch id f).evqTail = s.evqTail := rfl
@[simp] theorem State.setLaunch_teardown (s : State) (id : Nat) (f : Launch → Launch) : (s.setLaunch id f).teardown = s.teardown := rfl
@[simp] theorem State.setLaunch_teardownPasid (s : State) (id : Nat) (f : Launch → Launch) : (s.setLaunch id f).teardownPasid = s.teardownPasid := rfl
@[simp] theorem State.setLaunch_flr (s : State) (id : Nat) (f : Launch → Launch) : (s.setLaunch id f).flr = s.flr := rfl
@[simp] theorem State.setLaunch_evict (s : State) (id : Nat) (f : Launch → Launch) : (s.setLaunch id f).evict = s.evict := rfl
@[simp] theorem State.setLaunch_qtbase (s : State) (id : Nat) (f : Launch → Launch) : (s.setLaunch id f).qtbase = s.qtbase := rfl
@[simp] theorem State.setLaunch_qtsize (s : State) (id : Nat) (f : Launch → Launch) : (s.setLaunch id f).qtsize = s.qtsize := rfl
@[simp] theorem State.setLaunch_fwSlots (s : State) (id : Nat) (f : Launch → Launch) : (s.setLaunch id f).fwSlots = s.fwSlots := rfl
@[simp] theorem State.setLaunch_fwWaiting (s : State) (id : Nat) (f : Launch → Launch) : (s.setLaunch id f).fwWaiting = s.fwWaiting := rfl
@[simp] theorem State.setLaunch_rotation (s : State) (id : Nat) (f : Launch → Launch) : (s.setLaunch id f).rotation = s.rotation := rfl
@[simp] theorem State.setLaunch_gangHold (s : State) (id : Nat) (f : Launch → Launch) : (s.setLaunch id f).gangHold = s.gangHold := rfl
@[simp] theorem State.setLaunch_trains (s : State) (id : Nat) (f : Launch → Launch) : (s.setLaunch id f).trains = s.trains := rfl
@[simp] theorem State.setLaunch_coaches (s : State) (id : Nat) (f : Launch → Launch) : (s.setLaunch id f).coaches = s.coaches := rfl
@[simp] theorem State.setLaunch_copies (s : State) (id : Nat) (f : Launch → Launch) : (s.setLaunch id f).copies = s.copies := rfl
@[simp] theorem State.setLaunch_streams (s : State) (id : Nat) (f : Launch → Launch) : (s.setLaunch id f).streams = s.streams := rfl
@[simp] theorem State.setLaunch_reductions (s : State) (id : Nat) (f : Launch → Launch) : (s.setLaunch id f).reductions = s.reductions := rfl
@[simp] theorem State.setLaunch_packets (s : State) (id : Nat) (f : Launch → Launch) : (s.setLaunch id f).packets = s.packets := rfl
@[simp] theorem State.setLaunch_nextId (s : State) (id : Nat) (f : Launch → Launch) : (s.setLaunch id f).nextId = s.nextId := rfl
@[simp] theorem State.setLaunch_ceiling (s : State) (id : Nat) (f : Launch → Launch) : (s.setLaunch id f).ceiling = s.ceiling := rfl
@[simp] theorem State.setLaunch_pscap (s : State) (id : Nat) (f : Launch → Launch) : (s.setLaunch id f).pscap = s.pscap := rfl
@[simp] theorem State.setLaunch_power (s : State) (id : Nat) (f : Launch → Launch) : (s.setLaunch id f).power = s.power := rfl
@[simp] theorem State.setLaunch_duty (s : State) (id : Nat) (f : Launch → Launch) : (s.setLaunch id f).duty = s.duty := rfl
@[simp] theorem State.setLaunch_tokens (s : State) (id : Nat) (f : Launch → Launch) : (s.setLaunch id f).tokens = s.tokens := rfl
@[simp] theorem State.setLaunch_consumed (s : State) (id : Nat) (f : Launch → Launch) : (s.setLaunch id f).consumed = s.consumed := rfl
@[simp] theorem State.setLaunch_slowEpochs (s : State) (id : Nat) (f : Launch → Launch) : (s.setLaunch id f).slowEpochs = s.slowEpochs := rfl
@[simp] theorem State.setLaunch_fastEpochs (s : State) (id : Nat) (f : Launch → Launch) : (s.setLaunch id f).fastEpochs = s.fastEpochs := rfl
@[simp] theorem State.setLaunch_epoch (s : State) (id : Nat) (f : Launch → Launch) : (s.setLaunch id f).epoch = s.epoch := rfl
@[simp] theorem State.setLaunch_ns (s : State) (id : Nat) (f : Launch → Launch) : (s.setLaunch id f).ns = s.ns := rfl
@[simp] theorem State.setLaunch_nsPart (s : State) (id : Nat) (f : Launch → Launch) : (s.setLaunch id f).nsPart = s.nsPart := rfl
@[simp] theorem State.setLaunch_routeMode (s : State) (id : Nat) (f : Launch → Launch) : (s.setLaunch id f).routeMode = s.routeMode := rfl
@[simp] theorem State.setLaunch_brk0 (s : State) (id : Nat) (f : Launch → Launch) : (s.setLaunch id f).brk0 = s.brk0 := rfl
@[simp] theorem State.setLaunch_brk1 (s : State) (id : Nat) (f : Launch → Launch) : (s.setLaunch id f).brk1 = s.brk1 := rfl
@[simp] theorem State.setLaunch_routeEpoch (s : State) (id : Nat) (f : Launch → Launch) : (s.setLaunch id f).routeEpoch = s.routeEpoch := rfl
@[simp] theorem State.setLaunch_switching (s : State) (id : Nat) (f : Launch → Launch) : (s.setLaunch id f).switching = s.switching := rfl
@[simp] theorem State.setLaunch_chassis (s : State) (id : Nat) (f : Launch → Launch) : (s.setLaunch id f).chassis = s.chassis := rfl
@[simp] theorem State.setLaunch_dram (s : State) (id : Nat) (f : Launch → Launch) : (s.setLaunch id f).dram = s.dram := rfl
@[simp] theorem State.setLaunch_flaws (s : State) (id : Nat) (f : Launch → Launch) : (s.setLaunch id f).flaws = s.flaws := rfl
@[simp] theorem State.setLaunch_freeCtr (s : State) (id : Nat) (f : Launch → Launch) : (s.setLaunch id f).freeCtr = s.freeCtr := rfl
@[simp] theorem State.setLaunch_agenda (s : State) (id : Nat) (f : Launch → Launch) : (s.setLaunch id f).agenda = s.agenda := rfl
@[simp] theorem State.setLaunch_cur (s : State) (id : Nat) (f : Launch → Launch) : (s.setLaunch id f).cur = s.cur := rfl
@[simp] theorem State.setLaunch_doing (s : State) (id : Nat) (f : Launch → Launch) : (s.setLaunch id f).doing = s.doing := rfl

@[simp] theorem State.setCopy_powered (s : State) (id : Nat) (f : Copy → Copy) : (s.setCopy id f).powered = s.powered := rfl
@[simp] theorem State.setCopy_stage (s : State) (id : Nat) (f : Copy → Copy) : (s.setCopy id f).stage = s.stage := rfl
@[simp] theorem State.setCopy_stageErr (s : State) (id : Nat) (f : Copy → Copy) : (s.setCopy id f).stageErr = s.stageErr := rfl
@[simp] theorem State.setCopy_memok (s : State) (id : Nat) (f : Copy → Copy) : (s.setCopy id f).memok = s.memok := rfl
@[simp] theorem State.setCopy_fwLoad (s : State) (id : Nat) (f : Copy → Copy) : (s.setCopy id f).fwLoad = s.fwLoad := rfl
@[simp] theorem State.setCopy_check (s : State) (id : Nat) (f : Copy → Copy) : (s.setCopy id f).check = s.check := rfl
@[simp] theorem State.setCopy_measured (s : State) (id : Nat) (f : Copy → Copy) : (s.setCopy id f).measured = s.measured := rfl
@[simp] theorem State.setCopy_image (s : State) (id : Nat) (f : Copy → Copy) : (s.setCopy id f).image = s.image := rfl
@[simp] theorem State.setCopy_reports (s : State) (id : Nat) (f : Copy → Copy) : (s.setCopy id f).reports = s.reports := rfl
@[simp] theorem State.setCopy_hostReads (s : State) (id : Nat) (f : Copy → Copy) : (s.setCopy id f).hostReads = s.hostReads := rfl
@[simp] theorem State.setCopy_bar0Reads (s : State) (id : Nat) (f : Copy → Copy) : (s.setCopy id f).bar0Reads = s.bar0Reads := rfl
@[simp] theorem State.setCopy_hostWrites (s : State) (id : Nat) (f : Copy → Copy) : (s.setCopy id f).hostWrites = s.hostWrites := rfl
@[simp] theorem State.setCopy_peerWrites (s : State) (id : Nat) (f : Copy → Copy) : (s.setCopy id f).peerWrites = s.peerWrites := rfl
@[simp] theorem State.setCopy_peerReplies (s : State) (id : Nat) (f : Copy → Copy) : (s.setCopy id f).peerReplies = s.peerReplies := rfl
@[simp] theorem State.setCopy_msix (s : State) (id : Nat) (f : Copy → Copy) : (s.setCopy id f).msix = s.msix := rfl
@[simp] theorem State.setCopy_bar2 (s : State) (id : Nat) (f : Copy → Copy) : (s.setCopy id f).bar2 = s.bar2 := rfl
@[simp] theorem State.setCopy_evqBase (s : State) (id : Nat) (f : Copy → Copy) : (s.setCopy id f).evqBase = s.evqBase := rfl
@[simp] theorem State.setCopy_evqCtl (s : State) (id : Nat) (f : Copy → Copy) : (s.setCopy id f).evqCtl = s.evqCtl := rfl
@[simp] theorem State.setCopy_evqHead (s : State) (id : Nat) (f : Copy → Copy) : (s.setCopy id f).evqHead = s.evqHead := rfl
@[simp] theorem State.setCopy_evqTail (s : State) (id : Nat) (f : Copy → Copy) : (s.setCopy id f).evqTail = s.evqTail := rfl
@[simp] theorem State.setCopy_teardown (s : State) (id : Nat) (f : Copy → Copy) : (s.setCopy id f).teardown = s.teardown := rfl
@[simp] theorem State.setCopy_teardownPasid (s : State) (id : Nat) (f : Copy → Copy) : (s.setCopy id f).teardownPasid = s.teardownPasid := rfl
@[simp] theorem State.setCopy_flr (s : State) (id : Nat) (f : Copy → Copy) : (s.setCopy id f).flr = s.flr := rfl
@[simp] theorem State.setCopy_evict (s : State) (id : Nat) (f : Copy → Copy) : (s.setCopy id f).evict = s.evict := rfl
@[simp] theorem State.setCopy_qtbase (s : State) (id : Nat) (f : Copy → Copy) : (s.setCopy id f).qtbase = s.qtbase := rfl
@[simp] theorem State.setCopy_qtsize (s : State) (id : Nat) (f : Copy → Copy) : (s.setCopy id f).qtsize = s.qtsize := rfl
@[simp] theorem State.setCopy_fwSlots (s : State) (id : Nat) (f : Copy → Copy) : (s.setCopy id f).fwSlots = s.fwSlots := rfl
@[simp] theorem State.setCopy_fwWaiting (s : State) (id : Nat) (f : Copy → Copy) : (s.setCopy id f).fwWaiting = s.fwWaiting := rfl
@[simp] theorem State.setCopy_rotation (s : State) (id : Nat) (f : Copy → Copy) : (s.setCopy id f).rotation = s.rotation := rfl
@[simp] theorem State.setCopy_launches (s : State) (id : Nat) (f : Copy → Copy) : (s.setCopy id f).launches = s.launches := rfl
@[simp] theorem State.setCopy_gangHold (s : State) (id : Nat) (f : Copy → Copy) : (s.setCopy id f).gangHold = s.gangHold := rfl
@[simp] theorem State.setCopy_trains (s : State) (id : Nat) (f : Copy → Copy) : (s.setCopy id f).trains = s.trains := rfl
@[simp] theorem State.setCopy_coaches (s : State) (id : Nat) (f : Copy → Copy) : (s.setCopy id f).coaches = s.coaches := rfl
@[simp] theorem State.setCopy_streams (s : State) (id : Nat) (f : Copy → Copy) : (s.setCopy id f).streams = s.streams := rfl
@[simp] theorem State.setCopy_reductions (s : State) (id : Nat) (f : Copy → Copy) : (s.setCopy id f).reductions = s.reductions := rfl
@[simp] theorem State.setCopy_packets (s : State) (id : Nat) (f : Copy → Copy) : (s.setCopy id f).packets = s.packets := rfl
@[simp] theorem State.setCopy_nextId (s : State) (id : Nat) (f : Copy → Copy) : (s.setCopy id f).nextId = s.nextId := rfl
@[simp] theorem State.setCopy_ceiling (s : State) (id : Nat) (f : Copy → Copy) : (s.setCopy id f).ceiling = s.ceiling := rfl
@[simp] theorem State.setCopy_pscap (s : State) (id : Nat) (f : Copy → Copy) : (s.setCopy id f).pscap = s.pscap := rfl
@[simp] theorem State.setCopy_power (s : State) (id : Nat) (f : Copy → Copy) : (s.setCopy id f).power = s.power := rfl
@[simp] theorem State.setCopy_duty (s : State) (id : Nat) (f : Copy → Copy) : (s.setCopy id f).duty = s.duty := rfl
@[simp] theorem State.setCopy_tokens (s : State) (id : Nat) (f : Copy → Copy) : (s.setCopy id f).tokens = s.tokens := rfl
@[simp] theorem State.setCopy_consumed (s : State) (id : Nat) (f : Copy → Copy) : (s.setCopy id f).consumed = s.consumed := rfl
@[simp] theorem State.setCopy_slowEpochs (s : State) (id : Nat) (f : Copy → Copy) : (s.setCopy id f).slowEpochs = s.slowEpochs := rfl
@[simp] theorem State.setCopy_fastEpochs (s : State) (id : Nat) (f : Copy → Copy) : (s.setCopy id f).fastEpochs = s.fastEpochs := rfl
@[simp] theorem State.setCopy_epoch (s : State) (id : Nat) (f : Copy → Copy) : (s.setCopy id f).epoch = s.epoch := rfl
@[simp] theorem State.setCopy_ns (s : State) (id : Nat) (f : Copy → Copy) : (s.setCopy id f).ns = s.ns := rfl
@[simp] theorem State.setCopy_nsPart (s : State) (id : Nat) (f : Copy → Copy) : (s.setCopy id f).nsPart = s.nsPart := rfl
@[simp] theorem State.setCopy_routeMode (s : State) (id : Nat) (f : Copy → Copy) : (s.setCopy id f).routeMode = s.routeMode := rfl
@[simp] theorem State.setCopy_brk0 (s : State) (id : Nat) (f : Copy → Copy) : (s.setCopy id f).brk0 = s.brk0 := rfl
@[simp] theorem State.setCopy_brk1 (s : State) (id : Nat) (f : Copy → Copy) : (s.setCopy id f).brk1 = s.brk1 := rfl
@[simp] theorem State.setCopy_routeEpoch (s : State) (id : Nat) (f : Copy → Copy) : (s.setCopy id f).routeEpoch = s.routeEpoch := rfl
@[simp] theorem State.setCopy_switching (s : State) (id : Nat) (f : Copy → Copy) : (s.setCopy id f).switching = s.switching := rfl
@[simp] theorem State.setCopy_chassis (s : State) (id : Nat) (f : Copy → Copy) : (s.setCopy id f).chassis = s.chassis := rfl
@[simp] theorem State.setCopy_dram (s : State) (id : Nat) (f : Copy → Copy) : (s.setCopy id f).dram = s.dram := rfl
@[simp] theorem State.setCopy_flaws (s : State) (id : Nat) (f : Copy → Copy) : (s.setCopy id f).flaws = s.flaws := rfl
@[simp] theorem State.setCopy_freeCtr (s : State) (id : Nat) (f : Copy → Copy) : (s.setCopy id f).freeCtr = s.freeCtr := rfl
@[simp] theorem State.setCopy_agenda (s : State) (id : Nat) (f : Copy → Copy) : (s.setCopy id f).agenda = s.agenda := rfl
@[simp] theorem State.setCopy_cur (s : State) (id : Nat) (f : Copy → Copy) : (s.setCopy id f).cur = s.cur := rfl
@[simp] theorem State.setCopy_doing (s : State) (id : Nat) (f : Copy → Copy) : (s.setCopy id f).doing = s.doing := rfl

@[simp] theorem Coach.setFrame_ch (c : Coach) (i : Nat) (x : Level) (f : Frame) : (c.setFrame i x f).ch = c.ch := rfl
@[simp] theorem Coach.setFrame_handle (c : Coach) (i : Nat) (x : Level) (f : Frame) : (c.setFrame i x f).handle = c.handle := rfl
@[simp] theorem Coach.setFrame_core (c : Coach) (i : Nat) (x : Level) (f : Frame) : (c.setFrame i x f).core = c.core := rfl
@[simp] theorem Coach.setFrame_part (c : Coach) (i : Nat) (x : Level) (f : Frame) : (c.setFrame i x f).part = c.part := rfl
@[simp] theorem Coach.setFrame_place (c : Coach) (i : Nat) (x : Level) (f : Frame) : (c.setFrame i x f).place = c.place := rfl
@[simp] theorem Coach.setFrame_train (c : Coach) (i : Nat) (x : Level) (f : Frame) : (c.setFrame i x f).train = c.train := rfl
@[simp] theorem Coach.setFrame_index (c : Coach) (i : Nat) (x : Level) (f : Frame) : (c.setFrame i x f).index = c.index := rfl
@[simp] theorem Coach.setFrame_tcore (c : Coach) (i : Nat) (x : Level) (f : Frame) : (c.setFrame i x f).tcore = c.tcore := rfl
@[simp] theorem Coach.setFrame_launch (c : Coach) (i : Nat) (x : Level) (f : Frame) : (c.setFrame i x f).launch = c.launch := rfl
@[simp] theorem Coach.setFrame_yard (c : Coach) (i : Nat) (x : Level) (f : Frame) : (c.setFrame i x f).yard = c.yard := rfl
@[simp] theorem Coach.setFrame_vmid (c : Coach) (i : Nat) (x : Level) (f : Frame) : (c.setFrame i x f).vmid = c.vmid := rfl
@[simp] theorem Coach.setFrame_pasid (c : Coach) (i : Nat) (x : Level) (f : Frame) : (c.setFrame i x f).pasid = c.pasid := rfl
@[simp] theorem Coach.setFrame_vregs (c : Coach) (i : Nat) (x : Level) (f : Frame) : (c.setFrame i x f).vregs = c.vregs := rfl
@[simp] theorem Coach.setFrame_access (c : Coach) (i : Nat) (x : Level) (f : Frame) : (c.setFrame i x f).access = c.access := rfl
@[simp] theorem Coach.setFrame_resid (c : Coach) (i : Nat) (x : Level) (f : Frame) : (c.setFrame i x f).resid = c.resid := rfl
@[simp] theorem Coach.setFrame_returning (c : Coach) (i : Nat) (x : Level) (f : Frame) : (c.setFrame i x f).returning = c.returning := rfl
@[simp] theorem Coach.setFrame_resumes (c : Coach) (i : Nat) (x : Level) (f : Frame) : (c.setFrame i x f).resumes = c.resumes := rfl
@[simp] theorem Coach.setFrame_stuck (c : Coach) (i : Nat) (x : Level) (f : Frame) : (c.setFrame i x f).stuck = c.stuck := rfl
@[simp] theorem Coach.setFrame_age (c : Coach) (i : Nat) (x : Level) (f : Frame) : (c.setFrame i x f).age = c.age := rfl
@[simp] theorem Coach.setFrame_agedAt (c : Coach) (i : Nat) (x : Level) (f : Frame) : (c.setFrame i x f).agedAt = c.agedAt := rfl
@[simp] theorem Coach.setFrame_exited (c : Coach) (i : Nat) (x : Level) (f : Frame) : (c.setFrame i x f).exited = c.exited := rfl
@[simp] theorem Coach.setFrame_v (c : Coach) (i : Nat) (x : Level) (f : Frame) : (c.setFrame i x f).v = c.v := rfl
@[simp] theorem Coach.setFrame_kv (c : Coach) (i : Nat) (x : Level) (f : Frame) : (c.setFrame i x f).kv = c.kv := rfl
@[simp] theorem Coach.setFrame_p (c : Coach) (i : Nat) (x : Level) (f : Frame) : (c.setFrame i x f).p = c.p := rfl
@[simp] theorem Coach.setFrame_s (c : Coach) (i : Nat) (x : Level) (f : Frame) : (c.setFrame i x f).s = c.s := rfl
@[simp] theorem Coach.setFrame_k (c : Coach) (i : Nat) (x : Level) (f : Frame) : (c.setFrame i x f).k = c.k := rfl
@[simp] theorem Coach.setFrame_mode (c : Coach) (i : Nat) (x : Level) (f : Frame) : (c.setFrame i x f).mode = c.mode := rfl
@[simp] theorem Coach.setFrame_cstat (c : Coach) (i : Nat) (x : Level) (f : Frame) : (c.setFrame i x f).cstat = c.cstat := rfl
@[simp] theorem Coach.setFrame_ldhint (c : Coach) (i : Nat) (x : Level) (f : Frame) : (c.setFrame i x f).ldhint = c.ldhint := rfl
@[simp] theorem Coach.setFrame_fpen (c : Coach) (i : Nat) (x : Level) (f : Frame) : (c.setFrame i x f).fpen = c.fpen := rfl
@[simp] theorem Coach.setFrame_slots (c : Coach) (i : Nat) (x : Level) (f : Frame) : (c.setFrame i x f).slots = c.slots := rfl
@[simp] theorem Coach.setFrame_siding (c : Coach) (i : Nat) (x : Level) (f : Frame) : (c.setFrame i x f).siding = c.siding := rfl
@[simp] theorem Coach.setFrame_recs (c : Coach) (i : Nat) (x : Level) (f : Frame) : (c.setFrame i x f).recs = c.recs := rfl
@[simp] theorem Coach.setFrame_pend (c : Coach) (i : Nat) (x : Level) (f : Frame) : (c.setFrame i x f).pend = c.pend := rfl
@[simp] theorem Coach.setFrame_workId (c : Coach) (i : Nat) (x : Level) (f : Frame) : (c.setFrame i x f).workId = c.workId := rfl
@[simp] theorem Coach.setFrame_arrived (c : Coach) (i : Nat) (x : Level) (f : Frame) : (c.setFrame i x f).arrived = c.arrived := rfl
@[simp] theorem Coach.setFrame_ports (c : Coach) (i : Nat) (x : Level) (f : Frame) : (c.setFrame i x f).ports = c.ports := rfl
@[simp] theorem Coach.setFrame_ops (c : Coach) (i : Nat) (x : Level) (f : Frame) : (c.setFrame i x f).ops = c.ops := rfl
@[simp] theorem Coach.setFrame_nextOp (c : Coach) (i : Nat) (x : Level) (f : Frame) : (c.setFrame i x f).nextOp = c.nextOp := rfl
@[simp] theorem Coach.setFrame_fences (c : Coach) (i : Nat) (x : Level) (f : Frame) : (c.setFrame i x f).fences = c.fences := rfl
@[simp] theorem Coach.setFrame_hold (c : Coach) (i : Nat) (x : Level) (f : Frame) : (c.setFrame i x f).hold = c.hold := rfl
@[simp] theorem Coach.setFrame_cart (c : Coach) (i : Nat) (x : Level) (f : Frame) : (c.setFrame i x f).cart = c.cart := rfl
@[simp] theorem Coach.setFrame_outr (c : Coach) (i : Nat) (x : Level) (f : Frame) : (c.setFrame i x f).outr = c.outr := rfl
@[simp] theorem Coach.setFrame_scopews (c : Coach) (i : Nat) (x : Level) (f : Frame) : (c.setFrame i x f).scopews = c.scopews := rfl
@[simp] theorem Coach.setFrame_granted (c : Coach) (i : Nat) (x : Level) (f : Frame) : (c.setFrame i x f).granted = c.granted := rfl
@[simp] theorem Coach.setFrame_born (c : Coach) (i : Nat) (x : Level) (f : Frame) : (c.setFrame i x f).born = c.born := rfl
@[simp] theorem Coach.setFrame_last (c : Coach) (i : Nat) (x : Level) (f : Frame) : (c.setFrame i x f).last = c.last := rfl
@[simp] theorem Coach.setFrame_issued (c : Coach) (i : Nat) (x : Level) (f : Frame) : (c.setFrame i x f).issued = c.issued := rfl
@[simp] theorem Coach.setFrame_gone (c : Coach) (i : Nat) (x : Level) (f : Frame) : (c.setFrame i x f).gone = c.gone := rfl
@[simp] theorem Coach.setFrame_departs (c : Coach) (i : Nat) (x : Level) (f : Frame) : (c.setFrame i x f).departs = c.departs := rfl
@[simp] theorem Coach.setFrame_raised (c : Coach) (i : Nat) (x : Level) (f : Frame) : (c.setFrame i x f).raised = c.raised := rfl

@[simp] theorem Coach.setOp_ch (c : Coach) (id : Nat) (f : Op → Op) : (c.setOp id f).ch = c.ch := rfl
@[simp] theorem Coach.setOp_handle (c : Coach) (id : Nat) (f : Op → Op) : (c.setOp id f).handle = c.handle := rfl
@[simp] theorem Coach.setOp_core (c : Coach) (id : Nat) (f : Op → Op) : (c.setOp id f).core = c.core := rfl
@[simp] theorem Coach.setOp_part (c : Coach) (id : Nat) (f : Op → Op) : (c.setOp id f).part = c.part := rfl
@[simp] theorem Coach.setOp_place (c : Coach) (id : Nat) (f : Op → Op) : (c.setOp id f).place = c.place := rfl
@[simp] theorem Coach.setOp_train (c : Coach) (id : Nat) (f : Op → Op) : (c.setOp id f).train = c.train := rfl
@[simp] theorem Coach.setOp_index (c : Coach) (id : Nat) (f : Op → Op) : (c.setOp id f).index = c.index := rfl
@[simp] theorem Coach.setOp_tcore (c : Coach) (id : Nat) (f : Op → Op) : (c.setOp id f).tcore = c.tcore := rfl
@[simp] theorem Coach.setOp_launch (c : Coach) (id : Nat) (f : Op → Op) : (c.setOp id f).launch = c.launch := rfl
@[simp] theorem Coach.setOp_yard (c : Coach) (id : Nat) (f : Op → Op) : (c.setOp id f).yard = c.yard := rfl
@[simp] theorem Coach.setOp_vmid (c : Coach) (id : Nat) (f : Op → Op) : (c.setOp id f).vmid = c.vmid := rfl
@[simp] theorem Coach.setOp_pasid (c : Coach) (id : Nat) (f : Op → Op) : (c.setOp id f).pasid = c.pasid := rfl
@[simp] theorem Coach.setOp_vregs (c : Coach) (id : Nat) (f : Op → Op) : (c.setOp id f).vregs = c.vregs := rfl
@[simp] theorem Coach.setOp_access (c : Coach) (id : Nat) (f : Op → Op) : (c.setOp id f).access = c.access := rfl
@[simp] theorem Coach.setOp_resid (c : Coach) (id : Nat) (f : Op → Op) : (c.setOp id f).resid = c.resid := rfl
@[simp] theorem Coach.setOp_returning (c : Coach) (id : Nat) (f : Op → Op) : (c.setOp id f).returning = c.returning := rfl
@[simp] theorem Coach.setOp_resumes (c : Coach) (id : Nat) (f : Op → Op) : (c.setOp id f).resumes = c.resumes := rfl
@[simp] theorem Coach.setOp_stuck (c : Coach) (id : Nat) (f : Op → Op) : (c.setOp id f).stuck = c.stuck := rfl
@[simp] theorem Coach.setOp_age (c : Coach) (id : Nat) (f : Op → Op) : (c.setOp id f).age = c.age := rfl
@[simp] theorem Coach.setOp_agedAt (c : Coach) (id : Nat) (f : Op → Op) : (c.setOp id f).agedAt = c.agedAt := rfl
@[simp] theorem Coach.setOp_exited (c : Coach) (id : Nat) (f : Op → Op) : (c.setOp id f).exited = c.exited := rfl
@[simp] theorem Coach.setOp_v (c : Coach) (id : Nat) (f : Op → Op) : (c.setOp id f).v = c.v := rfl
@[simp] theorem Coach.setOp_kv (c : Coach) (id : Nat) (f : Op → Op) : (c.setOp id f).kv = c.kv := rfl
@[simp] theorem Coach.setOp_p (c : Coach) (id : Nat) (f : Op → Op) : (c.setOp id f).p = c.p := rfl
@[simp] theorem Coach.setOp_s (c : Coach) (id : Nat) (f : Op → Op) : (c.setOp id f).s = c.s := rfl
@[simp] theorem Coach.setOp_k (c : Coach) (id : Nat) (f : Op → Op) : (c.setOp id f).k = c.k := rfl
@[simp] theorem Coach.setOp_mode (c : Coach) (id : Nat) (f : Op → Op) : (c.setOp id f).mode = c.mode := rfl
@[simp] theorem Coach.setOp_cstat (c : Coach) (id : Nat) (f : Op → Op) : (c.setOp id f).cstat = c.cstat := rfl
@[simp] theorem Coach.setOp_ldhint (c : Coach) (id : Nat) (f : Op → Op) : (c.setOp id f).ldhint = c.ldhint := rfl
@[simp] theorem Coach.setOp_fpen (c : Coach) (id : Nat) (f : Op → Op) : (c.setOp id f).fpen = c.fpen := rfl
@[simp] theorem Coach.setOp_slots (c : Coach) (id : Nat) (f : Op → Op) : (c.setOp id f).slots = c.slots := rfl
@[simp] theorem Coach.setOp_siding (c : Coach) (id : Nat) (f : Op → Op) : (c.setOp id f).siding = c.siding := rfl
@[simp] theorem Coach.setOp_frames (c : Coach) (id : Nat) (f : Op → Op) : (c.setOp id f).frames = c.frames := rfl
@[simp] theorem Coach.setOp_recs (c : Coach) (id : Nat) (f : Op → Op) : (c.setOp id f).recs = c.recs := rfl
@[simp] theorem Coach.setOp_pend (c : Coach) (id : Nat) (f : Op → Op) : (c.setOp id f).pend = c.pend := rfl
@[simp] theorem Coach.setOp_workId (c : Coach) (id : Nat) (f : Op → Op) : (c.setOp id f).workId = c.workId := rfl
@[simp] theorem Coach.setOp_arrived (c : Coach) (id : Nat) (f : Op → Op) : (c.setOp id f).arrived = c.arrived := rfl
@[simp] theorem Coach.setOp_ports (c : Coach) (id : Nat) (f : Op → Op) : (c.setOp id f).ports = c.ports := rfl
@[simp] theorem Coach.setOp_nextOp (c : Coach) (id : Nat) (f : Op → Op) : (c.setOp id f).nextOp = c.nextOp := rfl
@[simp] theorem Coach.setOp_fences (c : Coach) (id : Nat) (f : Op → Op) : (c.setOp id f).fences = c.fences := rfl
@[simp] theorem Coach.setOp_hold (c : Coach) (id : Nat) (f : Op → Op) : (c.setOp id f).hold = c.hold := rfl
@[simp] theorem Coach.setOp_cart (c : Coach) (id : Nat) (f : Op → Op) : (c.setOp id f).cart = c.cart := rfl
@[simp] theorem Coach.setOp_outr (c : Coach) (id : Nat) (f : Op → Op) : (c.setOp id f).outr = c.outr := rfl
@[simp] theorem Coach.setOp_scopews (c : Coach) (id : Nat) (f : Op → Op) : (c.setOp id f).scopews = c.scopews := rfl
@[simp] theorem Coach.setOp_granted (c : Coach) (id : Nat) (f : Op → Op) : (c.setOp id f).granted = c.granted := rfl
@[simp] theorem Coach.setOp_born (c : Coach) (id : Nat) (f : Op → Op) : (c.setOp id f).born = c.born := rfl
@[simp] theorem Coach.setOp_last (c : Coach) (id : Nat) (f : Op → Op) : (c.setOp id f).last = c.last := rfl
@[simp] theorem Coach.setOp_issued (c : Coach) (id : Nat) (f : Op → Op) : (c.setOp id f).issued = c.issued := rfl
@[simp] theorem Coach.setOp_gone (c : Coach) (id : Nat) (f : Op → Op) : (c.setOp id f).gone = c.gone := rfl
@[simp] theorem Coach.setOp_departs (c : Coach) (id : Nat) (f : Op → Op) : (c.setOp id f).departs = c.departs := rfl
@[simp] theorem Coach.setOp_raised (c : Coach) (id : Nat) (f : Op → Op) : (c.setOp id f).raised = c.raised := rfl

end Sys2Proof.Machine
end

