-- ==== Sys2Proof/Laws/Carriages.lean ====
section
/-! SUPPORT. What moving, coupling and filling can change: the slots and the siding of a coach, and with R446 its arrival sets and fence hold;
nothing else. -/

namespace Sys2Proof.Machine

/-- Two coaches that agree but for their carriages and siding entries, and what lanes arriving at a barrier change. -/
def Coach.sameBut (c d : Coach) : Prop := 
  d = { c with slots := d.slots, siding := d.siding, arrived := d.arrived, hold := d.hold }

theorem Coach.sameBut_refl (c : Coach) : c.sameBut c := rfl

theorem Coach.sameBut_mk (c : Coach) (sl : SMap Carriage) (sd : List SidingEntry) : c.sameBut { c with slots := sl, siding := sd } := rfl

theorem Coach.sameBut.trans {c d e : Coach} (h : c.sameBut d) (g : d.sameBut e) : c.sameBut e := by
  unfold Coach.sameBut at *; rw [g, h]

theorem foldl_sameBut {α : Type} (f : Coach → α → Coach) (hf : ∀ (c : Coach) (a : α), c.sameBut (f c a)) (as : List α) :
    ∀ c : Coach, c.sameBut (as.foldl f c) := by
  induction as with
  | nil => intro c; exact c.sameBut_refl
  | cons a as ih => intro c; exact (hf c a).trans (ih _)

theorem arriveJoined_sameBut (c : Coach) (b : Option Nat) (j : Nat) (k : Carriage) : c.sameBut (arriveJoined c b j k) := by
  unfold arriveJoined; split <;> rfl

theorem coupleAt_sameBut (c : Coach) (j : Nat) : c.sameBut (coupleAt c j) := by
  unfold coupleAt
  split
  · exact c.sameBut_refl
  · dsimp only
    split
    · exact c.sameBut_refl
    · exact (c.sameBut_mk _ _).trans (arriveJoined_sameBut _ _ _ _)

theorem fillAt_sameBut (c : Coach) (j : Nat) : c.sameBut (fillAt c j) := by
  unfold fillAt
  split
  · exact c.sameBut_mk _ _
  · exact c.sameBut_refl

theorem settle_sameBut (c : Coach) : c.sameBut (settle c) := by
  unfold settle
  exact (foldl_sameBut _ coupleAt_sameBut _ c).trans
    (foldl_sameBut _ (fun c j => (fillAt_sameBut c j).trans (coupleAt_sameBut _ j)) _ _)

theorem moveTo_sameBut (c : Coach) (j : Nat) (n : W64 × Option Rep) : c.sameBut (moveTo c j n) := by
  unfold moveTo
  split
  · exact c.sameBut_refl
  · exact (c.sameBut_mk _ c.siding).trans (settle_sameBut _)

theorem advance_sameBut (c : Coach) (j len : Nat) : c.sameBut (advance c j len) := by
  unfold advance
  split
  · exact c.sameBut_refl
  · exact moveTo_sameBut c j _

theorem placeGroup_sameBut (k : Carriage) (c : Coach) (g : W64 × Mask) : c.sameBut (placeGroup k c g) := by
  unfold placeGroup
  split
  · exact c.sameBut_mk _ c.siding
  · exact c.sameBut_mk c.slots _

theorem divide_sameBut (c : Coach) (j : Nat) (ts : List (Nat × W64)) : c.sameBut (divide c j ts) := by
  unfold divide
  split
  · exact ((c.sameBut_mk _ c.siding).trans (foldl_sameBut _ (placeGroup_sameBut _) _ _)).trans (settle_sameBut _)
  · exact c.sameBut_refl

theorem demote_sameBut (c : Coach) (j clk : Nat) : c.sameBut (demote c j clk) := by
  unfold demote
  split
  · exact (c.sameBut_mk _ _).trans (settle_sameBut _)
  · exact c.sameBut_refl

/-! ## A carriage that meets nothing -/

/-- Whether the carriage of a slot meets no other carriage and no unheld siding entry (R192). -/
def Coach.alone (c : Coach) (j : Nat) : Prop :=
  (∀ e ∈ c.slots, e.1 ≠ j → ∀ k, mget c.slots j = some k → k.meets e.2 = false) ∧
  (∀ e ∈ c.siding, ∀ k, mget c.slots j = some k → e.held = none → k.meets (e.carriage j) = false)

theorem coupleAt_alone (c : Coach) (j : Nat) (h : c.alone j) : coupleAt c j = c := by
  unfold coupleAt
  split
  · rfl
  · next k hk =>
    have h1 : (c.slots.filter fun e => e.1 != j && k.meets e.2) = [] := by
      rw [List.filter_eq_nil_iff]
      intro e he
      by_cases hj : e.1 = j
      · simp [hj]
      · simp [h.1 e he hj k hk]
    have h2 : (c.siding.filter fun e => e.held.isNone && k.meets (e.carriage j)) = [] := by
      rw [List.filter_eq_nil_iff]
      intro e he
      cases hh : e.held with
      | none => simp [h.2 e he k hk hh]
      | some _ => simp
    simp [h1, h2]

end Sys2Proof.Machine
end

