-- ==== Sys2Proof/Laws/Registers.lean ====
section
/-! SUPPORT. Reads of registers after writes, and what a write leaves alone. -/

namespace Sys2Proof.Machine

/-! ## Scalar registers -/

/-- s0 reads as zero (R242). -/
@[simp] theorem readS_zero (c : Coach) (k : Carriage) : readS c k 0 = 0 := by simp [readS, sTarget, readSD]

/-- A write to s0 is discarded (R242). -/
@[simp] theorem writeS_zero (c : Coach) (k : Carriage) (x : W64) : writeS c k 0 x = c := by simp [writeS, sTarget, writeSD]

theorem kKey_inj {f g i j : Nat} (hi : i < 16) (hj : j < 16) (h : kKey f i = kKey g j) : f = g ∧ i = j := by
  simp only [kKey] at h; omega

theorem readS_writeS (c : Coach) (k : Carriage) (d n : Nat) (x : W64) (hd : d < 256) (hn : n < 256) :
    readS (writeS c k d x) k n = if n = d ∧ n ≠ 0 then x else readS c k n := by
  unfold readS writeS sTarget
  by_cases h0 : n = 0
  · subst h0; simp only [true_or, if_true, readSD, ne_eq, not_true_eq_false, and_false, if_false]
  · by_cases hd0 : d = 0
    · subst hd0; simp [writeSD, h0]
    · have e1 : ¬ (n = 0 ∨ 255 < n) := by omega
      have e2 : ¬ (d = 0 ∨ 255 < d) := by omega
      rw [if_neg e1, if_neg e2]
      by_cases hk : k.level = .U
      · simp only [hk, or_true, if_true, writeSD, readSD, rget_mset]
        by_cases h : n = d <;> simp [h, hd0]
      · simp only [hk, or_false]
        by_cases a : n < 240 <;> by_cases b : d < 240
        · simp only [a, b, if_true, writeSD, readSD, rget_mset]
          by_cases h : n = d <;> simp [h, hd0]
        · have h : ¬ (n = d) := by omega
          simp [a, b, writeSD, readSD, h]
        · have h : ¬ (n = d) := by omega
          simp [a, b, writeSD, readSD, h]
        · simp only [a, b, if_false, writeSD, readSD, rget_mset]
          have hki : kKey (frameKey k.fslot k.level) (n - 240) = kKey (frameKey k.fslot k.level) (d - 240) ↔ n = d := by
            constructor
            · intro h; have := kKey_inj (by omega) (by omega) h; omega
            · rintro rfl; rfl
          by_cases h : n = d
          · simp [h, hd0]
          · simp [hki, h]

/-- A write of a scalar register of a carriage changes the scalar registers alone. -/
theorem writeS_eq (c : Coach) (k : Carriage) (d : Nat) (x : W64) : ∃ a b, writeS c k d x = { c with s := a, k := b } := by
  unfold writeS sTarget
  split
  · exact ⟨c.s, c.k, rfl⟩
  · split
    · exact ⟨_, c.k, rfl⟩
    · exact ⟨c.s, _, rfl⟩

/-! ## Predicates -/

/-- p0 is all-true (R242). -/
@[simp] theorem readP_zero (c : Coach) (l : Nat) : readP c 0 l = true := by simp [readP]

@[simp] theorem writeP_zero (c : Coach) (l : Nat) (b : Bool) : writeP c 0 l b = c := by simp [writeP]

/-! ## Vector registers -/

theorem vReg_inj {m n l j : Nat} (hl : l < 32) (hj : j < 32) (h : 32 * m + l = 32 * n + j) : m = n ∧ l = j := by omega

theorem readV_writeV_reg (c : Coach) (k : Carriage) (l n : Nat) (x : W32) (m : Nat) (h : vTarget c k n = .reg m) :
    readV (writeV c k l n x) k l n = x := by
  have ht : vTarget (writeV c k l n x) k n = .reg m := by
    simp only [writeV, h, writeVD]; simpa [vTarget] using h
  rw [readV, ht]
  simp [writeV, h, writeVD]

/-! ## Mode and flags -/

theorem modeOf_setMode (c : Coach) (k : Carriage) (m : Mode) : modeOf (setMode c k m) k = m := by
  unfold modeOf setMode
  by_cases h : k.level = .U
  · simp [h]
  · simp [h, Coach.setFrame, frameOf]

theorem cstatOf_setCstat (c : Coach) (k : Carriage) (f : FlagSet) : cstatOf (setCstat c k f) k = f := by
  unfold cstatOf setCstat setCstatAt
  by_cases h : k.level = .U
  · simp [h]
  · simp [h, Coach.setFrame, frameOf]

/-- Raising flags clears none (R235). -/
theorem cstatOf_addFlags (c : Coach) (k : Carriage) (f : FlagSet) : cstatOf (addFlags c k f) k = cstatOf c k ||| f :=
  cstatOf_setCstat c k _

end Sys2Proof.Machine
end

