-- ==== Sys2Proof/Laws/Ops.lean ====
section
/-! SUPPORT. What the shared operations of instructions can do: who issues, how an instruction retires, and how its lanes end. -/

namespace Sys2Proof.Machine

/-- The instruction of a carriage that issues is what its meaning makes of that carriage. -/
theorem byCarriage_issuer {s : State} {x : Iss} (h : issuer s = some x) (f : Iss → State) : byCarriage s f = .next (f x) := by
  unfold byCarriage
  split
  · next r hr => simp [issuer, hr] at h
  · rw [h]

/-- An instruction of carriages and outrider contexts, issued by a carriage. -/
theorem byEither_issuer {s : State} {x : Iss} (h : issuer s = some x) (f : Iss → State) (g : CoachRef → Coach → State) :
    byEither s f g = .next (f x) := by
  unfold byEither
  split
  · next r hr => simp [issuer, hr] at h
  · exact byCarriage_issuer h f

/-- An instruction of carriages and outrider contexts, issued by an outrider context. -/
theorem byEither_outrider {s : State} {r : CoachRef} {c : Coach} (hr : s.cur = some (.outrider r)) (hc : coachOf s r.key = some c)
    (f : Iss → State) (g : CoachRef → Coach → State) : byEither s f g = .next (g r c) := by
  simp [byEither, hr, hc]

/-- A scalar instruction of a carriage: the result is written, and the carriage goes on. -/
theorem scalar_issuer {s : State} {x : Iss} (h : issuer s = some x) (len : Nat) (d : BitVec 8) (f : (Nat → W64) → W64) :
    scalar s len d f = .next (s.setCoach x.c.key (advance (writeS x.c x.k d.toNat (f (readS x.c x.k))) x.slot len)) :=
  byEither_issuer h _ _

/-- An instruction of no lane that traps retires. -/
@[simp] theorem conclude_nil (s : State) (x : Iss) (c : Coach) (len : Nat) : conclude s x c len [] = retire s x c len := rfl

/-- A lane instruction none of whose lanes traps writes the results of its lanes and retires. -/
theorem laneStep_clean (s : State) (x : Iss) (i : Instr) (len : Nat) (lanes : Mask) (own : Coach → Carriage → Nat → Option LaneTrap)
    (f : Coach → Carriage → Nat → LaneOut)
    (h : ∀ l ∈ lanesOf lanes, own x.c x.k l = none ∧ queueTrap x.c x.k i l = none ∧ fpTraps x.c x.k (f x.c x.k l).flags = false) :
    laneStep s x i len lanes own f =
      retire s x (applyLanes x.c x.k i ((lanesOf lanes).map fun l => (l, f x.c x.k l))) len := by
  have e : ∀ ls : List Nat, (∀ l ∈ ls, own x.c x.k l = none ∧ queueTrap x.c x.k i l = none ∧ fpTraps x.c x.k (f x.c x.k l).flags = false) →
      ls.map (fun l => (l, laneEnd i own f x.c x.k l)) = ls.map fun l => (l, .ok (f x.c x.k l)) := by
    intro ls hls
    refine List.map_congr_left fun l hl => ?_
    obtain ⟨h1, h2, h3⟩ := hls l hl
    simp [laneEnd, h1, h2, h3]
  unfold laneStep
  simp only [e _ h]
  have t : ∀ ls : List Nat, trapsOf (ls.map fun l => (l, Except.ok (f x.c x.k l))) = [] := by
    intro ls; simp [trapsOf]
  have o : ∀ ls : List Nat, outsOf (ls.map fun l => (l, Except.ok (f x.c x.k l))) = ls.map fun l => (l, f x.c x.k l) := by
    intro ls
    simp only [outsOf, List.filterMap_map]
    induction ls with
    | nil => rfl
    | cons a ls ih => simp
  rw [t, o, conclude_nil]

/-- A write of a resolved vector register changes vector registers, banked ones and ports alone. -/
theorem writeVD_eq (c : Coach) (l : Nat) (d : VDst) (x : W32) :
    ∃ v kv ports, writeVD c l d x = { c with v := v, kv := kv, ports := ports } := by
  unfold writeVD
  split
  · exact ⟨_, c.kv, c.ports, rfl⟩
  · exact ⟨c.v, _, c.ports, rfl⟩
  · dsimp only; split
    · exact ⟨c.v, c.kv, _, rfl⟩
    · exact ⟨c.v, c.kv, c.ports, rfl⟩
  · exact ⟨c.v, c.kv, c.ports, rfl⟩

/-- Coaches that agree but for what a lane instruction writes: vector registers, predicates, ports, flags and frames. -/
def Coach.sameButLanes (c d : Coach) : Prop :=
  d = { c with v := d.v, kv := d.kv, p := d.p, ports := d.ports, cstat := d.cstat, frames := d.frames }

theorem Coach.sameButLanes.trans {c d e : Coach} (h : c.sameButLanes d) (g : d.sameButLanes e) : c.sameButLanes e := by
  unfold Coach.sameButLanes at *; rw [g, h]

theorem writeV_lanes (c : Coach) (k : Carriage) (l n : Nat) (x : W32) : c.sameButLanes (writeV c k l n x) := by
  obtain ⟨v, kv, ports, h⟩ := writeVD_eq c l (vTarget c k n) x
  unfold writeV; rw [h]; rfl

theorem writeP_lanes (c : Coach) (n l : Nat) (b : Bool) : c.sameButLanes (writeP c n l b) := by
  unfold writeP; split <;> rfl

theorem setCstat_lanes (c : Coach) (k : Carriage) (f : FlagSet) : c.sameButLanes (setCstat c k f) := by
  unfold setCstat setCstatAt; split <;> rfl

theorem addFlags_lanes (c : Coach) (k : Carriage) (f : FlagSet) : c.sameButLanes (addFlags c k f) := setCstat_lanes c k _

theorem foldl_lanes {α : Type} (f : Coach → α → Coach) (hf : ∀ (c : Coach) (a : α), c.sameButLanes (f c a)) (as : List α) :
    ∀ c : Coach, c.sameButLanes (as.foldl f c) := by
  induction as with
  | nil => intro c; rfl
  | cons a as ih => intro c; exact (hf c a).trans (ih _)

theorem freeQueues_lanes (c : Coach) : c.sameButLanes (freeQueues c) := rfl

theorem advancePorts_lanes (c : Coach) (qs ls : List Nat) : c.sameButLanes (advancePorts c qs ls) := by
  unfold advancePorts; split <;> rfl

theorem applyLane_lanes (c : Coach) (k : Carriage) (l : Nat) (o : LaneOut) : c.sameButLanes (applyLane c k l o) := by
  unfold applyLane
  exact (foldl_lanes _ (fun c (w : Nat × W32) => writeV_lanes c k l w.1 w.2) _ c).trans (foldl_lanes _ (fun c (w : Nat × Bool) => writeP_lanes c w.1 l w.2) _ _)

/-- What a lane instruction can change in its coach before the carriage goes on. -/
theorem applyLanes_lanes (c : Coach) (k : Carriage) (i : Instr) (outs : List (Nat × LaneOut)) : c.sameButLanes (applyLanes c k i outs) := by
  unfold applyLanes
  dsimp only
  have h := foldl_lanes _ (fun c (e : Nat × LaneOut) => applyLane_lanes c k e.1 e.2) outs c
  generalize outs.foldl (fun c e => applyLane c k e.1 e.2) c = d at h ⊢
  have h := h.trans (addFlags_lanes d k (orFlags (outs.map fun e => e.2.flags)))
  generalize addFlags d k (orFlags (outs.map fun e => e.2.flags)) = d' at h ⊢
  exact h.trans (advancePorts_lanes _ _ _)

end Sys2Proof.Machine
end

