-- ==== Sys2Proof/Tests/Slice0.lean ====
section
/-! SUPPORT. Tests of the syntax layer: an ill-formed term for each check of `wellFormed`, a word for every instruction of the opcode
map, written from the encoding tables of 10 R238 to R246, R248 and R252 and from the `match` and `fields` of spec/opcode_table.json
with a different value in each field, and words that the decoder must refuse (R259). -/

namespace Sys2Proof.Tests

set_option Elab.async false

/-- One ill-formed term for each check on an instruction word (R246, R248, 14 R371, 16 R363, R364). -/
theorem test_ill_formed_words :
    ([.mode 1 14, .mode 2 0x50, .mode 0 1, .mode 0x20 0xA000, .xrd 1 0x8, .xrd 1 0x10B, .xwr 1 0x300, .scopew 1 5,
      .tlbinv 1 0 1, .tlbinv 1 0 2, .tlbinv 0 1 2, .tlbinv 1 0 4, .tlbinv 0 1 5, .tlbinv 0 0 7, .wid 1 7, .wid 1 14, .lid 1 6,
      .vcvt 1 2 11, .vcvt 1 2 14, .vpack 1 2 0 2, .vpack 1 2 2 8, .vunpk 1 2 1 0 4, .vred 1 2 6, .vscan 1 2 0 6, .vtos 1 2 33,
      .litof 1 2 5, .litof 1 2 11, .lifrf 1 2 0, .litoi 1 2 6, .lifri 1 2 12, .tstat 1 6] : List Instr).all (fun i => !wellFormed i)
      = true := by decide +kernel

/-- The terms beside those of `test_ill_formed_words` that the same checks accept. -/
theorem test_well_formed_words :
    ([.mode 1 13, .mode 2 0x40, .mode 0 0, .mode 0x20 0x8000, .xrd 1 7, .xrd 1 0x10A, .xwr 1 0x221, .scopew 1 6, .tlbinv 0 1 1,
      .tlbinv 0 0 2, .tlbinv 1 1 0, .tlbinv 1 1 3, .tlbinv 0 1 4, .tlbinv 1 0 5, .tlbinv 0 0 6, .wid 1 6, .wid 1 13, .lid 1 5,
      .vcvt 1 2 10, .vcvt 1 2 13, .vpack 1 2 0 1, .vunpk 1 2 3 0 15, .vred 1 2 5, .vscan 1 2 0 5, .vtos 1 2 32, .litof 1 2 6,
      .lifrf 1 2 10, .litoi 1 2 5, .lifri 1 2 13, .tstat 1 5] : List Instr).all wellFormed = true := by decide +kernel

/-- One event out of range for each range of `wellFormedEvent` (R1, R187, R411, R431, R433). -/
theorem test_ill_formed_events :
    ([.vfFlr 0, .vfFlr 17, .hostBar2Write 17 0 [] .clean, .hostBar2Read 17 0 0 .clean, .registerWrite (.host 17) 0 0 8 0,
      .registerWrite .carriage 16 0 8 0, .registerWrite .carriage 0 0x400000 8 0, .registerWrite .carriage 0 0 2 0,
      .fwDoorbellWrite .carriage 4096, .fwSlotMap 32 0, .fwSlotMap 0 4096, .fwSlotUnmap 32, .fwSlotHostown 32 true,
      .dispatcherTakeBatch 16 0, .trainPlace 16 0 0, .coachSave ⟨16, 0⟩, .coachRestore ⟨0, 4096⟩, .ctxFresumeRetry ⟨0, 0, 4⟩,
      .ctxFresumeDeliver ⟨16, 0, 0⟩, .eventStoreFlush 16, .svStatusNestWrite ⟨0, 4096, 0⟩ false, .parkRequest 16, .unparkRequest 16,
      .parkEntryStart 16, .parkCutOver 16, .parkExitComplete 16, .psStepComplete 16, .tokenRequest ⟨0, 0, 4⟩, .tokenGrant 16,
      .thermalSample 16 [], .throttleChange 16, .holdChange 16, .bankRefresh 0 16 0 0, .bankRefresh 0 0 32 0,
      .gainCellRefreshSteal 16, .testerStart 16 0, .testerYield 0 16, .groupTestDone 0 16 0, .repairComplete 16 0,
      .bankOperation ⟨16, 0, 0, 0⟩ .clean, .commandReply ⟨0, 4096, 0, 0⟩, .loadReturn ⟨16, 0, 0, 0⟩ .clean,
      .storePerformed ⟨16, 0, 0, 0⟩ .clean, .cacheFillReturn 16 0 none .clean, .cacheFillReturn 0 0 (some 16) .clean,
      .l1OwnershipGrant 0 16 0 .clean, .atomicExecute ⟨16, 0, 0, 0⟩ .clean, .translationWalk 16, .tableReadReturn 16 0 .clean,
      .tlbinvArrive ⟨0, 0, 0, 0⟩ 16, .tlbinvComplete ⟨16, 0, 0, 0⟩, .scopewComplete ⟨0, 0, 4⟩, .pageScanStart 16 0, .pageScanDone 16 0,
      .flitReplay 16 .east, .linkRetrainStart 16 .west, .linkRetrainComplete 16 .east, .hopDown 16, .peerRequestArrive 8 0 false [] .clean,
      .peerLinkDown 8, .peerPortRetry 8 true, .carriageDemote ⟨0, 0, 4⟩, .yieldExpire ⟨0, 0, 4⟩, .sleepWake ⟨0, 0, 4⟩,
      .waitConditionMet ⟨0, 0, 4⟩, .waitcConditionMet ⟨0, 0, 4⟩, .waitgConditionMet ⟨0, 0, 4⟩, .fenceConditionMet ⟨0, 0, 4⟩,
      .exitWaitEnd ⟨0, 0, 4⟩, .barrierDepart 0 16, .queueElementFill ⟨16, 0, 0, 0⟩ .clean, .queueEntryDrain ⟨16, 0, 0, 0⟩ .clean,
      .outriderEnd ⟨16, 0⟩, .bayTimerExpire 0 0 8, .yardCoachForm 0 0 0 16, .matrixInstructionStart 0 16, .matrixInstructionEnd 16 0,
      .fetchFault ⟨0, 0, 4⟩, .completionTimeout ⟨16, 0, 0, 0⟩] : List Instr).all (fun i => !wellFormed i) = true := by
  decide +kernel

/-- Words of the control instructions, each field at a value of its own. -/
def controlWords : List (Nat × Nat × Instr) :=
    ([(32, 0x00000000, .nop),
     (32, 0x013F9EBB, .mode 0x3F 0x9EBB),
     (32, 0x02B6C000, .rep 0x2D 1 0 1 2),
     (32, 0x03B53EA5, .wait 0x2D 0x13 0x3A 0x25),
     (32, 0x0400C500, .waitc 0xC5),
     (32, 0x050000C5, .waitg 0xC5),
     (32, 0x06D9A5C3, .brv 1 5 0x9A5C3),
     (32, 0x07D9A5C3, .bru 1 5 0x9A5C3),
     (32, 0x08C5B36D, .bnz 0xC5 0xB36D),
     (32, 0x09C5B36D, .bz 0xC5 0xB36D),
     (32, 0x0A8B36D5, .jmp 0x8B36D5),
     (32, 0x0B8B36D5, .jal 0x8B36D5)] : List (Nat × Nat × Instr)) ++
    ([(32, 0x0C00C500, .jr 0xC5),
     (32, 0x0D00C53A, .jrv 0xC5 0x3A),
     (32, 0x0E000000, .exit),
     (32, 0x0F000000, .yield),
     (32, 0x1000B36D, .sleep 0xB36D),
     (32, 0x11000009, .bar 9),
     (32, 0x12C53A00, .spawn 0xC5 0x3A),
     (32, 0x1300B36D, .syscall 0xB36D),
     (32, 0x1400B36D, .hvcall 0xB36D),
     (32, 0x1500C53A, .tret 0xC5 0x3A),
     (32, 0x1600B36D, .breakOp 0xB36D),
     (32, 0x17C50221, .xrd 0xC5 0x221)] : List (Nat × Nat × Instr)) ++
    ([(32, 0x18C5010A, .xwr 0xC5 0x10A),
     (32, 0x1900C51D, .scopew 0xC5 0x1D),
     (32, 0x1AC53A03, .tlbinv 0xC5 0x3A 3),
     (32, 0x1BC50001, .time 0xC5 1),
     (32, 0x1CC5000D, .wid 0xC5 0xD),
     (32, 0x1DC50005, .lid 0xC5 5)] : List (Nat × Nat × Instr))

theorem test_decode_control_words : controlWords.all (fun e => decodeTableWord e.1 e.2.1 == some e.2.2) = true := by
  decide +kernel

/-- Words of the scalar instructions, each field at a value of its own. -/
def scalarWords : List (Nat × Nat × Instr) :=
    ([(32, 0x20C53A96, .sadd 0xC5 0x3A 0x96),
     (32, 0x21C53A96, .ssub 0xC5 0x3A 0x96),
     (32, 0x22C53A96, .smul 0xC5 0x3A 0x96),
     (32, 0x23C53A96, .smulh 0xC5 0x3A 0x96),
     (32, 0x24C53A96, .smulhu 0xC5 0x3A 0x96),
     (32, 0x25C53A96, .sdiv 0xC5 0x3A 0x96),
     (32, 0x26C53A96, .sdivu 0xC5 0x3A 0x96),
     (32, 0x27C53A96, .srem 0xC5 0x3A 0x96),
     (32, 0x28C53A96, .sremu 0xC5 0x3A 0x96),
     (32, 0x29C53A96, .sand 0xC5 0x3A 0x96),
     (32, 0x2AC53A96, .sor 0xC5 0x3A 0x96),
     (32, 0x2BC53A96, .sxor 0xC5 0x3A 0x96)] : List (Nat × Nat × Instr)) ++
    ([(32, 0x2CC53A96, .sshl 0xC5 0x3A 0x96),
     (32, 0x2DC53A96, .sshr 0xC5 0x3A 0x96),
     (32, 0x2EC53A96, .ssra 0xC5 0x3A 0x96),
     (32, 0x2FC53A96, .smin 0xC5 0x3A 0x96),
     (32, 0x30C53A96, .smax 0xC5 0x3A 0x96),
     (32, 0x31C53A96, .sminu 0xC5 0x3A 0x96),
     (32, 0x32C53A96, .smaxu 0xC5 0x3A 0x96),
     (32, 0x33C53A96, .sslt 0xC5 0x3A 0x96),
     (32, 0x34C53A96, .ssltu 0xC5 0x3A 0x96),
     (32, 0x35C53A96, .sseq 0xC5 0x3A 0x96),
     (32, 0x36C53A96, .saddi 0xC5 0x3A 0x96),
     (32, 0x37C5B36D, .simm 0xC5 0xB36D)] : List (Nat × Nat × Instr)) ++
    ([(64, 0x89ABCDEF38C50000, .slit 0xC5 0x89ABCDEF),
     (64, 0x89ABCDEF39C53A00, .slith 0xC5 0x3A 0x89ABCDEF),
     (32, 0x3AC53A00, .smov 0xC5 0x3A),
     (32, 0x3BC53A00, .sclz 0xC5 0x3A),
     (32, 0x3CC53A00, .spopc 0xC5 0x3A),
     (32, 0x3DC53A96, .sbfx 0xC5 0x3A 0x96),
     (32, 0x3EC53A96, .sbfi 0xC5 0x3A 0x96),
     (32, 0x3FC53A96, .ssel 0xC5 0x3A 0x96)] : List (Nat × Nat × Instr))

theorem test_decode_scalar_words : scalarWords.all (fun e => decodeTableWord e.1 e.2.1 == some e.2.2) = true := by
  decide +kernel

/-- Words of the vector instructions, each field at a value of its own. -/
def vectorWords : List (Nat × Nat × Instr) :=
    ([(32, 0x40C53A96, .vadd 0xC5 0x3A 0x96),
     (32, 0x41C53A96, .vsub 0xC5 0x3A 0x96),
     (32, 0x42C53A96, .vmul 0xC5 0x3A 0x96),
     (32, 0x43C53A96, .vfma 0xC5 0x3A 0x96),
     (32, 0x44C53A96, .vfnma 0xC5 0x3A 0x96),
     (32, 0x45C53A96, .vmin 0xC5 0x3A 0x96),
     (32, 0x46C53A96, .vmax 0xC5 0x3A 0x96),
     (32, 0x47C53A00, .vabs 0xC5 0x3A),
     (32, 0x48C53A00, .vneg 0xC5 0x3A),
     (32, 0x49C53A96, .vdiv 0xC5 0x3A 0x96),
     (32, 0x4AC53A00, .vsqrt 0xC5 0x3A),
     (32, 0x4BC53A96, .vmulh 0xC5 0x3A 0x96)] : List (Nat × Nat × Instr)) ++
    ([(32, 0x4CC53A96, .vand 0xC5 0x3A 0x96),
     (32, 0x4DC53A96, .vor 0xC5 0x3A 0x96),
     (32, 0x4EC53A96, .vxor 0xC5 0x3A 0x96),
     (32, 0x4FC53A00, .vnot 0xC5 0x3A),
     (32, 0x50C53A96, .vshl 0xC5 0x3A 0x96),
     (32, 0x51C53A96, .vshr 0xC5 0x3A 0x96),
     (32, 0x52C53A00, .vclz 0xC5 0x3A),
     (32, 0x53C53A00, .vpopc 0xC5 0x3A),
     (32, 0x54C53A96, .vbfx 0xC5 0x3A 0x96),
     (32, 0x55C53A96, .vbfi 0xC5 0x3A 0x96),
     (32, 0x56C53A96, .vadds 0xC5 0x3A 0x96),
     (32, 0x57C53A96, .vmuls 0xC5 0x3A 0x96)] : List (Nat × Nat × Instr)) ++
    ([(32, 0x58C53A96, .vfmas 0xC5 0x3A 0x96),
     (32, 0x59C5B36D, .vimm 0xC5 0xB36D),
     (64, 0x89ABCDEF5AC50000, .vlit 0xC5 0x89ABCDEF),
     (32, 0x5BC53A00, .vmov 0xC5 0x3A),
     (32, 0x5CC53A00, .vfrs 0xC5 0x3A),
     (32, 0x5DC53A05, .vsel 0xC5 0x3A 5),
     (32, 0x5E05C53A, .vcmpeq 5 0xC5 0x3A),
     (32, 0x5F05C53A, .vcmpne 5 0xC5 0x3A)] : List (Nat × Nat × Instr))

theorem test_decode_vector_words : vectorWords.all (fun e => decodeTableWord e.1 e.2.1 == some e.2.2) = true := by
  decide +kernel

/-- Words of the predicate and conversion instructions, each field at a value of its own. -/
def predicateAndConversionWords : List (Nat × Nat × Instr) :=
    ([(32, 0x6005C53A, .vcmplt 5 0xC5 0x3A),
     (32, 0x6105C53A, .vcmple 5 0xC5 0x3A),
     (32, 0x6205C53A, .vcmpun 5 0xC5 0x3A),
     (32, 0x63050603, .pand 5 6 3),
     (32, 0x64050603, .por 5 6 3),
     (32, 0x65050603, .pxor 5 6 3),
     (32, 0x66050600, .pnot 5 6),
     (32, 0x6705C500, .pfrs 5 0xC5),
     (32, 0x68C53A0D, .vcvt 0xC5 0x3A 0xD),
     (32, 0x69C53A86, .vpack 0xC5 0x3A 2 6),
     (32, 0x6AC53AED, .vunpk 0xC5 0x3A 3 1 0xD),
     (32, 0x6BC53A00, .vsfuRcp 0xC5 0x3A)] : List (Nat × Nat × Instr)) ++
    ([(32, 0x6BC53A01, .vsfuRsq 0xC5 0x3A),
     (32, 0x6BC53A02, .vsfuLg2 0xC5 0x3A),
     (32, 0x6BC53A03, .vsfuFexp 0xC5 0x3A),
     (32, 0x6BC53A04, .vsfuSin 0xC5 0x3A),
     (32, 0x6BC53A05, .vsfuCos 0xC5 0x3A),
     (32, 0x6BC53A06, .vsfuTanh 0xC5 0x3A),
     (32, 0x6BC53A07, .vsfuSigm 0xC5 0x3A),
     (32, 0x6CC53A00, .vrndi 0xC5 0x3A),
     (32, 0x6DC53A96, .vxins 0xC5 0x3A 0x96),
     (32, 0x6EC53A00, .vxext 0xC5 0x3A)] : List (Nat × Nat × Instr))

theorem test_decode_predicate_and_conversion_words : predicateAndConversionWords.all (fun e => decodeTableWord e.1 e.2.1 == some e.2.2) = true := by
  decide +kernel

/-- Words of the cross lane and level index instructions, each field at a value of its own. -/
def crossLaneAndLevelIndexWords : List (Nat × Nat × Instr) :=
    ([(32, 0x70050600, .voteany 5 6),
     (32, 0x71050600, .voteall 5 6),
     (32, 0x72C50500, .vbal 0xC5 5),
     (32, 0x73C53A96, .shfli 0xC5 0x3A 0x96),
     (32, 0x74C53A15, .shflu 0xC5 0x3A 0x15),
     (32, 0x75C53A15, .shfld 0xC5 0x3A 0x15),
     (32, 0x76C53A15, .shflx 0xC5 0x3A 0x15),
     (32, 0x77C53A05, .vred 0xC5 0x3A 5),
     (32, 0x78C53A0D, .vscan 0xC5 0x3A 1 5),
     (32, 0x7900C500, .vmemb 0xC5),
     (32, 0x7AC53A20, .vtos 0xC5 0x3A 0x20),
     (32, 0x80C53A96, .liadd 0xC5 0x3A 0x96)] : List (Nat × Nat × Instr)) ++
    ([(32, 0x81C53A96, .lisub 0xC5 0x3A 0x96),
     (32, 0x82C53A96, .limul 0xC5 0x3A 0x96),
     (32, 0x83C53A96, .lidiv 0xC5 0x3A 0x96),
     (32, 0x8405C53A, .liclt 5 0xC5 0x3A),
     (32, 0x8505C53A, .liceq 5 0xC5 0x3A),
     (32, 0x86C53A00, .lineg 0xC5 0x3A),
     (32, 0x87C53A00, .liabs 0xC5 0x3A),
     (32, 0x88C53A0A, .litof 0xC5 0x3A 0xA),
     (32, 0x89C53A07, .lifrf 0xC5 0x3A 7),
     (32, 0x8AC53A0D, .litoi 0xC5 0x3A 0xD),
     (32, 0x8BC53A05, .lifri 0xC5 0x3A 5),
     (32, 0x8CC53A02, .lilvl 0xC5 0x3A 2)] : List (Nat × Nat × Instr))

theorem test_decode_cross_lane_and_level_index_words : crossLaneAndLevelIndexWords.all (fun e => decodeTableWord e.1 e.2.1 == some e.2.2) = true := by
  decide +kernel

/-- Words of the memory instructions, each field at a value of its own. -/
def memoryWords : List (Nat × Nat × Instr) :=
    ([(32, 0x90C53A96, .vld8s 0xC5 0x3A 0x96),
     (32, 0x91C53A96, .vld8z 0xC5 0x3A 0x96),
     (32, 0x92C53A96, .vld16s 0xC5 0x3A 0x96),
     (32, 0x93C53A96, .vld16z 0xC5 0x3A 0x96),
     (32, 0x94C53A96, .vld32 0xC5 0x3A 0x96),
     (32, 0x95C53A96, .vld64 0xC5 0x3A 0x96),
     (32, 0x96C53A96, .vld128 0xC5 0x3A 0x96),
     (32, 0x97C53A96, .vst8 0xC5 0x3A 0x96),
     (32, 0x98C53A96, .vst16 0xC5 0x3A 0x96),
     (32, 0x99C53A96, .vst32 0xC5 0x3A 0x96),
     (32, 0x9AC53A96, .vst64 0xC5 0x3A 0x96),
     (32, 0x9BC53A96, .vst128 0xC5 0x3A 0x96)] : List (Nat × Nat × Instr)) ++
    ([(32, 0x9CC53A96, .sld32 0xC5 0x3A 0x96),
     (32, 0x9DC53A96, .sld64 0xC5 0x3A 0x96),
     (32, 0x9EC53A96, .sst32 0xC5 0x3A 0x96),
     (32, 0x9FC53A96, .sst64 0xC5 0x3A 0x96),
     (32, 0xA0C53A96, .ald32 0xC5 0x3A 0x96),
     (32, 0xA1C53A96, .ald128 0xC5 0x3A 0x96),
     (32, 0xA2C53A96, .ast32 0xC5 0x3A 0x96),
     (32, 0xA3C53A96, .ast128 0xC5 0x3A 0x96),
     (32, 0xA4C53A96, .cld64 0xC5 0x3A 0x96),
     (32, 0xA5C53A96, .cst64 0xC5 0x3A 0x96),
     (32, 0xA6C53A15, .vlda 0xC5 0x3A 0x15),
     (32, 0xA7C53A15, .vstl 0xC5 0x3A 0x15)] : List (Nat × Nat × Instr)) ++
    ([(32, 0xA8000015, .fence 0x15),
     (64, 0x89ABCDEFA9C53A96, .vatom 0xC5 0x3A 0x96 0x89ABCDEF),
     (64, 0x89ABCDEFAAC53A96, .satom 0xC5 0x3A 0x96 0x89ABCDEF),
     (64, 0x89ABCDEFABC53A96, .vcas 0xC5 0x3A 0x96 0x89ABCDEF),
     (64, 0x89ABCDEFAC00C53A, .mred 0xC5 0x3A 0x89ABCDEF),
     (64, 0x89ABCDEFADC53A96, .mcas 0xC5 0x3A 0x96 0x89ABCDEF),
     (64, 0x89ABCDEFAEC53A96, .msax 0xC5 0x3A 0x96 0x89ABCDEF),
     (64, 0x89ABCDEFAFC53A96, .mwrm 0xC5 0x3A 0x96 0x89ABCDEF)] : List (Nat × Nat × Instr))

theorem test_decode_memory_words : memoryWords.all (fun e => decodeTableWord e.1 e.2.1 == some e.2.2) = true := by
  decide +kernel

/-- Words of the queue copy matrix instructions, each field at a value of its own. -/
def queueCopyMatrixWords : List (Nat × Nat × Instr) :=
    ([(64, 0x89ABCDEFB005C53A, .qld 5 0xC5 0x3A 0x89ABCDEF),
     (64, 0x89ABCDEFB105C53A, .qst 5 0xC5 0x3A 0x89ABCDEF),
     (64, 0x89ABCDEFB205C53A, .qgat 5 0xC5 0x3A 0x89ABCDEF),
     (32, 0xB3C50005, .qcnt 0xC5 5),
     (32, 0xB4000000, .qend),
     (64, 0x89ABCDEFB5C53A96, .copy 0xC5 0x3A 0x96 0x89ABCDEF),
     (32, 0xB6C50000, .sealCart 0xC5),
     (32, 0xB7C50002, .rdwp 0xC5 2),
     (64, 0x89ABCDEFB8C53A96, .strm 0xC5 0x3A 0x96 0x89ABCDEF),
     (32, 0xB900C53A, .cflush 0xC5 0x3A),
     (32, 0xBA00C53A, .cinv 0xC5 0x3A),
     (32, 0xBB00C502, .chint 0xC5 2)] : List (Nat × Nat × Instr)) ++
    ([(32, 0xC002C53A, .fmtl 2 0xC5 0x3A),
     (32, 0xC102C500, .bld 2 0xC5),
     (32, 0xC202C53A, .bgat 2 0xC5 0x3A),
     (32, 0xC30000C5, .tzero 0xC5),
     (32, 0xC415C53A, .tmul 2 5 0xC5 0x3A),
     (32, 0xC515C53A, .tdrain 2 5 0xC5 0x3A),
     (64, 0x89ABCDEFC6C53A96, .cred 0xC5 0x3A 0x96 0x89ABCDEF),
     (32, 0xC7C50005, .tstat 0xC5 5)] : List (Nat × Nat × Instr))

theorem test_decode_queue_copy_matrix_words : queueCopyMatrixWords.all (fun e => decodeTableWord e.1 e.2.1 == some e.2.2) = true := by
  decide +kernel

/-- R245, R251, R259: reserved opcodes, bits that a word must hold as zero and reserved function values are refused; so is a word that
REP may not repeat. -/
theorem test_reserved_words_are_refused :
    ([0x00000001, 0x0E000001, 0x0F010000, 0x1E000000, 0x1F000000, 0x6F000000, 0x7B000000, 0x8D000000, 0xBC000000, 0xC8000000,
      0xD0000000, 0xFF000000, 0x02000001, 0x05000100, 0x0400003A, 0x0C010000, 0x1A000007, 0x6B000008, 0x5E080000, 0x63000800,
      0xA8000020, 0x17000400, 0x01000001, 0x47000001, 0xB3000008, 0xC0040000, 0xB0080000] : List Nat).all
      (fun w => decodeTableWord 64 w == none) = true := by decide +kernel

end Sys2Proof.Tests
end

