-- ==== Sys2Proof/Tests/Worlds.lean ====
section
/-! SUPPORT. Small states for the tests: one train of two coaches on core 0 of d0, with its launch, an identity translation and an accepted
page of code, and lemmas that caches which hold nothing agree with memory. -/

namespace Sys2Proof.Tests

set_option Elab.async false

open Sys2Proof.Machine Sys2Proof.Rules

/-- An identity translation of everything below 2^41 for a context, with every right. -/
def flat (ctx : Ctx) : TlbEntry :=
  { ctx := ctx, va := 0, size := 2 ^ 52, pa := 0, s1 := { r := true, w := true, x := true, u := true, d := true, level := 4 } }

/-- A carriage at 0x1000. -/
def carr (x : Level) (m : Mask) : Carriage := { pc := 0x1000, lanes := m, level := x }

/-- A coach of one carriage, lanes that are not its own having exited. -/
def crew (x : Level) (m : Mask) : Coach :=
  { ch := 0, handle := 0, core := 0, part := 0, place := 0, train := 1, launch := 2, slots := [(0, carr x m)], exited := ~~~m
    s := [(1, 5), (2, 7), (3, 0x2000)], v := [(32, 9), (33, 8), (64, 3)], workId := [(0, 0x1_0000_0020)] }

/-- Its train, and the train's launch. -/
def convoy : Train :=
  { id := 1, launch := 2, index := 0, ch := 0, cores := [0], coaches := 2, left := 2, matrix := true
    windows := [(0, { aBase := 0, aSize := 0x40000, wBase := 0, wSize := 0x60000, cBase := 0, cSize := 0x100000 })] }
def errand : Launch :=
  { id := 2, queue := 0, mask := 1, places := 1, widths := [5, 1, 0, 0, 0, 0], extents := [32, 2, 1, 1, 1, 1], trains := 2, cores := 1, prio := 1 }

/-- The code page at 0x1000 has been scanned; core 0 holds the identity translation. -/
def ground : Chassis :=
  { cacheOn := true, scanned := [(1, .accepted [])]
    cores := [(0, { tlb := [flat { vmid := 0, pasid := 0, hyp := false }], holder := some 1, svTvec := 0x8000, hvTvec := 0x9000 })] }

/-- The machine with a coach of that train, issuing from slot 0. -/
def world (c : Coach) : State :=
  { State.reset with
    stage := 3, ns := 1000, nextId := 10, coaches := [(0, c)], trains := [convoy], launches := [errand]
    chassis := [(0, ground), (1, { cacheOn := true })], dram := [(0x2000, 1), (0x2004, 2), (0x2020, 7)], cur := some (.carriage ⟨0, 0, 0⟩) }

/-- Slot 0 of a coach as the issuer. -/
def slot0 (c : Coach) (k : Carriage) : Iss := { c := c, slot := 0, k := k }

/-- The same machine at a turn of the issuing carriage, with words at 0x1000. -/
def poised (c : Coach) (bs : List Byte) : State :=
  { world c with cur := none, agenda := [.issue ⟨0, 0, 0⟩], dram := cwrite [] 0x1000 bs }

/-- Whether an outcome is a next state. -/
def goesOn (o : Host.Outcome State Fault Refusal) : Bool :=
  match o with
  | .next _ => true
  | _ => false

/-! ## Caches that hold nothing -/

theorem all_of_mget {α : Type} {m : SMap α} {p : Nat × α → Bool} (h : m.all p = true) :
    ∀ {n : Nat} {v : α}, mget m n = some v → p (n, v) = true := by
  intro n v hv
  induction m with
  | nil => simp [mget] at hv
  | cons e m ih =>
    obtain ⟨k', v'⟩ := e
    simp only [List.all_cons, Bool.and_eq_true] at h
    by_cases hk : k' = n
    · subst hk; simp [mget] at hv; subst hv; exact h.1
    · simp [mget, hk] at hv; exact ih h.2 hv

/-- No chassis lists a cache line, and no core an L1 line. -/
def bare (s : State) : Bool := s.chassis.all fun e => e.2.cache.isEmpty && e.2.cores.all fun k => k.2.l1.isEmpty

theorem bare_cache {s : State} (h : bare s = true) (d : Nat) : (chassisOf s d).cache = [] := by
  unfold chassisOf
  cases e : mget s.chassis d with
  | none => rfl
  | some c => have := all_of_mget h e; simp_all

theorem bare_l1 {s : State} (h : bare s = true) (d k : Nat) : (coreOf s d k).l1 = [] := by
  unfold coreOf chassisOf
  cases e : mget s.chassis d with
  | none => rfl
  | some c =>
    have hc := all_of_mget h e
    simp only [Bool.and_eq_true] at hc
    cases e' : mget c.cores k with
    | none => simp [e']
    | some x => have := all_of_mget hc.2 e'; simp_all

theorem coherent_bare {s : State} (h : bare s = true) : coherent s := by
  have h1 : ∀ ln, cacheLine s ln = none := fun ln => by simp [cacheLine, bare_cache h, mget]
  have h2 : ∀ g ln, l1Line s g ln = none := fun g ln => by simp [l1Line, coreG, bare_l1 h, mget]
  simp [coherent, h1, h2]

/-- Every bus of every chassis is in service, and nothing waits at it. -/
def idleBus (b : Bus) : Bool := b.state == 0 && b.queues.isEmpty && b.arrivals.isEmpty && b.refreshedAt.isEmpty
def whole (s : State) : Bool := s.chassis.all fun e => e.2.buses.all fun b => idleBus b.2

theorem bus_idle {s : State} (h : whole s = true) (d col : Nat) : idleBus (busOf (chassisOf s d) col) = true := by
  unfold chassisOf
  cases e : mget s.chassis d with
  | none => rfl
  | some c =>
    have hc : (c.buses.all fun b => idleBus b.2) = true := all_of_mget h e
    simp only [Option.getD_some, busOf]
    cases e' : mget c.buses col with
    | none => rfl
    | some b => exact all_of_mget (p := fun b => idleBus b.2) hc e'

theorem buses_whole {s : State} (h : whole s = true) : busesUp s := by
  intro a
  have := bus_idle h (homeAt a).d (homeAt a).col
  simp only [idleBus, Bool.and_eq_true, beq_iff_eq] at this
  simp [busLost, this.1.1.1]

/-- Whether no cell holds an error, no clock of a chassis is stolen, and no line has an owner on another chassis. -/
def awake (s : State) : Bool :=
  s.flaws.isEmpty && s.chassis.all fun e => !stolenClock e.2.ts e.2.clk && e.2.cache.all fun l => l.2.owner.all fun g => g / 16 == e.1

theorem quiet_of {s : State} (h : whole s = true) (w : awake s = true) : quiet s := by
  simp only [awake, Bool.and_eq_true, List.isEmpty_iff] at w
  have hc : ∀ d, stolenNow s d = false := by
    intro d
    unfold stolenNow chassisOf
    cases e : mget s.chassis d with
    | none => decide
    | some c => have := all_of_mget w.2 e; simp only [Bool.and_eq_true] at this; simpa using this.1
  have ho : ∀ d ln l g, mget (chassisOf s d).cache ln = some l → l.owner = some g → d = g / 16 := by
    intro d ln l g hl hg
    unfold chassisOf at hl
    cases e : mget s.chassis d with
    | none => rw [e] at hl; simp [mget] at hl
    | some c =>
      have h := all_of_mget w.2 e
      simp only [Bool.and_eq_true] at h
      rw [e] at hl
      have := all_of_mget h.2 hl
      simp only [hg, Option.all_some, beq_iff_eq] at this
      exact this.symm
  intro ln
  refine ⟨by simp [sliceOpen, hc], fun i _ => ⟨?_, by simp [flawAt, w.1, mget]⟩, fun g hg => ?_⟩
  swap
  · cases e : cacheLine s ln with
    | none => rw [e] at hg; simp at hg
    | some l => rw [e] at hg; rw [← ho _ _ _ g e (by simpa using hg)]; simp [pathOpen]
  have hb := bus_idle h (homeAt (128 * ln + 32 * i)).d (homeAt (128 * ln + 32 * i)).col
  simp only [idleBus, Bool.and_eq_true, beq_iff_eq, List.isEmpty_iff] at hb
  obtain ⟨⟨⟨h1, h2⟩, h3⟩, h4⟩ := hb
  simp [bankFree, h1, h2, h3, h4, refreshing, queueAt, arrivalsAt, mget]

/-- Caches that hold nothing agree, and nothing keeps their homes. -/
theorem serene {s : State} (h : (bare s && whole s && awake s) = true) : coherent s ∧ busesUp s ∧ quiet s := by
  simp only [Bool.and_eq_true] at h
  exact ⟨coherent_bare h.1.1, buses_whole h.1.2, quiet_of h.1.2 h.2⟩

/-- Whether every hop of the ring is active, and no route switch is under way. -/
def ringUp (s : State) : Bool := !s.switching && dies.all fun h => (chassisOf s h).east.state == 1

theorem ringOpen_of {s : State} (h : ringUp s = true) : ringOpen s := by
  simp only [ringUp, Bool.and_eq_true, List.all_eq_true, beq_iff_eq, Bool.not_eq_true'] at h
  have hd : ∀ a b e, routeDown s a b e = false := by
    intro a b e
    simp only [routeDown, List.any_eq_false]
    intro x hx
    simp [hopIsDown, h.2 x hx]
  intro a b _ _
  refine ⟨by simp [reachable, hd], ?_⟩
  simp only [pathOpen, h.1, Bool.not_false, Bool.true_and, Bool.or_eq_true, List.all_eq_true, beq_iff_eq]
  refine .inr fun x hx => h.2 x ?_
  simp only [routeHops, List.mem_append, List.mem_filter] at hx
  exact hx.elim And.left And.left

theorem calm_of {s : State} (h : (bare s && whole s && awake s && ringUp s && decide (s.doing = {})) = true) : calm s := by
  simp only [Bool.and_eq_true, decide_eq_true_eq] at h
  obtain ⟨⟨⟨⟨hb, hw⟩, ha⟩, hr⟩, hd⟩ := h
  exact ⟨coherent_bare hb, buses_whole hw, quiet_of hw ha, ringOpen_of hr, by rw [hd], by rw [hd]⟩

/-- A machine with all of its chassis, their hops active. -/
def ringed (s : State) : State :=
  { s with chassis := dies.map fun d => (d, { chassisOf s d with east := { state := 1 }, west := { state := 1 } }) }

end Sys2Proof.Tests
end

