-- ==== Sys2Proof/Tests/WitnessCore.lean ====
section
/-! SUPPORT. States and operands that meet the hypotheses of the statements about steps, coaches, and scalar, control and lane instructions:
one theorem for each statement that has hypotheses, a conjunct for each of its clauses. -/

namespace Sys2Proof.Tests

set_option Elab.async false

open Sys2Proof.Machine Sys2Proof.Rules

/-- A coach at U with lanes 0 to 7, at S, and at H with all lanes. -/
def coachU : Coach := crew .U 0xFF
def coachS : Coach := { crew .S 0xFF with frames := [(0, { busy := true, tpc := 0x40, npc := 0x44, traps := [(0, 0xFF)] })] }
def coachH : Coach := crew .H 0xFFFFFFFF
def issU : Iss := slot0 coachU (carr .U 0xFF)
def issS : Iss := slot0 coachS (carr .S 0xFF)
def issH : Iss := slot0 coachH (carr .H 0xFFFFFFFF)

theorem issuer_U : issuer (world coachU) = some issU := by decide +kernel
theorem issuer_S : issuer (world coachS) = some issS := by decide +kernel
theorem issuer_H : issuer (world coachH) = some issH := by decide +kernel

theorem orderly_U : orderly coachU := by unfold orderly; decide +kernel
theorem orderly_S : orderly coachS := by unfold orderly; decide +kernel

theorem witness_StepKeepsMemoryCanonical : cellsWf (world coachU).dram = true ∧ goesOn (step (world coachU)) = true := by decide +kernel

theorem witness_StepStopsOnlyWithoutPower :
    goesOn (step { State.reset with powered := false }) = false
      ∧ goesOn (step { State.reset with powered := false, agenda := [.event .moduleReset] }) = true := by decide +kernel

theorem witness_DecodeReadsBackEveryEncoding :
    encode (.mwrm 255 1 2 7) ≠ [] ∧ wellFormed (.mwrm 255 1 2 7) = true := by
  decide +kernel

theorem witness_DecodeAcceptsWellFormedOnly :
    (match decode (leBytes 8 0x00000007_AFFF0102) with
      | .ok (i, n) => i == .mwrm 255 1 2 7 && n == 8
      | .error _ => false) = true := by decide +kernel

/-- SADD s1, s2, s3 at 0x1000. -/
def saddWord : List Byte := leBytes 4 0x20010203

theorem witness_StepRunsTheDecodedInstruction :
    (poised coachU saddWord).powered = true ∧ (poised coachU saddWord).agenda = [.issue ⟨0, 0, 0⟩]
      ∧ (match prepareIssue { poised coachU saddWord with agenda := [] } ⟨0, 0, 0⟩ with
          | .run i u => i == .sadd 1 2 3 && goesOn (exec i u)
          | _ => false) = true
      ∧ (match prepareOutrider { poised { coachU with outr := { live := true, pc := 0x1000 } } saddWord with agenda := [] } ⟨0, 0⟩ with
          | .run i u => i == .sadd 1 2 3 && goesOn (exec i u)
          | _ => false) = true
      ∧ ({ poised coachU saddWord with agenda := [.event .firmwareRound] } : State).agenda = .event .firmwareRound :: [] := by
  decide +kernel

theorem witness_FetchDecodesTheWordsAtThePc :
    let s := poised coachU (leBytes 8 0x12345678_38050000)
    ((carr .U 0xFF).pc.toNat < 2 ^ 56 ∧ (carr .U 0xFF).pc.toNat % 4 = 0
      ∧ translate s (askerOf coachU 0 (carr .U 0xFF)) .exec 0x1000 = .pa 0x1000 {} ∧ regionOf 0x1000 = .dram
      ∧ (resolve 0x1000).map Home.wa = some 0x1000
      ∧ (match fetchWord s 0 0x1000 0x1000 with | .ok x => x == (0x38050000, false) | .error _ => false) = true
      ∧ (match fetchWord s 0 0x1004 0x1004 with | .ok x => x == (0x12345678, false) | .error _ => false) = true
      ∧ (match decodeWords 0x38050000 0x12345678 with | .ok i => i == .slit 5 0x12345678 | .error _ => false) = true
      ∧ (match decodeWords 0xFF000000 0 with | .ok _ => false | .error _ => true) = true
      ∧ mget (coreG s 0).icache (lineOf 0x1FFC) = none ∧ reachable s 0 (homeAt 0x1FFC).d = true ∧ pathOpen s 0 (homeAt 0x1FFC).d = true
      ∧ 0x1FFC % 4 = 0 ∧ busLost s 0x1FFC = false ∧ sliceOpen s (homeAt 0x1FFC).d = true
      ∧ (needsCells s 0x1FFC 4 = true ∧ unitOpen s 0x1FFC = true ∧ flawAt s 0x1FFC ≠ .uncorrectable)
      ∧ mget (chassisOf s (homeAt 0x1FFC).d).scanned (0x1FFC / 4096) = some (.accepted []))
      ∧ coherent s := by
  intro s
  exact ⟨by decide +kernel, coherent_bare (by decide +kernel)⟩

theorem witness_IssuedInstructionIsExecuted :
    let s1 : State := { poised coachU saddWord with agenda := [] }
    s1.powered = true ∧ coachOf s1 0 = some coachU ∧ coachU.key = 0 ∧ mget coachU.slots 0 = some (carr .U 0xFF) ∧ coachU.canIssue = true
      ∧ slotOpen s1 0 = true ∧ slotFree s1 coachU = true ∧ choosable s1 coachU (carr .U 0xFF) = true
      ∧ chosenNow s1 coachU 0 (carr .U 0xFF) = true ∧ fetchOf s1 coachU 0 (carr .U 0xFF) = .ok (.sadd 1 2 3) 4 ∧ notReady s1 coachU 0 (carr .U 0xFF) (.sadd 1 2 3) = none := by
  decide +kernel

theorem witness_InstructionMovesItsCarriageOn :
    orderly coachU ∧ mget coachU.slots 0 = some (carr .U 0xFF)
      ∧ (mget { coachU with slots := [(3, { carr .U 1 with rep := some ⟨63, 63, 7, 3⟩ })] }.slots 3).isSome = true :=
  ⟨orderly_U, by decide, by decide⟩

theorem witness_CarriagesCoupleAndFreeSlotsFill :
    (let a : Carriage := carr .H 1
     let b : Carriage := carr .H 0x80000000
     (2 < 3 ∧ 3 < 4) ∧ ({ coachU with slots := [(2, a), (3, b)] } : Coach).siding = [] ∧ a.pc = b.pc ∧ a.level = b.level ∧ a.rep = b.rep
       ∧ (a.level ≠ .U → a.fslot = b.fslot) ∧ a.parked = false ∧ b.parked = false)
    ∧ let e : SidingEntry := { pc := 0x1004, lanes := 0x100 }
      (0 < 4 ∧ 3 < 4) ∧ e.held = none ∧ (e.pc ≠ (carr .U 1).pc ∨ e.level ≠ (carr .U 1).level ∨ e.rep ≠ (carr .U 1).rep) := by decide

theorem witness_DemotionMovesNoLane :
    let c : Coach := { coachU with siding := [{ pc := 0x2000, lanes := 0x100 }], exited := 0xFFFFFE00 }
    orderly c ∧ mget c.slots 0 = some (carr .U 0xFF) := by
  unfold orderly; decide +kernel

/-- Four carriages, and of three siding entries the first held and the third at another pc: the second is promoted. -/
theorem witness_DemotionMovesNoLane_promotion :
    let at_ (pc : W64) (m : Mask) : Carriage := { pc := pc, lanes := m }
    let e : SidingEntry := { pc := 0x2000, lanes := 0x100 }
    let pre : List SidingEntry := [{ pc := 0x1800, lanes := 0x200, held := some { slot := 0, level := .S, depth := 0 } }]
    let post : List SidingEntry := [{ pc := 0x3000, lanes := 0x400 }]
    let c : Coach := { coachU with slots := [(0, at_ 0x1000 1), (1, at_ 0x1004 2), (2, at_ 0x1008 4), (3, at_ 0x100C 8)], siding := pre ++ e :: post }
    c.slots.map Prod.fst = [0, 1, 2, 3] ∧ mget c.slots 3 = some (at_ 0x100C 8) ∧ (∀ y ∈ pre, y.held ≠ none) ∧ e.held = none
      ∧ (c.slots.map fun x => (x.2.pc, x.2.level, x.2.rep)).Nodup
      ∧ (∀ y ∈ c.siding, y.held = none → (y.pc, y.level, y.rep) ∉ c.slots.map fun x => (x.2.pc, x.2.level, x.2.rep))
      ∧ ∀ y ∈ post, y.held = none → (y.pc, y.level, y.rep) ≠ (e.pc, e.level, e.rep) := by decide +kernel

/-- Scalar instructions: a destination that discards the write, and one that is also a source. -/
theorem witness_ScalarInstructionsComputeTheTable :
    ((scalarRule (.sadd 0 1 2)).map fun r => (r.1, r.2.1)) = some (0, 4)
      ∧ ((scalarRule (.slith 255 255 0xFFFFFFFF)).map fun r => (r.1, r.2.1)) = some (255, 8)
      ∧ issuer (world coachU) = some issU ∧ issuer (world coachS) = some issS := by decide +kernel

/-- The machine at a turn of the coach's outrider context. -/
def rider (o : Outrider) : State := { world { coachU with outr := o } with cur := some (.outrider ⟨0, 0⟩) }

theorem witness_ScalarInstructionsRunInOutriders :
    ((scalarRule (.ssel 63 63 64)).map fun r => (r.1, r.2.1)) = some (63, 4) ∧ (rider {}).cur = some (.outrider ⟨0, 0⟩)
      ∧ coachOf (rider {}) 0 = some { coachU with outr := {} } := by decide +kernel

theorem witness_OutridersRunTransfersAndTime :
    (rider { pc := 0x1000, s := [(5, 1)], rep := some ⟨1, 0, 4, 0⟩ }).cur = some (.outrider ⟨0, 0⟩)
      ∧ (coachOf (rider { pc := 0x1000, s := [(5, 1)], rep := some ⟨1, 0, 4, 0⟩ }) 0).isSome = true := by decide +kernel

theorem witness_OtherInstructionsFailTheOutrider :
    encode (.vadd 1 2 3) ≠ [] ∧ outriderRuns (.vadd 1 2 3) = false ∧ (rider {}).cur = some (.outrider ⟨0, 0⟩)
      ∧ coachOf (rider {}) 0 = some { coachU with outr := {} } := by decide +kernel

theorem witness_NopModeRepAndYieldComplete : issuer (world coachU) = some issU ∧ orderly issU.c := ⟨issuer_U, orderly_U⟩

theorem witness_TransfersMoveTheWholeCarriage :
    issuer (world coachS) = some issS ∧ orderly issS.c ∧ (lanesOf issS.k.lanes).head? = some 0 := ⟨issuer_S, orderly_S, by decide +kernel⟩

/-- Without and with traps: a pop of a queue port that has no entry in a coach with an access slice. -/
def coachQ : Coach := { coachU with access := true, ports := [(0, { dir := .inbound, faults := [(0, { cause := 4, addr := 0x40, write := false })], filled := 1 })] }
def issQ : Iss := slot0 coachQ (carr .U 0xFF)

/-- JRV without a pop, and with one at which lane 0 traps. -/
theorem witness_DivergentTransfersMoveEachLane :
    (issuer (world coachU) = some issU ∧ orderly issU.c ∧ issU.k.rep = none
      ∧ ∀ l ∈ lanesOf issU.k.lanes, queueTrap issU.c issU.k (.jrv 1 3) l = none)
      ∧ let ts := (lanesOf issQ.k.lanes).filterMap (queueTrap issQ.c issQ.k (.jrv 240 3))
        issuer (world coachQ) = some issQ ∧ orderly issQ.c ∧ issQ.k.rep = none ∧ ts.map LaneTrap.lane = [0]
          ∧ reportWaits (world coachQ) issQ.c issQ.k ts = false := by
  unfold orderly; decide +kernel

theorem witness_LaneInstructionsWriteActiveLanes :
    (∃ r, laneRule (.vadd 255 1 240) = some r ∧ trapsBy r (.vadd 255 1 240) issU.c issU.k = []) ∧ issuer (world coachU) = some issU
      ∧ (∃ r, laneRule (.vadd 255 1 240) = some r ∧ trapsBy r (.vadd 255 1 240) issQ.c issQ.k ≠ []
        ∧ reportWaits (world coachQ) issQ.c issQ.k (trapsBy r (.vadd 255 1 240) issQ.c issQ.k) = false)
      ∧ issuer (world coachQ) = some issQ :=
  ⟨⟨_, rfl, by decide +kernel⟩, issuer_U, ⟨_, rfl, by decide +kernel⟩, by decide +kernel⟩

/-- mode.etype int8 with sat, int64, and sl32 (which computes as int32); a conversion from fp32 of a NaN, a zero, an infinity and a number. -/
theorem witness_IntegerElementsWrapOrSaturate :
    Mode.etype 0x804 = .int ⟨8, true⟩ ∧ exactOf .add ((⟨8, true⟩ : IntFmt).decode 0x7F) ((⟨8, true⟩ : IntFmt).decode 1) 0 = some 128
      ∧ EType.noSl (Mode.etype 11) = .int ⟨32, true⟩ ∧ EType.noSl (Mode.etype 13) = .int ⟨64, true⟩ ∧ (⟨64, true⟩ : IntFmt).decode 0 = 0
      ∧ (exactOf .rndi 5 0 0).isSome = true ∧ 0 < elemCount (vecWidth 13) ∧ 3 < elemCount (vecWidth 4)
      ∧ EType.ofCode 5 = .int ⟨8, false⟩ ∧ EType.ofCode 6 = .float fp32 ∧ (fp32.decode false 0x7FC00000).isNan = true
      ∧ fp32.decode false (0x80000000 % 2 ^ 32) = .zero true ∧ fp32.decode false 0x7F800000 = .inf false
      ∧ (fp32.decode false 0x40200000 == .fin ⟨10485760, 4194304⟩) = true ∧ Mode.etype 4 = .int ⟨8, true⟩ := by decide +kernel

/-- Quotients of both signs; patterns of three formats; a number that rounds, one that is tiny, and one beyond the largest; fp16 to fp32. -/
theorem witness_FloatResultsAreRoundedOnce :
    0 < (⟨-5, 2⟩ : Rat').den ∧ 0 < (⟨0, 1⟩ : Rat').den
      ∧ (let big : Rat' := ⟨-3, 1⟩
        let e := max (big.scale 200).log2 fp32.emin
        fp32.maxVal.lt ((Rat'.ofInt (roundInt ((big.scale 200).scale (23 - e)) 0)).scale (e - 23)).abs = true)
      ∧ (let x : Rat' := (⟨1, 3⟩ : Rat').scale (-130)
        ((Rat'.ofInt (roundInt (x.scale (23 - x.log2)) 0)).scale (x.log2 - 23)).abs.lt (Rat'.pow2 fp32.emin) = true)
      ∧ EType.ofCode 7 = .float fp16 ∧ Mode.etype 6 = .float fp32 ∧ EType.noSl (.float fp32) = .float fp32
      ∧ (fp16.decode false 0x3C00).isNan = false ∧ fp16.decode false 0x7E00 = .nan false
      ∧ fp8e4 ∈ floats ∧ 0x7E < 2 ^ fp8e4.w ∧ (fp8e4.decode false 0x7E).isNan = false
      ∧ fp32 ∈ floats ∧ 0x80000001 < 2 ^ fp32.w ∧ (fp32.decode false 0x80000001).isNan = false
      ∧ bf16 ∈ floats ∧ 0xFF80 < 2 ^ bf16.w ∧ (bf16.decode false 0xFF80).isNan = false := by decide +kernel

/-- Patterns of both widths: a NaN, zeros, a one, two places that a product of exponents below one meets; words in two orders. -/
theorem witness_LevelIndexAndReductionResults :
    (0x07FFFFFF < 2 ^ (27 + 5) ∧ decodeSl 27 0x07FFFFFF = .nan ∧ decodeSl 11 0x8000 = .zero true ∧ decodeSl 27 0 = .zero false
      ∧ decodeSl 27 0x08000000 = .fin false ⟨false, 0⟩ ∧ decodeSl 27 0x88000000 = .fin true ⟨false, 0⟩
      ∧ decodeSl 27 0x0C000000 = .fin false ⟨false, 0x04000000⟩ ∧ 0x04000000 < 2 ^ 27 ∧ slPlace (decodeSl 27 0x0C000000) ≠ 0)
      ∧ [(1, true), (2, false)].Perm [(2, false), (1, true)] ∧ Mode.etype 4 = .int ⟨8, true⟩ ∧ Mode.etype 6 = .float fp32
      ∧ Mode.etype 11 = .sl 27 ∧ Mode.etype 12 = .sl 11 :=
  ⟨by decide +kernel, .swap .., by decide +kernel⟩

/-- A coach's lanes in fp32; sums of a NaN, of infinities, and of zeros below; VSFU of a zero, of powers of two and of 3. -/
theorem witness_FloatExceptionalResults_sums :
    Mode.etype 6 = .float fp32 ∧ (fp32.decode false 0x7FC00000).isNan = true ∧ fp32.decode false 0x7F800000 = .inf false
      ∧ fp32.decode false 0x80000000 = .zero true ∧ sfuTable .rcp (.zero true) = some (0xFF800000, fDZ)
      ∧ (isPow2 ⟨3, 1⟩ = false ∧ (fp32.encode 0 false false (.fin ⟨1, 3⟩)).2 &&& (fOF ||| fUF) = 0)
      ∧ (Mode.ftz 6 = Mode.ftz 0x26 ∧ Mode.sat 6 = Mode.sat 0x26) := by decide +kernel

theorem witness_FloatExceptionalResults :
    fp32 ∈ floats ∧ fp16 ∈ floats ∧ fp32.decode false 0x7FC00000 = .nan false ∧ fp16.decode true 0x7C01 = .nan true
      ∧ fp32.decode false 0x7F800000 = .inf false ∧ fp32.decode false 0xFF800000 = .inf true ∧ fp32.decode true 0x80000001 = .zero true
      ∧ fp32.decode false 0 = .zero false ∧ fp32.decode false 0x3F800000 = .fin ⟨2 ^ 23, 2 ^ 23⟩ :=
  by decide +kernel

/-- A guard that no lane meets, and lanes 0 to 7 active: VTOS of an inactive lane, of the lowest active one, and of lane 7. -/
def coachIdle : Coach := { coachU with mode := 0x400 }
def issIdle : Iss := slot0 coachIdle (carr .U 0xFF)

theorem witness_VmembAndVtosComplete :
    issuer (world coachIdle) = some issIdle ∧ activeOf issIdle.c issIdle.k = 0 ∧ issuer (world coachU) = some issU
      ∧ (31 < 32 ∧ (activeOf issU.c issU.k).getLsbD 31 = false) ∧ (7 < 32 ∧ (activeOf issU.c issU.k).getLsbD 7 = true)
      ∧ (0 < 32 ∧ (activeOf issU.c issU.k).getLsbD 0 = true ∧ ∀ j, j < 0 → (activeOf issU.c issU.k).getLsbD j = false)
      ∧ queueTrap issU.c issU.k (.vtos 1 1 7) 7 = none ∧ queueTrap issU.c issU.k (.vtos 1 1 32) 0 = none :=
  by decide +kernel

theorem witness_WidAndLidWriteEveryLane :
    issuer (world coachU) = some issU ∧ (∀ l ∈ lanesOf issU.k.lanes, queueTrap issU.c issU.k (.wid 255 6) l = none)
      ∧ (∀ l ∈ lanesOf issU.k.lanes, queueTrap issU.c issU.k (.wid 255 5) l = none) ∧ (5 : BitVec 4).toNat ≤ 5
      ∧ launchOf (world coachU) issU.c.launch = some errand ∧ (8 ≤ (13 : BitVec 4).toNat ∧ (13 : BitVec 4).toNat ≤ 13) ∧ errand.extent 5 < 2 ^ 32
      ∧ ∀ l ∈ lanesOf issU.k.lanes, queueTrap issU.c issU.k (.lid 255 5) l = none := by decide +kernel

end Sys2Proof.Tests
end

