-- ==== Sys2Proof/Tests/WitnessTraps.lean ====
section
/-! SUPPORT. States and operands that meet the hypotheses of the statements about waits, exits, traps and the system registers. -/

namespace Sys2Proof.Tests

set_option Elab.async false

open Sys2Proof.Machine Sys2Proof.Rules

/-- A load of a byte, outstanding. -/
def aLoad (id : Nat) (p : Piece) : Op := { id := id, counter := .ld, kind := .load, pieces := [p] }

/-- A coach with a load outstanding, and one whose lane 3 holds an error of a load. -/
def coachL : Coach := { coachU with ops := [aLoad 0 { lane := 0, addr := 0x2000, va := 0x2000, size := 4, dst := .vec [.reg 5] 32 false }], nextOp := 1 }
def coachE : Coach := { coachU with pend := [(3, { cause := 0x20, addr := 0x2000, load := true })] }
def issL : Iss := slot0 coachL (carr .U 0xFF)
def issE : Iss := slot0 coachE (carr .U 0xFF)

/-- WAIT with ld at 1 (met) and at 0 (not met) while one load is outstanding; WAITC and WAITG, met and not met. -/
theorem witness_WaitsEndOrBlock :
    issuer (world coachL) = some issL ∧ (issL.c.ops.filter fun o => o.counter = .ld).length = 1 ∧ issL.c.pend = []
      ∧ issuer (world coachE) = some issE ∧ issE.c.ops = []
      ∧ (∀ l, l < 32 → issE.k.lanes.getLsbD l = true → ∀ e, mget issE.c.pend l = some e → (⟨false, true, none, 0⟩ : Covers).covers e = false)
      ∧ (let o : Op := { aLoad 0 { lane := 0, addr := 0, va := 0, size := 4 } with counter := .cp, cart := 2, kind := .copy 7 }
        ¬∀ q ∈ [o], q.counter = .cp → q.cart ≤ 2 → 3 ≤ q.cart)
      ∧ (let o : Op := { aLoad 0 { lane := 0, addr := 0, va := 0, size := 4 } with counter := .tag 7 }
        ([o].filter fun o => o.counter = .tag 7).length ≠ 0) := by
  refine ⟨by decide +kernel, by decide +kernel, rfl, by decide +kernel, rfl, ?_, by decide +kernel, by decide +kernel⟩
  intro l _ _ e h
  by_cases h3 : l = 3
  · subst h3; cases h; rfl
  · have : mget issE.c.pend l = none := by simp [issE, slot0, coachE, mget, Ne.symm h3]
    simp_all

/-- A lane with an error of a load; one with an error of a copy of cart 2, which stands failed and tagged. -/
def coachCart : Coach := { coachU with cart := 3, pend := [(3, { cause := 0x20, addr := 0x2000, copy := some 2, tags := 4 })] }
def issCart : Iss := slot0 coachCart (carr .U 0xFF)
def failedCopy : Copy :=
  { id := 7, train := 1, chan := 0, issuer := some (0, 1), ctx := { vmid := 0, pasid := 0, hyp := false }, ch := 0, core := 0, form := .one
    len := 64, total := 64, src := .glob 0, dst := .buf 1 0 0, phase := 4, lanes := 8 }

theorem witness_CoveredErrorsTrapAtTheWait :
    issuer (world coachE) = some issE ∧ waitMet issE.c 0 63 63 63 = true
      ∧ issuer (world coachCart) = some issCart ∧ cartsDone issCart.c (readS issCart.c issCart.k 2).toNat = true ∧ tagsFree issCart.c 4 = true
      ∧ (mget issCart.c.pend 3).any (⟨false, false, some 2, 0⟩ : Covers).covers = true
      ∧ (mget issCart.c.pend 3).any (⟨false, false, none, 4⟩ : Covers).covers = true
      ∧ failedCopy.phase = 4 ∧ failedCopy.issuer = some (issCart.c.key, 1) ∧ failedCopy.lanes.getLsbD 3 = true
      ∧ (trainOf (world coachCart) failedCopy.train).isSome = true
      ∧ ((lanesOf issE.k.lanes).filter fun l => (mget issE.c.pend l).any (⟨true, false, none, 0⟩ : Covers).covers) = [3]
      ∧ reportWaits (world coachE) issE.c issE.k [{ lane := 3, cause := 0x20, addr := 0x2000 }] = false := by decide +kernel

/-- Lanes 0 to 7 exit while lane 31 lives in the siding. -/
def coachX : Coach := { coachU with exited := 0x7FFFFF00, siding := [{ pc := 0x1004, lanes := 0x80000000 }] }
def issX : Iss := slot0 coachX (carr .U 0xFF)

theorem witness_ExitRemovesItsLanes :
    issuer (world coachX) = some issX ∧ orderly issX.c ∧ issX.k.level = .U ∧ issX.c.ops = [] ∧ issX.c.pend = [] ∧ issX.c.ports = []
      ∧ issX.c.exited ||| issX.k.lanes ≠ BitVec.allOnes 32
      ∧ issuer (world coachU) = some issU ∧ issU.c.exited ||| issU.k.lanes = BitVec.allOnes 32 ∧ mayEnd issU.c := by
  unfold orderly mayEnd; decide +kernel

/-- Lane 3 holds a pending error, and lane 5 an older one and a failed write of port 2. -/
def coachF : Coach :=
  { coachU with
    pend := [(3, { cause := 0x20, addr := 0x2000, load := true, stamp := 4 }), (5, { cause := 0x20, addr := 0x2000, load := true, stamp := 4 })]
    ports := [(2, { dir := .outbound, faults := [(5, { cause := 7, addr := 0x40, write := true, stamp := 3 })] })] }
def issF : Iss := slot0 coachF (carr .U 0xFF)

theorem witness_ExitWaitsForWhatIsOutstanding :
    (issuer (world coachL) = some issL ∧ issL.k.level = .U ∧ ∃ o ∈ issL.c.ops, o.counter = .ld)
      ∧ (∃ p f, (2, p) ∈ coachF.ports ∧ failedWrite p 5 = some (0, f) ∧ f.stamp = 3) ∧ (mget coachF.pend 5).isSome = true
      ∧ (∀ q p, (q, p) ∈ coachF.ports → failedWrite p 3 = none)
      ∧ let ts := (lanesOf issF.k.lanes).filterMap (exitTrap issF.c)
        issuer (world coachF) = some issF ∧ issF.k.level = .U ∧ issF.c.ops = [] ∧ ts.map LaneTrap.lane = [3, 5]
          ∧ reportWaits (world coachF) issF.c issF.k ts = false := by
  refine ⟨⟨by decide +kernel, rfl, _, .head _, rfl⟩, ⟨_, _, .head _, rfl, rfl⟩, rfl, fun q p h => ?_, by decide +kernel⟩
  simp only [coachF, List.mem_singleton, Prod.mk.injEq] at h
  rw [h.2]
  decide

theorem witness_CallsAndPrivilegeViolationsTrap :
    issuer (world coachU) = some issU ∧ issU.k.lanes ≠ 0 ∧ issU.k.level = .U ∧ ¬mayReach .U (0x100 : BitVec 10).toNat
      ∧ issuer (world coachS) = some issS ∧ issS.k.lanes ≠ 0 ∧ issS.k.level = .S ∧ 3 ≤ (3 : BitVec 3).toNat
      ∧ ¬mayReach .S (0x200 : BitVec 10).toNat := by
  refine ⟨issuer_U, by decide, rfl, by simp [mayReach], issuer_S, by decide, rfl, by decide, by simp [mayReach]⟩

/-- A trap to S; one to H because the S frame is busy; one where the H frame is busy too; one that the host is told of. -/
def coachB (l : List Frame) : Coach := { coachU with frames := l.mapIdx fun i f => (i, f) }
def busyFrame : Frame := { busy := true }
def aTrap (cause : Nat) : LaneTrap := { lane := 7, cause := cause, addr := 0x40 }

theorem witness_TrapEntersTheTargetLevel :
    orderly coachU ∧ mget coachU.slots 0 = some (carr .U 0xFF) ∧ trapsOfCarriage (carr .U 0xFF) [aTrap 1]
      ∧ ¬((∃ t ∈ [aTrap 1], aimsHigh (carr .U 0xFF) t) ∨ blockedFrame (frameOf coachU 0 .S))
      ∧ blockedFrame (frameOf (coachB [busyFrame]) 0 .S) ∧ ¬blockedFrame (frameOf (coachB [busyFrame]) 0 .H)
      ∧ blockedFrame (frameOf (coachB [busyFrame, busyFrame]) 0 .H)
      ∧ reported (world coachU) coachU (carr .U 0xFF) [aTrap 1] = false
      ∧ reported { world coachU with chassis := [(0, { ground with duty := 1 })] } coachU (carr .U 0xFF)
          [{ aTrap 4 with stage := 1 }] = true := by
  refine ⟨orderly_U, by decide, ?_, ?_, ?_, ?_, ?_, by decide +kernel, by decide +kernel⟩ <;>
    simp [trapsOfCarriage, aTrap, aimsHigh, carr, blockedFrame] <;> decide +kernel

/-- A trap carriage at S, at depth 0 and at depth 7; lanes 0 to 7 trapped. -/
def coachR : Coach :=
  { crew .S 0xFF with
    exited := 0, siding := [{ pc := 0x44, lanes := 0xFFFFFF00 }]
    frames := [(0, { busy := true, tpc := 0x40, npc := 0x44, traps := [(0, 0xFF)] })] }
def issR : Iss := slot0 coachR (carr .S 0xFF)

/-- The same on a frame that is re-armed, with no other lane left; and one for which lane 3 has trapped at a queue port. -/
def coachN : Coach :=
  { crew .S 0xFF with frames := [(0, { busy := true, rearmed := true, depth := 1, tpc := 0x40, npc := 0x44, traps := [(0, 0xFF), (1, 0)] })] }
def coachP : Coach :=
  { coachR with
    ports := [(0, { dir := .inbound, faults := [(elemKey 0 3, { cause := 0x20, addr := 0x40, write := false, called := true })], filled := 1 }),
      (1, { dir := .outbound, faults := [(elemKey 2 3, { cause := 0x20, addr := 0x40, write := true, called := true, data := 9 })], filled := 3 })] }

/-- A resume mask of all ones sends every trap lane out. -/
theorem witness_TretResolvesTheTrapLanes :
    issuer (world coachR) = some issR ∧ orderly issR.c ∧ issR.k.level ≠ .U ∧ issR.k.rep = none
      ∧ (let f := frameOf issR.c issR.k.fslot issR.k.level
        f.rearmed = false ∧ (rget f.traps f.depth &&& ~~~issR.c.exited) &&& ~~~issR.k.lanes = 0)
      ∧ issR.c.ports = [] ∧ issR.c.exited ||| 0xFF ≠ BitVec.allOnes 32 ∧ launchOf (world coachR) issR.c.launch = some errand
      ∧ (let x := slot0 coachN (carr .S 0xFF)
        let g := frameOf x.c x.k.fslot x.k.level
        issuer (world coachN) = some x ∧ orderly x.c ∧ g.rearmed = true ∧ g.depth ≠ 0 ∧ x.c.exited ||| 0xFF = BitVec.allOnes 32 ∧ mayEnd x.c)
      ∧ (let x := slot0 coachP (carr .S 0xFF)
        issuer (world coachP) = some x ∧ orderly x.c ∧ (x.c.ports.map Prod.fst).Nodup
          ∧ Level.ofCode ((frameOf x.c x.k.fslot x.k.level).fmisc.toNat % 4) = .U
          ∧ (mget (portOf x.c 0).faults (elemKey 0 3)).any QFault.called = true ∧ (portOf x.c 0).posOf 3 = 0
          ∧ (mget (portOf x.c 1).faults (elemKey 2 3)).any QFault.write = true) := by
  unfold orderly mayEnd; decide +kernel

theorem witness_XrdAndXwrReachTheRegisters :
    issuer (world coachH) = some issH ∧ coachOf (world coachH) issH.c.key = some issH.c ∧ mayReach issH.k.level (0x221 : BitVec 10).toNat
      ∧ writable (0x221 : BitVec 10).toNat = some 0x000FFFFFFFFFF001 ∧ (6 : BitVec 10).toNat ∈ [1, 2, 3, 4, 5, 6, 0x101, 0x103, 0x104, 0x201, 0x203, 0x204]
      ∧ issuer (world coachU) = some issU ∧ mayReach issU.k.level (0 : BitVec 10).toNat ∧ writable (0 : BitVec 10).toNat = some 0xFF :=
  ⟨issuer_H, by decide +kernel, Or.inr (Or.inr rfl), by decide +kernel, by decide +kernel, issuer_U, Or.inl (by decide), by decide +kernel⟩

/-- A write of sv.teardown at H, with none under way and with one. -/
theorem witness_XrdAndXwrReachTheRegisters_teardown :
    mayReach issH.k.level (0x121 : BitVec 10).toNat ∧ (world coachH).teardown = none
      ∧ let s : State := { world coachH with teardown := some 3 }
        issuer s = some issH ∧ coachOf s issH.c.key = some issH.c ∧ s.teardown ≠ none :=
  ⟨Or.inr (Or.inr rfl), by decide +kernel⟩

theorem witness_StatusNestRearmsTheFrame :
    issuer (world coachS) = some issS ∧ coachOf (world coachS) issS.c.key = some issS.c ∧ issS.k.level ≠ .U
      ∧ (0x100 : BitVec 10).toNat = (if issS.k.level = .S then 0x100 else 0x200)
      ∧ issuer (world coachH) = some issH ∧ issH.k.level ≠ .U ∧ coachOf (world coachH) issH.c.key = some issH.c
      ∧ (0x200 : BitVec 10).toNat = (if issH.k.level = .S then 0x100 else 0x200) := by decide +kernel

/-- SLEEP of 1 with no wake set, at its wake, and SLEEP 0; SCOPEW with none in progress, and with its own done; TLBINV of kinds 2 at S and 6 at H. -/
theorem witness_TimeAndBlockingInstructionsComplete :
    issuer (world coachU) = some issU ∧ issU.k.wake = 0 ∧ (1 : BitVec 16) ≠ 0
      ∧ (let k : Carriage := { carr .U 0xFF with wake := 1 }
        let s : State := { world { coachU with slots := [(0, k)] } with chassis := [(0, { ground with clk := 1 })] }
        issuer s = some (slot0 { coachU with slots := [(0, k)] } k) ∧ k.wake ≠ 0 ∧ k.wake ≤ (chassisOf s 0).clk)
      ∧ issuer (world coachS) = some issS ∧ issS.k.level ≠ .U ∧ issS.c.scopews = [] ∧ (2 : BitVec 3).toNat < 3
      ∧ (let w : ScopeWrite := { n := 6, mask := 1, lanes := 0xFF, stamp := 0, done := true, pc := 0x1000, level := .S }
        let c : Coach := { coachS with scopews := [w] }
        issuer (world c) = some (slot0 c (carr .S 0xFF)) ∧ w ∈ c.scopews ∧ w.lanes &&& ~~~(carr .S 0xFF).lanes = 0 ∧ w.done = true
          ∧ w.pc = (carr .S 0xFF).pc ∧ w.level = .S ∧ ({ w with done := false } : ScopeWrite).done = false)
      ∧ issuer (world coachH) = some issH ∧ issH.k.level ≠ .U ∧ issH.k.level ≠ .S := by decide +kernel

/-- A bay of this entry with room, no bay, and eight bays of other entries. -/
def bay (entry : W64) (n : Nat) : Bay :=
  { entry := entry, launch := 2, vmid := 0, recs := List.replicate n { payload := 0, wid := 0, train := 1 }, deadline := 5 }

theorem witness_SpawnDepositsRecords :
    issuer (world coachU) = some issU ∧ issU.k.level = .U ∧ issU.k.spawned = 0 ∧ issU.k.spawn = none
      ∧ (∀ l ∈ lanesOf (activeOf issU.c issU.k), queueTrap issU.c issU.k (.spawn 1 2) l = none)
      ∧ ((lanesOf (activeOf issU.c issU.k)).foldl (fun (o : Option State) l => o.bind fun t =>
          deposit t issU.c (readPair issU.c issU.k l 1) (readPair issU.c issU.k l 2) (rget issU.c.workId l)) (some (world coachU))).isSome = true
      ∧ (let b := bay 0x40 31
        (7 < 8) ∧ b.entry = 0x40 ∧ b.launch = coachU.launch ∧ b.recs.length < 32 ∧ b.expired = false)
      ∧ (coreOf (world coachU) 0 0).bays = []
      ∧ (let full : Core := { coreOf (world coachU) 0 0 with bays := (List.range 8).map fun i => (i, bay 0x80 32) }
        deposit ((world coachU).setCore 0 0 full) coachU 0x40 0 0 = none)
      ∧ ((List.range 8).all fun i => decide ((bay 0x80 0).entry ≠ 0x40 ∧ i < 8)) = true ∧ ¬(bay 0x40 32).recs.length < 32 := by
  decide +kernel

end Sys2Proof.Tests
end

