-- ==== Sys2Proof/Tests/WitnessMemory.lean ====
section
/-! SUPPORT. States and operands that meet the hypotheses of the statements about memory: checks, issue, performance, caches and fences. -/

namespace Sys2Proof.Tests

set_option Elab.async false

open Sys2Proof.Machine Sys2Proof.Rules

/-- Core 0's own context at U, and an asker in it. -/
def ctx0 : Ctx := { vmid := 0, pasid := 0, hyp := false }
def asker0 : Asker := askerOf coachU 0 (carr .U 0xFF)

/-- The machine whose identity translation lets nothing be written. -/
def readOnly : State :=
  { world coachU with chassis := [(0, { ground with cores := [(0, { tlb := [{ flat ctx0 with s1 := { (flat ctx0).s1 with w := false } }] })] })] }

/-- The machine without a translation, and one with a trained peer port 0. -/
def untold : State := { world coachU with chassis := [(0, { cacheOn := true })] }
def peered : State := { world coachU with chassis := [(0, ground), (1, { cacheOn := true, peer := { state := 1 } })] }

def want (a : Acc) (n : Nat) : Want := { acc := a, size := n }

theorem witness_AccessChecksComeInOrder :
    (0 < (want .read 16).size ∧ 2 ^ 56 ≤ (0x0100000000000000 : W64).toNat)
      ∧ ((0x00FFFFFFFFFFFFFF : W64).toNat < 2 ^ 56 ∧ ¬2 ∣ (0x00FFFFFFFFFFFFFF : W64).toNat)
      ∧ ((0x2000 : W64).toNat < 2 ^ 56 ∧ 16 ∣ (0x2000 : W64).toNat)
      ∧ (match translate readOnly asker0 .write 0x2000 with | .fault f => f.cause == 5 | _ => false) = true
      ∧ (match translate untold asker0 .read 0x2000 with | .miss _ => true | _ => false) = true
      ∧ translate (world coachU) asker0 .read 0x2000 = .pa 0x2000 {} ∧ regionOf 0x2000 = .dram ∧ (resolve 0x2000).isSome = true
      ∧ translate (world coachU) asker0 .read 0x0000030000000000 = .pa 0x0000030000000000 {} ∧ regionOf 0x0000030000000000 = .reserved
      ∧ translate (world coachU) asker0 .read 0x0000020000000000 = .pa 0x0000020000000000 {} ∧ regionOf 0x0000020000000000 = .control
      ∧ (want .read 4).control = true ∧ (want .read 8).size = 8 ∧ (want .read 2).size ≠ 4
      ∧ ({ want .read 4 with control := false, windows := false } : Want).control = false
      ∧ translate (world coachU) asker0 .read 0x0008000000000000 = .pa 0x0008000000000000 {} ∧ regionOf 0x0008000000000000 = .host
      ∧ (want .read 4).windows = true
      ∧ translate peered asker0 .read 0x000C000000000000 = .pa 0x000C000000000000 {} ∧ regionOf 0x000C000000000000 = .peer 0
      ∧ peerTrained peered 0 = true ∧ peerTrained (world coachU) 0 = false := by decide +kernel

/-- Window accesses: below the window, beyond its end, misaligned within, and its last word. -/
theorem witness_AccessChecksComeInOrder_windows :
    (ownWindow (world coachU) coachU 1).2 = 0x40000 ∧ (-4 : Int) < 0 ∧ (0x40000 : Int) < 0x3FFFD + 4
      ∧ ((0 : Int) ≤ 0x3FFFA ∧ (0x3FFFA : Int) + 4 ≤ 0x40000 ∧ ¬(4 : Int) ∣ 0x3FFFA)
      ∧ ((0 : Int) ≤ 0x3FFFC ∧ (0x3FFFC : Int) + 4 ≤ 0x40000 ∧ (4 : Int) ∣ 0x3FFFC) := by decide +kernel

/-- All active lanes pass; some trap (an address beyond 2^56); a lane waits for a walk. -/
def coachV (v : RMap 32) : Coach := { coachU with v := v }
def issV (v : RMap 32) : Iss := slot0 (coachV v) (carr .U 0xFF)

/-- Whether every active lane of a memory instruction passes its checks, and some lane is active. -/
def issues (s : State) (x : Iss) (i : Instr) : Bool :=
  match laneMem i with
  | some r =>
    !reservedLit i && !(passing r i s x).isEmpty && (trapping r i s x).isEmpty
      && ((lanesOf (activeOf x.c x.k)).all fun l => match endOf r i s x l with
        | .miss _ => false
        | _ => true)
  | none => false

/-- Each form of the table issues; a fence holds one; an address beyond 2^56 traps; a lane waits for a walk. -/
theorem witness_MemoryInstructionsIssueTheirAccesses :
    issuer (world (coachV [])) = some (issV [])
      ∧ (∀ i ∈ ([.vld8s 5 1 0, .vld8z 5 1 0, .vld16s 5 1 0, .vld16z 5 1 0, .vld32 5 1 0, .vld64 5 1 0, .vld128 5 1 0, .vst8 5 1 0,
          .vst16 5 1 0, .vst32 5 1 0, .vst64 5 1 0, .vst128 5 1 0] : List Instr), issues (world (coachV [])) (issV []) i = true)
      ∧ (∀ i ∈ ([.ald32 5 1 0, .ald128 5 1 0, .ast32 5 1 0, .ast128 5 1 0, .cld64 5 1 0, .cst64 5 1 0, .vlda 5 1 0, .vstl 5 1 0]
          : List Instr), issues (world (coachV [])) (issV []) i = true)
      ∧ (∀ i ∈ ([.vatom 5 1 3 0x1000, .vcas 5 1 3 0, .mred 1 3 0, .mcas 5 1 3 0, .msax 5 1 3 0, .mwrm 5 1 3 0] : List Instr),
          issues (world (coachV [])) (issV []) i = true)
      ∧ (let c : Coach := { coachV [] with hold := true }
        issuer (world c) = some (slot0 c (carr .U 0xFF)) ∧ issues (world c) (slot0 c (carr .U 0xFF)) (.vld32 5 1 0) = true ∧ c.hold = true)
      ∧ (∃ r, laneMem (.vst128 5 1 0) = some r
        ∧ trapping r (.vst128 5 1 0) (world (coachV [(64, 0xFFFFFFFF)])) (issV [(64, 0xFFFFFFFF)]) ≠ []
        ∧ issuer (world (coachV [(64, 0xFFFFFFFF)])) = some (issV [(64, 0xFFFFFFFF)]))
      ∧ ∃ r, laneMem (.vld32 5 3 0) = some r
        ∧ (match endOf r (.vld32 5 3 0) untold issU 0 with | .miss _ => true | _ => false) = true ∧ issuer untold = some issU
        ∧ 0 ∈ lanesOf (activeOf issU.c issU.k) :=
  ⟨by decide +kernel, by decide +kernel, by decide +kernel, by decide +kernel, by decide +kernel, ⟨_, rfl, by decide +kernel⟩,
    ⟨_, rfl, by decide +kernel⟩⟩

/-- The world of a coach in which core 0 owns the line 0x40. -/
def ownedBy (c : Coach) : State :=
  { world c with
    chassis := [(0, { ground with
      cache := [(0x40, { bytes := (List.range 128).map fun i => (i, cget (world coachU).dram (0x2000 + i)), owner := some 0 })]
      cores := [(0, { tlb := [flat { vmid := 0, pasid := 0, hyp := false }], holder := some 1
                      l1 := [(0x40, { bytes := (List.range 128).map fun i => (i, cget (world coachU).dram (0x2000 + i)), owned := true })] })] })] }

/-- Whether a scalar access passes its checks. -/
def issuesOne (s : State) (x : Iss) (i : Instr) : Bool :=
  match scalarMem i with
  | some r =>
    (match r.check s x 32 with
    | .ok _ _ _ => !reservedLit i
    | _ => false)
  | none => false

theorem witness_ScalarAccessesIssueOnce :
    issuer (world coachU) = some issU
      ∧ (∀ i ∈ ([.sld32 5 3 0, .sld64 5 3 0, .sst32 5 3 0, .sst64 5 3 0, .satom 5 3 2 0x1000] : List Instr),
          issuesOne (world coachU) issU i = true)
      ∧ (issuer (ownedBy coachU) = some issU ∧ issuesOne (ownedBy coachU) issU (.sst32 5 3 0) = true
        ∧ l1Holds (ownedBy coachU) 0 0x2000 4 = true ∧ openStores (ownedBy coachU) 0 = [] ∧ l1Owns (ownedBy coachU) 0 0x40 = true
        ∧ (cacheLine (ownedBy coachU) 0x40).bind CacheLine.owner = some 0)
      ∧ (let c : Coach := { coachU with hold := true }
        issuer (world c) = some (slot0 c (carr .U 0xFF)) ∧ issuesOne (world c) (slot0 c (carr .U 0xFF)) (.sst32 5 3 0) = true ∧ c.hold = true)
      ∧ (∃ r, scalarMem (.sst64 5 3 0) = some r
        ∧ (match r.check untold issU 32 with | .miss _ => true | _ => false) = true ∧ issuer untold = some issU
        ∧ (match r.check readOnly issU 32 with | .trap t => t.cause == 5 | _ => false) = true ∧ issuer readOnly = some issU)
      ∧ issU.k.lanes ≠ 0 :=
  ⟨issuer_U, by decide +kernel, by decide +kernel, by decide +kernel, ⟨_, rfl, by decide +kernel⟩, by decide⟩

theorem witness_ReservedLiteralsTrap :
    reservedLit (.vatom 1 2 3 0x2000) = true ∧ reservedLit (.satom 0 2 3 10) = true ∧ issuer (world coachU) = some issU
      ∧ activeOf issU.c issU.k ≠ 0 ∧ issuer (world coachIdle) = some issIdle ∧ activeOf issIdle.c issIdle.k = 0 := by decide +kernel

/-- A store of coach `c` to local memory, outstanding, and a coach behind it. -/
def aStore (id : Nat) (a : Nat) : Op :=
  { id := id, counter := .st, kind := .store, stamp := 5, pieces := [{ lane := 0, addr := a, va := BitVec.ofNat 64 a, size := 4, data := 0x01020304 }] }
def coachW : Coach := { coachU with ops := [aStore 0 0x2000], nextOp := 1 }
def issW : Iss := slot0 coachW (carr .U 0xFF)

/-- No operation is open: met at the narrow scope 0 and the wide scope 5; a store is open: not met. -/
theorem witness_FencesEndOrBlock :
    issuer (world coachU) = some issU ∧ issU.c.fences = [] ∧ issU.c.ops = []
      ∧ scopeWide issU.c (scopeCores (world coachU) issU.c 0) = false ∧ scopeWide issU.c (scopeCores (world coachU) issU.c 5) = true
      ∧ (∀ e ∈ (world coachU).coaches, e.2.ops = [])
      ∧ issuer (world coachW) = some issW ∧ ∃ o ∈ issW.c.ops, o.fenced = true ∧ ¬(world coachW).nextId ≤ o.stamp :=
  ⟨issuer_U, rfl, rfl, by decide +kernel, by decide +kernel, by decide +kernel, by decide +kernel, _, .head _, by decide +kernel⟩

/-- The first access of the first operation of the coach at handle 0. -/
def first : OpRef := ⟨0, 0, 0, 0⟩

/-- The machine with one access outstanding. -/
def pending (o : Op) (p : Piece) : State := world { coachU with ops := [{ o with pieces := [p] }], nextOp := 1 }
def site (o : Op) (p : Piece) : Site1 := { c := { coachU with ops := [{ o with pieces := [p] }], nextOp := 1 }, o := { o with pieces := [p] }, p := p }

/-- Whether an access can be performed now: it is the one named, of a coach with live lanes, in order and reachable. -/
def due (s : State) (x : Site1) : Bool :=
  decide (accessOf s first = some x) && decide (x.c.key = first.key) && decide (x.c.exited ≠ BitVec.allOnes 32) && inOrder s x
    && decide (reachOf s x.c x.p = .now) && decide (reachSite s x = .now)

def ldOp : Op := { id := 0, counter := .ld, kind := .load, pieces := [] }
def stOp : Op := { id := 0, counter := .st, kind := .store, pieces := [] }
def at_ (sp : Space) (a n : Nat) : Piece := { lane := 7, space := sp, addr := a, va := BitVec.ofNat 64 a, size := n, dst := .vec [.reg 5] 32 false }

/-- The machine with an access outstanding to memory that the divided ring cuts off. -/
def cut (s : State) : State := { s with chassis := [(0, { ground with east := { state := 3 } }), (15, { cacheOn := true, east := { state := 3 } })] }
def afar (p : Piece) : Piece := { p with addr := 8 * 2 ^ 36, va := 0x8000000000 }

theorem witness_AccessesArePerformed_cut :
    (let p := afar (at_ .mem 0 4);
      accessOf (cut (pending ldOp p)) first = some (site ldOp p) ∧ (site ldOp p).c.key = first.key
        ∧ (site ldOp p).c.exited ≠ BitVec.allOnes 32 ∧ p.phase = 0 ∧ inOrder (cut (pending ldOp p)) (site ldOp p) = true
        ∧ reachSite (cut (pending ldOp p)) (site ldOp p) = .never) := by decide +kernel

/-- Loads from the last bytes of a line, from a buffer, from the host and from a peer, and one whose value has come. -/
theorem witness_AccessesArePerformed_loads :
    let s := pending ldOp (at_ .mem 0x207C 4);
    (due s (site ldOp (at_ .mem 0x207C 4)) = true ∧ 0x207C % 32 + 4 ≤ 32 ∧ l1Holds s 0 0x207C 4 = false
      ∧ needsCells (recallLine s (lineOf 0x207C)) 0x207C 4 = true
      ∧ due (pending ldOp (at_ (.buf 1 0) 0x1FFFFC 4)) (site ldOp (at_ (.buf 1 0) 0x1FFFFC 4)) = true
      ∧ due (pending ldOp (at_ .host 0 4)) (site ldOp (at_ .host 0 4)) = true
      ∧ accessOf (pending ldOp { at_ .mem 0x2000 4 with phase := 1, result := 7 }) first
        = some (site ldOp { at_ .mem 0x2000 4 with phase := 1, result := 7 }))
      ∧ hasWay s (lineOf 0x207C) ∧ hasL1Way s 0 (lineOf 0x207C) ∧ coherent s ∧ busesUp s ∧ quiet s := by
  intro s
  exact ⟨by decide +kernel, .inr (by decide +kernel), .inl (by decide +kernel), serene (by decide +kernel)⟩

/-- A load that the L1 serves. -/
theorem witness_AccessesArePerformed_l1 :
    let p := at_ .mem 0x2000 4;
    let s : State := { pending ldOp p with chassis := [(0, { ground with
      cores := [(0, { l1 := [(0x40, { bytes := (List.range 32).map fun i => (i, 0) })] })] })] }
    due s (site ldOp p) = true ∧ mayHit s (site ldOp p) = true ∧ l1Holds s 0 0x2000 4 = true := by decide +kernel

/-- Stores to memory, in part of a sector past the caches, to a buffer, to the host and to a peer, and one that the L1 has performed. -/
theorem witness_AccessesArePerformed_stores :
    (let p := at_ .mem 0x207C 4
      let z := { p with attr := { cp := 3 } };
      (due (pending stOp p) (site stOp p) = true ∧ storeHeld (pending stOp p) (site stOp p) = false
        ∧ l1Owns (pending stOp p) 0 (lineOf 0x207C) = false
        ∧ (∀ q ∈ (site stOp p).o.pieces, together (site stOp p) q = true → 0 < q.size ∧ q.addr % 32 + q.size ≤ 32)
        ∧ due (pending stOp z) (site stOp z) = true ∧ writeToCells (pending stOp z) z.addr z.attr = true
        ∧ 0x2060 / 32 = z.addr / 32 ∧ ¬(z.addr ≤ 0x2060 ∧ 0x2060 < z.addr + z.size))
        ∧ hasWay (pending stOp p) (lineOf 0x207C) ∧ coherent (pending stOp p) ∧ busesUp (pending stOp p) ∧ quiet (pending stOp p))
      ∧ (let p := at_ (.buf 3 0) 0xFFFF8 8
        due (pending stOp p) (site stOp p) = true ∧ storeHeld (pending stOp p) (site stOp p) = false ∧ 3 ∈ [1, 2, 3])
      ∧ (let p := at_ .host 0 4
        due (pending stOp p) (site stOp p) = true ∧ storeHeld (pending stOp p) (site stOp p) = false)
      ∧ (let p := at_ .peer 0 4
        let s : State := { pending stOp p with chassis := [(0, { ground with east := { state := 1 } }), (1, { peer := { state := 1 } })] }
        due s (site stOp p) = true ∧ storeHeld s (site stOp p) = false)
      ∧ accessOf (pending stOp { at_ .mem 0 4 with phase := 1 }) first = some (site stOp { at_ .mem 0 4 with phase := 1 }) := by
  refine ⟨⟨by decide +kernel, ?_⟩, by decide +kernel⟩
  exact ⟨.inr (by decide +kernel), serene (by decide +kernel)⟩

theorem witness_AccessesArePerformed_registers :
    (3 < 4 ∧ 31 < 32 ∧ ({ at_ .mem 0 16 with lane := 31, dst := .vec ((List.range 4).map fun i => .reg (252 + i)) 32 false } : Piece).dst
        = .vec ((List.range 4).map fun i => .reg (252 + i)) 32 false)
      ∧ (({ at_ .mem 0 2 with dst := .vec [.reg 255] 16 true } : Piece).dst = .vec [.reg 255] (8 * 2) true ∧ 2 ≤ 2)
      ∧ (({ at_ .mem 0 1 with dst := .vec [.reg 0] 8 false } : Piece).dst = .vec [.reg 0] (8 * 1) false)
      ∧ ([{ ldOp with done := true }, { ldOp with id := 1 }].map Op.id).Nodup := by decide

/-- An atomic at the bank, at its home, and in a line that the L1 owns; one whose value returns. -/
def atOp : Op := { id := 0, counter := .ld, kind := .atomic 0 32, pieces := [] }
def atPiece (x : Site) : Piece := { at_ .mem 0x2000 4 with data := 0xFFFFFFFF, site := x }

/-- The line of the atomic, owned by core 0. -/
def owned (p : Piece) : State := ownedBy { coachU with ops := [{ atOp with pieces := [p] }], nextOp := 1 }

theorem coherent_owned (c : Coach) : coherent (ownedBy c) := by
  have hc : ∀ ln l, cacheLine (ownedBy c) ln = some l → ln = 0x40 ∧ l = { bytes := (List.range 128).map fun i => (i, cget (world coachU).dram (0x2000 + i)), owner := some 0 } := by
    intro ln l h
    by_cases e : lineDie ln = 0
    · by_cases e' : ln = 0x40
      · subst e'; refine ⟨rfl, ?_⟩
        have : cacheLine (ownedBy c) 0x40 = some { bytes := (List.range 128).map fun i => (i, cget (world coachU).dram (0x2000 + i)), owner := some 0 } := rfl
        rw [this] at h; exact (Option.some.inj h).symm
      · simp [cacheLine, chassisOf, ownedBy, e, mget, Ne.symm e'] at h
    · simp [cacheLine, chassisOf, ownedBy, mget, Ne.symm e] at h
  have hl : ∀ g ln l, l1Line (ownedBy c) g ln = some l → l = { bytes := (List.range 128).map fun i => (i, cget (world coachU).dram (0x2000 + i)), owned := true } := by
    intro g ln l h
    by_cases e : g / 16 = 0
    · by_cases e2 : g % 16 = 0
      · by_cases e' : ln = 0x40
        · subst e'
          simp [l1Line, coreG, coreOf, chassisOf, ownedBy, e, e2, mget] at h; exact h.symm
        · simp [l1Line, coreG, coreOf, chassisOf, ownedBy, e, e2, mget, Ne.symm e'] at h
      · simp [l1Line, coreG, coreOf, chassisOf, ownedBy, e, mget, Ne.symm e2] at h
    · simp [l1Line, coreG, coreOf, chassisOf, ownedBy, mget, Ne.symm e] at h
  refine ⟨fun ln l h => ?_, fun g ln l h => ?_, fun ln l i b h hb _ => ?_, fun ln l g h ho => ?_⟩
  · rw [(hc ln l h).2]; decide +kernel
  · rw [hl g ln l h]; decide +kernel
  · obtain ⟨rfl, rfl⟩ := hc ln l h
    have : i < 128 := by
      by_contra hi
      have hall : ((List.range 128).map fun i => (i, cget (world coachU).dram (0x2000 + i))).all (fun e => decide (e.1 < 128)) = true := by decide +kernel
      exact hi (by simpa using all_of_mget hall hb)
    have all : ∀ j, j < 128 → mget ((List.range 128).map fun i => (i, cget (world coachU).dram (0x2000 + i))) j
        = some (cget (world coachU).dram (0x2000 + j)) := by decide +kernel
    rw [all i this] at hb
    exact Option.some.inj hb
  · obtain ⟨rfl, rfl⟩ := hc ln l h
    cases ho; rfl

/-- A store in the line that core 0 owns. -/
theorem witness_AccessesArePerformed_owned :
    let p := at_ .mem 0x207C 4
    let c : Coach := { coachU with ops := [{ stOp with pieces := [p] }], nextOp := 1 };
    (due (ownedBy c) (site stOp p) = true ∧ storeHeld (ownedBy c) (site stOp p) = false ∧ l1Owns (ownedBy c) 0 0x40 = true
      ∧ (cacheLine (ownedBy c) 0x40).bind CacheLine.owner = some 0 ∧ l1Holds (ownedBy c) 0 0x207C 4 = true)
      ∧ coherent (ownedBy c) := by
  intro p c
  exact ⟨by decide +kernel, coherent_owned c⟩

theorem witness_AtomicsAndCommandsExecute_atomics :
    (let p := atPiece .bank;
      (due (pending atOp p) (site atOp p) = true ∧ atomSiteReady (pending atOp p) (site atOp p) = true
        ∧ p.addr % 32 + p.size ≤ 32 ∧ p.size = 32 / 8 ∧ p.data < 2 ^ 32 ∧ p.data2 < 2 ^ 32)
        ∧ coherent (pending atOp p) ∧ busesUp (pending atOp p) ∧ quiet (pending atOp p))
      ∧ (let p := atPiece .home;
        (due (pending atOp p) (site atOp p) = true ∧ atomSiteReady (pending atOp p) (site atOp p) = true) ∧ hasWay (pending atOp p) (lineOf p.addr))
      ∧ (let p := atPiece .l1;
        (due (owned p) (site atOp p) = true ∧ atomSiteReady (owned p) (site atOp p) = true ∧ l1Owns (owned p) 0 0x40 = true
          ∧ (cacheLine (owned p) 0x40).bind CacheLine.owner = some 0 ∧ l1Holds (owned p) 0 0x2000 4 = true
          ∧ memValue (owned p) 0x2000 4 = leNat (l1Bytes (owned p) 0 0x2000 4))
          ∧ coherent (owned p) ∧ busesUp (owned p) ∧ quiet (owned p))
      ∧ (let p : Piece := { atPiece .bank with phase := 1, result := 1 }
        accessOf (pending atOp p) first = some (site atOp p) ∧ reachSite (pending atOp p) (site atOp p) = .now)
      ∧ (let p : Piece := afar { atPiece .bank with phase := 1, result := 1 }
        accessOf (cut (pending atOp p)) first = some (site atOp p) ∧ reachSite (cut (pending atOp p)) (site atOp p) = .never) := by
  refine ⟨⟨by decide +kernel, serene (by decide +kernel)⟩, ⟨by decide +kernel, .inr (by decide +kernel)⟩, ⟨by decide +kernel, ?_⟩, by decide +kernel⟩
  exact ⟨coherent_owned _, buses_whole (by decide +kernel), quiet_of (by decide +kernel) (by decide +kernel)⟩

/-- A compare-and-swap command of 64 bits at the end of a sector, and its reply. -/
def cmdOp : Op := { id := 0, counter := .tag 7, kind := .cmd (.mcas 64), pieces := [] }
def cmdPiece : Piece := { at_ .mem 0x2018 8 with site := .bank }

theorem witness_AtomicsAndCommandsExecute_commands :
    let s := pending cmdOp cmdPiece;
    (due s (site cmdOp cmdPiece) = true ∧ behindCommand (site cmdOp cmdPiece).c (site cmdOp cmdPiece).o cmdPiece = false
      ∧ cmdPiece.addr % 32 + cmdSize (.mcas 64) ≤ 32
      ∧ (let p : Piece := { cmdPiece with phase := 1 }
        accessOf (pending cmdOp p) first = some (site cmdOp p) ∧ reachOf (pending cmdOp p) coachU p = .now ∧ p.err = none)
      ∧ (let p : Piece := afar { cmdPiece with phase := 1 }
        accessOf (cut (pending cmdOp p)) first = some (site cmdOp p) ∧ reachOf (cut (pending cmdOp p)) coachU p = .never))
      ∧ coherent s ∧ busesUp s ∧ quiet s := by
  intro s
  exact ⟨by decide +kernel, serene (by decide +kernel)⟩

/-- A line of which the chassis cache holds nothing; an L1 sector and a line that an access wants; lines to flush and to drop. -/
theorem witness_CachesKeepMemory :
    (let p := at_ .mem 0x2000 4
      let s := pending ldOp p;
      ((resolve 0x2000).map Home.wa = some 0x2000 ∧ lineDie 0x40 = 0 % 16 ∧ cacheOnAt s 0x40 = true ∧ needsCells s 0x2000 32 = true
        ∧ (p.phase = 0 ∧ p.space = .mem ∧ lineOf p.addr = 0x40 ∧ p.attr.allocates = true)
        ∧ wanted s (fillsL1 0 0x2000) = true ∧ l1Holds s 0 0x2000 32 = false ∧ openStores s 0 = []
        ∧ coreStoresOpen s 0 s.nextId { lane := 0, addr := 0x2000, va := 0, size := 32 } = false
        ∧ pathOpen s 0 0 = true ∧ reachable s 0 0 = true)
        ∧ hasWay s 0x40 ∧ hasL1Way s 0 0x40 ∧ coherent s ∧ busesUp s ∧ quiet s)
      ∧ (let p := atPiece .l1
        let s := pending atOp p;
        (wanted s (wantsLine 0 0x40) = true ∧ cacheOnAt s 0x40 = true ∧ (chassisOf s 0).parkState ≠ 1 ∧ l1Owns s 0 0x40 = false
          ∧ openStores s 0 = []
          ∧ ∀ i, i < 4 → coreStoresOpen s 0 s.nextId { lane := 0, addr := 0x40 * 128 + 32 * i, va := 0, size := 32 } = false)
          ∧ hasWay s 0x40 ∧ hasL1Way s 0 0x40 ∧ coherent s ∧ busesUp s ∧ quiet s)
      ∧ (let s := pending { stOp with kind := .cflush } (at_ .mem 0x2000 128)
        due s (site { stOp with kind := .cflush } (at_ .mem 0x2000 128)) = true ∧ coherent s ∧ busesUp s ∧ quiet s)
      ∧ (let s := pending { stOp with kind := .cinv } (at_ .mem 0x2000 128);
        (due s (site { stOp with kind := .cinv } (at_ .mem 0x2000 128)) = true ∧ l1Owns s 0 0x40 = false) ∧ coherent s ∧ busesUp s ∧ quiet s) := by
  have way : ∀ o p, hasWay (pending o p) 0x40 ∧ hasL1Way (pending o p) 0 0x40 := fun o p => ⟨.inr (show 0 < 12 by decide), .inl (show 0 < 16 by decide)⟩
  exact ⟨⟨by decide +kernel, (way _ _).1, (way _ _).2, serene (by decide +kernel)⟩, ⟨by decide +kernel, (way _ _).1, (way _ _).2, serene (by decide +kernel)⟩,
    ⟨by decide +kernel, serene (by decide +kernel)⟩, by decide +kernel, serene (by decide +kernel)⟩

end Sys2Proof.Tests
end

