-- ==== Sys2Proof/Tests/WitnessUnits.lean ====
section
/-! SUPPORT. States and operands that meet the hypotheses of the statements about outriders, copies and streams. -/

namespace Sys2Proof.Tests

set_option Elab.async false

open Sys2Proof.Machine Sys2Proof.Rules

/-- The machine at a turn of an outrider context with a port. -/
def porter (p : QPort) : Coach := { coachU with outr := { live := true, pc := 0x1000 }, ports := [(7, p)] }
def ported (p : QPort) : State := { world (porter p) with cur := some (.outrider ⟨0, 0⟩) }

/-- 64 entries: the largest count and depth; one entry that every live lane has passed. -/
theorem witness_StreamInstructionsIssueEntries :
    issuer (world coachU) = some issU ∧ activeOf issU.c issU.k ≠ 0 ∧ issuer (world coachIdle) = some issIdle
      ∧ activeOf issIdle.c issIdle.k = 0
      ∧ (let p : QPort := { dir := .inbound, depth := 64 };
        (ported p).cur = some (.outrider ⟨0, 0⟩) ∧ coachOf (ported p) 0 = some (porter p) ∧ portOf (porter p) (7 : BitVec 3).toNat = p
          ∧ (63 : W32).toNat % 64 + 1 ≤ p.depth ∧ (63 : W32).toNat / 64 % 1024 = 0 ∧ (511 : W32).toNat < 512
          ∧ p.taken - p.head + ((63 : W32).toNat % 64 + 1 - (porter p).outr.progress) ≤ p.depth
          ∧ ¬(p.dir = .outbound ∧ (63 : W32).toNat % 64 + 1 ≤ p.depth) ∧ ¬(64 : W32).toNat / 64 % 1024 = 0)
      ∧ (let p : QPort := { dir := .outbound, depth := 1, pos := (List.range 32).map fun l => (l, 1) };
        p.dir = .outbound ∧ (64 : W32).toNat % 64 + 1 ≤ p.depth ∧ (64 : W32).toNat / 128 % 512 = 0
          ∧ p.taken + ((64 : W32).toNat % 64 + 1 - (porter p).outr.progress) ≤ passedOf (porter p) p ∧ ¬p.dir = .inbound) := by
  decide +kernel

/-- A read and a write of an element of entry 0, of a live lane and of one that has exited. -/
def qOp (k : OpKind) : Op := { id := 0, counter := .none, kind := k, outrider := true, pieces := [] }
def elemPiece (lane : Nat) (va : W64) : Piece := { lane := lane, addr := 0, va := va, size := 4, dst := .elem 7 0 }
def queued (k : OpKind) (d : Dir) (p : Piece) : Coach :=
  { coachU with outr := { live := true }, ports := [(7, { dir := d, depth := 1, taken := 1 })], ops := [{ qOp k with pieces := [p] }], nextOp := 1 }

/-- Whether the access is as the statement takes it. -/
def elemDue (s : State) (c : Coach) (p : Piece) : Bool :=
  decide ((accessOf s first).map (fun x => (x.c, x.p)) = some (c, p)) && decide (c.key = first.key) && decide (c.exited ≠ BitVec.allOnes 32)
    && decide (p.dst = .elem 7 0 ∧ p.phase = 0 ∧ p.size = 4)

/-- Whether the check of an element's access traps, and its coach has room for another mark. -/
def elemTraps (k : OpKind) (d : Dir) (a : Acc) (p : Piece) : Bool :=
  let c := queued k d p
  (match checkAccess (world c) (elemAsker c first p.va) { acc := a, size := 4 } 7 p.va with
    | .trap t => t.cause == 6
    | _ => false)
    && decide (faultCount c < 64) && elemDue (world c) c p && !c.exited.getLsbD 7 && !c.saved

theorem witness_OutriderAccessesArePerformed :
    ((let p := elemPiece 31 0x2000;
      elemDue (world (queued .qread .inbound p)) (queued .qread .inbound p) p = true
        ∧ (queued .qread .inbound p).exited.getLsbD 31 = true)
      ∧ elemTraps .qread .inbound .read (elemPiece 7 0x2001) = true ∧ elemTraps .qwrite .outbound .write (elemPiece 7 0x2001) = true
      ∧ (let c : Coach := { coachU with outr := { live := true, qend := true } };
        coachOf (world c) 0 = some c ∧ c.exited ≠ BitVec.allOnes 32 ∧ c.outr.live = true ∧ c.outr.ended = false ∧ c.ops = []))
      ∧ (let p := elemPiece 7 0x207C;
        let c := queued .qread .inbound p;
        let s := world c;
        (elemDue s c p = true ∧ c.exited.getLsbD 7 = false ∧ c.saved = false
          ∧ checkAccess s (elemAsker c first p.va) { acc := .read, size := 4 } 7 p.va = .ok .mem 0x207C {}
          ∧ reachOf s c { p with addr := 0x207C } = .now ∧ 0x207C % 32 + 4 ≤ 32 ∧ l1Holds s 0 0x207C 4 = false)
          ∧ hasWay s (lineOf 0x207C) ∧ hasL1Way s 0 (lineOf 0x207C) ∧ coherent s ∧ busesUp s ∧ quiet s)
      ∧ (let p := elemPiece 7 0x207C;
        let c := queued .qwrite .outbound p;
        let s := world c;
        (elemDue s c p = true ∧ checkAccess s (elemAsker c first p.va) { acc := .write, size := 4 } 7 p.va = .ok .mem 0x207C {}
          ∧ reachOf s c { p with addr := 0x207C } = .now ∧ l1Owns s 0 (lineOf 0x207C) = false
          ∧ coreStoresOpen s 0 s.nextId { p with addr := 0x207C } = false
          ∧ (accessOf s first).map (fun x => behindLane s first { x with p := { p with space := .mem, addr := 0x207C } }) = some false)
          ∧ hasWay s (lineOf 0x207C) ∧ hasL1Way s 0 (lineOf 0x207C) ∧ coherent s ∧ busesUp s ∧ quiet s) :=
  ⟨by decide +kernel,
    ⟨by decide +kernel, .inr (by decide +kernel), .inl (by decide +kernel), serene (by decide +kernel)⟩,
    ⟨by decide +kernel, .inr (by decide +kernel), .inl (by decide +kernel), serene (by decide +kernel)⟩⟩

/-- A stream of the train from d0 to another chassis, as STRM opens it. -/
def brook (dst : Nat) : Stream :=
  { id := 20, train := 1, src := 0, dst := dst, west := false, tag := 0, vmid := 0, pasid := 0, window := 1024, srcKind := 1, srcCore := 0
    srcBase := 0, srcLen := 64, srcRows := 16, srcStride := 64, dstKind := 1, dstCore := 0, dstBase := 0, dstLen := 64, dstRows := 16
    dstStride := 64 }

/-- A coach with the parameters of a COPY in s4 to s7, an offset of the A-buffer in s8 and a global address in s9; a COPY of 16 bytes from the
A-buffer to itself (kinds 1), and one to a stream. -/
def coachC (p : W64) : Coach := { coachU with s := [(4, p), (8, 0x100), (9, 0x2000)] }
def issC (p : W64) : Iss := slot0 (coachC p) (carr .U 0xFF)
def litBuf : W32 := 0x50
def litGlob : W32 := 0x10
def litStream : W32 := 0x100000
def stremed : State := { world (coachC 16) with streams := [brook 1] }

/-- How the check of a copy's end that lies in global memory ends: its pages, walks that it waits for, or a trap. -/
def endCode (s : State) (dst : Bool) (kind : Nat) (v : W64) (rows : List (Int × Nat)) : Nat :=
  match checkCopyEnd s (issC 16) dst kind v rows 1 with
  | .ok ps _ => if ps.isEmpty then 0 else 1
  | .miss _ _ => 2
  | .trap _ => 3

/-- COPYs with reserved fields, of no shape, and of 16 bytes, whose ends pass, break a bound or a page's rights, or wait for a walk. -/
theorem witness_CopyInstructionsComplete_copy :
    (issuer (world (coachC 16)) = some (issC 16) ∧ (issC 16).k.lanes ≠ 0 ∧ (issC 16).k.pages = []
      ∧ copyReserved (world (coachC 16)) (coachC 16) 8 8 3 = true
      ∧ copyReserved (world (coachC 16)) (coachC 16) 8 8 litBuf = false
      ∧ copyShape litBuf (fun i => sreg (issC 0x1000001) 4 i) = none
      ∧ issuer { readOnly with coaches := [(0, coachC 16)] } = some (issC 16)
      ∧ issuer { untold with coaches := [(0, coachC 16)] } = some (issC 16)
      ∧ (match translate readOnly (askerOf (coachC 16) 0 (carr .U 0xFF)) .write 0x2000 with | .fault _ => true | _ => false) = true)
      ∧ (∃ plan, copyPlan (copyLit litBuf) (fun i => sreg (issC 16) 4 i) = some plan ∧ trainOf (world (coachC 16)) 1 = some convoy
        ∧ litBuf.toNat.testBit 20 = false
        ∧ copyBounds (world (coachC 16)) convoy (copyLit litBuf) 0 plan 0x100 0x100 = none
        ∧ (copyBounds (world (coachC 16)) convoy (copyLit litBuf) 0 plan 0x3FFF1 0x100).isSome = true
        ∧ endCode (world (coachC 16)) true 1 0x100 plan.dst = 0
        ∧ endCode { readOnly with coaches := [(0, coachC 16)] } true 0 0x2000 plan.dst = 3
        ∧ endCode { untold with coaches := [(0, coachC 16)] } false 0 0x2000 plan.src = 2
        ∧ endCode (world (coachC 16)) false 0 0x00FFFFFFFFFFFFF8 plan.src = 3)
      ∧ (∃ plan, copyPlan (copyLit litGlob) (fun i => sreg (issC 16) 4 i) = some plan
        ∧ copyReserved (world (coachC 16)) (coachC 16) 8 9 litGlob = false ∧ endCode (world (coachC 16)) false 0 0x2000 plan.src = 1)
      ∧ ∃ plan, copyPlan (copyLit litStream) (fun i => sreg (issC 16) 4 i) = some plan ∧ issuer stremed = some (issC 16)
        ∧ copyReserved stremed (coachC 16) 0 0 litStream = false ∧ litStream.toNat.testBit 20 = true
        ∧ streamOf (world (coachC 16)) 1 0 false = none ∧ streamOf stremed 1 0 false = some (brook 1)
        ∧ checkEnd stremed convoy false 1 0 0 (streamRows 64 64 0 16) = none
        ∧ (checkEnd stremed convoy false 1 0 0x3FFF1 (streamRows 64 64 0 16)).isSome = true
        ∧ endCode stremed false 1 0 (streamRows 64 64 0 16) = 0 ∧ endCode untold false 0 0x2000 (streamRows 64 64 0 16) = 2 :=
  ⟨by decide +kernel, ⟨_, rfl, by decide +kernel⟩, ⟨_, rfl, by decide +kernel⟩, ⟨_, rfl, by decide +kernel⟩⟩

/-- STRM opens to d1 with a window of 1,024 bytes, from s0 to s3 and s0 to s3; to its own chassis; where its way retrains; and where every tag is
taken. Streams `many` hold tags 0 to 191. -/
def litOpen (dst : Nat) : W32 := BitVec.ofNat 32 (2 * dst + 2 ^ 13 * 4)
def many : List Stream := (List.range 192).map fun t => { brook 2 with id := 100 + t, tag := t }
def retraining (s : State) : State := { s with chassis := [(0, { ground with east := { state := 2 } }), (15, { east := { state := 1 } })] }

theorem witness_CopyInstructionsComplete_streams :
    (strmReserved issU 0 0 0 = true ∧ strmReserved issU 0 0 (litOpen 1) = false ∧ (litOpen 1).toNat % 2 = 0 ∧ field (litOpen 0).toNat 4 1 = 0
      ∧ field (litOpen 1).toNat 4 1 ≠ 0 ∧ goesEast (world coachU) 0 1 = true
      ∧ issuer (retraining (world coachU)) = some issU
      ∧ (reachable (retraining (world coachU)) 0 1 = true ∧ pathOpen (retraining (world coachU)) 0 1 = false)
      ∧ (pathOpen (ringed (world coachU)) 0 1 = true ∧ issuer (ringed (world coachU)) = some issU)
      ∧ ((world coachU).streams = [] ∧ 1024 ≤ 768 * 1024)
      ∧ ¬(((List.range 896).map fun t => { brook 1 with tag := 192 + t }).length < 896)
      ∧ strmReserved issU 0 0 1 = false ∧ (1 : W32).toNat % 2 = 1 ∧ streamOf (world coachU) 1 0 false = none
      ∧ streamOf stremed 1 (field (1 : W32).toNat 8 1) ((1 : W32).toNat.testBit 9) = some (brook 1))
      ∧ ∀ t, t < 192 → ∃ z ∈ many, z.src = 0 ∧ z.west = false ∧ z.tag = t :=
  ⟨by decide +kernel,
    fun t h => ⟨{ brook 2 with id := 100 + t, tag := t }, List.mem_map.mpr ⟨t, List.mem_range.mpr h, rfl⟩, rfl, rfl, rfl⟩⟩

/-- CFLUSH of no byte, of one byte more than 16 MiB, and of 256 bytes across two lines, whose page passes, is reserved, waits for a walk, lies
beyond 2^56 or may not be read; CHINT of a line that the cache holds. -/
theorem witness_CopyInstructionsComplete_caches :
    let q := askerOf coachU 0 (carr .U 0xFF)
    let noRead : State :=
      { world coachU with chassis := [(0, { ground with cores := [(0, { tlb := [{ flat ctx0 with s1 := { (flat ctx0).s1 with r := false } }] })] })] }
    (readS issU.c issU.k 10).toNat = 0 ∧ 2 ^ 24 < (0x1000001 : W64).toNat
      ∧ (mvals (pagesOf 0x2000 [(0, 256)])) = [0x2000]
      ∧ ((mvals (pagesOf 0x00FFFFFFFFFFFFF0 [(0, 256)])).find? fun m => decide (2 ^ 56 ≤ m)) = some 0x0100000000000000
      ∧ (match paged (world coachU) q [] .read [0x2000] with
        | .ok ps _ => maintBad ps == none && (linesOf 0x2000 256 (maintPages ps)).length == 2
        | _ => false) = true
      ∧ (match paged (world coachU) q [] .read [0x0000030000000000] with
        | .ok ps _ => maintBad ps == some 0x30000000
        | _ => false) = true
      ∧ (mget (pagesOf 0x0000030000000000 [(0, 256)]) 0x30000000).isSome = true
      ∧ (match paged untold q [] .read [0x2000] with | .miss _ _ => true | _ => false) = true
      ∧ (match paged noRead q [] .read [0x2000] with | .trap _ => true | _ => false) = true ∧ issuer noRead = some issU
      ∧ translate (world coachU) q .read (readS issU.c issU.k 3) = .pa 0x2000 {}
      ∧ trainOf (world coachU) issU.c.train = some convoy := by decide +kernel

/-- A copy of the train: 512 bytes within the A-buffer, in its first channel context. -/
def haul (phase : Nat) : Copy :=
  { id := 30, train := 1, chan := 0, issuer := some (0, 0), ctx := ctx0, ch := 0, core := 0, form := .one, len := 512, total := 512
    src := .buf 1 0 0, dst := .buf 1 0 0x1000, phase := phase }
def cpOp : Op := { id := 0, counter := .cp, kind := .copy 30, pieces := [], lanes := 0xFF }
def hauling (y : Copy) (queue : List Nat) : State :=
  { world { coachU with ops := [cpOp], nextOp := 1 } with copies := [y], trains := [{ convoy with chans := [(0, { queue := queue })] }] }

theorem witness_CopiesAndStreamsRun_start :
    (let s := hauling (haul 0) [];
      copyOf s 30 = some (haul 0) ∧ (trainOf s 1).isSome = true ∧ behindCopy s (haul 0) = false)
      ∧ (let s := hauling (haul 1) [30];
        copyOf s 30 = some (haul 1) ∧ (haul 1).needs s = [] ∧ (haul 1).total ≠ 0 ∧ indexHeld s (haul 1) = false
          ∧ ((trainOf s 1).bind fun t => ((mget t.chans 0).getD {}).queue.head?) = some 30)
      ∧ (let y : Copy := { haul 1 with src := .glob 0x1000000000, spages := [(0x1000000, .mem, 2 ^ 36, {})] };
        let z : Copy := { y with id := 29, phase := 2 };
        let s : State := { hauling y [30] with copies := [y, z] };
        copyOf s 30 = some y ∧ indexHeld s y = false ∧ y.needs s ≠ [] ∧ (∀ w ∈ y.needs s, w.2.2 = true → windowsHeld s w < 64)
          ∧ ∃ w ∈ y.needs s, w.2.2 = false ∧ z.phase = 2 ∧ w ∈ z.needs s)
      ∧ (let s := hauling (haul 2) [30];
        copyOf s 30 = some (haul 2) ∧ windowsFree s (haul 2) = true) := by decide +kernel

/-- The first piece of the running copy: 256 bytes at 0 to 256 bytes at 0x1000. -/
def spotsAt (a : Nat) : List Spot := (List.range 256).map fun i => { space := .buf 1 0, addr := a + i, attr := {} }

theorem witness_CopiesAndStreamsRun_pieces :
    let s := hauling (haul 3) [30]
    let t : Train := { convoy with chans := [(0, { queue := [30] })] }
    (copyOf s 30 = some (haul 3) ∧ trainOf s 1 = some t ∧ (haul 3).front < (haul 3).total ∧ channelTaken s (haul 3) = false
      ∧ (haul 3).done = [] ∧ pieceLen s t (haul 3) 0 = 256
      ∧ (match endSpots s t (haul 3) (haul 3).src [] .read (srcOffsets s t (haul 3) 0 256) with | .ok l => l == spotsAt 0 | _ => false) = true
      ∧ (match endSpots s t (haul 3) (haul 3).dst [] .write (dstOffsets (haul 3) 0 256) with | .ok l => l == spotsAt 0x1000 | _ => false) = true
      ∧ pieceState s t (haul 3) 0 = .go (runsOf (spotsAt 0)) (runsOf (spotsAt 0x1000)) []
      ∧ ((spotsAt 0x1000).map fun p => (p.space, p.addr)).Nodup ∧ (spotsAt 0).length = 256 ∧ 0 + 256 < (haul 3).total)
      ∧ (∀ p ∈ spotsAt 0, inside p) ∧ (∀ p ∈ spotsAt 0x1000, single p) ∧ coherent s ∧ busesUp s ∧ quiet s := by
  have mem (a : Nat) : ∀ p ∈ spotsAt a, p.space = .buf 1 0 := by intro p h; obtain ⟨i, _, rfl⟩ := List.mem_map.mp h; rfl
  refine ⟨by decide +kernel, fun p h => .inr ⟨1, 0, mem 0 p h, by decide⟩, fun p h => ⟨.inr ⟨1, 0, mem _ p h, by decide⟩, fun e => ?_⟩,
    serene (by decide +kernel)⟩
  rw [mem _ p h] at e
  cases e

/-- A copy from the host, by a copy program; and one to a stream, whose piece has room. -/
theorem witness_CopiesAndStreamsRun_host_and_stream :
    (let y : Copy := { haul 3 with issuer := none, src := .glob 0x0008000000000000, spages := [(0x8000000000, .host, 0, {})] };
      let s := hauling y [30];
      let t : Train := { convoy with chans := [(0, { queue := [30] })] };
      copyOf s 30 = some y ∧ pieceLen s t y 0 = 256 ∧ channelTaken s y = false
        ∧ (match endSpots s t y y.src y.spages .read (srcOffsets s t y 0 256) with
          | .ok l => l.all (fun p => p.space == .host) && !l.isEmpty && pieceState s t y 0 == .go (runsOf l) (runsOf (spotsAt 0x1000)) []
          | _ => false) = true)
      ∧ (let y : Copy := { haul 3 with dst := .stream 20 };
        let s : State := { hauling y [30] with streams := [brook 1] };
        let t : Train := { convoy with chans := [(0, { queue := [30] })] };
        copyOf s 30 = some y ∧ (s.streams.find? fun z => z.id == 20) = some (brook 1) ∧ channelTaken s y = false
          ∧ pieceLen s t y 0 = 256 ∧ pieceState s t y 0 = .go (runsOf (spotsAt 0)) [] [] ∧ whole s = true ∧ awake s = true ∧ bare s = true
          ∧ (match endSpots s t y y.src [] .read (srcOffsets s t y 0 256) with | .ok l => l == spotsAt 0 | _ => false) = true
          ∧ (match endSpots s t y y.dst [] .write (dstOffsets y 0 256) with | .ok l => l == [] | _ => false) = true) := by decide +kernel

/-- Packets at their stops: a payload that the receiver refuses, one that it writes, one behind an error; a credit; an error report; and a
stream that closes. -/
def parcel (dst : Nat) (load : Load) : Packet := { id := 40, seq := 40, src := 1 - dst, dst := dst, stop := dst, west := dst == 0, arrived := true, load := load }
def posted (z : Stream) (p : Packet) (ts : List Train) : State :=
  { hauling { haul 3 with dst := .stream 20 } [30] with
    streams := [z], packets := [p], trains := { convoy with chans := [(0, { queue := [30] })] } :: ts }
def farTrain : Train := { convoy with id := 3, index := 1, ch := 1 }

theorem witness_CopiesAndStreamsRun_packets :
    (let p := parcel 1 (.stream 30 0 20 0 [1, 2]);
      let s := posted (brook 1) p [];
      deliverable s 40 = some p ∧ (s.streams.find? fun v => v.id == 20) = some (brook 1)
        ∧ (match streamSpots { s with doing := { ecc := .clean } } (brook 1) 2 with
          | (.error e, u) => e.1 == 0x13 && u.doing.stall.isNone
          | _ => false) = true
        ∧ deliverable (posted { brook 1 with err := true } p []) 40 = some p
        ∧ (match streamSpots { posted (brook 1) p [farTrain] with doing := { ecc := .clean } } (brook 1) 2 with
          | (.ok l, u) => runsReach u 1 ((runsOf l).flatMap Run.copies) == .now
              && (match writePiece u ((copyOf s 30).map fun y => 16 * y.ch + y.core) (runsOf l) [1, 2] with
                | (none, v) => v.doing.stall.isNone
                | _ => false)
          | _ => false) = true)
      ∧ (let p := parcel 0 (.credit 30 0 20 256);
        let s := posted (brook 1) p [];
        deliverable s 40 = some p ∧ (copyOf s 30).map (fun y => (y.phase, y.total)) = some (3, 512) ∧ 0 + 256 < 512
          ∧ (trainOf s 1).map Train.completed = some false)
      ∧ (let p := parcel 0 (.error 30 0 20 0x13 0 {});
        let s := posted (brook 1) p [];
        deliverable s 40 = some p ∧ (copyOf s 30).map Copy.issuer = some (some (0, 0))
          ∧ (coachOf s 0).map (fun c => decide (c.exited ≠ BitVec.allOnes 32)) = some true)
      ∧ (let z : Stream := { brook 1 with closing := true };
        let p := parcel 0 (.credit 30 0 99 1);
        let s : State := { posted z p [] with copies := [] };
        (s.streams.find? fun v => v.id == 20) = some z ∧ z.sent = z.credited ∧ s.copies = [] ∧ (trainOf s 1).map Train.completed = some false) := by
  decide +kernel

end Sys2Proof.Tests
end

