-- ==== Sys2Proof/Tests/WitnessMatrix.lean ====
section
/-! SUPPORT. States and operands that meet the hypotheses of the statements about the matrix unit. -/

namespace Sys2Proof.Tests

set_option Elab.async false

open Sys2Proof.Machine Sys2Proof.Rules

/-! ## At issue -/

/-- A coach of the train that holds the core's matrix unit, with all lanes and given scalar registers, in the world with given buffers. -/
def coachM (rs : RMap 64) : Coach := { coachH with s := rs }
def issM (rs : RMap 64) : Iss := slot0 (coachM rs) (carr .H 0xFFFFFFFF)
def worldM (rs : RMap 64) : State := world (coachM rs)
def regM (rs : RMap 64) (n : Nat) : W64 := readS (issM rs).c (issM rs).k n
def offM (rs : RMap 64) (n : Nat) : Nat := (regM rs n).toNat
def win : Windows := { aBase := 0, aSize := 0x40000, wBase := 0, wSize := 0x60000, cBase := 0, cSize := 0x100000 }

/-- The same core, with some bytes of its A-buffer and W-buffer. -/
def buffered (rs : RMap 64) (a w : List Host.Cell) : State := (worldM rs).setCore 0 0 { coreOf (worldM rs) 0 0 with aBuf := a, wBuf := w }

/-- Whether an issuer is as a matrix instruction needs it behind its first two checks. -/
def enters (s : State) (x : Iss) : Bool :=
  decide (issuer s = some x) && decide (x.k.lanes = BitVec.allOnes 32) && x.c.yard == false
    && decide ((coreOf s x.c.ch x.c.core).holder = some x.c.train) && decide (trainOf s x.c.train = some convoy)
    && windowsOf convoy x.c.tcore == win && bufWritesOpen x.c s.nextId == false && !stolenNow s x.c.ch

/-- `firstOutside`, `firstCrooked`, `allFit` and `allEven` as they are computed. -/
def outsideB (w : Windows) : List (Nat × Int × Nat) → W64 → Bool
  | [], _ => false
  | (k, o, n) :: rs, a => if 0 ≤ o ∧ o + n ≤ (w.of k).2 then outsideB w rs a else a == windowAddr k o
def crookedB : List (Nat × Int × Nat) → W64 → Bool
  | [], _ => false
  | (k, o, m) :: rs, a => if o % m = 0 then crookedB rs a else a == windowAddr k o
def fitB (w : Windows) (rs : List (Nat × Int × Nat)) : Bool := rs.all fun r => decide (0 ≤ r.2.1 ∧ r.2.1 + r.2.2 ≤ (w.of r.1).2)
def evenB (rs : List (Nat × Int × Nat)) : Bool := rs.all fun r => decide (r.2.1 % (r.2.2 : Int) = 0)

theorem outside_of {w : Windows} : ∀ {rs : List (Nat × Int × Nat)} {a : W64}, outsideB w rs a = true → firstOutside w rs a
  | [], _, h => by simp [outsideB] at h
  | (k, o, n) :: rs, a, h => by
    unfold outsideB at h
    split at h
    · exact Or.inr ⟨‹_›, outside_of h⟩
    · exact Or.inl ⟨‹_›, by simpa using h⟩

theorem crooked_of : ∀ {rs : List (Nat × Int × Nat)} {a : W64}, crookedB rs a = true → firstCrooked rs a
  | [], _, h => by simp [crookedB] at h
  | (k, o, m) :: rs, a, h => by
    unfold crookedB at h
    split at h
    · exact Or.inr ⟨‹_›, crooked_of h⟩
    · exact Or.inl ⟨‹_›, by simpa using h⟩

theorem fit_of {w : Windows} {rs : List (Nat × Int × Nat)} (h : fitB w rs = true) : allFit w rs := by simpa [fitB, allFit, fits] using h
theorem even_of {rs : List (Nat × Int × Nat)} (h : evenB rs = true) : allEven rs := by simpa [evenB, allEven] using h

/-- The first two checks, and a literal of CRED. -/
theorem witness_MatrixInstructionsIssue_denied :
    (issuer (world coachU) = some issU ∧ issU.k.lanes ≠ 0 ∧ issU.k.lanes ≠ BitVec.allOnes 32)
      ∧ (let c : Coach := { coachH with yard := true };
        issuer (world c) = some (slot0 c (carr .H 0xFFFFFFFF)) ∧ (slot0 c (carr .H 0xFFFFFFFF)).c.yard = true)
      ∧ (let s := (world coachH).setCore 0 0 { coreOf (world coachH) 0 0 with holder := none };
        issuer s = some issH ∧ (coreOf s issH.c.ch issH.c.core).holder ≠ some issH.c.train)
      ∧ credReserved 0xA0000 = true ∧ credReserved 0x80200000 = true ∧ credReserved 0x280000 = false := by decide +kernel

/-- Ranges that keep their window and stand as their alignments ask; that leave it at an address; and that are crooked at one. -/
theorem taken_of {w : Windows} {rs os : List (Nat × Int × Nat)} (h : (fitB w rs && evenB os) = true) : allFit w rs ∧ allEven os := by
  simp only [Bool.and_eq_true] at h
  exact ⟨fit_of h.1, even_of h.2⟩
theorem bent_of {w : Windows} {rs os : List (Nat × Int × Nat)} {a : W64} (h : (fitB w rs && crookedB os a) = true) :
    allFit w rs ∧ firstCrooked os a := by
  simp only [Bool.and_eq_true] at h
  exact ⟨fit_of h.1, crooked_of h.2⟩

/-- FMTL: an offset below the window, one that is not aligned, the last block of the window; a valid block and one of type 1. -/
theorem witness_MatrixInstructionsIssue_fmtl :
    let o (v : W64) (m : BitVec 8) : Int := (offM [(1, v)] 1 : Int) + 64 * m.toInt
    (enters (worldM [(1, 0x3FFC0)]) (issM [(1, 0x3FFC0)]) = true
      ∧ fmtValid (windowRead (worldM [(1, 0x3FFC0)]) convoy 0 1 0x3FFC0 64) = true
      ∧ fmtValid (windowRead (buffered [(1, 0x3FFC0)] [(0x3FFC0, 1)] []) convoy 0 1 0x3FFC0 64) = false)
      ∧ firstOutside win [(1, o 0x1FC0 0x80, 64)] (windowAddr 1 (-64)) ∧ firstOutside win [(1, o 0x40000 0, 64)] (windowAddr 1 0x40000)
      ∧ (allFit win [(1, o 5 0, 64)] ∧ firstCrooked [(1, o 5 0, 64)] (windowAddr 1 5))
      ∧ allFit win [(1, o 0x3FFC0 0, 64)] ∧ allEven [(1, o 0x3FFC0 0, 64)] := by
  intro o
  have h := outside_of (w := win) (rs := [(1, o 0x1FC0 0x80, 64)]) (a := windowAddr 1 (-64)) (by decide +kernel)
  exact ⟨by decide +kernel, h, outside_of (by decide +kernel), bent_of (by decide +kernel), taken_of (by decide +kernel)⟩

/-- BLD: an image beyond the staging window, one that is not aligned, and the last that fits. -/
theorem witness_MatrixInstructionsIssue_bld :
    let rs (v : W64) : List (Nat × Int × Nat) := (2, offM [(1, v)] 1, 0x20000) :: scalesB (fmtOf [])
    let os (v : W64) : List (Nat × Int × Nat) := [(2, offM [(1, v)] 1, 256)]
    enters (worldM [(1, 0x40000)]) (issM [(1, 0x40000)]) = true
      ∧ firstOutside win (rs 0x40100) (windowAddr 2 0x40100)
      ∧ (allFit win (rs 0x80) ∧ firstCrooked (os 0x80) (windowAddr 2 0x80)) ∧ allFit win (rs 0x40000) ∧ allEven (os 0x40000) :=
  ⟨by decide +kernel, outside_of (by decide +kernel), bent_of (by decide +kernel), taken_of (by decide +kernel)⟩

/-- BGAT: row pointers outside and misaligned; 131,073 and 131,072 elements, whose ranges fill the window; column indexes that are not
aligned, and values beyond the window. -/
theorem witness_MatrixInstructionsIssue_bgat :
    let rs (v : W64) : RMap 64 := [(1, v), (2, 0), (3, 0x40000)]
    let s (hi : Byte) : State := buffered (rs 0) [] [(2048, hi), (2050, 2)]
    let ptr (hi : Byte) (j : Nat) : Nat := leNat (windowRead (s hi) convoy 0 2 (offM (rs 0) 1 + 4 * j) 4)
    let used (ci vo lo hi : Nat) : List (Nat × Int × Nat) := [(2, (ci + 2 * lo : Nat), 2 * (hi - lo)), (2, vo + lo, vo + hi - (vo + lo))]
    (enters (s 0) (issM (rs 0)) = true ∧ (fmtOf []).bt ∈ [0, 4, 10, 11]
      ∧ 131072 < ptr 1 512 - ptr 1 0 ∧ ptr 0 512 - ptr 0 0 = 131072 ∧ bitsB (fmtOf []).bt = 8 ∧ scalesB (fmtOf []) = [])
      ∧ (firstOutside win [(2, offM (rs 0x60000) 1, 2052)] (windowAddr 2 0x60000) ∧ firstOutside win (used 0 0x40001 0 131072) (windowAddr 2 0x40001))
      ∧ ((allFit win [(2, offM (rs 2) 1, 2052)] ∧ firstCrooked [(2, offM (rs 2) 1, 4)] (windowAddr 2 2))
        ∧ (allFit win (used 1 0 0 131072) ∧ firstCrooked [(2, 1, 2)] (windowAddr 2 1)))
      ∧ (allFit win [(2, offM (rs 0) 1, 2052)] ∧ allEven [(2, offM (rs 0) 1, 4)])
      ∧ allFit win (used 0 0x40000 0 131072) ∧ allEven [(2, (offM (rs 0) 2 : Int), 2)] := by
  intro rs s ptr used
  refine ⟨by decide +kernel, ⟨outside_of ?_, outside_of ?_⟩, ⟨bent_of ?_, bent_of ?_⟩, taken_of ?_, taken_of ?_⟩
  all_goals decide +kernel

/-- TZERO of tile 7, and of tile 7 beyond a smaller window; TMUL of 64 rows to tile 7, with a row too many, from an offset that is not
aligned, and from one whose last row leaves the window. -/
theorem witness_MatrixInstructionsIssue_tzero_and_tmul :
    let tiles (m : BitVec 8) : List (Nat × Int × Nat) := ((List.range 8).filter fun d => m.getLsbD d).map tileAt
    let kept (p : Nat) (d : BitVec 3) : Bool :=
      field p 15 12 == 0 && field p 63 32 == 0 && decide (field p 11 6 + (field p 5 0 + 1) ≤ 64) && decide (d.toNat + 1 ≤ 8)
    let rows (o : Nat) : List (Nat × Int × Nat) := (List.range 64).map fun j => (1, (o + j * 512 : Nat), 512)
    let all (o : Nat) : List (Nat × Int × Nat) := rows o ++ [] ++ (List.range 1).map fun j => tileAt ((7 : BitVec 3).toNat + j)
    let rs : RMap 64 := [(1, 0x38000), (2, 63)]
    (enters (worldM rs) (issM rs) = true ∧ (fmtOf []).at_ ∈ [0, 3, 10, 11]
      ∧ (kept (offM rs 2) 7 = true ∧ field (offM rs 2) 5 0 + 1 = 64 ∧ field (offM rs 2) 31 16 = 0) ∧ kept 0x7F 7 = false ∧ kept 0x103F 7 = false)
      ∧ (allFit win (tiles 0x80) ∧ allEven []) ∧ (allFit win (all (offM rs 1)) ∧ allEven [(1, offM rs 1, 32)])
      ∧ firstOutside { win with cSize := 0xE0000 } (tiles 0x80) (windowAddr 3 0xE0000) ∧ firstOutside win (all 0x38020) (windowAddr 1 0x3FE20)
      ∧ (allFit win (all 0x10) ∧ firstCrooked [(1, 0x10, 32)] (windowAddr 1 0x10)) := by
  intro tiles kept rows all rs
  refine ⟨by decide +kernel, taken_of ?_, taken_of ?_, outside_of ?_, outside_of ?_, bent_of ?_⟩
  all_goals decide +kernel

/-- TDRAIN of tile 7 to the A-buffer: the limits kept and not, the last place that fits, the next one, a misaligned one; and to global memory:
one that is taken, and one whose address is not aligned. -/
theorem witness_MatrixInstructionsIssue_tdrain :
    let kept (p : Nat) : Bool := field p 7 3 == 0 && field p 63 56 == 0 && (!p.testBit 1 || (fmtOf []).tt != 15)
    let near (v : W64) : List DrainOut := (drainOuts (fmtOf []) 0 v 0).filter fun v => !v.glob
    let at_ (v : DrainOut) (j : Int) : Int := v.dst.toNat + j
    let rs (v : W64) : List (Nat × Int × Nat) := tileAt 7 :: (near v).flatMap fun v => v.ranges.map fun r => (1, at_ v r.1, r.2)
    let os (v : W64) : List (Nat × Int × Nat) := (near v).flatMap fun v => [(1, at_ v 0, 32), (1, at_ v v.stride, 32)]
    let r (v : W64) : RMap 64 := [(1, v), (2, 1)]
    (enters (worldM (r 0x2000)) (issM (r 0x2000)) = true ∧ kept 0 = true ∧ kept 8 = false
      ∧ (match drainGlobal (worldM (r 0x2000)) (issM (r 0x2000)) (drainOuts (fmtOf []) (regM (r 0x2000) 2) (regM (r 0x2000) 1) 0) with
        | .ok ps _ => ps.length == 4
        | _ => false) = true
      ∧ (match drainGlobal (worldM (r 0x2010)) (issM (r 0x2010)) (drainOuts (fmtOf []) (regM (r 0x2010) 2) (regM (r 0x2010) 1) 0) with
        | .trap e => e.cause == 6 && e.cause != 4 && e.cause != 5
        | _ => false) = true)
      ∧ (allFit win (rs 0x3C000) ∧ allEven (os 0x3C000)) ∧ firstOutside win (rs 0x3C020) (windowAddr 1 0x3FF20)
      ∧ allFit win (rs 0x10) ∧ firstCrooked (os 0x10) (windowAddr 1 0x10) := by
  intro kept near at_ rs os r
  exact ⟨by decide +kernel, taken_of (by decide +kernel), outside_of (by decide +kernel), bent_of (by decide +kernel)⟩

/-- CRED of 32 fp32 elements to fp32 results, among chassis 0 alone and one core; with a count of 0 or 17 cores; from the last place that
fits, and from beyond it; and TSTAT of its highest selector. -/
theorem witness_MatrixInstructionsIssue_cred_and_tstat :
    let kept (p : Nat) : Bool := field p 31 25 == 0 && field p 63 41 == 0 && p.testBit 0 && p.testBit (field p 19 16)
      && decide (1 ≤ field p 24 20) && decide (field p 24 20 ≤ 16)
    let rs : RMap 64 := [(1, 0x100001), (2, 0x3FF80), (3, 0x3FF80)]
    let ranges (o : Nat) : List (Nat × Int × Nat) := [(1, o, 32 * (field (offM rs 1) 40 32 + 1) * 4), (1, offM rs 3, 128)]
    (enters (worldM rs) (issM rs) = true ∧ (issM rs).c.ch < 16 ∧ credReserved 0x220000 = false
      ∧ kept (offM rs 1) = true ∧ kept 0x1000001 = true ∧ kept 1 = false ∧ kept 0x1100001 = false ∧ kept 0x110001 = false
      ∧ (5 : BitVec 3).toNat < 6)
      ∧ (allFit win (ranges (offM rs 2)) ∧ allEven [(1, offM rs 2, 4), (1, offM rs 3, 4)])
      ∧ firstOutside win (ranges 0x3FF81) (windowAddr 1 0x3FF81)
      ∧ allFit win (ranges 2) ∧ firstCrooked [(1, 2, 4), (1, offM rs 3, 4)] (windowAddr 1 2) := by
  intro kept rs ranges
  exact ⟨by decide +kernel, taken_of (by decide +kernel), outside_of (by decide +kernel), bent_of (by decide +kernel)⟩

/-! ## The unit at work -/

/-- The machine with a TMUL of 64 rows at 0x1000, which draws 131,072 tokens; and with a request for 5 tokens. -/
def tokening : State := { worldM [(2, 63)] with dram := cwrite [] 0x1000 (leBytes 4 0xC4170102) }
def asking (purse : Nat) : State :=
  (worldM []).setChassis 0 { chassisOf (worldM []) 0 with requests := [(0, 0, 5)], purse := purse }

theorem witness_MatrixUnitsRunTheirQueues_tokens :
    (let s := tokening
     let r : SlotRef := ⟨0, 0, 0⟩
     let c := coachM [(2, 63)]
     let k := carr .H 0xFFFFFFFF
     coachOf s r.key = some c ∧ c.key = r.key ∧ mget c.slots r.slot = some k ∧ (c.canIssue && choosable s c k) = true
       ∧ requestedBy (chassisOf s c.ch) c.key r.slot = false ∧ fetchOf s c r.slot k = .ok (.tmul 2 7 1 2) 4
       ∧ notReady s { c with granted := mset c.granted r.slot 131072 } r.slot k (.tmul 2 7 1 2) = none ∧ mget c.granted r.slot = none ∧ (fmtOf []).at_ ∈ [0, 3, 10, 11]
       ∧ trainOf s c.train = some convoy ∧ convoy.fmts = [] ∧ draws (fmtOf []) (readS c k 2).toNat (.tmul 2 7 1 2) = 131072)
    ∧ (chassisOf (asking 5) 0).requests = (0, 0, 5) :: [] ∧ coachOf (asking 5) 0 = some (coachM [])
    ∧ (mget (coachM []).slots 0).isSome = true ∧ 5 ≤ (chassisOf (asking 5) 0).purse ∧ (chassisOf (asking 4) 0).purse < 5
    ∧ (chassisOf (asking 4) 0).requests = (0, 0, 5) :: [] := by decide +kernel

/-- A core whose queue holds one instruction of the coach, at work clock 62 of TS0; and the buffers that it reads. -/
def matOp : Op := { id := 0, counter := .tl, kind := .tile, pieces := [], lanes := 0xFFFFFFFF }
def queuedE (w : MatOp) (started : Bool) : MatEntry :=
  { coach := 0, op := 0, train := 1, tcore := 0, fmt := [], what := w, level := .H, fslot := 0, drawn := 256, started := started }
def coachT : Coach := { coachM [] with ops := [matOp], nextOp := 1 }
def tiled (w : MatOp) (started : Bool) : State :=
  let s := (world coachT).setCore 0 0 { coreOf (world coachT) 0 0 with matq := [queuedE w started] }
  s.setChassis 0 { chassisOf s 0 with clk := 62 }

theorem witness_MatrixUnitsRunTheirQueues_start :
    let s := tiled (.tmul 7 0 64 0 512) false
    let e := queuedE (.tmul 7 0 64 0 512) false
    (coreOf s 0 0).matq = e :: [] ∧ e.started = false ∧ headReady s e = true ∧ e.issued < (chassisOf s 0).clk
      ∧ worksAt (chassisOf s 0).ts (chassisOf s 0).clk ∧ (fmtOf e.fmt).at_ ∈ [0, 3, 10, 11]
      ∧ (coreOf (tiled (.bgat 0 0 0 0 0) false) 0 0).matq = queuedE (.bgat 0 0 0 0 0) false :: [] :=
  ⟨by decide +kernel, by decide, by decide +kernel, by decide, .inl (by decide +kernel), by decide +kernel⟩

/-- Whether the head of a queue is as the clauses of the end of an instruction take it. -/
def ends (w : MatOp) : Bool :=
  let s := tiled w true
  let e := queuedE w true
  decide ((coreOf s 0 0).matq = e :: []) && e.started && e.work == 0 && decide (e.ends ≤ (chassisOf s 0).clk) && !stolenNow s 0 && decide (trainOf s e.train = some convoy) && convoy.ch == 0
    && convoy.cores.getD e.tcore 0 == 0 && decide (coachOf s e.coach = some coachT) && decide (coachT.exited ≠ BitVec.allOnes 32)
    && fmtValid e.fmt

theorem witness_MatrixUnitsRunTheirQueues_end :
    ends (.bld 0x40000) = true ∧ ends (.bgat 0 0 0x40000 0 131072) = true ∧ ends (.tzero 0x80) = true
      ∧ (ends (.tmul 7 0 64 0 512) = true ∧ 0 + 64 ≤ 64)
      ∧ (let what : MatOp := .tdrain 7 0 0x3C000 0 [];
        ends what = true ∧ drainOpen (tiled what true) 0 what = true ∧ (0 : W64).getLsbD 0 = false ∧ (0 : W64).getLsbD 1 = false
          ∧ (fmtOf []).ct ≠ 10 ∧ (fmtOf []).ct ≠ 11 ∧ 256 * (codeWidth (fmtOf []).ct / 8) ≤ 256 * (codeWidth (fmtOf []).ct / 8))
      ∧ (let what : MatOp := .cred 0x100001 0x3FF80 0x3FF80 0x220000;
        let s := tiled what true;
        ends what = true ∧ (credArgs 0x100001 0x220000).inp ≤ 4 ∧ openReduction s (credArgs 0x100001 0x220000).tag 0 = none
          ∧ reductionOf s s.nextId = none ∧ 1 ≤ 0 + 1 ∧ (credArgs 0x100001 0x220000).root = 0) := by decide +kernel

/-- An output in a buffer holds no step, and changes no coach. -/
theorem foldl_keeps {σ α : Type} {P : σ → Prop} {f : σ → α → σ} (hf : ∀ s a, P s → P (f s a)) (l : List α) : ∀ s, P s → P (l.foldl f s) := by
  induction l with
  | nil => exact fun s h => h
  | cons a l ih => exact fun s h => ih _ (hf s a h)

theorem drainPut_near {t : Train} {tc g : Nat} {ps : PageMap} {d : DrainOut} (h : d.glob = false) (s : State) (off : Int) (bs : List Byte) :
    (drainPut t tc g ps d s off bs).doing = s.doing ∧ (drainPut t tc g ps d s off bs).coaches = s.coaches := by
  simp only [drainPut, h, Bool.false_eq_true, if_false]
  exact ⟨rfl, rfl⟩

theorem runTdrain_near (s : State) (g : Nat) (t : Train) (f : Fmt) (dst : W64) (ps : PageMap) :
    (runTdrain s g t 0 f 7 0 dst 0 ps).1.doing = s.doing ∧ (runTdrain s g t 0 f 7 0 dst 0 ps).1.coaches = s.coaches := by
  have h : ∀ c ∈ drainOuts f 0 dst 0, c.glob = false := by simp [drainOuts, bitOf]
  have e : ∃ c, drainOuts f 0 dst 0 = [c] := ⟨_, by simp [drainOuts, bitOf]; rfl⟩
  obtain ⟨c, e⟩ := e
  simp only [runTdrain, e, List.foldl_nil, drainOut]
  refine foldl_keeps (P := fun r : State × FlagSet => r.1.doing = s.doing ∧ r.1.coaches = s.coaches) (fun r i hr => ?_) _ _ ⟨rfl, rfl⟩
  have near := fun u off bs => drainPut_near (t := t) (tc := 0) (g := g) (ps := ps) (h c (e ▸ .head _)) u off bs
  dsimp only
  split
  · exact ⟨(near _ _ _).1.trans hr.1, (near _ _ _).2.trans hr.2⟩
  · exact ⟨((near _ _ _).1.trans (near _ _ _).1).trans hr.1, ((near _ _ _).2.trans (near _ _ _).2).trans hr.2⟩

theorem witness_MatrixUnitsRunTheirQueues_drain :
    let what : MatOp := .tdrain 7 0 0x3C000 0 []
    let s := tiled what true
    let r := runTdrain ({ s with doing := { ecc := .clean } }.setCore 0 0 { coreOf s 0 0 with matq := [] }) 0 convoy 0 (fmtOf []) 7 0 0x3C000 0 []
    heads s (.turn (.event (.matrixInstructionEnd 0 0))) = false ∧ r.1.doing.stall = none ∧ coachOf r.1 0 = some coachT := by
  intro what s r
  refine ⟨by decide +kernel, ?_, ?_⟩
  · rw [(runTdrain_near _ _ _ _ _ _).1]; rfl
  · show mget r.1.coaches 0 = _
    rw [(runTdrain_near _ _ _ _ _ _).2]; rfl

/-- A CRED of d0 with d1 as the root, the first of two cores and the last; partial sums on their way: past a stop outside the mask, at the
root before and behind the last of them, and where the ring is broken; and results for one receiver and for two. -/
def redOf (n : Nat) : Reduction :=
  { id := 50, tag := 0, pasid := 0, lit := 0x10220000, prm := 0x210003, n := 32
    contribs := (List.range n).map fun i => { ch := 0, coach := 0, op := 0, core := i, dst := 0x3FF80, all := true, level := .H, fslot := 0 } }
def zeroSums : List RxSum := List.replicate 32 (0, false)
def sumsAt (stop : Nat) : Packet :=
  { id := 40, seq := 40, src := 0, dst := 1, stop := stop, west := false, arrived := true, load := .reduction 50 1 0 zeroSums }
def reducing (r : Reduction) (p : Packet) : State := { worldM [] with reductions := [r], packets := [p] }
/-- The hops east of d0 and of d8, changed. -/
def hopped (s : State) (a b : Nat) : State :=
  let u := s.setChassis 0 { chassisOf s 0 with east := { state := a } }
  u.setChassis 8 { chassisOf u 8 with east := { state := b } }

theorem witness_MatrixUnitsRunTheirQueues_reductions :
    (let what : MatOp := .cred 0x210003 0 0x3FF80 0x10220000;
      let s : State := { tiled what true with reductions := [redOf 1] };
      ends what = true ∧ openReduction s 0 0 = some (redOf 1) ∧ reductionOf s 50 = some (redOf 1)
        ∧ (redOf 1).args.k ≤ (redOf 1).countAt 0 + 1 ∧ 0 ≠ (redOf 1).args.root ∧ (redOf 0).countAt 0 + 1 < (redOf 0).args.k)
      ∧ (let s := reducing (redOf 2) (sumsAt 2);
        (s.packets.find? fun q => q.id == 40) = some (sumsAt 2) ∧ reductionOf s 50 = some (redOf 2) ∧ 2 ≠ (redOf 2).args.root
          ∧ (redOf 2).args.mask.getLsbD 2 = false)
      ∧ (let s : State := { reducing (redOf 2) (sumsAt 1) with packets := [{ sumsAt 0 with id := 39, seq := 39 }, sumsAt 1] };
        (s.packets.find? fun q => q.id == 40) = some (sumsAt 1) ∧ behindPacket s (sumsAt 1) = true)
      ∧ (let s := reducing (redOf 2) (sumsAt 1);
        let g := (redOf 2).gather 1 1 0 zeroSums;
        behindPacket s (sumsAt 1) = false ∧ (redOf 2).n / 32 = 1 ∧ reductionOf s 50 = some (redOf 2) ∧ 1 = (redOf 2).args.root ∧ (redOf 2).results = none
          ∧ ((redOf 2).args.mask.getLsbD 1 = true ∧ ((mget g.incl 512).getD 0).testBit 1 = false ∧ (redOf 2).sent.getLsbD 1 = false ∧ parkedDie s 1 = false)
          ∧ ∀ d, d < 16 → (redOf 2).args.mask.getLsbD d = true → reachable s d 1 = true)
      ∧ (let r : Reduction := { redOf 2 with sums := [(512, zeroSums)], incl := [(512, 2)] };
        let s := reducing r (sumsAt 1);
        let g := r.gather 1 1 0 zeroSums;
        r.results = none ∧ (∀ d, d < 16 → r.args.mask.getLsbD d = true → ((mget g.incl 512).getD 0).testBit d = true)
          ∧ ∀ d, d < 16 → r.args.mask.getLsbD d = true → reachable s d 1 = true)
      ∧ (let s : State := hopped (reducing (redOf 2) (sumsAt 1)) 3 3;
        reductionOf s 50 = some (redOf 2) ∧ (redOf 2).args.mask.getLsbD 0 = true ∧ reachable s 0 (redOf 2).args.root = false)
      ∧ (let r : Reduction := { redOf 2 with results := some (List.replicate 32 0) };
        let s := hopped (reducing r (sumsAt 1)) 1 0;
        let x := r.contribs[0]?;
        reductionOf s 50 = some r ∧ x.isSome = true ∧ r.args.all = true ∧ 0 ∉ r.received ∧ pathOpen s r.args.root 0 = true ∧ stolenNow s 0 = false
          ∧ reachable s r.args.root 0 = true ∧ coachOf s 0 = some (coachM []) ∧ trainOf s (coachM []).train = some convoy
          ∧ (coachM []).exited ≠ BitVec.allOnes 32
          ∧ (({ r with received := [0] } : Reduction).receiver 1).isSome = true
          ∧ ∀ j, j < 3 → (({ r with received := [1, 0] } : Reduction).receiver j).isSome = false) := by
  decide +kernel

end Sys2Proof.Tests
end

