-- ==== Sys2Proof/Tests/WitnessEvents.lean ====
section
/-! SUPPORT. States and operands that meet the hypotheses of the statements about the ring and the peer ports, and about events of carriages. -/

namespace Sys2Proof.Tests

set_option Elab.async false

open Sys2Proof.Machine Sys2Proof.Rules

/-! ## The ring and the peer ports -/

/-- A payload and partial sums on their way east from a stop, and a hop east of d15 in a given state. -/
def flying (stop dst : Nat) (l : Load) : Packet := { id := 40, seq := 40, src := 14, dst := dst, stop := stop, west := false, load := l }
def flight (p : Packet) : State :=
  let s := hopped { posted (brook 1) p [] with copies := [haul 3] } 1 0
  s.setChassis 15 { chassisOf s 15 with east := { state := 1 } }
def payload : Load := .stream 30 0 20 0 [1, 2]

theorem witness_RingAndPeerPortsRun_packets :
    (let p := flying 15 2 payload;
      let s := flight p;
      (s.packets.find? fun q => q.id == 40) = some p ∧ p.arrived = false ∧ reachable s 15 2 = true ∧ s.switching = false
        ∧ (chassisOf s 15).east.state = 1 ∧ p.stop < 16 ∧ (p.west = false ∧ p.stop = 15))
      ∧ (let p := { flying 0 15 (.reduction 50 1 0 []) with west := true };
        let s := flight p;
        (s.packets.find? fun q => q.id == 40) = some p ∧ reachable s 0 15 = true ∧ (chassisOf s 15).east.state = 1 ∧ p.stop % 16 = 0)
      ∧ (let p := flying 0 1 payload;
        let s := flight p;
        reachable s 0 1 = true ∧ (chassisOf s 0).east.state = 1 ∧ ¬(p.west = false ∧ p.stop = 15))
      ∧ (let p := flying 0 1 payload;
        let s := hopped (flight p) 3 3;
        (s.packets.find? fun q => q.id == 40) = some p ∧ reachable s 0 1 = false ∧ p.load = payload
          ∧ (s.streams.find? fun v => v.id == 20) = some (brook 1) ∧ copyOf s 30 = some (haul 3) ∧ (haul 3).phase = 3
          ∧ (haul 3).issuer = some (0, 0) ∧ (coachOf s 0).map (fun c => decide (c.exited ≠ BitVec.allOnes 32)) = some true
          ∧ (trainOf s 1).map Train.completed = some false ∧ (brook 1).train = 1) := by decide +kernel

/-- A hop that is active, that retrains, for the 50 µs and beyond; the first and the second hop that go down; and a route switch. -/
def hopping (st since other : Nat) : State :=
  let s := hopped State.reset st other
  { s.setChassis 0 { chassisOf s 0 with east := { state := st, since := since } } with ns := 50000 }

theorem witness_RingAndPeerPortsRun_hops :
    (chassisOf (hopping 1 0 0) (hopAt 0 .east)).east.state = 1 ∧ (chassisOf (hopping 1 0 0) (hopAt 1 .west)).east.state = 1
      ∧ ((chassisOf (hopping 2 0 0) 0).east.state = 2 ∧ (hopping 2 0 0).ns ≤ (chassisOf (hopping 2 0 0) 0).east.since + 50000
        ∧ (chassisOf (hopping 2 0 0) 0).east.since + 50000 ≤ (hopping 2 0 0).ns)
      ∧ ((List.range 16).countP fun g => g ≠ 0 ∧ (chassisOf (hopping 2 0 0) g).east.state = 3) = 0
      ∧ ((List.range 16).countP fun g => g ≠ 0 ∧ (chassisOf (hopping 2 0 3) g).east.state = 3) = 1
      ∧ (hopping 2 0 3).reductions = []
      ∧ (let s := hopping 2 0 3
        let u := s.setChassis 4 { chassisOf s 4 with east := { state := 3 } }
        2 ≤ ((List.range 16).countP fun g => g ≠ 0 ∧ (chassisOf u g).east.state = 3) ∧ (chassisOf u 0).east.state = 2 ∧ u.reductions = [])
      ∧ ({ hopping 3 0 0 with switching := true } : State).switching = true ∧ (hopping 3 0 0).routeMode = 0
      ∧ (2 ≤ ({ hopping 3 0 3 with switching := true, routeMode := 2 } : State).routeMode) := by decide +kernel

/-- Peer port 0 trained, or not trained for 10 ms, with an access through it or none. -/
def peerPiece : Piece := at_ .peer 0x2000 4
def farEnd (o : Op) (p : Piece) (st : Nat) : State :=
  { pending o p with chassis := [(0, ground), (1, { cacheOn := true, peer := { state := st } })], ns := 10000000 }

theorem witness_RingAndPeerPortsRun_peers :
    (let s := farEnd ldOp (at_ .mem 0x2000 4) 2;
      (chassisOf s 1).peer.state = 2 ∧ (chassisOf s 1).peer.since + 50000 ≤ s.ns ∧ peerPieces s 0 = [])
      ∧ (let s := farEnd ldOp peerPiece 2;
        (chassisOf s 1).peer.state = 2 ∧ (chassisOf s 1).peer.since + 50000 ≤ s.ns ∧ peerPieces s 0 = [first] ∧ accessOf s first = some (site ldOp peerPiece)
          ∧ (site ldOp peerPiece).c.key = first.key ∧ (site ldOp peerPiece).c.exited ≠ BitVec.allOnes 32)
      ∧ (let s := farEnd ldOp peerPiece 0;
        2 ≤ s.stage ∧ (chassisOf s 1).peer.state = 0 ∧ (chassisOf s 1).peer.since + 10000000 ≤ s.ns)
      ∧ (let p := peerPiece;
        accessOf (farEnd ldOp p 1) first = some (site ldOp p) ∧ p.phase = 0 ∧ p.space = .peer
          ∧ accessOf (farEnd stOp p 1) first = some (site stOp p) ∧ (site stOp p).o.kind = .store) := by decide +kernel

/-- A peer's request for the last byte of a sector and the next one at home in d1, for one at home in a chassis that is cut off. -/
theorem witness_RingAndPeerPortsRun_requests :
    let s := farEnd ldOp peerPiece 1
    ((chassisOf s 1).peer.state = 1 ∧ (homeAt (0x100000201F + (2 - 1))).d = (homeAt 0x100000201F).d ∧ reachable s 1 (homeAt 0x100000201F).d = true
        ∧ pathOpen s 1 (homeAt 0x100000201F).d = true ∧ ([1, 2] : List Byte) ≠ [] ∧ ([1, 2] : List Byte).length = 2
        ∧ (chassisOf (hopped s 3 3) 1).peer.state = 1 ∧ reachable (hopped s 3 3) 1 (homeAt 0x2000).d = false)
      ∧ coherent s ∧ busesUp s ∧ quiet s := by
  intro s
  exact ⟨by decide +kernel, serene (by decide +kernel)⟩

/-! ## Carriages -/

/-- A coach whose carriage waits; with operations outstanding and errors of its lanes. -/
def waiter (w : Wait) (os : List Op) (es : SMap PendErr) : Coach :=
  { coachU with slots := [(0, { carr .U 0xFF with wait := some w })], ops := os, pend := es }
def waiterK (w : Wait) : Carriage := { carr .U 0xFF with wait := some w }
def loads (n : Nat) : List Op := (List.range n).map fun i => { ldOp with id := i }

/-- Whether a coach is as the clauses take it, with a carriage in slot 0. -/
def waits (c : Coach) (k : Carriage) : Bool :=
  decide (coachOf (world c) 0 = some c) && decide (c.key = 0) && decide (mget c.slots 0 = some k) && c.canIssue

/-- A record of an error that a WAIT for loads covers, and one that it does not. -/
def loadErr : PendErr := { cause := 0x20, addr := 0x40, load := true }
def tagErr : PendErr := { cause := 0x20, addr := 0x40, tags := 0x80 }

theorem witness_CarriageEventsEndTheirWaits_waits :
    (let w : Wait := .wait 2 63 62 0;
      let c := waiter w (loads 2) [(7, tagErr)];
      waits c (waiterK w) = true ∧ (c.ops.filter fun o => o.counter = .ld).length ≤ 2 ∧ (c.ops.filter fun o => o.counter = .tl).length ≤ 0
        ∧ ∀ l, l < 32 → (waiterK w).lanes.getLsbD l = true → ∀ e, mget c.pend l = some e →
          Covers.covers { load := true, store := false, copy := some (2 ^ 64) } e = false)
      ∧ (let c := { waiter (.waitc 0) [{ cpOp with cart := 1 }, { cpOp with id := 1, cart := 0 }] [(7, loadErr)] with cart := 0 };
        waits c (waiterK (.waitc 0)) = true ∧ (∀ o ∈ c.ops, o.counter = .cp → o.cart ≤ 0 → c.cart ≤ o.cart)
          ∧ ∀ l, l < 32 → (waiterK (.waitc 0)).lanes.getLsbD l = true → ∀ e, mget c.pend l = some e → (waitcCovers c 0).covers e = false)
      ∧ (let w : Wait := .waitg 0x80;
        let c := waiter w [{ cmdOp with counter := .tag 0 }] [(7, loadErr)];
        waits c (waiterK w) = true ∧ (∀ t, t < 8 → (0x80 : BitVec 8).getLsbD t = true → (c.ops.filter fun o => o.counter = .tag t).length = 0)
          ∧ ∀ l, l < 32 → (waiterK w).lanes.getLsbD l = true → ∀ e, mget c.pend l = some e → Covers.covers { tags := 0x80 } e = false) := by
  refine ⟨⟨by decide +kernel, by decide +kernel, by decide +kernel, ?_⟩, ⟨by decide +kernel, by decide +kernel, ?_⟩,
    by decide +kernel, by decide +kernel, ?_⟩ <;> intro l _ _ e h <;> simp only [waiter, mget] at h <;> split at h <;> cases h <;> decide +kernel

/-- A sleeper whose time has come, a YIELD that is over, and a carriage blocked for 16 clocks with an entry in the siding. -/
def sider : Coach :=
  { coachU with slots := [(0, { carr .U 0xFF with blocked := 16 })], siding := [{ pc := 0x2000, lanes := 0x100 }], exited := 0xFFFFFE00 }

theorem witness_CarriageEventsEndTheirWaits_times :
    (waits (waiter .sleep [] []) (waiterK .sleep) = true ∧ (waiterK .sleep).wake ≤ (chassisOf (world coachU) 0).clk)
      ∧ (waits coachU (carr .U 0xFF) = true ∧ (carr .U 0xFF).yieldUntil ≤ (chassisOf (world coachU) 0).clk)
      ∧ (let k : Carriage := { carr .U 0xFF with blocked := 16 };
        waits sider k = true ∧ 16 ≤ k.blocked ∧ k.promoted = 0 ∧ ∃ e ∈ sider.siding, e.held = none) := by decide +kernel

/-- A FENCE behind which nothing is outstanding, a SCOPEW of every lane, a frame at S and at H, and a fetch from a misaligned pc. -/
def fencer : Coach := { waiter .fence [{ ldOp with stamp := 6 }] [] with fences := [{ lanes := 0xFF, wide := true, stamp := 5 }] }
def scopeRec : ScopeWrite := { n := 31, lanes := 0xFF, mask := 1, stamp := 5, pc := 0x1000, level := .U }
def scoper : Coach := { waiter (.scopew 31) [] [] with scopews := [scopeRec] }
def strayK : Carriage := { carr .U 0xFF with pc := 0x1002 }
def stray : Coach := { coachU with slots := [(0, strayK)] }

theorem witness_CarriageEventsEndTheirWaits_fences_and_frames :
    (waits fencer (waiterK .fence) = true ∧ fencer.fences = [{ lanes := 0xFF, wide := true, stamp := 5 }]
        ∧ fenceMet (world fencer) fencer { lanes := 0xFF, wide := true, stamp := 5 } = true ∧ (waiterK .fence).lanes &&& ~~~0xFF#32 = 0)
      ∧ (waits scoper (waiterK (.scopew 31)) = true ∧ coachOf (ringed (world scoper)) 0 = some scoper ∧ scopeRec.done = false
        ∧ scopeRec.lanes &&& ~~~(waiterK (.scopew 31)).lanes = 0 ∧ scopeRec.pc = (waiterK (.scopew 31)).pc ∧ scopeRec.level = .U
        ∧ scopeBefore (ringed (world scoper)) scoper scopeRec = false ∧ ∀ d, d < 16 → pathOpen (ringed (world scoper)) 0 d = true)
      ∧ (waits coachS (carr .S 0xFF) = true ∧ (frameOf coachS 0 .S).busy = true ∧ (frameOf coachS 0 .S).rearmed = false
        ∧ (frameOf coachS 0 .S).depth < 7 ∧ waits coachH (carr .H 0xFFFFFFFF) = true ∧ (frameOf coachH 0 .H).busy = false)
      ∧ (waits stray strayK = true ∧ slotOpen (world stray) 0 = true ∧ slotFree (world stray) stray = true
        ∧ choosable (world stray) stray strayK = true ∧ chosenNow (world stray) stray 0 strayK = true
        ∧ (match fetchOf (atHead (world stray) (heads (world stray) (.turn (.issue ⟨0, 0, 0⟩)))) stray 0 strayK with
          | .fault t => !reportWaits (world stray) stray { strayK with rep := none } ((lanesOf strayK.lanes).map fun l => { t with lane := l })
          | _ => false) = true) := by decide +kernel

/-- EXIT of some lanes, with a load outstanding, and of the last lanes of a coach. -/
def leaver (os : List Op) (m : Mask) : Coach := { waiter .exit os [] with exited := m }

theorem witness_CarriageEventsEndTheirWaits_exits :
    (let c := leaver (loads 1) 0xFFFFFE00;
      waits c (waiterK .exit) = true ∧ (waiterK .exit).level = .U ∧ (∀ o ∈ c.ops, o.counter ≠ .none)
        ∧ (∀ l, l < 32 → (waiterK .exit).lanes.getLsbD l = true → mget c.pend l = none) ∧ c.ports = []
        ∧ c.exited ||| (waiterK .exit).lanes ≠ BitVec.allOnes 32 ∧ orderly c)
      ∧ (let c := leaver [] 0xFFFFFF00;
        waits c (waiterK .exit) = true ∧ c.exited ||| (waiterK .exit).lanes = BitVec.allOnes 32 ∧ c.ops = [] ∧ c.yard = false ∧ c.gone = false
          ∧ c.outr.live = false
          ∧ trainOf (world c) c.train = some convoy ∧ 2 ≤ convoy.left) :=
  by unfold orderly; decide +kernel

/-- Barrier 15 of a train on one core and of one on two: every live lane has arrived, and nothing is outstanding. -/
def arriver : Coach := { waiter (.bar 15) [] [] with arrived := [(15, 0xFF)] }
def wideTrain : Train := { convoy with cores := [0, 1] }

theorem witness_CarriageEventsEndTheirWaits_barriers :
    let s := world arriver
    let u : State := { s with trains := [wideTrain] }
    trainOf s 1 = some convoy ∧ (s.coaches.map Prod.fst).Pairwise (· < ·) ∧ (∃ e ∈ s.coaches, e.2.train = 1 ∧ rget e.2.arrived 15 ≠ 0)
      ∧ (∀ e ∈ s.coaches, e.2.train = 1 → rget e.2.arrived 15 ||| e.2.exited = BitVec.allOnes 32 ∧ ∀ o ∈ e.2.ops, o.fenced = false)
      ∧ convoy.cores.length ≤ 1 ∧ orderly arriver
      ∧ trainOf u 1 = some wideTrain ∧ 2 ≤ wideTrain.cores.length
      ∧ (∀ e ∈ u.coaches, e.2.ch = wideTrain.ch → e.2.core ∈ wideTrain.cores → ∀ o ∈ e.2.ops, o.kind = .store → ∀ p ∈ o.pieces, p.phase ≠ 0) :=
  by unfold orderly; decide +kernel

end Sys2Proof.Tests
end

