-- ==== Sys2Proof/Tests/WitnessTranslation.lean ====
section
/-! SUPPORT. States and operands that meet the hypotheses of the statement about translation and page scans. -/

namespace Sys2Proof.Tests

set_option Elab.async false

open Sys2Proof.Machine Sys2Proof.Rules

/-- A leaf of a contiguous group of 16 at level 1, for an address in its fourth span; an ordinary one, and the last span of a page. -/
theorem witness_TranslationWalksAndScans_leaves :
    (let e : Nat := 0x2600243;
      badEntry e 1 = false ∧ isTable e = false ∧ field e 51 12 * 4096 % pageOf e 1 = 0x600000 % pageOf e 1 / spanOf 1 * spanOf 1)
      ∧ (badEntry 0x43 0 = false ∧ isTable 0x43 = false
        ∧ field 0x43 51 12 * 4096 % pageOf 0x43 0 = 0xFFF % pageOf 0x43 0 / spanOf 0 * spanOf 0)
      ∧ (badEntry 0x40000043 2 = false ∧ isTable 0x40000043 = false
        ∧ field 0x40000043 51 12 * 4096 % pageOf 0x40000043 2 = 0x3FFFFFFF % pageOf 0x40000043 2 / spanOf 2 * spanOf 2) := by decide

/-- Two misses of two pages at H, and a walk from the root at 0x10000 with the reads that have returned. -/
def missH (page : Nat) : Miss := { core := 0, ctx := { vmid := 0, pasid := 0, hyp := true }, page := page, acc := .read, level := .H }
def walker (rs : List (Nat × Sys2Proof.W64)) : Walk := { id := 20, miss := missH 0, reads := rs, cdtb := 0, s2tb := 0, ttbr := 0x10001 }
def steps1 : List (Nat × Sys2Proof.W64) := [(0x10000, 0x11001)]
def steps2 : List (Nat × Sys2Proof.W64) := [(0x10000, 0x11001), (0x11000, 0x12001)]

/-- Chassis `d` in a walk, over memory that holds its tables, and one byte of the last entry. -/
def walking (d : Nat) (w : Walk) (b : Byte) : State :=
  let s : State := { world coachU with dram := [(0x11000, 0x01), (0x11001, 0x20), (0x11002, 0x01), (0x12000, b)] }
  s.setChassis d { chassisOf s d with walks := [w], misses := [missH 0, missH 1] }

theorem witness_TranslationWalksAndScans_starts :
    let c := chassisOf (walking 0 (walker []) 0) 0
    c.misses = [missH 0] ++ missH 1 :: [] ∧ c.walks.length < 64 ∧ (∀ w ∈ c.walks, w.miss.near (missH 1) = false)
      ∧ ∀ x ∈ [missH 0], ∃ w ∈ c.walks, w.miss.near x = true := by decide +kernel

/-- Whether the read that a walk needs next can return in a machine, at chassis `d`. -/
def reads (s : State) (d a : Nat) (w : Walk) : Bool :=
  decide (((chassisOf s d).walks.find? fun x => x.id == w.id) = some w)
    && (match walk w.roots w.miss w.reads with
      | .need b on => b == a && (on.all fun q => q.bits == 0)
      | _ => false)
    && (chassisOf s d).table.isEmpty && decide ((resolve a).map Home.wa = some a) && decide (a % 128 + 8 ≤ 128)

/-- A read with more to come; the last one of a walk whose leaf is complete, wants its a bit, and is no entry; one that nothing reaches. -/
theorem witness_TranslationWalksAndScans_reads :
    (let s := walking 0 (walker steps1) 0x43;
      reads s 0 0x11000 (walker steps1) = true ∧ reachable s 0 0 = true ∧ pathOpen s 0 0 = true ∧ memValue s 0x11000 8 = 0x12001
        ∧ (match walk (walker []).roots (missH 0) (steps1 ++ [(0x11000, BitVec.ofNat 64 (memValue s 0x11000 8))]) with
          | .need b _ => b == 0x12000
          | _ => false) = true)
      ∧ (let s := walking 0 (walker steps2) 0x43;
        reads s 0 0x12000 (walker steps2) = true
          ∧ (match walk (walker []).roots (missH 0) (steps2 ++ [(0x12000, BitVec.ofNat 64 (memValue s 0x12000 8))]) with
            | .ok x _ _ => x.used.length == 1 && x.used.all fun q => q.bits == 0
            | _ => false) = true)
      ∧ (let s := walking 0 (walker steps2) 0x03;
        reads s 0 0x12000 (walker steps2) = true
          ∧ (match walk (walker []).roots (missH 0) (steps2 ++ [(0x12000, BitVec.ofNat 64 (memValue s 0x12000 8))]) with
            | .ok x _ _ => decide ((x.used.filter fun q => q.bits != 0).map (fun q => (q.addr, q.value)) = [(0x12000, 0x03)])
            | _ => false) = true
          ∧ memValue s 0x12000 8 = 0x03 ∧ (resolve 0x12000).map Home.wa = some 0x12000 ∧ 0x12000 % 8 = 0 ∧ reachable s 0 0 = true
          ∧ pathOpen s 0 0 = true)
      ∧ (let s := walking 0 (walker steps2) 0x00;
        reads s 0 0x12000 (walker steps2) = true
          ∧ (match walk (walker []).roots (missH 0) (steps2 ++ [(0x12000, BitVec.ofNat 64 (memValue s 0x12000 8))]) with
            | .fail _ us => us.isEmpty
            | _ => false) = true)
      ∧ (let s := hopped (walking 1 (walker steps2) 0x43) 3 3;
        reads s 1 0x12000 (walker steps2) = true ∧ reachable s 1 0 = false) := by decide +kernel

/-- Memory agrees, every home takes accesses, and each line has a way, in all of these machines. -/
theorem witness_TranslationWalksAndScans_memory (s : State) (hs : s ∈ [walking 0 (walker steps1) 0x43, walking 0 (walker steps2) 0x43,
    walking 0 (walker steps2) 0x03, walking 0 (walker steps2) 0x00, hopped (walking 1 (walker steps2) 0x43) 3 3]) :
    (coherent s ∧ busesUp s ∧ quiet s) ∧ hasWay s (lineOf 0x11000) ∧ hasWay s (lineOf 0x12000) := by
  simp only [List.mem_cons, List.not_mem_nil, or_false] at hs
  rcases hs with rfl | rfl | rfl | rfl | rfl <;>
    exact ⟨serene (by decide +kernel), Or.inr (by decide +kernel), Or.inr (by decide +kernel)⟩

/-- A walk at H where hv.ttbr is enabled, and where it is not. -/
theorem witness_TranslationWalksAndScans_roots :
    ((missH 0).ctx.hyp = true ∧ (walker []).roots.ttbr.testBit 0 = true)
      ∧ ({ walker [] with ttbr := 0 } : Walk).roots.ttbr.testBit 0 = false ∧ (missH (2 ^ 52 - 1)).page < 2 ^ 52 := by decide +kernel

/-- An invalidation by VMID that has still to reach d15, and one that all have acknowledged, behind a load that is performed. -/
def invOp (acks : BitVec 16) : Op := { id := 0, counter := .tl, kind := .tlbinv 2 0 0 0, pieces := [], stamp := 5, acks := acks, acked := 6 }
def inverter (acks : BitVec 16) : Coach :=
  { coachU with ops := [invOp acks, { ldOp with id := 1, stamp := 4, pieces := [{ at_ .mem 0x2000 4 with phase := 1 }] }], nextOp := 2 }

theorem witness_TranslationWalksAndScans_invalidations :
    (let c := inverter 0x7FFF;
      let s := ringed (world c);
      coachOf s first.key = some c ∧ opOf c first.op = some (invOp 0x7FFF) ∧ (invOp 0x7FFF).acks.getLsbD 15 = false
        ∧ storesBefore c (invOp 0x7FFF) = false ∧ pathOpen s c.ch 15 = true)
      ∧ (let c := inverter 0xFFFF;
        let s := world c;
        coachOf s first.key = some c ∧ opOf c first.op = some (invOp 0xFFFF) ∧ (invOp 0xFFFF).acks = BitVec.allOnes 16
          ∧ (invOp 0xFFFF).done = false ∧ c.exited ≠ BitVec.allOnes 32
          ∧ ∀ e ∈ s.coaches, ∀ q ∈ e.2.ops, q.stamp < (invOp 0xFFFF).acked → (ctxOf e.2 q.level).hit 2 0 0 = true → q.translated s e.2 = false) := by
  decide +kernel

/-- A page that a fetch waits for; a scan of page 1 that a write has spoilt, and one that it has not. -/
def unscanned : State := { world coachU with chassis := [(0, { ground with scanned := [] })] }
def scanning (spoilt : Bool) (bs : List Host.Cell) : State :=
  { world coachU with chassis := [(0, { ground with scanned := [], scans := [{ page := 1, spoilt := spoilt }] })], dram := bs }

theorem witness_TranslationWalksAndScans_scans :
    (let c := chassisOf unscanned 0;
      1 * 4096 / 2 ^ 36 % 16 = 0 ∧ c.scans = [] ∧ mget c.scanned 1 = none ∧ scanWanted unscanned 1 = true)
      ∧ (chassisOf (scanning true []) 0).scans = [{ page := 1, spoilt := true }]
      ∧ ((chassisOf (scanning false []) 0).scans = [{ page := 1, spoilt := false }] ∧ 1 * 4096 / 2 ^ 36 = 0) := by decide +kernel

theorem witness_TranslationWalksAndScans_quiet :
    coherent (scanning false []) ∧ busesUp (scanning false []) ∧ quiet (scanning false []) := serene (by decide +kernel)

theorem blank_page {w : Nat → Nat} {n : Nat} (h : ∀ j, j ≤ n → w j = 0) : literalWord w n = false ∧ scannedWord w n = true := by
  constructor
  · cases n with
    | zero => rfl
    | succ n => simp [literalWord, h n (by omega), show twoWordOpcode (opcodeOf 0) = false by decide]
  · simp [scannedWord, h n (Nat.le_refl n), show twoWordOpcode (opcodeOf 0) = false by decide, show decodeWords 0 0 = .ok .nop by decide]

/-- A machine whose memory is zeros up to an address. -/
theorem memValue_blank {s : State} (hb : bare s = true) {a : Nat} (h : ∀ i, i < 4 → cget s.dram (a + i) = 0) : memValue s a 4 = 0 := by
  have hm : ∀ i, i < 4 → memByte s (a + i) = 0 := fun i hi => by simp [memByte, cacheLine, bare_cache hb, mget, h i hi]
  have h0 : memByte s a = 0 := hm 0 (by decide)
  simp [memValue, List.range_succ, h0, hm 1, hm 2, hm 3, leNat]

/-- A word of which the decoder makes nothing. -/
theorem crooked_word {w : Nat → Nat} {n : Nat} (h : ∀ j, j < n → w j = 0) (hn : w n = 0xFF000000) :
    ¬(literalWord w n = true ∨ scannedWord w n = true) := by
  have h1 : literalWord w n = false := by
    cases n with
    | zero => rfl
    | succ n => simp [literalWord, h n (by omega), show twoWordOpcode (opcodeOf 0) = false by decide]
  simp [h1, scannedWord, hn, show decodeWords 0xFF000000 0 = .error .unassigned by decide]

theorem cget_one (x a : Nat) (b : Byte) (h : a ≠ x) : cget [(x, b)] a = 0 := by simp [cget, Ne.symm h]

/-- Every word of a page of zeros can be an instruction; a word that is none, alone at the first or the last place, is where a scan stops. -/
theorem witness_TranslationWalksAndScans_pages :
    (let s := scanning false [];
      coherent s ∧ ∀ n, n < 1024 → literalWord (fun n => memValue s (1 * 4096 + 4 * n) 4) n = true
        ∨ scannedWord (fun n => memValue s (1 * 4096 + 4 * n) 4) n = true)
      ∧ ∀ k, k = 0 ∨ k = 1023 →
        let s := scanning false [(0x1003 + 4 * k, 0xFF)];
        let word (n : Nat) : Nat := memValue s (1 * 4096 + 4 * n) 4;
        coherent s ∧ ¬(literalWord word k = true ∨ scannedWord word k = true)
          ∧ ∀ j, j < k → literalWord word j = true ∨ scannedWord word j = true := by
  refine ⟨⟨coherent_bare (by decide +kernel), fun n _ => .inr (blank_page fun j _ => memValue_blank (by decide +kernel) fun i _ => rfl).2⟩, ?_⟩
  intro k hk
  have hb : bare (scanning false [(0x1003 + 4 * k, 0xFF)]) = true := rfl
  have zero : ∀ j, j < k → memValue (scanning false [(0x1003 + 4 * k, 0xFF)]) (1 * 4096 + 4 * j) 4 = 0 := fun j hj =>
    memValue_blank hb fun i hi => cget_one _ _ _ (by omega)
  refine ⟨coherent_bare hb, crooked_word zero ?_, fun j hj => .inr (blank_page fun i hi => zero i (by omega)).2⟩
  rcases hk with rfl | rfl <;> decide +kernel

end Sys2Proof.Tests
end

