-- ==== Sys2Proof/Tests/WitnessHost.lean ====
section
/-! SUPPORT. States and operands that meet the hypotheses of the statements about reset, start, the host's accesses and teardown. -/

namespace Sys2Proof.Tests

set_option Elab.async false

open Sys2Proof.Machine Sys2Proof.Rules

/-! ## Start -/

/-- The module with an image check that runs. -/
def checking (a n : Nat) : State := { State.reset with check := some (a, n) }

/-- The module in a stage. -/
def staged (n : Nat) : State := { State.reset with stage := n, qtbase := 0x20001, qtsize := 8, evqBase := 0x50001, evqCtl := 0x26 }

theorem witness_ResetStartAndHostAccesses_start :
    State.reset.powered = true ∧ ({ State.reset with powered := false } : State).powered = false
      ∧ (State.reset.stage = 0 ∧ State.reset.stageErr = 0 ∧ State.reset.check = none ∧ (0x0000100000001001 : Sys2Proof.W64).getLsbD 0 = true
        ∧ (0x0000100000001000 : Sys2Proof.W64).getLsbD 0 = false)
      ∧ ((staged 1).stage ≠ 0 ∧ (checking 0 1).check.isSome = true)
      ∧ ((staged 1).stage = 1 ∧ (staged 1).stageErr = 0) ∧ (staged 2).stage = 2 ∧ (staged 2).stageErr = 0 ∧ (staged 3).stage ≠ 2 := by
  decide +kernel

/-- An image of no bytes, one of more than 16 MiB, one that goes on beyond d0's memory, and two that fit. Whether an image that fits keeps the form, and
what its signatures and its version then give, are constants that the model leaves open: the clauses are the alternatives of each. -/
theorem witness_ResetStartAndHostAccesses_images :
    (∀ p ∈ [(0, 0), (0, 0x1001000), (0xFFFFFF000, 0x2000)],
        (checking p.1 p.2).check = some p ∧ ¬(0 < p.2 ∧ p.2 ≤ 4096 * 4096 ∧ p.1 + p.2 ≤ 2 ^ 36))
      ∧ ∀ p ∈ [(0, 0x1000), (0xFFFFFF000, 0x1000)],
        ((checking p.1 p.2).check = some p ∧ 0 < p.2 ∧ p.2 ≤ 4096 * 4096 ∧ p.1 + p.2 ≤ 2 ^ 36 ∧ p.1 % 32 = 0 ∧ p.2 % 32 = 0)
          ∧ coherent (checking p.1 p.2) ∧ busesUp (checking p.1 p.2) ∧ quiet (checking p.1 p.2) := by
  refine ⟨by decide +kernel, ?_⟩
  simp only [List.mem_cons, List.not_mem_nil, or_false, forall_eq_or_imp, forall_eq]
  exact ⟨⟨by decide +kernel, serene (by decide +kernel)⟩, by decide +kernel, serene (by decide +kernel)⟩

/-! ## BAR2 -/

/-- d13 to d15 belong to the third virtual function. -/
def threeDies : State := [13, 14, 15].foldl (fun s d => s.setChassis d { chassisOf s d with func := 3 }) (staged 3)

/-- Two bytes in the last place before 2^36 and the next chassis, before S1, in S1, and with the ring. -/
theorem witness_ResetStartAndHostAccesses_bar2 :
    ((let s := State.reset;
        barPlace s 0 0x1000 = some 0x1000 ∧ barPlace s 0 (0x1000 + (([1, 2] : List Byte).length - 1)) = some 0x1001)
      ∧ (let s : State := { State.reset with stage := 1, bar2 := 40 };
        barPlace s 0 0xFFFFFFFFFE = some 0xFFFFFFFFFE ∧ barPlace s 0 0xFFFFFFFFFF = some 0xFFFFFFFFFF
          ∧ 0xFFFFFFFFFE / 2 ^ 36 % 16 = 0xFFFFFFFFFF / 2 ^ 36 % 16)
      ∧ (let s := hopped (world coachU) 1 1; barPlace s 0 0x2000 = some 0x2000 ∧ barPlace s 0 0x2001 = some 0x2001)
      ∧ refusedAs threeDies 3 0x3000000000 4 = .unsupported ∧ refusedAs threeDies 3 0x4000000000 4 = .abort)
      ∧ (barOpen State.reset 0x1000 2 ∧ coherent State.reset ∧ busesUp State.reset)
      ∧ barOpen { State.reset with stage := 1, bar2 := 40 } 0xFFFFFFFFFE 2
      ∧ (barOpen (hopped (world coachU) 1 1) 0x2000 2 ∧ coherent (hopped (world coachU) 1 1) ∧ busesUp (hopped (world coachU) 1 1)) := by
  refine ⟨by decide +kernel, ?_, ⟨.inr (.inl rfl), fun _ _ => (serene (by decide +kernel)).2.2 _⟩, ?_⟩
  · obtain ⟨c, b, q⟩ := serene (s := State.reset) (by decide +kernel)
    exact ⟨⟨.inl (by decide +kernel), fun _ _ => q _⟩, c, b⟩
  · obtain ⟨c, b, q⟩ := serene (s := hopped (world coachU) 1 1) (by decide +kernel)
    exact ⟨⟨.inr (.inr (by decide +kernel)), fun _ _ => q _⟩, c, b⟩

/-- Refusals: beyond the BAR, across its end, before S1, at a chassis that nothing reaches, and beyond the chassis of a virtual function. -/
theorem witness_ResetStartAndHostAccesses_refused :
    barRefused State.reset 0 0x1000000000 1 ∧ barRefused State.reset 0 0xFFFFFFFFF 2
      ∧ (barRefused { State.reset with bar2 := 40 } 0 0x1000000000 1
        ∧ barRefused { hopped (world coachU) 3 3 with bar2 := 40 } 0 0x1000000000 1)
      ∧ barRefused threeDies 3 0x3000000000 4 ∧ barRefused threeDies 3 0x4000000000 4 :=
  ⟨.inl (by decide +kernel), .inr (.inl (by decide +kernel)),
    ⟨.inr (.inr ⟨0x1000000000, by decide +kernel⟩), .inr (.inr ⟨0x1000000000, by decide +kernel⟩)⟩, .inl (by decide +kernel), .inl (by decide +kernel)⟩

/-- A turn of a read through BAR0: of the first register and of ctx.savebase, at the first and the last chassis, before S2 and after. -/
def asked (s : State) (f off n : Nat) : State := { s with agenda := [.bar0Read f off n] }

theorem witness_ResetStartAndHostAccesses_bar0 :
    (let s := asked State.reset 0 0 8; s.powered = true ∧ s.agenda = .bar0Read 0 0 8 :: [] ∧ 0 < 2 ^ 26 ∧ 0 % 2 ^ 22 = 0)
      ∧ blockOpen (asked State.reset 0 0 8) (0 / 2 ^ 22)
      ∧ blockOpen (asked { State.reset with stage := 1 } 0 0x3C00400 8) (0x3C00400 / 2 ^ 22)
      ∧ (0x3C00400 < 2 ^ 26 ∧ 0x3C00400 % 2 ^ 22 = 0x000400)
      ∧ (2 ^ 26 ≤ 0x4000000 ∧ ¬((2 = 4 ∨ 2 = 8) ∧ 0 % 2 = 0) ∧ ¬((8 = 4 ∨ 8 = 8) ∧ 4 % 8 = 0))
      ∧ (let s := asked State.reset 0 0x400000 4; s.stage = 0 ∧ 0x400000 / 2 ^ 22 ≠ 0)
      ∧ (let s := asked (hopped (world coachU) 3 3) 0 0x400000 4; 2 ≤ s.stage ∧ reachable s 0 (0x400000 / 2 ^ 22) = false ∧ 0x400000 % 4 = 0) :=
  ⟨by decide +kernel, .inl (by decide), .inr (.inl rfl), by decide +kernel⟩

/-! ## Registers, events, teardown -/

/-- Chassis that run; a size or a place that no register has; an event store with one event, with the ring enabled and not. -/
def storing (es : List HostEvent) : State := { (staged 3).setChassis 15 { outbound := es } with evqTail := 5 }
def anEvent : HostEvent := { ty := 11, ch := 15, data := [7] }

theorem witness_ResetStartAndHostAccesses_registers :
    (blockOpen State.reset 0 ∧ blockOpen { State.reset with stage := 1 } 15 ∧ blockOpen (ringed (world coachU)) 15
        ∧ (State.reset.stage = 0 ∧ 15 ≠ 0) ∧ reachable (hopped (world coachU) 3 3) 0 1 = false ∧ 2 ≤ (hopped (world coachU) 3 3).stage)
      ∧ ((chassisOf State.reset 15).parkState ≠ 2 ∧ ¬((2 = 4 ∨ 2 = 8) ∧ 0 % 2 = 0 ∧ 0 < 2 ^ 22) ∧ ¬((8 = 4 ∨ 8 = 8) ∧ 4 % 8 = 0 ∧ 4 < 2 ^ 22)
        ∧ ¬((4 = 4 ∨ 4 = 8) ∧ 0x400000 % 4 = 0 ∧ 0x400000 < 2 ^ 22))
      ∧ State.reset.ceiling < 2048
      ∧ (chassisOf (storing []) 15).outbound = []
      ∧ (chassisOf (storing [anEvent]) 15).outbound = anEvent :: [] ∧ anEvent.data.length ≤ 3 ∧ queueOpen (storing [anEvent])
      ∧ ¬queueOpen { storing [anEvent] with evqBase := 0 } := by
  refine ⟨⟨.inl (by decide), .inr (.inl rfl), .inr (.inr (by decide +kernel)), by decide +kernel⟩, ?_⟩
  unfold queueOpen
  decide +kernel

/-- A teardown of a PASID that runs; function resets with a PASID before them, with none and no queue, and with queue 5 of function 3. -/
def tearing (fs : List (BitVec 20)) : State :=
  ringed { staged 3 with
    teardown := some 0, flr := fs, coaches := [(0, coachU)], trains := [convoy], launches := [errand]
    dram := [(0x20148, 9), (0x2014E, 1), (0x2014F, 3)] }
def idling (fs : List (BitVec 20)) : State := { tearing fs with teardown := none }

/-- A teardown that a walk of its PASID holds. -/
def walkedTeardown : State :=
  (tearing []).setChassis 4 { chassisOf (tearing []) 4 with
    walks := [{ id := 20, miss := { missH 0 with ctx := { vmid := 0, pasid := 0, hyp := false } }, reads := [], cdtb := 0, s2tb := 0, ttbr := 0 }] }

theorem witness_ResetStartAndHostAccesses_teardown :
    ((tearing []).teardown.isSome = true ∧ (idling []).teardown = none ∧ ((tearing []).teardown = some 0 ∧ (tearing []).flr = [])
      ∧ ((∀ e ∈ (tearing []).chassis, e.2.walks = []) ∧ walkedTeardown.teardown = some 0 ∧ walkedTeardown.flr = []
        ∧ ∃ e ∈ walkedTeardown.chassis, ∃ w ∈ e.2.walks, w.miss.ctx.hyp = false ∧ w.miss.ctx.pasid = (0 : BitVec 20).toNat))
      ∧ (let qs (s : State) (n : Nat) : List Nat := (List.range 4096).filter fun q => q < s.qtsize && descFunc s q == n;
        (qs (idling []) 16 = [] ∧ (idling []).flr = [])
          ∧ (qs (idling [7]) 3 = [5] ∧ ∃ ps, (idling [7]).flr ++ ([5].map fun q => BitVec.ofNat 20 (queuePasid (idling [7]) q)).eraseDups = 7 :: ps)
          ∧ qs (tearing [7]) 3 = [5] ∧ qs (tearing [7]) 1 = [])
      ∧ (∀ q, q = 5 → stateByte (idling [7]) q 0x2014E) ∧ calm (idling [7]) ∧ calm (tearing [7]) := by
  refine ⟨by decide +kernel, ⟨by decide +kernel, ⟨by decide +kernel, [9], by decide +kernel⟩, by decide +kernel⟩, ?_,
    calm_of (by decide +kernel), calm_of (by decide +kernel)⟩
  rintro q rfl
  exact ⟨(resolve 0x2014E).getD ⟨0, 0, 0, 0, 0⟩, by decide +kernel⟩

end Sys2Proof.Tests
end

