-- ==== Sys2Proof/Tests/WitnessQueues.lean ====
section
/-! SUPPORT. States and operands that meet the hypotheses of the statement about queues, launches and trains: doorbells, slots, rounds, packets
and bundles. -/

namespace Sys2Proof.Tests

set_option Elab.async false

open Sys2Proof.Machine Sys2Proof.Rules

/-! ## Reading packets through a walk -/

/-- The machine in the middle of a step that has entered some banks. -/
def banked (s : State) (ks : List Nat) : State := { s with doing := { s.doing with banks := ks } }

/-- Whether what a step reads in d0 comes from the cells and leaves the machine as it is, but for the banks that it enters: the caches are off,
the ring is up, no error is there, and every bus of d0 has just carried an operation. -/
def plainWorld (s : State) : Bool :=
  let c := chassisOf s 0
  decide (mset s.chassis 0 c = s.chassis) && decide (s.doing = {}) && s.flaws.isEmpty && whole s && awake s && bare s && !c.cacheOn
    && pathOpen s 0 0 && reachable s 0 0
    && (List.range 16).all fun col => decide (mset c.buses col { busOf c col with lastOp := c.clk } = c.buses)

/-- Whether `n` bytes at an address are in d0's memory. -/
def here (s : State) (a n : Nat) : Bool :=
  decide ((resolve a).map Home.wa = some a) && lineDie (lineOf a) == 0 && (homeAt a).d == 0 && !(missingSectors s a n).isEmpty
    && (missingSectors s a n).all fun wa => (homeAt wa).d == 0 && decide ((homeAt wa).col < 16)

theorem vmid_banked (s : State) (ks : List Nat) (d : Nat) : vmidOf (banked s ks) d = vmidOf s d := rfl

theorem doing_banked {s : State} (h : s.doing = {}) (ks : List Nat) :
    ({ banked s ks with doing := { (banked s ks).doing with ecc := .clean } } : State) = banked s ks := by
  simp [banked, h]

theorem enterUnit_banked {s : State} (h : plainWorld s = true) {wa : Nat} (hd : (homeAt wa).d = 0) (hc : (homeAt wa).col < 16) (ks : List Nat) :
    enterUnit (banked s ks) wa = banked s (bankKey wa :: ks) := by
  simp only [plainWorld, Bool.and_eq_true, decide_eq_true_eq, List.all_eq_true, List.mem_range] at h
  have hb := bus_idle h.1.1.1.1.1.1.2 0 (homeAt wa).col
  simp only [idleBus, Bool.and_eq_true, beq_iff_eq, List.isEmpty_iff] at hb
  obtain ⟨⟨⟨h1, h2⟩, h3⟩, h4⟩ := hb
  have ho : unitOpen (banked s ks) wa = true := by
    have hq : queueAt (banked s ks) wa = [] := by simp [queueAt, hd, show chassisOf (banked s ks) 0 = chassisOf s 0 from rfl, h2, mget]
    have ha : arrivalsAt (banked s ks) wa = [] := by simp [arrivalsAt, hd, show chassisOf (banked s ks) 0 = chassisOf s 0 from rfl, h3]
    simp [unitOpen, hd, show chassisOf (banked s ks) 0 = chassisOf s 0 from rfl, h1, refreshing, h4, mget, hq, ha]
  have he : ({ chassisOf s 0 with buses := (chassisOf s 0).buses } : Chassis) = chassisOf s 0 := rfl
  unfold enterUnit
  rw [if_pos ho]
  simp only [hd, show chassisOf (banked s ks) 0 = chassisOf s 0 from rfl, h.2 _ hc, State.setChassis]
  simp only [banked, he, h.1.1.1.1.1.1.1.1.1]

theorem readSector_banked {s : State} (h : plainWorld s = true) {wa : Nat} (hd : (homeAt wa).d = 0) (hc : (homeAt wa).col < 16) (ks : List Nat) :
    readSector (banked s ks) wa 1 false = (none, banked s (bankKey wa :: ks)) := by
  have e := enterUnit_banked h hd hc ks
  simp only [plainWorld, Bool.and_eq_true, decide_eq_true_eq, List.isEmpty_iff] at h
  have hl : busLost (banked s ks) wa = false := buses_whole (s := banked s ks) (show whole (banked s ks) = true from h.1.1.1.1.1.1.2) wa
  have hm : meetError (banked s (bankKey wa :: ks)) wa = banked s (bankKey wa :: ks) := by
    have h2 : (banked s (bankKey wa :: ks)).doing.ecc = .clean := by simp [banked, h.1.1.1.1.1.1.1.1.2]
    unfold meetError
    rw [doing_banked h.1.1.1.1.1.1.1.1.2]
    simp [strike, h2]
  have hf : flawAt (banked s (bankKey wa :: ks)) wa = .clean := by
    simp [flawAt, show (banked s (bankKey wa :: ks)).flaws = s.flaws from rfl, h.1.1.1.1.1.1.1.2, mget]
  unfold readSector
  simp [hl, e, hm, hf]

theorem readSectorsAt_banked {s : State} (h : plainWorld s = true) : ∀ (was ks : List Nat),
    (∀ wa ∈ was, (homeAt wa).d = 0 ∧ (homeAt wa).col < 16) → ∃ ks', readSectorsAt 1 false (banked s ks) was = (none, banked s ks')
  | [], ks, _ => ⟨ks, rfl⟩
  | wa :: was, ks, hw => by
    obtain ⟨ks', e⟩ := readSectorsAt_banked h was (bankKey wa :: ks) fun w hm => hw w (.tail _ hm)
    refine ⟨ks', ?_⟩
    unfold readSectorsAt
    rw [readSector_banked h (hw wa (.head _)).1 (hw wa (.head _)).2]
    exact e

/-- A read of the cells gives the bytes there, and the machine goes on as it was. -/
theorem readPa_banked {s : State} (h : plainWorld s = true) {a n : Nat} (hh : here s a n = true) (ks : List Nat) :
    ∃ ks', readPa (banked s ks) 0 a n = (.ok (leNat (homeBytes s a n)), banked s ks') := by
  have rs := readSectorsAt_banked h
  simp only [plainWorld, Bool.and_eq_true, decide_eq_true_eq, List.isEmpty_iff, Bool.not_eq_true'] at h
  simp only [here, Bool.and_eq_true, decide_eq_true_eq, Bool.not_eq_true', beq_iff_eq, List.all_eq_true, List.isEmpty_eq_false_iff] at hh
  obtain ⟨ks', e⟩ := rs (missingSectors s a n) ks hh.2
  refine ⟨ks', ?_⟩
  cases hr : resolve a with
  | none => rw [hr] at hh; simp at hh
  | some x =>
    have hx : x.wa = a := by have := hh.1.1.1.1; rw [hr] at this; simpa using this
    have hl : busLost (banked s ks) a = false := buses_whole (s := banked s ks) (show whole (banked s ks) = true from h.1.1.1.1.1.1.2) a
    have hc : cacheLine (banked s ks) (lineOf a) = none := by
      simp [cacheLine, bare_cache (s := banked s ks) (show bare (banked s ks) = true from h.1.1.1.1.2), mget]
    have ho : cacheOnAt (banked s ks) (lineOf a) = false := by
      unfold cacheOnAt; rw [hh.1.1.1.2]; exact h.1.1.1.2
    have hs : enterSlice (banked s ks) a = banked s ks := by
      have : sliceOpen (banked s ks) (homeAt a).d = true := by
        unfold sliceOpen; rw [hh.1.1.2]; simp [show chassisOf (banked s ks) 0 = chassisOf s 0 from rfl, h.1.1.1.2]
      simp [enterSlice, this]
    have hp : enterPath (banked s ks) 0 a = (none, banked s ks) := by
      unfold enterPath
      rw [hh.1.1.2]
      simp [show reachable (banked s ks) 0 0 = true from h.1.2, show pathOpen (banked s ks) 0 0 = true from h.1.1.2]
    have hrec : recallLine (banked s ks) (lineOf a) = banked s ks := by simp [recallLine, hc]
    have ht : tryRead (banked s ks) plainAttr a n = (.ok (homeBytes s a n), banked s ks') := by
      unfold tryRead readHome
      simp only [hs, hrec, hl, show missingSectors (banked s ks) a n = missingSectors s a n from rfl, hc, ho]
      rw [if_neg (by simp), if_neg (by simpa using hh.1.2)]
      simp only [Option.isSome_none, Bool.false_and, Bool.or_false, if_false, Bool.false_eq_true, Bool.not_false, Bool.true_and]
      rw [show ((1 : Nat) == 2) = false from rfl, e]
      rfl
    unfold readPa
    rw [hr]
    simp only [hx, hp, ht]

/-- The entry that a walk of d0 finds in the cells, whose leaves have their bits set. -/
def walkSeen (s : State) (r : Roots) (m : Miss) : Nat → List (Nat × Sys2Proof.W64) → Option TlbEntry
  | 0, _ => none
  | n + 1, rs => match walk r m rs with
    | .need a _ => if here s a 8 then walkSeen s r m n (rs ++ [(a, BitVec.ofNat 64 (leNat (homeBytes s a 8)))]) else none
    | .fail _ _ => none
    | .ok w _ _ => if w.used.all fun u => usedBits u.value u.write == 0 then some w.entry else none

theorem setUsed_still {s : State} : ∀ us : List Used, (us.all fun u => usedBits u.value u.write == 0) = true → setUsed 0 [] s us = (none, s)
  | [], _ => rfl
  | u :: us, h => by
    simp only [List.all_cons, Bool.and_eq_true, beq_iff_eq] at h
    unfold setUsed
    simp only [List.find?_nil, h.1, if_true]
    exact setUsed_still us (by simpa using h.2)

theorem walkNow_seen {s : State} (h : plainWorld s = true) {r : Roots} {m : Miss} {e : TlbEntry} (hm : m.core / 16 = 0) :
    ∀ {n : Nat} {rs : List (Nat × Sys2Proof.W64)} (ks : List Nat), walkSeen s r m n rs = some e →
      ∃ ks', walkNow (banked s ks) r m n rs = (.ok e, banked s ks')
  | 0, _, _, hw => by simp [walkSeen] at hw
  | n + 1, rs, ks, hw => by
    unfold walkSeen at hw
    unfold walkNow
    split at hw
    · next a _ ea =>
      split at hw
      · next hh =>
        obtain ⟨k1, e1⟩ := readPa_banked h hh ks
        obtain ⟨k2, e2⟩ := walkNow_seen h hm (n := n) k1 hw
        refine ⟨k2, ?_⟩
        simp only [ea, hm, e1, e2]
      · cases hw
    · cases hw
    · next w _ _ ew =>
      split at hw
      · next hu =>
        refine ⟨ks, ?_⟩
        simp only [ew, hm, setUsed_still _ hu]
        cases hw
        rfl
      · cases hw

/-- Whether a walk of d0 for a PASID 0 ends with an entry, which puts `n` bytes of one page in order into memory. -/
def leads (s : State) (acc : Acc) (va pa n : Nat) (e : TlbEntry) : Bool :=
  decide (walkSeen s (rootsOf (chassisOf s 0)) { core := 0, ctx := ctx0, page := va / 4096, acc := acc, level := .U } 48 [] = some e)
    && (List.range n).all fun i => decide (va + i < 2 ^ 56 ∧ (va + i) / 4096 = va / 4096
      ∧ place e acc 0 (e.addr (BitVec.ofNat 64 (va + i))) = pa + i ∧ regionOf (pa + i) = .dram)

theorem translateNow_leads {s : State} (h : plainWorld s = true) {acc : Acc} {va pa n i : Nat} {e : TlbEntry} (hl : leads s acc va pa n e = true)
    (hi : i < n) (ks : List Nat) : ∃ ks', translateNow (banked s ks) 0 0 0 acc (BitVec.ofNat 64 (va + i)) = (.ok (pa + i, e.attr), banked s ks') := by
  simp only [leads, Bool.and_eq_true, decide_eq_true_eq, List.all_eq_true, List.mem_range] at hl
  obtain ⟨h1, h2, h3, -⟩ := hl.2 i hi
  obtain ⟨ks', ew⟩ := walkNow_seen h (m := { core := 0, ctx := ctx0, page := va / 4096, acc := acc, level := .U }) (Nat.zero_div 16) (n := 48) ks hl.1
  refine ⟨ks', ?_⟩
  have ht : (BitVec.ofNat 64 (va + i)).toNat = va + i := by rw [BitVec.toNat_ofNat]; omega
  unfold translateNow
  rw [ht, Nat.div_eq_of_lt h1, h2, Nat.mul_zero, show ({ vmid := 0, pasid := 0, hyp := false } : Ctx) = ctx0 from rfl]
  dsimp only
  rw [show rootsOf (chassisOf (banked s ks) 0) = rootsOf (chassisOf s 0) from rfl, ew, if_neg (by decide : ¬(0 ≠ 0))]
  simp only [h3]

theorem localNow_leads {s : State} (h : plainWorld s = true) {acc : Acc} {va pa n i : Nat} {e : TlbEntry} (hl : leads s acc va pa n e = true)
    (hi : i < n) (ks : List Nat) : ∃ ks', localNow (banked s ks) 0 0 0 acc (BitVec.ofNat 64 (va + i)) = (some (pa + i, e.attr), banked s ks') := by
  obtain ⟨ks', e1⟩ := translateNow_leads h hl hi ks
  simp only [leads, Bool.and_eq_true, decide_eq_true_eq, List.all_eq_true, List.mem_range] at hl
  exact ⟨ks', by unfold localNow; rw [e1]; simp only [(hl.2 i hi).2.2.2, if_true]⟩

theorem readNow_all {s : State} {v p : Nat} {f x : Nat → Nat} {a : Attr} : ∀ {n : Nat} {va : Sys2Proof.W64} {b : Nat} (ks : List Nat),
    (∀ i ks, i < n → ∃ ks', localNow (banked s ks) 0 v p .read (va + BitVec.ofNat 64 i) = (some (f (b + i), a), banked s ks')) →
    (∀ i ks, i < n → ∃ ks', readPa (banked s ks) 0 (f (b + i)) 1 = (.ok (x (b + i)), banked s ks')) →
    ∃ ks', readNow (banked s ks) 0 v p va n = (some ((List.range n).map fun i => BitVec.ofNat 8 (x (b + i))), banked s ks')
  | 0, _, _, ks, _, _ => ⟨ks, rfl⟩
  | n + 1, va, b, ks, h1, h2 => by
    obtain ⟨k1, e1⟩ := h1 0 ks (by omega)
    obtain ⟨k2, e2⟩ := h2 0 k1 (by omega)
    obtain ⟨k3, ih⟩ := readNow_all (s := s) (v := v) (p := p) (f := f) (x := x) (a := a) (n := n) (va := va + 1) (b := b + 1) k2
      (fun i ks hi => by
        have := h1 (i + 1) ks (by omega)
        rw [show va + BitVec.ofNat 64 (i + 1) = va + 1 + BitVec.ofNat 64 i by rw [BitVec.ofNat_add]; ac_rfl,
          show b + (i + 1) = b + 1 + i by omega] at this
        exact this)
      (fun i ks hi => by
        have := h2 (i + 1) ks (by omega)
        rw [show b + (i + 1) = b + 1 + i by omega] at this
        exact this)
    refine ⟨k3, ?_⟩
    rw [Nat.add_zero, show va + BitVec.ofNat 64 0 = va by simp] at e1
    rw [Nat.add_zero] at e2
    have hl : (List.range (n + 1)).map (fun i => BitVec.ofNat 8 (x (b + i)))
        = BitVec.ofNat 8 (x b) :: (List.range n).map (fun i => BitVec.ofNat 8 (x (b + 1 + i))) := by
      rw [List.range_succ_eq_map, List.map_cons, List.map_map, Nat.add_zero]
      exact congrArg _ (List.map_congr_left fun i _ => by simp only [Function.comp_def, show b + i.succ = b + 1 + i by omega])
    rw [hl]
    unfold readNow
    rw [e1]
    dsimp only
    rw [e2]
    dsimp only
    rw [ih]

/-- Whether some bytes stand at an address that a walk of d0 leads to. -/
def spells (s : State) (va pa : Nat) (e : TlbEntry) (bs : List Byte) : Bool :=
  leads s .read va pa bs.length e && ((List.range bs.length).all fun i => here s (pa + i) 1)
    && decide (((List.range bs.length).map fun i => BitVec.ofNat 8 (leNat (homeBytes s (pa + i) 1))) = bs)

theorem readNow_spells {s : State} (hw : plainWorld s = true) {va pa : Nat} {e : TlbEntry} {bs : List Byte} (h : spells s va pa e bs = true)
    (ks : List Nat) : ∃ ks', readNow (banked s ks) 0 0 0 (BitVec.ofNat 64 va) bs.length = (some bs, banked s ks') := by
  simp only [spells, Bool.and_eq_true, decide_eq_true_eq, List.all_eq_true, List.mem_range] at h
  obtain ⟨⟨hl, hp⟩, hb⟩ := h
  have := readNow_all (s := s) (v := 0) (p := 0) (f := (pa + ·)) (x := fun i => leNat (homeBytes s (pa + i) 1)) (a := e.attr)
    (n := bs.length) (va := BitVec.ofNat 64 va) (b := 0) ks
    (fun i ks hi => by
      simp only [Nat.zero_add, ← BitVec.ofNat_add]
      exact localNow_leads hw hl hi ks)
    (fun i ks hi => by
      simp only [Nat.zero_add]
      exact readPa_banked hw (hp i hi) ks)
  simp only [Nat.zero_add, hb] at this
  exact this

/-- Whether the fields of the descriptor of queue 5 are in d0's memory. -/
def fieldsHere (s : State) : Bool := [(0, 8), (8, 4), (12, 1), (15, 1), (16, 8)].all fun x => here s (descAddr s 5 + x.1) x.2

/-- The machine behind a round's read of the descriptor of queue 5; and the bytes at the head of that queue. -/
def atDesc (s : State) : State := (loadPa s 0 (descOf s 5) 64).2
def headed (s : State) (pa : Nat) (e : TlbEntry) (bs : List Byte) : Bool :=
  plainWorld s && here s (descOf s 5) 64 && fieldsHere s && queueDie s 5 == 0 && vmidOf s 0 == 0 && queuePasid s 5 == 0 && bs.length == 128
    && spells s (descField s 5 0 8 + 128 * (descField s 5 16 8 % 2 ^ descField s 5 12 1)) pa e bs

theorem banked_nil {s : State} (h : plainWorld s = true) : banked s [] = s := by
  simp only [plainWorld, Bool.and_eq_true, decide_eq_true_eq] at h
  have hd := h.1.1.1.1.1.1.1.1.2
  unfold banked
  rw [hd]
  cases s
  simp only at hd
  subst hd
  rfl

theorem desc_banked {s : State} (h : plainWorld s = true) {off n : Nat} (hh : here s (descAddr s 5 + off) n = true) (ks : List Nat) :
    descField (banked s ks) 5 off n = descField s 5 off n := by
  have key : ∀ ks, descField (banked s ks) 5 off n = leNat (homeBytes s (descAddr s 5 + off) n) := fun ks => by
    obtain ⟨ks', e⟩ := readPa_banked h hh ks
    unfold descField loadPa
    rw [show descAddr (banked s ks) 5 = descAddr s 5 from rfl, e]
  have k0 := key []
  rw [banked_nil h] at k0
  rw [key ks, k0]

theorem fields_banked {s : State} (h : plainWorld s = true) (hf : fieldsHere s = true) (ks : List Nat) :
    descField (banked s ks) 5 0 8 = descField s 5 0 8 ∧ descField (banked s ks) 5 8 4 = descField s 5 8 4
      ∧ descField (banked s ks) 5 12 1 = descField s 5 12 1 ∧ descField (banked s ks) 5 15 1 = descField s 5 15 1
      ∧ descField (banked s ks) 5 16 8 = descField s 5 16 8 := by
  simp only [fieldsHere, List.all_cons, List.all_nil, Bool.and_eq_true] at hf
  exact ⟨desc_banked h hf.1 ks, desc_banked h hf.2.1 ks, desc_banked h hf.2.2.1 ks, desc_banked h hf.2.2.2.1 ks, desc_banked h hf.2.2.2.2.1 ks⟩

theorem atDesc_banked {s : State} (h : plainWorld s = true) (hh : here s (descOf s 5) 64 = true) : ∃ ks, atDesc s = banked s ks := by
  have e0 := banked_nil h
  obtain ⟨ks, e⟩ := readPa_banked h hh []
  rw [e0] at e
  exact ⟨ks, by simp only [atDesc, loadPa, e]⟩

theorem readHead_headed {s : State} {pa : Nat} {e : TlbEntry} {bs : List Byte} (h : headed s pa e bs = true) :
    ∃ ks, readHead (atDesc s) 5 = (some bs, banked s ks) := by
  simp only [headed, Bool.and_eq_true, beq_iff_eq] at h
  obtain ⟨⟨⟨⟨⟨⟨⟨hw, hd⟩, hf⟩, h1⟩, h2⟩, h3⟩, h4⟩, h5⟩ := h
  obtain ⟨k0, e0⟩ := atDesc_banked hw hd
  obtain ⟨k1, e1⟩ := readNow_spells hw h5 k0
  refine ⟨k1, ?_⟩
  rw [h4] at e1
  rw [e0]
  obtain ⟨f1, f2, f3, f4, f5⟩ := fields_banked hw hf k0
  have g1 : queueDie (banked s k0) 5 = 0 := by
    rw [← h1]; unfold queueDie descFunc; rw [f4]; rfl
  have g3 : queuePasid (banked s k0) 5 = 0 := by rw [← h3]; unfold queuePasid; rw [f2]
  unfold readHead
  simp only [f1, f3, f5, g1, g3, vmid_banked, h2, e1]

/-- Whether a walk of d0 for PASID 0 ends with a fault. -/
def walkLost (s : State) (r : Roots) (m : Miss) : Nat → List (Nat × Sys2Proof.W64) → Bool
  | 0, _ => false
  | n + 1, rs => match walk r m rs with
    | .need a _ => here s a 8 && walkLost s r m n (rs ++ [(a, BitVec.ofNat 64 (leNat (homeBytes s a 8)))])
    | .fail _ us => us.isEmpty
    | .ok _ _ _ => false

theorem walkNow_lost {s : State} (h : plainWorld s = true) {r : Roots} {m : Miss} (hm : m.core / 16 = 0) :
    ∀ {n : Nat} {rs : List (Nat × Sys2Proof.W64)} (ks : List Nat), walkLost s r m n rs = true →
      ∃ f ks', walkNow (banked s ks) r m n rs = (.error f, banked s ks')
  | 0, _, _, hw => by simp [walkLost] at hw
  | n + 1, rs, ks, hw => by
    unfold walkLost at hw
    unfold walkNow
    split at hw
    · next a _ ea =>
      simp only [Bool.and_eq_true] at hw
      obtain ⟨k1, e1⟩ := readPa_banked h hw.1 ks
      obtain ⟨f, k2, e2⟩ := walkNow_lost h hm (n := n) k1 hw.2
      refine ⟨f, k2, ?_⟩
      simp only [ea, hm, e1, e2]
    · next f us ef =>
      simp only [List.isEmpty_iff] at hw
      subst hw
      refine ⟨f, ks, ?_⟩
      simp only [ef, setUsed]
    · cases hw

/-- Whether an address does not translate. -/
def strays (s : State) (acc : Acc) (va : Nat) : Bool :=
  decide (va < 2 ^ 56)
    && walkLost s (rootsOf (chassisOf s 0)) { core := 0, ctx := ctx0, page := va / 4096, acc := acc, level := .U } 48 []

theorem translateNow_strays {s : State} (h : plainWorld s = true) {acc : Acc} {va : Nat} (hs : strays s acc va = true) (ks : List Nat) :
    ∃ f ks', translateNow (banked s ks) 0 0 0 acc (BitVec.ofNat 64 va) = (.error f, banked s ks') := by
  simp only [strays, Bool.and_eq_true, decide_eq_true_eq] at hs
  obtain ⟨f, ks', ew⟩ := walkNow_lost h (m := { core := 0, ctx := ctx0, page := va / 4096, acc := acc, level := .U }) (Nat.zero_div 16) ks hs.2
  refine ⟨if f.own then { f with addr := BitVec.ofNat 64 va } else f, ks', ?_⟩
  have ht : (BitVec.ofNat 64 va).toNat = va := by rw [BitVec.toNat_ofNat]; omega
  unfold translateNow
  rw [ht, Nat.div_eq_of_lt hs.1, Nat.mul_zero, show ({ vmid := 0, pasid := 0, hyp := false } : Ctx) = ctx0 from rfl]
  dsimp only
  rw [show rootsOf (chassisOf (banked s ks) 0) = rootsOf (chassisOf s 0) from rfl, ew, if_neg (by decide : ¬(0 ≠ 0))]

theorem localNow_strays {s : State} (h : plainWorld s = true) {acc : Acc} {va : Nat} (hs : strays s acc va = true) (ks : List Nat) :
    ∃ ks', localNow (banked s ks) 0 0 0 acc (BitVec.ofNat 64 va) = (none, banked s ks') := by
  obtain ⟨f, ks', e⟩ := translateNow_strays h hs ks
  exact ⟨ks', by unfold localNow; rw [e]⟩

theorem readNow_strays {s : State} (h : plainWorld s = true) {va : Nat} (hs : strays s .read va = true) (n : Nat) (ks : List Nat) :
    ∃ ks', readNow (banked s ks) 0 0 0 (BitVec.ofNat 64 va) (n + 1) = (none, banked s ks') := by
  obtain ⟨ks', e⟩ := localNow_strays h hs ks
  exact ⟨ks', by unfold readNow; rw [e]⟩

/-- A machine in the middle of a step is calm where it was. -/
theorem calm_banked {s : State} (h : plainWorld s = true) (hr : ringUp s = true) (ks : List Nat) : calm (banked s ks) := by
  simp only [plainWorld, Bool.and_eq_true, decide_eq_true_eq] at h
  refine ⟨coherent_bare (s := banked s ks) h.1.1.1.1.2, buses_whole (s := banked s ks) h.1.1.1.1.1.1.2,
    quiet_of (s := banked s ks) h.1.1.1.1.1.1.2 h.1.1.1.1.1.2, ringOpen_of (s := banked s ks) hr, ?_, ?_⟩ <;>
  simp [banked, h.1.1.1.1.1.1.1.1.2]

/-- An identity translation of the first GiB by tables from 0x10000 on, and a queue table in which queue 5 is one of PASID 0. -/
def tables : List Host.Cell :=
  cwrite (cwrite (cwrite (cwrite [] 0x10000 [0x01, 0x10, 0x01]) 0x11000 [0x01, 0x20, 0x01]) 0x12000 [0x01, 0x30, 0x01]) 0x13000 [0xD7]
def gig (n : Nat) : TlbEntry :=
  { ctx := ctx0, va := 0, size := 0x40000000, pa := 0, s1 := { r := true, w := true, x := false, u := true, d := true, level := 2 }, ipas := [n] }
def desc (ring head tail log : Nat) : List Byte := leBytes 8 ring ++ [0, 0, 0, 0, BitVec.ofNat 8 log, 1, 1, 0] ++ leBytes 8 head ++ leBytes 8 tail

/-- All chassis, their hops active; every bus of d0 has just carried an operation. -/
def berths (c : Chassis) : SMap Chassis :=
  let x : Chassis := { c with buses := (List.range 16).map fun b => (b, {}) }
  dies.map fun d => (d, { (if d = 0 then x else {} : Chassis) with east := { state := 1 }, west := { state := 1 } })

/-- A module that serves queue 5 in slot 31, its chassis caches off, with bytes in some places. -/
def boarded (d : List Byte) (ps : List (Nat × List Byte)) : State :=
  { staged 3 with
    ns := 1000, nextId := 10, fwSlots := [(31, { queue := 5, valid := true })], chassis := berths { cdtb := 0x10005 }
    dram := ps.foldl (fun m x => cwrite m x.1 x.2) (cwrite tables 0x20140 d) }

/-- One packet at its head. -/
def line (p : List Byte) : State := boarded (desc 0x30000 16 17 4) [(0x30000, p)]

/-! ## Doorbells, slots and rounds -/

theorem witness_QueuesLaunchesAndTrains_doorbells :
    (let s : State := { line [] with fwSlots := [] };
      2 ≤ s.stage ∧ served s 5 ∧ ¬inSlot s 5 ∧ 5 ∉ s.fwWaiting ∧ ¬hostMaps s (descField s 5 15 1))
      ∧ (¬served (line []) 6 ∧ inSlot (line []) 5 ∧ 5 ∈ ({ line [] with fwWaiting := [5] } : State).fwWaiting
        ∧ hostMaps { line [] with chassis := [(0, { duty := 2 })] } 0 ∧ ∃ n, Origin.host 16 = .host n ∧ n ≠ 0 ∧ n ≠ descField (line []) 5 15 1)
      ∧ (let f := fwSlotOf (line []) 31;
        (f.pending.getLastD (f.queue, f.valid, f.hostown)).1 < 4096) := by
  have hc : chassisFor { line [] with fwSlots := [] } (descField { line [] with fwSlots := [] } 5 15 1) = 0 :: (List.range 16).tail := by decide +kernel
  refine ⟨⟨by decide +kernel, by unfold served; decide +kernel, ?_, by decide +kernel, ?_⟩, ⟨?_, ⟨31, by decide +kernel⟩, by decide +kernel,
    ⟨0, (List.range 16).tail, by decide +kernel⟩, ⟨16, by decide +kernel⟩⟩, by decide +kernel⟩
  · rintro ⟨n, _, h, _⟩
    revert h; simp [fwSlotOf, mget]
  · rintro ⟨d, ds, h, hd⟩
    rw [hc] at h; cases h; revert hd; decide +kernel
  · unfold served; decide +kernel

/-- A slot that the host maps, for a function whose queues it maps. -/
def hosted : State :=
  { line [] with
    fwSlots := [(31, { queue := 5, valid := true, hostown := true })]
    chassis := (line []).chassis.map fun e => (e.1, { e.2 with duty := 2 }) }

theorem maps_itself : mapsItself (line []) 5 := by
  rintro ⟨d, ds, h, hd⟩
  rw [show chassisFor (line []) (descField (line []) 5 15 1) = 0 :: (List.range 16).tail by decide +kernel] at h
  cases h; revert hd; decide +kernel

theorem witness_QueuesLaunchesAndTrains_rounds :
    (let s : State := { line [] with fwSlots := [] };
      2 ≤ s.stage ∧ s.teardown = none ∧ s.doing = {} ∧ Machine.heads s (.turn (.event .firmwareRound)) = false
        ∧ ∀ n, n < 32 → (fwSlotOf s n).valid = false)
      ∧ (∀ s ∈ [line [], hosted],
        (2 ≤ s.stage ∧ s.teardown = none ∧ 31 < 32 ∧ (fwSlotOf s 31).valid = true ∧ (fwSlotOf s 31).queue = 5
          ∧ (∀ m, m < 32 → m ≠ 31 → (fwSlotOf s m).valid = false) ∧ s.doing = {}
          ∧ descOf s 5 = 0x20140 ∧ (resolve 0x20140).map Home.wa = some 0x20140)
        ∧ served s 5 ∧ calm s ∧ ((fwSlotOf s 31).hostown = true ∨ mapsItself s 5))
      ∧ (let s : State := { line [] with fwSlots := [(2, { queue := 5, valid := true, mapped := 7 }), (31, { queue := 4, valid := true, mapped := 3 })]
                                         fwWaiting := [1], ns := 100000 };
        2 ≤ s.stage ∧ s.teardown = none ∧ s.rotation < s.ns / 100000
          ∧ (∀ n, n ∈ [31, 2] ↔ n < 32 ∧ (fwSlotOf s n).valid = true ∧ (fwSlotOf s n).hostown = false)
          ∧ ([31, 2].Pairwise fun a b => (fwSlotOf s a).mapped < (fwSlotOf s b).mapped ∨ ((fwSlotOf s a).mapped = (fwSlotOf s b).mapped ∧ a < b))) := by
  refine ⟨by decide +kernel, ?_, by decide +kernel, by decide +kernel, by decide +kernel, ?_, by decide +kernel⟩
  · simp only [List.mem_cons, List.not_mem_nil, or_false, forall_eq_or_imp, forall_eq]
    refine ⟨⟨by decide +kernel, ?_, calm_of (by decide +kernel), .inr maps_itself⟩, by decide +kernel, ?_, calm_of (by decide +kernel),
      .inl (by decide +kernel)⟩ <;> unfold served <;> decide +kernel
  have key : ∀ n, n < 32 → (n ∈ [31, 2] ↔ (fwSlotOf { line [] with
      fwSlots := [(2, { queue := 5, valid := true, mapped := 7 }), (31, { queue := 4, valid := true, mapped := 3 })], fwWaiting := [1], ns := 100000 } n).valid = true
      ∧ (fwSlotOf { line [] with fwSlots := [(2, { queue := 5, valid := true, mapped := 7 }), (31, { queue := 4, valid := true, mapped := 3 })], fwWaiting := [1]
                                 ns := 100000 } n).hostown = false) := by decide +kernel
  intro n
  by_cases hn : n < 32
  · rw [key n hn]; exact ⟨fun h => ⟨hn, h⟩, fun h => h.2⟩
  · exact ⟨fun h => absurd (by simp at h; omega) hn, fun h => absurd h.1 hn⟩

/-! ## Packets -/

/-- Bytes of a packet that are zero. -/
def blankB (p : List Byte) (off top : Nat) : Bool := (List.range top).all fun i => decide (i < off) || p.getD i 0 == 0

theorem blank_of {p : List Byte} {off top : Nat} (h : blankB p off top = true) : blank p off top := by
  intro i h1 h2
  simp only [blankB, List.all_eq_true, List.mem_range, Bool.or_eq_true, decide_eq_true_eq, beq_iff_eq] at h
  rcases h i h2 with h | h
  · omega
  · exact h

/-- A packet of a type and a condition with an address and two values. -/
def packet (ty cond a v m : Nat) : List Byte :=
  [BitVec.ofNat 8 ty, BitVec.ofNat 8 cond, 0, 0, 0, 0, 0, 0] ++ leBytes 8 a ++ leBytes 8 v ++ leBytes 8 m ++ List.replicate 96 0

/-- A descriptor with a ring of 2^3 packets breaks the rule; one with nothing to do; one whose ring does not translate. -/
theorem fits_of {s : State} (h : ((List.range 64).all fun i => decide (i < 36) || descField s 5 i 1 == 0) = true)
    (h' : (descField s 5 0 8 % 128 == 0 && decide (descField s 5 8 4 < 2 ^ 20) && decide (4 ≤ descField s 5 12 1) && decide (descField s 5 12 1 ≤ 16)
      && decide (descField s 5 13 1 ≤ 3) && decide (descField s 5 14 1 ≤ 3) && decide (descField s 5 15 1 ≤ 16)) = true) : descFits s 5 := by
  simp only [Bool.and_eq_true, beq_iff_eq, decide_eq_true_eq] at h'
  obtain ⟨⟨⟨⟨⟨⟨a, b⟩, c⟩, d⟩, e⟩, f⟩, g⟩ := h'
  refine ⟨a, b, c, d, e, f, g, fun i hi hj => ?_⟩
  simp only [List.all_eq_true, List.mem_range, Bool.or_eq_true, decide_eq_true_eq, beq_iff_eq] at h
  rcases h i hj with h | h
  · omega
  · exact h

theorem witness_QueuesLaunchesAndTrains_descriptors :
    (let s := boarded (desc 0x30000 0 1 3) [];
      ¬descFits s 5 ∧ calm (atDesc s))
      ∧ (let s := boarded (desc 0x30000 9 9 16) [];
        descFits s 5 ∧ descField s 5 16 8 = descField s 5 24 8)
      ∧ (let s := boarded (desc 0x40000000 0 1 4) [];
        descFits s 5 ∧ descField s 5 16 8 ≠ descField s 5 24 8 ∧ ∃ r, readHead (atDesc s) 5 = (none, r) ∧ calm r) := by
  refine ⟨⟨fun h => absurd h.2.2.1 (by decide +kernel), ?_⟩, ⟨fits_of (by decide +kernel) (by decide +kernel), by decide +kernel⟩,
    fits_of (by decide +kernel) (by decide +kernel), by decide +kernel, ?_⟩
  · obtain ⟨ks, e⟩ := atDesc_banked (s := boarded (desc 0x30000 0 1 3) []) (by decide +kernel) (by decide +kernel)
    rw [e]; exact calm_banked (by decide +kernel) (by decide +kernel) ks
  · have hw : plainWorld (boarded (desc 0x40000000 0 1 4) []) = true := by decide +kernel
    obtain ⟨k0, e0⟩ := atDesc_banked hw (by decide +kernel)
    obtain ⟨k1, e1⟩ := readNow_strays hw (va := 0x40000000) (by decide +kernel) 127 k0
    obtain ⟨f1, f2, f3, f4, f5⟩ := fields_banked hw (by decide +kernel) k0
    refine ⟨banked (boarded (desc 0x40000000 0 1 4) []) k1, ?_, calm_banked hw (by decide +kernel) k1⟩
    have g1 : queueDie (banked (boarded (desc 0x40000000 0 1 4) []) k0) 5 = 0 := by
      unfold queueDie descFunc; rw [f4]; show queueDie (boarded (desc 0x40000000 0 1 4) []) 5 = 0; decide +kernel
    have g3 : queuePasid (banked (boarded (desc 0x40000000 0 1 4) []) k0) 5 = 0 := by unfold queuePasid; rw [f2]; decide +kernel
    rw [e0]
    unfold readHead
    simp only [f1, f3, f5, g1, g3, vmid_banked,
      show vmidOf (boarded (desc 0x40000000 0 1 4) []) 0 = 0 by decide +kernel]
    rw [show descField (boarded (desc 0x40000000 0 1 4) []) 5 0 8 + 128 * (descField (boarded (desc 0x40000000 0 1 4) []) 5 16 8
        % 2 ^ descField (boarded (desc 0x40000000 0 1 4) []) 5 12 1) = 0x40000000 by decide +kernel]
    exact e1

/-- A packet at the head of queue 5, as a round reads it, for d0. -/
def atHead (s : State) (p : List Byte) : Prop :=
  descFits s 5 ∧ descField s 5 16 8 ≠ descField s 5 24 8
    ∧ ∃ ks, readHead (atDesc s) 5 = (some p, banked s ks) ∧ calm (banked s ks) ∧ queueHome (banked s ks) 5 = 0
      ∧ descField (banked s ks) 5 15 1 = descField s 5 15 1

/-- The same as it is computed. -/
def atHeadB (s : State) (p : List Byte) : Bool :=
  headed s 0x30000 (gig 0x30) p && ringUp s && queueHome s 5 == 0 && descField s 5 16 8 != descField s 5 24 8
    && ((List.range 64).all fun i => decide (i < 36) || descField s 5 i 1 == 0)
    && (descField s 5 0 8 % 128 == 0 && decide (descField s 5 8 4 < 2 ^ 20) && decide (4 ≤ descField s 5 12 1) && decide (descField s 5 12 1 ≤ 16)
      && decide (descField s 5 13 1 ≤ 3) && decide (descField s 5 14 1 ≤ 3) && decide (descField s 5 15 1 ≤ 16))

theorem atHead_ks {s : State} {p : List Byte} (h : atHeadB s p = true) :
    plainWorld s = true ∧ descField s 5 8 4 % 2 ^ 20 = 0 ∧ vmidOf s 0 = 0 ∧ descFits s 5 ∧ descField s 5 16 8 ≠ descField s 5 24 8
      ∧ ∃ ks, readHead (atDesc s) 5 = (some p, banked s ks) ∧ calm (banked s ks) ∧ queueHome (banked s ks) 5 = 0
        ∧ descField (banked s ks) 5 8 4 = descField s 5 8 4 ∧ descField (banked s ks) 5 15 1 = descField s 5 15 1 := by
  unfold atHeadB at h
  rw [Bool.and_eq_true, Bool.and_eq_true, Bool.and_eq_true, Bool.and_eq_true, Bool.and_eq_true, bne_iff_ne, beq_iff_eq] at h
  obtain ⟨⟨⟨⟨⟨hh, hr⟩, hq⟩, hn⟩, hz⟩, hf⟩ := h
  obtain ⟨ks, e⟩ := readHead_headed hh
  simp only [headed, Bool.and_eq_true, beq_iff_eq] at hh
  obtain ⟨⟨⟨⟨⟨⟨⟨hw, hd⟩, hh⟩, h1⟩, h2⟩, h3⟩, h4⟩, h5⟩ := hh
  obtain ⟨f1, f2, f3, f4, f5⟩ := fields_banked hw hh ks
  have hp : descField s 5 8 4 < 2 ^ 20 := by simp only [Bool.and_eq_true, decide_eq_true_eq] at hf; exact hf.1.1.1.1.1.2
  refine ⟨hw, ?_, h2, fits_of hz hf, hn, ks, e, calm_banked hw hr ks, ?_, f2, f4⟩
  · have : queuePasid s 5 = descField s 5 8 4 % 2 ^ 20 := by simp [queuePasid, bitsOf]
    rw [← this]; exact h3
  · rw [← hq]; unfold queueHome; rw [f4]; rfl

theorem atHead_of {s : State} {p : List Byte} (h : atHeadB s p = true) : atHead s p := by
  obtain ⟨-, -, -, hf, hn, ks, e, hc, hq, -, h15⟩ := atHead_ks h
  exact ⟨hf, hn, ks, e, hc, hq, h15⟩

/-- Packets of no type, and of the types NOP and BARRIER, with launches of the queue that are finished and that are not. -/
theorem witness_QueuesLaunchesAndTrains_plain_packets :
    (let p := packet 7 0 0 0 0;
      atHead (line p) p ∧ bytesAt p 0 1 ≠ 3 ∧ ¬packetFits p)
      ∧ (let p := packet 0 0 0 0 0;
        atHead (line p) p ∧ bytesAt p 0 1 = 0 ∧ packetFits p)
      ∧ (let p := packet 1 0 0 0 0;
        atHead (line p) p ∧ bytesAt p 0 1 = 1 ∧ packetFits p ∧ (∀ l ∈ (line p).launches, l.queue = 5 → l.topDone = true))
      ∧ (let p := packet 1 0 0 0 0;
        let r : State := { line p with launches := [{ errand with queue := 5 }] };
        atHead r p ∧ ∃ l ∈ r.launches, l.queue = 5 ∧ l.topDone = false) :=
  ⟨⟨atHead_of (by decide +kernel), by decide +kernel, id⟩,
    ⟨atHead_of (by decide +kernel), by decide +kernel, blank_of (by decide +kernel)⟩,
    ⟨atHead_of (by decide +kernel), by decide +kernel, blank_of (by decide +kernel), by decide +kernel⟩,
    ⟨atHead_of (by decide +kernel), { errand with queue := 5 }, .head _, by decide⟩⟩

/-- Whether a packet of the three types with an address is one that the clauses take, where its address translates. -/
def reaches (p : List Byte) (kind : Acc) : Prop :=
  let s := line p
  packetFits p ∧ atHead s p ∧ ∃ ks ks', readHead (atDesc s) 5 = (some p, banked s ks)
    ∧ localNow (banked s ks) 0 (vmidOf (banked s ks) 0) (descField (banked s ks) 5 8 4 % 2 ^ 20) kind (BitVec.ofNat 64 (bytesAt p 8 8))
      = (some (0x40000, {}), banked s ks')
    ∧ (resolve 0x40000).map Home.wa = some 0x40000 ∧ writeReady (banked s ks') 0x40000 8 ∧ 0x20140 + 64 ≤ 0x40000

theorem reaches_of {p : List Byte} {kind : Acc} (hf : packetFits p) (h : atHeadB (line p) p = true) (ha : bytesAt p 8 8 = 0x40000)
    (hl : leads (line p) kind 0x40000 0x40000 8 (gig 0x40) = true) : reaches p kind := by
  obtain ⟨hw, hp, hv, -, -, ks, e, hc, -, f2, -⟩ := atHead_ks h
  obtain ⟨ks', el⟩ := localNow_leads hw hl (i := 0) (by decide) ks
  refine ⟨hf, atHead_of h, ks, ks', e, ?_, by decide +kernel, ⟨by decide, ?_⟩, by decide⟩
  · rw [f2, hp, vmid_banked, hv, ha]; exact el
  · exact calm_banked hw (by unfold atHeadB at h; simp only [Bool.and_eq_true] at h; exact h.1.1.1.1.2) ks'

theorem witness_QueuesLaunchesAndTrains_memory_packets :
    (let p := packet 2 0 0x40000 0 0xFF;
      reaches p .read ∧ bytesAt p 0 1 = 2 ∧ memValue (line p) 0x40000 8 &&& bytesAt p 24 8 = bytesAt p 16 8)
      ∧ (let p := packet 2 2 0x40000 1 0xFF;
        reaches p .read ∧ ¬bytesAt p 16 8 ≤ memValue (line p) 0x40000 8 &&& bytesAt p 24 8)
      ∧ (let p := packet 4 1 0x40000 1 0;
        reaches p .atomic ∧ bytesAt p 0 1 = 4 ∧ bytesAt p 1 1 = 1)
      ∧ (let p := packet 5 0 0x40000 0 0;
        reaches p .write ∧ bytesAt p 0 1 = 5)
      ∧ (let p := packet 5 0 0x40000000 0 0;
        let s := line p;
        atHead s p ∧ packetFits p ∧ ∃ ks ks', readHead (atDesc s) 5 = (some p, banked s ks)
          ∧ localNow (banked s ks) 0 (vmidOf (banked s ks) 0) (descField (banked s ks) 5 8 4 % 2 ^ 20) .write (BitVec.ofNat 64 (bytesAt p 8 8))
            = (none, banked s ks') ∧ calm (banked s ks')) := by
  refine ⟨⟨reaches_of ⟨by decide +kernel, blank_of (by decide +kernel), by decide +kernel, blank_of (by decide +kernel)⟩ (by decide +kernel)
      (by decide +kernel) (by decide +kernel), by decide +kernel⟩,
    ⟨reaches_of ⟨by decide +kernel, blank_of (by decide +kernel), by decide +kernel, blank_of (by decide +kernel)⟩ (by decide +kernel)
      (by decide +kernel) (by decide +kernel), by decide +kernel⟩,
    ⟨reaches_of ⟨by decide +kernel, blank_of (by decide +kernel), by decide +kernel, blank_of (by decide +kernel)⟩ (by decide +kernel)
      (by decide +kernel) (by decide +kernel), by decide +kernel⟩,
    ⟨reaches_of ⟨blank_of (by decide +kernel), by decide +kernel, blank_of (by decide +kernel)⟩ (by decide +kernel)
      (by decide +kernel) (by decide +kernel), by decide +kernel⟩, ?_⟩
  have h : atHeadB (line (packet 5 0 0x40000000 0 0)) (packet 5 0 0x40000000 0 0) = true := by decide +kernel
  obtain ⟨hw, hp, hv, -, -, ks, e, hc, -, f2, -⟩ := atHead_ks h
  obtain ⟨ks', el⟩ := localNow_strays hw (acc := .write) (va := 0x40000000) (by decide +kernel) ks
  refine ⟨atHead_of h, ⟨blank_of (by decide +kernel), by decide +kernel, blank_of (by decide +kernel)⟩, ks, ks', e, ?_,
    calm_banked hw (by decide +kernel) ks'⟩
  rw [f2, hp, vmid_banked, hv,
    show bytesAt (packet 5 0 0x40000000 0 0) 8 8 = 0x40000000 by decide +kernel]
  exact el

end Sys2Proof.Tests
end

