-- ==== Sys2Proof/Tests/WitnessBundles.lean ====
section
/-! SUPPORT. States and operands that meet the hypotheses of the statement about queues, launches and trains: bundles. -/

namespace Sys2Proof.Tests

set_option Elab.async false

open Sys2Proof.Machine Sys2Proof.Rules

/-- A bundle for d0 of `e` work items in trains of width `w`, with its kernel's header at an address; and the header. -/
def bundle (w e mask khdr : Nat) : List Byte :=
  leBytes 4 3 ++ leBytes 4 mask ++ leBytes 8 w ++ leBytes 4 e ++ (List.replicate 5 (leBytes 4 1)).flatten ++ leBytes 8 khdr ++ leBytes 8 0x41000 ++ List.replicate 72 0
def header (v flags trap : Nat) (ports : List Byte) : List Byte :=
  leBytes 4 0x4B480001 ++ [BitVec.ofNat 8 v, BitVec.ofNat 8 flags, BitVec.ofNat 8 trap, 0] ++ leBytes 4 0x1000 ++ leBytes 4 0 ++ [0, 0, 0, 0]
    ++ ports ++ List.replicate 28 0
def portless : List Byte := List.replicate 16 0
def eightPorts : List Byte := (List.replicate 8 [1, 63]).flatten

/-- The queue with a bundle at its head, and the header at 0x40000. -/
def loaded (p h : List Byte) : State := boarded (desc 0x30000 16 17 4) [(0x30000, p), (0x40000, h)]

/-- Whether a bundle keeps its layout. -/
def bundleB (p : List Byte) : Bool :=
  let w := bytesAt p 0 4
  field w 31 17 == 0 && decide (field w 16 12 ≤ 16) && blankB p 6 8 && field (bytesAt p 8 8) 63 36 == 0 && blankB p 18 20
    && decide (bytesAt p 40 8 % 64 = 0 ∧ bytesAt p 48 8 % 8 = 0 ∧ bytesAt p 56 8 % 32 = 0 ∧ (field w 16 12 = 0 → bytesAt p 56 8 = 0))
    && field (bytesAt p 64 4) 31 12 == 0 && blankB p 70 72 && blankB p 120 128 && blankB p 72 120
    && decide (5 ≤ widthAt p 0 ∧ widthAt p 0 ≤ 12 ∧ ((List.range 6).map (widthAt p)).sum ≤ 64 ∧ 1 ≤ extentAt p 0)
    && (List.range 6).all fun k => decide (widthAt p k ≤ 32 ∧ extentAt p k ≤ 2 ^ widthAt p k)

theorem bundle_of {p : List Byte} (h : bundleB p = true) : bundleFits p := by
  simp only [bundleB, Bool.and_eq_true, beq_iff_eq, decide_eq_true_eq, List.all_eq_true, List.mem_range] at h
  obtain ⟨⟨⟨⟨⟨⟨⟨⟨⟨⟨⟨h1, h2⟩, h3⟩, h4⟩, h5⟩, h12⟩, h6⟩, h7⟩, h8⟩, h9⟩, h10⟩, h11⟩ := h
  exact ⟨h1, h2, blank_of h3, h4, blank_of h5, h6, blank_of h7, blank_of h8, fun _ => blank_of h9, h10.1, h10.2.1, fun k hk => (h11 k hk).1,
    h10.2.2.1, h10.2.2.2, fun k hk => (h11 k hk).2, h12.1, h12.2.1, h12.2.2.1, h12.2.2.2⟩

theorem headerFits_of {h : List Byte}
    (hd : (let flags := bytesAt h 5 1
      decide (bytesAt h 0 4 = 0x4B480001 ∧ 1 ≤ bytesAt h 4 1 ∧ bytesAt h 4 1 ≤ 32 ∧ flags ≤ 3 ∧ bytesAt h 6 1 ≤ 3 ∧ bytesAt h 7 1 = 0
        ∧ (flags.testBit 0 = false → bytesAt h 12 4 = 0) ∧ bytesAt h 16 1 ≤ 32 ∧ bytesAt h 17 1 ≤ 6
        ∧ bytesAt h 18 1 ≤ 8 ∧ bytesAt h 19 1 = 0)
      && blankB h 36 64 && (List.range 8).all fun n => decide (bytesAt h (20 + 2 * n) 1 ≤ 2 ∧ bytesAt h (21 + 2 * n) 1 ≤ 63
        ∧ (flags.testBit 0 = false → bytesAt h (20 + 2 * n) 1 = 0))) = true) : headerFits h := by
  simp only [Bool.and_eq_true, decide_eq_true_eq, List.all_eq_true, List.mem_range] at hd
  obtain ⟨⟨a, b⟩, c⟩ := hd
  exact ⟨a.1, a.2.1, a.2.2.1, a.2.2.2.1, a.2.2.2.2.1, a.2.2.2.2.2.1, a.2.2.2.2.2.2.1, a.2.2.2.2.2.2.2.1, a.2.2.2.2.2.2.2.2.1,
    a.2.2.2.2.2.2.2.2.2.1, a.2.2.2.2.2.2.2.2.2.2, blank_of b, c⟩

/-- One work group on d0; a bundle with a width that is none; one for no chassis; and 64 launches that have places. -/
def solo : List Byte := bundle 5 32 1 0x40000
def plain : List Byte := header 1 0 0 portless
def crowd : List Launch := List.replicate 64 errand

theorem witness_QueuesLaunchesAndTrains_bundles :
    (let p := bundle 4 16 1 0x40000;
      bytesAt p 0 1 = 3 ∧ atHead (loaded p []) p ∧ ¬bundleFits p)
      ∧ (let r := loaded solo plain;
        bytesAt solo 0 1 = 3 ∧ atHead r solo ∧ bundleFits solo ∧ (bytesAt solo 0 4).testBit 8 = false
          ∧ (∀ d, d < 16 → (1 : BitVec 16).getLsbD d = mayRun r (descField r 5 15 1) (bytesAt solo 4 2) d)
          ∧ (∀ d, d < 16 → (1 : BitVec 16).getLsbD d = true → ¬64 ≤ (r.launches.filter fun l => l.at d).length)
          ∧ (∀ x ∈ r.launches, x.id ≠ r.nextId) ∧ queueOpen r ∧ (chassisOf r 0).outbound = [] ∧ (r.evqTail - r.evqHead).toNat + 2 ≤ ringSize r)
      ∧ (let r : State := { loaded solo plain with launches := crowd };
        atHead r solo ∧ ∃ d, d < 16 ∧ (1 : BitVec 16).getLsbD d = true ∧ 64 ≤ (r.launches.filter fun l => l.at d).length)
      ∧ (let p := bundle 5 32 0 0x40000;
        let r := loaded p [];
        atHead r p ∧ bundleFits p ∧ ∀ d, d < 16 → (0 : BitVec 16).getLsbD d = mayRun r (descField r 5 15 1) (bytesAt p 4 2) d) := by
  refine ⟨⟨by decide +kernel, atHead_of (by decide +kernel), ?_⟩,
    ⟨by decide +kernel, atHead_of (by decide +kernel), bundle_of (by decide +kernel), by decide +kernel, by decide +kernel, by decide +kernel,
      by decide +kernel, by unfold queueOpen; decide +kernel, by decide +kernel, by decide +kernel⟩,
    ⟨atHead_of (by decide +kernel), 0, by decide, by decide, by decide +kernel⟩,
    atHead_of (by decide +kernel), bundle_of (by decide +kernel), by decide +kernel⟩
  rintro ⟨-, -, -, -, -, -, -, -, -, h, -⟩
  revert h; decide +kernel

/-- A bundle of a placed launch whose homes the host gives, with a coefficient that is not zero. -/
def hostPlaced : List Byte := leBytes 4 0x103 ++ (bundle 5 32 1 0x40000).drop 4 |>.take 80 |> (· ++ leBytes 8 1 ++ List.replicate 40 0)

theorem witness_QueuesLaunchesAndTrains_hosted :
    let r : State := { loaded hostPlaced [] with chassis := berths { cdtb := 0x10005, duty := 4 } }
    atHead r hostPlaced ∧ (bytesAt hostPlaced 0 4).testBit 8 = true ∧ (dutyOf r (queueHome r 5)).getLsbD 2 = true
      ∧ ¬blank hostPlaced 80 120 := by
  refine ⟨atHead_of (by decide +kernel), by decide +kernel, by decide +kernel, fun h => ?_⟩
  have := h 80 (by decide) (by decide)
  revert this; decide +kernel

/-- The header as the dispatcher reads it: at an address that does not translate; zeros, which are none; and one that keeps its layout. -/
def numbered (s : State) : State := { s with nextId := s.nextId + 1 }

theorem witness_QueuesLaunchesAndTrains_headers :
    (let p := bundle 5 32 1 0x40000000;
      ∃ ks ks', readHead (atDesc (loaded p [])) 5 = (some p, banked (loaded p []) ks)
        ∧ readNow (numbered (banked (loaded p []) ks)) 0 (vmidOf (banked (loaded p []) ks) 0) 0 (BitVec.ofNat 64 (bytesAt p 40 8)) 64
          = (none, banked (numbered (loaded p [])) ks') ∧ calm (banked (numbered (loaded p [])) ks'))
      ∧ (let h : List Byte := List.replicate 64 0;
        (∃ ks ks', readHead (atDesc (loaded solo [])) 5 = (some solo, banked (loaded solo []) ks)
          ∧ readNow (numbered (banked (loaded solo []) ks)) 0 (vmidOf (banked (loaded solo []) ks) 0) 0 (BitVec.ofNat 64 (bytesAt solo 40 8)) 64
            = (some h, banked (numbered (loaded solo [])) ks') ∧ calm (banked (numbered (loaded solo [])) ks')) ∧ ¬headerFits h)
      ∧ (∃ ks ks', readHead (atDesc (loaded solo plain)) 5 = (some solo, banked (loaded solo plain) ks)
          ∧ readNow (numbered (banked (loaded solo plain) ks)) 0 (vmidOf (banked (loaded solo plain) ks) 0) 0
              (BitVec.ofNat 64 (bytesAt solo 40 8)) 64
            = (some plain, banked (numbered (loaded solo plain)) ks') ∧ calm (banked (numbered (loaded solo plain)) ks'))
        ∧ headerFits plain ∧ field (bytesAt solo 0 4) 16 12 = 0 ∧ (extentAt solo 0 + 31) / 32 = 1
        ∧ (((List.range 16).find? fun d => (1 : BitVec 16).getLsbD d).getD 0) = 0
        ∧ (∀ s va, readRecords s 0 (launchRule s 5 solo 1) va 0 = (some [], s)) := by
  refine ⟨?_, ⟨?_, fun h => absurd h.1 (by decide +kernel)⟩, ?_, headerFits_of (by decide +kernel), by decide +kernel, by decide +kernel,
    by decide, fun _ _ => rfl⟩
  · obtain ⟨-, -, hv, -, -, ks, e, -⟩ := atHead_ks (s := loaded (bundle 5 32 1 0x40000000) []) (p := bundle 5 32 1 0x40000000) (by decide +kernel)
    obtain ⟨ks', el⟩ := readNow_strays (s := numbered (loaded (bundle 5 32 1 0x40000000) [])) (by decide +kernel) (va := 0x40000000)
      (by decide +kernel) 63 ks
    refine ⟨ks, ks', e, ?_, calm_banked (by decide +kernel) (by decide +kernel) ks'⟩
    rw [vmid_banked, hv, show bytesAt (bundle 5 32 1 0x40000000) 40 8 = 0x40000000 by decide +kernel]
    exact el
  · obtain ⟨-, -, hv, -, -, ks, e, -⟩ := atHead_ks (s := loaded solo []) (p := solo) (by decide +kernel)
    obtain ⟨ks', el⟩ := readNow_spells (s := numbered (loaded solo [])) (by decide +kernel) (va := 0x40000) (pa := 0x40000) (e := gig 0x40)
      (bs := List.replicate 64 0) (by decide +kernel) ks
    refine ⟨ks, ks', e, ?_, calm_banked (by decide +kernel) (by decide +kernel) ks'⟩
    rw [vmid_banked, hv, show bytesAt solo 40 8 = 0x40000 by decide +kernel]
    exact el
  · obtain ⟨-, -, hv, -, -, ks, e, -⟩ := atHead_ks (s := loaded solo plain) (p := solo) (by decide +kernel)
    obtain ⟨ks', el⟩ := readNow_spells (s := numbered (loaded solo plain)) (by decide +kernel) (va := 0x40000) (pa := 0x40000) (e := gig 0x40)
      (bs := plain) (by decide +kernel) ks
    refine ⟨ks, ks', e, ?_, calm_banked (by decide +kernel) (by decide +kernel) ks'⟩
    rw [vmid_banked, hv, show bytesAt solo 40 8 = 0x40000 by decide +kernel]
    exact el

/-- A bundle with one copy record, at an address that does not translate. -/
def scribed : List Byte := leBytes 4 0x1003 ++ (solo.drop 4).take 52 ++ leBytes 8 0x40000000 ++ List.replicate 64 0

theorem witness_QueuesLaunchesAndTrains_records :
    let s := loaded scribed plain
    bundleFits scribed ∧ (bytesAt scribed 0 4).testBit 8 = false ∧ field (bytesAt scribed 0 4) 16 12 = 1
      ∧ ∃ ks k1 k2, readHead (atDesc s) 5 = (some scribed, banked s ks)
        ∧ readNow (numbered (banked s ks)) 0 (vmidOf (banked s ks) 0) 0 (BitVec.ofNat 64 (bytesAt scribed 40 8)) 64
          = (some plain, banked (numbered s) k1)
        ∧ readRecords (banked (numbered s) k1) 0 (launchRule (banked s ks) 5 scribed 1) (bytesAt scribed 56 8) 1 = (none, banked (numbered s) k2)
        ∧ calm (banked (numbered s) k2) := by
  refine ⟨bundle_of (by decide +kernel), by decide +kernel, by decide +kernel, ?_⟩
  obtain ⟨-, hp, hv, -, -, ks, e, -, -, f2, -⟩ := atHead_ks (s := loaded scribed plain) (p := scribed) (by decide +kernel)
  obtain ⟨k1, e1⟩ := readNow_spells (s := numbered (loaded scribed plain)) (by decide +kernel) (va := 0x40000) (pa := 0x40000) (e := gig 0x40)
    (bs := plain) (by decide +kernel) ks
  obtain ⟨k2, e2⟩ := readNow_strays (s := numbered (loaded scribed plain)) (by decide +kernel) (va := 0x40000000) (by decide +kernel) 31 k1
  refine ⟨ks, k1, k2, e, ?_, ?_, calm_banked (by decide +kernel) (by decide +kernel) k2⟩
  · rw [vmid_banked, hv, show bytesAt scribed 40 8 = 0x40000 by decide +kernel]
    exact e1
  · have hq : (launchRule (banked (loaded scribed plain) ks) 5 scribed 1).pasid.toNat = 0 := by
      unfold launchRule; simp only [f2, BitVec.toNat_ofNat, hp]
    unfold readRecords
    rw [vmid_banked, show vmidOf (numbered (loaded scribed plain)) 0 = 0 from hv, hq, show bytesAt scribed 56 8 = 0x40000000 by decide +kernel, e2]

theorem oneCore {k : Kernel} {n : Nat} (h : n ≤ 16 * min 8 (512 / k.vregs) ∧ n * ((k.ports.filter fun x => x.1 != .none).map Prod.snd).sum ≤ 2048) :
    coresNeeded k n 1 := ⟨by decide, by decide, by simpa [fitOnCore] using h, fun b h1 h2 => absurd h2 (by omega)⟩

/-- The kernels of headers: one that 4,096 work items of 512 queue entries a coach do not fit; one on one core; one that needs the matrix
unit where all are held; and one that takes traps where no vector is set. -/
theorem witness_QueuesLaunchesAndTrains_kernels :
    (let p := bundle 12 4096 1 0x40000;
      let k := kernelRule (header 1 1 0 eightPorts) 0x40000;
      bundleFits p ∧ headerFits (header 1 1 0 eightPorts) ∧ ∀ c, ¬coresNeeded k ((extentAt p 0 + 31) / 32) c)
      ∧ coresNeeded (kernelRule plain 0x40000) ((extentAt solo 0 + 31) / 32) 1
      ∧ (let h := header 32 2 0 portless;
        let z : State := { loaded solo h with chassis := [(0, { cdtb := 0x10005, cores := (List.range 16).map fun g => (g, { holder := some 1 }) })] };
        headerFits h ∧ coresNeeded (kernelRule h 0x40000) 1 1 ∧ (kernelRule h 0x40000).matrix = true
          ∧ ∀ g, g < 256 ∧ (1 : BitVec 16).getLsbD (g / 16) = true → (coreG z g).holder.isSome = true)
      ∧ (let h := header 1 0 3 portless;
        headerFits h ∧ coresNeeded (kernelRule h 0x40000) 1 1 ∧ (kernelRule h 0x40000).matrix = false
          ∧ ∃ g, (g < 256 ∧ (1 : BitVec 16).getLsbD (g / 16) = true)
            ∧ (((bytesAt h 6 1).testBit 0 = true ∧ (coreG (loaded solo h) g).svTvec = 0)
              ∨ ((bytesAt h 6 1).testBit 1 = true ∧ (coreG (loaded solo h) g).hvTvec = 0)))
      ∧ ((kernelRule plain 0x40000).matrix = false ∧ (bytesAt plain 6 1).testBit 0 = false ∧ (bytesAt plain 6 1).testBit 1 = false
        ∧ (launchRule (loaded solo plain) 5 solo 1).gang = false) := by
  refine ⟨⟨bundle_of (by decide +kernel), headerFits_of (by decide +kernel), ?_⟩, oneCore (by decide +kernel),
    ⟨headerFits_of (by decide +kernel), oneCore (by decide +kernel), by decide +kernel, ?_⟩,
    ⟨headerFits_of (by decide +kernel), oneCore (by decide +kernel), by decide +kernel, 15, by decide +kernel⟩, by decide +kernel⟩
  · rintro c ⟨h1, h2, ⟨-, h4⟩, -⟩
    have hs : (((kernelRule (header 1 1 0 eightPorts) 0x40000).ports.filter fun x => x.1 != .none).map Prod.snd).sum = 512 := by decide +kernel
    have he : (extentAt (bundle 12 4096 1 0x40000) 0 + 31) / 32 = 128 := by decide +kernel
    rw [hs, he] at h4
    have : c = 1 ∨ c = 2 ∨ c = 3 ∨ c = 4 := by omega
    rcases this with rfl | rfl | rfl | rfl <;> omega
  · have key : ∀ g, g < 256 → (1 : BitVec 16).getLsbD (g / 16) = true → (coreG ({ loaded solo (header 32 2 0 portless) with
        chassis := [(0, { cdtb := 0x10005, cores := (List.range 16).map fun g => (g, { holder := some 1 }) })] } : State) g).holder.isSome = true := by
      decide +kernel
    exact fun g hg => key g hg.1 hg.2

end Sys2Proof.Tests
end

