-- ==== Sys2Proof/Tests/WitnessTrains.lean ====
section
/-! SUPPORT. States and operands that meet the hypotheses of the statement about queues, launches and trains, as to dispatch and the yard, and of
the statement about evicted coaches. -/

namespace Sys2Proof.Tests

set_option Elab.async false

open Sys2Proof.Machine Sys2Proof.Rules

theorem not_made {s : State} {d : Nat} (h : (chassisOf s d).reserved = none) (id : Nat) : ¬madeFor s d id := by simp [madeFor, h]

/-! ## Batches and trains -/

/-- A launch between two that come after it, with a coach of another train on the chassis. -/
def dispatching (l : Launch) : State :=
  { boarded [] [] with
    coaches := [(0, coachU)], trains := [convoy], launches := [{ errand with id := 3, prio := 0 }, l, { errand with id := 4 }] }

theorem served_dispatching {l : Launch} (h : l.at 0 = true) (hp : l.prio = 1) : servedFirst (dispatching l) 0 l :=
  ⟨[{ errand with id := 3, prio := 0 }], [{ errand with id := 4 }], rfl, h, fun x hx _ => by simp at hx; rw [hx, hp]; decide,
    fun x hx _ => by simp at hx; rw [hx, hp]; decide⟩

/-- A launch that takes a batch; the last train of a placed one, whose home does not translate and whose home is d0; one that holds a train. -/
def far : Launch := { errand with placed := true, counter := 1, hbase := 0x40000000 }
def near : Launch := { errand with placed := true, counter := 1, hbase := 0x40000 }
def holding : Launch := { errand with counter := 2, held := [(1, 0), (0, 0)] }

theorem witness_QueuesLaunchesAndTrains_batches :
    (let s := dispatching errand;
      servedFirst s 0 errand ∧ s.stage = 3 ∧ s.doing = {} ∧ launchOf s errand.id = some errand ∧ errand.gang = false ∧ errand.counter < errand.trains
        ∧ (∀ h ∈ errand.held, h.2 ≠ 0) ∧ (coresFor s 0 errand).isSome = true ∧ errand.placed = false
        ∧ Machine.heads s (.turn (.event (.dispatcherTakeBatch 0 errand.id))) = false)
      ∧ (let s := dispatching far;
        servedFirst s 0 far ∧ (launchOf s far.id = some far ∧ (coresFor s 0 far).isSome = true ∧ far.placed = true ∧ far.trains = far.counter + 1
          ∧ (dutyOf s 0).getLsbD 2 = false ∧ Machine.heads s (.turn (.event (.dispatcherTakeBatch 0 far.id))) = false
          ∧ far.hbase + BitVec.ofNat 64 ((List.range 5).map fun i => (far.coeffs.getD i 0).toNat * trainField far far.counter (i + 1)).sum = 0x40000000)
          ∧ ∃ e u, translateNow s 0 (vmidOf s 0) far.pasid.toNat .read 0x40000000 = (.error e, u) ∧ u.doing.stall = none)
      ∧ (let s := dispatching near;
        servedFirst s 0 near ∧ (launchOf s near.id = some near ∧ (coresFor s 0 near).isSome = true ∧ near.trains = near.counter + 1
          ∧ (resolve 0x40000).isSome = true
          ∧ near.hbase + BitVec.ofNat 64 ((List.range 5).map fun i => (near.coeffs.getD i 0).toNat * trainField near near.counter (i + 1)).sum = 0x40000)
          ∧ ∃ u, translateNow s 0 (vmidOf s 0) near.pasid.toNat .read 0x40000 = (.ok (0x40000, {}), u) ∧ u.doing.stall = none)
      ∧ (let s := dispatching holding;
        servedFirst s 0 holding ∧ (launchOf s holding.id = some holding ∧ (0, 0) ∈ holding.held ∧ (∀ h ∈ holding.held, h.2 = 0 → 0 ≤ h.1)
          ∧ (coresFor s 0 holding).isSome = true ∧ holding.records = [] ∧ 1 ≤ holding.cores
          ∧ [1].length = (holding.extents.getD 0 1 + 31) / 32 ∧ [1].Pairwise (· < ·) ∧ ∀ h ∈ [1], h < 4096 ∧ coachOf s (coachKey 0 h) = none)
          ∧ ∀ h, coachOf s (coachKey 0 h) = none → (∃ x ∈ [1], h < x) → h ∈ [1])
      ∧ (let s : State := { dispatching holding with chassis := berths { cdtb := 0x10005, parkReq := true } };
        coresFor s 0 holding = none ∧ (∀ e ∈ s.coaches, e.2.key = e.1) ∧ (s.coaches.map Prod.fst).Nodup) := by
  refine ⟨⟨served_dispatching (by decide) rfl, by decide +kernel⟩, ⟨served_dispatching (by decide) rfl, by decide +kernel, ?_⟩,
    ⟨served_dispatching (by decide) rfl, by decide +kernel, ?_⟩,
    ⟨served_dispatching (by decide) rfl, by decide +kernel, fun h hn hx => ?_⟩, by decide +kernel⟩
  · have hw : plainWorld (dispatching far) = true := by decide +kernel
    obtain ⟨f, ks, e⟩ := translateNow_strays hw (acc := .read) (va := 0x40000000) (by decide +kernel) []
    rw [banked_nil hw] at e
    exact ⟨f, _, e, rfl⟩
  · have hw : plainWorld (dispatching near) = true := by decide +kernel
    obtain ⟨ks, e⟩ := translateNow_leads hw (acc := .read) (va := 0x40000) (pa := 0x40000) (n := 1) (e := gig 0x40) (by decide +kernel)
      (i := 0) (by decide) []
    rw [banked_nil hw] at e
    exact ⟨_, e, rfl⟩
  obtain ⟨x, hx, hl⟩ := hx
  have : h = 0 := by simp at hx; omega
  subst this
  exact absurd hn (by decide +kernel)

/-! ## Gangs, the last coach of a launch, bays -/

/-- A gang launch, where both of its trains fit and where none does; another gang that a core is held for, but that its chassis serves later. -/
def gangster : Launch := { errand with gang := true }
def rival : Launch := { errand with id := 4, gang := true }
def contested : State := { dispatching gangster with launches := [gangster, rival], gangHold := some 4 }

theorem witness_QueuesLaunchesAndTrains_gangs :
    (let s := dispatching gangster;
      (∀ d, d < 16 → gangster.at d = true → servedFirst s d gangster)
        ∧ s.stage = 3 ∧ launchOf s gangster.id = some gangster ∧ gangster.gang = true ∧ gangster.counter < gangster.trains ∧ gangster.stopped = false
        ∧ gangster.refused = none ∧ gangster.mask ≠ 0 ∧ s.gangHold = none
        ∧ s.doing = {} ∧ Machine.heads s (.turn (.event (.gangStart gangster.id))) = false
        ∧ (gangTry s gangster).map (fun v => v.doing.stall) = some none)
      ∧ (let s : State := { dispatching gangster with chassis := berths { parkReq := true }, gangHold := some 2 };
        s.gangHold = some gangster.id ∧ gangTry s gangster = none)
      ∧ (contested.gangHold = some 4 ∧ launchOf contested 4 = some rival ∧ rival.id ≠ gangster.id ∧ rival.at 0 = true)
      ∧ servedFirst contested 0 gangster ∧ ¬servedFirst contested 0 rival := by
  have h0 : ∀ d, d < 16 → gangster.at d = true → d = 0 := by decide
  refine ⟨⟨fun d hd ha => by rw [h0 d hd ha]; exact served_dispatching (by decide) rfl, by decide +kernel⟩, by decide +kernel, by decide +kernel,
    ⟨[], [rival], rfl, by decide, by simp, fun x hx _ => by simp at hx; rw [hx]; decide⟩, ?_⟩
  rintro ⟨pre, post, h, -, hp, -⟩
  have h : [gangster, rival] = pre ++ rival :: post := h
  match pre, h with
  | [], h => exact absurd (List.cons.inj h).1 (by decide)
  | x :: pre, h =>
    obtain ⟨rfl, -⟩ := List.cons.inj h
    exact absurd (hp gangster (.head _) (by decide)) (by decide)

/-- The last coach of the one train of a launch, at EXIT, with a signal word at 0x41000. -/
def lastCoach : Coach := leaver [] 0xFFFFFF00
def lastTrain : Train := { convoy with left := 1 }
def lastLaunch : Launch := { errand with trains := 1, widths := [5, 0, 0, 0, 0, 0], extents := [32, 1, 1, 1, 1, 1], sig := 0x41000, ev := 0x800 }
def ending : State := { boarded [] [] with coaches := [(0, lastCoach)], trains := [lastTrain], launches := [lastLaunch] }

theorem witness_QueuesLaunchesAndTrains_ends :
    (coachOf ending 0 = some lastCoach ∧ lastCoach.key = 0 ∧ mget lastCoach.slots 0 = some (waiterK .exit) ∧ lastCoach.canIssue = true
      ∧ (waiterK .exit).wait = some .exit ∧ (waiterK .exit).level = .U ∧ lastCoach.exited ||| (waiterK .exit).lanes = BitVec.allOnes 32
      ∧ lastCoach.ops = [] ∧ lastCoach.outr.live = false ∧ (∀ i, i < 32 → mget lastCoach.pend i = none) ∧ lastCoach.ports = []
      ∧ lastCoach.yard = false ∧ ending.doing = {} ∧ (∀ e ∈ ending.coaches, e.2.gone = false ∧ e.2.ops = []) ∧ lastCoach.launch = lastTrain.launch
      ∧ lastLaunch.owed = [] ∧ trainOf ending lastCoach.train = some lastTrain ∧ lastTrain.left = 1 ∧ lastTrain.yardLeft = 0 ∧ lastTrain.yard = false
      ∧ lastTrain.completed = false ∧ ending.copies = [] ∧ ending.streams = [] ∧ launchOf ending lastTrain.launch = some lastLaunch
      ∧ lastLaunch.stopped = false ∧ lastLaunch.trains = 1 ∧ lastLaunch.done = [] ∧ (∀ i, i < 6 → 1 ≤ i → lastLaunch.widths.getD i 0 = 0)
      ∧ (resolve 0x41000).map Home.wa = some 0x41000)
      ∧ ∃ u, localNow ending 0 (vmidOf ending 0) lastLaunch.pasid.toNat .atomic lastLaunch.sig = (some (0x41000, {}), u) ∧ writeReady u 0x41000 8 := by
  have hw : plainWorld ending = true := by decide +kernel
  obtain ⟨ks, e⟩ := localNow_leads hw (acc := .atomic) (va := 0x41000) (pa := 0x41000) (n := 1) (e := gig 0x41) (by decide +kernel)
    (i := 0) (by decide) []
  rw [banked_nil hw] at e
  exact ⟨by decide +kernel, _, e, by decide, calm_banked hw (by decide +kernel) ks⟩

/-- A bay whose time has come, one whose time has not, and a full one. -/
def record (i : Nat) : YardRec := { payload := BitVec.ofNat 64 i, wid := 0, train := i % 2 }
def yardBay (n t : Nat) : Bay := { entry := 0x1000, launch := 2, vmid := 0, recs := (List.range n).map record, deadline := t }
def yards (b : Bay) : State := { dispatching errand with chassis := [(0, { cores := [(15, { bays := [(7, b)] })] })] }

theorem witness_QueuesLaunchesAndTrains_bays :
    (let s := yards (yardBay 1 1000);
      mget (coreOf s 0 15).bays 7 = some (yardBay 1 1000) ∧ (yardBay 1 1000).deadline ≤ s.ns)
      ∧ (let s := yards (yardBay 32 1001);
        mget (coreOf s 0 15).bays 7 = some (yardBay 32 1001) ∧ s.ns < (yardBay 32 1001).deadline ∧ launchOf s (yardBay 32 1001).launch = some errand
          ∧ s.stage = 3 ∧ s.teardown = none ∧ 32 ≤ (yardBay 32 1001).recs.length ∧ (yardBay 32 1001).recs.length ≤ 32 ∧ 0 < partRoom s 0 15 15 errand.kernel.vregs
          ∧ (∀ e ∈ s.coaches, e.2.ch = 0 → e.2.core = 15 → e.2.waitsRestore = false) ∧ coachOf s (coachKey 0 1) = none
          ∧ (∀ j, j < 1 → coachOf s (coachKey 0 j) ≠ none) ∧ (chassisOf s 0).parkReq = false ∧ (chassisOf s 0).parkState = 0)
      ∧ ∀ id, ¬madeFor (yards (yardBay 32 1001)) 0 id :=
  ⟨by decide +kernel, by decide +kernel, not_made (by decide +kernel)⟩

/-! ## Eviction and restore -/

/-- The machine with a coach in some place, and others of its PASID. -/
def housed (r : Resid) : Coach := { coachU with resid := r }
def pool (used : List Nat) (hold : Bool) : Chassis := { savebase := 0x0020000000100001, saveUsed := used, hold := hold }
def house (c : Coach) (x : Chassis) (m : List Host.Cell) : State := ringed { world c with chassis := [(0, x)], dram := m }

theorem witness_EvictedCoachesComeBack_requests :
    (∃ e ∈ (house (housed (.evicting true)) {} []).coaches, e.2.resid = .evicting true)
      ∧ (¬(∃ e ∈ (house coachU {} []).coaches, e.2.resid = .evicting true ∨ e.2.returning = true))
      ∧ (let c := housed (.saved true 1);
        let s := house c {} [];
        (¬∃ e ∈ s.coaches, e.2.resid = .evicting true ∨ e.2.returning = true) ∧ coachOf s 0 = some c ∧ c.resid = .saved true 1
          ∧ c.pasid = 0 ∧ (1 : BitVec 16).getLsbD c.ch = true) := by
  refine ⟨⟨_, .head _, by decide⟩, ?_, ?_, by decide +kernel⟩ <;> rintro ⟨e, he, h⟩ <;> simp [house, ringed, world] at he <;> subst he <;>
    revert h <;> decide

/-- A coach with an operation, a chassis on hold, and a full pool; then a coach that goes to slot 1, the last of the pool, with an access of its
outrider that waits for a mark to be consumed. -/
def lateOp : Op := { ldOp with outrider := true, pieces := [{ at_ .mem 0x2000 4 with late := true }] }
def leaving : Coach := { housed (.evicting false) with vregs := 256, ops := [lateOp] }

theorem witness_EvictedCoachesComeBack_saves :
    (let c := { housed (.evicting true) with ops := [ldOp] };
      coachOf (house c (pool [] false) []) 0 = some c ∧ c.key = 0 ∧ c.resid = .evicting true ∧ ¬operationsOver c)
      ∧ (let c := housed (.evicting false);
        (coachOf (house c (pool [] true) []) 0 = some c ∧ (chassisOf (house c (pool [] true) []) 0).hold = true)
          ∧ let x := chassisOf (house c (pool [1, 0] false) []) 0;
            coachOf (house c (pool [1, 0] false) []) 0 = some c ∧ ∀ j, j < poolSlots x → j ∈ x.saveUsed)
      ∧ (let c := leaving;
        let s := house c (pool [0] false) [];
        let x := chassisOf s 0;
        operationsOver c ∧ coachOf s 0 = some c ∧ x.hold = false ∧ 1 < poolSlots x ∧ 1 ∉ x.saveUsed
          ∧ coreStoresBefore s c.gcore c.last = false
          ∧ (∀ j, j < 1 → j ∈ x.saveUsed) ∧ slotAt x 1 + 0x1C000 ≤ 2 ^ 40 ∧ c.vregs ≤ 256 ∧ c.siding.length ≤ 32
          ∧ (∀ q, q < 8 → (portOf c q).depth ≤ 64) ∧ ((List.range 8).map fun q => (portOf c q).faults.length).sum ≤ 64)
      ∧ calm (house leaving (pool [0] false) [])
      ∧ (let c := housed (.evicting false);
        let o : Coach := { coachW with handle := 1 };
        let s : State := { house { c with last := 9 } (pool [] false) [] with coaches := [(0, { c with last := 9 }), (1, o)] };
        coachOf s 0 = some { c with last := 9 } ∧ coreStoresBefore s c.gcore 9 = true) := by
  unfold operationsOver
  exact ⟨by decide +kernel, by decide +kernel, by decide +kernel, calm_of (by decide +kernel), by decide +kernel⟩

/-- A saved coach whose record is in slot 1 of the pool, or is not there. The record has lane 3 in slot 0. -/
def saved : Coach := housed (.saved false 1)
def recorded (bs : List Byte) : State := house saved (pool [1] false) (cwrite [] 0x11C000 bs)
def goodRecord : List Byte := [0x01, 0x00, 0x56, 0x53, 0, 0, 1] ++ List.replicate 257 0 ++ [8]
def homeward : State := house saved (pool [1] false) (cwrite (cwrite [] 0x11C000 goodRecord) 0x11C114 [4])

/-- The same where four coaches hold all queue entries of the core, and the record has a port. -/
def hoarder (i : Nat) : Coach := { coachU with handle := i, ports := (List.range 8).map fun q => (q, { dir := .inbound, depth := 64 }) }
def crowded : State :=
  { homeward with
    coaches := (0, saved) :: [1, 2, 3, 4].map fun i => (i, hoarder i)
    dram := cwrite homeward.dram 0x11DC00 [1] }

theorem witness_EvictedCoachesComeBack_restores :
    (let s := homeward;
      let x := chassisOf s 0;
      coachOf s 0 = some saved ∧ saved.key = 0 ∧ saved.resid = .saved false 1 ∧ s.stage = 3 ∧ x.parkReq = false ∧ x.parkState = 0
        ∧ slotAt x 1 = 0x11C000 ∧ 0x11C000 + 0x1C000 ≤ 2 ^ 40 ∧ saved.resumes = [] ∧ saved.departs = [] ∧ saved.core < 16 ∧ s.teardown = none)
      ∧ (calm homeward ∧ calm crowded ∧ calm (recorded []))
      ∧ (∀ s ∈ [homeward, crowded, recorded []], (∀ id, ¬madeFor s 0 id)
        ∧ hasRoomFor s 0 saved.core saved.vregs saved.entries (saved.access = true ∧ saved.yard = false))
      ∧ (recordFits homeward 0x11C000 saved ∧ (∃ l, l < 32 ∧ recordLane homeward 0x11C000 l)
        ∧ hasRoomFor homeward 0 saved.core (8 * recordField homeward 0x11C000 6 1) (recordBefore homeward 0x11C000 8)
          (recordField homeward 0x11C000 7 1 % 4 = 1))
      ∧ (recordFits crowded 0x11C000 saved
        ∧ ¬hasRoomFor crowded 0 saved.core (8 * recordField crowded 0x11C000 6 1) (recordBefore crowded 0x11C000 8)
          (recordField crowded 0x11C000 7 1 % 4 = 1))
      ∧ ¬recordFits (recorded []) 0x11C000 saved
      ∧ (saved.ops = [] ∧ saved.gone = false ∧ saved.yard = false ∧ trainOf (recorded []) saved.train = some convoy ∧ 2 ≤ convoy.left
        ∧ launchOf (recorded []) saved.launch = some errand) := by
  refine ⟨by decide +kernel, ⟨calm_of (by decide +kernel), calm_of (by decide +kernel), calm_of (by decide +kernel)⟩, ?_, ?_, ?_,
    fun h => absurd h.1 (by decide +kernel), by decide +kernel⟩
  · simp only [List.mem_cons, List.not_mem_nil, or_false, forall_eq_or_imp, forall_eq]
    unfold hasRoomFor
    exact ⟨⟨not_made (by decide +kernel), by decide +kernel⟩, ⟨not_made (by decide +kernel), by decide +kernel⟩,
      not_made (by decide +kernel), by decide +kernel⟩
  · unfold recordFits hasRoomFor recordLane
    decide +kernel
  · unfold recordFits hasRoomFor
    decide +kernel

/-- A carriage at S that waits for its level to go on, parked and not, with its coach on the chassis and saved. -/
def parkedK : Carriage := { carr .S 0xFF with parked := true }
def parker (r : Resid) : Coach := { coachS with slots := [(0, parkedK)], resid := r }

theorem witness_EvictedCoachesComeBack_resumes :
    (coachOf (world coachS) 0 = some coachS ∧ coachS.key = 0 ∧ mget coachS.slots 0 = some (carr .S 0xFF) ∧ (carr .S 0xFF).parked = false)
      ∧ (let c := parker (.saved true 1);
        coachOf (world c) 0 = some c ∧ mget c.slots 0 = some parkedK ∧ parkedK.parked = true ∧ c.resid = .saved true 1)
      ∧ (let c := parker .resident;
        let f := frameOf c parkedK.fslot parkedK.level;
        coachOf (world c) 0 = some c ∧ mget c.slots 0 = some parkedK ∧ c.resid = .resident ∧ parkedK.level ≠ .U ∧ f.rearmed = false
          ∧ parkedK.lanes = rget f.traps f.depth &&& ~~~c.exited ∧ rget f.traps f.depth &&& ~~~c.exited ≠ 0 ∧ c.ports = [])
      ∧ orderly (parker .resident) :=
  ⟨by decide +kernel, by decide +kernel, by decide +kernel, by unfold orderly; decide +kernel⟩

end Sys2Proof.Tests
end

