-- ==== Sys2Proof/Tests/WitnessPower.lean ====
section
/-! SUPPORT. States and operands that meet the hypotheses of the statement about power, temperature, parking and the memory controller. -/

namespace Sys2Proof.Tests

set_option Elab.async false

open Sys2Proof.Machine Sys2Proof.Rules

/-- The module in S3 with some chassis. -/
def powered (d : Nat) (c : Chassis) : State := { staged 3 with ns := 1000, chassis := [(d, c)] }

/-- An epoch that is over and one that is not; the hundredth slow epoch and the thousandth fast one; a step that is due and one that is not, with
one owed after it; a cap that a chassis is faster than. -/
theorem witness_PowerParkingAndTheMemoryController_epochs :
    (∀ s ∈ [{ powered 15 { purse := 8388608, draws := 3, psStep := some (6, 2000) } with slowEpochs := 99, duty := 4 },
          { powered 15 { purse := 8388608, requests := [(0, 1, 9)] } with fastEpochs := 999 }],
        s.stage = 3 ∧ s.epoch + 1000 ≤ s.ns ∧ (∀ d, d < 16 → (chassisOf s d).purse ≤ 8388608) ∧ s.ceiling ≤ 1500)
      ∧ (powered 0 {}).ns < ({ powered 0 {} with epoch := 1 } : State).epoch + 1000
      ∧ (chassisOf (powered 15 { psStep := some (7, 1000), psDue := -1 }) 15).psStep = some (7, 1000) ∧ 1000 ≤ (powered 15 {}).ns
      ∧ ((chassisOf (powered 15 { psStep := some (3, 1001) }) 15).psStep = some (3, 1001) ∧ (powered 15 {}).ns < 1001)
      ∧ ((4 : BitVec 3).toNat < ({ powered 15 {} with pscap := 5 } : State).pscap ∧ (4 : BitVec 3).toNat < (chassisOf (powered 15 { ps := 5 }) 15).ps) := by
  decide +kernel

/-- Readings of sixteen sensors, the highest of them at the thermal stop and just below it, of a chassis that has not been sampled and of one whose
sample is 1 µs old; a reading that is missing and a sample that comes early; changes that are due and ones that are not. -/
def sensors (r : Nat) : List Nat := r :: List.replicate 15 300
def sampledAt (t : Nat) : State := powered 15 { sampled := some t }

theorem witness_PowerParkingAndTheMemoryController_heat :
    (∀ r ∈ [920, 919], (sensors r).length = 16 ∧ r ∈ sensors r ∧ ∀ x ∈ sensors r, x ≤ r)
      ∧ (chassisOf (powered 15 {}) 15).sampled = none
      ∧ ((chassisOf (sampledAt 0) 15).sampled = some 0 ∧ ¬1200 * (sampledAt 0).ns + (sampledAt 0).nsPart < 0 + 1200000)
      ∧ (sensors 300).tail.length ≠ 16
      ∧ (∃ t, (chassisOf (sampledAt 1) 15).sampled = some t ∧ 1200 * (sampledAt 1).ns + (sampledAt 1).nsPart < t + 1200000)
      ∧ (let s := powered 15 { tsNext := some (3, 1200000), holdNext := some (true, 1200000), clk := 64 };
        let c := chassisOf s 15;
        c.tsNext = some (3, 1200000) ∧ c.holdNext = some (true, 1200000) ∧ c.clk % 64 = 0 ∧ 1200000 ≤ 1200 * s.ns + s.nsPart)
      ∧ (let s := powered 15 { tsNext := some (3, 1200001), holdNext := some (false, 1200001), clk := 64 };
        let c := chassisOf s 15;
        c.tsNext = some (3, 1200001) ∧ c.holdNext = some (false, 1200001) ∧ ¬(c.clk % 64 = 0 ∧ 1200001 ≤ 1200 * s.ns + s.nsPart))
      ∧ (let c := chassisOf (powered 15 { clk := 63 }) 15; c.tsNext = none ∧ c.holdNext = none ∧ ¬(c.clk % 64 = 0 ∧ 0 ≤ 0)) :=
  ⟨by decide +kernel, by decide +kernel, by decide +kernel, by decide +kernel, ⟨1, by decide +kernel⟩, by decide +kernel⟩

/-- An operation that waits at a bank-side unit of a chassis. -/
def atBank : BankEntry := { port := 17, wa := 0xF00000000, since := 5, who := .corrected }
def queuedBus : Chassis := { parkState := 3, buses := [(15, { queues := [(3, [atBank])] })] }

/-- Chassis that nothing is resident on; one with a coach; the states of parking, where it is still wanted and where it is not; a hop of the ring
that is down. -/
theorem witness_PowerParkingAndTheMemoryController_parking :
    (let s := powered 15 { parkReq := true };
      ((chassisOf s 15).parkReq = true ∧ (chassisOf s 15).parkState = 0) ∧ deserted s 15 ∧ coherent s ∧ busesUp s ∧ quiet s)
      ∧ (chassisOf (powered 15 {}) 15).parkReq = false
      ∧ ¬deserted (world coachU) 0
      ∧ (∀ req, let s := powered 15 { parkReq := req, parkState := 1 };
        (chassisOf s 15).parkState = 1 ∧ coherent s ∧ busesUp s ∧ quiet s)
      ∧ ((chassisOf (powered 1 { parkState := 3 }) 1).parkState = 3
        ∧ ¬∃ b ∈ (chassisOf (powered 1 { parkState := 3 }) 1).buses, ∃ q ∈ b.2.queues, ∃ e ∈ q.2, e.live (powered 1 { parkState := 3 }) = true)
      ∧ (∃ b ∈ (chassisOf (powered 15 queuedBus) 15).buses, ∃ q ∈ b.2.queues, ∃ e ∈ q.2, e.live (powered 15 queuedBus) = true)
      ∧ blockOpen (ringed (world coachU)) 15 ∧ ¬blockOpen (hopped (world coachU) 3 3) 1 := by
  refine ⟨⟨by decide +kernel, ⟨fun e he => absurd he (by simp [powered, staged, State.reset]), fun t ht =>
      absurd ht (by simp [powered, staged, State.reset])⟩, serene (by decide +kernel)⟩, by decide +kernel, ?_, ?_, by decide +kernel, by decide +kernel,
    .inr (.inr (by decide +kernel)), by unfold blockOpen; decide +kernel⟩
  · rintro ⟨h, -⟩
    obtain ⟨-, held, i, h⟩ := h (0, coachU) (.head _) rfl
    cases h
  · rintro (_ | _) <;> exact ⟨by decide +kernel, serene (by decide +kernel)⟩

/-- A parked chassis whose stop has gathered both parts of a reduction, and one of them; and the root. -/
def gathered (d n : Nat) : Reduction :=
  { redOf 2 with n := 64, sums := (List.range n).map (fun i => (512 * d + i, zeroSums)), incl := (List.range n).map fun i => (512 * d + i, 1) }
def parkedSums (d n : Nat) : State := { powered d { parkReq := true, parkState := 1 } with reductions := [gathered d n] }

theorem witness_PowerParkingAndTheMemoryController_sums :
    ((parkedSums 1 0).reductions = [gathered 1 0] ∧ 1 = (gathered 1 0).args.root)
      ∧ ((parkedSums 2 0).reductions = [gathered 2 0] ∧ ∀ i, i < (gathered 2 0).n / 32 → mget (gathered 2 0).sums (512 * 2 + i) = none)
      ∧ ((parkedSums 2 2).reductions = [gathered 2 2] ∧ 2 ≠ (gathered 2 2).args.root ∧ 0 < (gathered 2 2).n / 32
        ∧ ∀ i, i < (gathered 2 2).n / 32 → (mget (gathered 2 2).sums (512 * 2 + i)).isSome = true) := by decide +kernel

/-- A bus of a chassis, in some state. -/
def bused (b : Bus) (c : Chassis) : State := powered 15 { c with buses := [(15, b)] }

/-- A lane that errs for the second time where spare 0 serves and spare 1 has failed, and where all serve. -/
def erring : Bus := { state := 1, group := 35, next := 35, busyTo := 4, erred := [(35, 0x80)], spareValid := 1, spareFailed := 2 }

theorem witness_PowerParkingAndTheMemoryController_buses :
    ((chassisOf (bused {} {}) 15).ts ≤ 3 ∧ ¬1000 ≥ 0 + 3900)
      ∧ (let s : State := { bused { refreshedAt := [(511, 20)] } { ts := 3 } with ns := 1000 };
        (chassisOf s 15).ts ≤ 3 ∧ (mget (busOf (chassisOf s 15) 15).refreshedAt (16 * 31 + 15)).getD 0 + 980 ≤ s.ns)
      ∧ (let s : State := { bused { refreshedAt := [(511, 21)] } { ts := 3 } with ns := 1000 };
        s.ns < (mget (busOf (chassisOf s 15) 15).refreshedAt (16 * 31 + 15)).getD 0 + 980)
      ∧ (busOf (chassisOf (bused { state := 1 } {}) 15) 15).state = 1
      ∧ (let c := chassisOf (bused { state := 2, busyTo := 4 } { clk := 4 }) 15;
        (busOf c 15).state = 2 ∧ (busOf c 15).busyTo ≤ c.clk)
      ∧ (let c := chassisOf (bused {} { clk := 256 }) 15;
        (busOf c 15).state = 0 ∧ c.testctl.getLsbD 0 = true ∧ (busOf c 15).lastOp + max 16 (field c.testctl.toNat 15 4) ≤ c.clk
          ∧ (busOf c 15).arrivals = [] ∧ (busOf c 15).queues = [])
      ∧ (let s := bused { arrivals := [atBank] } { clk := 256 };
        ∃ e ∈ (busOf (chassisOf s 15) 15).arrivals, e.live s = true)
      ∧ (let s := bused { queues := [(3, [atBank])] } { clk := 256 };
        ∃ q ∈ (busOf (chassisOf s 15) 15).queues, ∃ e ∈ q.2, e.live s = true)
      ∧ (chassisOf (bused {} { testctl := 0x1000 }) 15).testctl.getLsbD 0 = false
      ∧ (let c := chassisOf (bused { state := 1, group := 36, busyTo := 4 } { clk := 4 }) 15;
        (busOf c 15).state = 1 ∧ (busOf c 15).busyTo ≤ c.clk ∧ (0xFF : BitVec 8) &&& rget (busOf c 15).erred (busOf c 15).group = 0
          ∧ (busOf c 15).group = 36)
      ∧ (busOf (chassisOf (bused { state := 1, group := 0 } {}) 15) 15).group ≠ 36
      ∧ (let c := chassisOf (bused erring { clk := 4 }) 15;
        let b := busOf c 15;
        b.state = 1 ∧ b.busyTo ≤ c.clk ∧ (0x81 : BitVec 8) &&& rget b.erred b.group = 1#8 <<< 7 ∧ b.group < 36
          ∧ (∀ j, j < 8 → mget b.spareLane j ≠ some (8 * b.group + 7)) ∧ b.spareValid.getLsbD 2 = false ∧ b.spareFailed.getLsbD 2 = false
          ∧ ∀ k, k < 2 → b.spareValid.getLsbD k = true ∨ b.spareFailed.getLsbD k = true)
      ∧ (let b := busOf (chassisOf (bused { erring with spareValid := 0xFD } { clk := 4 }) 15) 15;
        ∀ j, j < 8 → b.spareValid.getLsbD j = true ∨ b.spareFailed.getLsbD j = true)
      ∧ (let c := chassisOf (bused { state := 1, group := 36, busyTo := 4, erred := [(36, 0x80)], spareValid := 0x7F } { clk := 4 }) 15;
        let b := busOf c 15;
        (0x81 : BitVec 8) &&& rget b.erred b.group = 1#8 <<< 7 ∧ b.group = 36 ∧ b.spareValid.getLsbD 7 = false) := by decide +kernel

/-- A chassis whose slice is open, with a line that a core of it owns, and one whose clock is stolen. -/
def owningHome (c : Chassis) : State :=
  powered 0 { c with cacheOn := true, cache := [(5, { bytes := [], owner := some 3 })], buses := [(15, { erring with spareValid := 0xFD })] }

theorem witness_PowerParkingAndTheMemoryController_losses :
    (sliceOpen (owningHome { clk := 4 }) 0 = true ∧ pathOpen (owningHome { clk := 4 }) 0 (3 / 16) = true)
      ∧ (∀ ln g, lineDie ln = 0 ∧ (cacheLine (owningHome { clk := 4 }) ln).bind CacheLine.owner = some g → g = 3)
      ∧ sliceOpen (owningHome { clk := 63 }) 0 = false := by
  refine ⟨by decide +kernel, ?_, by decide +kernel⟩
  rintro ln g ⟨hd, h⟩
  unfold cacheLine at h
  rw [hd, show (chassisOf (owningHome { clk := 4 }) 0).cache = [(5, { bytes := [], owner := some 3 })] by decide +kernel] at h
  unfold mget at h
  split at h
  · simpa using h.symm
  · simp [mget] at h

/-- Clocks that the refresh of the gain cells steals, and ones that it does not, in each throttle state. -/
theorem witness_PowerParkingAndTheMemoryController_steals :
    (∀ x ∈ [((0, 63) : Nat × Nat), (1, 31), (2, 63), (3, 15)], let c := chassisOf (powered 15 { ts := x.1, clk := x.2 }) 15
      c.ts ≤ 3 ∧ ((c.ts = 0 ∧ c.clk % 64 = 63) ∨ ((c.ts = 1 ∨ c.ts = 2) ∧ c.clk % 32 = 31) ∨ (c.ts = 3 ∧ c.clk % 16 = 15)))
      ∧ (∀ x ∈ [((0, 31) : Nat × Nat), (1, 15), (2, 32), (3, 16)], let c := chassisOf (powered 15 { ts := x.1, clk := x.2 }) 15
        ¬((c.ts = 0 ∧ c.clk % 64 = 63) ∨ ((c.ts = 1 ∨ c.ts = 2) ∧ c.clk % 32 = 31) ∨ (c.ts = 3 ∧ c.clk % 16 = 15)))
      ∧ (chassisOf { powered 15 { ts := 0, clk := 63 } with chassis := [(15, { ts := 0, clk := 63, cacheOn := true })] } 15).cacheOn = true
      ∧ (let t : Train := { convoy with ch := 15, loads := [(64, 3, [])] };
        let s : State := { powered 15 { ts := 0, clk := 63 } with trains := [t] };
        trainOf s 1 = some t ∧ t.ch < 16 ∧ (∀ l ∈ s.launches, l.owed = []) ∧ t.loads = [(64, 3, [])] ∧ 64 ≤ (chassisOf s 15).clk + 1)
      ∧ (let c := chassisOf (powered 15 { ts := 0, clk := 63, tsNext := some (2, 5), holdNext := some (true, 5) }) 15;
        c.tsNext = some (2, 5) ∧ c.holdNext = some (true, 5) ∧ c.clk % 64 = 63)
      ∧ (let s := powered 15 { ts := 0, clk := 63, buses := [(15, { state := 1, arrivals := [atBank] })] };
        let b := busOf (chassisOf s 15) 15;
        b.state = 1 ∧ ∃ q ∈ b.arrivals, q.live s = true ∧ q.since + 16 ≤ 64) := by decide +kernel

end Sys2Proof.Tests
end

section
/-! PROOFS. The state that module reset leaves: its parts, and the statement about the reset columns (00 R6, 21 R437). -/

namespace Sys2Proof.Machine

/-- Module reset gives no chassis an entry of its own, so each reads as the blank one. -/
@[simp] theorem chassisOf_reset (d : Nat) : chassisOf State.reset d = {} := rfl

@[simp] theorem coreOf_reset (d k : Nat) : coreOf State.reset d k = {} := rfl

/-- The size field of the event ring resets to 6, the least that the ring takes (21 R435). -/
@[simp] theorem evqLsize_reset : evqLsize State.reset = 6 := by decide

/-- Settles O1: the module's own registers hold their values in the reset state itself; each chassis and each core is the blank one. -/
theorem resetLeavesTheStatedValues : Obligations.ResetLeavesTheStatedValues := by
  refine ⟨rfl, rfl, rfl, rfl, rfl, evqLsize_reset, rfl, rfl, rfl, rfl, rfl, rfl, rfl, rfl, rfl, rfl, rfl, rfl, rfl, rfl, fun d => ?_⟩
  simp only [chassisOf_reset, coreOf_reset, and_self, implies_true]

end Sys2Proof.Machine
end

section
/-! PROOFS. Fetches and walks that end without reading what stands before them: why the statements about the fetch (02 R56, R57) and about walks
and scans (02 R40 to R58) fail as they are worded. -/

namespace Sys2Proof.Machine

/-! ## A carriage whose SPAWN waits fetches nothing (08 R210) -/

/-- The SPAWN that waits for bays is the instruction of its carriage, whatever stands at the pc. -/
theorem fetchOf_of_spawn_waiting {k : Carriage} {w : Deposit} (hw : k.spawn = some w) (s : State) (c : Coach) (j : Nat) :
    fetchOf s c j k = .ok (.spawn (BitVec.ofNat 8 w.d) (BitVec.ofNat 8 w.a)) 4 := by
  rw [fetchOf, hw]

/-- An accepted page of zeros, each of its words a NOP, at address 0 of d0, and all else as module reset leaves it. -/
def nopPage : State := State.reset.setChassis 0 { scanned := [(0, .accepted [])] }

/-- A coach of d0 with nothing in it. -/
def emptyCoach : Coach := { ch := 0, handle := 0, core := 0, part := 0, place := 0, train := 0 }

/-- A carriage at H, where addresses stand for themselves, at the start of that page, whose SPAWN waits for bays. -/
def spawnWaiter : Carriage := { pc := 0, lanes := 1, level := .H, spawn := some { lanes := 1, d := 2, a := 4 } }

theorem translate_spawnWaiter :
    translate nopPage (askerOf emptyCoach 0 spawnWaiter) .exec spawnWaiter.pc = .pa 0 { cp := 0, atomic := true } := by decide +kernel

theorem fetchWord_nopPage : fetchWord nopPage emptyCoach.gcore (homeAt 0).wa spawnWaiter.pc = .ok (0, false)
    ∧ fetchWord nopPage emptyCoach.gcore ((homeAt 0).wa + 4) (spawnWaiter.pc + 4) = .ok (0, false) := ⟨rfl, rfl⟩

/-- Refutes O10: the carriage's words are read, and the decoder makes a NOP of them, but the carriage has a SPAWN that waits for bays (08 R210),
so that its fetch gives that SPAWN; the statement leaves such carriages in. -/
theorem not_fetchDecodesTheWordsAtThePc : ¬ Obligations.FetchDecodesTheWordsAtThePc := by
  unfold Obligations.FetchDecodesTheWordsAtThePc
  rintro ⟨hfetch, -⟩
  obtain ⟨hw, hlit⟩ := fetchWord_nopPage
  have hread := hfetch nopPage emptyCoach 0 spawnWaiter 0 _ (homeAt 0) 0 0 false (by decide) (by decide) translate_spawnWaiter
    (by decide) (by decide) hw hlit .nop
  have hnop : fetchOf nopPage emptyCoach 0 spawnWaiter = .ok .nop 4 := hread.1 (by decide)
  rw [fetchOf_of_spawn_waiting rfl] at hnop
  cases hnop

/-! ## A walk at H whose regime is off reads nothing (02 R46) -/

/-- Such a walk ends at once with the identity of its page, and leaves every read that it was given. -/
theorem walk_identity {r : Roots} {m : Miss} (hm : m.ctx.hyp = true) (hr : r.ttbr.testBit 0 = false) (rs : List (Nat × W64)) :
    walk r m rs = .ok { entry := identity m.ctx (BitVec.ofNat 64 (m.page * 4096)), used := [], keep := false } rs [] := by
  have hoff : bitOf r.ttbr 0 = false := by
    rw [Nat.testBit_zero] at hr
    simpa [bitOf] using hr
  simp only [walk, hm, if_true, walkH, hoff, Bool.not_false]

/-- A miss of page 0 at H. -/
def missAtH : Miss := { core := 0, ctx := { vmid := 0, pasid := 0, hyp := true }, page := 0, acc := .read, level := .H }

/-- Refutes O56: its clause on identity translation says of every list of reads that none is left; a walk that is given one read leaves it. -/
theorem not_translationWalksAndScans : ¬ Obligations.TranslationWalksAndScans := by
  unfold Obligations.TranslationWalksAndScans
  rintro ⟨-, hidentity, -⟩
  obtain ⟨w, hwalk, -⟩ := hidentity { cdtb := 0, s2tb := 0, ttbr := 0 } missAtH [(0, 0)] rfl rfl (by decide)
  rw [walk_identity rfl rfl] at hwalk
  cases hwalk

end Sys2Proof.Machine
end

section
/-! PROOFS. Maps whose entries are written many at a time: what they hold afterwards. -/

namespace Sys2Proof.Machine

/-- Entries in rising order below 128, as a line of a cache lists its bytes (04 R95, R100). -/
def LineBytes (m : RMap 8) : Prop := (m.map Prod.fst).Pairwise (· < ·) ∧ ∀ e ∈ m, e.1 < 128

theorem LineBytes.nil : LineBytes [] := ⟨List.Pairwise.nil, by simp⟩

theorem mem_mset {α : Type} {m : SMap α} {k : Nat} {v : α} {e : Nat × α} (h : e ∈ mset m k v) : e = (k, v) ∨ e ∈ m := by
  induction m with
  | nil => exact .inl (by simpa [mset] using h)
  | cons a m ih =>
    obtain ⟨j, b⟩ := a
    simp only [mset] at h
    split at h
    · simp only [List.mem_cons] at h ⊢; tauto
    · split at h
      · simpa using h
      · rcases List.mem_cons.mp h with rfl | h
        · exact .inr (List.mem_cons_self ..)
        · exact (ih h).imp_right (List.mem_cons_of_mem _)

theorem pairwise_mset {α : Type} {m : SMap α} (h : (m.map Prod.fst).Pairwise (· < ·)) (k : Nat) (v : α) :
    ((mset m k v).map Prod.fst).Pairwise (· < ·) := by
  induction m with
  | nil => simp [mset]
  | cons a m ih =>
    obtain ⟨j, b⟩ := a
    obtain ⟨hj, hm⟩ := List.pairwise_cons.mp h
    simp only [mset]
    split
    · next hk => subst hk; exact h
    · next hk =>
      split
      · next hlt =>
        refine List.pairwise_cons.mpr ⟨fun i hi => ?_, h⟩
        rcases List.mem_cons.mp hi with rfl | hi
        · exact hlt
        · exact hlt.trans (hj i hi)
      · next hge =>
        refine List.pairwise_cons.mpr ⟨fun i hi => ?_, ih hm⟩
        obtain ⟨e, he, rfl⟩ := List.mem_map.mp hi
        rcases mem_mset he with rfl | he
        · show j < k; omega
        · exact hj _ (List.mem_map_of_mem he)

theorem LineBytes.mset {m : RMap 8} (h : LineBytes m) {k : Nat} (hk : k < 128) (v : Byte) : LineBytes (mset m k v) :=
  ⟨pairwise_mset h.1 k v, fun _ he => (mem_mset he).elim (fun e => e ▸ hk) (h.2 _)⟩

theorem LineBytes.lt {m : RMap 8} (h : LineBytes m) {i : Nat} {b : Byte} (hb : mget m i = some b) : i < 128 := h.2 _ (mem_of_mget hb)

/-- A fold of writes keeps the form where each of them does. -/
theorem LineBytes.foldl {α : Type} (f : RMap 8 → α → RMap 8) (as : List α) (hf : ∀ a ∈ as, ∀ m, LineBytes m → LineBytes (f m a)) :
    ∀ m, LineBytes m → LineBytes (as.foldl f m) := by
  induction as with
  | nil => exact fun _ h => h
  | cons a as ih => exact fun m h => ih (fun b hb => hf b (.tail _ hb)) _ (hf a (.head _) m h)

theorem mget_filter {α : Type} (p : Nat → Bool) (m : SMap α) (i : Nat) :
    mget (m.filter fun e => p e.1) i = if p i then mget m i else none := by
  induction m with
  | nil => simp [mget]
  | cons e m ih =>
    obtain ⟨k, v⟩ := e
    by_cases hk : k = i
    · subst hk
      cases hp : p k <;> simp [hp, mget, ih]
    · cases hp : p k <;> simp [hp, mget, ih, hk]

theorem mget_eq_none {α : Type} {m : SMap α} {k : Nat} (h : ∀ e ∈ m, e.1 ≠ k) : mget m k = none := by
  cases hm : mget m k with
  | none => rfl
  | some v => exact absurd rfl (h _ (mem_of_mget hm))

/-- Entries in rising order that are written into a map stand over its own. -/
theorem mget_foldl_mset {α : Type} (ds : SMap α) (hd : (ds.map Prod.fst).Pairwise (· < ·)) : ∀ (m : SMap α) (i : Nat),
    mget (ds.foldl (fun m e => mset m e.1 e.2) m) i = (mget ds i).orElse fun _ => mget m i := by
  induction ds with
  | nil => exact fun _ _ => rfl
  | cons e ds ih =>
    obtain ⟨k, v⟩ := e
    obtain ⟨hk, hd⟩ := List.pairwise_cons.mp hd
    intro m i
    rw [List.foldl_cons, ih hd, mget_mset]
    by_cases hi : i = k
    · subst hi
      have : mget ds i = none := mget_eq_none fun e he => (hk e.1 (List.mem_map_of_mem he)).ne'
      simp [this, mget]
    · simp [hi, mget, Ne.symm hi]

/-- A run of entries from `o` on, all of them written. -/
theorem mget_foldl_put {α : Type} (f : Nat → α) (o : Nat) (m : SMap α) (i n : Nat) :
    mget ((List.range n).foldl (fun m j => mset m (o + j) (f j)) m) i = if o ≤ i ∧ i < o + n then some (f (i - o)) else mget m i := by
  induction n with
  | zero => simp
  | succ n ih =>
    rw [List.range_succ, List.foldl_append, List.foldl_cons, List.foldl_nil, mget_mset, ih]
    by_cases hi : i = o + n
    · subst hi; simp
    · rw [if_neg hi]
      have : (o ≤ i ∧ i < o + n) ↔ (o ≤ i ∧ i < o + (n + 1)) := by omega
      simp only [this]

/-- A run of entries from `o` on, of which those are written that are not there. -/
theorem mget_foldl_fill {α : Type} (f : Nat → α) (o : Nat) (m : SMap α) (i n : Nat) :
    mget ((List.range n).foldl (fun m j => if (mget m (o + j)).isSome then m else mset m (o + j) (f (o + j))) m) i
      = (mget m i).orElse fun _ => if o ≤ i ∧ i < o + n then some (f i) else none := by
  induction n with
  | zero =>
    rw [if_neg (by omega)]
    cases hm : mget m i <;> simp [hm]
  | succ n ih =>
    rw [List.range_succ, List.foldl_append, List.foldl_cons, List.foldl_nil]
    have hin : (o ≤ i ∧ i < o + (n + 1)) ↔ i = o + n ∨ (o ≤ i ∧ i < o + n) := by omega
    split
    · next hs =>
      rw [ih]
      by_cases hi : i = o + n
      · subst hi
        rw [ih] at hs
        cases hm : mget m (o + n) with
        | none => simp [hm] at hs
        | some b => simp
      · simp only [hin, hi, false_or]
    · next hs =>
      rw [mget_mset]
      by_cases hi : i = o + n
      · subst hi
        rw [ih] at hs
        cases hm : mget m (o + n) with
        | none => simp
        | some b => simp [hm] at hs
      · rw [if_neg hi, ih]; simp only [hin, hi, false_or]

theorem mget_map {α β : Type} (f : α → β) (m : SMap α) (k : Nat) : mget (m.map fun e => (e.1, f e.2)) k = (mget m k).map f := by
  induction m with
  | nil => rfl
  | cons e m ih =>
    obtain ⟨j, v⟩ := e
    simp only [List.map_cons, mget]
    split <;> simp [ih]

end Sys2Proof.Machine
end

section
/-! PROOFS. What a step of the caches leaves alone: everything but the chassis and the cells, and of a chassis all but its caches, cores and scans. -/

namespace Sys2Proof.Machine

open Sys2Proof.Rules

/-! ## Reads of the parts of the state after writes -/

theorem chassisOf_setChassis (s : State) (d e : Nat) (c : Chassis) :
    chassisOf (s.setChassis d c) e = if e = d then c else chassisOf s e := by
  split
  · next h => subst h; exact chassisOf_setChassis_self ..
  · next h => exact chassisOf_setChassis_ne s c h

/-- A field of the chassis that an update keeps reads as before in every chassis. -/
theorem chassisOf_setChassis_keeps {α : Type} (f : Chassis → α) (s : State) {d : Nat} {c : Chassis} (h : f c = f (chassisOf s d)) (e : Nat) :
    f (chassisOf (s.setChassis d c) e) = f (chassisOf s e) := by
  rw [chassisOf_setChassis]
  split
  · next he => rw [h, he]
  · rfl

theorem coreG_congr {s u : State} (h : ∀ d, (chassisOf u d).cores = (chassisOf s d).cores) (g : Nat) : coreG u g = coreG s g := by
  simp only [coreG, coreOf, h]

theorem coreG_setCoreG (s : State) (g h : Nat) (k : Core) : coreG (s.setCoreG g k) h = if h = g then k else coreG s h := by
  unfold coreG State.setCoreG State.setCore coreOf
  rw [chassisOf_setChassis]
  by_cases hd : h / 16 = g / 16
  · rw [if_pos hd, mget_mset, hd]
    have : h % 16 = g % 16 ↔ h = g := by omega
    simp only [this]
    split <;> rfl
  · rw [if_neg hd, if_neg (by rintro rfl; exact hd rfl)]

@[simp] theorem cache_setCoreG (s : State) (g d : Nat) (k : Core) : (chassisOf (s.setCoreG g k) d).cache = (chassisOf s d).cache :=
  chassisOf_setChassis_keeps Chassis.cache s (by rfl) d

@[simp] theorem cacheLine_setCoreG (s : State) (g ln : Nat) (k : Core) : cacheLine (s.setCoreG g k) ln = cacheLine s ln := by
  simp [cacheLine]

@[simp] theorem coreG_setLine (s : State) (ln g : Nat) (l : CacheLine) : coreG (setLine s ln l) g = coreG s g :=
  coreG_congr (chassisOf_setChassis_keeps Chassis.cores s (by rfl)) g

theorem cacheLine_setChassis {s : State} {ln : Nat} {c : Chassis} {l : CacheLine} (h : c.cache = mset (chassisOf s (lineDie ln)).cache ln l)
    (j : Nat) : cacheLine (s.setChassis (lineDie ln) c) j = if j = ln then some l else cacheLine s j := by
  unfold cacheLine
  rw [chassisOf_setChassis]
  by_cases hd : lineDie j = lineDie ln
  · rw [if_pos hd, h, mget_mset, hd]
  · rw [if_neg hd, if_neg (by rintro rfl; exact hd rfl)]

theorem cacheLine_setLine (s : State) (ln j : Nat) (l : CacheLine) : cacheLine (setLine s ln l) j = if j = ln then some l else cacheLine s j :=
  cacheLine_setChassis rfl j

@[simp] theorem dram_setLine (s : State) (ln : Nat) (l : CacheLine) : (setLine s ln l).dram = s.dram := rfl

/-! ## Steps that change caches and cells alone -/

/-- A chassis without its caches, cores and scans, and its buses without the time of their last operation (03 R82). -/
def Chassis.standing (c : Chassis) : Chassis × (Nat → Bus) :=
  ({ c with cache := [], cacheUses := 0, cores := [], scanned := [], scans := [], buses := [] }, fun b => { busOf c b with lastOp := 0 })

/-- A state without its chassis and its cells, and what the step under way has met. -/
def State.bare (s : State) : State := { s with chassis := [], dram := [], flaws := [], doing := {} }

/-- A step that leaves everything alone but caches and cells, finds no error, and is held by nothing. -/
structure UnitStep (s u : State) : Prop where
  bare : u.bare = s.bare
  standing : ∀ d, (chassisOf u d).standing = (chassisOf s d).standing
  flaws : ∀ a, flawAt s a = .clean → flawAt u a = .clean
  ecc : s.doing.ecc = .clean → u.doing.ecc = .clean
  stall : u.doing.stall = s.doing.stall

theorem UnitStep.refl (s : State) : UnitStep s s := ⟨rfl, fun _ => rfl, fun _ h => h, fun h => h, rfl⟩

theorem UnitStep.trans {s t u : State} (h : UnitStep s t) (g : UnitStep t u) : UnitStep s u :=
  ⟨g.bare.trans h.bare, fun d => (g.standing d).trans (h.standing d), fun a ha => g.flaws a (h.flaws a ha), fun he => g.ecc (h.ecc he),
    g.stall.trans h.stall⟩

theorem UnitStep.rest {s u : State} (h : UnitStep s u) :
    u = { s with chassis := u.chassis, dram := u.dram, flaws := u.flaws, doing := u.doing } :=
  congrArg (fun t : State => { t with chassis := u.chassis, dram := u.dram, flaws := u.flaws, doing := u.doing }) h.bare

/-- An update of a chassis that keeps what stands there. -/
theorem UnitStep.setChassis (s : State) {d : Nat} {c : Chassis} (h : c.standing = (chassisOf s d).standing) : UnitStep s (s.setChassis d c) :=
  ⟨rfl, chassisOf_setChassis_keeps Chassis.standing s h, fun _ h => h, fun h => h, rfl⟩

theorem UnitStep.setCoreG (s : State) (g : Nat) (k : Core) : UnitStep s (s.setCoreG g k) := .setChassis s rfl
theorem UnitStep.setLine (s : State) (ln : Nat) (l : CacheLine) : UnitStep s (setLine s ln l) := .setChassis s rfl
theorem UnitStep.clearScan (s : State) (wa : Nat) : UnitStep s (clearScan s wa) := .setChassis s rfl

/-- A write of cells. -/
theorem UnitStep.dram (s : State) (m : List Host.Cell) : UnitStep s { s with dram := m } := ⟨rfl, fun _ => rfl, fun _ h => h, fun h => h, rfl⟩

theorem UnitStep.mend (s : State) (wa : Nat) : UnitStep s (mend s wa) := by
  refine ⟨rfl, fun _ => rfl, fun a ha => ?_, fun h => h, rfl⟩
  simp only [Machine.mend, flawAt, mget_mdel]
  split
  · rfl
  · exact ha

section reads
variable {s u : State} (h : UnitStep s u)
include h

theorem UnitStep.chassis_field {α : Type} (f : Chassis → α) (hf : ∀ c : Chassis, f c = f c.standing.1) (d : Nat) :
    f (chassisOf u d) = f (chassisOf s d) := by
  rw [hf, h.standing, ← hf]

theorem UnitStep.bus_field {α : Type} (f : Bus → α) (hf : ∀ b : Bus, f b = f { b with lastOp := 0 }) (d b : Nat) :
    f (busOf (chassisOf u d) b) = f (busOf (chassisOf s d) b) := by
  rw [hf, hf (busOf (chassisOf s d) b)]
  exact congrArg f (congrFun (congrArg Prod.snd (h.standing d)) b)

theorem UnitStep.coaches : u.coaches = s.coaches := show u.bare.coaches = s.bare.coaches by rw [h.bare]

theorem UnitStep.ns : u.ns = s.ns := show u.bare.ns = s.bare.ns by rw [h.bare]

theorem UnitStep.cacheOnAt (ln : Nat) : cacheOnAt u ln = cacheOnAt s ln := h.chassis_field Chassis.cacheOn (fun _ => rfl) _

theorem UnitStep.sliceOpen (d : Nat) : sliceOpen u d = sliceOpen s d := by
  unfold Machine.sliceOpen stolenNow
  rw [h.chassis_field Chassis.cacheOn (fun _ => rfl), h.chassis_field Chassis.ts (fun _ => rfl), h.chassis_field Chassis.clk (fun _ => rfl)]

theorem UnitStep.busLost (a : Nat) : busLost u a = busLost s a := by
  unfold Machine.busLost
  dsimp only
  rw [h.bus_field Bus.state fun _ => rfl]

theorem UnitStep.live : BankEntry.live u = BankEntry.live s := by
  funext e
  simp only [BankEntry.live, accessWaits, coachOf, h.coaches]

theorem UnitStep.bankFree {a : Nat} (hf : bankFree s a) : bankFree u a := by
  obtain ⟨h1, h2, hr, hq, ha⟩ := hf
  refine ⟨?_, ?_, ?_, ?_, ?_⟩
  · rwa [h.bus_field Bus.state fun _ => rfl]
  · rwa [h.bus_field Bus.state fun _ => rfl]
  · simp only [refreshing, h.bus_field Bus.refreshedAt (fun _ => rfl), h.ns] at hr ⊢
    exact hr
  · simp only [queueAt, h.bus_field Bus.queues (fun _ => rfl), h.live] at hq ⊢
    exact hq
  · simp only [arrivalsAt, h.bus_field Bus.arrivals (fun _ => rfl), h.live] at ha ⊢
    exact ha

theorem UnitStep.openStores (g : Nat) : openStores u g = openStores s g := by simp only [Machine.openStores, h.coaches]

end reads

/-! ## A line whose home takes accesses -/

/-- The home of a line takes an access at this moment: its cache slice is open, the banks of its bytes are free, no bus is lost, and no error is
met. -/
structure LineReady (s : State) (ln : Nat) : Prop where
  slice : sliceOpen s (lineDie ln) = true
  bank : ∀ a, lineOf a = ln → bankFree s a
  clean : ∀ a, lineOf a = ln → flawAt s a = .clean
  buses : busesUp s
  ecc : s.doing.ecc = .clean

theorem LineReady.step {s u : State} {ln : Nat} (h : LineReady s ln) (g : UnitStep s u) : LineReady u ln :=
  ⟨(g.sliceOpen _).trans h.slice, fun a ha => g.bankFree (h.bank a ha), fun a ha => g.flaws a (h.clean a ha),
    fun a => (g.busLost a).trans (h.buses a), g.ecc h.ecc⟩

theorem lineDie_lineOf (a : Nat) : lineDie (lineOf a) = (homeAt a).d := by
  simp only [lineDie, lineOf, homeAt, homeOf]; omega

/-- The bytes of a sector lie in one bank. -/
theorem home_of_sector {a b : Nat} (h : a / 32 = b / 32) :
    (homeAt a).d = (homeAt b).d ∧ (homeAt a).col = (homeAt b).col ∧ (homeAt a).bank = (homeAt b).bank := by
  simp only [homeAt, homeOf, Home.bank, bitsOf]
  have hd : a / 2 ^ 36 % 16 = b / 2 ^ 36 % 16 := by omega
  have e8 : a % 2 ^ 36 / 2 ^ 8 = b % 2 ^ 36 / 2 ^ 8 := by omega
  have e12 : a % 2 ^ 36 / 2 ^ 12 = b % 2 ^ 36 / 2 ^ 12 := by omega
  have e17 : a % 2 ^ 36 / 2 ^ 17 = b % 2 ^ 36 / 2 ^ 17 := by omega
  have e23 : a % 2 ^ 36 / 2 ^ 23 = b % 2 ^ 36 / 2 ^ 23 := by omega
  refine ⟨hd, by rw [e8, e12], ?_⟩
  rw [e12, e17, e23]
  omega

theorem bankFree_of_sector {s : State} {a b : Nat} (h : a / 32 = b / 32) (hf : bankFree s b) : bankFree s a := by
  obtain ⟨hd, hc, hb⟩ := home_of_sector h
  simp only [bankFree, queueAt, arrivalsAt, hd, hc, hb] at hf ⊢
  exact hf

theorem flawAt_of_sector {s : State} {a b : Nat} (h : a / 32 = b / 32) : flawAt s a = flawAt s b := by rw [flawAt, flawAt, h]

theorem LineReady.of_lineFree {s : State} {ln : Nat} (h : lineFree s ln) (hb : busesUp s) (he : s.doing.ecc = .clean) : LineReady s ln := by
  obtain ⟨hs, hi, -⟩ := h
  have key : ∀ a, lineOf a = ln → ∃ i, i < 4 ∧ a / 32 = (128 * ln + 32 * i) / 32 := by
    rintro a rfl
    exact ⟨a / 32 % 4, Nat.mod_lt _ (by decide), by unfold lineOf; omega⟩
  refine ⟨hs, fun a ha => ?_, fun a ha => ?_, hb, he⟩
  · obtain ⟨i, h4, e⟩ := key a ha
    exact bankFree_of_sector e (hi i h4).1
  · obtain ⟨i, h4, e⟩ := key a ha
    rw [flawAt_of_sector e, (hi i h4).2]

theorem unitOpen_of_bankFree {s : State} {a : Nat} (h : bankFree s a) : unitOpen s a = true := by
  obtain ⟨h1, h2, hr, hq, ha⟩ := h
  simp [unitOpen, h1, h2, hr, hq, ha]

/-- The home of a line lets an access in. -/
theorem LineReady.enterSlice {s : State} {a : Nat} (h : LineReady s (lineOf a)) : enterSlice s a = s := by
  rw [Machine.enterSlice, ← lineDie_lineOf, h.slice, if_pos rfl]

/-! ## Steps that leave the caches and the cells alone -/

/-- Two states with the same caches and cells. -/
structure SameCaches (s u : State) : Prop where
  cache : ∀ d, (chassisOf u d).cache = (chassisOf s d).cache
  core : ∀ g, coreG u g = coreG s g
  dram : u.dram = s.dram

theorem SameCaches.refl (s : State) : SameCaches s s := ⟨fun _ => rfl, fun _ => rfl, rfl⟩

theorem SameCaches.trans {s t u : State} (h : SameCaches s t) (g : SameCaches t u) : SameCaches s u :=
  ⟨fun d => (g.cache d).trans (h.cache d), fun c => (g.core c).trans (h.core c), g.dram.trans h.dram⟩

theorem SameCaches.line {s u : State} (h : SameCaches s u) (ln : Nat) : cacheLine u ln = cacheLine s ln := by rw [cacheLine, cacheLine, h.cache]

theorem SameCaches.l1Line {s u : State} (h : SameCaches s u) (g ln : Nat) : l1Line u g ln = l1Line s g ln := by
  rw [Machine.l1Line, Machine.l1Line, h.core]

theorem SameCaches.setChassis (s : State) {d : Nat} {c : Chassis} (h : c.cache = (chassisOf s d).cache) (hk : c.cores = (chassisOf s d).cores) :
    SameCaches s (s.setChassis d c) :=
  ⟨chassisOf_setChassis_keeps Chassis.cache s h, coreG_congr (chassisOf_setChassis_keeps Chassis.cores s hk), rfl⟩

theorem SameCaches.clearScan (s : State) (wa : Nat) : SameCaches s (clearScan s wa) := .setChassis s rfl rfl

theorem busOf_mset (c : Chassis) (b j : Nat) (x : Bus) : busOf { c with buses := mset c.buses b x } j = if j = b then x else busOf c j := by
  simp only [busOf, mget_mset]; split <;> rfl

/-- A chassis one of whose buses carries an operation at this clk (03 R82). -/
def Chassis.carries (c : Chassis) (b : Nat) : Chassis := { c with buses := mset c.buses b { busOf c b with lastOp := c.clk } }

theorem Chassis.standing_carries (c : Chassis) (b : Nat) : (c.carries b).standing = c.standing := by
  refine Prod.ext rfl (funext fun j => ?_)
  simp only [standing, carries, busOf_mset]
  split
  · next hj => rw [hj]
  · rfl

theorem enterUnit_eq {s : State} {a : Nat} (h : bankFree s a) : enterUnit s a =
    { s.setChassis (homeAt a).d ((chassisOf s (homeAt a).d).carries (homeAt a).col) with
      doing := { s.doing with banks := bankKey a :: s.doing.banks } } := by
  rw [enterUnit, if_pos (unitOpen_of_bankFree h)]; rfl

/-- A bank that is free takes the step. -/
theorem enterUnit_free {s : State} {a : Nat} (h : bankFree s a) : UnitStep s (enterUnit s a) ∧ SameCaches s (enterUnit s a) := by
  rw [enterUnit_eq h]
  have hu : UnitStep s _ := .setChassis s (Chassis.standing_carries (chassisOf s (homeAt a).d) (homeAt a).col)
  have hc : SameCaches s _ := .setChassis s (c := (chassisOf s (homeAt a).d).carries (homeAt a).col) rfl rfl
  exact ⟨⟨hu.bare, hu.standing, hu.flaws, hu.ecc, hu.stall⟩, hc.cache, hc.core, hc.dram⟩

theorem meetError_clean {s : State} (h : s.doing.ecc = .clean) (a : Nat) : meetError s a = s := by
  have : ({ s with doing := { s.doing with ecc := .clean } } : State) = s := by rw [← h]
  rw [meetError, this, strike, if_pos h]

/-- The unit reads a sector of a line whose home takes accesses, and finds no error. -/
theorem LineReady.readSector {s : State} {ln a : Nat} (h : LineReady s ln) (ha : lineOf a = ln) (kind : Nat) (rewrites : Bool) :
    ∃ u, readSector s a kind rewrites = (none, u) ∧ UnitStep s u ∧ SameCaches s u := by
  obtain ⟨hu, hc⟩ := enterUnit_free (h.bank a ha)
  refine ⟨enterUnit s a, ?_, hu, hc⟩
  simp only [Machine.readSector, h.buses a, Bool.false_eq_true, if_false, meetError_clean (h.step hu).ecc, (h.step hu).clean a ha]

theorem LineReady.openSector {s : State} {ln a : Nat} (h : LineReady s ln) (ha : lineOf a = ln) (kind : Nat) (whole : Bool) :
    ∃ u, openSector s a kind whole = (none, u) ∧ UnitStep s u ∧ SameCaches s u := by
  simp only [Machine.openSector, h.buses a, Bool.false_eq_true, if_false]
  split
  · exact ⟨_, rfl, enterUnit_free (h.bank a ha)⟩
  · exact h.readSector ha kind true

theorem LineReady.readSectorsAt {s : State} {ln : Nat} (h : LineReady s ln) (kind : Nat) (rewrites : Bool) (was : List Nat)
    (hw : ∀ a ∈ was, lineOf a = ln) : ∃ u, readSectorsAt kind rewrites s was = (none, u) ∧ UnitStep s u ∧ SameCaches s u := by
  induction was generalizing s with
  | nil => exact ⟨s, rfl, .refl s, .refl s⟩
  | cons a was ih =>
    obtain ⟨t, ht, hu, hc⟩ := h.readSector (hw a (.head _)) kind rewrites
    obtain ⟨u, hr, hu', hc'⟩ := ih (h.step hu) fun b hb => hw b (.tail _ hb)
    exact ⟨u, by rw [Machine.readSectorsAt, ht]; exact hr, hu.trans hu', hc.trans hc'⟩

/-! ## The end of a step -/

/-- A chassis whose units a step that is over has left. -/
def Chassis.left (who : Requester) (c : Chassis) : Chassis := { c with buses := c.buses.map fun b => (b.1, b.2.without who) }

theorem leaveUnits_eq (s : State) (who : Requester) :
    leaveUnits s who = s ∨ leaveUnits s who = { s with chassis := s.chassis.map fun c => (c.1, c.2.left who) } := by
  unfold leaveUnits
  split
  · exact .inr rfl
  · exact .inl rfl

/-- Leaving the units changes buses alone. -/
theorem sameCaches_leaveUnits (s : State) (who : Requester) : SameCaches s (leaveUnits s who) := by
  rcases leaveUnits_eq s who with h | h <;> rw [h]
  · exact .refl s
  · have key : ∀ d, chassisOf { s with chassis := s.chassis.map fun c => (c.1, c.2.left who) } d = (chassisOf s d).left who := by
      intro d
      simp only [chassisOf, mget_map (Chassis.left who)]
      cases mget s.chassis d <;> rfl
    exact ⟨fun d => by rw [key]; rfl, coreG_congr fun d => by rw [key]; rfl, rfl⟩

theorem leaveUnits_chassis (s : State) (who : Requester) : leaveUnits s who = { s with chassis := (leaveUnits s who).chassis } := by
  rcases leaveUnits_eq s who with h | h <;> rw [h]

/-- The units are left alike whatever the coaches do. -/
theorem leaveUnits_setCoach (s : State) (key : Nat) (c : Coach) (who : Requester) :
    leaveUnits (s.setCoach key c) who = (leaveUnits s who).setCoach key c := by
  unfold leaveUnits State.setCoach
  split <;> rfl

end Sys2Proof.Machine
end

section
/-! PROOFS. What a line of memory reads as through the caches, and the steps of the caches that keep it (04 R95, R100, R107). -/

namespace Sys2Proof.Machine

open Sys2Proof.Rules

/-! ## One line -/

/-- The core that the home of a line records as its owner (04 R107). -/
def lineOwner (s : State) (ln : Nat) : Option Nat := (cacheLine s ln).bind CacheLine.owner

/-- The caches agree about one line with one another and with the cells. -/
structure LineCoherent (s : State) (ln : Nat) : Prop where
  bytes : ∀ l, cacheLine s ln = some l → LineBytes l.bytes
  l1Bytes : ∀ g l, l1Line s g ln = some l → LineBytes l.bytes
  clean : ∀ l i b, cacheLine s ln = some l → mget l.bytes i = some b → l.dirty.getLsbD i = false → cget s.dram (128 * ln + i) = b
  owned : ∀ g, lineOwner s ln = some g → l1Owns s g ln = true

theorem lineOwner_eq_some {s : State} {ln g : Nat} : lineOwner s ln = some g ↔ ∃ l, cacheLine s ln = some l ∧ l.owner = some g := by
  simp [lineOwner, Option.bind_eq_some_iff]

theorem coherent_iff (s : State) : coherent s ↔ ∀ ln, LineCoherent s ln := by
  constructor
  · rintro ⟨hb, h1, hc, ho⟩ ln
    refine ⟨hb ln, fun g => h1 g ln, fun l i b => hc ln l i b, fun g hg => ?_⟩
    obtain ⟨l, hl, hg⟩ := lineOwner_eq_some.mp hg
    exact ho ln l g hl hg
  · intro h
    exact ⟨fun ln => (h ln).bytes, fun g ln => (h ln).l1Bytes g, fun ln l i b => (h ln).clean l i b,
      fun ln l g hl hg => (h ln).owned g (lineOwner_eq_some.mpr ⟨l, hl, hg⟩)⟩

/-- A line that no L1 owns reads as at its home. -/
theorem memByte_of_unowned {s : State} {b : Nat} (h : lineOwner s (lineOf b) = none) : memByte s b = homeByte s b := by
  unfold lineOwner at h
  simp only [memByte, h, homeByte]
  cases (cacheLine s (lineOf b)).bind fun l => mget l.bytes (b % 128) <;> rfl

/-- A step keeps a line: its bytes read as before, and the caches agree about it. -/
structure LineKept (s u : State) (ln : Nat) : Prop where
  memory : ∀ b, lineOf b = ln → memByte u b = memByte s b
  coherent : LineCoherent u ln

theorem lineOf_offset {ln i : Nat} (h : i < 128) : lineOf (128 * ln + i) = ln := by unfold lineOf; omega
theorem offset_eq (b : Nat) : 128 * lineOf b + b % 128 = b := by unfold lineOf; omega

/-- A line is kept where its home and the cells are as before, and each L1 too, but for one that is not recorded as the owner. -/
theorem LineKept.of_same {s u : State} {ln : Nat} (hc : LineCoherent s ln) (hl : cacheLine u ln = cacheLine s ln)
    (hd : ∀ b, lineOf b = ln → cget u.dram b = cget s.dram b)
    (h1 : ∀ g, l1Line u g ln = l1Line s g ln ∨ (lineOwner s ln ≠ some g ∧ ∀ l, l1Line u g ln = some l → LineBytes l.bytes)) :
    LineKept s u ln := by
  have ho : lineOwner u ln = lineOwner s ln := by rw [lineOwner, lineOwner, hl]
  have howner : ∀ g, lineOwner s ln = some g → l1Line u g ln = l1Line s g ln := fun g hg => (h1 g).resolve_right fun h => h.1 hg
  refine ⟨?_, fun l h => hc.bytes l (hl ▸ h), fun g l h => ?_, fun l i b h hb hdirty => ?_, fun g hg => ?_⟩
  · rintro b rfl
    simp only [memByte, hl, hd b rfl]
    cases hg : (cacheLine s (lineOf b)).bind CacheLine.owner with
    | none => rfl
    | some g => simp only [Option.bind_some, howner g hg]
  · rcases h1 g with e | e
    · exact hc.l1Bytes g l (e ▸ h)
    · exact e.2 l h
  · rw [hl] at h
    rw [hd _ (lineOf_offset ((hc.bytes l h).lt hb))]
    exact hc.clean l i b h hb hdirty
  · rw [ho] at hg
    have := hc.owned g hg
    rw [l1Owns, howner g hg]
    exact this

/-- A line that no L1 owns is kept where it reads as before at its home. -/
theorem LineKept.of_home {s u : State} {ln : Nat} (hs : lineOwner s ln = none) (hu : lineOwner u ln = none)
    (hm : ∀ b, lineOf b = ln → homeByte u b = homeByte s b) (hb : ∀ l, cacheLine u ln = some l → LineBytes l.bytes)
    (h1 : ∀ g l, l1Line u g ln = some l → LineBytes l.bytes)
    (hc : ∀ l i b, cacheLine u ln = some l → mget l.bytes i = some b → l.dirty.getLsbD i = false → cget u.dram (128 * ln + i) = b) :
    LineKept s u ln := by
  refine ⟨?_, hb, h1, hc, fun g hg => absurd (hu.symm.trans hg) (by simp)⟩
  rintro b rfl
  rw [memByte_of_unowned hs, memByte_of_unowned hu, hm b rfl]

/-! ## Steps that keep every line -/

/-- A step of the caches: nothing but caches and cells changes, and memory reads as before. -/
structure CacheStep (s u : State) : Prop extends UnitStep s u where
  line : ∀ ln, LineKept s u ln

theorem CacheStep.memory {s u : State} (h : CacheStep s u) : sameMemory s u := fun b => (h.line _).memory b rfl
theorem CacheStep.keeps_coherent {s u : State} (h : CacheStep s u) : coherent u := (coherent_iff u).mpr fun ln => (h.line ln).coherent

theorem CacheStep.trans {s t u : State} (h : CacheStep s t) (g : CacheStep t u) : CacheStep s u :=
  ⟨h.toUnitStep.trans g.toUnitStep, fun ln =>
    ⟨fun b hb => ((g.line ln).memory b hb).trans ((h.line ln).memory b hb), (g.line ln).coherent⟩⟩

theorem SameCaches.kept {s u : State} (hc : coherent s) (h : SameCaches s u) (ln : Nat) : LineKept s u ln :=
  .of_same ((coherent_iff s).mp hc ln) (h.line ln) (fun b _ => by rw [h.dram]) fun g => .inl (h.l1Line g ln)

theorem CacheStep.of_same {s u : State} (hc : coherent s) (hu : UnitStep s u) (h : SameCaches s u) : CacheStep s u := ⟨hu, h.kept hc⟩

theorem CacheStep.refl {s : State} (hc : coherent s) : CacheStep s s := .of_same hc (.refl s) (.refl s)

/-- The L1 of a core takes other lines, none of them one that a home records as the core's. -/
theorem CacheStep.setL1 {s : State} (hc : coherent s) (g : Nat) (m : SMap L1Line)
    (h : ∀ ln, mget m ln = l1Line s g ln ∨ (lineOwner s ln ≠ some g ∧ ∀ l, mget m ln = some l → LineBytes l.bytes)) :
    CacheStep s (s.setCoreG g { coreG s g with l1 := m }) := by
  refine ⟨.setCoreG .., fun ln => .of_same ((coherent_iff s).mp hc ln) (cacheLine_setCoreG ..) (fun _ _ => rfl) fun j => ?_⟩
  simp only [l1Line, coreG_setCoreG]
  split
  · next hj => subst hj; exact h ln
  · exact .inl rfl

/-- The home of a line that no L1 owns takes another form of it that reads as before. -/
theorem CacheStep.of_line {s u : State} {ln : Nat} {l : CacheLine} (hc : coherent s) (hs : lineOwner s ln = none) (hu : UnitStep s u)
    (hline : ∀ j, cacheLine u j = if j = ln then some l else cacheLine s j) (hcore : ∀ g, coreG u g = coreG s g) (hd : u.dram = s.dram)
    (hl : l.owner = none) (hb : LineBytes l.bytes)
    (hm : ∀ i, i < 128 → (mget l.bytes i).getD (cget s.dram (128 * ln + i)) = homeByte s (128 * ln + i))
    (hcl : ∀ i b, mget l.bytes i = some b → l.dirty.getLsbD i = false → cget s.dram (128 * ln + i) = b) : CacheStep s u := by
  refine ⟨hu, fun j => ?_⟩
  have h1 : ∀ g, l1Line u g j = l1Line s g j := fun g => by rw [l1Line, hcore, l1Line]
  have hj := hline j
  split at hj
  · next e =>
    subst e
    refine .of_home hs (by rw [lineOwner, hj]; exact hl) ?_ ?_ (fun g l' h' => ?_) ?_
    · rintro b rfl
      have e := hm (b % 128) (Nat.mod_lt _ (by decide))
      rw [offset_eq] at e
      rw [← e, homeByte, hj, Option.bind_some, hd]
      cases mget l.bytes (b % 128) <;> rfl
    · rintro l' h'
      cases hj.symm.trans h'
      exact hb
    · exact ((coherent_iff s).mp hc j).l1Bytes g l' (h1 g ▸ h')
    · rintro l' i b h'
      cases hj.symm.trans h'
      rw [hd]
      exact hcl i b
  · exact .of_same ((coherent_iff s).mp hc j) hj (fun _ _ => by rw [hd]) fun g => .inl (h1 g)

/-- A line that its home holds and no L1 owns reads as it is listed there, else as the cells. -/
theorem homeByte_of_line {s : State} {ln i : Nat} {l : CacheLine} (hl : cacheLine s ln = some l) (hi : i < 128) :
    homeByte s (128 * ln + i) = (mget l.bytes i).getD (cget s.dram (128 * ln + i)) := by
  have hm : (128 * ln + i) % 128 = i := by omega
  rw [homeByte, lineOf_offset hi, hl, hm, Option.bind_some]
  cases mget l.bytes i <;> rfl

theorem homeByte_of_no_line {s : State} {b : Nat} (hl : cacheLine s (lineOf b) = none) : homeByte s b = cget s.dram b := by
  rw [homeByte, hl]; rfl

/-- A chassis whose cache has used a line (04 R102). -/
def Chassis.uses (c : Chassis) (ln : Nat) (l : CacheLine) : Chassis :=
  { c with cache := mset c.cache ln { l with used := c.cacheUses + 1 }, cacheUses := c.cacheUses + 1 }

/-- A line that is used goes on with another time of its last use alone. -/
theorem touch_line {s : State} {ln : Nat} {l : CacheLine} (hl : cacheLine s ln = some l) :
    ∃ n, UnitStep s (touch s ln) ∧ (∀ j, cacheLine (touch s ln) j = if j = ln then some { l with used := n } else cacheLine s j)
      ∧ (∀ g, coreG (touch s ln) g = coreG s g) ∧ (touch s ln).dram = s.dram := by
  have e : touch s ln = s.setChassis (lineDie ln) ((chassisOf s (lineDie ln)).uses ln l) := by rw [touch, hl]; rfl
  rw [e]
  exact ⟨_, .setChassis s rfl, cacheLine_setChassis rfl, coreG_congr (chassisOf_setChassis_keeps Chassis.cores s (by rfl)), rfl⟩

theorem CacheStep.touch {s : State} {ln : Nat} (hc : coherent s) (hs : lineOwner s ln = none) : CacheStep s (touch s ln) := by
  cases hl : cacheLine s ln with
  | none => rw [Machine.touch, hl]; exact .refl hc
  | some l =>
    obtain ⟨n, hu, hline, hcore, hd⟩ := touch_line hl
    have hln := (coherent_iff s).mp hc ln
    refine .of_line hc hs hu hline hcore hd ?_ (hln.bytes l hl) (fun i hi => (homeByte_of_line hl hi).symm) fun i b => hln.clean l i b hl
    simpa [lineOwner, hl] using hs

theorem coreG_touch (s : State) (ln g : Nat) : coreG (touch s ln) g = coreG s g := by
  cases hl : cacheLine s ln with
  | none => rw [touch, hl]
  | some l =>
    obtain ⟨n, -, -, hcore, -⟩ := touch_line hl
    exact hcore g

theorem cacheLine_touch {s : State} {ln : Nat} {l : CacheLine} (hl : cacheLine s ln = some l) :
    ∃ n, cacheLine (touch s ln) ln = some { l with used := n } := by
  obtain ⟨n, -, hline, -⟩ := touch_line hl
  exact ⟨n, by rw [hline, if_pos rfl]⟩

theorem isSome_touch {s : State} {ln : Nat} : (cacheLine (touch s ln) ln).isSome = (cacheLine s ln).isSome := by
  cases hl : cacheLine s ln with
  | none => rw [touch, hl, hl]
  | some l =>
    obtain ⟨n, h⟩ := cacheLine_touch hl
    rw [h]; rfl

theorem lineOwner_touch {s : State} {ln : Nat} : lineOwner (touch s ln) ln = lineOwner s ln := by
  cases hl : cacheLine s ln with
  | none => rw [touch, hl]
  | some l =>
    obtain ⟨n, h⟩ := cacheLine_touch hl
    simp only [lineOwner, h, hl, Option.bind_some]

/-! ## A recall (04 R107) -/

/-- The home's line after a recall: the bytes that the L1 `o` holds dirty stand over its own. -/
def recalled (l : CacheLine) (o : L1Line) : CacheLine :=
  { l with bytes := (dirtyBytes o.bytes o.dirty).foldl (fun m e => mset m e.1 e.2) l.bytes, dirty := l.dirty ||| o.dirty, owner := none }

theorem LineBytes.dirtyBytes {m : RMap 8} (h : LineBytes m) (d : BitVec 128) : LineBytes (dirtyBytes m d) :=
  ⟨h.1.sublist (List.filter_sublist.map _), fun e he => h.2 e (List.mem_of_mem_filter he)⟩

theorem mget_dirtyBytes (m : RMap 8) (d : BitVec 128) (i : Nat) : mget (dirtyBytes m d) i = if d.getLsbD i then mget m i else none :=
  mget_filter _ m i

theorem LineBytes.recalled {l : CacheLine} {o : L1Line} (hl : LineBytes l.bytes) (ho : LineBytes o.bytes) : LineBytes (recalled l o).bytes :=
  .foldl _ _ (fun e he _ hm => hm.mset ((ho.dirtyBytes o.dirty).2 e he) e.2) _ hl

theorem mget_recalled (l : CacheLine) {o : L1Line} (ho : LineBytes o.bytes) (i : Nat) :
    mget (recalled l o).bytes i = (if o.dirty.getLsbD i then mget o.bytes i else none).orElse fun _ => mget l.bytes i := by
  rw [recalled, mget_foldl_mset _ (ho.dirtyBytes o.dirty).1, mget_dirtyBytes]

theorem recallLine_unowned {s : State} {ln : Nat} (h : lineOwner s ln = none) : recallLine s ln = s := by
  cases hl : cacheLine s ln with
  | none => rw [recallLine, hl]
  | some l =>
    have : l.owner = none := by simpa [lineOwner, hl] using h
    simp only [recallLine, hl, this]

/-- What a recall from the L1 of core `g` makes of the caches. -/
structure Recalled (s u : State) (ln g : Nat) (l : CacheLine) (o : L1Line) : Prop where
  step : UnitStep s u
  line : ∀ j, cacheLine u j = if j = ln then some (recalled l o) else cacheLine s j
  core : ∀ h, coreG u h = if h = g then { coreG s g with l1 := mdel (coreG s g).l1 ln } else coreG s h
  dram : u.dram = s.dram

theorem recallLine_owned {s : State} {ln g : Nat} {l : CacheLine} {o : L1Line} (hl : cacheLine s ln = some l) (hg : l.owner = some g)
    (ho : l1Line s g ln = some o) (hopen : recallOpen s ln g = true) : Recalled s (recallLine s ln) ln g l o := by
  have hget : (mget (coreG s g).l1 ln).getD {} = o := by
    rw [l1Line] at ho
    rw [ho]; rfl
  obtain ⟨t, ht, hu, hc⟩ : ∃ t, recallLine s ln = setLine t ln (recalled l o)
      ∧ UnitStep (s.setCoreG g { coreG s g with l1 := mdel (coreG s g).l1 ln }) t
      ∧ SameCaches (s.setCoreG g { coreG s g with l1 := mdel (coreG s g).l1 ln }) t := by
    simp only [recallLine, hl, hg, hopen, Bool.not_true, Bool.false_eq_true, if_false, hget]
    split
    · exact ⟨_, rfl, .refl _, .refl _⟩
    · exact ⟨_, rfl, .clearScan .., .clearScan ..⟩
  rw [ht]
  refine ⟨((UnitStep.setCoreG s g _).trans hu).trans (.setLine ..), fun j => ?_, fun h => ?_, hc.dram⟩
  · rw [cacheLine_setLine, hc.line, cacheLine_setCoreG]
  · rw [coreG_setLine, hc.core, coreG_setCoreG]

theorem Recalled.l1Line {s u : State} {ln g : Nat} {l : CacheLine} {o : L1Line} (h : Recalled s u ln g l o) (k j : Nat) :
    l1Line u k j = if k = g ∧ j = ln then none else l1Line s k j := by
  simp only [Machine.l1Line, h.core]
  by_cases hk : k = g
  · subst hk; simp only [if_true, mget_mdel, true_and]
  · simp [hk]

theorem Recalled.cacheStep {s u : State} {ln g : Nat} {l : CacheLine} {o : L1Line} (hc : coherent s) (hl : cacheLine s ln = some l)
    (hg : l.owner = some g) (ho : Machine.l1Line s g ln = some o) (h : Recalled s u ln g l o) : CacheStep s u := by
  refine ⟨h.step, fun j => ?_⟩
  have hj := (coherent_iff s).mp hc j
  have hline := h.line j
  split at hline
  · next e =>
    subst e
    have hob := hj.l1Bytes g o ho
    have hnone : lineOwner u j = none := by rw [lineOwner, hline]; rfl
    refine ⟨?_, ?_, fun k l' h' => ?_, ?_, fun k hk => absurd (hnone.symm.trans hk) (by simp)⟩
    · rintro b rfl
      rw [memByte_of_unowned hnone]
      simp only [memByte, homeByte, hline, hl, Option.bind_some, hg, ho, mget_recalled l hob, h.dram]
      cases (if o.dirty.getLsbD (b % 128) then mget o.bytes (b % 128) else none) <;> cases mget l.bytes (b % 128) <;> rfl
    · rintro l' h'
      cases hline.symm.trans h'
      exact .recalled (hj.bytes l hl) hob
    · rw [h.l1Line] at h'
      split at h'
      · cases h'
      · exact hj.l1Bytes k l' h'
    · rintro l' i b h' hb hdirty
      cases hline.symm.trans h'
      simp only [recalled, BitVec.getLsbD_or, Bool.or_eq_false_iff] at hdirty
      rw [mget_recalled l hob, hdirty.2] at hb
      rw [h.dram]
      exact hj.clean l i b hl (by simpa using hb) hdirty.1
  · next e => exact .of_same hj hline (fun _ _ => by rw [h.dram]) fun k => .inl (by rw [h.l1Line, if_neg fun hk => e hk.2])

/-- Every L1 holds what it held, or less. -/
def L1Shrinks (s u : State) : Prop := ∀ g, ((coreG u g).l1).Sublist (coreG s g).l1

theorem L1Shrinks.of_core {s u : State} (h : ∀ g, coreG u g = coreG s g) : L1Shrinks s u := fun g => by rw [h]

theorem L1Shrinks.trans {s t u : State} (h : L1Shrinks s t) (k : L1Shrinks t u) : L1Shrinks s u := fun g => (k g).trans (h g)

theorem hasL1Way_of_shrinks {s u : State} (h : L1Shrinks s u) {g ln : Nat} (hw : hasL1Way s g ln) : hasL1Way u g ln := by
  have hsub := (h g).filter fun e => e.1 % 128 == ln % 128
  exact hw.imp (fun hlt => hsub.length_le.trans_lt hlt) fun ho e he => ho e (hsub.subset he)

/-- Whether the home of a line can have it back from its owner, if it has one. -/
def RecallFree (s : State) (ln : Nat) : Prop := ∀ g, lineOwner s ln = some g → recallOpen s ln g = true

theorem RecallFree.of_lineFree {s : State} {ln : Nat} (h : lineFree s ln) : RecallFree s ln := by
  intro g hg
  rcases h.2.2 g hg with h | h <;> simp [recallOpen, h]

/-- A recall keeps memory and leaves the line without an owner. -/
theorem recallLine_step {s : State} {ln : Nat} (hc : coherent s) (hf : RecallFree s ln) :
    CacheStep s (recallLine s ln) ∧ lineOwner (recallLine s ln) ln = none ∧ L1Shrinks s (recallLine s ln)
      ∧ ((cacheLine (recallLine s ln) ln).isSome = (cacheLine s ln).isSome) := by
  cases ho : lineOwner s ln with
  | none =>
    rw [recallLine_unowned ho]
    exact ⟨.refl hc, ho, .of_core fun _ => rfl, rfl⟩
  | some g =>
    obtain ⟨l, hl, hg⟩ := lineOwner_eq_some.mp ho
    obtain ⟨o, hl1⟩ : ∃ o, l1Line s g ln = some o := by
      have := ((coherent_iff s).mp hc ln).owned g ho
      rw [l1Owns] at this
      cases h : l1Line s g ln with
      | none => rw [h] at this; cases this
      | some o => exact ⟨o, rfl⟩
    have h := recallLine_owned hl hg hl1 (hf g ho)
    have hline := h.line ln
    rw [if_pos rfl] at hline
    refine ⟨h.cacheStep hc hl hg hl1, by rw [lineOwner, hline]; rfl, fun k => ?_, by rw [hline, hl]; rfl⟩
    rw [h.core]
    split
    · next e => subst e; exact List.filter_sublist
    · exact List.Sublist.refl _

end Sys2Proof.Machine
end

section
/-! PROOFS. Reads at the home of a line and the fills of its chassis cache (04 R100 to R102). -/

namespace Sys2Proof.Machine

open Sys2Proof.Rules

/-! ## Fills -/

/-- A line with the bytes of one sector that it lacks taken from `f`. -/
def fillBytes (f : Nat → Byte) (m : RMap 8) (wa : Nat) : RMap 8 := (List.range 32).foldl (fun m j =>
  if (mget m (wa % 128 / 32 * 32 + j)).isSome then m else mset m (wa % 128 / 32 * 32 + j) (f (wa % 128 / 32 * 32 + j))) m

theorem mget_fillBytes (f : Nat → Byte) (m : RMap 8) (wa i : Nat) :
    mget (fillBytes f m wa) i = (mget m i).orElse fun _ => if wa % 128 / 32 = i / 32 then some (f i) else none := by
  have hin : (wa % 128 / 32 * 32 ≤ i ∧ i < wa % 128 / 32 * 32 + 32) ↔ wa % 128 / 32 = i / 32 := by omega
  rw [fillBytes, mget_foldl_fill]
  simp only [hin]

theorem mget_foldl_fillBytes (f : Nat → Byte) (was : List Nat) (m : RMap 8) (i : Nat) :
    mget (was.foldl (fillBytes f) m) i = (mget m i).orElse fun _ => if ∃ wa ∈ was, wa % 128 / 32 = i / 32 then some (f i) else none := by
  induction was generalizing m with
  | nil => simp
  | cons wa was ih =>
    rw [List.foldl_cons, ih, mget_fillBytes]
    by_cases h : wa % 128 / 32 = i / 32 <;> cases mget m i <;> simp [h]

theorem LineBytes.fillBytes {m : RMap 8} (h : LineBytes m) (f : Nat → Byte) (was : List Nat) : LineBytes (was.foldl (fillBytes f) m) := by
  refine .foldl _ _ (fun wa _ m hm => .foldl _ _ (fun j hj m hm => ?_) m hm) m h
  split
  · exact hm
  · have := List.mem_range.mp hj
    exact hm.mset (by omega) _

/-- A set with a way to spare makes no room. -/
theorem makeRoom_of_hasWay {s : State} {ln : Nat} (h : hasWay s ln) : (if (cacheLine s ln).isSome then s else makeRoom s ln) = s := by
  split
  · rfl
  · next hn => exact if_pos (h.resolve_left hn)

/-- The line that a fill begins from: the home's, or a new one (04 R101). -/
def lineOrNew (s : State) (ln prio : Nat) : CacheLine := (cacheLine s ln).getD { prio := prio }

/-- A line without an owner that its home holds, or would allocate: its bytes over the cells are those of the home. -/
theorem lineOrNew_spec {s : State} {ln : Nat} (hc : LineCoherent s ln) (hs : lineOwner s ln = none) (prio : Nat) :
    LineBytes (lineOrNew s ln prio).bytes ∧ (lineOrNew s ln prio).owner = none
      ∧ (∀ i, i < 128 → homeByte s (128 * ln + i) = (mget (lineOrNew s ln prio).bytes i).getD (cget s.dram (128 * ln + i)))
      ∧ ∀ i b, mget (lineOrNew s ln prio).bytes i = some b → (lineOrNew s ln prio).dirty.getLsbD i = false →
          cget s.dram (128 * ln + i) = b := by
  unfold lineOrNew
  cases hl : cacheLine s ln with
  | none =>
    refine ⟨.nil, rfl, fun i hi => ?_, fun i b h => absurd h (by simp [mget])⟩
    exact homeByte_of_no_line (by rw [lineOf_offset hi, hl])
  | some l =>
    exact ⟨hc.bytes l hl, by simpa [lineOwner, hl] using hs, fun i hi => homeByte_of_line hl hi, fun i b => hc.clean l i b hl⟩

/-- A line with the bytes of some sectors that it lacks taken from the cells. -/
def filledLine (s : State) (ln : Nat) (was : List Nat) (l : CacheLine) : CacheLine :=
  { l with bytes := was.foldl (fillBytes fun i => cget s.dram (ln * 128 + i)) l.bytes }

theorem mget_filledLine (s : State) (ln : Nat) (was : List Nat) (l : CacheLine) (i : Nat) :
    mget (filledLine s ln was l).bytes i
      = (mget l.bytes i).orElse fun _ => if ∃ wa ∈ was, wa % 128 / 32 = i / 32 then some (cget s.dram (128 * ln + i)) else none := by
  rw [filledLine, mget_foldl_fillBytes, Nat.mul_comm ln]

theorem fillSectors_eq {s : State} {ln : Nat} (h : hasWay s ln) (was : List Nat) (prio : Nat) :
    fillSectors s ln was prio = setLine s ln (filledLine s ln was (lineOrNew s ln prio)) := by
  unfold fillSectors
  rw [makeRoom_of_hasWay h]
  rfl

/-- A fill keeps memory; the home then holds the sectors. -/
theorem fillSectors_step {s : State} {ln : Nat} (hc : coherent s) (hs : lineOwner s ln = none) (hw : hasWay s ln) (was : List Nat) (prio : Nat) :
    CacheStep s (fillSectors s ln was prio) ∧ (∀ g, coreG (fillSectors s ln was prio) g = coreG s g)
      ∧ lineOwner (fillSectors s ln was prio) ln = none
      ∧ ∃ l, cacheLine (fillSectors s ln was prio) ln = some l
        ∧ ∀ wa ∈ was, ∀ i, wa % 128 / 32 = i / 32 → (mget l.bytes i).isSome = true := by
  obtain ⟨hb, hown, hm, hcl⟩ := lineOrNew_spec ((coherent_iff s).mp hc ln) hs prio
  rw [fillSectors_eq hw]
  generalize lineOrNew s ln prio = l at hb hown hm hcl
  have hline := cacheLine_setLine s ln ln (filledLine s ln was l)
  rw [if_pos rfl] at hline
  refine ⟨.of_line hc hs (.setLine ..) (cacheLine_setLine s ln · _) (coreG_setLine s ln · _) rfl hown (hb.fillBytes _ _) ?_ ?_,
    (coreG_setLine s ln · _), by rw [lineOwner, hline]; exact hown, _, hline, ?_⟩
  · intro i hi
    rw [hm i hi, mget_filledLine]
    cases mget l.bytes i with
    | none => simp only [Option.orElse_none]; split <;> rfl
    | some b => rfl
  · intro i b hi hd
    rw [mget_filledLine] at hi
    cases hli : mget l.bytes i with
    | none =>
      simp only [hli, Option.orElse_none] at hi
      split at hi
      · exact Option.some.inj hi
      · cases hi
    | some b' =>
      simp only [hli, Option.orElse_some, Option.some.injEq] at hi
      exact hi ▸ hcl i b' hli hd
  · intro wa hwa i hi
    rw [mget_filledLine, if_pos ⟨wa, hwa, hi⟩]
    cases mget l.bytes i <;> rfl

/-! ## Reads -/

/-- A read stays in the line of its first byte. -/
theorem lineOf_add {wa n i : Nat} (hn : wa % 128 + n ≤ 128) (hi : i < n) : lineOf (wa + i) = lineOf wa := by unfold lineOf; omega

theorem lineOf_missingSectors {s : State} {wa n a : Nat} (hn : wa % 128 + n ≤ 128) (h : a ∈ missingSectors s wa n) : lineOf a = lineOf wa := by
  obtain ⟨x, hx, rfl⟩ := List.mem_map.mp h
  have hx := List.mem_of_mem_filter hx
  unfold sectorsOf at hx
  split at hx
  · cases hx
  · obtain ⟨i, hi, rfl⟩ := List.mem_map.mp hx
    have := List.mem_range.mp hi
    simp only [lineOf]
    omega

/-- A line that is not there lacks every sector. -/
theorem missingSectors_of_no_line {s : State} {wa n : Nat} (h0 : 0 < n) (hl : cacheLine s (lineOf wa) = none) : missingSectors s wa n ≠ [] := by
  have hneeds : ∀ k, 0 < k → needsCells s wa k = true := by
    intro k hk
    rw [needsCells, List.any_eq_true]
    exact ⟨0, List.mem_range.mpr hk, by rw [hl]; rfl⟩
  have hmem : (wa, min (wa + n) ((wa / 32 + 1) * 32) - wa) ∈ sectorsOf wa n := by
    rw [sectorsOf, if_neg (by omega)]
    refine List.mem_map.mpr ⟨0, List.mem_range.mpr (by omega), ?_⟩
    have : max wa (wa / 32 * 32) = wa := by omega
    simp only [Nat.add_zero, this]
  exact List.ne_nil_of_mem (List.mem_map.mpr ⟨_, List.mem_filter.mpr ⟨hmem, hneeds _ (by omega)⟩, rfl⟩)

theorem hasWay_congr {s u : State} {ln : Nat} (h : SameCaches s u) (hw : hasWay s ln) : hasWay u ln := by
  unfold hasWay at *
  rwa [h.line, h.cache]

theorem hasWay_recallLine {s : State} {ln : Nat} (hc : coherent s) (hf : RecallFree s ln) (hw : hasWay s ln) : hasWay (recallLine s ln) ln := by
  cases hl : cacheLine s ln with
  | none => rwa [recallLine_unowned (by rw [lineOwner, hl]; rfl)]
  | some l =>
    left
    rw [(recallLine_step hc hf).2.2.2, hl]
    rfl

/-- The bytes at the home of a line without an owner are those of memory. -/
theorem homeBytes_of_step {s u : State} {wa n : Nat} (h : CacheStep s u) (hu : lineOwner u (lineOf wa) = none) (hn : wa % 128 + n ≤ 128) :
    homeBytes u wa n = (List.range n).map fun i => memByte s (wa + i) := by
  refine List.map_congr_left fun i hi => ?_
  have hi := lineOf_add hn (List.mem_range.mp hi)
  rw [← memByte_of_unowned (hi ▸ hu), h.memory]

/-- What a read at the home of a line makes of the caches: memory reads as before, the line has no owner, and no L1 has more than before. -/
structure HomeRead (s u : State) (ln : Nat) : Prop extends CacheStep s u where
  owner : lineOwner u ln = none
  shrinks : L1Shrinks s u

theorem HomeRead.recallLine {s : State} {ln : Nat} (hc : coherent s) (hf : RecallFree s ln) : HomeRead s (recallLine s ln) ln :=
  let ⟨hst, ho, hsh, _⟩ := recallLine_step hc hf
  ⟨hst, ho, hsh⟩

section homeRead
variable {s t : State} {ln : Nat} (h : HomeRead s t ln)
include h

theorem HomeRead.same {u : State} (hu : UnitStep t u) (hc : SameCaches t u) : HomeRead s u ln :=
  ⟨h.trans (.of_same h.keeps_coherent hu hc), by rw [lineOwner, hc.line]; exact h.owner, h.shrinks.trans (.of_core hc.core)⟩

theorem HomeRead.touch : HomeRead s (touch t ln) ln :=
  ⟨h.trans (.touch h.keeps_coherent h.owner), lineOwner_touch.trans h.owner, h.shrinks.trans (.of_core (coreG_touch t ln))⟩

theorem HomeRead.fillSectors (hw : hasWay t ln) (was : List Nat) (prio : Nat) :
    HomeRead s (fillSectors t ln was prio) ln ∧ (cacheLine (fillSectors t ln was prio) ln).isSome = true := by
  obtain ⟨hst, hcore, ho, l, hl, -⟩ := fillSectors_step h.keeps_coherent h.owner hw was prio
  exact ⟨⟨h.trans hst, ho, h.shrinks.trans (.of_core hcore)⟩, by rw [hl]; rfl⟩

end homeRead

/-- A read within one line gives the bytes of memory. -/
theorem readHome_step {s : State} {wa n : Nat} (hc : coherent s) (hr : LineReady s (lineOf wa)) (hf : RecallFree s (lineOf wa))
    (hw : hasWay s (lineOf wa)) (hn : wa % 128 + n ≤ 128) (h0 : 0 < n) (a : Attr) (kind : Nat) :
    ∃ u, readHome s a wa n kind = (.ok ((List.range n).map fun i => memByte s (wa + i)), u) ∧ HomeRead s u (lineOf wa)
      ∧ (cacheOnAt s (lineOf wa) = true → a.allocates = true → (cacheLine u (lineOf wa)).isSome = true) := by
  have ht := HomeRead.recallLine hc hf
  have htr := hr.step ht.toUnitStep
  have hway := hasWay_recallLine hc hf hw
  have hon : cacheOnAt (recallLine s (lineOf wa)) (lineOf wa) = cacheOnAt s (lineOf wa) := ht.cacheOnAt _
  simp only [readHome, hr.enterSlice, htr.buses wa, Bool.false_eq_true, if_false]
  generalize recallLine s (lineOf wa) = t at ht htr hway hon
  split
  · next hempty =>
    refine ⟨touch t (lineOf wa), by rw [homeBytes_of_step ht.toCacheStep ht.owner hn], ht.touch, fun _ _ => ?_⟩
    rw [isSome_touch]
    cases hl : cacheLine t (lineOf wa) with
    | none => exact absurd (List.isEmpty_iff.mp hempty) (missingSectors_of_no_line h0 hl)
    | some l => rfl
  · obtain ⟨v, hv, hvu, hvc⟩ := htr.readSectorsAt
      (if ((cacheLine t (lineOf wa)).isSome || (cacheOnAt t (lineOf wa) && a.allocates)) = true then 1 else kind)
      (!((cacheLine t (lineOf wa)).isSome || (cacheOnAt t (lineOf wa) && a.allocates)) && kind == 2)
      (missingSectors t wa n) (fun _ => lineOf_missingSectors hn)
    have hvr := ht.same hvu hvc
    rw [hv]
    dsimp only
    split
    · obtain ⟨hfr, hsome⟩ := hvr.fillSectors (hasWay_congr hvc hway) (missingSectors t wa n) a.prio
      exact ⟨_, by rw [homeBytes_of_step hfr.touch.toCacheStep hfr.touch.owner hn], hfr.touch, fun _ _ => isSome_touch.trans hsome⟩
    · next hfills =>
      exact ⟨v, by rw [homeBytes_of_step hvr.toCacheStep hvr.owner hn], hvr, fun h1 h2 => by simp [hon, h1, h2] at hfills⟩

/-! ## CACHE_FILL_RETURN at the chassis cache -/

/-- An access of some coach is still to be performed in a line and allocates it (04 R101). -/
def Allocated (s : State) (ln : Nat) : Prop :=
  ∃ e ∈ s.coaches, ∃ o ∈ e.2.ops, ∃ p ∈ o.pieces, p.phase = 0 ∧ p.space = .mem ∧ lineOf p.addr = ln ∧ p.attr.allocates = true

/-- The priority that such an access gives the line. -/
def allocPrio (s : State) (ln : Nat) : Option Nat :=
  s.coaches.findSome? fun e => e.2.ops.findSome? fun o => (o.pieces.find? fun p =>
    p.waits && p.space == .mem && lineOf p.addr == ln && p.attr.allocates).map fun p => p.attr.prio

theorem allocPrio_ne_none {s : State} {ln : Nat} (h : Allocated s ln) : allocPrio s ln ≠ none := by
  obtain ⟨e, he, o, ho, p, hp, h0, hm, hl, ha⟩ := h
  intro hn
  have := List.findSome?_eq_none_iff.mp (List.findSome?_eq_none_iff.mp hn e he) o ho
  have := List.find?_eq_none.mp (Option.map_eq_none_iff.mp this) p hp
  simp [Piece.waits, h0, hm, hl, ha] at this

/-- CACHE_FILL_RETURN at the chassis cache (04 R100, R101): the home then holds the sector. -/
theorem fillHome_step {s : State} {wa : Nat} (hc : coherent s) (hr : LineReady s (lineOf wa)) (hf : RecallFree s (lineOf wa))
    (hw : hasWay s (lineOf wa)) (hon : cacheOnAt s (lineOf wa) = true) (hneeds : needsCells s (wa / 32 * 32) 32 = true)
    (hwant : (cacheLine s (lineOf wa)).isSome = true ∨ Allocated s (lineOf wa)) :
    CacheStep s (fillHome s (lineDie (lineOf wa)) wa)
      ∧ ∃ l, cacheLine (fillHome s (lineDie (lineOf wa)) wa) (lineOf wa) = some l
        ∧ ∀ i, i < 32 → (mget l.bytes (wa / 32 * 32 % 128 + i)).isSome = true := by
  have ht := HomeRead.recallLine hc hf
  have ha : lineOf (wa / 32 * 32) = lineOf wa := by unfold lineOf; omega
  obtain ⟨v, hv, hvu, hvc⟩ := (hr.step ht.toUnitStep).readSector ha 1 false
  have hsv := ht.same hvu hvc
  obtain ⟨p, hp⟩ : ∃ p, fillHome s (lineDie (lineOf wa)) wa = touch (fillSectors v (lineOf wa) [wa / 32 * 32] p) (lineOf wa) := by
    have hsome : ¬((cacheLine s (lineOf wa)).map CacheLine.prio = none ∧ allocPrio s (lineOf wa) = none) := by
      rintro ⟨h1, h2⟩
      rcases hwant with h | h
      · rw [Option.map_eq_none_iff.mp h1] at h; cases h
      · exact allocPrio_ne_none h h2
    simp only [fillHome, hon, hneeds, hr.buses wa, hr.enterSlice, hv, ne_eq, not_true_eq_false, decide_false, Bool.not_true, Bool.or_self,
      Bool.false_eq_true, if_false]
    split
    · next h1 h2 => exact absurd ⟨h1, h2⟩ hsome
    · exact ⟨_, rfl⟩
  obtain ⟨hfs, -, hfo, l, hl, hfill⟩ := fillSectors_step hsv.keeps_coherent hsv.owner (hasWay_congr hvc (hasWay_recallLine hc hf hw))
    [wa / 32 * 32] p
  obtain ⟨k, hk⟩ := cacheLine_touch hl
  rw [hp]
  exact ⟨(hsv.trans hfs).trans (.touch hfs.keeps_coherent hfo), _, hk, fun i hi => hfill _ (List.mem_singleton_self _) _ (by omega)⟩

end Sys2Proof.Machine
end

section
/-! PROOFS. The L1 of a core: its room, its fills, the lines that it drops, and the lines that it comes to own (04 R95, R107). -/

namespace Sys2Proof.Machine

open Sys2Proof.Rules

/-! ## Lines that an L1 drops -/

/-- The L1s hold what they held, but for lines that they do not own and have dropped; memory's homes and cells are as before. -/
structure L1Drops (s u : State) : Prop where
  step : UnitStep s u
  line : ∀ ln, cacheLine u ln = cacheLine s ln
  dram : u.dram = s.dram
  l1 : ∀ g ln, l1Line u g ln = l1Line s g ln ∨ (l1Line u g ln = none ∧ l1Owns s g ln = false)

theorem L1Drops.refl (s : State) : L1Drops s s := ⟨.refl s, fun _ => rfl, rfl, fun _ _ => .inl rfl⟩

/-- A line that an L1 does not own leaves it. -/
theorem L1Drops.del {s : State} {g ln : Nat} (h : l1Owns s g ln = false) :
    L1Drops s (s.setCoreG g { coreG s g with l1 := mdel (coreG s g).l1 ln }) := by
  refine ⟨.setCoreG .., fun j => cacheLine_setCoreG .., rfl, fun k j => ?_⟩
  simp only [l1Line, coreG_setCoreG]
  split
  · next e =>
    subst e
    simp only [mget_mdel]
    split
    · next e => subst e; exact .inr ⟨rfl, h⟩
    · exact .inl rfl
  · exact .inl rfl

theorem CacheStep.of_drops {s u : State} (hc : coherent s) (h : L1Drops s u) : CacheStep s u := by
  refine ⟨h.step, fun ln => .of_same ((coherent_iff s).mp hc ln) (h.line ln) (fun _ _ => by rw [h.dram]) fun g => ?_⟩
  refine (h.l1 g ln).imp_right fun hd => ⟨fun ho => ?_, fun l hl => ?_⟩
  · have := ((coherent_iff s).mp hc ln).owned g ho
    rw [hd.2] at this; cases this
  · rw [hd.1] at hl; cases hl

/-- An L1 with a way for a line makes room by dropping a line that it does not own, if at all. -/
theorem l1Room_drops {s : State} {g ln : Nat} (h : hasL1Way s g ln) : L1Drops s (l1Room s g ln) := by
  unfold l1Room
  dsimp only
  split
  · exact .refl s
  · next hfull =>
    have hun := h.resolve_left hfull
    split
    · next v l rest hsame =>
      have hv := hun (v, l) (by rw [hsame]; exact List.mem_cons_self ..)
      rw [if_neg (by simpa using hv)]
      refine .del ?_
      rw [l1Owns]
      cases hl : l1Line s g v with
      | none => rfl
      | some l' =>
        have hset : v % 128 = ln % 128 := by
          have : (v, l) ∈ (coreG s g).l1.filter fun e => e.1 % 128 == ln % 128 := by rw [hsame]; exact List.mem_cons_self ..
          simpa using (List.mem_filter.mp this).2
        exact hun (v, l') (List.mem_filter.mpr ⟨mem_of_mget hl, by simpa using hset⟩)
    · exact .refl s

/-- The L1 of a core drops a whole line that it does not own. -/
theorem l1Drop_line {s : State} {g ln : Nat} (hb : ∀ l, l1Line s g ln = some l → LineBytes l.bytes) (h : l1Owns s g ln = false) :
    L1Drops s (l1Drop s g (ln * 128) 128) ∧ l1Line (l1Drop s g (ln * 128) 128) g ln = none := by
  have hln : lineOf (ln * 128) = ln := by unfold lineOf; omega
  cases hl : l1Line s g ln with
  | none =>
    have : l1Drop s g (ln * 128) 128 = s := by simp only [l1Drop, hln, hl]
    rw [this]
    exact ⟨.refl s, hl⟩
  | some l =>
    have hown : l.owned = false := by simpa [l1Owns, hl] using h
    have hempty : (l.bytes.filter fun e =>
        decide (e.1 < ln * 128 % 128 / 32 * 32) || decide ((ln * 128 % 128 + 128 + 31) / 32 * 32 ≤ e.1)) = [] := by
      refine List.filter_eq_nil_iff.mpr fun e he => ?_
      have := (hb l hl).2 e he
      simp only [Bool.or_eq_true, decide_eq_true_eq]
      omega
    have : l1Drop s g (ln * 128) 128 = s.setCoreG g { coreG s g with l1 := mdel (coreG s g).l1 ln } := by
      simp only [l1Drop, hln, hl, hown, hempty, Bool.false_eq_true, if_false, List.isEmpty_nil, if_true]
    rw [this]
    refine ⟨.del h, ?_⟩
    simp only [l1Line, coreG_setCoreG, if_true, mget_mdel]

/-! ## Lines that an L1 takes -/

/-- An L1 that lists some bytes of a line holds them. -/
theorem l1_holds_of_bytes {s : State} {g a n : Nat} {l : L1Line} {f : Nat → Byte} (hl : l1Line s g (lineOf a) = some l)
    (h : ∀ i, i < n → mget l.bytes (a % 128 + i) = some (f i)) : l1Holds s g a n = true ∧ l1Bytes s g a n = (List.range n).map f := by
  constructor
  · simp only [l1Holds, hl, List.all_eq_true, List.mem_range]
    exact fun i hi => by rw [h i hi]; rfl
  · simp only [l1Bytes, hl]
    exact List.map_congr_left fun i hi => by rw [rget, h i (List.mem_range.mp hi)]; rfl

/-- The L1 of a core takes a line. -/
def takeLine (s : State) (g ln : Nat) (o : L1Line) : State := s.setCoreG g { coreG s g with l1 := mset (coreG s g).l1 ln o }

theorem l1Line_takeLine (s : State) (g ln h k : Nat) (o : L1Line) :
    l1Line (takeLine s g ln o) h k = if h = g ∧ k = ln then some o else l1Line s h k := by
  simp only [l1Line, takeLine, coreG_setCoreG]
  by_cases e : h = g
  · subst e; simp only [if_true, mget_mset, true_and]
  · simp [e]

@[simp] theorem cacheLine_takeLine (s : State) (g ln j : Nat) (o : L1Line) : cacheLine (takeLine s g ln o) j = cacheLine s j :=
  cacheLine_setCoreG ..

/-- The L1 of a core with a way for a line: as it is where it has the line, else with room made. -/
def withRoom (s : State) (g ln : Nat) : State := if (l1Line s g ln).isSome then s else l1Room s g ln

theorem withRoom_drops {s : State} {g ln : Nat} (h : hasL1Way s g ln) : L1Drops s (withRoom s g ln) := by
  unfold withRoom
  split
  · exact .refl s
  · exact l1Room_drops h

/-- A line of an L1 with the bytes of a sector put in (04 R95). -/
def L1Line.filled (l : L1Line) (a : Nat) (bs : List Byte) : L1Line :=
  { l with bytes := (List.range 32).foldl (fun m i => mset m (a % 128 + i) (bs.getD i 0)) l.bytes }

theorem LineBytes.filled {l : L1Line} (h : LineBytes l.bytes) {a : Nat} (ha : a % 32 = 0) (bs : List Byte) : LineBytes (l.filled a bs).bytes := by
  simp only [L1Line.filled]
  exact LineBytes.foldl _ _ (fun j hj _ hm => LineBytes.mset hm (by have := List.mem_range.mp hj; omega) _) _ h

theorem mget_filled (l : L1Line) (a : Nat) (f : Nat → Byte) {i : Nat} (hi : i < 32) :
    mget (l.filled a ((List.range 32).map f)).bytes (a % 128 + i) = some (f i) := by
  rw [L1Line.filled, mget_foldl_put (fun j => ((List.range 32).map f).getD j 0), if_pos (by omega)]
  simp [List.getD, hi]

theorem foldl_eq_self {α β : Type} {f : β → α → β} {b : β} (as : List α) (h : ∀ a ∈ as, f b a = b) : as.foldl f b = b := by
  induction as with
  | nil => rfl
  | cons a as ih => rw [List.foldl_cons, h a (.head _)]; exact ih fun c hc => h c (.tail _ hc)

/-- Where no store of the core to the sector is on its way, a fill takes the bytes of the home as they are. -/
theorem l1Fill_eq {s : State} {g a : Nat} (hw : hasL1Way s g (lineOf a)) (hst : ∀ q ∈ openStores s g, q.2.addr / 32 ≠ a / 32) (bs : List Byte) :
    l1Fill s g a bs = takeLine (withRoom s g (lineOf a)) g (lineOf a)
      (((l1Line (withRoom s g (lineOf a)) g (lineOf a)).getD {}).filled a bs) := by
  have hst' : ∀ L, openStores (takeLine (withRoom s g (lineOf a)) g (lineOf a) L) g = openStores s g := fun _ =>
    ((withRoom_drops hw).step.trans (.setCoreG ..)).openStores g
  change List.foldl _ (takeLine (withRoom s g (lineOf a)) g (lineOf a) (((l1Line (withRoom s g (lineOf a)) g (lineOf a)).getD {}).filled a bs))
    (openStores (takeLine (withRoom s g (lineOf a)) g (lineOf a) _) g) = _
  rw [hst']
  exact foldl_eq_self _ fun q hq => if_neg (by simp [hst q hq])

/-- A sector of memory fills the L1 of a core, where no store of the core to the sector is on its way. -/
theorem l1Fill_step {s : State} {g a : Nat} (f : Nat → Byte) (hc : coherent s) (ho : lineOwner s (lineOf a) = none)
    (hw : hasL1Way s g (lineOf a)) (ha : a % 32 = 0) (hst : ∀ q ∈ openStores s g, q.2.addr / 32 ≠ a / 32) :
    CacheStep s (l1Fill s g a ((List.range 32).map f)) ∧ l1Holds (l1Fill s g a ((List.range 32).map f)) g a 32 = true
      ∧ l1Bytes (l1Fill s g a ((List.range 32).map f)) g a 32 = (List.range 32).map f := by
  have hroom := withRoom_drops hw
  rw [l1Fill_eq hw hst]
  generalize withRoom s g (lineOf a) = t at hroom
  have hts := CacheStep.of_drops hc hroom
  have hlb : LineBytes ((l1Line t g (lineOf a)).getD {}).bytes := by
    cases hl : l1Line t g (lineOf a) with
    | none => exact .nil
    | some l => exact ((coherent_iff t).mp hts.keeps_coherent _).l1Bytes g l hl
  refine ⟨hts.trans (.setL1 hts.keeps_coherent g _ fun ln => ?_), l1_holds_of_bytes (by rw [l1Line_takeLine, if_pos ⟨rfl, rfl⟩])
    fun i hi => mget_filled _ a f hi⟩
  rw [mget_mset]
  split
  · next h =>
    subst h
    exact .inr ⟨by rw [lineOwner, hroom.line, ← lineOwner, ho]; simp, fun l hl => Option.some.inj hl ▸ hlb.filled ha _⟩
  · exact .inl rfl

/-- CACHE_FILL_RETURN at an L1 (04 R95). -/
theorem fillL1_step {s : State} {g wa : Nat} (hc : coherent s) (hr : LineReady s (lineOf wa)) (hf : RecallFree s (lineOf wa))
    (hw : hasWay s (lineOf wa)) (hw1 : hasL1Way s g (lineOf wa)) (hwant : wanted s (fillsL1 g (wa / 32 * 32)) = true)
    (hholds : l1Holds s g (wa / 32 * 32) 32 = false) (hst : ∀ q ∈ openStores s g, q.2.addr / 32 ≠ wa / 32 * 32 / 32)
    (hopen : coreStoresOpen s g s.nextId { lane := 0, addr := wa / 32 * 32, va := 0, size := 32 } = false)
    (hpath : pathOpen s (g / 16) (homeAt wa).d = true) (hreach : reachable s (g / 16) (homeAt wa).d = true) :
    CacheStep s (fillL1 s g wa) ∧ l1Holds (fillL1 s g wa) g (wa / 32 * 32) 32 = true
      ∧ l1Bytes (fillL1 s g wa) g (wa / 32 * 32) 32 = (List.range 32).map fun i => memByte s (wa / 32 * 32 + i) := by
  have ha : lineOf (wa / 32 * 32) = lineOf wa := by unfold lineOf; omega
  have hd : (homeAt (wa / 32 * 32)).d = (homeAt wa).d := (home_of_sector (by omega)).1
  rw [← ha] at hr hf hw hw1
  obtain ⟨u, hu, hur, -⟩ := readHome_step hc hr hf hw (by omega : wa / 32 * 32 % 128 + 32 ≤ 128) (by decide) plainAttr 1
  have e : fillL1 s g wa = l1Fill u g (wa / 32 * 32) ((List.range 32).map fun i => memByte s (wa / 32 * 32 + i)) := by
    simp only [fillL1, hd, hwant, hholds, hopen, hpath, hreach, Bool.not_true, Bool.or_self, Bool.false_eq_true, if_false, tryRead, hu]
  obtain ⟨hfill, hres⟩ := l1Fill_step (fun i => memByte s (wa / 32 * 32 + i)) hur.keeps_coherent hur.owner (hasL1Way_of_shrinks hur.shrinks hw1)
    (by omega) (by rwa [hur.openStores])
  rw [e]
  exact ⟨hur.trans hfill, hres⟩

/-! ## Lines that an L1 comes to own (04 R107) -/

/-- A line without an owner goes to the L1 of a core as it stands at its home. -/
theorem LineKept.granted {s u : State} {ln g : Nat} {l : CacheLine} {o : L1Line} (hc : LineCoherent s ln) (hs : lineOwner s ln = none)
    (hl : cacheLine s ln = some l) (hu : cacheLine u ln = some { l with owner := some g }) (ho : l1Line u g ln = some o)
    (hob : LineBytes o.bytes) (hown : o.owned = true) (hclean : o.dirty = 0) (hd : u.dram = s.dram)
    (h1 : ∀ h, h ≠ g → ∀ k, l1Line u h ln = some k → LineBytes k.bytes) : LineKept s u ln := by
  refine ⟨?_, ?_, fun h k hk => ?_, ?_, fun h hh => ?_⟩
  · rintro b rfl
    rw [memByte_of_unowned hs]
    simp only [memByte, homeByte, hu, hl, Option.bind_some, ho, hclean, hd]
    rw [if_neg (by simp)]
    cases mget l.bytes (b % 128) <;> rfl
  · rintro l' h'
    cases hu.symm.trans h'
    exact hc.bytes l hl
  · by_cases e : h = g
    · subst e
      cases ho.symm.trans hk
      exact hob
    · exact h1 h e k hk
  · rintro l' i b h' hb hdirty
    cases hu.symm.trans h'
    rw [hd]
    exact hc.clean l i b hl hb hdirty
  · obtain ⟨l', h', hg⟩ := lineOwner_eq_some.mp hh
    cases hu.symm.trans h'
    cases hg
    rw [l1Owns, ho]
    exact hown

/-- The last part of a grant: the home records the owner, and the L1 takes the line. -/
theorem grant_step {s t : State} {ln g : Nat} {l : CacheLine} {o : L1Line} (hc : coherent s) (hs : lineOwner s ln = none)
    (hl : cacheLine s ln = some l) (ht : L1Drops (setLine s ln { l with owner := some g }) t)
    (hob : LineBytes o.bytes) (hown : o.owned = true) (hclean : o.dirty = 0) :
    CacheStep s (takeLine t g ln o) := by
  refine ⟨((UnitStep.setLine ..).trans ht.step).trans (.setCoreG ..), fun j => ?_⟩
  have hj := (coherent_iff s).mp hc j
  have hline := ht.line j
  rw [cacheLine_setLine, ← cacheLine_takeLine t g ln j o] at hline
  have hdrop : ∀ h k, l1Line t h k = l1Line s h k ∨ (l1Line t h k = none ∧ l1Owns s h k = false) := by
    intro h k
    have := ht.l1 h k
    simp only [l1Owns, l1Line, coreG_setLine] at this ⊢
    exact this
  split at hline
  · next e =>
    subst e
    refine .granted hj hs hl hline (by rw [l1Line_takeLine, if_pos ⟨rfl, rfl⟩]) hob hown hclean ht.dram fun h hh k hk => ?_
    rw [l1Line_takeLine, if_neg fun hx => hh hx.1] at hk
    rcases hdrop h j with e | ⟨e, -⟩
    · exact hj.l1Bytes h k (e ▸ hk)
    · rw [e] at hk; cases hk
  · next e =>
    refine .of_same hj hline (fun _ _ => congrArg (cget · _) ht.dram) fun h => ?_
    rw [l1Line_takeLine, if_neg fun hx => e hx.2]
    refine (hdrop h j).imp_right fun hd => ⟨fun ho => ?_, fun k hk => ?_⟩
    · have := hj.owned h ho
      rw [hd.2] at this; cases this
    · rw [hd.1] at hk; cases hk

/-- A line as it comes to be an L1's own (04 R107). -/
def grantedLine (bs : List Byte) : L1Line := { bytes := (List.range 128).foldl (fun m i => mset m i (bs.getD i 0)) [], owned := true }

theorem LineBytes.granted (bs : List Byte) : LineBytes (grantedLine bs).bytes := by
  simp only [grantedLine]
  exact LineBytes.foldl _ _ (fun _ hj _ hm => LineBytes.mset hm (List.mem_range.mp hj) _) _ .nil

theorem mget_grantedLine (f : Nat → Byte) {i : Nat} (hi : i < 128) : mget (grantedLine ((List.range 128).map f)).bytes i = some (f i) := by
  have h := mget_foldl_put (fun j => ((List.range 128).map f).getD j 0) 0 ([] : RMap 8) i 128
  simp only [Nat.zero_add] at h
  rw [grantedLine, h, if_pos ⟨Nat.zero_le _, hi⟩]
  simp [List.getD, hi]

/-- L1_OWNERSHIP_GRANT (04 R107): the L1 of the core then owns the line and holds the whole of it. -/
theorem grantLine_step {s : State} {g wa : Nat} (hc : coherent s) (hr : LineReady s (lineOf wa)) (hf : RecallFree s (lineOf wa))
    (hw : hasWay s (lineOf wa)) (hw1 : hasL1Way s g (lineOf wa)) (hwant : wanted s (wantsLine g (lineOf wa)) = true)
    (hon : cacheOnAt s (lineOf wa) = true) (hpark : (chassisOf s (homeAt wa).d).parkState ≠ 1) (hown : l1Owns s g (lineOf wa) = false)
    (hopen : ∀ i, i < 4 → coreStoresOpen s g s.nextId { lane := 0, addr := lineOf wa * 128 + 32 * i, va := 0, size := 32 } = false)
    (hpath : pathOpen s (g / 16) (homeAt wa).d = true) (hreach : reachable s (g / 16) (homeAt wa).d = true) :
    CacheStep s (grantLine s g wa) ∧ l1Owns (grantLine s g wa) g (lineOf wa) = true ∧ lineOwner (grantLine s g wa) (lineOf wa) = some g
      ∧ l1Bytes (grantLine s g wa) g (lineOf wa * 128) 128 = (List.range 128).map fun i => memByte s (lineOf wa * 128 + i) := by
  generalize hlw : lineOf wa = ln at *
  have ha : lineOf (ln * 128) = ln := by unfold lineOf; omega
  have hno : ((List.range 4).any fun i =>
      coreStoresOpen s g s.nextId { lane := 0, addr := ln * 128 + 32 * i, va := 0, size := 32 }) = false := by
    rw [List.any_eq_false]
    exact fun i hi => by rw [hopen i (List.mem_range.mp hi)]; exact Bool.false_ne_true
  obtain ⟨u, hu, hur, hsome⟩ := readHome_step hc (by rwa [ha]) (by rwa [ha]) (by rwa [ha]) (by omega : ln * 128 % 128 + 128 ≤ 128) (by decide)
    plainAttr 1
  rw [ha] at hur hsome
  obtain ⟨l, hl⟩ := Option.isSome_iff_exists.mp (hsome hon rfl)
  have hroom := withRoom_drops (s := setLine u ln { l with owner := some g }) (ln := ln)
    (hasL1Way_of_shrinks (hur.shrinks.trans (.of_core fun _ => coreG_setLine ..)) hw1)
  have e : grantLine s g wa = takeLine (withRoom (setLine u ln { l with owner := some g }) g ln) g ln
      (grantedLine ((List.range 128).map fun i => memByte s (ln * 128 + i))) := by
    simp only [grantLine, hlw, hwant, hon, beq_eq_false_iff_ne.mpr hpark, hown, hno, hpath, hreach, Bool.not_true, Bool.or_self,
      Bool.false_eq_true, if_false, tryRead, hu, hl]
    rfl
  have hl1 : ∀ t o, l1Line (takeLine t g ln o) g ln = some o := fun t o => by rw [l1Line_takeLine, if_pos ⟨rfl, rfl⟩]
  rw [e]
  refine ⟨hur.trans (grant_step hur.keeps_coherent hur.owner hl hroom (.granted _) rfl rfl), by rw [l1Owns, hl1]; rfl, ?_, ?_⟩
  · rw [lineOwner, cacheLine_takeLine, hroom.line, cacheLine_setLine, if_pos rfl]; rfl
  · refine (l1_holds_of_bytes (by rw [ha]; exact hl1 ..) fun i hi => ?_).2
    have : ln * 128 % 128 + i = i := by omega
    rw [this, mget_grantedLine _ hi]

/-! ## A line of a CINV (14 R335) -/

/-- The issuing core's L1 drops the line, an owned one after its dirty bytes have gone home. -/
theorem dropLine_step {s : State} {g wa : Nat} (hc : coherent s) (hr : LineReady s (lineOf wa)) (hf : RecallFree s (lineOf wa))
    (hown : l1Owns s g (lineOf wa) = true → lineOwner s (lineOf wa) = some g) :
    CacheStep s (dropLine s g wa) ∧ l1Line (dropLine s g wa) g (lineOf wa) = none := by
  have hdrop : ∀ {t : State}, CacheStep s t → l1Owns t g (lineOf wa) = false →
      CacheStep s (l1Drop t g (lineOf wa * 128) 128) ∧ l1Line (l1Drop t g (lineOf wa * 128) 128) g (lineOf wa) = none := by
    intro t ht ho
    obtain ⟨hd, hn⟩ := l1Drop_line (((coherent_iff t).mp ht.keeps_coherent _).l1Bytes g) ho
    exact ⟨ht.trans (.of_drops ht.keeps_coherent hd), hn⟩
  simp only [dropLine, hr.enterSlice]
  cases ho : l1Owns s g (lineOf wa) with
  | false => exact hdrop (.refl hc) ho
  | true =>
    rw [if_pos rfl]
    refine hdrop (recallLine_step hc hf).1 ?_
    obtain ⟨l, hl, hg⟩ := lineOwner_eq_some.mp (hown ho)
    cases h1 : l1Line s g (lineOf wa) with
    | none => rw [l1Owns, h1] at ho; cases ho
    | some o =>
      rw [l1Owns, (recallLine_owned hl hg h1 (hf g (hown ho))).l1Line, if_pos ⟨rfl, rfl⟩]

end Sys2Proof.Machine
end

section
/-! PROOFS. The write-back of a line (04 R100): its dirty bytes go to the cells, and memory reads as before. -/

namespace Sys2Proof.Machine

open Sys2Proof.Rules

/-- What a cell holds after the write-back of a line: the line's byte where that is dirty. -/
def CacheLine.flushed (l : CacheLine) (old : Byte) (i : Nat) : Byte := if l.dirty.getLsbD i then (mget l.bytes i).getD old else old

/-- The dirty bytes of one sector of a line. -/
def CacheLine.dirtyIn (l : CacheLine) (i : Nat) : RMap 8 := (dirtyBytes l.bytes l.dirty).filter fun e => e.1 / 32 == i

theorem mget_dirtyIn (l : CacheLine) (i j : Nat) :
    mget (l.dirtyIn i) j = if j / 32 = i then (if l.dirty.getLsbD j then mget l.bytes j else none) else none := by
  rw [CacheLine.dirtyIn, mget_filter (fun j => j / 32 == i), mget_dirtyBytes]
  simp only [beq_iff_eq]

theorem flushed_eq_dirtyIn (l : CacheLine) {i j : Nat} (h : j / 32 = i) (old : Byte) : l.flushed old j = (mget (l.dirtyIn i) j).getD old := by
  rw [mget_dirtyIn, if_pos h, CacheLine.flushed]
  split <;> rfl

/-- Bytes in rising order that are written into the cells of a line. -/
theorem cget_foldl_cset (o : Nat) (ds : RMap 8) (hd : (ds.map Prod.fst).Pairwise (· < ·)) : ∀ (m : List Host.Cell) (j : Nat),
    cget (ds.foldl (fun m e => cset m (o + e.1) e.2) m) (o + j) = (mget ds j).getD (cget m (o + j)) := by
  induction ds with
  | nil => exact fun _ _ => rfl
  | cons e ds ih =>
    obtain ⟨k, v⟩ := e
    obtain ⟨hk, hd⟩ := List.pairwise_cons.mp hd
    intro m j
    rw [List.foldl_cons, ih hd, cget_cset]
    by_cases hj : j = k
    · subst hj
      have : mget ds j = none := mget_eq_none fun e he => (hk e.1 (List.mem_map_of_mem he)).ne'
      simp [this, mget]
    · simp [hj, mget, Ne.symm hj]

theorem cget_foldl_cset_below (o : Nat) (ds : RMap 8) : ∀ (m : List Host.Cell) {b : Nat}, b < o →
    cget (ds.foldl (fun m e => cset m (o + e.1) e.2) m) b = cget m b := by
  induction ds with
  | nil => exact fun _ _ _ => rfl
  | cons e ds ih => exact fun m b hb => by rw [List.foldl_cons, ih _ hb, cget_cset, if_neg (by omega)]

/-- The clean bytes of a line are those of the cells. -/
def CleanIn (m : List Host.Cell) (ln : Nat) (l : CacheLine) : Prop :=
  ∀ i b, mget l.bytes i = some b → l.dirty.getLsbD i = false → cget m (128 * ln + i) = b

theorem cell_of_sector {ln i b : Nat} (hi : i < 4) (h : b / 32 = 4 * ln + i) : 128 * ln + b % 128 = b ∧ b % 128 / 32 = i := by omega

/-- A sector of a line that is written whole. -/
theorem cget_cwrite_sector {m : List Host.Cell} {ln i : Nat} {l : CacheLine} (hi : i < 4) (hc : CleanIn m ln l)
    (hw : ∀ j, j < 32 → (mget l.bytes (32 * i + j)).isSome = true) (b : Nat) :
    cget (cwrite m (ln * 128 + 32 * i) (sectorBytes l i)) b
      = if b / 32 = 4 * ln + i then l.flushed (cget m b) (b % 128) else cget m b := by
  have hin : (ln * 128 + 32 * i ≤ b ∧ b < ln * 128 + 32 * i + (sectorBytes l i).length) ↔ b / 32 = 4 * ln + i := by
    simp only [sectorBytes, List.length_map, List.length_range]; omega
  rw [cget_cwrite]
  simp only [hin]
  split
  · next h =>
    obtain ⟨hb, hb'⟩ := cell_of_sector hi h
    have hj : b - (ln * 128 + 32 * i) < 32 := by omega
    have hoff : 32 * i + (b - (ln * 128 + 32 * i)) = b % 128 := by omega
    obtain ⟨v, hv⟩ := Option.isSome_iff_exists.mp (hw _ hj)
    rw [hoff] at hv
    have hget : (sectorBytes l i).getD (b - (ln * 128 + 32 * i)) 0 = v := by
      simp [sectorBytes, List.getD, hj, hoff, rget, hv]
    rw [hget, CacheLine.flushed, hv]
    split
    · rfl
    · next hd =>
      have := hc _ v hv (by simpa using hd)
      rw [hb] at this
      exact this.symm
  · rfl

/-- A sector of a line whose dirty bytes are written alone. -/
theorem cget_cset_dirty {m : List Host.Cell} {ln i : Nat} {l : CacheLine} (hi : i < 4) (hl : LineBytes l.bytes) (b : Nat) :
    cget ((l.dirtyIn i).foldl (fun m e => cset m (ln * 128 + e.1) e.2) m) b
      = if b / 32 = 4 * ln + i then l.flushed (cget m b) (b % 128) else cget m b := by
  by_cases hb : ln * 128 ≤ b
  · obtain ⟨j, rfl⟩ : ∃ j, b = ln * 128 + j := ⟨b - ln * 128, by omega⟩
    have hsorted : ((l.dirtyIn i).map Prod.fst).Pairwise (· < ·) := (hl.dirtyBytes l.dirty).1.sublist (List.filter_sublist.map _)
    have hs : (ln * 128 + j) / 32 = 4 * ln + i ↔ j / 32 = i := by omega
    rw [cget_foldl_cset _ _ hsorted]
    simp only [hs]
    split
    · next h =>
      have : (ln * 128 + j) % 128 = j := by omega
      rw [this, flushed_eq_dirtyIn l h]
    · next h => rw [mget_dirtyIn, if_neg h]; rfl
  · rw [cget_foldl_cset_below _ _ _ (by omega), if_neg (by omega)]

/-- A step that changes the cells alone. -/
structure CellStep (s u : State) : Prop extends UnitStep s u where
  cache : ∀ d, (chassisOf u d).cache = (chassisOf s d).cache
  core : ∀ g, coreG u g = coreG s g

theorem CellStep.refl (s : State) : CellStep s s := ⟨.refl s, fun _ => rfl, fun _ => rfl⟩

theorem CellStep.trans {s t u : State} (h : CellStep s t) (g : CellStep t u) : CellStep s u :=
  ⟨h.toUnitStep.trans g.toUnitStep, fun d => (g.cache d).trans (h.cache d), fun k => (g.core k).trans (h.core k)⟩

/-- The sector is open for the write-back, and its flaw is mended; the cells take what stands in `m`. -/
theorem CellStep.write {s u : State} (hu : UnitStep s u) (h : SameCaches s u) (a : Nat) (m : List Host.Cell) :
    CellStep s { mend u a with dram := m } :=
  ⟨(hu.trans (.mend u a)).trans (.dram _ m), h.cache, h.core⟩

/-- The dirty bytes of one sector go to the cells. -/
theorem writeBackSector_step {s : State} {ln i : Nat} {l : CacheLine} (hr : LineReady s ln) (hi : i < 4) (hl : LineBytes l.bytes)
    (hc : CleanIn s.dram ln l) : CellStep s (writeBackSector s ln l i)
      ∧ ∀ b, cget (writeBackSector s ln l i).dram b = if b / 32 = 4 * ln + i then l.flushed (cget s.dram b) (b % 128) else cget s.dram b := by
  have ha : lineOf (ln * 128 + 32 * i) = ln := by unfold lineOf; omega
  obtain ⟨u, hu, huu, hus⟩ := hr.openSector ha 3 ((List.range 32).all fun j => (mget l.bytes (32 * i + j)).isSome)
  have hdirty : ((dirtyBytes l.bytes l.dirty).filter fun e => e.1 / 32 == i) = l.dirtyIn i := rfl
  simp only [writeBackSector, hdirty, hr.buses _, hu, Bool.false_eq_true, if_false]
  split
  · next hempty =>
    refine ⟨.refl s, fun b => ?_⟩
    split
    · next h => rw [flushed_eq_dirtyIn l (cell_of_sector hi h).2, List.isEmpty_iff.mp hempty]; rfl
    · rfl
  · split
    · next hwhole =>
      simp only [List.all_eq_true, List.mem_range] at hwhole
      exact ⟨.write huu hus _ _, fun b => by rw [← hus.dram]; exact cget_cwrite_sector hi (hus.dram ▸ hc) hwhole b⟩
    · exact ⟨.write huu hus _ _, fun b => by rw [← hus.dram]; exact cget_cset_dirty hi hl b⟩

/-- The first sectors of a line have gone to the cells. -/
theorem writeBackSectors_step {s : State} {ln : Nat} {l : CacheLine} (hr : LineReady s ln) (hl : LineBytes l.bytes) (hc : CleanIn s.dram ln l)
    {n : Nat} (hn : n ≤ 4) : CellStep s ((List.range n).foldl (fun s i => writeBackSector s ln l i) s)
      ∧ ∀ b, cget ((List.range n).foldl (fun s i => writeBackSector s ln l i) s).dram b
        = if lineOf b = ln ∧ b % 128 / 32 < n then l.flushed (cget s.dram b) (b % 128) else cget s.dram b := by
  induction n with
  | zero => exact ⟨.refl s, fun b => by simp⟩
  | succ n ih =>
    obtain ⟨ht, htd⟩ := ih (by omega)
    rw [List.range_succ, List.foldl_append, List.foldl_cons, List.foldl_nil]
    generalize (List.range n).foldl (fun s i => writeBackSector s ln l i) s = t at ht htd
    have htc : CleanIn t.dram ln l := by
      intro i b hb hd
      rw [htd]
      split
      · have hi := hl.lt hb
        have : (128 * ln + i) % 128 = i := by omega
        rw [this, CacheLine.flushed, hd]
        exact hc i b hb hd
      · exact hc i b hb hd
    obtain ⟨hu, hud⟩ := writeBackSector_step (hr.step ht.toUnitStep) (by omega : n < 4) hl htc
    refine ⟨ht.trans hu, fun b => ?_⟩
    rw [hud, htd]
    by_cases h : b / 32 = 4 * ln + n
    · have h1 : ¬(lineOf b = ln ∧ b % 128 / 32 < n) := by unfold lineOf; omega
      have h2 : lineOf b = ln ∧ b % 128 / 32 < n + 1 := by unfold lineOf; omega
      rw [if_pos h, if_neg h1, if_pos h2]
    · have h1 : (lineOf b = ln ∧ b % 128 / 32 < n) ↔ (lineOf b = ln ∧ b % 128 / 32 < n + 1) := by unfold lineOf; omega
      rw [if_neg h]
      simp only [h1]

/-- A line that no L1 owns is kept when its dirty bytes have gone to the cells. -/
theorem LineKept.flushed {s u : State} {ln : Nat} {l : CacheLine} (hc : LineCoherent s ln) (ho : lineOwner s ln = none)
    (hl : cacheLine s ln = some l) (hu : cacheLine u ln = some { l with dirty := 0 }) (h1 : ∀ g, l1Line u g ln = l1Line s g ln)
    (hcell : ∀ b, lineOf b = ln → cget u.dram b = l.flushed (cget s.dram b) (b % 128)) : LineKept s u ln := by
  have hlo : l.owner = none := by simpa [lineOwner, hl] using ho
  refine .of_home ho (by rw [lineOwner, hu]; exact hlo) ?_ ?_ (fun g k hk => hc.l1Bytes g k (h1 g ▸ hk)) ?_
  · rintro b rfl
    rw [homeByte, homeByte, hu, hl, Option.bind_some, Option.bind_some, hcell b rfl, CacheLine.flushed]
    dsimp only
    cases mget l.bytes (b % 128) <;> simp
  · rintro l' h'
    cases hu.symm.trans h'
    exact hc.bytes l hl
  · rintro l' i b h' hb -
    cases hu.symm.trans h'
    have hi := (hc.bytes l hl).lt hb
    have hmod : (128 * ln + i) % 128 = i := by omega
    rw [hcell _ (lineOf_offset hi), hmod, CacheLine.flushed, hb]
    split
    · rfl
    · next hd => exact hc.clean l i b hl hb (by simpa using hd)

/-- What the write-back of a line with dirty bytes leaves: the line without them, and the cells with them. -/
theorem writeBack_dirty {s : State} {ln : Nat} {l : CacheLine} (hc : coherent s) (hr : LineReady s ln) (hl : cacheLine s ln = some l)
    (hd : dirtyBytes l.bytes l.dirty ≠ []) : UnitStep s (writeBack s ln)
      ∧ (∀ j, cacheLine (writeBack s ln) j = if j = ln then some { l with dirty := 0 } else cacheLine s j)
      ∧ (∀ g j, l1Line (writeBack s ln) g j = l1Line s g j)
      ∧ ∀ b, cget (writeBack s ln).dram b = if lineOf b = ln then l.flushed (cget s.dram b) (b % 128) else cget s.dram b := by
  have hln := (coherent_iff s).mp hc ln
  have e : writeBack s ln = (List.range 4).foldl (fun s i => writeBackSector s ln l i) (setLine s ln { l with dirty := 0 }) := by
    simp only [writeBack, hl, List.isEmpty_eq_false_iff.mpr hd, Bool.false_eq_true, if_false]
  obtain ⟨hu, hcell⟩ := writeBackSectors_step (hr.step (.setLine s ln { l with dirty := 0 })) (hln.bytes l hl)
    (fun i b => hln.clean l i b hl) (le_refl 4)
  rw [e]
  refine ⟨(UnitStep.setLine ..).trans hu.toUnitStep, fun j => ?_, fun g j => ?_, fun b => ?_⟩
  · rw [cacheLine, hu.cache, ← cacheLine, cacheLine_setLine]
  · rw [l1Line, hu.core, coreG_setLine, l1Line]
  · have hall : (lineOf b = ln ∧ b % 128 / 32 < 4) ↔ lineOf b = ln := by omega
    rw [hcell, dram_setLine]
    simp only [hall]

/-- A line that no L1 owns is written back: memory reads as before, and none of its bytes is dirty. -/
theorem writeBack_step {s : State} {ln : Nat} (hc : coherent s) (hr : LineReady s ln) (ho : lineOwner s ln = none) :
    CacheStep s (writeBack s ln) ∧ ∀ l, cacheLine (writeBack s ln) ln = some l → dirtyBytes l.bytes l.dirty = [] := by
  cases hl : cacheLine s ln with
  | none =>
    have e : writeBack s ln = s := by rw [writeBack, hl]
    rw [e, hl]
    exact ⟨.refl hc, by simp⟩
  | some l =>
    by_cases hd : dirtyBytes l.bytes l.dirty = []
    · have e : writeBack s ln = s := by simp only [writeBack, hl, hd, List.isEmpty_nil, if_true]
      rw [e, hl]
      exact ⟨.refl hc, fun l' h' => Option.some.inj h' ▸ hd⟩
    · obtain ⟨hu, hline, hl1, hcell⟩ := writeBack_dirty hc hr hl hd
      refine ⟨⟨hu, fun j => ?_⟩, fun l' h' => ?_⟩
      · have hj := hline j
        split at hj
        · next e =>
          subst e
          exact .flushed ((coherent_iff s).mp hc j) ho hl hj (hl1 · j) fun b hb => by rw [hcell, if_pos hb]
        · next e =>
          exact .of_same ((coherent_iff s).mp hc j) hj (fun b hb => by rw [hcell, if_neg (hb ▸ e)]) fun g => .inl (hl1 g j)
      · rw [hline, if_pos rfl] at h'
        cases h'
        exact List.filter_eq_nil_iff.mpr fun e _ => by simp

/-- A line of a CFLUSH (14 R335). -/
theorem flushLine_step {s : State} {wa : Nat} (hc : coherent s) (hr : LineReady s (lineOf wa)) (hf : RecallFree s (lineOf wa)) :
    CacheStep s (flushLine s wa)
      ∧ ∀ l, cacheLine (flushLine s wa) (lineOf wa) = some l → dirtyBytes l.bytes l.dirty = [] := by
  obtain ⟨hst, ho, -, -⟩ := recallLine_step hc hf
  obtain ⟨hwb, hd⟩ := writeBack_step hst.keeps_coherent (hr.step hst.toUnitStep) ho
  rw [flushLine, hr.enterSlice]
  exact ⟨hst.trans hwb, hd⟩

end Sys2Proof.Machine
end

section
/-! PROOFS. The steps of the caches as the module takes them: fills, grants, recalls, and the lines of CFLUSH and CINV change no byte of memory
(04 R95, R100, R103, R107, 14 R335). -/

namespace Sys2Proof.Machine

open Sys2Proof.Rules

/-! ## A step from its beginning to its end -/

/-- The state in which a step of memory that finds no error begins. -/
def State.begun (s : State) (head : Bool) : State := { s with doing := { ecc := .clean, head := head } }

/-- A state that differs in chassis and cells alone, with the same memory and coherent caches. -/
def OnlyCaches (s t : State) : Prop :=
  t = { s with chassis := t.chassis, dram := t.dram, flaws := t.flaws } ∧ sameMemory s t ∧ coherent t

theorem LineReady.begun {s : State} {ln : Nat} (h : lineFree s ln) (hb : busesUp s) (head : Bool) : LineReady (s.begun head) ln :=
  .of_lineFree (s := s.begun head) h hb rfl

theorem RecallFree.begun {s : State} {ln : Nat} (h : lineFree s ln) (head : Bool) : RecallFree (s.begun head) ln :=
  .of_lineFree (s := s.begun head) h

/-- A step of the caches that ends changes caches and cells alone, whatever becomes of a coach with it. -/
theorem settleStep_cacheStep {s u : State} {head : Bool} (h : CacheStep (s.begun head) u) (who : Requester) :
    OnlyCaches s (settleStep who s u) ∧ SameCaches u (settleStep who s u)
      ∧ ∀ key c, settleStep who s (u.setCoach key c) = (settleStep who s u).setCoach key c := by
  have hstall : u.doing.stall = none := h.stall
  have hset : settleStep who s u = leaveUnits { u with doing := s.doing } who := by rw [settleStep, hstall]
  have hcoach : ∀ key c, settleStep who s (u.setCoach key c) = (settleStep who s u).setCoach key c := by
    intro key c
    have : settleStep who s (u.setCoach key c) = leaveUnits (({ u with doing := s.doing } : State).setCoach key c) who := by
      rw [settleStep, State.setCoach_doing, hstall]; rfl
    rw [this, hset, leaveUnits_setCoach]
  have hsame : SameCaches u (settleStep who s u) := by
    rw [hset]
    exact .trans (t := { u with doing := s.doing }) ⟨fun _ => rfl, fun _ => rfl, rfl⟩ (sameCaches_leaveUnits ..)
  have hkept := hsame.kept h.keeps_coherent
  refine ⟨⟨?_, fun b => ((hkept _).memory b rfl).trans (h.memory b), (coherent_iff _).mpr fun ln => (hkept ln).coherent⟩, hsame, hcoach⟩
  have hrest : ({ u with doing := s.doing } : State) = { s with chassis := u.chassis, dram := u.dram, flaws := u.flaws } :=
    congrArg (fun t : State => { t with doing := s.doing }) h.rest
  rw [hset, leaveUnits_chassis, hrest]

/-- The same for a step that leaves the coaches alone. -/
theorem during_cacheStep {s : State} (f : State → State) (h : ∀ head, CacheStep (s.begun head) (f (s.begun head))) (who : Requester) :
    ∃ t head, during who .clean f s = t ∧ OnlyCaches s t ∧ SameCaches (f (s.begun head)) t := by
  obtain ⟨honly, hsame, -⟩ := settleStep_cacheStep (h (heads s who)) who
  exact ⟨_, _, rfl, honly, hsame⟩

theorem SameCaches.l1Holds {s u : State} (h : SameCaches s u) (g a n : Nat) : l1Holds u g a n = l1Holds s g a n := by
  simp only [Machine.l1Holds, h.l1Line]

theorem SameCaches.l1Bytes {s u : State} (h : SameCaches s u) (g a n : Nat) : l1Bytes u g a n = l1Bytes s g a n := by
  simp only [Machine.l1Bytes, h.l1Line]

theorem SameCaches.l1Owns {s u : State} (h : SameCaches s u) (g ln : Nat) : l1Owns u g ln = l1Owns s g ln := by
  simp only [Machine.l1Owns, h.l1Line]

theorem SameCaches.lineOwner {s u : State} (h : SameCaches s u) (ln : Nat) : lineOwner u ln = lineOwner s ln := by
  simp only [Machine.lineOwner, h.line]

/-! ## The instructions at the home of an address -/

theorem exec_cacheFillReturn_home {pa : Nat} {h : Home} (hres : resolve pa = some h) (ch : Nat) (s : State) :
    exec (.cacheFillReturn ch pa none .clean) s
      = .next (during (.turn (.event (.cacheFillReturn ch pa none .clean))) .clean (fillHome · (ch % 16) h.wa) s) := by
  change execCacheFillReturn ch pa none .clean s = _
  simp only [execCacheFillReturn, hres]

theorem exec_cacheFillReturn_l1 {pa : Nat} {h : Home} (hres : resolve pa = some h) (ch core : Nat) (s : State) :
    exec (.cacheFillReturn ch pa (some core) .clean) s
      = .next (during (.turn (.event (.cacheFillReturn ch pa (some core) .clean))) .clean (fillL1 · (16 * (ch % 16) + core % 16) h.wa) s) := by
  change execCacheFillReturn ch pa (some core) .clean s = _
  simp only [execCacheFillReturn, hres]

theorem exec_l1OwnershipGrant {pa : Nat} {h : Home} (hres : resolve pa = some h) (ch core : Nat) (s : State) :
    exec (.l1OwnershipGrant ch core pa .clean) s
      = .next (during (.turn (.event (.l1OwnershipGrant ch core pa .clean))) .clean (grantLine · (16 * (ch % 16) + core % 16) h.wa) s) := by
  change execL1OwnershipGrant ch core pa .clean s = _
  simp only [execL1OwnershipGrant, hres]

theorem exec_ownershipRecall {pa : Nat} {h : Home} (hres : resolve pa = some h) (s : State) :
    exec (.ownershipRecall pa) s
      = .next (during (.turn (.event (.ownershipRecall pa))) .clean (fun s => recallLine (enterSlice s h.wa) (lineOf h.wa)) s) := by
  change execOwnershipRecall pa s = _
  simp only [execOwnershipRecall, hres]

/-! ## The lines of CFLUSH and CINV -/

theorem coachOf_of_accessOf {s : State} {r : OpRef} {x : Site1} (h : accessOf s r = some x) : coachOf s r.key = some x.c := by
  unfold accessOf at h
  split at h
  · cases h
  · next c hc =>
    split at h
    · cases h
    · split at h
      · cases h; exact hc
      · cases h

/-- A coach some of whose lanes are live is not over when an access of it ends. -/
theorem completePiece_eq {s : State} {r : OpRef} {x : Site1} (hc : coachOf s r.key = some x.c) (he : x.c.exited ≠ BitVec.allOnes 32) :
    completePiece s r x = s.setCoach r.key (performed x.c x.o r.piece { x.p with phase := 2 }) := by
  have hlive : coachOver (performed x.c x.o r.piece { x.p with phase := 2 }) = false := by
    have : (performed x.c x.o r.piece { x.p with phase := 2 }).exited = x.c.exited := rfl
    rw [coachOver, this, beq_eq_false_iff_ne.mpr he, Bool.false_and]
  have e : completePiece s r x = checkCoach (s.setCoach r.key (performed x.c x.o r.piece { x.p with phase := 2 })) r.key := by
    simp only [completePiece, putPiece, putPieces, hc]
    rfl
  rw [e, checkCoach]
  simp only [coachOf_setCoach_self, hlive, Bool.not_false, if_true]

/-- A line of a CFLUSH or CINV that is done: the access ends, and the caches have taken their step. -/
theorem storePerformed_line {s : State} {r : OpRef} {x : Site1} {f : State → State} (hx : accessOf s r = some x)
    (he : x.c.exited ≠ BitVec.allOnes 32)
    (hrun : ∀ head, storePerformed (s.begun head) r = completePiece (f (s.begun head)) r x)
    (hf : ∀ head, CacheStep (s.begun head) (f (s.begun head))) :
    ∃ t head, exec (.storePerformed r .clean) s = .next (t.setCoach r.key (performed x.c x.o r.piece { x.p with phase := 2 }))
      ∧ OnlyCaches s t ∧ SameCaches (f (s.begun head)) t := by
  have hstep := hf (heads s (.access r (stampOf s r)))
  obtain ⟨honly, hsame, hcoach⟩ := settleStep_cacheStep hstep (.access r (stampOf s r))
  refine ⟨_, _, ?_, honly, hsame⟩
  have hc : coachOf (f (s.begun (heads s (.access r (stampOf s r))))) r.key = some x.c := by
    rw [coachOf, hstep.coaches]
    exact coachOf_of_accessOf hx
  change Host.Outcome.next (settleStep _ s (storePerformed (s.begun (heads s (.access r (stampOf s r)))) r)) = _
  rw [hrun, completePiece_eq hc he, hcoach]

theorem storePerformed_cflush {s : State} {r : OpRef} {x : Site1} (hx : accessOf s r = some x) (hk : x.o.kind = .cflush) (h0 : x.p.phase = 0)
    (hin : inOrder s x = true) (hnow : reachOf s x.c x.p = .now) : storePerformed s r = completePiece (flushLine s x.p.addr) r x := by
  simp only [storePerformed, hx, hk, performLine, h0, hin, hnow, ne_eq, not_true_eq_false, decide_false, Bool.not_true, Bool.or_self,
    Bool.false_eq_true, if_false, bne_self_eq_false]

theorem storePerformed_cinv {s : State} {r : OpRef} {x : Site1} (hx : accessOf s r = some x) (hk : x.o.kind = .cinv) (h0 : x.p.phase = 0)
    (hin : inOrder s x = true) : storePerformed s r = completePiece (dropLine s x.c.gcore x.p.addr) r x := by
  have hne : (OpKind.cinv != OpKind.cflush) = true := by decide
  simp only [storePerformed, hx, hk, performLine, h0, hin, hne, ne_eq, not_true_eq_false, decide_false, Bool.not_true, Bool.or_self,
    Bool.false_eq_true, if_false, if_true]

/-! ## The statement -/

/-- Settles O47: each step is a step of the caches on the state in which it begins, and what it leaves at the units is no part of them. -/
theorem cachesKeepMemory : Obligations.CachesKeepMemory := by
  unfold Obligations.CachesKeepMemory
  intro s pa h hc hb hres ln a onlyCaches open_ hfree
  have hc : ∀ head, coherent (s.begun head) := fun _ => hc
  have hr := LineReady.begun hfree hb
  have hf := RecallFree.begun hfree
  refine ⟨?fill, ?l1, ?grant, ?recalled, fun r x hx _ he haddr h0 hin => ⟨?flush, ?inv⟩⟩
  case fill =>
    intro ch hdie hon hneeds hway hwant
    have key := fun head => fillHome_step (hc head) (hr head) (hf head) hway hon hneeds hwant
    obtain ⟨t, head, ht, honly, hsame⟩ := during_cacheStep (fillHome · (lineDie ln) h.wa) (fun head => (key head).1)
      (.turn (.event (.cacheFillReturn ch pa none .clean)))
    obtain ⟨l, hl, hvalid⟩ := (key head).2
    rw [exec_cacheFillReturn_home hres, ← hdie]
    exact ⟨t, congrArg _ ht, honly, l, (hsame.line ln).trans hl, hvalid⟩
  case l1 =>
    intro ch core g hwant hholds hst hopen hpath hway hway1
    have key := fun head => fillL1_step (hc head) (hr head) (hf head) hway hway1 hwant hholds hst hopen hpath.1 hpath.2
    obtain ⟨t, head, ht, honly, hsame⟩ := during_cacheStep (fillL1 · g h.wa) (fun head => (key head).1)
      (.turn (.event (.cacheFillReturn ch pa (some core) .clean)))
    obtain ⟨hheld, hbytes⟩ := (key head).2
    rw [exec_cacheFillReturn_l1 hres]
    exact ⟨t, congrArg _ ht, honly, (hsame.l1Holds ..).trans hheld, (hsame.l1Bytes ..).trans hbytes⟩
  case grant =>
    intro ch core g hwant hon hpark hown hway hway1 hopen hpath
    have key := fun head => grantLine_step (hc head) (hr head) (hf head) hway hway1 hwant hon hpark hown hopen hpath.1 hpath.2
    obtain ⟨t, head, ht, honly, hsame⟩ := during_cacheStep (grantLine · g h.wa) (fun head => (key head).1)
      (.turn (.event (.l1OwnershipGrant ch core pa .clean)))
    obtain ⟨howns, howner, hbytes⟩ := (key head).2
    rw [exec_l1OwnershipGrant hres]
    exact ⟨t, congrArg _ ht, honly, (hsame.l1Owns ..).trans howns, (hsame.lineOwner ln).trans howner, (hsame.l1Bytes ..).trans hbytes⟩
  case recalled =>
    have key : ∀ head, CacheStep (s.begun head) (recallLine (enterSlice (s.begun head) h.wa) ln)
        ∧ lineOwner (recallLine (enterSlice (s.begun head) h.wa) ln) ln = none := by
      intro head
      obtain ⟨hstep, hnone, -⟩ := recallLine_step (hc head) (hf head)
      rw [(hr head).enterSlice]
      exact ⟨hstep, hnone⟩
    obtain ⟨t, head, ht, honly, hsame⟩ := during_cacheStep (fun s => recallLine (enterSlice s h.wa) ln) (fun head => (key head).1)
      (.turn (.event (.ownershipRecall pa)))
    rw [exec_ownershipRecall hres]
    exact ⟨t, congrArg _ ht, honly, (hsame.lineOwner ln).trans (key head).2⟩
  case flush =>
    intro hk hnow
    have hline : lineOf x.p.addr = ln := by rw [haddr]
    rw [← hline] at hr hf
    have key := fun head => flushLine_step (hc head) (hr head) (hf head)
    obtain ⟨t, head, hexec, honly, hsame⟩ := storePerformed_line (f := (flushLine · x.p.addr)) hx he
      (fun head => storePerformed_cflush (s := s.begun head) hx hk h0 hin hnow) fun head => (key head).1
    refine ⟨t, hexec, honly, fun l hl => (key head).2 l ?_⟩
    rw [hline, ← hsame.line]
    exact hl
  case inv =>
    intro hk hown
    have hline : lineOf x.p.addr = ln := by rw [haddr]
    rw [← hline] at hr hf
    have key := fun head => dropLine_step (hc head) (hr head) (hf head) (g := x.c.gcore) (by rw [hline]; exact hown)
    obtain ⟨t, head, hexec, honly, hsame⟩ := storePerformed_line (f := (dropLine · x.c.gcore x.p.addr)) hx he
      (fun head => storePerformed_cinv (s := s.begun head) hx hk h0 hin) fun head => (key head).1
    refine ⟨t, hexec, honly, ?_⟩
    rw [hsame.l1Line, ← hline]
    exact (key head).2

end Sys2Proof.Machine
end

section
/-! PROOFS. The error that a copy's piece meets also strikes the walks by which the model looks ahead for other copies (05 R127, 02 R45): why the
statement about copies and streams at work fails as it is worded. -/

namespace Sys2Proof.Machine

open Sys2Proof.Rules

/-! ## Three copies on one channel (05 R112, R127, R128) -/

/-- A copy at H that waits for a window. Its page has not been translated at issue, so that what it needs of the ring follows from a walk. -/
def windowWaiter : Copy :=
  { id := 1, train := 1, chan := 0, ctx := { vmid := 0, pasid := 0, hyp := true }, level := .H, ch := 0, core := 0, form := .one, len := 1
    total := 1, src := .glob (2 ^ 30), dst := .buf 1 0 0, phase := 2 }

/-- A running copy of the same train, from a page with its home in d1: it needs the window for which the other waits. -/
def farReader : Copy := { windowWaiter with id := 2, src := .glob 0x1000, spages := [(1, .mem, 2 ^ 36, {})], phase := 3 }

/-- A running copy of the next train on the same channel, from a page of the host. -/
def hostReader : Copy := { farReader with id := 3, train := 2, spages := [(1, .host, 0, {})] }

def shortTrain (n : Nat) : Train := { id := n, launch := 0, index := n, ch := 0, cores := [0] }

/-- The three copies at work. The table at address 0 of d0, which the H regime of d0 uses, names itself in its first entry, and in its second a
page of 1 GiB of d1; the hop from d0 to d1 is active. -/
def sharedChannel : State :=
  { State.reset with
    copies := [windowWaiter, farReader, hostReader], trains := [shortTrain 1, shortTrain 2]
    chassis := [(0, { ttbr := 1, east := { state := 1 } })], dram := [(0, 0x01), (8, 0x43), (12, 0x10)] }

/-- As the machine stands, the walk gives the waiting copy its needs, the copy behind it finds no window, and the channel is the host copy's. -/
theorem channelTaken_sharedChannel : channelTaken sharedChannel hostReader = false := by decide +kernel

/-- The byte of the host copy, and where it goes. -/
def hostSpot : Spot := { space := .host, addr := 0 }
def bufferSpot : Spot := { space := .buf 1 0, addr := 0 }

theorem pieceState_hostReader :
    pieceState sharedChannel (shortTrain 2) hostReader hostReader.front = .go (runsOf [hostSpot]) (runsOf [bufferSpot]) [] := by decide +kernel

theorem endSpots_hostReader :
    endSpots sharedChannel (shortTrain 2) hostReader hostReader.src hostReader.spages .read
        (srcOffsets sharedChannel (shortTrain 2) hostReader hostReader.front (pieceLen sharedChannel (shortTrain 2) hostReader hostReader.front))
      = .ok [hostSpot]
      ∧ endSpots sharedChannel (shortTrain 2) hostReader hostReader.dst hostReader.dpages .write
          (dstOffsets hostReader hostReader.front (pieceLen sharedChannel (shortTrain 2) hostReader hostReader.front)) = .ok [bufferSpot] :=
  ⟨rfl, rfl⟩

/-- The channel context of the host copy after an outcome. -/
def channelAfter (o : Host.Outcome State Fault Refusal) : Option Channel :=
  match o with
  | .next u => channelOf u hostReader.train hostReader.chan
  | _ => none

/-- In the step of the failing read the same walk fails too: the window then counts as free, the channel as taken by the copy that waited for
it, and the host copy's piece is not tried. Its context stays as it was. -/
theorem channelAfter_failing_piece :
    channelAfter (exec (.copyPieceWrite hostReader.id hostReader.front .uncorrectable .clean) sharedChannel) = some {} := by decide +kernel

/-- Refutes O51, in its clause on a host read that fails: the error of that read is met by the first sector that the step reads, and here this
is one of a walk for another copy's needs. -/
theorem not_copiesAndStreamsRun : ¬ Obligations.CopiesAndStreamsRun := by
  unfold Obligations.CopiesAndStreamsRun
  rintro ⟨hcopies, -⟩
  obtain ⟨-, -, -, -, hpieces⟩ := hcopies sharedChannel hostReader (shortTrain 2) (by decide) (by decide)
  obtain ⟨hsrc, hdst⟩ := endSpots_hostReader
  obtain ⟨-, hhost, -⟩ := hpieces _ _ _ (by decide) channelTaken_sharedChannel hsrc hdst pieceState_hostReader
  obtain ⟨u, hnext, herr⟩ := hhost rfl (by simp [hostReader, farReader, windowWaiter]) (by simp) (by simp [hostSpot]) .clean
  have hchannel := channelAfter_failing_piece
  rw [hnext] at hchannel
  have hset : ({} : Channel).err = true := herr _ hchannel
  cases hset

end Sys2Proof.Machine
end

section
/-! PROOFS. How an instruction of a carriage ends at issue: with a result, with a trap of every lane, or waiting for walks (14 R318, 05 R116). -/

namespace Sys2Proof.Machine

open Sys2Proof.Rules

/-! ## Fields of literals -/

theorem bitOf_eq_testBit (w n : Nat) : bitOf w n = w.testBit n := by
  rw [Nat.testBit_eq_decide_div_mod_eq, bitOf]
  exact Bool.beq_eq_decide_eq _ _

theorem bitOf_zero (w : Nat) : bitOf w 0 = decide (w % 2 = 1) := by
  rw [bitOf_eq_testBit, Nat.testBit_zero]

/-! ## The issuing carriage -/

theorem mget_slots_of_issuer {s : State} {x : Iss} (h : issuer s = some x) : mget x.c.slots x.slot = some x.k := by
  unfold issuer at h
  split at h
  · split at h
    · split at h
      · next hk => cases h; exact hk
      · cases h
    · cases h
  · cases h

theorem stall_issuer {s : State} {x : Iss} (h : issuer s = some x) (w : Wait) :
    stall s x w = s.setCoach x.c.key { x.c with slots := mset x.c.slots x.slot { x.k with wait := some w } } := by
  simp only [stall, waitFor, mget_slots_of_issuer h]

theorem nextOf_eq_afterInstr (k : Carriage) (len : Nat) : nextOf k len = afterInstr k len := by
  have hpc : k.pc + BitVec.ofNat 64 len = behind k.pc len := by
    apply BitVec.eq_of_toNat_eq
    simp only [behind, low64, BitVec.toNat_add, BitVec.toNat_ofNat, BitVec.toNat_ofInt]
    omega
  cases hr : k.rep with
  | none => simp only [nextOf, afterInstr, hr, hpc]
  | some r => simp only [nextOf, afterInstr, hr, hpc]

/-! ## What an issue changes of the machine -/

/-- Nothing but the chassis changes, and their caches are as before. -/
structure KeepsCaches (s u : State) : Prop where
  rest : u = { s with chassis := u.chassis }
  cache : ∀ d, (chassisOf u d).cache = (chassisOf s d).cache

theorem KeepsCaches.refl (s : State) : KeepsCaches s s := ⟨rfl, fun _ => rfl⟩

theorem KeepsCaches.trans {s t u : State} (h : KeepsCaches s t) (g : KeepsCaches t u) : KeepsCaches s u :=
  ⟨g.rest.trans (congrArg (fun t : State => { t with chassis := u.chassis }) h.rest), fun d => (g.cache d).trans (h.cache d)⟩

theorem KeepsCaches.setChassis (s : State) {d : Nat} {c : Chassis} (h : c.cache = (chassisOf s d).cache) : KeepsCaches s (s.setChassis d c) :=
  ⟨rfl, chassisOf_setChassis_keeps Chassis.cache s h⟩

theorem KeepsCaches.setCoreG (s : State) (g : Nat) (k : Core) : KeepsCaches s (s.setCoreG g k) := .setChassis s rfl

theorem KeepsCaches.forget (s : State) (g : Nat) (who : Nat × Nat × W64) : KeepsCaches s (forget s g who) := by
  unfold Machine.forget
  dsimp only
  split
  · exact .refl s
  · exact .setCoreG ..

theorem KeepsCaches.enqueueMiss (s : State) (m : Miss) : KeepsCaches s (enqueueMiss s m) := by
  unfold Machine.enqueueMiss
  dsimp only
  split
  · exact (KeepsCaches.setCoreG s m.core _).trans (.setChassis _ rfl)
  · split
    · exact .refl s
    · exact (KeepsCaches.setCoreG s m.core _).trans (.setChassis _ rfl)

theorem KeepsCaches.enqueueMisses (ms : List Miss) : ∀ s, KeepsCaches s (ms.foldl Machine.enqueueMiss s) := by
  induction ms with
  | nil => exact .refl
  | cons m ms ih => exact fun s => (KeepsCaches.enqueueMiss s m).trans (ih _)

section keeps
variable {s u : State} (h : KeepsCaches s u)
include h

theorem KeepsCaches.line (ln : Nat) : cacheLine u ln = cacheLine s ln := by rw [cacheLine, cacheLine, h.cache]

theorem KeepsCaches.nextId : u.nextId = s.nextId := by rw [h.rest]

theorem KeepsCaches.homeByte (a : Nat) : homeByte u a = homeByte s a := by
  have hd : u.dram = s.dram := by rw [h.rest]
  rw [Machine.homeByte, Machine.homeByte, h.line, hd]

theorem KeepsCaches.onlyIssued : onlyIssued s u :=
  ⟨h.rest.trans (by rw [h.nextId]), h.homeByte⟩

/-- The same where the instruction has taken its place in the order of issue. -/
theorem KeepsCaches.onlyIssued_next (n : Nat) : Rules.onlyIssued s { u with nextId := n } :=
  ⟨congrArg (fun t : State => { t with nextId := n }) h.rest, h.homeByte⟩

end keeps

/-! ## Results -/

theorem readSD_writeSD_ne (c : Coach) (d t : SDst) (v : W64) (hd : named d) (ht : named t) (h : t ≠ d) : readSD (writeSD c d v) t = readSD c t := by
  cases d <;> cases t <;> simp only [writeSD, readSD, rget_mset]
  case reg.reg m n => rw [if_neg fun e : n = m => h (by rw [e])]
  case k.k f i g j =>
    rw [if_neg fun e : kKey g j = kKey f i => ?_]
    obtain ⟨rfl, rfl⟩ := kKey_inj ht hd e
    exact h rfl
  case outrider.outrider m n => rw [if_neg fun e : n = m => h (by rw [e])]

theorem named_sTarget (k : Carriage) (n : Nat) : named (sTarget k n) := by
  unfold sTarget
  split
  · trivial
  · split
    · trivial
    · show n - 240 < 16
      omega

theorem scalarWritten_writeS (c : Coach) (k : Carriage) (d : BitVec 8) (v : W64) : scalarWritten c k d.toNat v (writeS c k d.toNat v) := by
  refine ⟨?_, fun n hn => readS_writeS c k _ n v d.isLt hn, fun t ht h => readSD_writeSD_ne c _ t v (named_sTarget k _) ht h⟩
  obtain ⟨a, b, h⟩ := writeS_eq c k d.toNat v
  rw [h]

/-- An instruction completes with a value in a scalar register of its carriage, and leaves the machine as `t`. -/
def Gives (s : State) (x : Iss) (i : Instr) (len : Nat) (d : BitVec 8) (v : W64) (t : State) : Prop :=
  ∃ w, exec i s = .next (t.setCoach x.c.key (advance w x.slot len)) ∧ scalarWritten x.c x.k d.toNat v w

theorem gives_of_retire {s t : State} {x : Iss} {i : Instr} {len : Nat} {d : BitVec 8} {v : W64}
    (h : exec i s = .next (retire t x (writeS x.c x.k d.toNat v) len)) : Gives s x i len d v t :=
  ⟨_, h, scalarWritten_writeS ..⟩

/-! ## Traps of every lane -/

theorem lanesOf_ne_nil {m : Mask} (h : m ≠ 0) : lanesOf m ≠ [] := by
  intro hn
  refine h (BitVec.eq_of_getLsbD_eq fun i hi => ?_)
  have := List.filter_eq_nil_iff.mp hn i (List.mem_range.mpr hi)
  simpa using this

/-- The trap of every lane of a carriage with one cause and address. -/
def Iss.allTrap (x : Iss) (t : LaneTrap) : List LaneTrap := (lanesOf x.k.lanes).map fun l => { t with lane := l }

/-- Every lane of the carriage traps, once its report does not wait for the host (19 R411). -/
def TrapsWith (s : State) (x : Iss) (i : Instr) (len : Nat) (t : LaneTrap) : Prop :=
  reportWaits s x.c x.k (x.allTrap t) = false → exec i s = .next (takeTrap s x.c x.slot x.k (x.allTrap t) (afterInstr x.k len))

theorem trapAll_eq_takeTrap {s : State} {x : Iss} (hl : x.k.lanes ≠ 0) (len : Nat) {t : LaneTrap}
    (h : reportWaits s x.c x.k (x.allTrap t) = false) :
    trapAll s x len t = takeTrap s x.c x.slot x.k (x.allTrap t) (afterInstr x.k len) := by
  have hne : (x.allTrap t).isEmpty = false := List.isEmpty_eq_false_iff.mpr (by simpa [Iss.allTrap] using lanesOf_ne_nil hl)
  change conclude s x x.c len (x.allTrap t) = _
  simp only [conclude, hne, h, Bool.false_eq_true, if_false, nextOf_eq_afterInstr]

theorem trapsWith_of_trapAll {s : State} {x : Iss} {i : Instr} {len : Nat} {t : LaneTrap} (hl : x.k.lanes ≠ 0)
    (h : exec i s = .next (trapAll s x len t)) : TrapsWith s x i len t :=
  fun hr => h.trans (congrArg _ (trapAll_eq_takeTrap hl len hr))

/-- The trap of the lowest lane is one of those taken. -/
theorem lowestTrap_mem {ts : List LaneTrap} (h : ts ≠ []) : lowestTrap ts ∈ ts := by
  cases ts with
  | nil => exact absurd rfl h
  | cons t ts =>
    have key : ∀ (us : List LaneTrap) (a : LaneTrap), us.foldl (fun a b => if b.lane < a.lane then b else a) a ∈ a :: us := by
      intro us
      induction us with
      | nil => exact fun a => List.mem_singleton_self a
      | cons b us ih =>
        intro a
        rw [List.foldl_cons]
        split
        · exact List.mem_cons_of_mem _ (ih b)
        · rcases List.mem_cons.mp (ih a) with he | hm
          · rw [he]; exact List.mem_cons_self ..
          · exact List.mem_cons_of_mem _ (List.mem_cons_of_mem _ hm)
    exact key ts t

/-- Only page and permission faults are reported to the host (19 R410). -/
theorem reportWaits_allTrap {s : State} {x : Iss} {t : LaneTrap} (hl : x.k.lanes ≠ 0) (h4 : t.cause ≠ 4) (h5 : t.cause ≠ 5) :
    reportWaits s x.c x.k (x.allTrap t) = false := by
  have hc : (lowestTrap (x.allTrap t)).cause = t.cause := by
    obtain ⟨l, -, hl⟩ := List.mem_map.mp (lowestTrap_mem (ts := x.allTrap t) (by simpa [Iss.allTrap] using lanesOf_ne_nil hl))
    rw [← hl]
  simp [reportWaits, reported, hc, h4, h5]

theorem carriageTraps_of_trapAll {s : State} {x : Iss} {i : Instr} {len : Nat} {t : LaneTrap} (hl : x.k.lanes ≠ 0) (h4 : t.cause ≠ 4)
    (h5 : t.cause ≠ 5) (h : exec i s = .next (trapAll s x len t)) : carriageTraps s x i len t.cause t.addr := by
  refine ⟨s, x.allTrap t, trapsWith_of_trapAll hl h (reportWaits_allTrap hl h4 h5), (KeepsCaches.refl s).onlyIssued, ?_, fun u hu => ?_⟩
  · rw [Iss.allTrap, List.map_map]
    exact List.map_id _
  · obtain ⟨l, -, rfl⟩ := List.mem_map.mp hu
    exact ⟨rfl, rfl⟩

/-- An operand that keeps no limit (14 R318). -/
theorem carriageTraps_of_invalid {s : State} {x : Iss} {i : Instr} {len kind : Nat} {v : W64} (hl : x.k.lanes ≠ 0)
    (h : exec i s = .next (trapAll s x len { lane := 0, cause := 7, addr := v, kind := kind })) : carriageTraps s x i len 7 v :=
  carriageTraps_of_trapAll hl (by simp) (by simp) h

/-- A range beyond its window of a typed buffer (05 R116). -/
theorem carriageTraps_of_window {s : State} {x : Iss} {i : Instr} {len kind : Nat} {v : W64} (hl : x.k.lanes ≠ 0)
    (h : exec i s = .next (trapAll s x len { lane := 0, cause := 0x13, addr := v, kind := kind })) : carriageTraps s x i len 0x13 v :=
  carriageTraps_of_trapAll hl (by simp) (by simp) h

/-- A reserved value of a literal word (10 R260). -/
theorem carriageTraps_of_literalTrap {s : State} {x : Iss} {i : Instr} (hl : x.k.lanes ≠ 0)
    (h : exec i s = .next (literalTrap s x x.k.lanes)) : carriageTraps s x i 8 7 (x.k.pc + 4) :=
  carriageTraps_of_invalid hl h

/-! ## Waiting for walks -/

/-- An instruction waits for walks, and its carriage keeps the pages that are translated (05 R116). -/
def WaitsKeeping (s : State) (x : Iss) (i : Instr) (ks : Kept) : Prop :=
  ∃ u : State, onlyIssued s u ∧ u.nextId = s.nextId
    ∧ exec i s = .next (u.setCoach x.c.key { x.c with slots := mset x.c.slots x.slot { x.k with wait := some .translation, pages := ks } })

theorem waitsKeeping_of_stallPaged {s : State} {x : Iss} {i : Instr} {ms : List Miss} {ks : Kept}
    (h : exec i s = .next (stallPaged s x ms ks)) : WaitsKeeping s x i ks :=
  have hk := KeepsCaches.enqueueMisses ms s
  ⟨_, hk.onlyIssued, hk.nextId, h⟩

/-- What an instruction makes of the end of its translations. -/
def Paged.elim {α : Type} (r : Paged) (trap : LaneTrap → α) (miss : List Miss → Kept → α) (ok : PageMap → Kept → α) : α :=
  match r with
  | .trap t => trap t
  | .miss ms ks => miss ms ks
  | .ok ps ks => ok ps ks

/-- An instruction whose translations end in a trap traps every lane; one whose translations miss waits, and keeps what `f` says. -/
theorem ends_of_paged {s : State} {x : Iss} {i : Instr} {len : Nat} {r : Paged} (f : Kept → Kept) {go : PageMap → Kept → State}
    (hl : x.k.lanes ≠ 0) (h : exec i s = .next (r.elim (trapAll s x len) (fun ms ks => stallPaged s x ms (f ks)) go)) :
    (∀ t, r = .trap t → TrapsWith s x i len t) ∧ ∀ ms ks, r = .miss ms ks → WaitsKeeping s x i (f ks) := by
  constructor
  · rintro t rfl
    exact trapsWith_of_trapAll hl h
  · rintro ms ks rfl
    exact waitsKeeping_of_stallPaged h

end Sys2Proof.Machine
end

section
/-! PROOFS. COPY at issue (05 R113 to R117, 14 R331, R332): its shape, its checks, and the copy that it issues. -/

namespace Sys2Proof.Machine

open Sys2Proof.Rules

theorem exec_copy {s : State} {x : Iss} (h : issuer s = some x) (d a b : BitVec 8) (lit : W32) :
    exec (.copy d a b lit) s = .next (copyStep s x d a b lit) := byCarriage_issuer h _

/-! ## The shape of a copy (05 R113, R114) -/

/-- The plan of a COPY has the shape that its operands give it. -/
theorem copyShape_eq_copyPlan (lit : W32) (p : Nat → W64) :
    copyShape lit p = (copyPlan (copyLit lit) p).map fun q => (q.form, q.len, q.total) := by
  have hform : (copyLit lit).form = field lit.toNat 1 0 := rfl
  have he : (copyLit lit).e = field lit.toNat 14 12 := rfl
  unfold copyShape copyPlan
  rw [hform, he]
  generalize field lit.toNat 1 0 = form
  rcases form with _ | _ | _ <;> exact Eq.trans (by rfl) (@apply_ite _ _ (Option.map _) _ _ _ _).symm

/-- The multiple on which the source of a copy stands (05 R114): an element of a gather. -/
def CopyPlan.align (q : CopyPlan) : Nat :=
  match q.form with
  | .gather e _ => e
  | _ => 1

/-! ## The pages of an end (05 R116) -/

/-- The pages of a range within one page. -/
theorem pagesOf_within_page {v : W64} {n : Nat} (h0 : 0 < n) (h : v.toNat % 4096 + n ≤ 4096) :
    pagesOf v [(0, n)] = [(v.toNat / 4096, v.toNat)] := by
  have hlo : (v + BitVec.ofInt 64 0).toNat = v.toNat := by simp
  have hpage : (v.toNat + n - 1) / 4096 - v.toNat / 4096 = 0 := by omega
  simp only [pagesOf, List.foldl_cons, List.foldl_nil, h0.ne', if_false, hlo, hpage, List.range_zero]
  rfl

/-- An end of one page whose translation fails traps with what the walk reports (02 R50). -/
theorem checkCopyEnd_fault {s : State} {x : Iss} {dst : Bool} {v : W64} {n : Nat} {f : XFault} (h0 : 0 < n)
    (hpage : v.toNat % 4096 + n ≤ 4096) (hv : v.toNat + n ≤ 2 ^ 56) (hk : x.k.pages = [])
    (hf : translate s (askerOf x.c x.slot x.k) (if dst then .write else .read) v = .fault f) :
    checkCopyEnd s x dst 0 v [(0, n)] 1 = .trap (f.trap 0 (if dst then Acc.write else Acc.read).code) := by
  have hlow : ¬ 72057594037927936 ≤ v.toNat := by omega
  simp [checkCopyEnd, checkRange, pagesOf_within_page h0 hpage, mvals, hlow, paged, pageXlat, hk, hf, Nat.mod_one]

/-! ## How the checks end (05 R116, R332) -/

theorem copyStep_of_reserved {s : State} {x : Iss} {d a : BitVec 8} {lit : W32} (b : BitVec 8) (h : copyReserved s x.c d a lit = true) :
    copyStep s x d a b lit = literalTrap s x x.k.lanes := by
  simp only [copyStep, h, if_true]

/-- A COPY that names no open stream context holds a reserved value. -/
theorem copyReserved_of_no_stream {s : State} {c : Coach} {lit : W32} (d a : BitVec 8) (hbit : lit.toNat.testBit 20 = true)
    (h : streamOf s c.train (field lit.toNat 28 21) (lit.toNat.testBit 29) = none) : copyReserved s c d a lit = true := by
  have hs : (copyLit lit).stream = true := (bitOf_eq_testBit ..).trans hbit
  have hz : streamOf s c.train (copyLit lit).tag (copyLit lit).west = none := by
    rw [← h, ← bitOf_eq_testBit]; rfl
  simp [copyReserved, hs, hz]

section unreserved
variable {s : State} {x : Iss} {d a b : BitVec 8} {lit : W32} (hr : copyReserved s x.c d a lit = false)
include hr

theorem copyStep_of_no_plan (h : copyPlan (copyLit lit) (sreg x b.toNat) = none) :
    copyStep s x d a b lit = trapAll s x 8 { lane := 0, cause := 7, addr := x.k.pc } := by
  change copyPlan (copyLit lit) (fun i => readS x.c x.k (b.toNat + i)) = none at h
  simp only [copyStep, hr, Bool.false_eq_true, if_false, h]

variable {plan : CopyPlan} {t : Train} (hp : copyPlan (copyLit lit) (sreg x b.toNat) = some plan) (ht : trainOf s x.c.train = some t)
include hp ht

theorem copyStep_of_plain (hbit : lit.toNat.testBit 20 = false) :
    copyStep s x d a b lit = copyPlain s x t (copyLit lit) plan (readS x.c x.k d.toNat) (readS x.c x.k a.toNat) := by
  change copyPlan (copyLit lit) (fun i => readS x.c x.k (b.toNat + i)) = some plan at hp
  have hs : (copyLit lit).stream = false := (bitOf_eq_testBit ..).trans hbit
  simp only [copyStep, hr, Bool.false_eq_true, if_false, hp, ht, hs]

theorem copyStep_of_stream {z : Stream} (hbit : lit.toNat.testBit 20 = true)
    (hz : streamOf s t.id (field lit.toNat 28 21) (lit.toNat.testBit 29) = some z) :
    copyStep s x d a b lit = copyStream s x t (copyLit lit) z plan.total := by
  change copyPlan (copyLit lit) (fun i => readS x.c x.k (b.toNat + i)) = some plan at hp
  have hs : (copyLit lit).stream = true := (bitOf_eq_testBit ..).trans hbit
  have hz : streamOf s t.id (copyLit lit).tag (copyLit lit).west = some z := by
    rw [← hz, ← bitOf_eq_testBit]; rfl
  simp only [copyStep, hr, Bool.false_eq_true, if_false, hp, ht, hs, if_true, hz]

end unreserved

/-- The copy of a COPY between two ends, with their pages. -/
def plainCopy (x : Iss) (t : Train) (f : CopyLit) (plan : CopyPlan) (dv sv : W64) (sp dp : PageMap) : Copy :=
  { id := 0, train := t.id, chan := 4 * copyTc x.c f + f.chan, ctx := ctxOf x.c x.k.level, ch := x.c.ch
    core := t.cores.getD (copyTc x.c f) x.c.core, form := plan.form, len := plan.len, total := plan.total, src := endpoint f.sk f.stc sv
    dst := endpoint f.dk f.dtc dv, spages := sp, dpages := dp }

theorem copyPlain_of_outside {s : State} {x : Iss} {t : Train} {f : CopyLit} {plan : CopyPlan} {dv sv v : W64}
    (h : copyBounds s t f (copyTc x.c f) plan dv sv = some v) :
    copyPlain s x t f plan dv sv = trapAll s x 8 { lane := 0, cause := 0x13, addr := v, kind := 5 } := by
  simp only [copyPlain, h]

/-- Behind its bounds, a COPY checks the pages of its source, then those of its destination. -/
theorem copyPlain_of_inside {s : State} {x : Iss} {t : Train} {f : CopyLit} {plan : CopyPlan} {dv sv : W64}
    (h : copyBounds s t f (copyTc x.c f) plan dv sv = none) :
    copyPlain s x t f plan dv sv = (checkCopyEnd s x false f.sk sv plan.src plan.align).elim (trapAll s x 8) (stallPaged s x) fun sp ks =>
      (checkCopyEnd s x true f.dk dv plan.dst 1).elim (trapAll s x 8) (fun ms ks' => stallPaged s x ms (ks ++ ks')) fun dp _ =>
        issueCopy s x (plainCopy x t f plan dv sv sp dp) := by
  simp only [copyPlain, h]
  rfl

/-- The rows of a stream context's source that a COPY of `n` bytes takes (14 R332). -/
def Stream.rowsFor (z : Stream) (n : Nat) : List (Int × Nat) :=
  if n = 0 then [] else streamRows z.srcLen z.srcStride.toInt z.claimed n

/-- The machine with the next `n` positions of a stream context claimed (14 R332). -/
def claimed (s : State) (z : Stream) (n : Nat) : State :=
  { s with streams := updFirst (fun v => v.id == z.id) (fun v => { v with claimed := v.claimed + n }) s.streams }

/-- The copy of a COPY into a stream context, with the pages of its source. -/
def streamCopy (x : Iss) (t : Train) (f : CopyLit) (z : Stream) (n : Nat) (sp : PageMap) : Copy :=
  { id := 0, train := t.id, chan := 4 * x.c.tcore + f.chan, ctx := ctxOf x.c x.k.level, ch := x.c.ch, core := x.c.core
    form := .two z.srcRows z.srcStride.toInt 0, len := z.srcLen, total := n, src := endpoint z.srcKind z.srcCore z.srcBase
    dst := .stream z.id, skip := z.claimed, spages := sp }

theorem copyStream_of_outside {s : State} {x : Iss} {t : Train} {z : Stream} {n : Nat} {v : W64} (f : CopyLit) (hk : z.srcKind ≠ 0)
    (h : checkEnd s t false z.srcKind z.srcCore z.srcBase (z.rowsFor n) = some v) :
    copyStream s x t f z n = trapAll s x 8 { lane := 0, cause := 0x13, addr := v, kind := 5 } := by
  simp only [Stream.rowsFor] at h
  simp only [copyStream, hk, if_false, h]

theorem copyStream_of_inside {s : State} {x : Iss} {t : Train} {z : Stream} {n : Nat} (f : CopyLit)
    (h : z.srcKind ≠ 0 → checkEnd s t false z.srcKind z.srcCore z.srcBase (z.rowsFor n) = none) :
    copyStream s x t f z n = (checkCopyEnd s x false z.srcKind z.srcBase (z.rowsFor n) 1).elim (trapAll s x 8) (stallPaged s x) fun sp _ =>
      issueCopy (claimed s z n) x (streamCopy x t f z n sp) := by
  have hb : (if z.srcKind = 0 then none else checkEnd s t false z.srcKind z.srcCore z.srcBase (z.rowsFor n)) = none := by
    split
    · rfl
    · next hk => exact h hk
  simp only [Stream.rowsFor] at hb
  simp only [copyStream, hb]
  rfl

/-! ## The copy at issue (05 R117) -/

/-- A copy with what it takes from its issue. -/
def issuedCopy (s : State) (x : Iss) (y : Copy) : Copy :=
  { y with
    id := s.nextId, train := x.c.train, issuer := some (x.c.key, x.c.nextOp), ctx := ctxOf x.c x.k.level, level := x.k.level
    ch := x.c.ch, lanes := x.k.lanes, cart := x.c.cart }

/-- The machine in which a copy has been issued, `u` being the machine but for the copy: it is outstanding, and its carriage goes on. -/
def copyGone (s u : State) (x : Iss) (y : Copy) : State :=
  { u with copies := s.copies ++ [y], nextId := s.nextId + 2 }.setCoach x.c.key (advance (copyIssued s x) x.slot 8)

theorem issueCopy_eq (s : State) (x : Iss) (y : Copy) :
    ∃ u : State, u = { s with chassis := u.chassis } ∧ issueCopy s x y = copyGone s u x (issuedCopy s x y) := by
  have h := (KeepsCaches.forget { s with copies := s.copies ++ [issuedCopy s x y], nextId := s.nextId + 2 } x.c.gcore
    (x.c.key, x.slot, x.k.pc)).rest
  refine ⟨{ s with chassis := (forget { s with copies := s.copies ++ [issuedCopy s x y], nextId := s.nextId + 2 } x.c.gcore
    (x.c.key, x.slot, x.k.pc)).chassis }, rfl, ?_⟩
  exact congrArg (fun u : State => u.setCoach x.c.key (advance (copyIssued s x) x.slot 8)) h

/-- A COPY issues a copy, and changes the chassis and stream contexts alone beside it. -/
def IssuesCopy (s : State) (x : Iss) (i : Instr) (u : State) (y : Copy) : Prop :=
  u = { s with chassis := u.chassis, streams := u.streams } ∧ copyBy s x y ∧ exec i s = .next (copyGone s u x y)

theorem issuesCopy_of_issueCopy {s v : State} {x : Iss} {i : Instr} {y : Copy} (hv : v = { s with streams := v.streams })
    (hy : y.phase = 0 ∧ y.front = 0 ∧ y.done = [] ∧ y.fail = none ∧ y.windows = []) (h : exec i s = .next (issueCopy v x y)) :
    ∃ u, IssuesCopy s x i u (issuedCopy s x y) ∧ u.streams = v.streams := by
  obtain ⟨u, hu, he⟩ := issueCopy_eq v x y
  rw [hv] at hu he
  refine ⟨u, ⟨?_, ⟨rfl, rfl, rfl, rfl, rfl, rfl, rfl, rfl, hy⟩, ?_⟩, by rw [hu]⟩
  · rw [hu]
  · rw [h, hv, he]; rfl

end Sys2Proof.Machine
end

section
/-! PROOFS. SEAL, RDWP and STRM at issue (05 R124, R119, 14 R333, R334). -/

namespace Sys2Proof.Machine

open Sys2Proof.Rules

/-! ## SEAL and RDWP (05 R124, 14 R333) -/

theorem exec_sealCart {s : State} {x : Iss} (h : issuer s = some x) (d : BitVec 8) :
    exec (.sealCart d) s = .next (retire s x { writeS x.c x.k d.toNat (BitVec.ofNat 64 x.c.cart) with cart := x.c.cart + 1 } 4) :=
  byCarriage_issuer h _

theorem exec_rdwp {s : State} {x : Iss} (h : issuer s = some x) (d : BitVec 8) (k : BitVec 2) :
    exec (.rdwp d k) s = .next (retire s x (writeS x.c x.k d.toNat (writePointer s x.c k.toNat)) 4) := byCarriage_issuer h _

/-- The error bit of a write pointer stands above its count (05 R119). -/
theorem pointerWord_eq (n : Nat) (err : Bool) :
    BitVec.ofNat 64 (n % 2 ^ 63 + if err then 2 ^ 63 else 0) = BitVec.ofNat 64 (n % 2 ^ 63) ||| (if err then 1#64 <<< 63 else 0) := by
  cases err with
  | false => simp
  | true =>
    have hn : n % 2 ^ 63 < 2 ^ 63 := Nat.mod_lt _ (by decide)
    apply BitVec.eq_of_toNat_eq
    have hor : 2 ^ 63 + n % 2 ^ 63 = 2 ^ 63 ||| n % 2 ^ 63 := by simpa using Nat.two_pow_add_eq_or_of_lt hn 1
    have h63 : (1#64 <<< 63).toNat = 2 ^ 63 := by decide
    rw [if_pos rfl, if_pos rfl, BitVec.toNat_or, h63, BitVec.toNat_ofNat, BitVec.toNat_ofNat, Nat.mod_eq_of_lt (a := n % 2 ^ 63) (by omega),
      Nat.mod_eq_of_lt (by omega), Nat.or_comm, ← hor, Nat.add_comm]

theorem writePointer_eq {s : State} {c : Coach} {t : Train} (ht : trainOf s c.train = some t) (k : Nat) :
    writePointer s c k = if c.yard then (0 : W64) else
      (BitVec.ofNat 64 (((mget t.chans (4 * c.tcore + k)).getD {}).count % 2 ^ 63)
        ||| (if ((mget t.chans (4 * c.tcore + k)).getD {}).err then 1#64 <<< 63 else 0)) := by
  simp only [writePointer, ht, pointerWord_eq]

/-! ## Tags and windows (07 R165, R166) -/

/-- Some stream context holds a tag at a stop in a direction. -/
def tagTaken (s : State) (ch : Nat) (west : Bool) (t : Nat) : Prop := ∃ z ∈ s.streams, z.src = ch ∧ z.west = west ∧ z.tag = t

theorem any_tag_iff (s : State) (ch : Nat) (west : Bool) (t : Nat) :
    (s.streams.any fun z => z.src == ch && z.west == west && z.tag == t) = true ↔ tagTaken s ch west t := by
  simp [tagTaken, and_assoc]

theorem freeTag_eq_none {s : State} {ch : Nat} {west : Bool} (h : ∀ t, t < 192 → tagTaken s ch west t) : freeTag s ch west = none := by
  simp only [freeTag, List.find?_range_eq_none, Bool.not_not, any_tag_iff]
  simpa using h

theorem freeTag_eq_some {s : State} {ch : Nat} {west : Bool} {t : Nat} (ht : t < 192) (hfree : ¬tagTaken s ch west t)
    (hlow : ∀ n, n < t → tagTaken s ch west n) : freeTag s ch west = some t := by
  rw [freeTag, List.find?_range_eq_some]
  refine ⟨?_, List.mem_range.mpr ht, fun n hn => ?_⟩
  · simpa [← any_tag_iff] using hfree
  · simpa [← any_tag_iff] using hlow n hn

/-- The receiving stop has a table entry and a window of `n` bytes in a direction. -/
def windowRoom (s : State) (dst : Nat) (west : Bool) (n : Nat) : Prop :=
  (s.streams.filter fun z => z.dst == dst).length < 896
    ∧ ((s.streams.filter fun z => z.dst == dst && z.west == west).map Stream.window).sum + n ≤ 768 * 1024

theorem foldl_window_eq (zs : List Stream) : ∀ n, zs.foldl (fun n z => n + z.window) n = n + (zs.map Stream.window).sum := by
  induction zs with
  | nil => simp
  | cons z zs ih => intro n; rw [List.foldl_cons, ih, List.map_cons, List.sum_cons, Nat.add_assoc]

theorem hasWindow_iff (s : State) (dst : Nat) (west : Bool) (n : Nat) : hasWindow s dst west n = true ↔ windowRoom s dst west n := by
  have hf : (s.streams.filter fun z => z.dst == dst).filter (fun z => z.west == west)
      = s.streams.filter fun z => z.dst == dst && z.west == west := by
    rw [List.filter_filter]
    exact List.filter_congr fun z _ => Bool.and_comm ..
  simp only [hasWindow, windowRoom, hf, foldl_window_eq, Nat.zero_add, Bool.and_eq_true, decide_eq_true_eq]

/-! ## STRM (14 R334) -/

theorem exec_strm {s : State} {x : Iss} (h : issuer s = some x) (d a b : BitVec 8) (lit : W32) :
    exec (.strm d a b lit) s = .next (if strmReserved x a b lit then literalTrap s x x.k.lanes
      else if bitOf lit.toNat 0 then strmClose s x d lit else strmOpen s x d a b lit) := byCarriage_issuer h _

section operands
variable {s : State} {x : Iss} (h : issuer s = some x) {a b : BitVec 8} {lit : W32}
include h

theorem exec_strm_reserved (d : BitVec 8) (hr : strmReserved x a b lit = true) : exec (.strm d a b lit) s = .next (literalTrap s x x.k.lanes) := by
  rw [exec_strm h, if_pos hr]

theorem exec_strm_close (d : BitVec 8) (hr : strmReserved x a b lit = false) (hbit : lit.toNat % 2 = 1) :
    exec (.strm d a b lit) s = .next (strmClose s x d lit) := by
  rw [exec_strm h, if_neg (by simp [hr]), if_pos (by simp [bitOf_zero, hbit])]

theorem exec_strm_open (d : BitVec 8) (hr : strmReserved x a b lit = false) (hbit : lit.toNat % 2 = 0) :
    exec (.strm d a b lit) s = .next (strmOpen s x d a b lit) := by
  rw [exec_strm h, if_neg (by simp [hr]), if_neg (by simp [bitOf_zero, hbit])]

end operands

/-- The way of a STRM open goes over a hop that retrains (07 R176). -/
def Barred (s : State) (a b : Nat) : Prop := reachable s a b = true ∧ pathOpen s a b = false

/-- The direction of a stream toward the chassis that a STRM names. -/
def strmWest (s : State) (x : Iss) (lit : W32) : Bool := !goesEast s x.c.ch (field lit.toNat 4 1)

/-- The stream context that a STRM opens with a tag. -/
def openedStream (s : State) (x : Iss) (a b : BitVec 8) (lit : W32) (t : Nat) : Stream :=
  let w := lit.toNat
  { id := s.nextId, train := x.c.train, src := x.c.ch, dst := field w 4 1, west := strmWest s x lit, tag := t, vmid := x.c.vmid.toNat
    pasid := x.c.pasid.toNat, window := 256 * field w 21 13, srcKind := field w 10 9, srcCore := field w 12 11
    srcBase := sreg x a.toNat 0, srcLen := (sreg x a.toNat 1).toNat, srcRows := (sreg x a.toNat 2).toNat, srcStride := sreg x a.toNat 3
    dstKind := field w 6 5, dstCore := field w 8 7, dstBase := sreg x b.toNat 0, dstLen := (sreg x b.toNat 1).toNat
    dstRows := (sreg x b.toNat 2).toNat, dstStride := sreg x b.toNat 3 }

theorem openedStream_fields (s : State) (x : Iss) (a b : BitVec 8) (lit : W32) (t : Nat) :
    streamFields x a b lit (openedStream s x a b lit t) := by
  unfold streamFields openedStream
  simp only [and_self]

/-- A STRM ends with a status. -/
def strmGives (s : State) (x : Iss) (d : BitVec 8) (v : W64) : State := retire s x (writeS x.c x.k d.toNat v) 8

section opening
variable {s : State} {x : Iss} {lit : W32} (d a b : BitVec 8)

theorem strmOpen_own (h : field lit.toNat 4 1 = x.c.ch) : strmOpen s x d a b lit = strmGives s x d (strmStatus 2 0 (strmWest s x lit)) :=
  if_pos h

variable (hne : field lit.toNat 4 1 ≠ x.c.ch)
include hne

theorem strmOpen_barred (h : Barred s x.c.ch (field lit.toNat 4 1)) : strmOpen s x d a b lit = stall s x .resource := by
  obtain ⟨hr, hp⟩ := h
  refine (if_neg hne).trans (if_pos ?_)
  change (reachable s x.c.ch (field lit.toNat 4 1) && !pathOpen s x.c.ch (field lit.toNat 4 1)) = true
  rw [hr, hp]; rfl

variable (hopen : ¬Barred s x.c.ch (field lit.toNat 4 1))
include hopen

/-- Where the way is open, tags and windows decide (07 R165, R166). -/
theorem strmOpen_of_open : strmOpen s x d a b lit = match freeTag s x.c.ch (strmWest s x lit) with
    | none => strmGives s x d (strmStatus 1 0 (strmWest s x lit))
    | some t =>
      if !hasWindow s (field lit.toNat 4 1) (strmWest s x lit) (256 * field lit.toNat 21 13) then
        strmGives s x d (strmStatus 2 0 (strmWest s x lit))
      else strmGives { s with nextId := s.nextId + 1, streams := s.streams ++ [openedStream s x a b lit t] } x d
        (strmStatus 0 t (strmWest s x lit)) := by
  refine (if_neg hne).trans (if_neg fun h => hopen ?_)
  obtain ⟨hr, hp⟩ := Bool.and_eq_true_iff.mp h
  exact ⟨hr, (Bool.not_eq_true' _).mp hp⟩

theorem strmOpen_no_tag (h : ∀ t, t < 192 → tagTaken s x.c.ch (strmWest s x lit) t) :
    strmOpen s x d a b lit = strmGives s x d (strmStatus 1 0 (strmWest s x lit)) := by
  rw [strmOpen_of_open d a b hne hopen, freeTag_eq_none h]

variable {t : Nat} (ht : t < 192) (hfree : ¬tagTaken s x.c.ch (strmWest s x lit) t) (hlow : ∀ n, n < t → tagTaken s x.c.ch (strmWest s x lit) n)
include ht hfree hlow

theorem strmOpen_no_window (h : ¬windowRoom s (field lit.toNat 4 1) (strmWest s x lit) (256 * field lit.toNat 21 13)) :
    strmOpen s x d a b lit = strmGives s x d (strmStatus 2 0 (strmWest s x lit)) := by
  rw [← hasWindow_iff, Bool.not_eq_true] at h
  rw [strmOpen_of_open d a b hne hopen, freeTag_eq_some ht hfree hlow]
  simp only [h, Bool.not_false, if_true]

theorem strmOpen_opens (h : windowRoom s (field lit.toNat 4 1) (strmWest s x lit) (256 * field lit.toNat 21 13)) :
    strmOpen s x d a b lit = strmGives { s with nextId := s.nextId + 1, streams := s.streams ++ [openedStream s x a b lit t] } x d
      (strmStatus 0 t (strmWest s x lit)) := by
  rw [← hasWindow_iff] at h
  rw [strmOpen_of_open d a b hne hopen, freeTag_eq_some ht hfree hlow]
  simp only [h, Bool.not_true, Bool.false_eq_true, if_false]

end opening

theorem strmClose_none {s : State} {x : Iss} {lit : W32} (d : BitVec 8)
    (h : streamOf s x.c.train (field lit.toNat 8 1) (lit.toNat.testBit 9) = none) : strmClose s x d lit = strmGives s x d 3 := by
  rw [← bitOf_eq_testBit] at h
  change streamOf s x.c.train (bitsOf lit.toNat 8 1) (bitOf lit.toNat 9) = none at h
  simp only [strmClose, h]
  rfl

theorem strmClose_some {s : State} {x : Iss} {lit : W32} {z : Stream} (d : BitVec 8)
    (h : streamOf s x.c.train (field lit.toNat 8 1) (lit.toNat.testBit 9) = some z) :
    strmClose s x d lit = strmGives
      { s with streams := updFirst (fun v => v.id == z.id) (fun v => { v with closing := true }) s.streams } x d 0 := by
  rw [← bitOf_eq_testBit] at h
  change streamOf s x.c.train (bitsOf lit.toNat 8 1) (bitOf lit.toNat 9) = some z at h
  simp only [strmClose, h]
  rfl

end Sys2Proof.Machine
end

section
/-! PROOFS. CFLUSH, CINV and CHINT at issue (04 R103, 14 R335), and the statement of the copy and cache instructions. -/

namespace Sys2Proof.Machine

open Sys2Proof.Rules

/-! ## CFLUSH and CINV (14 R335) -/

/-- An instruction of cache maintenance, with the kind of its operation. -/
def Maintains (a b : BitVec 8) (i : Instr) (kind : OpKind) : Prop := (i = .cflush a b ∧ kind = .cflush) ∨ (i = .cinv a b ∧ kind = .cinv)

/-- The trap of every lane for a range that maintenance cannot name. -/
def rangeTrap (v : W64) : LaneTrap := { lane := 0, cause := 7, addr := v, kind := 1 }

/-- The access of a maintenance to one line. -/
def linePiece (l : Nat × Nat) : Piece := { lane := 32, addr := l.2, va := BitVec.ofNat 64 l.1, size := 128 }

/-- A carriage with a maintenance of some lines outstanding. -/
def lineIssued (s : State) (x : Iss) (kind : OpKind) (lines : List (Nat × Nat)) : Coach :=
  { x.c with
    ops := x.c.ops ++ [{ opBy x .st kind with id := x.c.nextOp, stamp := s.nextId, cart := x.c.cart, lanes := x.k.lanes
                                              pieces := lines.map linePiece }]
    nextOp := x.c.nextOp + 1
    last := s.nextId + 1 }

/-- The lanes of a maintenance are those of its carriage. -/
theorem opOfIss_lines (x : Iss) (kind : OpKind) {lines : List (Nat × Nat)} (h : lines ≠ []) :
    opOfIss x .st kind (lines.map linePiece) = { opBy x .st kind with lanes := x.k.lanes, pieces := lines.map linePiece } := by
  have hany : (lines.map linePiece).any (·.lane == 32) = true := by
    obtain ⟨l, ls, rfl⟩ := List.exists_cons_of_ne_nil h
    rfl
  simp only [opOfIss, hany, if_true]
  rfl

/-- The pages of a maintenance's range. -/
def maintRange (x : Iss) (a b : BitVec 8) : SMap Nat := pagesOf (readS x.c x.k a.toNat) [(0, (readS x.c x.k b.toNat).toNat)]

/-- The lines of a maintenance whose pages are translated. -/
def maintLines (x : Iss) (a b : BitVec 8) (ps : PageMap) : List (Nat × Nat) :=
  linesOf (readS x.c x.k a.toNat).toNat (readS x.c x.k b.toNat).toNat (maintPages ps)

/-- The machine that has forgotten the walks that an instruction waited for. -/
def forgotten (s : State) (x : Iss) : State := forget s x.c.gcore (x.c.key, x.slot, x.k.pc)

theorem keepsCaches_forgotten (s : State) (x : Iss) : KeepsCaches s (forgotten s x) := .forget ..

/-- What a maintenance does with translated pages. -/
def maintTranslated (s : State) (x : Iss) (a b : BitVec 8) (kind : OpKind) (ps : PageMap) : State :=
  match maintBad ps with
  | some v => trapAll s x 4 (rangeTrap (BitVec.ofNat 64 ((mget (maintRange x a b) v).getD 0)))
  | none =>
    let op := issueOp (forgotten s x) x.c (opOfIss x .st kind ((maintLines x a b ps).map linePiece))
    if ((maintLines x a b ps).map linePiece).isEmpty then retire (forgotten s x) x x.c 4 else retire op.1 x op.2 4

theorem maintTranslated_bad {s : State} {x : Iss} {a b : BitVec 8} {ps : PageMap} {v m : Nat} (kind : OpKind) (h : maintBad ps = some v)
    (hv : mget (maintRange x a b) v = some m) : maintTranslated s x a b kind ps = trapAll s x 4 (rangeTrap (BitVec.ofNat 64 m)) := by
  rw [maintTranslated, h]
  simp only [hv, Option.getD_some]

theorem maintTranslated_no_lines {s : State} {x : Iss} {a b : BitVec 8} {ps : PageMap} (kind : OpKind) (h : maintBad ps = none)
    (hn : maintLines x a b ps = []) : maintTranslated s x a b kind ps = retire (forgotten s x) x x.c 4 := by
  rw [maintTranslated, h, hn]
  rfl

theorem maintTranslated_lines {s : State} {x : Iss} {a b : BitVec 8} {ps : PageMap} (kind : OpKind) (h : maintBad ps = none)
    (hn : maintLines x a b ps ≠ []) :
    maintTranslated s x a b kind ps = retire { forgotten s x with nextId := s.nextId + 1 } x (lineIssued s x kind (maintLines x a b ps)) 4 := by
  have hne : ((maintLines x a b ps).map linePiece).isEmpty = false := by simp [hn]
  rw [maintTranslated, h]
  simp only [hne, Bool.false_eq_true, if_false, opOfIss_lines x kind hn, issueOp, (keepsCaches_forgotten s x).nextId]
  rfl

/-- A page lies beyond the addresses of 56 bits, as the model and as the statement say it. -/
theorem find?_high (ms : List Nat) : (ms.find? fun m => m / 2 ^ 56 != 0) = ms.find? fun m => decide (2 ^ 56 ≤ m) := by
  congr 1
  funext m
  rw [Bool.eq_iff_iff]
  simp only [bne_iff_ne, ne_eq, Nat.div_eq_zero_iff, decide_eq_true_eq]
  omega

section maintenance
variable {s : State} {x : Iss} (h : issuer s = some x) {a b : BitVec 8} {i : Instr} {kind : OpKind} (hi : Maintains a b i kind)
include h hi

/-- The checks of CFLUSH and CINV, in their order. -/
theorem exec_maintain : exec i s = .next (
    if 2 ^ 24 < (readS x.c x.k b.toNat).toNat then trapAll s x 4 (rangeTrap (readS x.c x.k a.toNat))
    else if (readS x.c x.k b.toNat).toNat = 0 then retire s x x.c 4
    else match (mvals (maintRange x a b)).find? fun m => m / 2 ^ 56 != 0 with
      | some m => trapAll s x 4 (rangeTrap (BitVec.ofNat 64 m))
      | none => (paged s (askerOf x.c x.slot x.k) x.k.pages .read (mvals (maintRange x a b))).elim (trapAll s x 4) (stallPaged s x)
          fun ps _ => maintTranslated s x a b kind ps) := by
  have he : exec i s = maintain s a b kind := by obtain ⟨rfl, rfl⟩ | ⟨rfl, rfl⟩ := hi <;> rfl
  rw [he, maintain, byCarriage_issuer h]
  rfl

theorem exec_maintain_none (hn : (readS x.c x.k b.toNat).toNat = 0) : exec i s = .next (retire s x x.c 4) := by
  rw [exec_maintain h hi, if_neg (by omega), if_pos hn]

theorem exec_maintain_long (hn : 2 ^ 24 < (readS x.c x.k b.toNat).toNat) :
    exec i s = .next (trapAll s x 4 (rangeTrap (readS x.c x.k a.toNat))) := by
  rw [exec_maintain h hi, if_pos hn]

variable (hn : 0 < (readS x.c x.k b.toNat).toNat) (hm : (readS x.c x.k b.toNat).toNat ≤ 2 ^ 24)
include hn hm

theorem exec_maintain_high {m : Nat} (hf : ((mvals (maintRange x a b)).find? fun m => decide (2 ^ 56 ≤ m)) = some m) :
    exec i s = .next (trapAll s x 4 (rangeTrap (BitVec.ofNat 64 m))) := by
  rw [exec_maintain h hi, if_neg (by omega), if_neg (by omega), find?_high, hf]

theorem exec_maintain_low (hf : ∀ m ∈ mvals (maintRange x a b), m < 2 ^ 56) : exec i s = .next
    ((paged s (askerOf x.c x.slot x.k) x.k.pages .read (mvals (maintRange x a b))).elim (trapAll s x 4) (stallPaged s x)
      fun ps _ => maintTranslated s x a b kind ps) := by
  have hnone : ((mvals (maintRange x a b)).find? fun m => decide (2 ^ 56 ≤ m)) = none :=
    List.find?_eq_none.mpr fun m hm => by simpa using hf m hm
  rw [exec_maintain h hi, if_neg (by omega), if_neg (by omega), find?_high, hnone]

end maintenance

/-! ## CHINT (04 R103, 14 R335) -/

theorem homeByte_congr {s u : State} (hd : u.dram = s.dram)
    (hc : ∀ ln, (cacheLine u ln).map CacheLine.bytes = (cacheLine s ln).map CacheLine.bytes) (a : Nat) : homeByte u a = homeByte s a := by
  have hb : ((cacheLine u (lineOf a)).bind fun l => mget l.bytes (a % 128)) = (cacheLine s (lineOf a)).bind fun l => mget l.bytes (a % 128) := by
    have := congrArg (fun o : Option (RMap 8) => o.bind fun m => mget m (a % 128)) (hc (lineOf a))
    simpa only [Option.bind_map, Function.comp_def] using this
  rw [homeByte, homeByte, hb, hd]

/-- A hint changes the priority of its line and nothing else. -/
theorem hintLine_rest (s : State) (ln hint : Nat) : hintLine s ln hint = { s with chassis := (hintLine s ln hint).chassis } := by
  unfold hintLine
  split <;> rfl

theorem cacheLine_hintLine (s : State) (ln hint j : Nat) : cacheLine (hintLine s ln hint) j
    = if j = ln then (cacheLine s ln).map fun l => { l with prio := hinted l.prio hint } else cacheLine s j := by
  unfold hintLine
  split
  · next l hl => rw [cacheLine_setLine, hl]; rfl
  · next hl =>
    split
    · next hj => rw [hj, hl]; rfl
    · rfl

theorem homeByte_hintLine (s : State) (ln hint a : Nat) : homeByte (hintLine s ln hint) a = homeByte s a := by
  refine homeByte_congr (by rw [hintLine_rest]) (fun j => ?_) a
  rw [cacheLine_hintLine]
  split
  · next hj => rw [hj, Option.map_map]; rfl
  · rfl

theorem KeepsCaches.onlyIssued_hintLine {s u : State} (h : KeepsCaches s u) (ln hint : Nat) : Rules.onlyIssued s (hintLine u ln hint) := by
  obtain ⟨hu, hb⟩ := h.onlyIssued
  refine ⟨?_, fun a => (homeByte_hintLine ..).trans (hb a)⟩
  have hn : (hintLine u ln hint).nextId = u.nextId := by rw [hintLine_rest]
  rw [hn]
  exact (hintLine_rest u ln hint).trans (congrArg (fun t : State => { t with chassis := (hintLine u ln hint).chassis }) hu)

theorem hinted_bitVec (prio : Nat) (h : BitVec 2) : hinted prio h.toNat = if h = 3 then 1 else if prio = 2 then 2 else h.toNat := by
  have h3 : h.toNat = 3 ↔ h = 3 := (BitVec.toNat_inj (y := 3#2))
  simp only [hinted, h3]

/-- Where its address has translated, CHINT hints its line, if it has one in local memory. -/
theorem exec_chint {s : State} {x : Iss} {a : BitVec 8} {pa : Nat} {t : Attr} (h : issuer s = some x) (hint : BitVec 2)
    (hx : translate s (askerOf x.c x.slot x.k) .read (readS x.c x.k a.toNat) = .pa pa t) :
    exec (.chint a hint) s = .next (match resolve pa with
      | some w => retire (hintLine (forgotten s x) (lineOf w.wa) hint.toNat) x x.c 4
      | none => retire s x x.c 4) := by
  refine (byCarriage_issuer h _).trans ?_
  rw [hx]
  rfl

end Sys2Proof.Machine
end

section
/-! PROOFS. The copy and cache instructions complete, wait or trap (05 R113 to R117, R124, 14 R331 to R335). -/

namespace Sys2Proof.Machine

open Sys2Proof.Rules

/-! ## COPY -/

theorem issuedCopy_plain (s : State) (x : Iss) (t : Train) (f : CopyLit) (plan : CopyPlan) (dv sv : W64) (sp dp : PageMap) :
    let y := issuedCopy s x (plainCopy x t f plan dv sv sp dp)
    y.chan = 4 * copyTc x.c f + f.chan ∧ y.core = t.cores.getD (copyTc x.c f) x.c.core ∧ y.form = plan.form ∧ y.len = plan.len
      ∧ y.total = plan.total ∧ y.skip = 0 ∧ y.spages = sp ∧ y.dpages = dp
      ∧ y.src = endOfCopy f.sk f.stc sv ∧ y.dst = endOfCopy f.dk f.dtc dv :=
  ⟨rfl, rfl, rfl, rfl, rfl, rfl, rfl, rfl, rfl, rfl⟩

/-- Settles O50, clause by clause: each instruction at issue is one equation of the model (`copyPlain_of_inside`, `copyStream_of_inside`,
`strmOpen_opens`, `exec_maintain_low`, …), read as a result, a trap of every lane or a wait for walks. -/
theorem copyInstructionsComplete : Obligations.CopyInstructionsComplete := by
  unfold Obligations.CopyInstructionsComplete
  intro s x hx hl gives trapsWith waits
  refine ⟨?fault, ?copy, ?sealing, ?rdwp, ?strm, ?maintenance, ?hint⟩
  case fault =>
    intro dst v n f h0 hpage hv hk hf
    exact ⟨_, checkCopyEnd_fault h0 hpage hv hk hf, rfl, rfl, rfl, rfl, rfl⟩
  case copy =>
    intro d a b lit w p i dk tc dv sv issues
    have hexec : exec i s = .next (copyStep s x d a b lit) := exec_copy hx d a b lit
    refine ⟨fun hr => ?reserved, fun hbit hz => ?unnamed, fun hr hp => ?limit, fun plan t hr hp ht =>
      ⟨?shape, fun hbit => ⟨?outside, ?checks, ?issued⟩, ?stream⟩⟩
    case reserved => exact carriageTraps_of_literalTrap hl (hexec.trans (by rw [copyStep_of_reserved b hr]))
    case unnamed =>
      exact carriageTraps_of_literalTrap hl (hexec.trans (by rw [copyStep_of_reserved b (copyReserved_of_no_stream d a hbit hz)]))
    case limit =>
      have hplan : copyPlan (copyLit lit) p = none := by simpa [copyShape_eq_copyPlan] using hp
      rw [copyStep_of_no_plan hr hplan] at hexec
      exact carriageTraps_of_invalid hl hexec
    case shape => rw [copyShape_eq_copyPlan, hp]; rfl
    case outside =>
      intro v hv
      rw [copyStep_of_plain hr hp ht hbit, copyPlain_of_outside hv] at hexec
      exact carriageTraps_of_window hl hexec
    case checks =>
      intro hb src dst
      rw [copyStep_of_plain hr hp ht hbit, copyPlain_of_inside hb] at hexec
      obtain ⟨htrap, hmiss⟩ := ends_of_paged id hl (r := src) hexec
      refine ⟨htrap, hmiss, fun sp ks h => ?_⟩
      have hsrc : checkCopyEnd s x false (copyLit lit).sk (readS x.c x.k a.toNat) plan.src plan.align = .ok sp ks := h
      rw [hsrc] at hexec
      exact ends_of_paged (fun ks' => ks ++ ks') hl (r := dst) hexec
    case issued =>
      intro sp dp ks kd hb hsrc hdst
      rw [copyStep_of_plain hr hp ht hbit, copyPlain_of_inside hb] at hexec
      change checkCopyEnd s x false (copyLit lit).sk (readS x.c x.k a.toNat) plan.src plan.align = .ok sp ks at hsrc
      change checkCopyEnd s x true (copyLit lit).dk (readS x.c x.k d.toNat) plan.dst 1 = .ok dp kd at hdst
      rw [hsrc, Paged.elim, hdst, Paged.elim] at hexec
      obtain ⟨u, hu, hz⟩ := issuesCopy_of_issueCopy rfl ⟨rfl, rfl, rfl, rfl, rfl⟩ hexec
      exact ⟨u, _, hu, hz, issuedCopy_plain ..⟩
    case stream =>
      intro z sp ks hbit hz rows src
      rw [copyStep_of_stream hr hp ht hbit hz] at hexec
      refine ⟨fun v hk hv => ?_, fun hin => ?_⟩
      · rw [copyStream_of_outside _ hk hv] at hexec
        exact carriageTraps_of_window hl hexec
      · rw [copyStream_of_inside _ hin] at hexec
        obtain ⟨htrap, hmiss⟩ := ends_of_paged id hl (r := src) hexec
        refine ⟨htrap, hmiss, fun h => ?_⟩
        have hsrc : checkCopyEnd s x false z.srcKind z.srcBase (z.rowsFor plan.total) 1 = .ok sp ks := h
        rw [hsrc, Paged.elim] at hexec
        obtain ⟨u, hu, hz⟩ := issuesCopy_of_issueCopy (v := claimed s z plan.total) rfl ⟨rfl, rfl, rfl, rfl, rfl⟩ hexec
        exact ⟨u, _, hu, hz, rfl, rfl, rfl, rfl, rfl, rfl⟩
  case sealing =>
    exact fun d => ⟨writeS x.c x.k d.toNat (BitVec.ofNat 64 x.c.cart), exec_sealCart hx d, scalarWritten_writeS ..⟩
  case rdwp =>
    intro d k t ht
    exact gives_of_retire ((exec_rdwp hx d k).trans (by rw [writePointer_eq ht]))
  case strm =>
    intro d a b lit w i west here used window taken room barred w16
    refine ⟨fun hr => ?reserved, fun hr hbit => ?opening, fun hr hbit => ?closing⟩
    case reserved => exact carriageTraps_of_literalTrap hl (exec_strm_reserved hx d hr)
    case opening =>
      have hexec := exec_strm_open hx d hr hbit
      refine ⟨fun hown => ?own, fun hne hb => ?barred, fun hne hb hfull => ?full,
        fun t ht hne hb hfree hlow => ⟨fun hroom => ?narrow, fun hroom => ?opened⟩⟩
      case own => exact gives_of_retire (hexec.trans (by rw [strmOpen_own d a b hown]; rfl))
      case barred =>
        rw [strmOpen_barred d a b hne hb, stall_issuer hx] at hexec
        exact hexec
      case full => exact gives_of_retire (hexec.trans (by rw [strmOpen_no_tag d a b hne hb hfull]; rfl))
      case narrow => exact gives_of_retire (hexec.trans (by rw [strmOpen_no_window d a b hne hb ht hfree hlow hroom]; rfl))
      case opened =>
        rw [strmOpen_opens d a b hne hb ht hfree hlow hroom] at hexec
        refine ⟨openedStream s x a b lit t, rfl, rfl, rfl, openedStream_fields .., gives_of_retire (hexec.trans ?_)⟩
        rw [strmStatus, Nat.zero_add]
        rfl
    case closing =>
      have hexec := exec_strm_close hx d hr hbit
      refine ⟨fun hz => ?_, fun z hz => ?_⟩
      · rw [strmClose_none d hz] at hexec
        exact gives_of_retire hexec
      · rw [strmClose_some d hz] at hexec
        exact gives_of_retire hexec
  case maintenance =>
    intro a b i kind hi va n
    refine ⟨exec_maintain_none hx hi, fun hn => ?long, fun hn hm => ⟨fun m hf => ?high, fun hf => ?low⟩,
      fun ps ks hn hm hf hps hbad => ?done⟩
    case long => exact carriageTraps_of_invalid hl (exec_maintain_long hx hi hn)
    case high => exact carriageTraps_of_invalid hl (exec_maintain_high hx hi hn hm hf)
    case low =>
      have hexec := exec_maintain_low hx hi hn hm hf
      obtain ⟨htrap, hmiss⟩ := ends_of_paged id hl (go := fun ps _ => maintTranslated s x a b kind ps) hexec
      refine ⟨htrap, hmiss, fun ps ks v m hps hbad hv => ?_⟩
      have hok : paged s (askerOf x.c x.slot x.k) x.k.pages .read (mvals (maintRange x a b)) = .ok ps ks := hps
      rw [hok, Paged.elim, maintTranslated_bad kind hbad hv] at hexec
      exact carriageTraps_of_invalid hl hexec
    case done =>
      have hexec := exec_maintain_low hx hi hn hm hf
      have hok : paged s (askerOf x.c x.slot x.k) x.k.pages .read (mvals (maintRange x a b)) = .ok ps ks := hps
      have hkeep := keepsCaches_forgotten s x
      rw [hok, Paged.elim] at hexec
      by_cases hnil : maintLines x a b ps = []
      · rw [maintTranslated_no_lines kind hbad hnil] at hexec
        exact ⟨forgotten s x, x.c, hkeep.onlyIssued, hexec, rfl, fun _ => ⟨rfl, hkeep.nextId⟩, fun hne => absurd hnil hne⟩
      · rw [maintTranslated_lines kind hbad hnil] at hexec
        exact ⟨_, _, hkeep.onlyIssued_next _, hexec, rfl, fun hn => absurd hn hnil, fun _ => ⟨rfl, rfl, rfl, rfl⟩⟩
  case hint =>
    intro a h pa t hx'
    have hexec := exec_chint hx h hx'
    have hkeep := keepsCaches_forgotten s x
    cases hr : resolve pa with
    | none =>
      rw [hr] at hexec
      exact ⟨s, hexec, (KeepsCaches.refl s).onlyIssued, rfl, fun _ _ he => absurd he (by simp)⟩
    | some w =>
      rw [hr] at hexec
      refine ⟨_, hexec, hkeep.onlyIssued_hintLine _ _, ?_, ?_⟩
      · rw [hintLine_rest]
        exact hkeep.nextId
      · intro home l he hline
        cases he
        rw [cacheLine_hintLine, if_pos rfl, hkeep.line, hline, Option.map_some, hinted_bitVec]

end Sys2Proof.Machine
end

section
/-! PROOFS. What a read or a write from outside does at the home of a sector (03 R69, R71, 04 R100, R101, R107, 06 R157, R158): the bytes that are
asked for, and memory afterwards. -/

namespace Sys2Proof.Machine

open Sys2Proof.Rules

/-! ## The ring and the owners of lines after a step of the caches -/

section ring
variable {s u : State} (h : UnitStep s u)
include h

theorem UnitStep.switching : u.switching = s.switching := show u.bare.switching = s.bare.switching by rw [h.bare]

theorem UnitStep.routeDown (a b : Nat) (east : Bool) : routeDown u a b east = routeDown s a b east := by
  simp only [Machine.routeDown, hopIsDown, h.chassis_field Chassis.east (fun _ => rfl)]

theorem UnitStep.reachable (a b : Nat) : reachable u a b = reachable s a b := by simp only [Machine.reachable, h.routeDown]

theorem UnitStep.goesEast (a b : Nat) : goesEast u a b = goesEast s a b := by simp only [Machine.goesEast, h.routeDown]

theorem UnitStep.pathOpen (a b : Nat) : pathOpen u a b = pathOpen s a b := by
  simp only [Machine.pathOpen, routeHops, h.goesEast, h.chassis_field Chassis.east (fun _ => rfl), h.switching]

theorem UnitStep.recallOpen (ln g : Nat) : recallOpen u ln g = recallOpen s ln g := by
  simp only [Machine.recallOpen, h.pathOpen, h.reachable]

end ring

/-- No home records an owner that it did not record before. -/
def OwnersShrink (s u : State) : Prop := ∀ ln g, lineOwner u ln = some g → lineOwner s ln = some g

theorem OwnersShrink.refl (s : State) : OwnersShrink s s := fun _ _ h => h

theorem OwnersShrink.trans {s t u : State} (h : OwnersShrink s t) (k : OwnersShrink t u) : OwnersShrink s u := fun ln g hg => h ln g (k ln g hg)

theorem OwnersShrink.of_same {s u : State} (h : SameCaches s u) : OwnersShrink s u := fun ln _ hg => h.lineOwner ln ▸ hg

/-- One line takes another form, with the owner it had or none. -/
theorem OwnersShrink.of_line {s u : State} {ln : Nat} {l : CacheLine}
    (hline : ∀ j, cacheLine u j = if j = ln then some l else cacheLine s j) (hl : ∀ g, l.owner = some g → lineOwner s ln = some g) :
    OwnersShrink s u := by
  intro j g hg
  rw [lineOwner, hline] at hg
  split at hg
  · next e => subst e; exact hl g hg
  · exact hg

theorem OwnersShrink.setLine {s t : State} {ln : Nat} {l : CacheLine} (h : ∀ j, cacheLine t j = cacheLine s j)
    (hl : ∀ g, l.owner = some g → lineOwner s ln = some g) : OwnersShrink s (setLine t ln l) :=
  .of_line (fun j => by rw [cacheLine_setLine, h]) hl

theorem OwnersShrink.recallLine (s : State) (ln : Nat) : OwnersShrink s (recallLine s ln) := by
  unfold Machine.recallLine
  split
  · exact .refl s
  · split
    · exact .refl s
    · split
      · exact .refl s
      · dsimp only
        refine .setLine (fun j => ?_) fun g hg => absurd hg (by simp)
        split
        · exact cacheLine_setCoreG ..
        · rw [(SameCaches.clearScan _ _).line, cacheLine_setCoreG]

theorem OwnersShrink.touch (s : State) (ln : Nat) : OwnersShrink s (touch s ln) := by
  cases hl : cacheLine s ln with
  | none => rw [Machine.touch, hl]; exact .refl s
  | some l =>
    obtain ⟨n, -, hline, -⟩ := touch_line hl
    exact .of_line hline fun g hg => lineOwner_eq_some.mpr ⟨l, hl, hg⟩

theorem RecallFree.step {s u : State} {ln : Nat} (hf : RecallFree s ln) (h : UnitStep s u) (ho : OwnersShrink s u) : RecallFree u ln :=
  fun g hg => (h.recallOpen ln g).trans (hf g (ho ln g hg))

/-- A step at a home: it changes caches and cells alone, keeps the caches coherent, and gives no line an owner. -/
structure HomeStep (s u : State) : Prop extends UnitStep s u where
  coherent : coherent u
  owners : OwnersShrink s u

theorem HomeStep.refl {s : State} (hc : Rules.coherent s) : HomeStep s s := ⟨.refl s, hc, .refl s⟩

theorem HomeStep.trans {s t u : State} (h : HomeStep s t) (k : HomeStep t u) : HomeStep s u :=
  ⟨h.toUnitStep.trans k.toUnitStep, k.coherent, h.owners.trans k.owners⟩

theorem CacheStep.homeStep {s u : State} (h : CacheStep s u) (ho : OwnersShrink s u) : HomeStep s u := ⟨h.toUnitStep, h.keeps_coherent, ho⟩

/-- The home of a line takes an access and can have the line back from its owner. -/
structure LineOpen (s : State) (ln : Nat) : Prop where
  ready : LineReady s ln
  frees : RecallFree s ln

theorem LineOpen.step {s u : State} {ln : Nat} (h : LineOpen s ln) (k : HomeStep s u) : LineOpen u ln :=
  ⟨h.ready.step k.toUnitStep, h.frees.step k.toUnitStep k.owners⟩

/-! ## Reads that allocate no line -/

/-- The cells and their errors are as before. -/
structure CellsKept (s u : State) : Prop where
  dram : u.dram = s.dram
  flaws : u.flaws = s.flaws

/-- A step of the caches that leaves the cells alone and gives no line an owner. -/
structure ReadStep (s u : State) : Prop extends CacheStep s u where
  owners : OwnersShrink s u
  cells : CellsKept s u

/-- A read at the home of a line that allocates none. -/
structure OutsideRead (s u : State) (ln : Nat) : Prop extends HomeRead s u ln, ReadStep s u

theorem CellsKept.trans {s t u : State} (h : CellsKept s t) (k : CellsKept t u) : CellsKept s u := ⟨k.dram.trans h.dram, k.flaws.trans h.flaws⟩

theorem ReadStep.refl {s : State} (hc : coherent s) : ReadStep s s := ⟨.refl hc, .refl s, ⟨rfl, rfl⟩⟩

theorem ReadStep.trans {s t u : State} (h : ReadStep s t) (k : ReadStep t u) : ReadStep s u :=
  ⟨h.toCacheStep.trans k.toCacheStep, h.owners.trans k.owners, h.cells.trans k.cells⟩

theorem CellsKept.recallLine (s : State) (ln : Nat) : CellsKept s (recallLine s ln) := by
  unfold Machine.recallLine
  split
  · exact ⟨rfl, rfl⟩
  · split
    · exact ⟨rfl, rfl⟩
    · split
      · exact ⟨rfl, rfl⟩
      · dsimp only
        split <;> exact ⟨rfl, rfl⟩

theorem CellsKept.touch (s : State) (ln : Nat) : CellsKept s (touch s ln) := by unfold Machine.touch; split <;> exact ⟨rfl, rfl⟩

theorem OutsideRead.recallLine {s : State} {ln : Nat} (hc : coherent s) (hf : RecallFree s ln) : OutsideRead s (recallLine s ln) ln :=
  ⟨.recallLine hc hf, .recallLine s ln, .recallLine s ln⟩

section outsideRead
variable {s t : State} {ln : Nat} (h : OutsideRead s t ln)
include h

theorem OutsideRead.touch : OutsideRead s (touch t ln) ln :=
  ⟨h.toHomeRead.touch, h.owners.trans (.touch t ln), h.cells.trans (.touch t ln)⟩

theorem OutsideRead.same {u : State} (hu : UnitStep t u) (hc : SameCaches t u) (hf : u.flaws = t.flaws) : OutsideRead s u ln :=
  ⟨h.toHomeRead.same hu hc, h.owners.trans (.of_same hc), h.cells.trans ⟨hc.dram, hf⟩⟩

theorem OutsideRead.fillSectors (hl : (cacheLine t ln).isSome = true) (was : List Nat) (prio : Nat) :
    OutsideRead s (fillSectors t ln was prio) ln := by
  obtain ⟨hread, -⟩ := h.toHomeRead.fillSectors (.inl hl) was prio
  refine ⟨hread, ?_, ?_⟩
  · have hs := hread.owner
    rw [fillSectors_eq (.inl hl)] at hs ⊢
    refine h.owners.trans (.setLine (fun _ => rfl) fun g hg => ?_)
    rw [lineOwner, cacheLine_setLine, if_pos rfl] at hs
    exact absurd (hs.symm.trans hg) (by simp)
  · rw [fillSectors_eq (.inl hl)]
    exact h.cells.trans ⟨rfl, rfl⟩

end outsideRead

theorem enterUnit_flaws {s : State} {a : Nat} (h : bankFree s a) : (enterUnit s a).flaws = s.flaws := by rw [enterUnit_eq h]; rfl

/-- What the unit makes of a sector that it reads without an error. -/
theorem LineReady.readSector_eq {s : State} {ln a : Nat} (h : LineReady s ln) (ha : lineOf a = ln) (kind : Nat) (rewrites : Bool) :
    Machine.readSector s a kind rewrites = (none, enterUnit s a) := by
  have hr := h.step (enterUnit_free (h.bank a ha)).1
  simp only [Machine.readSector, h.buses a, Bool.false_eq_true, if_false, meetError_clean hr.ecc, hr.clean a ha]

theorem LineReady.flaws_readSectorsAt {s : State} {ln : Nat} (h : LineReady s ln) (kind : Nat) (rewrites : Bool) (was : List Nat)
    (hw : ∀ a ∈ was, lineOf a = ln) : (Machine.readSectorsAt kind rewrites s was).2.flaws = s.flaws := by
  induction was generalizing s with
  | nil => rfl
  | cons a was ih =>
    have ha := hw a (.head _)
    rw [Machine.readSectorsAt, h.readSector_eq ha]
    exact (ih (h.step (enterUnit_free (h.bank a ha)).1) fun b hb => hw b (.tail _ hb)).trans (enterUnit_flaws (h.bank a ha))

/-- A read within one line that allocates none gives the bytes of memory. -/
theorem readHome_outside {s : State} {wa n : Nat} (hc : coherent s) (ho : LineOpen s (lineOf wa)) (hn : wa % 128 + n ≤ 128) {a : Attr}
    (ha : a.allocates = false) (kind : Nat) :
    ∃ u, readHome s a wa n kind = (.ok ((List.range n).map fun i => memByte s (wa + i)), u) ∧ OutsideRead s u (lineOf wa) := by
  have ht := OutsideRead.recallLine hc ho.frees
  have htr := ho.ready.step ht.toUnitStep
  simp only [readHome, ho.ready.enterSlice, htr.buses wa, Bool.false_eq_true, if_false, ha, Bool.and_false, Bool.or_false]
  generalize recallLine s (lineOf wa) = t at ht htr
  split
  · exact ⟨_, by rw [homeBytes_of_step ht.toCacheStep ht.owner hn], ht.touch⟩
  · generalize hk : (if (cacheLine t (lineOf wa)).isSome = true then 1 else kind) = k
    generalize hw : (!(cacheLine t (lineOf wa)).isSome && kind == 2) = w
    have hlines : ∀ b ∈ missingSectors t wa n, lineOf b = lineOf wa := fun _ => lineOf_missingSectors hn
    obtain ⟨v, hv, hvu, hvc⟩ := htr.readSectorsAt k w (missingSectors t wa n) hlines
    have hfl := htr.flaws_readSectorsAt k w (missingSectors t wa n) hlines
    rw [hv] at hfl ⊢
    have hvr := ht.same hvu hvc hfl
    dsimp only
    split
    · next hsome =>
      have hfr := hvr.fillSectors (by rw [hvc.line]; exact hsome) (missingSectors t wa n) a.prio
      exact ⟨_, by rw [homeBytes_of_step hfr.touch.toCacheStep hfr.touch.owner hn], hfr.touch⟩
    · exact ⟨v, by rw [homeBytes_of_step hvr.toCacheStep hvr.owner hn], hvr⟩

/-! ## Writes that allocate no line -/

/-- Bytes over others from an address on. -/
def patched (f : Nat → Byte) (a : Nat) (bs : List Byte) (b : Nat) : Byte := if a ≤ b ∧ b < a + bs.length then bs.getD (b - a) 0 else f b

/-- A step at a home after which memory holds some bytes from an address on. -/
structure HomeWrite (s u : State) (a : Nat) (bs : List Byte) : Prop extends HomeStep s u where
  memory : ∀ b, memByte u b = patched (memByte s) a bs b

/-- A step that keeps memory, before a write and behind it. -/
theorem HomeWrite.after {s t u : State} {a : Nat} {bs : List Byte} (h : CacheStep s t) (ho : OwnersShrink s t) (k : HomeWrite t u a bs) :
    HomeWrite s u a bs :=
  ⟨(h.homeStep ho).trans k.toHomeStep, fun b => by rw [k.memory, patched, patched, h.memory b]⟩

theorem HomeWrite.before {s t u : State} {a : Nat} {bs : List Byte} (k : HomeWrite s t a bs) (h : CacheStep t u) (ho : OwnersShrink t u) :
    HomeWrite s u a bs :=
  ⟨k.toHomeStep.trans (h.homeStep ho), fun b => (h.memory b).trans (k.memory b)⟩

/-- A write reaches the line of its first byte alone. -/
theorem patched_of_other_line {f : Nat → Byte} {a : Nat} {bs : List Byte} (hn : a % 128 + bs.length ≤ 128) {b : Nat} (h : lineOf b ≠ lineOf a) :
    patched f a bs b = f b := by
  refine if_neg fun hin => h ?_
  unfold lineOf
  omega

/-- The write of one line that no L1 owns, where the others are left alone. -/
theorem HomeWrite.of_line {s u : State} {a : Nat} {bs : List Byte} (hc : Rules.coherent s) (hn : a % 128 + bs.length ≤ 128)
    (hstep : UnitStep s u) (hown : lineOwner u (lineOf a) = none) (hcore : ∀ g, coreG u g = coreG s g)
    (hline : ∀ j, j ≠ lineOf a → cacheLine u j = cacheLine s j) (hcell : ∀ b, lineOf b ≠ lineOf a → cget u.dram b = cget s.dram b)
    (hbytes : ∀ l, cacheLine u (lineOf a) = some l → LineBytes l.bytes)
    (hclean : ∀ l i b, cacheLine u (lineOf a) = some l → mget l.bytes i = some b → l.dirty.getLsbD i = false →
      cget u.dram (128 * lineOf a + i) = b)
    (hmem : ∀ b, lineOf b = lineOf a → homeByte u b = patched (memByte s) a bs b) : HomeWrite s u a bs := by
  have hs := (coherent_iff s).mp hc
  have hl1 : ∀ g j, l1Line u g j = l1Line s g j := fun g j => by rw [l1Line, hcore, l1Line]
  have hother : ∀ j, j ≠ lineOf a → LineKept s u j := fun j hj =>
    .of_same (hs j) (hline j hj) (fun b hb => hcell b (hb ▸ hj)) fun g => .inl (hl1 g j)
  refine ⟨⟨hstep, (coherent_iff u).mpr fun j => ?_, fun j g hg => ?_⟩, fun b => ?_⟩
  · by_cases hj : j = lineOf a
    · subst hj
      exact ⟨hbytes, fun g l h => (hs _).l1Bytes g l (hl1 g _ ▸ h), hclean, fun g hg => absurd (hown.symm.trans hg) (by simp)⟩
    · exact (hother j hj).coherent
  · by_cases hj : j = lineOf a
    · subst hj; exact absurd (hown.symm.trans hg) (by simp)
    · rwa [lineOwner, hline j hj] at hg
  · by_cases hb : lineOf b = lineOf a
    · rw [memByte_of_unowned (hb ▸ hown), hmem b hb]
    · rw [patched_of_other_line hn hb, (hother _ hb).memory b rfl]

theorem getLsbD_foldl_mark (d : BitVec 128) (o : Nat) {i : Nat} (hi : i < 128) (n : Nat) :
    ((List.range n).foldl (fun d j => d ||| (1#128 <<< (o + j))) d).getLsbD i = (d.getLsbD i || decide (o ≤ i ∧ i < o + n)) := by
  induction n with
  | zero =>
    simp
  | succ n ih =>
    rw [List.range_succ, List.foldl_append, List.foldl_cons, List.foldl_nil, BitVec.getLsbD_or, ih, BitVec.getLsbD_shiftLeft, BitVec.getLsbD_one,
      Bool.or_assoc]
    congr 1
    rw [Bool.eq_iff_iff]
    simp only [Bool.or_eq_true, Bool.and_eq_true, decide_eq_true_eq, Bool.not_eq_true', decide_eq_false_iff_not]
    omega

theorem mget_write (l : CacheLine) (o : Nat) (bs : List Byte) (i : Nat) :
    mget (l.write o bs).bytes i = if o ≤ i ∧ i < o + bs.length then some (bs.getD (i - o) 0) else mget l.bytes i :=
  mget_foldl_put (fun i => bs.getD i 0) o l.bytes i bs.length

theorem lineBytes_write {l : CacheLine} (h : LineBytes l.bytes) {o : Nat} {bs : List Byte} (hn : o + bs.length ≤ 128) :
    LineBytes (l.write o bs).bytes := by
  refine .foldl _ _ (fun j hj m hm => hm.mset ?_ _) _ h
  have := List.mem_range.mp hj
  omega

/-- The bytes go into a line that the home holds, dirty (04 R100). -/
theorem HomeWrite.setLine {s : State} {wa : Nat} {bs : List Byte} {l : CacheLine} (hc : Rules.coherent s) (ho : lineOwner s (lineOf wa) = none)
    (hl : cacheLine s (lineOf wa) = some l) (hn : wa % 128 + bs.length ≤ 128) :
    HomeWrite s (setLine s (lineOf wa) (l.write (wa % 128) bs)) wa bs := by
  have hs := (coherent_iff s).mp hc (lineOf wa)
  have hline := cacheLine_setLine s (lineOf wa) (lineOf wa) (l.write (wa % 128) bs)
  rw [if_pos rfl] at hline
  have hlo : (l.write (wa % 128) bs).owner = none := by
    have : l.owner = none := by simpa [lineOwner, hl] using ho
    exact this
  refine .of_line hc hn (.setLine ..) (by rw [lineOwner, hline]; exact hlo) (coreG_setLine s _ · _)
    (fun j hj => by rw [cacheLine_setLine, if_neg hj]) (fun _ _ => rfl) ?_ ?_ ?_
  · rintro l' h'
    cases hline.symm.trans h'
    exact lineBytes_write (hs.bytes l hl) hn
  · rintro l' i b h' hb hd
    cases hline.symm.trans h'
    have hi := (lineBytes_write (hs.bytes l hl) hn).lt hb
    have hmark : (l.write (wa % 128) bs).dirty.getLsbD i = (l.dirty.getLsbD i || decide (wa % 128 ≤ i ∧ i < wa % 128 + bs.length)) :=
      getLsbD_foldl_mark l.dirty (wa % 128) hi bs.length
    rw [hmark, Bool.or_eq_false_iff, decide_eq_false_iff_not] at hd
    rw [mget_write, if_neg hd.2] at hb
    exact hs.clean l i b hl hb hd.1
  · intro b hb
    have hin : (wa % 128 ≤ b % 128 ∧ b % 128 < wa % 128 + bs.length) ↔ (wa ≤ b ∧ b < wa + bs.length) := by unfold lineOf at hb; omega
    have hsub : b % 128 - wa % 128 = b - wa := by unfold lineOf at hb; omega
    rw [patched, memByte_of_unowned (hb ▸ ho), homeByte, homeByte, hb, hline, hl, Option.bind_some, Option.bind_some, mget_write]
    simp only [hin, hsub]
    by_cases hw : wa ≤ b ∧ b < wa + bs.length
    · simp only [if_pos hw]
    · simp only [if_neg hw]; rfl

/-- The bytes go to the cells where the home does not hold the line (04 R101). -/
theorem HomeWrite.cells {s : State} {wa : Nat} {bs : List Byte} (hc : Rules.coherent s) (hl : cacheLine s (lineOf wa) = none)
    (hn : wa % 128 + bs.length ≤ 128) : HomeWrite s { mend s wa with dram := cwrite s.dram wa bs } wa bs := by
  have hno : cacheLine { mend s wa with dram := cwrite s.dram wa bs } (lineOf wa) = none := hl
  refine .of_line hc hn ((UnitStep.mend s wa).trans (.dram _ _)) (by rw [lineOwner, hno]; rfl) (fun _ => rfl) (fun _ _ => rfl) (fun b hb => ?_)
    (fun l h => ?_) (fun l i b h => ?_) fun b hb => ?_
  · refine (cget_cwrite bs s.dram wa b).trans (if_neg fun hin => hb ?_)
    unfold lineOf
    omega
  · exact absurd (hno.symm.trans h) (by simp)
  · exact absurd (hno.symm.trans h) (by simp)
  · rw [homeByte_of_no_line (hb ▸ hno), patched, memByte_of_unowned (by rw [hb, lineOwner, hl]; rfl), homeByte_of_no_line (hb ▸ hl)]
    exact cget_cwrite bs s.dram wa b

/-- A write at its home that allocates no line. -/
theorem homeWrite_step {s : State} {wa : Nat} {bs : List Byte} (hc : coherent s) (ho : lineOwner s (lineOf wa) = none) (hb : bs ≠ [])
    (hn : wa % 128 + bs.length ≤ 128) {a : Attr} (ha : a.allocates = false) : HomeWrite s (homeWrite s none wa bs a) wa bs := by
  have hscan := SameCaches.clearScan s wa
  have hst : CacheStep s (clearScan s wa) := .of_same hc (.clearScan s wa) hscan
  have hlo : lineOwner (clearScan s wa) (lineOf wa) = none := (hscan.lineOwner _).trans ho
  refine .after hst (.of_same hscan) ?_
  have hcv := hst.keeps_coherent
  simp only [homeWrite, List.isEmpty_eq_false_iff.mpr hb, recallLine_unowned ho, ha, Bool.and_false, Bool.false_eq_true, if_false]
  generalize clearScan s wa = v at hlo hcv
  split
  · next l hl =>
    have hw := HomeWrite.setLine hcv hlo hl hn
    refine hw.before (.touch hw.coherent ?_) (.touch _ _)
    have hl' : l.owner = none := by simpa [lineOwner, hl] using hlo
    rw [lineOwner, cacheLine_setLine, if_pos rfl]
    exact hl'
  · next hl => exact .cells hcv hl hn

/-- The home makes ready for a write of a sector of a line that takes accesses. -/
theorem readyWrite_step {s : State} {wa : Nat} (hc : coherent s) (ho : LineOpen s (lineOf wa)) (bs : List Byte) (a : Attr) :
    ∃ u, readyWrite s [(wa, bs)] a = (none, u) ∧ CacheStep s u ∧ OwnersShrink s u ∧ lineOwner u (lineOf wa) = none := by
  obtain ⟨hst, hown, -⟩ := recallLine_step hc ho.frees
  have hr := ho.ready.step hst.toUnitStep
  simp only [readyWrite, ho.ready.enterSlice, hr.buses wa, Bool.false_eq_true, if_false]
  split
  · obtain ⟨u, hu, huu, hus⟩ := hr.openSector rfl 2 (Parts.whole [(wa, bs)] wa)
    exact ⟨u, hu, hst.trans (.of_same hst.keeps_coherent huu hus), (OwnersShrink.recallLine s _).trans (.of_same hus),
      (hus.lineOwner _).trans hown⟩
  · exact ⟨_, rfl, hst, .recallLine s _, hown⟩

/-- A write within a sector whose home takes accesses is performed. -/
theorem tryWrite_step {s : State} {wa : Nat} {bs : List Byte} (hc : coherent s) (ho : LineOpen s (lineOf wa)) (hb : bs ≠ [])
    (hn : wa % 128 + bs.length ≤ 128) {a : Attr} (ha : a.allocates = false) :
    ∃ u, tryWrite s none wa bs a = (none, u) ∧ HomeWrite s u wa bs := by
  obtain ⟨t, ht, hst, hos, hown⟩ := readyWrite_step hc ho bs a
  refine ⟨homeWrite t none wa bs a, ?_, .after hst hos (homeWrite_step hst.keeps_coherent hown hb hn ha)⟩
  rw [tryWrite, writeSector, ht]
  rfl

end Sys2Proof.Machine
end

section
/-! PROOFS. A peer's request at its home, sector by sector (06 R158, 07 R181): what it reads and writes, and the reply. -/

namespace Sys2Proof.Machine

open Sys2Proof.Rules

/-! ## The sectors of a range (03 R63) -/

/-- The first byte asked for in one sector of a range, and the end of the part there. -/
def sectorFrom (a i : Nat) : Nat := max a ((a / 32 + i) * 32)
def sectorTo (a n i : Nat) : Nat := min (a + n) ((a / 32 + i + 1) * 32)

theorem sectorsOf_eq {a n : Nat} (hn : n ≠ 0) : sectorsOf a n
    = (List.range ((a + n - 1) / 32 - a / 32 + 1)).map fun i => (sectorFrom a i, sectorTo a n i - sectorFrom a i) := if_neg hn

/-- Each part lies in one sector and in the range. -/
theorem mem_sectorsOf {a n : Nat} {x : Nat × Nat} (hx : x ∈ sectorsOf a n) :
    a ≤ x.1 ∧ x.1 + x.2 ≤ a + n ∧ 0 < x.2 ∧ x.1 % 32 + x.2 ≤ 32 := by
  by_cases hn : n = 0
  · rw [sectorsOf, if_pos hn] at hx
    cases hx
  · rw [sectorsOf_eq hn] at hx
    obtain ⟨i, hi, rfl⟩ := List.mem_map.mp hx
    have := List.mem_range.mp hi
    simp only [sectorFrom, sectorTo]
    omega

/-- A part of a range lies in one line. -/
theorem sector_in_line {a n : Nat} {x : Nat × Nat} (hx : x ∈ sectorsOf a n) : x.1 % 128 + x.2 ≤ 128 := by
  obtain ⟨-, -, -, h⟩ := mem_sectorsOf hx
  omega

/-- The parts make up the range. -/
theorem exists_mem_sectorsOf_iff {a n b : Nat} : (∃ x ∈ sectorsOf a n, x.1 ≤ b ∧ b < x.1 + x.2) ↔ a ≤ b ∧ b < a + n := by
  constructor
  · rintro ⟨x, hx, h⟩
    obtain ⟨h1, h2, -⟩ := mem_sectorsOf hx
    omega
  · rintro ⟨h1, h2⟩
    have hn : n ≠ 0 := by omega
    rw [sectorsOf_eq hn]
    refine ⟨_, List.mem_map.mpr ⟨b / 32 - a / 32, List.mem_range.mpr (by omega), rfl⟩, ?_⟩
    simp only [sectorFrom, sectorTo]
    omega

/-- What is read part by part is what stands in the range. -/
theorem flatMap_sectorsOf {α : Type} (f : Nat → α) (a n : Nat) :
    ((sectorsOf a n).flatMap fun x => (List.range x.2).map fun i => f (x.1 + i)) = (List.range n).map fun i => f (a + i) := by
  by_cases hn : n = 0
  · subst hn; rfl
  have key : ∀ m, m ≤ (a + n - 1) / 32 - a / 32 + 1 →
      (((List.range m).map fun i => (sectorFrom a i, sectorTo a n i - sectorFrom a i)).flatMap fun x => (List.range x.2).map fun i => f (x.1 + i))
        = (List.range (min (a + n) ((a / 32 + m) * 32) - a)).map fun i => f (a + i) := by
    intro m
    induction m with
    | zero =>
      have : min (a + n) ((a / 32 + 0) * 32) - a = 0 := by omega
      exact fun _ => by rw [this]; rfl
    | succ m ih =>
      intro hm
      have hfrom : sectorFrom a m = a + (min (a + n) ((a / 32 + m) * 32) - a) := by simp only [sectorFrom]; omega
      have hlen : min (a + n) ((a / 32 + (m + 1)) * 32) - a
          = (min (a + n) ((a / 32 + m) * 32) - a) + (sectorTo a n m - sectorFrom a m) := by simp only [sectorFrom, sectorTo]; omega
      rw [List.range_succ, List.map_append, List.flatMap_append, ih (by omega), hlen, List.range_add, List.map_append, List.map_map]
      simp only [List.map_cons, List.map_nil, List.flatMap_cons, List.flatMap_nil, List.append_nil, hfrom, Function.comp_def, Nat.add_assoc]
  have hall : min (a + n) ((a / 32 + ((a + n - 1) / 32 - a / 32 + 1)) * 32) - a = n := by omega
  rw [sectorsOf_eq hn, key _ (le_refl _), hall]

/-- A byte of the little-endian value of some bytes. -/
theorem ofNat_leNat_div (bs : List Byte) : ∀ i, BitVec.ofNat 8 (leNat bs / 256 ^ i) = bs.getD i 0 := by
  induction bs with
  | nil => intro i; simp [leNat]
  | cons b bs ih =>
    intro i
    cases i with
    | zero =>
      refine BitVec.eq_of_toNat_eq ?_
      have := b.isLt
      simp only [leNat, pow_zero, Nat.div_one, BitVec.toNat_ofNat, List.getD_cons_zero]
      omega
    | succ i =>
      have hb : (b.toNat + 256 * leNat bs) / 256 = leNat bs := by have := b.isLt; omega
      rw [leNat, pow_succ', ← Nat.div_div_eq_div_mul, hb, ih, List.getD_cons_succ]

theorem wrote_of_patched {s u : State} {a : Nat} {bs : List Byte} (h : ∀ b, memByte u b = patched (memByte s) a bs b) :
    wrote s u a bs.length (leNat bs) := by
  intro b
  rw [h b, patched, ofNat_leNat_div]

/-! ## Reads and writes of a range -/

/-- The home of each part of a range takes an access. -/
def RangeOpen (s : State) (xs : List (Nat × Nat)) : Prop := ∀ x ∈ xs, LineOpen s (lineOf x.1)

theorem RangeOpen.step {s u : State} {xs : List (Nat × Nat)} (h : RangeOpen s xs) (k : HomeStep s u) : RangeOpen u xs := fun x hx => (h x hx).step k

theorem RangeOpen.begun {s : State} {xs : List (Nat × Nat)} (hb : busesUp s) (h : ∀ x ∈ xs, lineFree s (lineOf x.1)) (head : Bool) :
    RangeOpen (s.begun head) xs :=
  fun x hx => ⟨.begun (h x hx) hb head, .begun (h x hx) head⟩

theorem ReadStep.homeStep {s u : State} (h : ReadStep s u) : HomeStep s u := h.toCacheStep.homeStep h.owners

/-- Parts of lines whose homes take accesses are read. -/
theorem readSectors_step {s : State} {xs : List (Nat × Nat)} (hc : coherent s) (ho : RangeOpen s xs) (hn : ∀ x ∈ xs, x.1 % 128 + x.2 ≤ 128) :
    ∃ u, readSectors s xs = (some (xs.flatMap fun x => (List.range x.2).map fun i => memByte s (x.1 + i)), u) ∧ ReadStep s u := by
  induction xs generalizing s with
  | nil => exact ⟨s, rfl, .refl hc⟩
  | cons x xs ih =>
    obtain ⟨t, ht, hst⟩ := readHome_outside (a := outsideAttr) hc (ho x (.head _)) (hn x (.head _)) rfl 1
    have hread := hst.toReadStep
    obtain ⟨u, hu, hsu⟩ := ih hread.keeps_coherent (RangeOpen.step (fun y hy => ho y (.tail _ hy)) hread.homeStep)
      fun y hy => hn y (.tail _ hy)
    refine ⟨u, ?_, hread.trans hsu⟩
    simp only [readSectors, tryRead, ht, hu, List.flatMap_cons, hread.memory _]

/-- The bytes that a write has for one part of its range. -/
def partBytes (a : Nat) (bs : List Byte) (x : Nat × Nat) : List Byte := (bs.drop (x.1 - a)).take x.2

theorem length_partBytes {a : Nat} {bs : List Byte} {x : Nat × Nat} (h : a ≤ x.1) (h' : x.1 + x.2 ≤ a + bs.length) :
    (partBytes a bs x).length = x.2 := by
  rw [partBytes, List.length_take, List.length_drop]
  omega

theorem getD_partBytes {a : Nat} {bs : List Byte} {x : Nat × Nat} (h : a ≤ x.1) {b : Nat} (hb : x.1 ≤ b ∧ b < x.1 + x.2) :
    (partBytes a bs x).getD (b - x.1) 0 = bs.getD (b - a) 0 := by
  have hlt : b - x.1 < x.2 := by omega
  have hidx : x.1 - a + (b - x.1) = b - a := by omega
  simp only [partBytes, List.getD, List.getElem?_take, hlt, if_true, List.getElem?_drop, hidx]

/-- One part after another is written. -/
theorem writeParts_step {s : State} {a : Nat} {bs : List Byte} {xs : List (Nat × Nat)} (hc : coherent s) (ho : RangeOpen s xs)
    (hx : ∀ x ∈ xs, a ≤ x.1 ∧ x.1 + x.2 ≤ a + bs.length ∧ 0 < x.2 ∧ x.1 % 128 + x.2 ≤ 128) :
    ∃ u, xs.foldl (fun r x => (r.1 && (tryWrite r.2 none x.1 (partBytes a bs x) outsideAttr).1.isNone,
        (tryWrite r.2 none x.1 (partBytes a bs x) outsideAttr).2)) (true, s) = (true, u) ∧ HomeStep s u
      ∧ ∀ b, (¬(∃ x ∈ xs, x.1 ≤ b ∧ b < x.1 + x.2) → memByte u b = memByte s b)
        ∧ ((∃ x ∈ xs, x.1 ≤ b ∧ b < x.1 + x.2) → memByte u b = bs.getD (b - a) 0) := by
  induction xs generalizing s with
  | nil => exact ⟨s, rfl, .refl hc, fun b => ⟨fun _ => rfl, by simp⟩⟩
  | cons x xs ih =>
    obtain ⟨h1, h2, h3, h4⟩ := hx x (.head _)
    have hlen := length_partBytes h1 h2
    have hne : partBytes a bs x ≠ [] := List.ne_nil_of_length_pos (hlen ▸ h3)
    obtain ⟨t, ht, hw⟩ := tryWrite_step (a := outsideAttr) hc (ho x (.head _)) hne (hlen.symm ▸ h4) rfl
    obtain ⟨u, hu, hstep, hmem⟩ := ih hw.coherent (RangeOpen.step (fun y hy => ho y (.tail _ hy)) hw.toHomeStep) fun y hy => hx y (.tail _ hy)
    refine ⟨u, ?_, hw.toHomeStep.trans hstep, fun b => ?_⟩
    · rw [List.foldl_cons]
      simp only [ht]
      exact hu
    · have hmt := hw.memory b
      rw [patched, hlen] at hmt
      simp only [List.exists_mem_cons_iff]
      by_cases hin : ∃ y ∈ xs, y.1 ≤ b ∧ b < y.1 + y.2
      · exact ⟨fun hno => absurd (.inr hin) hno, fun _ => (hmem b).2 hin⟩
      · have hub := (hmem b).1 hin
        refine ⟨fun hno => hub.trans (hmt.trans (if_neg fun h => hno (.inl h))), fun h => ?_⟩
        have hx := h.resolve_right hin
        rw [hub, hmt, if_pos hx, getD_partBytes h1 hx]

/-- A range whose homes take accesses is written. -/
theorem writeOutside_step {s : State} {a : Nat} {bs : List Byte} (hc : coherent s) (ho : RangeOpen s (sectorsOf a bs.length)) :
    ∃ u, writeOutside s a bs = (true, u) ∧ HomeStep s u ∧ wrote s u a bs.length (leNat bs) := by
  obtain ⟨u, hu, hstep, hmem⟩ := writeParts_step (a := a) (bs := bs) hc ho fun x hx =>
    let ⟨h1, h2, h3, _⟩ := mem_sectorsOf hx
    ⟨h1, h2, h3, sector_in_line hx⟩
  refine ⟨u, hu, hstep, wrote_of_patched fun b => ?_⟩
  simp only [exists_mem_sectorsOf_iff] at hmem
  rw [patched]
  split
  · next h => exact (hmem b).2 h
  · next h => exact (hmem b).1 h

/-! ## The request and its reply -/

/-- The reply to a request from a peer port. -/
def State.replied (s : State) (p a : Nat) (r : Option (List Byte)) : State := { s with peerReplies := s.peerReplies ++ [(p % 8, a, r)] }

theorem leaveUnits_replied (s : State) (p a : Nat) (r : Option (List Byte)) (who : Requester) :
    leaveUnits (s.replied p a r) who = (leaveUnits s who).replied p a r := by
  unfold leaveUnits State.replied
  split <;> rfl

/-- A step of caches and cells that ends, with the reply that it sends. -/
theorem settleStep_replied {s u : State} {head : Bool} (h : UnitStep (s.begun head) u) (who : Requester) :
    ∃ t, SameCaches u t ∧ t.flaws = u.flaws ∧ t = { s with chassis := t.chassis, dram := t.dram, flaws := t.flaws }
      ∧ ∀ p a r, settleStep who s (u.replied p a r) = { t with peerReplies := s.peerReplies ++ [(p % 8, a, r)] } := by
  have hstall : u.doing.stall = none := h.stall
  have hrest : ({ u with doing := s.doing } : State) = { s with chassis := u.chassis, dram := u.dram, flaws := u.flaws } :=
    congrArg (fun t : State => { t with doing := s.doing }) h.rest
  have hreplies : (leaveUnits { u with doing := s.doing } who).peerReplies = s.peerReplies := by rw [leaveUnits_chassis, hrest]
  refine ⟨leaveUnits { u with doing := s.doing } who, .trans (t := { u with doing := s.doing }) ⟨fun _ => rfl, fun _ => rfl, rfl⟩
    (sameCaches_leaveUnits ..), by rw [leaveUnits_chassis], by rw [leaveUnits_chassis, hrest], fun p a r => ?_⟩
  have hstall' : (u.replied p a r).doing.stall = none := hstall
  rw [settleStep, hstall', ← hreplies]
  exact leaveUnits_replied { u with doing := s.doing } p a r who

section request
variable {s : State} {p pa : Nat} {bs : List Byte} (hport : (chassisOf s (2 * (p % 8) + 1)).peer.state = 1)
  (hhome : (homeAt (pa % 2 ^ 40 + (bs.length - 1))).d = (homeAt (pa % 2 ^ 40)).d)
include hport hhome

/-- A request whose home the ring does not reach is refused (07 R178). -/
theorem exec_peerRequestArrive_unreachable (hreach : reachable s (2 * (p % 8) + 1) (homeAt (pa % 2 ^ 40)).d = false) (w : Bool) (ecc : Ecc) :
    exec (.peerRequestArrive p pa w bs ecc) s
      = .next (overEvent (s.replied p (pa % 2 ^ 40) none) (.peerRequestArrive p pa w bs .clean)) := by
  have hreach' : ∀ x : Doing, reachable { s with doing := x } (2 * (p % 8) + 1) (homeAt (pa % 2 ^ 40)).d = false := fun _ => hreach
  have hport' : ∀ x : Doing, (chassisOf { s with doing := x } (2 * (p % 8) + 1)).peer.state = 1 := fun _ => hport
  change execPeerRequestArrive p pa w bs ecc s = _
  simp only [execPeerRequestArrive, during, hport', hreach', hhome, bne_self_eq_false, Bool.false_and, Bool.false_eq_true, if_false, ne_eq,
    not_true_eq_false, decide_false, Bool.false_or, Bool.not_false, if_true]
  rfl

variable (hreach : reachable s (2 * (p % 8) + 1) (homeAt (pa % 2 ^ 40)).d = true)
  (hpath : pathOpen s (2 * (p % 8) + 1) (homeAt (pa % 2 ^ 40)).d = true)
include hreach hpath

/-- One that reaches its home is performed there. -/
theorem exec_peerRequestArrive_reachable (w : Bool) :
    exec (.peerRequestArrive p pa w bs .clean) s
      = .next (settleStep (.turn (.event (.peerRequestArrive p pa w bs .clean))) s
          (let u := s.begun (heads s (.turn (.event (.peerRequestArrive p pa w bs .clean))))
          if w then (writeOutside u (pa % 2 ^ 40) bs).2.replied p (pa % 2 ^ 40)
            (if (writeOutside u (pa % 2 ^ 40) bs).1 then some [] else none)
          else (readSectors u (sectorsOf (pa % 2 ^ 40) bs.length)).2.replied p (pa % 2 ^ 40)
            (readSectors u (sectorsOf (pa % 2 ^ 40) bs.length)).1)) := by
  have hreach' : ∀ x : Doing, reachable { s with doing := x } (2 * (p % 8) + 1) (homeAt (pa % 2 ^ 40)).d = true := fun _ => hreach
  have hpath' : ∀ x : Doing, pathOpen { s with doing := x } (2 * (p % 8) + 1) (homeAt (pa % 2 ^ 40)).d = true := fun _ => hpath
  have hport' : ∀ x : Doing, (chassisOf { s with doing := x } (2 * (p % 8) + 1)).peer.state = 1 := fun _ => hport
  change execPeerRequestArrive p pa w bs .clean s = _
  simp only [execPeerRequestArrive, during, hport', hreach', hpath', hhome, bne_self_eq_false, Bool.false_and, Bool.false_eq_true, if_false, ne_eq,
    not_true_eq_false, decide_false, Bool.not_true, Bool.or_self]
  rfl

variable (hc : coherent s) (hb : busesUp s) (hfree : ∀ x ∈ sectorsOf (pa % 2 ^ 40) bs.length, lineFree s (lineOf x.1))
include hc hb hfree

/-- A peer's write goes to its home. -/
theorem exec_peerRequestArrive_write : ∃ u, exec (.peerRequestArrive p pa true bs .clean) s
      = .next { u with peerReplies := s.peerReplies ++ [(p % 8, pa % 2 ^ 40, some [])] }
    ∧ u = { s with chassis := u.chassis, dram := u.dram, flaws := u.flaws } ∧ wrote s u (pa % 2 ^ 40) bs.length (leNat bs) := by
  obtain ⟨u, hu, hstep, hw⟩ := writeOutside_step (a := pa % 2 ^ 40) (bs := bs) (s := s.begun (heads s
    (.turn (.event (.peerRequestArrive p pa true bs .clean))))) hc (.begun hb hfree _)
  obtain ⟨t, hsame, -, hrest, hset⟩ := settleStep_replied hstep.toUnitStep (.turn (.event (.peerRequestArrive p pa true bs .clean)))
  refine ⟨t, ?_, hrest, fun b => ((hsame.kept hstep.coherent _).memory b rfl).trans (hw b)⟩
  rw [exec_peerRequestArrive_reachable hport hhome hreach hpath]
  simp only [hu, if_true, hset]

/-- A peer's read is answered with the bytes of memory. -/
theorem exec_peerRequestArrive_read : ∃ u, exec (.peerRequestArrive p pa false bs .clean) s
      = .next { u with
          peerReplies := s.peerReplies ++ [(p % 8, pa % 2 ^ 40, some ((List.range bs.length).map fun i => memByte s (pa % 2 ^ 40 + i)))] }
    ∧ u = { s with chassis := u.chassis } ∧ sameMemory s u := by
  obtain ⟨u, hu, hstep⟩ := readSectors_step (s := s.begun (heads s (.turn (.event (.peerRequestArrive p pa false bs .clean)))))
    hc (.begun hb hfree _) fun _ => sector_in_line
  rw [flatMap_sectorsOf] at hu
  obtain ⟨t, hsame, hflaws, hrest, hset⟩ := settleStep_replied hstep.toUnitStep (.turn (.event (.peerRequestArrive p pa false bs .clean)))
  have hdram : t.dram = s.dram := hsame.dram.trans hstep.cells.dram
  have hfl : t.flaws = s.flaws := hflaws.trans hstep.cells.flaws
  refine ⟨t, ?_, ?_, fun b => ((hsame.kept hstep.keeps_coherent _).memory b rfl).trans (hstep.memory b)⟩
  · rw [exec_peerRequestArrive_reachable hport hhome hreach hpath]
    simp only [hu, Bool.false_eq_true, if_false, hset]
    rfl
  · rw [hdram, hfl] at hrest
    exact hrest

end request

end Sys2Proof.Machine
end

section
/-! PROOFS. Packets on their hops, links and hops that go down, and route switches (07 R161 to R164, R175 to R178, R181, R182). -/

namespace Sys2Proof.Machine

open Sys2Proof.Rules

/-! ## A packet takes a hop (R161, R164) -/

/-- Whether a packet carries partial sums. -/
def Load.sums : Load → Bool
  | .reduction _ _ _ _ => true
  | _ => false

theorem Load.sums_iff {l : Load} : l.sums = true ↔ ∃ red mask part xs, l = .reduction red mask part xs := by
  cases l <;> simp [sums]

/-- A packet behind its next hop. -/
def Packet.moved (p : Packet) : Packet :=
  { p with stop := p.hop.2, vc := if p.hop.1 = 15 then 1 else p.vc, arrived := p.load.sums || p.hop.2 == p.dst }

theorem movePacket_eq {s : State} {p : Packet} (h : (chassisOf s p.hop.1).east.state = 1) :
    movePacket s p = { s with packets := updFirst (fun q => q.id == p.id) (fun _ => p.moved) s.packets } := by
  have hopen : ((chassisOf s p.hop.1).east.state != 1) = false := by rw [h]; rfl
  unfold movePacket
  simp only [hopen, Bool.false_eq_true, if_false]
  rfl

theorem exec_ringPacketArrive_moves {s : State} {p : Packet} (hp : (s.packets.find? fun q => q.id == p.id) = some p) (ha : p.arrived = false)
    (hr : reachable s p.src p.dst = true) (hs : s.switching = false) (h : (chassisOf s p.hop.1).east.state = 1) :
    exec (.ringPacketArrive p.id) s = .next { s with packets := updFirst (fun q => q.id == p.id) (fun _ => p.moved) s.packets } := by
  change execRingPacketArrive p.id s = _
  simp only [execRingPacketArrive, hp, ha, hr, hs, Bool.not_true, Bool.false_eq_true, if_false, movePacket_eq h]

theorem exec_ringPacketArrive_loses {s : State} {p : Packet} (hp : (s.packets.find? fun q => q.id == p.id) = some p) (ha : p.arrived = false)
    (hr : reachable s p.src p.dst = false) : exec (.ringPacketArrive p.id) s = .next (losePacket s p) := by
  change execRingPacketArrive p.id s = _
  simp only [execRingPacketArrive, hp, ha, hr, Bool.not_false, Bool.false_eq_true, if_false, if_true]

/-- The hop behind which a packet uses channel 1 is that between d15 and d0 (R161). -/
theorem hop_eq_dateline {p : Packet} (h : p.stop < 16) :
    p.hop.1 = 15 ↔ (p.west = true ∧ p.stop % 16 = 0) ∨ (p.west = false ∧ p.stop = 15) := by
  unfold Packet.hop
  cases p.west
  · simp
  · have hwest : (p.stop + 15) % 16 = 15 ↔ p.stop % 16 = 0 := by omega
    simp [hwest]

/-! ## Links (R175, R176, R181, R182) -/

theorem link_eq_linkAt (c : Chassis) (p : Port) : c.link p = linkAt c p := by cases p <;> rfl

theorem setLink_eq (s : State) (d : Nat) (p : Port) (f : Link → Link) : setLink s d p f
    = if p = .peer then s.setChassis (d % 16) (withLink (chassisOf s (d % 16)) p (f (linkAt (chassisOf s (d % 16)) p)))
      else hopEnds s (hopAt d p) f := by
  cases p <;> rfl

theorem exec_flitReplay {s : State} {d : Nat} {p : Port} (h : (linkAt (chassisOf s (d % 16)) p).state = 1) :
    exec (.flitReplay d p) s = .next (s.setChassis (d % 16) (withLink (chassisOf s (d % 16)) p
      { linkAt (chassisOf s (d % 16)) p with crc := min (2 ^ 32 - 1) ((linkAt (chassisOf s (d % 16)) p).crc + 1) })) := by
  have hgo : ¬(((chassisOf s (d % 16)).link p).state != 1) = true := by rw [link_eq_linkAt, h]; decide
  change execFlitReplay d p s = _
  unfold execFlitReplay
  dsimp only
  rw [if_neg hgo]
  cases p <;> rfl

theorem exec_linkRetrainStart {s : State} {d : Nat} {p : Port} (h : (linkAt (chassisOf s (d % 16)) p).state = 1) :
    exec (.linkRetrainStart d p) s = .next (setLink s d p fun l => { l with state := 2, since := s.ns }) := by
  change execLinkRetrainStart d p s = _
  rw [execLinkRetrainStart, link_eq_linkAt, if_pos h]

theorem exec_linkRetrainComplete {s : State} {d : Nat} {p : Port} (h : (linkAt (chassisOf s (d % 16)) p).state = 2)
    (hns : s.ns ≤ (linkAt (chassisOf s (d % 16)) p).since + 50000) : exec (.linkRetrainComplete d p) s
      = .next (setLink s d p fun l => { l with state := 1, retrains := min 255 (l.retrains + 1) }) := by
  change execLinkRetrainComplete d p s = _
  simp only [execLinkRetrainComplete, link_eq_linkAt, h, hns, and_self, if_true]

/-! ## A new route epoch (R177) -/

/-- Packets each replaced by some, in order, each with a number of its own from `n` on. -/
def replaced (f : Packet → Nat → List Packet) (ps : List Packet) (n : Nat) : List Packet :=
  (List.range ps.length).flatMap fun i => (ps[i]?).elim [] fun p => f p (n + i)

theorem replaced_cons (f : Packet → Nat → List Packet) (p : Packet) (ps : List Packet) (n : Nat) :
    replaced f (p :: ps) n = f p n ++ replaced f ps (n + 1) := by
  simp only [replaced, List.length_cons, List.range_succ_eq_map, List.flatMap_cons, List.getElem?_cons_zero, Option.elim_some, Nat.add_zero,
    List.flatMap_map, List.getElem?_cons_succ, Nat.add_assoc, Nat.add_comm 1]

theorem foldl_replaced (f : Packet → Nat → List Packet) (ps : List Packet) (u : State) :
    ps.foldl (fun u p => { u with nextId := u.nextId + 1, packets := u.packets ++ f p u.nextId }) u
      = { u with nextId := u.nextId + ps.length, packets := u.packets ++ replaced f ps u.nextId } := by
  induction ps generalizing u with
  | nil => simp [replaced]
  | cons p ps ih =>
    rw [List.foldl_cons, ih, replaced_cons]
    simp only [List.length_cons, List.append_assoc, Nat.add_assoc, Nat.add_comm 1]

/-- Packets in a new epoch go as the rule has it. -/
theorem reroutePacket_eq (s : State) (h : Nat) (p : Packet) (id : Nat) : reroutePacket s h p id = resentPackets s h p id := by
  have hlost : ∀ q : Packet, (dies.any fun g => hopIsDown s g && q.willCross g)
      = (List.range 16).any fun g => (chassisOf s g).east.state == 3 && onWay q.west q.stop q.dst g := fun _ => rfl
  have hnext : p.hop.1 = if p.west then (p.stop + 15) % 16 else p.stop := by unfold Packet.hop; split <;> rfl
  have hcame : p.cameOver h = true ↔ p.src ≠ p.stop ∧ p.stop = if p.west then h else (h + 1) % 16 := by
    unfold Packet.cameOver
    cases p.west <;> simp
  simp only [reroutePacket, resentPackets, hlost, hnext, resent, Bool.and_eq_true, Bool.not_eq_true', Bool.and_eq_false_iff, hcame,
    Bool.or_eq_true, beq_eq_false_iff_ne, not_and_or, Bool.not_eq_true, and_assoc, ne_eq, decide_eq_true_eq]

theorem reroute_eq (s : State) (h : Nat) : reroute s h = turned s h := by
  have hf : reroutePacket s h = resentPackets s h := funext fun p => funext fun id => reroutePacket_eq s h p id
  refine (foldl_replaced (reroutePacket s h) s.packets { s with packets := [] }).trans ?_
  have : replaced (resentPackets s h) s.packets s.nextId = (turned s h).packets := by
    refine congrArg (fun f => (List.range s.packets.length).flatMap f) (funext fun i => ?_)
    cases s.packets[i]? <;> rfl
  rw [hf, List.nil_append, this]
  rfl

/-! ## Hops that go down (R177, R178) -/

theorem otherDown_eq (s : State) (h : Nat) :
    otherDown s h = (List.range 16).countP fun g => g ≠ h ∧ (chassisOf s g).east.state = 3 := by
  rw [otherDown, ← List.countP_eq_length_filter, dies]
  refine congrArg (fun f => List.countP f _) (funext fun g => ?_)
  rw [Bool.eq_iff_iff]
  simp [hopIsDown]

theorem settleReductions_of_none {s : State} (h : s.reductions = []) : settleReductions s = s := by rw [settleReductions, h]; rfl

theorem reductions_sendEvent (s : State) (e : HostEvent) : (sendEvent s e).reductions = s.reductions := by
  unfold sendEvent
  dsimp only
  split
  · rfl
  · split <;> rfl

/-- A state one more hop of which is down; the same as the first that goes down leaves it, and as the second does. -/
def hopBroken (s : State) (h : Nat) : State :=
  { hopEnds s h fun l => { l with state := 3, wasdown := true } with routeEpoch := s.routeEpoch + 1 }
def hopBrokenFirst (s : State) (h : Nat) : State := { hopBroken s h with brk0 := h, switching := true }
def hopBrokenSecond (s : State) (h : Nat) : State := { hopBroken s h with brk1 := h, routeMode := 2 }

/-- The event of a ring that is divided: the register ring.route as the second break leaves it (R182, log entry 11). -/
def dividedEvent (s : State) (h : Nat) : HostEvent :=
  { ty := 4, ch := h, data := [(2 + 16 * s.brk0 + 256 * h + 2 ^ 32 * ((s.routeEpoch + 1) % 2 ^ 16)) % 2 ^ 64] }

theorem reductions_hopBroken (s : State) (h : Nat) : (turned (hopBroken s h) h).reductions = s.reductions := by
  simp only [turned, hopBroken, hopEnds, State.setChassis_reductions]

theorem reductions_hopBrokenSecond (s : State) (h : Nat) : (turned (hopBrokenSecond s h) h).reductions = s.reductions := by
  simp only [turned, hopBrokenSecond, hopBroken, hopEnds, State.setChassis_reductions]

theorem dividedEvent_eq (s : State) (h : Nat) :
    dividedEvent s h = { ty := 4, ch := h, data := [(routeReg (turned (hopBrokenSecond s h) h)).toNat] } := by
  rw [routeReg, BitVec.toNat_ofNat]
  simp only [dividedEvent, turned, hopBrokenSecond, hopBroken, hopEnds, State.setChassis_brk0]

section hopDown
variable {s : State} {d : Nat} (h2 : (chassisOf s (d % 16)).east.state = 2) (hns : (chassisOf s (d % 16)).east.since + 50000 ≤ s.ns)
include h2 hns

theorem exec_hopDown_eq : exec (.hopDown d) s = .next (
    if otherDown s (d % 16) = 0 then turned (hopBrokenFirst s (d % 16)) (d % 16)
    else if otherDown s (d % 16) = 1 then
      settleReductions (sendEvent (turned (hopBrokenSecond s (d % 16)) (d % 16)) (dividedEvent s (d % 16)))
    else settleReductions (turned (hopBroken s (d % 16)) (d % 16))) := by
  have hgo : ¬(hopState s (d % 16) != 2 || decide (s.ns < (chassisOf s (d % 16)).east.since + 50000)) = true := by
    simp [hopState, h2, hns]
  simp only [dividedEvent_eq, ← reroute_eq]
  change execHopDown d s = _
  unfold execHopDown
  dsimp only
  rw [if_neg hgo]
  split
  · rfl
  · split <;> rfl

theorem exec_hopDown_first (hn : otherDown s (d % 16) = 0) :
    exec (.hopDown d) s = .next (turned (hopBrokenFirst s (d % 16)) (d % 16)) := by
  rw [exec_hopDown_eq h2 hns, if_pos hn]

theorem exec_hopDown_second (hn : otherDown s (d % 16) = 1) (hr : s.reductions = []) :
    exec (.hopDown d) s = .next (sendEvent (turned (hopBrokenSecond s (d % 16)) (d % 16)) (dividedEvent s (d % 16))) := by
  rw [exec_hopDown_eq h2 hns, if_neg (by rw [hn]; decide), if_pos hn, settleReductions_of_none]
  rw [reductions_sendEvent, reductions_hopBrokenSecond, hr]

theorem exec_hopDown_later (hn : 2 ≤ otherDown s (d % 16)) (hr : s.reductions = []) :
    exec (.hopDown d) s = .next (turned (hopBroken s (d % 16)) (d % 16)) := by
  rw [exec_hopDown_eq h2 hns, if_neg (by omega), if_neg (by omega), settleReductions_of_none ((reductions_hopBroken ..).trans hr)]

end hopDown

/-- A route switch that ends with one hop down sends ring-degraded (R177). -/
theorem exec_routeSwitchComplete_first {s : State} (hs : s.switching = true) (hm : s.routeMode = 0 ∨ s.routeMode = 1) :
    exec .routeSwitchComplete s = .next (sendEvent { s with switching := false, routeMode := 1 }
      { ty := 3, ch := s.brk0, data := [(1 + 16 * s.brk0 + 256 * s.brk1 + 2 ^ 32 * (s.routeEpoch % 2 ^ 16)) % 2 ^ 64] }) := by
  have hmax : max 1 s.routeMode = 1 := by omega
  change execRouteSwitchComplete s = _
  simp only [execRouteSwitchComplete, hs, Bool.not_true, Bool.false_eq_true, if_false, hmax, if_true, routeReg, BitVec.toNat_ofNat]

theorem exec_routeSwitchComplete_divided {s : State} (hs : s.switching = true) (hm : 2 ≤ s.routeMode) :
    exec .routeSwitchComplete s = .next { s with switching := false } := by
  have hmax : max 1 s.routeMode = s.routeMode := by omega
  have hne : s.routeMode ≠ 1 := by omega
  change execRouteSwitchComplete s = _
  simp only [execRouteSwitchComplete, hs, Bool.not_true, Bool.false_eq_true, if_false, hmax, hne]

end Sys2Proof.Machine
end

section
/-! PROOFS. What is lost where nothing answers: a stream packet, with its copy's error (05 R128, 07 R178), and an access through a peer port or to
the host (01 R32, 07 R181, 21 R436); and the statement about the ring and the peer ports. -/

namespace Sys2Proof.Machine

open Sys2Proof.Rules

/-! ## A stream packet that nothing reaches -/

theorem find?_updFirst {α : Type} (p : α → Bool) (f : α → α) (hf : ∀ a, p (f a) = p a) (l : List α) :
    (updFirst p f l).find? p = (l.find? p).map f := by
  induction l with
  | nil => rfl
  | cons a l ih =>
    by_cases h : p a = true
    · simp [updFirst, h, hf]
    · simp [updFirst, h, ih]

/-- An update of some record, seen through a part that it keeps. -/
theorem find?_updFirst_keeps {α β : Type} (g : α → β) (p q : α → Bool) (f : α → α) (hp : ∀ a, p (f a) = p a) (hg : ∀ a, g (f a) = g a)
    (l : List α) : ((updFirst q f l).find? p).map g = (l.find? p).map g := by
  induction l with
  | nil => rfl
  | cons a l ih =>
    by_cases hq : q a = true
    · by_cases h : p a = true
      · simp [updFirst, hq, h, hp, hg]
      · simp [updFirst, hq, h, hp]
    · by_cases h : p a = true
      · simp [updFirst, hq, h]
      · simp [updFirst, hq, h, ih]

theorem trainOf_setTrain_self (s : State) (id : Nat) (f : Train → Train) (hf : ∀ t, (f t).id = t.id) :
    trainOf (s.setTrain id f) id = (trainOf s id).map f :=
  find?_updFirst (fun t : Train => t.id == id) f (fun t => congrArg (· == id) (hf t)) s.trains

/-- Every train has completed that had. -/
theorem completed_setTrain (s : State) (id : Nat) (f : Train → Train) (hid : ∀ t, (f t).id = t.id) (hf : ∀ t, (f t).completed = t.completed)
    (n : Nat) : (trainOf (s.setTrain id f) n).map Train.completed = (trainOf s n).map Train.completed :=
  find?_updFirst_keeps Train.completed (fun t : Train => t.id == n) (fun t => t.id == id) f (fun t => congrArg (· == n) (hid t)) hf s.trains

theorem copyOf_setCopy_self (s : State) (id : Nat) (f : Copy → Copy) (hf : ∀ y, (f y).id = y.id) :
    copyOf (s.setCopy id f) id = (copyOf s id).map f :=
  find?_updFirst (fun y : Copy => y.id == id) f (fun y => congrArg (· == id) (hf y)) s.copies

theorem id_of_copyOf {s : State} {id : Nat} {y : Copy} (h : copyOf s id = some y) : y.id = id := by
  have := List.find?_some h
  exact beq_iff_eq.mp this

/-- A coach some of whose lanes are live is not over. -/
theorem checkCoach_live {s : State} {key : Nat} {c : Coach} (h : coachOf s key = some c) (hl : c.exited ≠ BitVec.allOnes 32) :
    checkCoach s key = s := by
  have hover : coachOver c = false := by rw [coachOver, beq_eq_false_iff_ne.mpr hl, Bool.false_and]
  simp only [checkCoach, h, hover, Bool.not_false, if_true]

/-- A train that has not completed does not retire. -/
theorem tryRetire_incomplete {s : State} {id : Nat} (h : ∀ t, trainOf s id = some t → t.completed = false) : tryRetire s id = s := by
  unfold tryRetire
  split
  · rfl
  · next t ht => rw [h t ht, Bool.false_and, if_neg Bool.false_ne_true]

/-- The train of a stream context. -/
def streamTrain (s : State) (strm : Nat) : Option Nat := (s.streams.find? fun z => z.id == strm).map Stream.train

theorem streamTrain_updFirst (s : State) (strm : Nat) (q : Stream → Bool) (f : Stream → Stream) (hid : ∀ z, (f z).id = z.id)
    (hf : ∀ z, (f z).train = z.train) : streamTrain { s with streams := updFirst q f s.streams } strm = streamTrain s strm :=
  find?_updFirst_keeps Stream.train (fun z : Stream => z.id == strm) q f (fun z => congrArg (· == strm) (hid z)) hf s.streams

theorem streamTrain_skipStream (s : State) (y : Copy) (strm : Nat) : streamTrain (skipStream s y) strm = streamTrain s strm := by
  unfold skipStream
  split
  · exact streamTrain_updFirst s strm _ _ (fun _ => rfl) fun _ => rfl
  · rfl

theorem skipStream_rest (s : State) (y : Copy) : skipStream s y = { s with streams := (skipStream s y).streams } := by
  unfold skipStream
  split <;> rfl

/-- A train with the error in the context of a copy channel (05 R128). -/
def Train.chanFailed (t : Train) (chan : Nat) : Train := { t with chans := mset t.chans chan { (mget t.chans chan).getD {} with err := true } }

/-- A copy that has failed (05 R128). -/
def Copy.failed (y : Copy) (cause : Nat) (va : W64) : Copy := { y with phase := 4, fail := some (cause, va), windows := [] }

/-- A state in which a copy has failed, before its operation ends: the channel context shows it, and the stream goes on behind the copy. -/
def State.copyFailed (s : State) (y : Copy) (cause : Nat) (va : W64) : State :=
  (skipStream (s.setTrain y.train fun t => t.chanFailed y.chan) y).setCopy y.id
    fun z => z.failed cause va

section copyFailed
variable (s : State) (y : Copy) (cause : Nat) (va : W64)

theorem copyFailed_rest : s.copyFailed y cause va = { s with
    trains := (s.setTrain y.train fun t => t.chanFailed y.chan).trains
    copies := (s.setCopy y.id fun z => z.failed cause va).copies
    streams := (s.copyFailed y cause va).streams } := by
  unfold State.copyFailed
  rw [skipStream_rest]
  rfl

theorem copyFailed_packets : (s.copyFailed y cause va).packets = s.packets := by rw [copyFailed_rest]

theorem coachOf_copyFailed (key : Nat) : coachOf (s.copyFailed y cause va) key = coachOf s key := by rw [copyFailed_rest]; rfl

theorem trainOf_copyFailed (n : Nat) : trainOf (s.copyFailed y cause va) n = trainOf (s.setTrain y.train fun t => t.chanFailed y.chan) n := by
  rw [copyFailed_rest]; rfl

theorem streamTrain_copyFailed (strm : Nat) : streamTrain (s.copyFailed y cause va) strm = streamTrain s strm :=
  streamTrain_skipStream (s.setTrain y.train fun t => t.chanFailed y.chan) y strm

theorem fail_copyFailed {copy : Nat} {s : State} {y : Copy} (h : copyOf s copy = some y) :
    (copyOf (s.copyFailed y cause va) copy).bind Copy.fail = some (cause, va) := by
  have hid := id_of_copyOf h
  subst hid
  have : copyOf (s.copyFailed y cause va) y.id
      = copyOf (s.setCopy y.id fun z => z.failed cause va) y.id := by rw [copyFailed_rest]; rfl
  rw [this, copyOf_setCopy_self s y.id (fun z => z.failed cause va) fun _ => rfl, h]
  rfl

theorem err_copyFailed {k : Channel} (h : channelOf (s.copyFailed y cause va) y.train y.chan = some k) : k.err = true := by
  rw [channelOf, trainOf_copyFailed, trainOf_setTrain_self s y.train (fun t => t.chanFailed y.chan) fun _ => rfl,
    Option.map_map] at h
  obtain ⟨t, -, rfl⟩ := Option.map_eq_some_iff.mp h
  simp only [Function.comp_apply, Train.chanFailed, mget_mset_self, Option.getD_some]

end copyFailed

/-- An operation ends with an error while lanes of its coach are live: the coach alone changes. -/
theorem endCopyOp_live {s : State} {y : Copy} {key op : Nat} {c : Coach} (hi : y.issuer = some (key, op)) (hc : coachOf s key = some c)
    (hl : c.exited ≠ BitVec.allOnes 32) (err : Option (Nat × W64 × WalkCode)) : ∃ c', endCopyOp s y err = s.setCoach key c' := by
  simp only [endCopyOp, hi, hc]
  refine ⟨_, checkCoach_live (coachOf_setCoach_self ..) ?_⟩
  split <;> exact hl

theorem copyError_eq {s : State} {y : Copy} {issuer : Nat × Nat} (hi : y.issuer = some issuer) (cause : Nat) (va : W64) (walk : WalkCode) :
    copyError s y cause va walk = endCopyOp (s.copyFailed y cause va) y (some (cause, va, walk)) := by
  simp only [copyError, hi]
  rfl

/-- A piece of a stream fails, whose copy has a live issuer and whose train goes on (07 R169). -/
theorem failStreamPiece_live {s : State} {copy strm key op n : Nat} {y : Copy} {c : Coach} (hy : copyOf s copy = some y) (hp : y.phase = 3)
    (hi : y.issuer = some (key, op)) (hc : coachOf s key = some c) (hl : c.exited ≠ BitVec.allOnes 32) (hs : streamTrain s strm = some n)
    (hn : ∀ t, trainOf s n = some t → t.completed = false) (cause : Nat) (va : W64) (walk : WalkCode) :
    ∃ c', failStreamPiece s copy strm cause va walk = (s.copyFailed y cause va).setCoach key c' := by
  obtain ⟨c', hend⟩ := endCopyOp_live hi ((coachOf_copyFailed s y cause va key).trans hc) hl (some (cause, va, walk))
  have hfind : streamTrain ((s.copyFailed y cause va).setCoach key c') strm = some n := (streamTrain_copyFailed s y cause va strm).trans hs
  obtain ⟨z, hz, rfl⟩ := Option.map_eq_some_iff.mp hfind
  refine ⟨c', ?_⟩
  simp only [failStreamPiece, hy, hp, if_true, copyError_eq hi, hend, hz]
  refine tryRetire_incomplete fun t ht => ?_
  have hdone := completed_setTrain s y.train (fun t => t.chanFailed y.chan) (fun _ => rfl) (fun _ => rfl) z.train
  have ht : trainOf (s.setTrain y.train fun t => t.chanFailed y.chan) z.train = some t := (trainOf_copyFailed s y cause va z.train).symm.trans ht
  rw [ht] at hdone
  obtain ⟨t', ht', he⟩ := Option.map_eq_some_iff.mp hdone.symm
  exact he.symm.trans (hn t' ht')

theorem dropPacket_eq {s : State} {p : Packet} (h : (s.packets.find? fun q => q.id == p.id) = some p) :
    dropPacket s p.id = { s with packets := packetsWithout s p } := by
  rw [dropPacket, h]
  rfl

/-- A state without a stream packet that is lost: its stream counts the bytes as credited. -/
def State.withoutPiece (s : State) (p : Packet) (strm n : Nat) : State :=
  State.setStream { s with packets := packetsWithout s p } strm fun z => { z with credited := z.credited + n }

theorem streamTrain_withoutPiece (s : State) (p : Packet) (strm n : Nat) : streamTrain (s.withoutPiece p strm n) strm = streamTrain s strm :=
  streamTrain_updFirst { s with packets := packetsWithout s p } strm (fun z => z.id == strm) (fun z => { z with credited := z.credited + n })
    (fun _ => rfl) fun _ => rfl

theorem losePacket_eq {s : State} {p : Packet} {copy piece strm pos : Nat} {bs : List Byte}
    (hfind : (s.packets.find? fun q => q.id == p.id) = some p) (hload : p.load = .stream copy piece strm pos bs) :
    losePacket s p = failStreamPiece (s.withoutPiece p strm bs.length) copy strm 0x20
      (pieceVa { s with packets := packetsWithout s p } copy piece) {} := by
  simp only [losePacket, dropPacket_eq hfind, hload]
  rfl

/-- A stream packet is lost, and its copy fails (R178). -/
theorem losePacket_stream {s : State} {p : Packet} {copy piece strm pos : Nat} {bs : List Byte} {z : Stream} {y : Copy} {key op : Nat} {c : Coach}
    (hfind : (s.packets.find? fun q => q.id == p.id) = some p) (hload : p.load = .stream copy piece strm pos bs)
    (hz : (s.streams.find? fun v => v.id == strm) = some z) (hy : copyOf s copy = some y) (hp : y.phase = 3) (hi : y.issuer = some (key, op))
    (hc : coachOf s key = some c) (hl : c.exited ≠ BitVec.allOnes 32) (hn : ∀ t, trainOf s z.train = some t → t.completed = false) :
    (losePacket s p).packets = packetsWithout s p ∧ ((copyOf (losePacket s p) copy).bind Copy.fail).map Prod.fst = some 0x20
      ∧ ∀ k, channelOf (losePacket s p) y.train y.chan = some k → k.err = true := by
  have hs : streamTrain (s.withoutPiece p strm bs.length) strm = some z.train :=
    (streamTrain_withoutPiece ..).trans (congrArg (Option.map Stream.train) hz)
  have hy' : copyOf (s.withoutPiece p strm bs.length) copy = some y := hy
  rw [losePacket_eq hfind hload]
  generalize pieceVa { s with packets := packetsWithout s p } copy piece = va
  obtain ⟨c', he⟩ := failStreamPiece_live hy' hp hi hc hl hs hn 0x20 va {}
  rw [he]
  exact ⟨copyFailed_packets _ y 0x20 va, congrArg (Option.map Prod.fst) (fail_copyFailed 0x20 va hy'), fun k hk => err_copyFailed _ y 0x20 va hk⟩

/-! ## An access that fails at its far end (R32, R181) -/

theorem mset_mset {α : Type} (m : SMap α) (k : Nat) (a b : α) : mset (mset m k a) k b = mset m k b := by
  induction m with
  | nil => simp [mset]
  | cons e m ih =>
    obtain ⟨j, v⟩ := e
    by_cases hj : j = k
    · simp [mset, hj]
    · by_cases hlt : k < j
      · simp [mset, hj, hlt]
      · simp [mset, hj, hlt, ih]

theorem setCoach_setCoach (s : State) (key : Nat) (c d : Coach) : (s.setCoach key c).setCoach key d = s.setCoach key d := by
  simp only [State.setCoach, mset_mset]

/-- What of a coach a value leaves alone that arrives at a destination: which coach it is, and which of its lanes have exited. -/
def Coach.seat (c : Coach) : Nat × Mask := (c.key, c.exited)

theorem seat_writeSD (c : Coach) (d : SDst) (x : W64) : (writeSD c d x).seat = c.seat := by cases d <;> rfl

theorem seat_writeVD (c : Coach) (l : Nat) (d : VDst) (x : W32) : (writeVD c l d x).seat = c.seat := by
  cases d with
  | port q => unfold writeVD; dsimp only; split <;> rfl
  | _ => rfl

theorem seat_writeVDs (l : Nat) (es : List (VDst × W32)) (c : Coach) :
    (es.foldl (fun c e => writeVD c l e.1 e.2) c).seat = c.seat := by
  induction es generalizing c with
  | nil => rfl
  | cons e es ih => exact (ih _).trans (seat_writeVD c l e.1 e.2)

theorem seat_advancePorts (c : Coach) (qs ls : List Nat) : (advancePorts c qs ls).seat = c.seat := by
  unfold advancePorts
  split <;> rfl

theorem seat_deliver (c : Coach) (p : Piece) (v : Nat) : (deliver c p v).seat = c.seat := by
  unfold deliver
  split
  · rfl
  · rfl
  · exact seat_writeSD ..
  · exact (seat_advancePorts ..).trans (seat_writeVDs ..)

theorem failPiece_eq {s : State} {r : OpRef} {x : Site1} (hk : x.c.key = r.key) (hl : x.c.exited ≠ BitVec.allOnes 32) (cause : Nat) :
    failPiece s r x cause = accessFailed s r x cause := by
  have hseat := seat_deliver x.c x.p (leNat (takeFreeBytes s x.p.size).1)
  have hkey : (deliver x.c x.p (leNat (takeFreeBytes s x.p.size).1)).key = r.key := (congrArg Prod.fst hseat).trans hk
  have hlive : (deliver x.c x.p (leNat (takeFreeBytes s x.p.size).1)).exited ≠ BitVec.allOnes 32 := by
    have hexited : (deliver x.c x.p (leNat (takeFreeBytes s x.p.size).1)).exited = x.c.exited := congrArg Prod.snd hseat
    rwa [hexited]
  simp only [failPiece, deliverFree, State.putCoach, hkey, putPiece, putPieces, coachOf_setCoach_self]
  rw [setCoach_setCoach]
  exact checkCoach_live (coachOf_setCoach_self ..) hlive

theorem exec_completionTimeout {s : State} {r : OpRef} {x : Site1} (hx : accessOf s r = some x) (h0 : x.p.phase = 0)
    (hkind : (x.o.kind = .load ∧ (x.p.space = .host ∨ x.p.space = .peer)) ∨ (x.o.kind = .store ∧ x.p.space = .peer)) :
    exec (.completionTimeout r) s = .next (failPiece s r x 0x20) := by
  change Host.Outcome.next (completionTimeout s r) = _
  rcases hkind with ⟨hk, hs | hs⟩ | ⟨hk, hs⟩ <;> simp only [completionTimeout, hx, h0, hk, hs, ne_eq, not_true_eq_false, if_false]

/-! ## Peer ports (R181, R436) -/

/-- A state in which the link of the peer port of a chassis is down. -/
def State.peerDown (s : State) (d : Nat) : State :=
  s.setChassis d { chassisOf s d with peer := { (chassisOf s d).peer with state := 3, wasdown := true } }

/-- An access that fails since its peer port is down. -/
theorem failAccess_eq {s : State} {r : OpRef} {x : Site1} (hx : accessOf s r = some x) (hk : x.c.key = r.key)
    (hl : x.c.exited ≠ BitVec.allOnes 32) : failAccess s r = accessFailed s r x 0x20 := by
  rw [failAccess, hx]
  exact failPiece_eq hk hl 0x20

section peer
variable {s : State} {p : Nat}

theorem exec_peerLinkDown (h2 : (chassisOf s (2 * (p % 8) + 1)).peer.state = 2)
    (hns : (chassisOf s (2 * (p % 8) + 1)).peer.since + 50000 ≤ s.ns) : exec (.peerLinkDown p) s = .next ((peerPieces s (p % 8)).foldl failAccess
      (s.peerDown (2 * (p % 8) + 1))) := by
  have hgo : ¬((chassisOf s (2 * (p % 8) + 1)).peer.state != 2
      || decide (s.ns < (chassisOf s (2 * (p % 8) + 1)).peer.since + 50000)) = true := by simp [h2, hns]
  change execPeerLinkDown p s = _
  unfold execPeerLinkDown
  dsimp only
  rw [if_neg hgo]
  rfl

theorem exec_peerPortRetry (hst : 2 ≤ s.stage) (h0 : (chassisOf s (2 * (p % 8) + 1)).peer.state = 0)
    (hns : (chassisOf s (2 * (p % 8) + 1)).peer.since + 10000000 ≤ s.ns) (b : Bool) : exec (.peerPortRetry p b) s
      = .next (s.setChassis (2 * (p % 8) + 1) { chassisOf s (2 * (p % 8) + 1) with
          peer := { (chassisOf s (2 * (p % 8) + 1)).peer with state := if b then 1 else 0, since := s.ns } }) := by
  have hgo : ¬(decide (s.stage < 2) || (chassisOf s (2 * (p % 8) + 1)).peer.state != 0
      || decide (s.ns < (chassisOf s (2 * (p % 8) + 1)).peer.since + 10000000)) = true := by
    have hstage : ¬s.stage < 2 := by omega
    simp [h0, hns, hstage]
  change execPeerPortRetry p b s = _
  unfold execPeerPortRetry
  dsimp only
  rw [if_neg hgo]

end peer

/-! ## The statement -/

/-- Settles O54: each event's equation gives the next state, the rerouting of packets is the rule's, and a peer's request is a step of caches
and cells at the homes of its sectors. -/
theorem ringAndPeerPortsRun : Obligations.RingAndPeerPortsRun := by
  unfold Obligations.RingAndPeerPortsRun
  refine ⟨fun s p hp ha => ⟨?moves, ?lost⟩, fun s d p => ⟨exec_flitReplay, ?start, ?complete⟩, fun s d h2 hns => ⟨?first, ?second, ?later⟩,
    fun s hs => ⟨exec_routeSwitchComplete_first hs, exec_routeSwitchComplete_divided hs⟩, fun s p => ⟨?peerDown, exec_peerPortRetry⟩,
    fun s p pa bs hport hhome => ⟨exec_peerRequestArrive_unreachable hport hhome, ?requests⟩, ?timeout⟩
  case moves =>
    intro hr hs hh hstop
    have hhop : p.hop = (if p.west then (p.stop + 15) % 16 else p.stop, if p.west then (p.stop + 15) % 16 else (p.stop + 1) % 16) := by
      unfold Packet.hop
      split <;> rfl
    have hdate := hop_eq_dateline hstop
    refine ⟨p.moved, exec_ringPacketArrive_moves hp ha hr hs (by rw [hhop]; exact hh), ?_, fun hd => if_pos (hdate.mpr hd),
      fun hd => if_neg fun h => hd (hdate.mp h), ?_⟩
    · simp only [Packet.moved, hhop]
    · simp only [Packet.moved, Bool.or_eq_true, Load.sums_iff, beq_iff_eq, hhop]
  case lost =>
    intro copy piece strm pos bs z y key op c t hr hload hz hy hphase hi hc hl _ hn
    exact ⟨_, exec_ringPacketArrive_loses hp ha hr, losePacket_stream hp hload hz hy hphase hi hc hl hn⟩
  case start =>
    intro h
    rw [exec_linkRetrainStart h, setLink_eq]
  case complete =>
    intro h hns
    rw [exec_linkRetrainComplete h hns, setLink_eq]
  case first => exact fun hn => exec_hopDown_first h2 hns ((otherDown_eq ..).trans hn)
  case second => exact fun hn => exec_hopDown_second h2 hns ((otherDown_eq ..).trans hn)
  case later => exact fun hn => exec_hopDown_later h2 hns (hn.trans (otherDown_eq ..).ge)
  case peerDown =>
    intro h2 hns
    refine ⟨fun hnone => ?_, fun r x hone hx hk hl => ?_⟩
    · rw [exec_peerLinkDown h2 hns, hnone]
      rfl
    · rw [exec_peerLinkDown h2 hns, hone]
      exact congrArg _ (failAccess_eq (s := s.peerDown (2 * (p % 8) + 1)) hx hk hl)
  case requests =>
    intro hreach hpath hc hb hfree _
    exact ⟨exec_peerRequestArrive_write hport hhome hreach hpath hc hb hfree, exec_peerRequestArrive_read hport hhome hreach hpath hc hb hfree⟩
  case timeout =>
    intro s r x hx hk hl h0 hkind
    rw [exec_completionTimeout hx h0 hkind, failPiece_eq hk hl]

end Sys2Proof.Machine
end

section
/-! PROOFS. Where the lanes of a coach stand, by the groups that its carriages and siding entries form (08 R187, R190): coupling and filling
regroup them, and move none (R191, R192). -/

namespace Sys2Proof.Machine

open Sys2Proof.Rules

/-! ## Maps in rising order -/

theorem ne_of_mget_none {α : Type} {m : SMap α} {k : Nat} (h : mget m k = none) : ∀ e ∈ m, e.1 ≠ k := by
  induction m with
  | nil => simp
  | cons a m ih =>
    obtain ⟨j, b⟩ := a
    rw [mget] at h
    split at h
    · simp at h
    · next hj => exact List.forall_mem_cons.mpr ⟨hj, ih h⟩

theorem mdel_of_mget_none {α : Type} {m : SMap α} {k : Nat} (h : mget m k = none) : mdel m k = m :=
  List.filter_eq_self.mpr fun e he => decide_eq_true (ne_of_mget_none h e he)

theorem mdel_mset_self {α : Type} (m : SMap α) (k : Nat) (v : α) : mdel (mset m k v) k = mdel m k := by
  induction m with
  | nil => simp [mset, mdel]
  | cons a m ih =>
    obtain ⟨j, b⟩ := a
    rw [mset]
    split
    · next hj => simp [mdel, hj]
    · split
      · simp [mdel]
      · unfold mdel at *; rw [List.filter_cons, List.filter_cons, ih]

theorem perm_cons_mdel {α : Type} {m : SMap α} (hm : (m.map Prod.fst).Pairwise (· < ·)) {k : Nat} {v : α} (h : mget m k = some v) :
    m.Perm ((k, v) :: mdel m k) := by
  induction m with
  | nil => simp [mget] at h
  | cons a m ih =>
    obtain ⟨j, b⟩ := a
    obtain ⟨hj, hm⟩ := List.pairwise_cons.mp hm
    rw [mget] at h
    split at h
    · next hk =>
      subst hk
      have hd : mdel m j = m := List.filter_eq_self.mpr fun e he => decide_eq_true (hj _ (List.mem_map_of_mem he)).ne'
      have hd' : mdel ((j, b) :: m) j = m := by rw [← hd]; simp [mdel]
      rw [hd', Option.some.inj h]
    · next hk =>
      have hd : mdel ((j, b) :: m) k = (j, b) :: mdel m k := by simp [mdel, hk]
      rw [hd]
      exact ((ih hm h).cons _).trans (.swap ..)

theorem mset_perm {α : Type} {m : SMap α} (hm : (m.map Prod.fst).Pairwise (· < ·)) (k : Nat) (v : α) :
    (mset m k v).Perm ((k, v) :: mdel m k) := by
  simpa only [mdel_mset_self] using perm_cons_mdel (pairwise_mset hm k v) (mget_mset_self m k v)

/-! ## Groups of lanes -/

/-- The state that carriages and entries must share to couple, as `laneAt` gives it: pc, level and repeat state. -/
abbrev Place := W64 × Level × Option Rep

def Carriage.place (k : Carriage) : Place := (k.pc, k.level, k.rep)
def SidingEntry.place (e : SidingEntry) : Place := (e.pc, e.level, e.rep)

/-- The lanes of a carriage, and where they stand. -/
def Carriage.group (k : Carriage) : Mask × Place := (k.lanes, k.place)
def SidingEntry.group (e : SidingEntry) : Mask × Place := (e.lanes, e.place)

/-- The groups of lanes of a coach. -/
def Coach.groups (c : Coach) : List (Mask × Place) := c.slots.map (fun e => e.2.group) ++ c.siding.map SidingEntry.group

/-- No lane is in two groups. -/
def Apart (gs : List (Mask × Place)) : Prop := gs.Pairwise fun a b => a.1 &&& b.1 = 0

/-- A lane stands somewhere, by some groups. -/
def StandsAt (gs : List (Mask × Place)) (l : Nat) (p : Place) : Prop := ∃ m : Mask, (m, p) ∈ gs ∧ m.getLsbD l = true

/-- The slots of a coach are listed in order. -/
def Coach.inOrder (c : Coach) : Prop := (c.slots.map Prod.fst).Pairwise (· < ·)

theorem orderly_iff {c : Coach} : orderly c ↔ c.inOrder ∧ Apart c.groups := by
  have h : (c.slots.map (fun e => e.2.lanes) ++ c.siding.map SidingEntry.lanes) = c.groups.map Prod.fst := by
    simp [Coach.groups, Carriage.group, SidingEntry.group, Function.comp_def]
  rw [orderly, h]
  exact and_congr_right fun _ => List.pairwise_map

theorem not_both_lanes {a b : Mask} (h : a &&& b = 0) {l : Nat} (ha : a.getLsbD l = true) : b.getLsbD l = false := by
  have := congrArg (BitVec.getLsbD · l) h
  simpa [ha] using this

/-- Where a lane stands, by a list of groups. -/
def placeAmong (gs : List (Mask × Place)) (l : Nat) : Option Place := (gs.find? fun g => g.1.getLsbD l).map Prod.snd

theorem laneAt_eq (c : Coach) (l : Nat) : laneAt c l = placeAmong c.groups l := by
  rw [placeAmong, Coach.groups, List.find?_append, List.find?_map, List.find?_map]
  simp only [laneAt, Function.comp_def, Carriage.group, SidingEntry.group]
  cases h : c.slots.find? fun e => e.2.lanes.getLsbD l
  · simp [Function.comp_def, SidingEntry.group, SidingEntry.place]
  · simp [Carriage.place]

theorem placeAmong_eq_some_iff {gs : List (Mask × Place)} (h : Apart gs) {l : Nat} {p : Place} : placeAmong gs l = some p ↔ StandsAt gs l p := by
  induction gs with
  | nil => simp [placeAmong, StandsAt]
  | cons g gs ih =>
    obtain ⟨hg, h⟩ := List.pairwise_cons.mp h
    cases hl : g.1.getLsbD l with
    | true =>
      have hno (m : Mask) (hm : (m, p) ∈ gs) : m.getLsbD l = false := not_both_lanes (hg _ hm) hl
      have hp : placeAmong (g :: gs) l = some g.2 := by simp [placeAmong, hl]
      rw [hp, Option.some.injEq]
      constructor
      · rintro rfl
        exact ⟨g.1, List.mem_cons_self .., hl⟩
      · rintro ⟨m, hm, hml⟩
        rcases List.mem_cons.mp hm with rfl | hm
        · rfl
        · simp [hno m hm] at hml
    | false =>
      have hp : placeAmong (g :: gs) l = placeAmong gs l := by simp [placeAmong, hl]
      rw [hp, ih h]
      refine exists_congr fun m => ⟨fun ⟨hm, hml⟩ => ⟨.tail _ hm, hml⟩, fun ⟨hm, hml⟩ => ⟨?_, hml⟩⟩
      rcases List.mem_cons.mp hm with rfl | hm
      · simp [hl] at hml
      · exact hm

theorem placeAmong_congr {gs hs : List (Mask × Place)} (hg : Apart gs) (hh : Apart hs) {l : Nat}
    (h : ∀ p, StandsAt gs l p ↔ StandsAt hs l p) : placeAmong gs l = placeAmong hs l :=
  Option.ext fun p => by rw [placeAmong_eq_some_iff hg, placeAmong_eq_some_iff hh, h]

/-! ## Regrouping -/

/-- Groups listed in another order, and groups of one place taken together. -/
inductive Regrouped : List (Mask × Place) → List (Mask × Place) → Prop
  | perm {a b : List (Mask × Place)} : a.Perm b → Regrouped a b
  | join (m n : Mask) (p : Place) (gs : List (Mask × Place)) : Regrouped ((m, p) :: (n, p) :: gs) ((m ||| n, p) :: gs)
  | trans {a b c : List (Mask × Place)} : Regrouped a b → Regrouped b c → Regrouped a c

theorem Regrouped.refl (a : List (Mask × Place)) : Regrouped a a := .perm (.refl a)

theorem Regrouped.append {a b : List (Mask × Place)} (h : Regrouped a b) (r : List (Mask × Place)) : Regrouped (a ++ r) (b ++ r) := by
  induction h with
  | perm h => exact .perm (h.append_right r)
  | join m n p gs => exact .join m n p (gs ++ r)
  | trans _ _ h g => exact h.trans g

theorem Regrouped.prepend {a b : List (Mask × Place)} (h : Regrouped a b) (r : List (Mask × Place)) : Regrouped (r ++ a) (r ++ b) :=
  ((Regrouped.perm List.perm_append_comm).trans (h.append r)).trans (.perm List.perm_append_comm)

theorem Apart.perm {a b : List (Mask × Place)} (h : Apart a) (hp : a.Perm b) : Apart b :=
  (hp.pairwise_iff fun h => by rwa [BitVec.and_comm]).mp h

theorem Regrouped.apart {a b : List (Mask × Place)} (h : Regrouped a b) (ha : Apart a) : Apart b := by
  induction h with
  | perm h => exact ha.perm h
  | join m n p gs =>
    obtain ⟨hm, ha⟩ := List.pairwise_cons.mp ha
    obtain ⟨hn, ha⟩ := List.pairwise_cons.mp ha
    refine List.pairwise_cons.mpr ⟨fun g hg => ?_, ha⟩
    have h1 := hm g (.tail _ hg)
    have h2 := hn g hg
    simp only at h1 h2 ⊢
    rw [BitVec.and_comm, BitVec.and_or_distrib_left, BitVec.and_comm g.1, BitVec.and_comm g.1, h1, h2]
    rfl
  | trans _ _ h g => exact g (h ha)

theorem Regrouped.standsAt {a b : List (Mask × Place)} (h : Regrouped a b) (l : Nat) (p : Place) : StandsAt b l p ↔ StandsAt a l p := by
  induction h with
  | perm h => simp only [StandsAt, h.mem_iff]
  | join m n q gs =>
    simp only [StandsAt, List.mem_cons, Prod.mk.injEq, or_and_right, exists_or, and_assoc, exists_eq_left, BitVec.getLsbD_or, Bool.or_eq_true,
      and_or_left, or_assoc]
  | trans _ _ h g => exact g.trans h

theorem Regrouped.placeAmong {a b : List (Mask × Place)} (h : Regrouped a b) (ha : Apart a) (l : Nat) : placeAmong b l = placeAmong a l :=
  placeAmong_congr (h.apart ha) ha (h.standsAt l)

/-! ## Settling -/

/-- A change of a coach that keeps its slots in order and regroups its lanes. -/
def Coach.regroups (c w : Coach) : Prop := c.inOrder → w.inOrder ∧ Regrouped c.groups w.groups

theorem Coach.regroups.trans {c d e : Coach} (h : c.regroups d) (g : d.regroups e) : c.regroups e := fun hc =>
  have ⟨hd, hr⟩ := h hc
  have ⟨he, hs⟩ := g hd
  ⟨he, hr.trans hs⟩

theorem foldl_regroups {α : Type} (f : Coach → α → Coach) (hf : ∀ (c : Coach) (a : α), c.regroups (f c a)) (as : List α) :
    ∀ c : Coach, c.regroups (as.foldl f c) := by
  induction as with
  | nil => exact fun c hc => ⟨hc, .refl _⟩
  | cons a as ih => exact fun c => (hf c a).trans (ih _)

theorem Coach.regroups.keepsOrder {c w : Coach} (h : c.regroups w) (hc : orderly c) : orderly w :=
  have ⟨hin, ha⟩ := orderly_iff.mp hc
  orderly_iff.mpr ⟨(h hin).1, (h hin).2.apart ha⟩

theorem Coach.regroups.keepsLane {c w : Coach} (h : c.regroups w) (hc : orderly c) (l : Nat) : laneAt w l = laneAt c l := by
  obtain ⟨hin, ha⟩ := orderly_iff.mp hc
  rw [laneAt_eq, laneAt_eq, (h hin).2.placeAmong ha]

/-- Carriages of one place that are joined in turn are one group. -/
theorem regrouped_foldl_join {p : Place} (ks : List Carriage) (r : List (Mask × Place)) :
    ∀ k : Carriage, k.place = p → (∀ n ∈ ks, n.place = p) →
    Regrouped ((k :: ks).map Carriage.group ++ r) ((ks.foldl Carriage.join k).group :: r) := by
  induction ks with
  | nil => exact fun k _ _ => .refl _
  | cons n ks ih =>
    intro k hk hks
    have hn : n.place = p := hks n (List.mem_cons_self ..)
    have hj : Regrouped ((k :: n :: ks).map Carriage.group ++ r) ((k.join n :: ks).map Carriage.group ++ r) := by
      have hplace : (k.join n).place = p := hk
      have hlanes : (k.join n).lanes = k.lanes ||| n.lanes := rfl
      simpa [Carriage.group, hk, hn, hplace, hlanes] using Regrouped.join k.lanes n.lanes p (ks.map Carriage.group ++ r)
    exact hj.trans (ih (k.join n) hk fun m hm => hks m (.tail _ hm))

/-! ## Coupling (R192) -/

theorem meets_iff {a b : Carriage} : a.meets b = true ↔ a.place = b.place ∧ (a.level ≠ .U → a.fslot = b.fslot) := by
  simp only [Carriage.meets, Carriage.place, Bool.and_eq_true, Bool.or_eq_true, beq_iff_eq, Prod.mk.injEq]
  tauto

/-- The other carriages that the carriage of a slot meets, and the unheld siding entries. -/
def Coach.mates (c : Coach) (j : Nat) (k : Carriage) : SMap Carriage := c.slots.filter fun e => e.1 != j && k.meets e.2
def Coach.strays (c : Coach) (j : Nat) (k : Carriage) : List SidingEntry := c.siding.filter fun e => e.held.isNone && k.meets (e.carriage j)

/-- All that couples with the carriage of a slot, as carriages. -/
def Coach.company (c : Coach) (j : Nat) (k : Carriage) : List Carriage :=
  (c.mates j k).map Prod.snd ++ (c.strays j k).map fun e => e.carriage j

/-- The carriages that neither stand in a slot nor meet its carriage, and the entries that do not couple with it. -/
def Coach.aside (c : Coach) (j : Nat) (k : Carriage) : SMap Carriage := c.slots.filter fun e => !(e.1 != j && k.meets e.2) && e.1 != j
def Coach.others (c : Coach) (j : Nat) (k : Carriage) : List SidingEntry := c.siding.filter fun e => !(e.held.isNone && k.meets (e.carriage j))

/-- The lowest slot of a carriage and those that it meets. -/
def Coach.lowest (c : Coach) (j : Nat) (k : Carriage) : Nat := ((c.mates j k).map Prod.fst).foldl min j

theorem meets_of_mem_company {c : Coach} {j : Nat} {k n : Carriage} (h : n ∈ c.company j k) : k.meets n = true := by
  rcases List.mem_append.mp h with h | h <;> obtain ⟨e, he, rfl⟩ := List.mem_map.mp h <;>
    simpa using (Bool.and_eq_true_iff.mp (List.mem_filter.mp he).2).2

/-- A carriage with the lanes, the place and the members of another, and in its frame slot where it has a frame. -/
def Carriage.standsFor (n k : Carriage) : Prop :=
  n.group = k.group ∧ n.member = k.member ∧ (k.level ≠ .U → n.fslot = k.fslot)

theorem Carriage.standsFor.trans {m n k : Carriage} (h : m.standsFor n) (g : n.standsFor k) : m.standsFor k := by
  obtain ⟨hg, hm, hf⟩ := h
  obtain ⟨gg, gm, gf⟩ := g
  have hl : n.level = k.level := congrArg (fun g : Mask × Place => g.2.2.1) gg
  exact ⟨hg.trans gg, hm.trans gm, fun hk => (hf (hl ▸ hk)).trans (gf hk)⟩

/-- A carriage that comes to lie in a slot: at U that is its frame slot (08 R187). -/
def Carriage.inSlot (k : Carriage) (i : Nat) : Carriage := if k.level = .U then { k with fslot := i } else k

theorem inSlot_standsFor (k : Carriage) (i : Nat) : (k.inSlot i).standsFor k := by
  rw [Carriage.inSlot]
  split
  · next hu => exact ⟨rfl, rfl, fun hl => absurd hu hl⟩
  · exact ⟨rfl, rfl, fun _ => rfl⟩

theorem arriveJoined_slots (c : Coach) (b : Option Nat) (j : Nat) (k : Carriage) :
    ∃ n, n.standsFor k ∧ (arriveJoined c b j k).slots = mset c.slots j n ∧ (arriveJoined c b j k).siding = c.siding := by
  cases b with
  | none => exact ⟨k, ⟨rfl, rfl, fun _ => rfl⟩, rfl, rfl⟩
  | some m => exact ⟨{ k with wait := some (.bar m), bar := some m }, ⟨rfl, rfl, fun _ => rfl⟩, rfl, rfl⟩

theorem foldl_min_mem (is : List Nat) : ∀ j : Nat, is.foldl min j = j ∨ is.foldl min j ∈ is := by
  induction is with
  | nil => exact fun j => .inl rfl
  | cons i is ih =>
    intro j
    rw [List.foldl_cons, List.mem_cons]
    rcases ih (min j i) with h | h
    · rw [h]; omega
    · exact .inr (.inr h)

theorem coupleAt_of_free {c : Coach} {j : Nat} (h : mget c.slots j = none) : coupleAt c j = c := by rw [coupleAt, h]

theorem coupleAt_of_no_company {c : Coach} {j : Nat} {k : Carriage} (hk : mget c.slots j = some k) (h : c.company j k = []) :
    coupleAt c j = c := by
  obtain ⟨hm, hs⟩ := List.append_eq_nil_iff.mp h
  have hboth : (c.mates j k).isEmpty && (c.strays j k).isEmpty := by simp [List.map_eq_nil_iff.mp hm, List.map_eq_nil_iff.mp hs]
  rw [coupleAt, hk]
  exact if_pos hboth

/-- A coach in which the carriage of a slot has taken in all that it meets. -/
def Coach.coupled (c : Coach) (j : Nat) (k : Carriage) : Coach :=
  arriveJoined { c with slots := c.aside j k, siding := c.others j k } (barrierOf (k :: c.company j k)) (c.lowest j k)
    (((c.company j k).foldl Carriage.join k).inSlot (c.lowest j k))

/-- A carriage and all that it meets are one, in the lowest slot of theirs. -/
theorem coupleAt_joined {c : Coach} {j : Nat} {k : Carriage} (hk : mget c.slots j = some k) (h : c.company j k ≠ []) :
    ∃ n : Carriage, n.standsFor ((c.company j k).foldl Carriage.join k)
      ∧ (coupleAt c j).slots = mset (c.aside j k) (c.lowest j k) n
      ∧ (coupleAt c j).siding = c.others j k := by
  have hboth : ¬ ((c.mates j k).isEmpty && (c.strays j k).isEmpty) = true := by
    simpa [Coach.company, or_iff_not_imp_left] using h
  have he : coupleAt c j = c.coupled j k := by
    rw [coupleAt, hk]
    exact if_neg hboth
  obtain ⟨n, hn, hs, hd⟩ := arriveJoined_slots { c with slots := c.aside j k, siding := c.others j k } (barrierOf (k :: c.company j k))
    (c.lowest j k) (((c.company j k).foldl Carriage.join k).inSlot (c.lowest j k))
  exact ⟨n, hn.trans (inSlot_standsFor _ _), he ▸ hs, he ▸ hd⟩

/-- What coupling can do: nothing, or the carriage and all that it meets are one. -/
theorem coupleAt_cases (c : Coach) (j : Nat) : coupleAt c j = c ∨ ∃ (k n : Carriage), mget c.slots j = some k
    ∧ n.standsFor ((c.company j k).foldl Carriage.join k)
    ∧ (coupleAt c j).slots = mset (c.aside j k) (c.lowest j k) n
    ∧ (coupleAt c j).siding = c.others j k := by
  cases hk : mget c.slots j with
  | none => exact .inl (coupleAt_of_free hk)
  | some k =>
    by_cases h : c.company j k = []
    · exact .inl (coupleAt_of_no_company hk h)
    · obtain ⟨n, hn⟩ := coupleAt_joined hk h
      exact .inr ⟨k, n, rfl, hn⟩

theorem slots_perm_company {c : Coach} (hc : c.inOrder) {j : Nat} {k : Carriage} (hk : mget c.slots j = some k) :
    c.slots.Perm ((j, k) :: (c.mates j k ++ c.aside j k)) := by
  have hm : (mdel c.slots j).filter (fun e => e.1 != j && k.meets e.2) = c.mates j k := by
    rw [mdel, List.filter_filter, Coach.mates]
    refine List.filter_congr fun e _ => ?_
    by_cases h : e.1 = j <;> simp [h]
  have ha : (mdel c.slots j).filter (fun e => !(e.1 != j && k.meets e.2)) = c.aside j k := by
    rw [mdel, List.filter_filter, Coach.aside]
    refine List.filter_congr fun e _ => ?_
    by_cases h : e.1 = j <;> simp [h]
  have hp := (List.filter_append_perm (fun e : Nat × Carriage => e.1 != j && k.meets e.2) (mdel c.slots j)).symm
  rw [hm, ha] at hp
  exact (perm_cons_mdel hc hk).trans (hp.cons _)

/-- No carriage that stands aside is in a slot that the coupling concerns. -/
theorem mget_aside {c : Coach} (hc : c.inOrder) (j : Nat) (k : Carriage) :
    mget (c.aside j k) (c.lowest j k) = none := by
  refine mget_eq_none fun e he hei => ?_
  obtain ⟨he, ha⟩ := List.mem_filter.mp he
  rw [Coach.lowest] at hei
  rcases foldl_min_mem ((c.mates j k).map Prod.fst) j with hi | hi <;> rw [← hei] at hi
  · simp [hi] at ha
  · obtain ⟨m, hm, hme⟩ := List.mem_map.mp hi
    obtain ⟨hm, hmate⟩ := List.mem_filter.mp hm
    have hem : e = m := List.inj_on_of_nodup_map (hc.imp fun h => h.ne) he hm hme.symm
    simp [hem, hmate] at ha

theorem coupleAt_regroups (c : Coach) (j : Nat) : c.regroups (coupleAt c j) := by
  intro hc
  rcases coupleAt_cases c j with h | ⟨k, n, hk, ⟨hg, -, -⟩, hs, hd⟩
  · rw [h]; exact ⟨hc, .refl _⟩
  · have ha : ((c.aside j k).map Prod.fst).Pairwise (· < ·) := hc.sublist (List.Sublist.map _ List.filter_sublist)
    refine ⟨by rw [Coach.inOrder, hs]; exact pairwise_mset ha _ n, ?_⟩
    have hslots := (slots_perm_company hc hk).map fun e => e.2.group
    have hsiding := (List.filter_append_perm (fun e : SidingEntry => e.held.isNone && k.meets (e.carriage j)) c.siding).symm.map SidingEntry.group
    have hall : c.groups.Perm ((k :: c.company j k).map Carriage.group ++ ((c.aside j k).map (fun e => e.2.group)
        ++ (coupleAt c j).siding.map SidingEntry.group)) := by
      refine (hslots.append hsiding).trans ?_
      simp only [Coach.company, hd, Coach.others, List.map_cons, List.map_append, List.map_map, List.cons_append, List.append_assoc]
      exact ((List.perm_append_comm_assoc _ _ _).append_left _).cons _
    have hnew : ((coupleAt c j).slots.map fun e => e.2.group).Perm (n.group :: (c.aside j k).map fun e => e.2.group) := by
      rw [hs]
      have hp := (mset_perm ha (c.lowest j k) n).map fun e => e.2.group
      rwa [mdel_of_mget_none (mget_aside hc j k)] at hp
    refine ((Regrouped.perm hall).trans (regrouped_foldl_join _ _ k rfl fun m hm => (meets_iff.mp (meets_of_mem_company hm)).1.symm)).trans ?_
    rw [← hg]
    exact .perm (hnew.append_right _).symm

/-! ## Filling (R191) -/

theorem erase_perm_of_find {c : Coach} {e : SidingEntry} (h : (c.siding.find? fun e => e.held.isNone) = some e) :
    c.siding.Perm (e :: c.siding.erase e) := List.perm_cons_erase (List.mem_of_find?_eq_some h)

theorem fillAt_regroups (c : Coach) (j : Nat) : c.regroups (fillAt c j) := by
  intro hc
  rw [fillAt]
  split
  · next e hj he =>
    refine ⟨pairwise_mset hc j _, .perm ?_⟩
    have hs := (mset_perm hc j { e.carriage j with lastIssue := c.issued }).map fun e => e.2.group
    rw [mdel_of_mget_none hj] at hs
    refine (((erase_perm_of_find he).map SidingEntry.group).append_left _).trans (.trans ?_ (hs.append_right _).symm)
    exact List.perm_middle
  · exact ⟨hc, .refl _⟩

/-- Coupling and filling move no lane. -/
theorem settle_regroups (c : Coach) : c.regroups (settle c) :=
  (foldl_regroups _ coupleAt_regroups _ c).trans
    (foldl_regroups _ (fun c j => (fillAt_regroups c j).trans (coupleAt_regroups _ j)) _ _)

/-! ## The siding (R190) -/

theorem insertEntry_perm (e : SidingEntry) (es : List SidingEntry) : (insertEntry e es).Perm (e :: es) := by
  induction es with
  | nil => exact .refl _
  | cons x xs ih =>
    rw [insertEntry]
    split
    · exact .refl _
    · exact (ih.cons x).trans (.swap ..)

theorem joins_iff {a b : SidingEntry} : a.joins b = true ↔ b.held = none ∧ b.place = a.place ∧ (a.level ≠ .U → a.fslot = b.fslot) := by
  simp only [SidingEntry.joins, SidingEntry.place, Bool.and_eq_true, Bool.or_eq_true, beq_iff_eq, Option.isNone_iff_eq_none, Prod.mk.injEq,
    eq_comm (a := a.pc), eq_comm (a := a.level) (b := b.level), eq_comm (a := a.rep)]
  tauto

theorem updFirst_regroups (e : SidingEntry) (f : SidingEntry → SidingEntry) (hf : ∀ x, (f x).group = (x.lanes ||| e.lanes, x.place))
    (es : List SidingEntry) (h : es.any e.joins = true) :
    Regrouped ((e :: es).map SidingEntry.group) ((updFirst e.joins f es).map SidingEntry.group) := by
  induction es with
  | nil => simp at h
  | cons x xs ih =>
    rw [updFirst]
    split
    · next hx =>
      have hp : e.place = x.place := (joins_iff.mp hx).2.1.symm
      have hswap : ((e :: x :: xs).map SidingEntry.group).Perm ((x.lanes, x.place) :: (e.lanes, x.place) :: xs.map SidingEntry.group) := by
        rw [← hp]
        simpa [SidingEntry.group, hp] using .swap ..
      rw [List.map_cons (l := xs), hf x]
      exact (Regrouped.perm hswap).trans (.join ..)
    · next hx =>
      have hr := ih (by simpa [hx] using h)
      exact (Regrouped.perm (.swap ..)).trans (hr.prepend [x.group])

/-- A group that goes to the siding stands there as it stood. -/
theorem toSiding_regroups (es : List SidingEntry) (e : SidingEntry) :
    Regrouped ((e :: es).map SidingEntry.group) ((toSiding es e).map SidingEntry.group) := by
  rw [toSiding]
  split
  · next h => exact updFirst_regroups e _ (fun x => rfl) es h
  · exact .perm ((insertEntry_perm e es).map _).symm

end Sys2Proof.Machine
end

section
/-! PROOFS. Coupling, filling and demotion, as the statements name them (08 R190 to R193). -/

namespace Sys2Proof.Machine

open Sys2Proof.Rules

/-! ## What stands alone stays as it is -/

/-- A pass over the slots that changes a coach at one slot alone. -/
theorem foldl_slotNums {f : Coach → Nat → Coach} {c : Coach} {i : Nat} (hi : i < 4) (hlow : ∀ n < i, f c n = c)
    (hhigh : ∀ n, f (f c i) n = f c i) : slotNums.foldl f c = f c i := by
  have h : slotNums = List.range i ++ i :: (List.range' (i + 1) (3 - i)) := by interval_cases i <;> rfl
  rw [h, List.foldl_append, foldl_eq_self _ fun n hn => hlow n (List.mem_range.mp hn), List.foldl_cons, foldl_eq_self _ fun n _ => hhigh n]

theorem alone_of_place_ne {c : Coach} {j : Nat} (h : ∀ k, mget c.slots j = some k → (∀ e ∈ c.slots, e.1 ≠ j → k.place ≠ e.2.place)
    ∧ ∀ y ∈ c.siding, y.held = none → k.place ≠ y.place) : c.alone j := by
  have hno {a b : Carriage} (hp : a.place ≠ b.place) : a.meets b = false := Bool.eq_false_iff.mpr fun hm => hp (meets_iff.mp hm).1
  exact ⟨fun e he hj k hk => hno ((h k hk).1 e he hj), fun y hy k hk hn => hno ((h k hk).2 y hy hn)⟩

theorem fillAt_of_occupied {c : Coach} {j : Nat} {k : Carriage} (h : mget c.slots j = some k) : fillAt c j = c := by simp [fillAt, h]

theorem fillAt_of_siding_nil {c : Coach} (h : c.siding = []) (j : Nat) : fillAt c j = c := by simp [fillAt, h]

theorem settle_eq_self {c : Coach} (ha : ∀ j, c.alone j) (hf : ∀ j ∈ slotNums, fillAt c j = c) : settle c = c := by
  rw [settle, foldl_eq_self _ fun j _ => coupleAt_alone c j (ha j)]
  exact foldl_eq_self _ fun j hj => by rw [hf j hj, coupleAt_alone c j (ha j)]

theorem alone_of_single {c : Coach} {i : Nat} {k : Carriage} (hs : c.slots = [(i, k)]) (hd : c.siding = []) (j : Nat) : c.alone j := by
  refine alone_of_place_ne fun n hn => ⟨fun e he hj => ?_, fun y hy => by simp [hd] at hy⟩
  rw [hs, List.mem_singleton] at he
  subst he
  simp [hs, mget, hj] at hn

/-! ## Coupling and filling -/

/-- Two carriages that meet are one, in the lower slot. -/
theorem settle_pair {c : Coach} {i j : Nat} {a b : Carriage} (hij : i < j) (hj : j < 4) (hs : c.slots = [(i, a), (j, b)]) (hd : c.siding = [])
    (hab : a.meets b = true) : ∃ n, n.standsFor (a.join b) ∧ (settle c).slots = [(i, n)] ∧ (settle c).siding = [] := by
  have hji : j ≠ i := by omega
  have hmates : c.mates i a = [(j, b)] := by simp [Coach.mates, hs, hji, hab]
  have hcompany : c.company i a = [b] := by simp [Coach.company, Coach.strays, hmates, hd]
  obtain ⟨n, hn, hslots, hsiding⟩ := coupleAt_joined (c := c) (j := i) (k := a) (by simp [hs, mget]) (by simp [hcompany])
  have hslots : (coupleAt c i).slots = [(i, n)] := by
    simpa [Coach.aside, Coach.lowest, hs, hmates, hji, hab, mset, min_eq_left hij.le] using hslots
  have hsiding : (coupleAt c i).siding = [] := by simpa [Coach.others, hd] using hsiding
  have halone := alone_of_single hslots hsiding
  have hfree (m : Nat) (hm : m < i) : coupleAt c m = c := coupleAt_of_free (by simp [hs, mget, hm.ne', (hm.trans hij).ne'])
  have hsettle : settle c = coupleAt c i := by
    rw [settle, foldl_slotNums (hij.trans hj) hfree fun m => coupleAt_alone _ m (halone m)]
    exact foldl_eq_self _ fun m _ => by rw [fillAt_of_siding_nil hsiding, coupleAt_alone _ m (halone m)]
  exact ⟨n, by simpa [hcompany] using hn, by rw [hsettle, hslots], by rw [hsettle, hsiding]⟩

/-- A coach after a siding entry has taken a slot. -/
def Coach.filled (c : Coach) (j : Nat) (e : SidingEntry) : Coach :=
  { c with slots := mset c.slots j { e.carriage j with lastIssue := c.issued }, siding := c.siding.erase e }

theorem fillAt_of_free {c : Coach} {j : Nat} {e : SidingEntry} (hj : mget c.slots j = none)
    (he : (c.siding.find? fun e => e.held.isNone) = some e) : fillAt c j = c.filled j e := by
  rw [fillAt, hj, he]; rfl

/-- A siding entry that is not held takes the lowest free slot. -/
theorem settle_fill {c : Coach} {i : Nat} {a : Carriage} {e : SidingEntry} (hs : c.slots = [(i, a)]) (hd : c.siding = [e])
    (he : e.held = none) (hp : e.place ≠ a.place) {j : Nat} (hj : j = if i = 0 then 1 else 0) : settle c = c.filled j e := by
  have hji : j ≠ i := by split at hj <;> omega
  have halone (m : Nat) : c.alone m := by
    refine alone_of_place_ne fun n hn => ?_
    obtain ⟨rfl, rfl⟩ : i = m ∧ a = n := by simpa [hs, mget] using hn
    exact ⟨fun x hx hxi => by simp [hs] at hx; simp [hx] at hxi, fun y hy _ => by rw [hd, List.mem_singleton] at hy; exact hy ▸ hp.symm⟩
  have hsiding : (c.filled j e).siding = [] := by simp [Coach.filled, hd]
  have hslots (x : Nat × Carriage) (hx : x ∈ (c.filled j e).slots) : x = (j, { e.carriage j with lastIssue := c.issued }) ∨ x = (i, a) := by
    simpa [hs] using mem_mset (show x ∈ mset c.slots j _ from hx)
  have hfilled (m : Nat) : (c.filled j e).alone m := by
    refine alone_of_place_ne fun n hn => ⟨fun x hx hxm => ?_, fun y hy => by simp [hsiding] at hy⟩
    rcases hslots _ (mem_of_mget hn) with h | h <;> rcases hslots x hx with rfl | rfl <;> obtain ⟨rfl, rfl⟩ := Prod.mk.inj h
    · exact absurd rfl hxm
    · exact hp
    · exact hp.symm
    · exact absurd rfl hxm
  have hat : coupleAt (fillAt c j) j = c.filled j e := by
    rw [fillAt_of_free (e := e) (by simp [hs, mget, hji.symm]) (by simp [hd, he]), coupleAt_alone _ j (hfilled j)]
  rw [settle, foldl_eq_self _ fun m _ => coupleAt_alone c m (halone m), foldl_slotNums (i := j) (by split at hj <;> omega), hat]
  · intro m hm
    have hmi : m = i := by split at hj <;> omega
    rw [fillAt_of_occupied (k := a) (by simp [hs, mget, hmi]), coupleAt_alone c m (halone m)]
  · intro m
    rw [hat, fillAt_of_siding_nil hsiding, coupleAt_alone _ m (hfilled m)]

/-- Settles O13: two carriages that meet leave one in the lower slot (`settle_pair`), and a free slot takes the entry (`settle_fill`). -/
theorem carriagesCoupleAndFreeSlotsFill : Obligations.CarriagesCoupleAndFreeSlotsFill := by
  refine ⟨fun c i j a b hij hj hs hd hpc hlevel hrep hfs => ?_, fun c i a e hi hs hd he hne => ?_⟩
  · have hab : a.meets b = true := meets_iff.mpr ⟨by simp [Carriage.place, hpc, hlevel, hrep], hfs⟩
    obtain ⟨n, ⟨hg, hm, hf⟩, hslots, hsiding⟩ := settle_pair hij hj hs hd hab
    simp only [Carriage.group, Carriage.place, Prod.mk.injEq] at hg
    obtain ⟨hl, hp, hv, hr⟩ := hg
    exact ⟨n, hslots, hp, hv, hr, hl, hm, hf, hsiding⟩
  · have hp : e.place ≠ a.place := by
      simp only [SidingEntry.place, Carriage.place, ne_eq, Prod.mk.injEq]
      tauto
    intro j k
    have hji : i ≠ j := by show i ≠ if i = 0 then 1 else 0; split <;> omega
    rw [settle_fill hs hd he hp (j := j) rfl]
    exact ⟨by simp [Coach.filled, hd], (mget_mset_ne _ _ hji).trans (by simp [hs, mget]), mget_mset_self _ _ _⟩

/-! ## Demotion (R193) -/

theorem mget_of_mem {α : Type} {m : SMap α} (hm : (m.map Prod.fst).Nodup) {e : Nat × α} (he : e ∈ m) : mget m e.1 = some e.2 := by
  induction m with
  | nil => simp at he
  | cons a m ih =>
    obtain ⟨j, b⟩ := a
    obtain ⟨hj, hm⟩ := List.nodup_cons.mp hm
    rcases List.mem_cons.mp he with rfl | he
    · simp [mget]
    · rw [mget, if_neg fun h : j = e.1 => hj (List.mem_map.mpr ⟨e, he, h.symm⟩), ih hm he]

/-- The blocked carriage and the entry have changed places, before anything couples. -/
def Coach.exchanged (c : Coach) (j clk : Nat) (k : Carriage) (e : SidingEntry) : Coach :=
  { c with
    slots := mset c.slots j { e.carriage j with promoted := clk, lastIssue := c.issued }
    siding := toSiding (c.siding.erase e) k.entry }

theorem demote_eq {c : Coach} {j : Nat} {k : Carriage} {e : SidingEntry} (hk : mget c.slots j = some k)
    (he : (c.siding.find? fun e => e.held.isNone) = some e) (clk : Nat) : demote c j clk = settle (c.exchanged j clk k e) := by
  rw [demote, hk, he]; rfl

theorem exchanged_regroups {c : Coach} {j clk : Nat} {k : Carriage} {e : SidingEntry} (hk : mget c.slots j = some k)
    (he : (c.siding.find? fun e => e.held.isNone) = some e) : c.regroups (c.exchanged j clk k e) := by
  intro hc
  refine ⟨pairwise_mset hc j _, ?_⟩
  let r := (mdel c.slots j).map fun e => e.2.group
  have hslots : (c.slots.map fun e => e.2.group).Perm (k.group :: r) := (perm_cons_mdel hc hk).map _
  have hnew : ((c.exchanged j clk k e).slots.map fun e => e.2.group).Perm (e.group :: r) := (mset_perm hc j _).map _
  have hsiding : (c.siding.map SidingEntry.group).Perm (e.group :: (c.siding.erase e).map SidingEntry.group) := (erase_perm_of_find he).map _
  have hto := (toSiding_regroups (c.siding.erase e) k.entry).prepend (e.group :: r)
  refine (Regrouped.perm ((hslots.append hsiding).trans ?_)).trans (hto.trans (.perm (hnew.append_right _).symm))
  exact (List.Perm.cons _ List.perm_middle).trans ((List.Perm.swap ..).trans (List.perm_middle.symm.cons _))

theorem demote_regroups (c : Coach) (j clk : Nat) : c.regroups (demote c j clk) := by
  cases hk : mget c.slots j with
  | none => rw [show demote c j clk = c by simp [demote, hk]]; exact fun hc => ⟨hc, .refl _⟩
  | some k =>
    cases he : c.siding.find? fun e => e.held.isNone with
    | none => rw [show demote c j clk = c by simp [demote, hk, he]]; exact fun hc => ⟨hc, .refl _⟩
    | some e => rw [demote_eq hk he]; exact (exchanged_regroups hk he).trans (settle_regroups _)

/-- Where a new entry comes among the others (R190). -/
theorem insertEntry_split (e : SidingEntry) (es : List SidingEntry) : ∃ a b, es = a ++ b ∧ insertEntry e es = a ++ e :: b
    ∧ (∀ y ∈ a, y.pc.toNat ≤ e.pc.toNat) ∧ ∀ y ∈ b.head?, e.pc.toNat < y.pc.toNat := by
  induction es with
  | nil => exact ⟨[], [], rfl, rfl, by simp, by simp⟩
  | cons x xs ih =>
    rw [insertEntry]
    split
    · next hx => exact ⟨[], x :: xs, rfl, rfl, by simp, by simpa using hx⟩
    · next hx =>
      obtain ⟨a, b, rfl, hi, ha, hb⟩ := ih
      exact ⟨x :: a, b, rfl, by rw [hi]; rfl, List.forall_mem_cons.mpr ⟨by omega, ha⟩, hb⟩

theorem find_unheld {pre post : List SidingEntry} {e : SidingEntry} (hpre : ∀ y ∈ pre, y.held ≠ none) (he : e.held = none) :
    ((pre ++ e :: post).find? fun e => e.held.isNone) = some e := by
  have h : (pre.find? fun e => e.held.isNone) = none := List.find?_eq_none.mpr fun y hy => by simpa using hpre y hy
  simp [List.find?_append, h, he]

/-- A coach whose four carriages and unheld siding entries all stand at places of their own. -/
structure Coach.spread (c : Coach) : Prop where
  full : c.slots.map Prod.fst = [0, 1, 2, 3]
  slots : (c.slots.map fun x => x.2.place).Nodup
  siding : ∀ y ∈ c.siding, y.held = none → y.place ∉ c.slots.map fun x => x.2.place

theorem Coach.spread.settled {c : Coach} (h : c.spread) : settle c = c := by
  have hkeys : (c.slots.map Prod.fst).Nodup := by rw [h.full]; decide
  refine settle_eq_self (fun j => alone_of_place_ne fun k hk => ⟨fun e he hj hp => ?_, fun y hy hn hp => ?_⟩) fun j hj => ?_
  · exact hj (congrArg Prod.fst (List.inj_on_of_nodup_map h.slots he (mem_of_mget hk) hp.symm))
  · exact h.siding y hy hn (hp ▸ List.mem_map_of_mem (f := fun x => x.2.place) (mem_of_mget hk))
  · rw [← show c.slots.map Prod.fst = slotNums from h.full] at hj
    obtain ⟨e, he, rfl⟩ := List.mem_map.mp hj
    exact fillAt_of_occupied (mget_of_mem hkeys he)


theorem toSiding_of_no_join {es : List SidingEntry} {e : SidingEntry} (h : ∀ y ∈ es, y.held = none → y.place ≠ e.place) :
    toSiding es e = insertEntry e es := by
  refine if_neg fun hany => ?_
  obtain ⟨y, hy, hj⟩ := List.any_eq_true.mp hany
  obtain ⟨hheld, hp, -⟩ := joins_iff.mp hj
  exact h y hy hheld hp

section spread

variable {c : Coach} {j clk : Nat} {k : Carriage} {e : SidingEntry} {pre post : List SidingEntry} (hc : c.spread)
  (hk : mget c.slots j = some k) (hs : c.siding = pre ++ e :: post) (hpre : ∀ y ∈ pre, y.held ≠ none) (he : e.held = none)

include hc hk hs hpre he

theorem siding_exchanged : (c.exchanged j clk k e).siding = insertEntry k.entry (pre ++ post) := by
  have hne : e ∉ pre := fun hm => hpre e hm he
  have herase : c.siding.erase e = pre ++ post := by rw [hs, List.erase_append_right _ hne, List.erase_cons_head]
  rw [Coach.exchanged, herase]
  refine toSiding_of_no_join fun y hy hn hp => hc.siding y ?_ hn (hp ▸ List.mem_map_of_mem (f := fun x => x.2.place) (mem_of_mget hk))
  rw [hs]
  simp only [List.mem_append, List.mem_cons] at hy ⊢
  tauto

theorem exchanged_spread (hpost : ∀ y ∈ post, y.held = none → y.place ≠ e.place) : (c.exchanged j clk k e).spread := by
  let place (x : Nat × Carriage) : Place := x.2.place
  have hin : c.inOrder := by rw [Coach.inOrder, hc.full]; decide
  have hold : (c.slots.map place).Perm (k.place :: (mdel c.slots j).map place) := (perm_cons_mdel hin hk).map place
  have hnew : ((c.exchanged j clk k e).slots.map place).Perm (e.place :: (mdel c.slots j).map place) := (mset_perm hin j _).map place
  have hkeys : ((c.exchanged j clk k e).slots.map Prod.fst).Perm (c.slots.map Prod.fst) :=
    ((mset_perm hin j _).map Prod.fst).trans ((perm_cons_mdel hin hk).map Prod.fst).symm
  have hek : e.place ∉ c.slots.map place := hc.siding e (by simp [hs]) he
  have hnodup := hold.nodup_iff.mp hc.slots
  obtain ⟨hkr, hr⟩ := List.nodup_cons.mp hnodup
  rw [hold.mem_iff, List.mem_cons, not_or] at hek
  obtain ⟨hek, her⟩ := hek
  refine ⟨?_, hnew.nodup_iff.mpr (List.nodup_cons.mpr ⟨her, hr⟩), fun y hy hn => ?_⟩
  · rw [← hc.full]
    exact hkeys.eq_of_pairwise (fun a b _ _ h h' => absurd h' (by omega)) (pairwise_mset hin j _) hin
  · rw [hnew.mem_iff, List.mem_cons, not_or]
    rw [siding_exchanged hc hk hs hpre he, (insertEntry_perm _ _).mem_iff, List.mem_cons, List.mem_append] at hy
    rcases hy with rfl | hy | hy
    · exact ⟨Ne.symm hek, hkr⟩
    · exact absurd hn (hpre y hy)
    · have := hc.siding y (by simp [hs, hy]) hn
      rw [hold.mem_iff, List.mem_cons, not_or] at this
      exact ⟨hpost y hy hn, this.2⟩

end spread

/-- Settles O14: the exchange regroups lanes and moves none (`exchanged_regroups`); where no two places agree, nothing couples afterwards
(`exchanged_spread`). -/
theorem demotionMovesNoLane : Obligations.DemotionMovesNoLane := by
  refine ⟨fun c j clk k hc _ => ?_, fun c j clk k e pre post hfull hk hs hpre he hslots hsiding hpost => ?_⟩
  · have h := demote_regroups c j clk
    exact ⟨demote_sameBut c j clk, h.keepsOrder hc, fun l _ => by simpa using h.keepsLane hc l⟩
  · have hc : c.spread := ⟨hfull, hslots, hsiding⟩
    have hw : demote c j clk = c.exchanged j clk k e := by
      rw [demote_eq hk (hs ▸ find_unheld hpre he), (exchanged_spread hc hk hs hpre he hpost).settled]
    obtain ⟨a, b, hab, hins, ha, hb⟩ := insertEntry_split k.entry (pre ++ post)
    rw [hw]
    exact ⟨rfl, mget_mset_self _ _ _, fun n hn => mget_mset_ne _ _ hn,
      a, b, hab, (siding_exchanged hc hk hs hpre he).trans hins, ha, hb⟩

end Sys2Proof.Machine
end

section
/-! PROOFS. Trap entry (08 R198, 19 R405 to R407): the level that the lanes enter at, where they and their siblings stand, and what the frame
and the records hold. -/

namespace Sys2Proof.Machine

open Sys2Proof.Rules

/-! ## Lanes of masks -/

theorem getLsbD_laneBit (i l : Nat) : (laneBit i).getLsbD l = decide (l < 32 ∧ l = i) := by
  rw [laneBit, BitVec.getLsbD_shiftLeft, BitVec.getLsbD_one]
  by_cases h : l < 32 <;> by_cases hi : l = i <;> simp [h, hi]
  omega

theorem getLsbD_maskOf (ls : List Nat) (l : Nat) : (maskOf ls).getLsbD l = decide (l < 32 ∧ l ∈ ls) := by
  have h : ∀ m : Mask, (ls.foldl (fun m l => m ||| laneBit l) m).getLsbD l = (m.getLsbD l || decide (l < 32 ∧ l ∈ ls)) := by
    induction ls with
    | nil => simp
    | cons i ls ih =>
      intro m
      rw [List.foldl_cons, ih, BitVec.getLsbD_or, getLsbD_laneBit, Bool.or_assoc]
      congr 1
      simp only [List.mem_cons, and_or_left, Bool.decide_or]
  rw [maskOf, h]
  simp

theorem and_eq_zero_iff {a b : Mask} : a &&& b = 0 ↔ ∀ l, a.getLsbD l = true → b.getLsbD l = false := by
  refine ⟨fun h l => not_both_lanes h, fun h => BitVec.eq_of_getLsbD_eq fun l _ => ?_⟩
  cases ha : a.getLsbD l <;> simp [ha, h l]

theorem getLsbD_without (a b : Mask) (l : Nat) : (a &&& ~~~b).getLsbD l = (a.getLsbD l && !b.getLsbD l) := by
  rw [BitVec.getLsbD_and, BitVec.getLsbD_not]
  by_cases h : l < 32
  · simp [h]
  · simp [BitVec.getLsbD_of_ge a l (by omega)]

/-! ## Groups that a carriage divides into -/

theorem placeAmong_append (a b : List (Mask × Place)) (l : Nat) : placeAmong (a ++ b) l = (placeAmong a l).or (placeAmong b l) := by
  simp [placeAmong, List.find?_append, Option.map_or]

theorem placeAmong_eq_none {gs : List (Mask × Place)} {l : Nat} (h : ∀ g ∈ gs, g.1.getLsbD l = false) : placeAmong gs l = none := by
  rw [placeAmong, List.find?_eq_none.mpr fun g hg => by simp [h g hg]]
  rfl

/-- Where one group of a coach is replaced by groups of its own lanes, those lanes stand where these say, and the others as they stood. -/
theorem movedLanes_of_divided {c w : Coach} {g : Mask × Place} {new rest : List (Mask × Place)} {f : Nat → Option Place} (hc : orderly c)
    (hg : c.groups.Perm (g :: rest)) (hw : Regrouped (new ++ rest) w.groups) (hnew : Apart new)
    (hin : ∀ n ∈ new, ∀ l, n.1.getLsbD l = true → g.1.getLsbD l = true)
    (hf : ∀ l < 32, g.1.getLsbD l = true → placeAmong new l = f l) : movedLanes c g.1 f w := by
  obtain ⟨-, hc⟩ := orderly_iff.mp hc
  have hcg := hc.perm hg
  obtain ⟨hgr, hrest⟩ := List.pairwise_cons.mp hcg
  have hall : Apart (new ++ rest) := List.pairwise_append.mpr ⟨hnew, hrest, fun n hn r hr =>
    and_eq_zero_iff.mpr fun l hl => not_both_lanes (hgr r hr) (hin n hn l hl)⟩
  intro l hl
  rw [laneAt_eq, hw.placeAmong hall, placeAmong_append]
  cases hgl : g.1.getLsbD l with
  | true => simp [← hf l hl hgl, placeAmong_eq_none fun r hr => not_both_lanes (hgr r hr) hgl]
  | false =>
    have hnone : placeAmong new l = none := placeAmong_eq_none fun n hn => Bool.eq_false_iff.mpr fun hnl => by simp [hin n hn l hnl] at hgl
    rw [laneAt_eq, (Regrouped.perm hg.symm).placeAmong hcg, hnone]
    simp [placeAmong, hgl]

/-! ## What settling keeps -/

theorem settle_keeps {P : Coach → Prop} (hcouple : ∀ c j, P c → P (coupleAt c j)) (hfill : ∀ c j, P c → P (fillAt c j)) {c : Coach}
    (h : P c) : P (settle c) :=
  List.foldlRecOn _ _ (List.foldlRecOn _ _ h fun c hc j _ => hcouple c j hc) fun c hc j _ => hcouple _ j (hfill c j hc)

/-- What filling can do: nothing, or an entry that is not held takes the slot. -/
theorem fillAt_cases (c : Coach) (j : Nat) : fillAt c j = c ∨ ∃ e ∈ c.siding, e.held = none ∧ fillAt c j = c.filled j e := by
  cases hj : mget c.slots j with
  | some k => exact .inl (fillAt_of_occupied hj)
  | none =>
    cases he : c.siding.find? fun e => e.held.isNone with
    | none => exact .inl (by rw [fillAt, hj, he])
    | some e => exact .inr ⟨e, List.mem_of_find?_eq_some he, by simpa using List.find?_some he, fillAt_of_free hj he⟩

/-- Held entries take no part in coupling and filling (08 R199). -/
theorem settle_keeps_held {c : Coach} {y : SidingEntry} (hy : y.held ≠ none) (h : y ∈ c.siding) : y ∈ (settle c).siding := by
  refine settle_keeps (P := fun c => y ∈ c.siding) (fun c j h => ?_) (fun c j h => ?_) h
  · rcases coupleAt_cases c j with hs | ⟨k, n, -, -, -, hd⟩
    · rwa [hs]
    · rw [hd]
      exact List.mem_filter.mpr ⟨h, by simp [Option.isSome_iff_ne_none.mpr hy]⟩
  · rcases fillAt_cases c j with hs | ⟨e, -, he, hs⟩
    · rwa [hs]
    · rw [hs]
      exact (List.mem_erase_of_ne fun hye : y = e => hy (hye ▸ he)).mpr h

/-- A carriage that holds lanes of a mask has them at S or H in a frame slot, with every lane a member. -/
def Carriage.traps (m : Mask) (i : Nat) (k : Carriage) : Prop :=
  k.lanes &&& m ≠ 0 → k.level ≠ .U ∧ k.member = BitVec.allOnes 32 ∧ k.fslot = i

theorem traps_join {m : Mask} {i : Nat} {k n : Carriage} (hk : k.traps m i) (hn : n.traps m i) (h : k.meets n = true) : (k.join n).traps m i := by
  intro hl
  obtain ⟨hp, hf⟩ := meets_iff.mp h
  have hlevel : k.level = n.level := congrArg (fun p : Place => p.2.1) hp
  by_cases hkl : k.lanes &&& m = 0
  · have hnl : n.lanes &&& m ≠ 0 := fun hnl => hl (and_eq_zero_iff.mpr fun l h => by
      rcases (by simpa [Carriage.join] using h : k.lanes.getLsbD l = true ∨ n.lanes.getLsbD l = true) with h | h
      · exact not_both_lanes hkl h
      · exact not_both_lanes hnl h)
    obtain ⟨hu, hm, hs⟩ := hn hnl
    have hu : k.level ≠ .U := hlevel ▸ hu
    exact ⟨hu, by rw [Carriage.join, hm, BitVec.or_allOnes], (hf hu).trans hs⟩
  · obtain ⟨hu, hm, hs⟩ := hk hkl
    exact ⟨hu, by rw [Carriage.join, hm, BitVec.allOnes_or], hs⟩

theorem traps_foldl_join {m : Mask} {i : Nat} (ns : List Carriage) :
    ∀ k : Carriage, k.traps m i → (∀ n ∈ ns, n.traps m i ∧ k.meets n = true) → (ns.foldl Carriage.join k).traps m i := by
  induction ns with
  | nil => exact fun k hk _ => hk
  | cons n ns ih =>
    intro k hk hns
    obtain ⟨⟨hn, hm⟩, hns⟩ := List.forall_mem_cons.mp hns
    exact ih (k.join n) (traps_join hk hn hm) hns

theorem Carriage.standsFor.traps {m : Mask} {i : Nat} {n k : Carriage} (h : n.standsFor k) (hk : k.traps m i) : n.traps m i := by
  obtain ⟨hg, hm, hf⟩ := h
  have hlanes : n.lanes = k.lanes := congrArg Prod.fst hg
  have hlevel : n.level = k.level := congrArg (fun g : Mask × Place => g.2.2.1) hg
  intro hl
  obtain ⟨hu, hmem, hs⟩ := hk (hlanes ▸ hl)
  exact ⟨hlevel ▸ hu, hm.trans hmem, (hf hu).trans hs⟩

/-- The lanes of a trap lie in trap carriages alone. -/
def Coach.trapsIn (m : Mask) (i : Nat) (c : Coach) : Prop := (∀ e ∈ c.slots, e.2.traps m i) ∧ ∀ y ∈ c.siding, y.lanes &&& m = 0

theorem settle_keeps_traps {m : Mask} {i : Nat} {c : Coach} (h : c.trapsIn m i) : (settle c).trapsIn m i := by
  refine settle_keeps (P := Coach.trapsIn m i) (fun c j ⟨hs, hd⟩ => ?_) (fun c j ⟨hs, hd⟩ => ?_) h
  · rcases coupleAt_cases c j with h | ⟨k, n, hk, hn, hslots, hsiding⟩
    · rw [h]; exact ⟨hs, hd⟩
    · have hall : ((c.company j k).foldl Carriage.join k).traps m i := by
        refine traps_foldl_join _ k (hs _ (mem_of_mget hk)) fun o ho => ⟨?_, meets_of_mem_company ho⟩
        rcases List.mem_append.mp ho with ho | ho <;> obtain ⟨e, he, rfl⟩ := List.mem_map.mp ho
        · exact hs e (List.mem_filter.mp he).1
        · exact fun hl => absurd (hd e (List.mem_filter.mp he).1) hl
      refine ⟨fun e he => ?_, fun y hy => hd y (List.mem_filter.mp (hsiding ▸ hy)).1⟩
      rcases mem_mset (hslots ▸ he) with rfl | he
      · exact hn.traps hall
      · exact hs e (List.mem_filter.mp he).1
  · rcases fillAt_cases c j with h | ⟨e, he, -, h⟩
    · rw [h]; exact ⟨hs, hd⟩
    · rw [h]
      refine ⟨fun x hx => ?_, fun y hy => hd y (List.mem_of_mem_erase hy)⟩
      rcases mem_mset hx with rfl | hx
      · exact fun hl => absurd (hd e he) hl
      · exact hs x hx

end Sys2Proof.Machine
end

section
/-! PROOFS. What trap entry writes: the marks of queue elements, the frame and the records (08 R198, R208, 19 R405 to R407). -/

namespace Sys2Proof.Machine

open Sys2Proof.Rules

/-! ## The level (R405, step 1 of R198) -/

theorem targetOf_eq_H_iff {k : Carriage} {t : LaneTrap} : targetOf k t = .H ↔ aimsHigh k t := by
  unfold targetOf aimsHigh
  split_ifs <;> simp_all
  tauto

theorem shut_iff {f : Frame} : f.shut = true ↔ blockedFrame f := by simp [Frame.shut, blockedFrame]

/-- Whether the traps of some lanes of a carriage enter at H (step 1 of R198). -/
def goesHigh (c : Coach) (k : Carriage) (ts : List LaneTrap) : Prop := (∃ t ∈ ts, aimsHigh k t) ∨ blockedFrame (frameOf c k.fslot .S)

theorem trapLevel_high {c : Coach} {k : Carriage} {ts : List LaneTrap} (h : goesHigh c k ts) :
    trapLevel c k ts = if (frameOf c k.fslot .H).shut then none else some .H := by
  by_cases ht : ∃ t ∈ ts, aimsHigh k t
  · have hany : ts.any (fun t => targetOf k t == .H) = true := by simpa [targetOf_eq_H_iff] using ht
    simp [trapLevel, hany]
  · have hany : ts.any (fun t => targetOf k t == .H) = false := by simpa [targetOf_eq_H_iff] using ht
    have hs : (frameOf c k.fslot .S).shut = true := shut_iff.mpr (h.resolve_left ht)
    simp [trapLevel, hany, hs]

theorem trapLevel_low {c : Coach} {k : Carriage} {ts : List LaneTrap} (h : ¬ goesHigh c k ts) : trapLevel c k ts = some .S := by
  obtain ⟨ht, hs⟩ := not_or.mp h
  have hany : ts.any (fun t => targetOf k t == .H) = false := by simpa [targetOf_eq_H_iff] using ht
  have hs : (frameOf c k.fslot .S).shut = false := Bool.eq_false_iff.mpr fun h => hs (shut_iff.mp h)
  simp [trapLevel, hany, hs]

/-! ## The trap of the lowest lane (R406) -/

theorem foldl_lower {ts : List LaneTrap} : ∀ t : LaneTrap, let m := ts.foldl (fun a b => if b.lane < a.lane then b else a) t
    m ∈ t :: ts ∧ ∀ u ∈ t :: ts, m.lane ≤ u.lane := by
  induction ts with
  | nil => simp
  | cons b ts ih =>
    intro t
    obtain ⟨hmem, hle⟩ := ih (if b.lane < t.lane then b else t)
    obtain ⟨hfirst, hrest⟩ := List.forall_mem_cons.mp hle
    have hlower : (if b.lane < t.lane then b else t).lane ≤ t.lane ∧ (if b.lane < t.lane then b else t).lane ≤ b.lane := by split <;> omega
    rw [List.foldl_cons]
    refine ⟨?_, List.forall_mem_cons.mpr ⟨hfirst.trans hlower.1, List.forall_mem_cons.mpr ⟨hfirst.trans hlower.2, hrest⟩⟩⟩
    rcases List.mem_cons.mp hmem with h | h
    · rw [h]; split <;> simp
    · exact .tail _ (.tail _ h)

theorem lowestTrap_spec {ts : List LaneTrap} (h : ts ≠ []) : lowestTrap ts ∈ ts ∧ ∀ u ∈ ts, (lowestTrap ts).lane ≤ u.lane := by
  obtain ⟨t, ts, rfl⟩ := List.exists_cons_of_ne_nil h
  exact foldl_lower t

/-! ## Queue elements for which lanes trap (R208) -/

/-- The marks of the faulted elements of some ports may have changed, and nothing else. -/
def Coach.marked (c w : Coach) : Prop := w = { c with ports := w.ports }
  ∧ ∀ q, ∃ fs : SMap QFault, portOf w q = { portOf c q with faults := fs } ∧ fs.map Prod.fst = (portOf c q).faults.map Prod.fst

theorem Coach.marked.refl (c : Coach) : c.marked c := ⟨rfl, fun _ => ⟨_, rfl, rfl⟩⟩

theorem Coach.marked.trans {c d e : Coach} (h : c.marked d) (g : d.marked e) : c.marked e := by
  obtain ⟨hd, hq⟩ := h
  obtain ⟨he, hr⟩ := g
  refine ⟨by rw [he, hd], fun q => ?_⟩
  obtain ⟨fs, hp, hk⟩ := hq q
  obtain ⟨gs, hp', hk'⟩ := hr q
  exact ⟨gs, by rw [hp', hp], by rw [hk', hp, hk]⟩

/-- A port with the faulted elements marked that satisfy a test. -/
def Coach.markPort (c : Coach) (q : Nat) (due : Nat × QFault → Bool) : Coach :=
  { c with
    ports := mset c.ports q { portOf c q with
      faults := (portOf c q).faults.map fun e => (e.1, { e.2 with called := e.2.called || due e }) } }

theorem marked_markPort (c : Coach) (q : Nat) (due : Nat × QFault → Bool) : c.marked (c.markPort q due) := by
  refine ⟨rfl, fun r => ?_⟩
  by_cases h : r = q
  · subst h
    exact ⟨_, by rw [portOf, Coach.markPort, mget_mset_self]; rfl, by simp [Function.comp_def]⟩
  · exact ⟨(portOf c r).faults, by rw [portOf, Coach.markPort, mget_mset_ne _ _ h]; rfl, rfl⟩

theorem markCalled_cons (t : LaneTrap) (ts : List LaneTrap) (c : Coach) : markCalled c (t :: ts) = markCalled (
    if t.kind = 6 then c.markPort t.port fun e => !e.2.write && e.1 == elemKey ((portOf c t.port).posOf t.lane) t.lane
    else if t.kind = 7 then c.markPort t.port fun e => e.2.write && e.1 % 32 == t.lane
    else c) ts := rfl

theorem marked_markCalled (ts : List LaneTrap) : ∀ c : Coach, c.marked (markCalled c ts) := by
  induction ts with
  | nil => exact Coach.marked.refl
  | cons t ts ih =>
    intro c
    rw [markCalled_cons]
    refine Coach.marked.trans ?_ (ih _)
    split
    · exact marked_markPort ..
    · split
      · exact marked_markPort ..
      · exact .refl c

theorem markCalled_of_no_queue {ts : List LaneTrap} (h : ∀ t ∈ ts, t.kind ≠ 6 ∧ t.kind ≠ 7) (c : Coach) : markCalled c ts = c := by
  induction ts with
  | nil => rfl
  | cons t ts ih =>
    obtain ⟨⟨h6, h7⟩, h⟩ := List.forall_mem_cons.mp h
    rw [markCalled_cons, if_neg h6, if_neg h7, ih h]

/-! ## Frames and records -/

theorem frameOf_setFrame_self (c : Coach) (i : Nat) (x : Level) (f : Frame) : frameOf (c.setFrame i x f) i x = f := by
  simp [frameOf, Coach.setFrame]

theorem frameOf_setFrame_ne (c : Coach) {i j : Nat} {x y : Level} (f : Frame) (hx : x ≠ .U) (hy : y ≠ .U) (h : j ≠ i ∨ y ≠ x) :
    frameOf (c.setFrame i x f) j y = frameOf c j y := by
  have hkey : frameKey j y ≠ frameKey i x := by
    cases x <;> cases y <;> simp_all [frameKey] <;> omega
  rw [frameOf, Coach.setFrame, mget_mset_ne _ _ hkey]
  rfl

theorem recKey_inj {x : Level} {a b : Nat} (h : recKey x a = recKey x b) : a = b := Nat.add_left_cancel h

/-- The records of lanes that trap, written one after another. -/
def recorded (m : RMap 128) (x : Level) (i d : Nat) (ts : List LaneTrap) : RMap 128 :=
  ts.foldl (fun r t => mset r (recKey x t.lane) (recordOf t i d)) m

theorem rget_recorded_ne {x : Level} {i d n : Nat} {ts : List LaneTrap} (h : ∀ t ∈ ts, n ≠ recKey x t.lane) :
    ∀ m, rget (recorded m x i d ts) n = rget m n := by
  induction ts with
  | nil => exact fun _ => rfl
  | cons t ts ih =>
    intro m
    obtain ⟨ht, h⟩ := List.forall_mem_cons.mp h
    exact (ih h _).trans ((rget_mset m _ n _).trans (if_neg ht))

theorem rget_recorded {x : Level} {i d : Nat} {ts : List LaneTrap} (hd : (ts.map LaneTrap.lane).Nodup) {t : LaneTrap} (ht : t ∈ ts) :
    ∀ m, rget (recorded m x i d ts) (recKey x t.lane) = recordOf t i d := by
  induction ts with
  | nil => simp at ht
  | cons u ts ih =>
    intro m
    obtain ⟨hu, hd⟩ := List.nodup_cons.mp hd
    rcases List.mem_cons.mp ht with rfl | ht
    · exact (rget_recorded_ne (fun s hs h => hu (List.mem_map.mpr ⟨s, hs, (recKey_inj h).symm⟩)) _).trans (rget_mset_self ..)
    · exact ih hd ht _

/-! ## The coach -/

/-- The trap carriage (step 4 of R198). -/
def Carriage.trapped (k : Carriage) (x : Level) (ts : List LaneTrap) (tvec : W64) (parked : Bool) : Carriage :=
  { k with
    pc := tvec + 64 * BitVec.ofNat 64 (lowestTrap ts).cause
    lanes := maskOf (ts.map LaneTrap.lane)
    level := x
    member := 0xFFFFFFFF
    rep := none
    blocked := 0
    wait := none
    wake := 0
    bar := none
    spawn := none
    spawned := 0
    pages := []
    parked := parked }

/-- The lanes of a carriage that do not trap, held at the next state (step 3 of R198). -/
def Carriage.sibling (k : Carriage) (x : Level) (ts : List LaneTrap) (next : W64 × Option Rep) (d : Nat) : SidingEntry :=
  { pc := next.1, lanes := k.lanes &&& ~~~maskOf (ts.map LaneTrap.lane), level := k.level, member := k.member, rep := next.2, fslot := k.fslot
    held := some { slot := k.fslot, level := x, depth := d } }

/-- The frame that a trap of a carriage enters at a level. -/
def trapFrame (c : Coach) (k : Carriage) (x : Level) (ts : List LaneTrap) (next : W64 × Option Rep) : Frame :=
  enterFrame (frameOf c k.fslot x) k (maskOf (ts.map LaneTrap.lane)) next

/-- A coach after steps 2 to 4 of R198, before anything couples. -/
def Coach.entered (c : Coach) (j : Nat) (k : Carriage) (x : Level) (ts : List LaneTrap) (next : W64 × Option Rep) (tvec : W64)
    (parked : Bool) : Coach :=
  let f := trapFrame c k x ts next
  let y := k.sibling x ts next f.depth
  { (markCalled c ts).setFrame k.fslot x f with
    recs := recorded c.recs x k.fslot f.depth ts
    siding := if y.lanes = 0 then c.siding else insertEntry y c.siding
    hold := c.hold || unfenced c
    slots := mset c.slots j (k.trapped x ts tvec parked) }

theorem enterTrap_eq (c : Coach) (j : Nat) (k : Carriage) (x : Level) (ts : List LaneTrap) (next : W64 × Option Rep) (tvec : W64)
    (parked : Bool) : enterTrap c j k x ts next tvec parked = settle (c.entered j k x ts next tvec parked) := by
  have hm := (marked_markCalled ts c).1
  have hu : unfenced (markCalled c ts) = unfenced c := by rw [hm]; rfl
  rw [enterTrap, Coach.entered, hm]
  rfl

end Sys2Proof.Machine
end

section
/-! PROOFS. The coach that trap entry leaves (08 R198, 19 R406), and the statement about taking a trap. -/

namespace Sys2Proof.Machine

open Sys2Proof.Rules

theorem frameOf_settle (c : Coach) (i : Nat) (x : Level) : frameOf (settle c) i x = frameOf c i x := by
  rw [frameOf, congrArg Coach.frames (settle_sameBut c)]; rfl

section entry

variable {c : Coach} {j : Nat} {k : Carriage} {ts : List LaneTrap} (hc : orderly c) (hk : mget c.slots j = some k) (hts : trapsOfCarriage k ts)
  (x : Level) (next : W64 × Option Rep) (tvec : W64) (parked : Bool)

/-- The lanes that trap. -/
abbrev trapLanes (ts : List LaneTrap) : Mask := maskOf (ts.map LaneTrap.lane)

include hts in
theorem trapLanes_subset {l : Nat} (h : (trapLanes ts).getLsbD l = true) : k.lanes.getLsbD l = true := by
  obtain ⟨-, -, hin⟩ := hts
  obtain ⟨-, h⟩ : l < 32 ∧ l ∈ ts.map LaneTrap.lane := by simpa only [getLsbD_maskOf, decide_eq_true_eq] using h
  obtain ⟨t, ht, rfl⟩ := List.mem_map.mp h
  exact (hin t ht).2

/-- The groups of a coach other than the carriage of a slot. -/
def Coach.groupsBut (c : Coach) (j : Nat) : List (Mask × Place) := (mdel c.slots j).map (fun e => e.2.group) ++ c.siding.map SidingEntry.group

theorem groups_perm (hin : c.inOrder) (hk : mget c.slots j = some k) : c.groups.Perm (k.group :: c.groupsBut j) :=
  ((perm_cons_mdel hin hk).map fun e => e.2.group).append_right _

/-- The groups that a carriage divides into at a trap. -/
def trapGroups (k : Carriage) (x : Level) (ts : List LaneTrap) (next : W64 × Option Rep) (tvec : W64) (parked : Bool) (d : Nat) :
    List (Mask × Place) :=
  (k.trapped x ts tvec parked).group :: if (k.sibling x ts next d).lanes = 0 then [] else [(k.sibling x ts next d).group]

theorem entered_groups (hin : c.inOrder) : (c.entered j k x ts next tvec parked).groups.Perm
    (trapGroups k x ts next tvec parked (trapFrame c k x ts next).depth ++ c.groupsBut j) := by
  have hslots := (mset_perm hin j (k.trapped x ts tvec parked)).map fun e => e.2.group
  let y := k.sibling x ts next (trapFrame c k x ts next).depth
  have hsiding : ((if y.lanes = 0 then c.siding else insertEntry y c.siding).map SidingEntry.group).Perm
      ((if y.lanes = 0 then [] else [y.group]) ++ c.siding.map SidingEntry.group) := by
    split
    · exact .refl _
    · exact (insertEntry_perm y c.siding).map _
  refine (hslots.append hsiding).trans ?_
  exact ((List.perm_append_comm_assoc _ _ _).cons _)

theorem mem_trapGroups {g : Mask × Place} {d : Nat} (h : g ∈ trapGroups k x ts next tvec parked d) :
    g = (k.trapped x ts tvec parked).group ∨ g = (k.sibling x ts next d).group := by
  rw [trapGroups] at h
  split at h <;> simp at h <;> tauto

theorem apart_trapGroups (d : Nat) : Apart (trapGroups k x ts next tvec parked d) := by
  have h : trapLanes ts &&& (k.lanes &&& ~~~trapLanes ts) = 0 := and_eq_zero_iff.mpr fun l hl => by rw [getLsbD_without, hl]; simp
  rw [trapGroups]
  split
  · exact List.pairwise_singleton _ _
  · exact List.pairwise_pair.mpr h

theorem placeAmong_trapGroups {l : Nat} (hl : k.lanes.getLsbD l = true) (d : Nat) : placeAmong (trapGroups k x ts next tvec parked d) l
    = if (trapLanes ts).getLsbD l then some (tvec + BitVec.ofNat 64 (64 * (lowestTrap ts).cause), x, none) else some (next.1, k.level, next.2) := by
  have hpc : tvec + 64 * BitVec.ofNat 64 (lowestTrap ts).cause = tvec + BitVec.ofNat 64 (64 * (lowestTrap ts).cause) := by
    rw [BitVec.ofNat_mul]; rfl
  have hgroup : (k.trapped x ts tvec parked).group = (trapLanes ts, tvec + BitVec.ofNat 64 (64 * (lowestTrap ts).cause), x, none) := by
    rw [← hpc]; rfl
  have hsib : (k.sibling x ts next d).group = (k.lanes &&& ~~~trapLanes ts, next.1, k.level, next.2) := rfl
  rw [trapGroups, hgroup, hsib]
  cases hm : (trapLanes ts).getLsbD l with
  | true => simp [placeAmong, hm]
  | false =>
    have hrest : (k.lanes &&& ~~~trapLanes ts).getLsbD l = true := by rw [getLsbD_without, hl, hm]; rfl
    have hne : (k.sibling x ts next d).lanes ≠ 0 := fun h => by
      rw [show k.lanes &&& ~~~trapLanes ts = 0 from h] at hrest
      simp at hrest
    rw [if_neg hne]
    simp only [placeAmong, List.find?_cons, hm, hrest]
    rfl

include hc hk hts in
theorem movedLanes_entered : movedLanes c k.lanes
    (fun l => if (trapLanes ts).getLsbD l then some (tvec + BitVec.ofNat 64 (64 * (lowestTrap ts).cause), x, none)
      else some (next.1, k.level, next.2)) (settle (c.entered j k x ts next tvec parked)) := by
  obtain ⟨hin, -⟩ := orderly_iff.mp hc
  have hsettle := settle_regroups (c.entered j k x ts next tvec parked) (pairwise_mset hin j _)
  refine movedLanes_of_divided (g := k.group) hc (groups_perm hin hk) ((Regrouped.perm (entered_groups x next tvec parked hin).symm).trans hsettle.2)
    (apart_trapGroups ..) (fun g hg l hl => ?_) fun l _ hl => placeAmong_trapGroups x next tvec parked hl _
  rcases mem_trapGroups x next tvec parked hg with rfl | rfl
  · exact trapLanes_subset hts hl
  · have hl : (k.lanes &&& ~~~trapLanes ts).getLsbD l = true := hl
    rw [getLsbD_without, Bool.and_eq_true] at hl
    exact hl.1

include hc hk hts in
theorem trapsIn_entered (hx : x ≠ .U) : (c.entered j k x ts next tvec parked).trapsIn (trapLanes ts) k.fslot := by
  obtain ⟨hin, hapart⟩ := orderly_iff.mp hc
  obtain ⟨hrest, -⟩ := List.pairwise_cons.mp (hapart.perm (groups_perm hin hk))
  have hout (g : Mask × Place) (hg : g ∈ c.groupsBut j) : g.1 &&& trapLanes ts = 0 := by
    rw [BitVec.and_comm]
    exact and_eq_zero_iff.mpr fun l hl => not_both_lanes (hrest g hg) (trapLanes_subset hts hl)
  have hside (y : SidingEntry) (hy : y ∈ c.siding) : y.lanes &&& trapLanes ts = 0 :=
    hout y.group (List.mem_append_right _ (List.mem_map_of_mem hy))
  refine ⟨fun e he => ?_, fun y hy => ?_⟩
  · rcases List.mem_cons.mp ((mset_perm hin j _).mem_iff.mp he) with rfl | he
    · exact fun _ => ⟨hx, rfl, rfl⟩
    · exact fun hl => absurd (hout e.2.group (List.mem_append_left _ (List.mem_map_of_mem he))) hl
  · rw [Coach.entered] at hy
    dsimp only at hy
    split at hy
    · exact hside y hy
    · rcases List.mem_cons.mp ((insertEntry_perm _ _).mem_iff.mp hy) with rfl | hy
      · rw [BitVec.and_comm]
        exact and_eq_zero_iff.mpr fun l hl => by rw [Carriage.sibling, getLsbD_without, hl]; simp
      · exact hside y hy

theorem sibling_mem_entered (h : k.lanes &&& ~~~trapLanes ts ≠ 0) :
    k.sibling x ts next (trapFrame c k x ts next).depth ∈ (c.entered j k x ts next tvec parked).siding := by
  rw [Coach.entered]
  dsimp only
  rw [if_neg (show (k.sibling x ts next (trapFrame c k x ts next).depth).lanes ≠ 0 from h), (insertEntry_perm _ _).mem_iff]
  exact List.mem_cons_self ..

theorem entered_eq : c.entered j k x ts next tvec parked = { c with
    slots := (c.entered j k x ts next tvec parked).slots, siding := (c.entered j k x ts next tvec parked).siding
    frames := mset c.frames (frameKey k.fslot x) (trapFrame c k x ts next)
    recs := recorded c.recs x k.fslot (trapFrame c k x ts next).depth ts
    hold := (c.entered j k x ts next tvec parked).hold, ports := (markCalled c ts).ports } := by
  rw [Coach.entered, Coach.setFrame]
  obtain ⟨hm, -⟩ := marked_markCalled ts c
  rw [hm]

theorem settle_entered : settle (c.entered j k x ts next tvec parked) = { c with
    slots := (settle (c.entered j k x ts next tvec parked)).slots, siding := (settle (c.entered j k x ts next tvec parked)).siding
    frames := mset c.frames (frameKey k.fslot x) (trapFrame c k x ts next)
    recs := recorded c.recs x k.fslot (trapFrame c k x ts next).depth ts
    hold := (settle (c.entered j k x ts next tvec parked)).hold, arrived := (settle (c.entered j k x ts next tvec parked)).arrived
    ports := (markCalled c ts).ports } := by
  have h := settle_sameBut (c.entered j k x ts next tvec parked)
  have he := entered_eq (c := c) (j := j) (k := k) (ts := ts) x next tvec parked
  generalize settle (c.entered j k x ts next tvec parked) = w at h ⊢
  rw [Coach.sameBut, he] at h
  rw [h]

include hc hk hts in
/-- Trap entry at S or H leaves the coach that 08 R198 gives. -/
theorem trapEntered_enterTrap (hx : x ≠ .U) : trapEntered c k x ts next tvec (enterTrap c j k x ts next tvec parked) := by
  have hw := settle_entered (c := c) (j := j) (k := k) (ts := ts) x next tvec parked
  have hmoved := movedLanes_entered hc hk hts x next tvec parked
  have htraps := (settle_keeps_traps (trapsIn_entered hc hk hts x next tvec parked hx)).1
  have hheld (h : k.lanes &&& ~~~trapLanes ts ≠ 0) := settle_keeps_held (by simp [Carriage.sibling])
    (sibling_mem_entered (c := c) (j := j) x next tvec parked h)
  rw [enterTrap_eq]
  generalize settle (c.entered j k x ts next tvec parked) = w at hw hmoved htraps hheld ⊢
  obtain ⟨-, hports⟩ := marked_markCalled ts c
  obtain ⟨hlanes, hnodup, -⟩ := id hts
  obtain ⟨hlow, hlowest⟩ := lowestTrap_spec hlanes
  have hframes : w.frames = (c.setFrame k.fslot x (trapFrame c k x ts next)).frames := (congrArg Coach.frames hw :)
  have hframe (i : Nat) (y : Level) : frameOf w i y = frameOf (c.setFrame k.fslot x (trapFrame c k x ts next)) i y := by
    rw [frameOf, hframes]; rfl
  have hrecs : w.recs = recorded c.recs x k.fslot (trapFrame c k x ts next).depth ts := (congrArg Coach.recs hw :)
  have hpw : w.ports = (markCalled c ts).ports := (congrArg Coach.ports hw :)
  have hself : frameOf w k.fslot x = trapFrame c k x ts next := (hframe _ _).trans (frameOf_setFrame_self ..)
  refine ⟨?_, fun q => ?_, fun hq => ?_, ⟨_, ⟨_, hlow, rfl, hlowest⟩, hmoved⟩, fun y hy hl => (htraps y hy hl).2,
    fun hl => ⟨_, hheld hl, rfl, rfl, rfl⟩, ?_⟩
  · rw [hframes, hrecs, hpw]; exact hw
  · rw [show portOf w q = portOf (markCalled c ts) q by rw [portOf, hpw]; rfl]; exact hports q
  · rw [hpw, markCalled_of_no_queue hq]
  · rw [hself, hrecs]
    exact ⟨rfl, rfl, rfl, rget_mset_self .., rfl, rfl, rfl, rfl, rfl, rfl, rfl,
      fun i y hy hne => (hframe i y).trans (frameOf_setFrame_ne c _ hx hy hne), fun t ht => rget_recorded hnodup ht _,
      fun n hn => rget_recorded_ne hn _⟩

end entry

/-- The coach that a trap leaves which enters at a level. -/
def trapCoach (s : State) (c : Coach) (j : Nat) (k : Carriage) (x : Level) (ts : List LaneTrap) (next : W64 × Option Rep) : Coach :=
  enterTrap c j k x ts next (tvecOf s c x) (reported s c k ts)

theorem takeTrap_of_level {c : Coach} {k : Carriage} {x : Level} {ts : List LaneTrap} (h : trapLevel c k ts = some x) (s : State) (j : Nat)
    (next : W64 × Option Rep) : takeTrap s c j k ts next = if reported s c k ts
      then sendEvent (s.setCoach c.key (trapCoach s c j k x ts next)) (reportEvent c k j ts)
      else s.setCoach c.key (trapCoach s c j k x ts next) := by
  rw [takeTrap, h]; rfl

theorem takeTrap_of_stuck {c : Coach} {k : Carriage} {ts : List LaneTrap} (h : trapLevel c k ts = none) (s : State) (j : Nat)
    (next : W64 × Option Rep) : takeTrap s c j k ts next = sendEvent (s.setCoach c.key { c with stuck := true })
      { ty := 5, ch := c.ch, handle := c.handle, who := c.pasid.toNat, data := [j] } := by
  rw [takeTrap, h]

/-- Settles O34: the level is that of `trapLevel_high` or `trapLevel_low`, and the coach that of `trapEntered_enterTrap`. -/
theorem trapEntersTheTargetLevel : Obligations.TrapEntersTheTargetLevel := by
  intro s c j k ts next hc hk hts high tvec
  refine ⟨fun hfree => ?_, fun hstuck => ?_⟩
  · obtain ⟨x, hx, hlevel, hhigh, hlow⟩ : ∃ x : Level, x ≠ .U ∧ trapLevel c k ts = some x ∧ (high → x = .H)
        ∧ (¬high → x = .S) := by
      by_cases h : high
      · have hopen : (frameOf c k.fslot .H).shut ≠ true := fun hs => hfree ⟨h, shut_iff.mp hs⟩
        exact ⟨.H, by decide, (trapLevel_high h).trans (if_neg hopen), fun _ => rfl, fun hn => absurd h hn⟩
      · exact ⟨.S, by decide, trapLevel_low h, fun hh => absurd hh h, fun _ => rfl⟩
    have htake := takeTrap_of_level hlevel s j next
    exact ⟨x, trapCoach s c j k x ts next, hhigh, hlow, trapEntered_enterTrap hc hk hts x next _ _ hx,
      fun hr => htake.trans (if_neg (by simp [hr])), fun hr => htake.trans (if_pos hr)⟩
  · exact takeTrap_of_stuck ((trapLevel_high hstuck.1).trans (if_pos (shut_iff.mpr hstuck.2))) s j next

end Sys2Proof.Machine
end

section
/-! PROOFS. A TRET over ports that are not listed in order: why the statement about the return from a trap (08 R208) fails. -/

namespace Sys2Proof.Machine

open Sys2Proof.Rules

/-- A faulted element of an inbound port for which its lane has trapped (R208). -/
def calledFault : QFault := { cause := 0x20, addr := 0x40, write := false, called := true }

/-- A handler that returns lanes 0 and 1 behind their instruction. Both have trapped at entry 0 of port 0, and lane 1 at entry 1 as well; port 1
is listed before port 0. -/
def handlerOfTwo : Carriage := { pc := 0x1000, lanes := 3, level := .S }
def portsUnordered : SMap QPort :=
  [(1, {}), (0, { dir := .inbound, faults := [(elemKey 0 0, calledFault), (elemKey 0 1, calledFault), (elemKey 1 1, calledFault)] })]
def returner : Coach :=
  { emptyCoach with
    slots := [(0, handlerOfTwo)], exited := 0xFFFFFFFC, s := [(1, 5)], ports := portsUnordered
    frames := [(0, { busy := true, tpc := 0x40, npc := 0x44, traps := [(0, 3)] })] }
def returnWorld : State := { State.reset with cur := some (.carriage { ch := 0, handle := 0, slot := 0 }), coaches := [(0, returner)] }
def returnIssue : Iss := { c := returner, slot := 0, k := handlerOfTwo }

/-! ## What a TRET makes of a coach -/

theorem exec_tret {s : State} {x : Iss} (h : issuer s = some x) (hu : x.k.level ≠ .U) (hr : tretReady x.c x.k = true) (a b : BitVec 8) :
    exec (.tret a b) s = .next (tretWith s x (readS x.c x.k a.toNat) fun l => readV x.c x.k l b.toNat != 0) := by
  show execTret a b s = _
  rw [execTret, byCarriage_issuer h, if_neg hu, hr]
  rfl

/-- A coach that keeps a lane stays after a TRET, as the return from the trap leaves it. -/
theorem coachOf_tretWith {x : Iss} {mask : W64} (h : (returnTrap x.c x.slot x.k mask).exited ≠ BitVec.allOnes 32) (s : State)
    (coded : Nat → Bool) : coachOf (tretWith s x mask coded) x.c.key = some (returnTrap x.c x.slot x.k mask) := by
  have hlive (u : State) (hu : coachOf u x.c.key = some (returnTrap x.c x.slot x.k mask)) :
      coachOf (checkCoach u x.c.key) x.c.key = some (returnTrap x.c x.slot x.k mask) := by rwa [checkCoach_live hu h]
  rw [tretWith]
  refine hlive _ ?_
  split
  · exact coachOf_setCoach_self ..
  · exact coachOf_setCoach_self ..

/-! ## The return -/

theorem readS_returnIssue : readS returnIssue.c returnIssue.k (1 : BitVec 8).toNat = 5 := by decide

theorem exited_returnIssue : (returnTrap returnIssue.c returnIssue.slot returnIssue.k 5).exited ≠ BitVec.allOnes 32 := by decide +kernel

theorem posOf_returnIssue : (portOf (returnTrap returnIssue.c returnIssue.slot returnIssue.k 5) 0).posOf 1 = 2 := by decide +kernel

/-- Refutes O35, in its clause on queue elements, which asks that the ports have keys of their own, not that they are listed in order. In
`returnWorld` port 1 is listed before port 0. Where lane 0 passes its element, port 0 is written in front of port 1 and stays listed behind it
too, so that lane 1 comes to it twice, and passes two elements of it, where the statement gives it one. -/
theorem not_tretResolvesTheTrapLanes : ¬ Obligations.TretResolvesTheTrapLanes := by
  intro h
  have horderly : orderly returner := ⟨by decide, by decide⟩
  obtain ⟨-, hlanes⟩ := h returnWorld returnIssue 1 0 rfl horderly (by decide) rfl (by decide)
  obtain ⟨t, w, hexec, ht, -, -, hqueue, -⟩ := hlanes (by decide)
  have hrun := exec_tret (s := returnWorld) (x := returnIssue) rfl (by decide) (by decide) 1 0
  rw [readS_returnIssue] at hrun
  have hw : w = returnTrap returnIssue.c returnIssue.slot returnIssue.k 5 := by
    have hnext := Host.Outcome.next.inj (hexec.symm.trans hrun)
    have hcoach : coachOf t returnIssue.c.key = some w := by rw [ht]; exact mget_mset_self ..
    rw [hnext, coachOf_tretWith exited_returnIssue] at hcoach
    exact (Option.some.inj hcoach).symm
  obtain ⟨hread, -⟩ := hqueue (by decide) (by decide) 0 1 0 calledFault (by decide) (by decide) (by decide) (by decide) rfl
  obtain ⟨honward, -⟩ := hread rfl rfl (by decide)
  have hone := honward (by decide) (by decide)
  rw [hw, posOf_returnIssue] at hone
  cases hone

end Sys2Proof.Machine
end

section
/-! PROOFS. Integer elements (09 R217, R218): the exact result, wrapped or held to its type; elements of a register, conversions to an integer
type, and reductions of integers and of bits (12 R286, R287, R289, R297, R305). -/

namespace Sys2Proof.Machine

open Sys2Proof.Rules

/-! ## Exact integers held to a type (R218) -/

theorem IntFmt.lo_le_hi (t : IntFmt) : t.lo ≤ t.hi := by
  have half : (0 : Int) < 2 ^ (t.w - 1) := by positivity
  have whole : (0 : Int) < 2 ^ t.w := by positivity
  unfold IntFmt.lo IntFmt.hi
  split <;> omega

theorem encodeExact_eq_intHeld (t : IntFmt) (sat : Bool) (n : Int) : t.encodeExact sat n = intHeld t sat n := by
  have hle := t.lo_le_hi
  change _ = (((if sat then max t.lo (min t.hi n) else n) % 2 ^ t.w).toNat, if sat ∧ max t.lo (min t.hi n) ≠ n then fSA else 0)
  unfold IntFmt.encodeExact lowBits
  cases sat with
  | false => simp
  | true =>
    by_cases h : n < t.lo ∨ n > t.hi
    · have : max t.lo (min t.hi n) ≠ n := by omega
      simp [h, this]
    · have : max t.lo (min t.hi n) = n := by omega
      simp [h, this]

/-- No integer type of mode.etype is wider than 64 bits (R214). -/
theorem width_le_of_noSl {m : Mode} {t : IntFmt} (h : m.etype.noSl = .int t) : t.w ≤ 64 := by
  have all : ∀ c < 16, ∀ u, (EType.ofCode c).noSl = .int u → u.w ≤ 64 := by
    intro c hc u hu
    interval_cases c <;> cases hu <;> decide
  exact all m.etypeCode (Nat.mod_lt _ (by decide)) t h

theorem intHeld_true_fst (t : IntFmt) (n : Int) : (intHeld t true n).1 = lowBits (max t.lo (min t.hi n)) t.w := rfl

/-- Below every range, as an infinity converts (R218). -/
theorem intHeld_below {t : IntFmt} (h : t.w ≤ 64) : (intHeld t true (-2 ^ 64)).1 = lowBits t.lo t.w := by
  have hlo : -2 ^ 64 ≤ t.lo := by
    have : (2 : Int) ^ (t.w - 1) ≤ 2 ^ 64 := pow_le_pow_right₀ (by norm_num) (by omega)
    unfold IntFmt.lo
    split <;> omega
  rw [intHeld_true_fst, min_eq_right (hlo.trans t.lo_le_hi), max_eq_left hlo]

/-- Above every range (R218). -/
theorem intHeld_above {t : IntFmt} (h : t.w ≤ 64) : (intHeld t true (2 ^ 64)).1 = lowBits t.hi t.w := by
  have hhi : t.hi ≤ 2 ^ 64 := by
    have : (2 : Int) ^ (t.w - 1) ≤ 2 ^ 64 := pow_le_pow_right₀ (by norm_num) (by omega)
    have : (2 : Int) ^ t.w ≤ 2 ^ 64 := pow_le_pow_right₀ (by norm_num) h
    unfold IntFmt.hi
    split <;> omega
  rw [intHeld_true_fst, min_eq_left hhi, max_eq_right t.lo_le_hi]

/-! ## Arithmetic of elements (R287, R289) -/

theorem elemArith_int {m : Mode} {t : IntFmt} (h : m.etype.noSl = .int t) (op : ArithOp) (a b d : Nat) :
    elemArith op m a b d = intArith op t m.sat a b d := by
  simp only [elemArith, h, EType.asInt]

/-- Every operation but RNDI encodes its exact result (R289). -/
theorem intArith_of_exact {op : ArithOp} {t : IntFmt} {a b d : Nat} {n : Int} (sat : Bool) (hop : op ≠ .rndi)
    (h : exactOf op (t.decode a) (t.decode b) (t.decode d) = some n) : intArith op t sat a b d = intHeld t sat n := by
  rw [← encodeExact_eq_intHeld]
  cases op with
  | rndi => exact absurd rfl hop
  | sqrt => cases h
  | div =>
    simp only [exactOf, Option.ite_none_left_eq_some, Option.some.injEq] at h
    obtain ⟨hz, rfl⟩ := h
    simp [intArith, hz]
  | fnma =>
    cases h
    simp only [intArith]
    congr 1
    ring
  | abs =>
    cases h
    simp only [intArith]
    congr 1
    split <;> omega
  | add | sub | mul | fma | min | max | neg =>
    cases h
    rfl

theorem intArith_div_zero {t : IntFmt} {b : Nat} (h : t.decode b = 0) (sat : Bool) (a d : Nat) :
    intArith .div t sat a b d = (2 ^ t.w - 1, 0) := by
  simp [intArith, h]

/-! ## Elements of a register (R215, R286) -/

/-- An element of packed elements is that element, cut to its width. -/
theorem elem_packElems (w : Nat) (es : List Nat) : ∀ {k : Nat} (h : k < es.length), elem (packElems w es) k w = es[k] % 2 ^ w := by
  induction es with
  | nil => intro k h; cases h
  | cons e es ih =>
    intro k h
    cases k with
    | zero => simp [elem, packElems]
    | succ k =>
      have hshift : packElems w (e :: es) / 2 ^ w = packElems w es := by
        rw [packElems, Nat.add_mul_div_left _ _ (by positivity), Nat.div_eq_of_lt (Nat.mod_lt _ (by positivity)), Nat.zero_add]
      have hk := ih (k := k) (by simpa using h)
      rw [elem, show (k + 1) * w = w + k * w by ring, pow_add, ← Nat.div_div_eq_div_mul, hshift]
      exact hk

theorem elem_perElem {w k : Nat} (f : Nat → Nat × FlagSet) (h : k < elemCount w) : elem (perElem w f).1 k w = (f k).1 % 2 ^ w := by
  unfold perElem
  rw [elem_packElems _ _ (by simpa using h)]
  simp

/-! ## Conversions to an integer type (R218, R297) -/

theorem Rat'.ofInt_eqv (n : Int) (q : Rat') : (Rat'.ofInt n).eqv q = decide (n * q.den = q.num) := by
  simp [Rat'.eqv, Rat'.ofInt, beq_eq_decide]

theorem convert_int_int {m : Mode} {src : Nat} {t u : IntFmt} (h : m.etype.noSl = .int t) (hs : EType.ofCode src = .int u) (x : Nat) :
    convert m src x = intHeld t m.sat (u.decode x) := by
  simp only [convert, h, hs, EType.asInt, encodeExact_eq_intHeld]

/-- A conversion from a float type encodes the value, and a NaN raises IV in any case. -/
theorem convert_float_int {m : Mode} {src : Nat} {t : IntFmt} {f : FloatFmt} (h : m.etype.noSl = .int t) (hs : EType.ofCode src = .float f)
    (x : Nat) :
    convert m src x = ((t.encode m.rnd m.sat (f.decode m.ftz (x % 2 ^ f.w))).1,
      (t.encode m.rnd m.sat (f.decode m.ftz (x % 2 ^ f.w))).2 ||| sigIV [f.decode m.ftz (x % 2 ^ f.w)]) := by
  simp only [convert, h, hs, EType.asInt]

theorem convert_float_int_of_num {m : Mode} {src x : Nat} {t : IntFmt} {f : FloatFmt} (h : m.etype.noSl = .int t)
    (hs : EType.ofCode src = .float f) (hv : sigIV [f.decode m.ftz (x % 2 ^ f.w)] = 0) :
    convert m src x = t.encode m.rnd m.sat (f.decode m.ftz (x % 2 ^ f.w)) := by
  simp [convert_float_int h hs, hv]

/-! ## Reductions (R305) -/

theorem contributed_add_int {m : Mode} {t : IntFmt} (h : m.etype = .int t) {xs : List (Nat × Bool)} (hx : xs ≠ []) :
    contributed .add m xs = intHeld t m.sat (xs.map fun x => t.decode x.1).sum := by
  simp [contributed, h, hx, encodeExact_eq_intHeld, List.sum_eq_foldl, Function.comp_def]

/-- The better of two, the one with the lesser key, and of two alike the first. -/
def lesser (f : Nat → Int) (a b : Nat) : Nat := if f b < f a then b else a

theorem lesser_spec (f : Nat → Int) (a b : Nat) :
    (lesser f a b = a ∨ lesser f a b = b) ∧ f (lesser f a b) ≤ f a ∧ f (lesser f a b) ≤ f b := by
  unfold lesser
  split <;> simp <;> omega

/-- Keeping the better of two, one after another, ends with one that none is better than. -/
theorem foldl_lesser (f : Nat → Int) (xs : List Nat) : ∀ a,
    xs.foldl (lesser f) a ∈ a :: xs ∧ ∀ x ∈ a :: xs, f (xs.foldl (lesser f) a) ≤ f x := by
  induction xs with
  | nil => simp
  | cons y ys ih =>
    intro a
    obtain ⟨hor, ha, hy⟩ := lesser_spec f a y
    obtain ⟨hmem, hle⟩ := ih (lesser f a y)
    have hfirst := hle _ List.mem_cons_self
    rw [List.foldl_cons]
    refine ⟨?_, fun x hx => ?_⟩
    · rcases List.mem_cons.mp hmem with h | h
      · rw [h]
        rcases hor with h | h <;> simp [h]
      · simp [h]
    · rcases List.mem_cons.mp hx with rfl | hx
      · exact hfirst.trans ha
      · rcases List.mem_cons.mp hx with rfl | hx
        · exact hfirst.trans hy
        · exact hle x (List.mem_cons_of_mem _ hx)

theorem contributed_min_int {m : Mode} {t : IntFmt} (h : m.etype = .int t) (x : Nat × Bool) (xs : List (Nat × Bool)) :
    contributed .min m (x :: xs)
      = ((xs.map Prod.fst).foldl (lesser t.decode) x.1, 0) := by
  have hlesser : lesser t.decode = fun a b => if t.decode b < t.decode a then b else a := rfl
  simp [contributed, contributed.pick, h, hlesser]

theorem contributed_max_int {m : Mode} {t : IntFmt} (h : m.etype = .int t) (x : Nat × Bool) (xs : List (Nat × Bool)) :
    contributed .max m (x :: xs)
      = ((xs.map Prod.fst).foldl (lesser fun a => -t.decode a) x.1, 0) := by
  have hgreater : (lesser fun a => -t.decode a) = fun a b => if t.decode a < t.decode b then b else a := by
    funext a b
    simp [lesser]
  simp [contributed, contributed.pick, h, hgreater]

/-- The bits of a fold of a bit operation are the folds of the bits. -/
theorem testBit_foldl {op : Nat → Nat → Nat} {g : Bool → Bool → Bool} (h : ∀ a b i, (op a b).testBit i = g (a.testBit i) (b.testBit i))
    (i : Nat) (xs : List Nat) : ∀ a, (xs.foldl op a).testBit i = (xs.map (·.testBit i)).foldl g (a.testBit i) := by
  induction xs with
  | nil => simp
  | cons x xs ih => intro a; simp [ih, h]

theorem foldl_and (bs : List Bool) : ∀ a, bs.foldl and a = (a && bs.all id) := by
  induction bs with
  | nil => simp
  | cons b bs ih => intro a; simp [ih, Bool.and_assoc]

theorem foldl_or (bs : List Bool) : ∀ a, bs.foldl or a = (a || bs.any id) := by
  induction bs with
  | nil => simp
  | cons b bs ih => intro a; simp [ih, Bool.or_assoc]

/-- An exclusive or tells whether an odd number of its terms are true. -/
theorem foldl_xor (bs : List Bool) : ∀ a, bs.foldl xor a = xor a (decide (bs.countP id % 2 = 1)) := by
  induction bs with
  | nil => simp
  | cons b bs ih =>
    intro a
    rw [List.foldl_cons, ih, List.countP_cons]
    cases b with
    | false => simp
    | true =>
      rcases Nat.mod_two_eq_zero_or_one (bs.countP id) with h | h <;> simp [h, Nat.add_mod]

section bits
variable {m : Mode} {xs : List (Nat × Bool)} (hx : xs ≠ [])
include hx

theorem contributed_bits {op : RedOp} (h : op ∈ [RedOp.and, .or, .xor]) :
    contributed op m xs = (bitFold op m.etype.width (xs.map Prod.fst), 0) := by
  simp only [List.mem_cons, List.not_mem_nil, or_false] at h
  rcases h with rfl | rfl | rfl <;> simp [contributed, hx]

theorem testBit_contributed_and {b : Nat} (hb : b < m.etype.width) : (contributed .and m xs).1.testBit b = xs.all fun x => x.1.testBit b := by
  rw [contributed_bits hx (by simp), bitFold, testBit_foldl (op := Nat.land) (fun _ _ _ => Nat.testBit_land ..), foldl_and]
  simp [hb, Function.comp_def]

theorem testBit_contributed_or (b : Nat) : (contributed .or m xs).1.testBit b = xs.any fun x => x.1.testBit b := by
  rw [contributed_bits hx (by simp), bitFold, testBit_foldl (op := Nat.lor) (fun _ _ _ => Nat.testBit_lor ..), foldl_or]
  simp [Function.comp_def]

theorem testBit_contributed_xor (b : Nat) :
    (contributed .xor m xs).1.testBit b = decide ((xs.countP fun x => x.1.testBit b) % 2 = 1) := by
  have hfold : bitFold .xor m.etype.width (xs.map Prod.fst) = (xs.map Prod.fst).foldl Nat.xor 0 := rfl
  rw [contributed_bits hx (by simp), hfold, testBit_foldl (op := Nat.xor) (fun _ _ _ => Nat.testBit_xor ..), foldl_xor]
  simp [Function.comp_def, List.countP_map]

end bits

/-- Settles O23: the model's EncodeInt is the statement's own wrap or hold, packed elements read back as they were computed, and the reductions
are folds whose result is read off their steps. -/
theorem integerElementsWrapOrSaturate : Obligations.IntegerElementsWrapOrSaturate := by
  unfold Obligations.IntegerElementsWrapOrSaturate
  refine ⟨fun op m t a b d n ht hn => ⟨fun hop => ?_, fun hop => ?_⟩, fun m t a b d ht hb => ?_, fun op m a b d k hk => ?_,
    fun m src x t ht => ⟨fun u hu => convert_int_int ht hu x, fun f hf => ?_⟩, fun m t xs ht hx => ?_, fun m xs b hx hb => ?_⟩
  · rw [elemArith_int ht, intArith_of_exact m.sat hop hn]
  · rw [elemArith_int ht, hop]
    rfl
  · rw [elemArith_int ht, intArith_div_zero hb]
  · exact elem_perElem _ hk
  · refine ⟨fun g hv => ?_, fun n hv => ?_, fun n hv => ?_, fun q hv => ?_⟩
    · rw [convert_float_int ht hf, hv]
      simp only [IntFmt.encode]
      cases g <;> decide
    · rw [convert_float_int_of_num ht hf (by rw [hv]; rfl), hv]
      rfl
    · rw [convert_float_int_of_num ht hf (by rw [hv]; rfl), hv]
      cases n with
      | true => simp only [if_true, intHeld_below (width_le_of_noSl ht), IntFmt.encode]
      | false => simp only [Bool.false_eq_true, if_false, intHeld_above (width_le_of_noSl ht), IntFmt.encode]
    · rw [convert_float_int_of_num ht hf (by rw [hv]; rfl), hv]
      simp only [IntFmt.encode, encodeExact_eq_intHeld, Rat'.ofInt_eqv, decide_eq_true_eq]
  · obtain ⟨x, xs, rfl⟩ := List.exists_cons_of_ne_nil hx
    obtain ⟨hmin, hleast⟩ := foldl_lesser t.decode (xs.map Prod.fst) x.1
    obtain ⟨hmax, hgreatest⟩ := foldl_lesser (fun a => -t.decode a) (xs.map Prod.fst) x.1
    rw [contributed_min_int ht, contributed_max_int ht]
    refine ⟨contributed_add_int ht hx, rfl, rfl, hmin, hmax, fun y hy => ?_⟩
    have hmem : y.1 ∈ x.1 :: xs.map Prod.fst := List.mem_map_of_mem (f := Prod.fst) hy
    exact ⟨hleast _ hmem, neg_le_neg_iff.mp (hgreatest _ hmem)⟩
  · refine ⟨testBit_contributed_and hx hb, testBit_contributed_or hx b, testBit_contributed_xor hx b, fun op hop => ?_⟩
    rw [contributed_bits hx hop]

end Sys2Proof.Machine
end

section
/-! PROOFS. Exact values as rational numbers: their order, their powers of two, and the integer next to one in each direction (09 R216, R222). -/

namespace Sys2Proof.Machine

open Sys2Proof.Rules

/-! ## Values and their order -/

/-- The rational number that a numerator over a denominator is. -/
def Rat'.val (a : Rat') : ℚ := a.num / a.den

@[simp] theorem Rat'.val_ofInt (n : Int) : (Rat'.ofInt n).val = n := by simp [Rat'.val, Rat'.ofInt]
@[simp] theorem Rat'.val_neg (a : Rat') : a.neg.val = -a.val := by simp [Rat'.val, Rat'.neg, neg_div]
@[simp] theorem Rat'.val_abs (a : Rat') : a.abs.val = |a.val| := by
  simp [Rat'.val, Rat'.abs, abs_div, Nat.cast_natAbs]

@[simp] theorem Rat'.val_scale (a : Rat') (k : Int) : (a.scale k).val = a.val * 2 ^ k := by
  unfold Rat'.scale Rat'.val
  split
  case isTrue h =>
    obtain ⟨n, rfl⟩ := Int.eq_ofNat_of_zero_le h
    push_cast
    simp only [Int.toNat_natCast, zpow_natCast]
    ring
  case isFalse h =>
    obtain ⟨n, hn⟩ := Int.eq_ofNat_of_zero_le (show 0 ≤ -k by omega)
    rw [hn, show k = -n by omega]
    push_cast
    simp only [Int.toNat_natCast, zpow_neg, zpow_natCast]
    rw [div_mul_eq_div_div, div_eq_mul_inv _ ((2 : ℚ) ^ n)]

@[simp] theorem Rat'.val_pow2 (k : Int) : (Rat'.pow2 k).val = 2 ^ k := by simp [Rat'.pow2]

@[simp] theorem Rat'.den_neg (a : Rat') : a.neg.den = a.den := rfl

theorem Rat'.den_scale_pos {a : Rat'} (h : 0 < a.den) (k : Int) : 0 < (a.scale k).den := by
  unfold Rat'.scale
  split
  · exact h
  · exact Nat.mul_pos h (by positivity)

theorem Rat'.den_pow2_pos (k : Int) : 0 < (Rat'.pow2 k).den := Rat'.den_scale_pos Nat.one_pos k

section order
variable {a b : Rat'} (ha : 0 < a.den) (hb : 0 < b.den)
include ha hb

theorem Rat'.lt_iff : a.lt b = true ↔ a.val < b.val := by
  have ha' : (0 : ℚ) < a.den := by exact_mod_cast ha
  have hb' : (0 : ℚ) < b.den := by exact_mod_cast hb
  rw [Rat'.val, Rat'.val, div_lt_div_iff₀ ha' hb', Rat'.lt, decide_eq_true_eq]
  exact_mod_cast Iff.rfl

theorem Rat'.le_iff : a.le b = true ↔ a.val ≤ b.val := by
  have ha' : (0 : ℚ) < a.den := by exact_mod_cast ha
  have hb' : (0 : ℚ) < b.den := by exact_mod_cast hb
  rw [Rat'.val, Rat'.val, div_le_div_iff₀ ha' hb', Rat'.le, decide_eq_true_eq]
  exact_mod_cast Iff.rfl

theorem Rat'.eqv_iff : a.eqv b = true ↔ a.val = b.val := by
  have ha' : (a.den : ℚ) ≠ 0 := by exact_mod_cast ha.ne'
  have hb' : (b.den : ℚ) ≠ 0 := by exact_mod_cast hb.ne'
  rw [Rat'.val, Rat'.val, div_eq_div_iff ha' hb', Rat'.eqv, beq_iff_eq]
  exact_mod_cast Iff.rfl

end order

section sign
variable {a : Rat'} (ha : 0 < a.den)
include ha

theorem Rat'.val_neg_iff : a.val < 0 ↔ a.num < 0 := by
  have ha' : (0 : ℚ) < a.den := by exact_mod_cast ha
  rw [Rat'.val, div_lt_iff₀ ha', zero_mul]
  exact_mod_cast Iff.rfl

theorem Rat'.val_eq_zero_iff : a.val = 0 ↔ a.num = 0 := by
  have ha' : (a.den : ℚ) ≠ 0 := by exact_mod_cast ha.ne'
  rw [Rat'.val, div_eq_zero_iff, or_iff_left ha']
  exact_mod_cast Iff.rfl

end sign

@[simp] theorem Rat'.num_scale_neg_iff (a : Rat') (k : Int) : (a.scale k).num < 0 ↔ a.num < 0 := by
  unfold Rat'.scale
  split
  · exact ⟨fun h => neg_of_mul_neg_left h (by positivity), fun h => mul_neg_of_neg_of_pos h (by positivity)⟩
  · rfl

/-! ## The binary logarithm (R222) -/

theorem Rat'.log2_bounds {a : Rat'} (ha : 0 < a.den) (h0 : a.num ≠ 0) : 2 ^ a.log2 ≤ |a.val| ∧ |a.val| < 2 ^ (a.log2 + 1) := by
  have hn : a.num.natAbs ≠ 0 := by omega
  have hd : (0 : ℚ) < a.den := by exact_mod_cast ha
  have habs : |a.val| = (a.num.natAbs : ℚ) / a.den := by
    rw [← Rat'.val_abs]
    rfl
  have n1 : (2 : ℚ) ^ Nat.log2 a.num.natAbs ≤ a.num.natAbs := by exact_mod_cast Nat.log2_self_le hn
  have n2 : (a.num.natAbs : ℚ) < 2 ^ (Nat.log2 a.num.natAbs + 1) := by exact_mod_cast Nat.lt_log2_self
  have d1 : (2 : ℚ) ^ Nat.log2 a.den ≤ a.den := by exact_mod_cast Nat.log2_self_le ha.ne'
  have d2 : (a.den : ℚ) < 2 ^ (Nat.log2 a.den + 1) := by exact_mod_cast Nat.lt_log2_self
  generalize hi : Nat.log2 a.num.natAbs = i at *
  generalize hj : Nat.log2 a.den = j at *
  have upper : |a.val| < 2 ^ ((i : Int) - j + 1) := by
    rw [habs, div_lt_iff₀ hd]
    calc (a.num.natAbs : ℚ) < 2 ^ (i + 1) := n2
      _ = 2 ^ ((i : Int) - j + 1) * 2 ^ j := by
        rw [← zpow_natCast, ← zpow_natCast, ← zpow_add₀ two_ne_zero]
        congr 1
        push_cast
        ring
      _ ≤ _ := by gcongr
  have lower : (2 : ℚ) ^ ((i : Int) - j - 1) < |a.val| := by
    rw [habs, lt_div_iff₀ hd]
    calc (2 : ℚ) ^ ((i : Int) - j - 1) * a.den < 2 ^ ((i : Int) - j - 1) * 2 ^ (j + 1) := by gcongr
      _ = 2 ^ i := by
        rw [← zpow_natCast, ← zpow_natCast, ← zpow_add₀ two_ne_zero]
        congr 1
        push_cast
        ring
      _ ≤ _ := n1
  have hle := Rat'.le_iff (Rat'.den_pow2_pos ((i : Int) - j)) (b := a.abs) ha
  rw [Rat'.val_pow2, Rat'.val_abs] at hle
  simp only [Rat'.log2, hi, hj]
  split
  case isTrue h => exact ⟨hle.mp h, upper⟩
  case isFalse h =>
    rw [sub_add_cancel]
    exact ⟨lower.le, not_le.mp fun hc => h (hle.mpr hc)⟩

theorem zpow_two_le_iff {i j : Int} : (2 : ℚ) ^ i ≤ 2 ^ j ↔ i ≤ j := zpow_le_zpow_iff_right₀ one_lt_two
theorem zpow_two_lt_iff {i j : Int} : (2 : ℚ) ^ i < 2 ^ j ↔ i < j := zpow_lt_zpow_iff_right₀ one_lt_two

/-- The logarithm of a value between two powers of two. -/
theorem Rat'.log2_eq {a : Rat'} (ha : 0 < a.den) {e : Int} (hl : 2 ^ e ≤ |a.val|) (hu : |a.val| < 2 ^ (e + 1)) : a.log2 = e := by
  have h0 : a.num ≠ 0 := by
    intro h
    rw [(Rat'.val_eq_zero_iff ha).mpr h, abs_zero] at hl
    exact absurd hl (not_le.mpr (by positivity))
  obtain ⟨gl, gu⟩ := Rat'.log2_bounds ha h0
  have h1 : a.log2 < e + 1 := zpow_two_lt_iff.mp (gl.trans_lt hu)
  have h2 : e < a.log2 + 1 := zpow_two_lt_iff.mp (hl.trans_lt gu)
  omega

/-! ## RoundTo(a, 1, rnd) (R222) -/

/-- Every direction gives the integer below, or above a value that is no integer the next one. -/
theorem roundInt_floor_or_next (a : Rat') (rnd : Nat) :
    roundInt a rnd = a.num / a.den ∨ (roundInt a rnd = a.num / a.den + 1 ∧ a.num - a.num / a.den * a.den ≠ 0) := by
  by_cases h : a.num - a.num / a.den * a.den = 0
  · exact .inl (by simp [roundInt, h])
  · simp only [roundInt, beq_iff_eq, h, if_false, ne_eq, not_false_iff, and_true]
    split
    · split_ifs <;> simp
    · split_ifs <;> simp
    · simp
    · simp
    · split_ifs <;> simp

/-- A numerator as a multiple of its denominator and a rest. -/
theorem Rat'.num_rest {a : Rat'} (ha : 0 < a.den) :
    0 ≤ a.num - a.num / a.den * a.den ∧ a.num - a.num / a.den * a.den < a.den := by
  have hd : (0 : Int) < a.den := by exact_mod_cast ha
  have hmod : a.num - a.num / a.den * a.den = a.num % a.den := by rw [Int.emod_def, mul_comm]
  rw [hmod]
  exact ⟨Int.emod_nonneg _ hd.ne', Int.emod_lt_of_pos _ hd⟩

theorem natAbs_mul_den (n : Int) (d : Nat) : n.natAbs * d = (n * (d : Int)).natAbs := by rw [Int.natAbs_mul, Int.natAbs_natCast]

section round
variable {a : Rat'} (ha : 0 < a.den) (rnd : Nat)
include ha

/-- Rounding moves a value by less than one. -/
theorem roundInt_near : (roundInt a rnd - 1) * (a.den : Int) < a.num ∧ a.num < (roundInt a rnd + 1) * (a.den : Int) := by
  obtain ⟨h0, h1⟩ := Rat'.num_rest ha
  rcases roundInt_floor_or_next a rnd with h | ⟨h, hr⟩ <;> rw [h] <;> constructor <;> (ring_nf at *; omega)

theorem roundInt_near_val : (roundInt a rnd : ℚ) - 1 < a.val ∧ a.val < roundInt a rnd + 1 := by
  have hd : (0 : ℚ) < a.den := by exact_mod_cast ha
  obtain ⟨h0, h1⟩ := roundInt_near ha rnd
  rw [Rat'.val, lt_div_iff₀ hd, div_lt_iff₀ hd]
  exact ⟨by exact_mod_cast h0, by exact_mod_cast h1⟩

theorem le_roundInt {n : Int} (h : (n : ℚ) ≤ a.val) : n ≤ roundInt a rnd := by
  have := (roundInt_near_val ha rnd).2
  exact Int.lt_add_one_iff.mp (by exact_mod_cast h.trans_lt this)

theorem roundInt_le {n : Int} (h : a.val ≤ n) : roundInt a rnd ≤ n := by
  have := (roundInt_near_val ha rnd).1
  exact Int.sub_one_lt_iff.mp (by exact_mod_cast this.trans_le h)

/-- An integer rounds to itself in every direction. -/
theorem roundInt_of_eq {n : Int} (h : a.val = n) : roundInt a rnd = n :=
  le_antisymm (roundInt_le ha rnd h.le) (le_roundInt ha rnd h.ge)

/-- Rounding does not cross an integer, in magnitude. -/
theorem le_natAbs_roundInt {n : Nat} (h : (n : ℚ) ≤ |a.val|) : n ≤ (roundInt a rnd).natAbs := by
  rcases le_abs.mp h with h | h
  · have := le_roundInt ha rnd (n := n) (by exact_mod_cast h)
    omega
  · have := roundInt_le ha rnd (n := -n) (by push_cast; linarith)
    omega

theorem natAbs_roundInt_le {n : Nat} (h : |a.val| ≤ n) : (roundInt a rnd).natAbs ≤ n := by
  obtain ⟨h1, h2⟩ := abs_le.mp h
  have := le_roundInt ha rnd (n := -n) (by exact_mod_cast h1)
  have := roundInt_le ha rnd (n := n) (by exact_mod_cast h2)
  omega

/-- Rounding keeps the sign, or gives zero. -/
theorem roundInt_nonneg (h : 0 ≤ a.num) : 0 ≤ roundInt a rnd :=
  le_roundInt ha rnd (by rw [Int.cast_zero]; exact not_lt.mp fun hn => absurd ((Rat'.val_neg_iff ha).mp hn) (not_lt.mpr h))

theorem roundInt_nonpos (h : a.num ≤ 0) : roundInt a rnd ≤ 0 :=
  roundInt_le ha rnd (by
    rw [Int.cast_zero, Rat'.val]
    exact div_nonpos_of_nonpos_of_nonneg (by exact_mod_cast h) (Nat.cast_nonneg _))

theorem roundInt_sign : (a.num < 0 ∧ roundInt a rnd ≤ 0 ∧ roundInt a rnd * (a.den : Int) ≤ 0)
    ∨ (0 ≤ a.num ∧ 0 ≤ roundInt a rnd ∧ 0 ≤ roundInt a rnd * (a.den : Int)) := by
  rcases lt_or_ge a.num 0 with h | h
  · have hr := roundInt_nonpos ha rnd h.le
    exact .inl ⟨h, hr, mul_nonpos_of_nonpos_of_nonneg hr (Int.natCast_nonneg _)⟩
  · have hr := roundInt_nonneg ha rnd h
    exact .inr ⟨h, hr, mul_nonneg hr (Int.natCast_nonneg _)⟩

/-! ## The five directions (R222) -/

/-- RNE: a nearest integer, and of two the even one. -/
theorem roundInt_nearest_even : 2 * (a.num - roundInt a 0 * (a.den : Int)).natAbs ≤ a.den
    ∧ (2 * (a.num - roundInt a 0 * (a.den : Int)).natAbs = a.den → roundInt a 0 % 2 = 0) := by
  obtain ⟨h0, h1⟩ := Rat'.num_rest ha
  simp only [roundInt, beq_iff_eq]
  generalize a.num / a.den = f at *
  have hf : (f + 1) * (a.den : Int) = f * a.den + a.den := by ring
  split_ifs <;> omega

/-- RTZ: the integer next to it on the side of zero. -/
theorem roundInt_toward_zero : (roundInt a 1).natAbs * a.den ≤ a.num.natAbs ∧ a.num.natAbs < ((roundInt a 1).natAbs + 1) * a.den
    ∧ 0 ≤ roundInt a 1 * a.num := by
  obtain ⟨hlow, hhigh⟩ := roundInt_near ha 1
  obtain ⟨h0, h1⟩ := Rat'.num_rest ha
  have hside : if a.num < 0 then a.num ≤ roundInt a 1 * (a.den : Int) else roundInt a 1 * (a.den : Int) ≤ a.num := by
    simp only [roundInt, beq_iff_eq]
    generalize a.num / a.den = f at *
    have hf : (f + 1) * (a.den : Int) = f * a.den + a.den := by ring
    split_ifs <;> omega
  rw [sub_mul, one_mul] at hlow
  rw [add_mul, one_mul] at hhigh
  rw [Nat.add_mul, Nat.one_mul, natAbs_mul_den]
  rcases roundInt_sign ha 1 with ⟨hn, hr, hm⟩ | ⟨hn, hr, hm⟩
  · rw [if_pos hn] at hside
    exact ⟨by omega, by omega, mul_nonneg_of_nonpos_of_nonpos hr hn.le⟩
  · rw [if_neg hn.not_gt] at hside
    exact ⟨by omega, by omega, mul_nonneg hr hn⟩

/-- RUP: the least integer that is not below. -/
theorem roundInt_up : (roundInt a 2 - 1) * (a.den : Int) < a.num ∧ a.num ≤ roundInt a 2 * (a.den : Int) := by
  refine ⟨(roundInt_near ha 2).1, ?_⟩
  obtain ⟨h0, h1⟩ := Rat'.num_rest ha
  simp only [roundInt, beq_iff_eq]
  generalize a.num / a.den = f at *
  have hf : (f + 1) * (a.den : Int) = f * a.den + a.den := by ring
  split_ifs <;> omega

/-- RDN: the greatest integer that is not above. -/
theorem roundInt_down : roundInt a 3 * (a.den : Int) ≤ a.num ∧ a.num < (roundInt a 3 + 1) * (a.den : Int) := by
  refine ⟨?_, (roundInt_near ha 3).2⟩
  obtain ⟨h0, h1⟩ := Rat'.num_rest ha
  simp only [roundInt, beq_iff_eq]
  split_ifs <;> omega

/-- RNA: a nearest integer, and of two the one farther from zero. -/
theorem roundInt_nearest_away : 2 * (a.num - roundInt a 4 * (a.den : Int)).natAbs ≤ a.den
    ∧ (2 * (a.num - roundInt a 4 * (a.den : Int)).natAbs = a.den → a.num.natAbs < (roundInt a 4).natAbs * a.den) := by
  obtain ⟨h0, h1⟩ := Rat'.num_rest ha
  have hnear : 2 * (a.num - roundInt a 4 * (a.den : Int)).natAbs ≤ a.den
      ∧ (2 * (a.num - roundInt a 4 * (a.den : Int)).natAbs = a.den →
        if a.num < 0 then roundInt a 4 * (a.den : Int) < a.num else a.num < roundInt a 4 * (a.den : Int)) := by
    simp only [roundInt, beq_iff_eq]
    generalize a.num / a.den = f at *
    have hf : (f + 1) * (a.den : Int) = f * a.den + a.den := by ring
    split_ifs <;> omega
  refine ⟨hnear.1, fun htie => ?_⟩
  have hside := hnear.2 htie
  rw [natAbs_mul_den]
  split_ifs at hside <;> omega

end round

end Sys2Proof.Machine
end

section
/-! PROOFS. The binary float formats (09 R219 to R225): the magnitudes of their patterns in order, what a pattern decodes to, and the pattern that
a finite value is encoded as. -/

namespace Sys2Proof.Machine

open Sys2Proof.Rules

/-! ## Formats (R219) -/

/-- What the five formats share: the least exponent is that of exponent field 1, and fp8e4 alone gives its greatest exponent field to numbers. -/
structure FloatFmt.Regular (t : FloatFmt) : Prop where
  emin_eq : t.emin = 1 - t.bias
  frac_pos : 0 < t.m
  exp_bits : t.m + 3 ≤ t.w
  e4_iff : t.e4 = true → t = fp8e4

theorem regular_of_mem {t : FloatFmt} (h : t ∈ floats) : t.Regular := by
  simp only [floats, List.mem_cons, List.not_mem_nil, or_false] at h
  rcases h with rfl | rfl | rfl | rfl | rfl <;> exact ⟨by decide, by decide, by decide, by decide⟩

/-- The magnitude that the bits of a pattern below its sign stand for, infinities and NaNs taken for numbers (R220). -/
def FloatFmt.mag (t : FloatFmt) (p : Nat) : ℚ :=
  ((if p / 2 ^ t.m = 0 then p % 2 ^ t.m else 2 ^ t.m + p % 2 ^ t.m : Nat) : ℚ) * 2 ^ (t.emin - t.m + (p / 2 ^ t.m - 1 : Nat))

/-- A coefficient of the fraction's size, or below it at the least exponent, or one above all of that size, as a rounding leaves it. -/
theorem FloatFmt.mag_parts (t : FloatFmt) {k n : Nat} (hn : n ≤ 2 ^ (t.m + 1)) (hk : k = 0 ∨ 2 ^ t.m ≤ n) :
    t.mag (k * 2 ^ t.m + n) = n * 2 ^ (t.emin - t.m + k) := by
  have hpos : 0 < 2 ^ t.m := by positivity
  rw [pow_succ] at hn
  unfold FloatFmt.mag
  generalize 2 ^ t.m = B at *
  rcases lt_or_ge n B with hlt | hge
  · obtain rfl : k = 0 := by omega
    simp [Nat.div_eq_of_lt hlt, Nat.mod_eq_of_lt hlt]
  · rcases eq_or_lt_of_le hn with rfl | hlt
    · have hp : k * B + B * 2 = (k + 2) * B := by ring
      rw [hp, Nat.mul_div_cancel _ hpos, Nat.mul_mod_left, if_neg (by omega), show k + 2 - 1 = k + 1 by omega]
      push_cast
      rw [← add_assoc, zpow_add_one₀ two_ne_zero]
      ring
    · obtain ⟨f, rfl⟩ := Nat.exists_eq_add_of_le hge
      have hf : f < B := by omega
      have hp : k * B + (B + f) = f + (k + 1) * B := by ring
      rw [hp, Nat.add_mul_div_right _ _ hpos, Nat.add_mul_mod_self_right, Nat.div_eq_of_lt hf, Nat.mod_eq_of_lt hf, if_neg (by omega)]
      simp

/-- The parts of a pattern's bits below its sign. -/
theorem FloatFmt.exists_parts (t : FloatFmt) (p : Nat) :
    ∃ k n, p = k * 2 ^ t.m + n ∧ n < 2 ^ (t.m + 1) ∧ (k = 0 ∨ 2 ^ t.m ≤ n) := by
  have hpos : 0 < 2 ^ t.m := by positivity
  have hmod := Nat.mod_lt p hpos
  have hdiv := Nat.div_add_mod' p (2 ^ t.m)
  rcases Nat.eq_zero_or_pos (p / 2 ^ t.m) with h | h
  · exact ⟨0, p % 2 ^ t.m, by rw [h] at hdiv; exact hdiv.symm, by rw [pow_succ]; omega, .inl rfl⟩
  · obtain ⟨k, hk⟩ := Nat.exists_eq_add_of_le' h
    refine ⟨k, 2 ^ t.m + p % 2 ^ t.m, ?_, by rw [pow_succ]; omega, .inr (by omega)⟩
    rw [hk, Nat.add_mul, Nat.one_mul] at hdiv
    omega

/-- The magnitudes lie as the patterns do. -/
theorem FloatFmt.mag_strictMono (t : FloatFmt) : StrictMono t.mag := by
  refine strictMono_nat_of_lt_succ fun p => ?_
  obtain ⟨k, n, rfl, hn, hk⟩ := t.exists_parts p
  rw [t.mag_parts hn.le hk, Nat.add_assoc, t.mag_parts hn (by omega)]
  push_cast
  gcongr
  linarith

theorem FloatFmt.mag_zero (t : FloatFmt) : t.mag 0 = 0 := by simp [FloatFmt.mag]

/-- A power of two, by its exponent field. -/
theorem FloatFmt.mag_pow2 (t : FloatFmt) (k : Nat) : t.mag ((k + 1) * 2 ^ t.m) = 2 ^ (t.emin + k) := by
  rw [Nat.add_mul, Nat.one_mul, t.mag_parts (by rw [pow_succ]; omega) (.inr le_rfl)]
  push_cast
  rw [← zpow_natCast, ← zpow_add₀ two_ne_zero]
  congr 1
  ring

section patterns
variable {t : FloatFmt} (ht : t.Regular)
include ht

theorem FloatFmt.signBit_eq : t.signBit = (t.eTop + 1) * 2 ^ t.m := by
  have h := ht.exp_bits
  rw [FloatFmt.signBit, FloatFmt.eTop, Nat.sub_add_cancel (Nat.one_le_two_pow), ← pow_add]
  congr 1
  omega

theorem FloatFmt.three_le_eTop : 3 ≤ t.eTop := by
  have h := ht.exp_bits
  have : 2 ^ 2 ≤ 2 ^ (t.w - 1 - t.m) := Nat.pow_le_pow_right (by decide) (by omega)
  unfold FloatFmt.eTop
  omega

theorem FloatFmt.infPat_lt_signBit : t.infPat < t.signBit := by
  rw [FloatFmt.signBit_eq ht, FloatFmt.infPat]
  exact Nat.mul_lt_mul_of_pos_right (Nat.lt_succ_self _) (by positivity)

theorem FloatFmt.two_mul_le_infPat : 2 ^ (t.m + 1) < t.infPat := by
  have h := FloatFmt.three_le_eTop ht
  have : 0 < 2 ^ t.m := by positivity
  rw [FloatFmt.infPat, pow_succ]
  nlinarith

theorem FloatFmt.maxPat_lt_signBit : t.maxPat < t.signBit := by
  have h := FloatFmt.infPat_lt_signBit ht
  unfold FloatFmt.maxPat
  split
  case isTrue h4 => rw [ht.e4_iff h4]; decide
  case isFalse => omega

/-- The powers of two of the least exponents are numbers. -/
theorem FloatFmt.two_pow_le_maxPat : 2 ^ (t.m + 1) ≤ t.maxPat := by
  have h := FloatFmt.two_mul_le_infPat ht
  unfold FloatFmt.maxPat
  split
  case isTrue h4 => rw [ht.e4_iff h4]; decide
  case isFalse => omega

theorem FloatFmt.two_pow_lt_maxPat : 2 ^ t.m < t.maxPat :=
  (Nat.pow_lt_pow_right (by decide) (Nat.lt_succ_self _)).trans_le (FloatFmt.two_pow_le_maxPat ht)

/-! ## What a pattern decodes to (R220) -/

/-- The sign, exponent and fraction fields of a pattern, by its sign and the bits below. -/
theorem FloatFmt.fields {p : Nat} (hp : p < t.signBit) (neg : Bool) :
    bitOf (t.signed neg p) (t.w - 1) = neg ∧ bitsOf (t.signed neg p) (t.w - 2) t.m = p / 2 ^ t.m
      ∧ t.signed neg p % 2 ^ t.m = p % 2 ^ t.m := by
  have hb := ht.exp_bits
  have hs := FloatFmt.signBit_eq ht
  have hpos : 0 < 2 ^ t.m := by positivity
  have htop : 2 ^ (t.w - 2 + 1 - t.m) = t.eTop + 1 := by
    rw [FloatFmt.eTop, Nat.sub_add_cancel Nat.one_le_two_pow]
    congr 1
    omega
  have hE : p / 2 ^ t.m < t.eTop + 1 := (Nat.div_lt_iff_lt_mul hpos).mpr (hs ▸ hp)
  have hbit : 2 ^ (t.w - 1) = t.signBit := rfl
  have hsigned : ∀ n, t.signed n p = (if n then 1 else 0) * t.signBit + p := by intro n; cases n <;> simp [FloatFmt.signed]
  refine ⟨?_, ?_, ?_⟩
  · rw [bitOf, hsigned, hbit, Nat.add_comm, Nat.add_mul_div_right _ _ (by omega), Nat.div_eq_of_lt hp]
    cases neg <;> rfl
  · rw [bitsOf, htop, hsigned, hs, ← Nat.mul_assoc, Nat.add_comm, Nat.add_mul_div_right _ _ hpos, Nat.add_mul_mod_self_right,
      Nat.mod_eq_of_lt hE]
  · rw [hsigned, hs, ← Nat.mul_assoc, Nat.add_comm, Nat.add_mul_mod_self_right]

theorem FloatFmt.decode_zero (ftz neg : Bool) : t.decode ftz (t.signed neg 0) = .zero neg := by
  have hs := (FloatFmt.signBit_eq ht).symm ▸ (show 0 < (t.eTop + 1) * 2 ^ t.m by positivity)
  obtain ⟨h1, h2, h3⟩ := FloatFmt.fields ht hs neg
  simp [FloatFmt.decode, h1, h2, h3]

/-- No number has the exponent field of all ones, but in fp8e4. -/
theorem FloatFmt.exp_of_le_maxPat {p : Nat} (hp : p ≤ t.maxPat) :
    (p / 2 ^ t.m == t.eTop && (!t.e4 || p % 2 ^ t.m == 7)) = false := by
  unfold FloatFmt.maxPat at hp
  split at hp
  case isTrue h4 =>
    obtain rfl := ht.e4_iff h4
    simp [fp8e4, FloatFmt.eTop]
    omega
  case isFalse =>
    have hinf : 0 < t.infPat := (Nat.zero_le _).trans_lt (FloatFmt.two_mul_le_infPat ht)
    have hlt : p < t.infPat := by omega
    have : p / 2 ^ t.m < t.eTop := (Nat.div_lt_iff_lt_mul (by positivity)).mpr hlt
    simp [this.ne]

/-- A pattern of a number other than zero stands for its magnitude, with its sign. -/
theorem FloatFmt.decode_fin {p : Nat} (h0 : p ≠ 0) (hp : p ≤ t.maxPat) (neg : Bool) :
    ∃ q, t.decode false (t.signed neg p) = .fin q ∧ 0 < q.den ∧ q.val = (if neg then -1 else 1) * t.mag p := by
  obtain ⟨h1, h2, h3⟩ := FloatFmt.fields ht (hp.trans_lt (FloatFmt.maxPat_lt_signBit ht)) neg
  have hsg : ∀ q : Rat', 0 < q.den → ∃ r, (if neg then q.neg else q) = r ∧ 0 < r.den ∧ r.val = (if neg then -1 else 1) * q.val := by
    intro q hq
    cases neg <;> simp [hq]
  simp only [FloatFmt.decode, h1, h2, h3, FloatFmt.exp_of_le_maxPat ht hp, Bool.or_false, beq_iff_eq]
  by_cases hE : p / 2 ^ t.m = 0
  · have hf : p % 2 ^ t.m ≠ 0 := fun hf => h0 (by have := Nat.div_add_mod' p (2 ^ t.m); rw [hE, hf] at this; omega)
    obtain ⟨r, hr, hden, hval⟩ := hsg ((Rat'.ofInt (p % 2 ^ t.m : Nat)).scale (t.emin - t.m)) (Rat'.den_scale_pos Nat.one_pos _)
    refine ⟨r, by simp [hE, hf, ← hr], hden, ?_⟩
    rw [hval, FloatFmt.mag, if_pos hE, Rat'.val_scale, Rat'.val_ofInt, Int.cast_natCast, hE]
    simp
  · obtain ⟨r, hr, hden, hval⟩ := hsg ((Rat'.ofInt (2 ^ t.m + p % 2 ^ t.m : Nat)).scale ((p / 2 ^ t.m : Nat) - t.bias - t.m))
      (Rat'.den_scale_pos Nat.one_pos _)
    refine ⟨r, by simp [hE, ← hr], hden, ?_⟩
    have hexp : ((p / 2 ^ t.m : Nat) : Int) - t.bias - t.m = t.emin - t.m + (p / 2 ^ t.m - 1 : Nat) := by
      have := ht.emin_eq
      omega
    rw [hval, FloatFmt.mag, if_neg hE, Rat'.val_scale, Rat'.val_ofInt, Int.cast_natCast, hexp]

end patterns

end Sys2Proof.Machine
end

section
/-! PROOFS. A finite value is encoded by rounding it once (09 R223 to R225): the exponent and coefficient of the rounding, the pattern that they
make, when that is beyond the largest and when it is tiny; and the statement about float results. -/

namespace Sys2Proof.Machine

open Sys2Proof.Rules

/-! ## The rounding of a finite value (R223) -/

/-- The exponent that a value is rounded at: its own, or the least. -/
def FloatFmt.expOf (t : FloatFmt) (x : Rat') : Int := max x.log2 t.emin

/-- The rounded coefficient, in units of the last place. -/
def FloatFmt.coef (t : FloatFmt) (rnd : Nat) (x : Rat') : Int := roundInt (x.scale (t.m - t.expOf x)) rnd

/-- The value that the rounding leaves. -/
def FloatFmt.rounded (t : FloatFmt) (rnd : Nat) (x : Rat') : Rat' := (Rat'.ofInt (t.coef rnd x)).scale (t.expOf x - t.m)

/-- Whether the value rounded without a least exponent is below the least power of two (R225). -/
def FloatFmt.tiny (t : FloatFmt) (rnd : Nat) (x : Rat') : Bool :=
  ((Rat'.ofInt (roundInt (x.scale (t.m - x.log2)) rnd)).scale (x.log2 - t.m)).abs.lt (Rat'.pow2 t.emin)

/-- The bits below the sign that the rounding makes. -/
def FloatFmt.bitsBelow (t : FloatFmt) (rnd : Nat) (x : Rat') : Nat := (t.expOf x - t.emin).toNat * 2 ^ t.m + (t.coef rnd x).natAbs

/-- The flags of the rounding (R225). -/
def FloatFmt.inexact (t : FloatFmt) (rnd : Nat) (x : Rat') : FlagSet :=
  (if (t.rounded rnd x).eqv x then 0 else fNX) ||| (if t.tiny rnd x && !(t.rounded rnd x).eqv x then fUF else 0)

theorem FloatFmt.encode_fin (t : FloatFmt) (rnd : Nat) (sat ftz : Bool) (x : Rat') :
    t.encode rnd sat ftz (.fin x)
      = if t.tiny rnd x && ftz then (t.signed x.isNeg 0, fUF ||| fNX)
        else if t.maxVal.lt (t.rounded rnd x).abs then (t.overflow x.isNeg rnd sat, t.inexact rnd x ||| fOF ||| fNX)
        else (t.signed x.isNeg (t.bitsBelow rnd x), t.inexact rnd x) := rfl

section rounding
variable {t : FloatFmt} (ht : t.Regular) {x : Rat'} (hx : 0 < x.den) (h0 : x.num ≠ 0) (rnd : Nat)

theorem FloatFmt.expOf_eq (t : FloatFmt) (x : Rat') : t.expOf x = t.emin + (t.expOf x - t.emin).toNat := by
  have : t.emin ≤ t.expOf x := le_max_right ..
  omega

/-- A scaled value and the bounds of its logarithm. -/
theorem abs_val_scale (a : Rat') (k : Int) : |(a.scale k).val| = |a.val| * 2 ^ k := by
  rw [Rat'.val_scale, abs_mul, abs_of_pos (show (0 : ℚ) < 2 ^ k by positivity)]

theorem two_zpow_natCast_add (k : Nat) (e : Int) : ((2 ^ k : Nat) : ℚ) * 2 ^ e = 2 ^ (k + e) := by
  push_cast
  rw [← zpow_natCast, ← zpow_add₀ two_ne_zero]

include hx h0 in
/-- In units of the last place of its own exponent or a greater one, a value is below twice the fraction's size. -/
theorem natAbs_roundInt_scale_le {e : Int} (m : Nat) (h : x.log2 ≤ e) : (roundInt (x.scale (m - e)) rnd).natAbs ≤ 2 ^ (m + 1) := by
  refine natAbs_roundInt_le (Rat'.den_scale_pos hx _) rnd ?_
  rw [abs_val_scale]
  calc |x.val| * 2 ^ ((m : Int) - e) ≤ 2 ^ (x.log2 + 1) * 2 ^ ((m : Int) - e) := by
        gcongr
        exact (Rat'.log2_bounds hx h0).2.le
    _ = 2 ^ (x.log2 + 1 + (m - e)) := (zpow_add₀ two_ne_zero ..).symm
    _ ≤ 2 ^ ((m + 1 : Nat) : Int) := zpow_two_le_iff.mpr (by push_cast; omega)
    _ = _ := by rw [zpow_natCast]; push_cast; rfl

include hx h0 in
theorem two_pow_le_natAbs_roundInt_scale {e : Int} {m j : Nat} (h : (j : Int) ≤ x.log2 + (m - e)) :
    2 ^ j ≤ (roundInt (x.scale (m - e)) rnd).natAbs := by
  refine le_natAbs_roundInt (Rat'.den_scale_pos hx _) rnd ?_
  rw [abs_val_scale]
  calc ((2 ^ j : Nat) : ℚ) = 2 ^ (j : Int) := by rw [zpow_natCast]; push_cast; rfl
    _ ≤ 2 ^ (x.log2 + (m - e)) := zpow_two_le_iff.mpr h
    _ = 2 ^ x.log2 * 2 ^ ((m : Int) - e) := zpow_add₀ two_ne_zero ..
    _ ≤ _ := by
        gcongr
        exact (Rat'.log2_bounds hx h0).1

include hx h0 in
theorem FloatFmt.coef_le : (t.coef rnd x).natAbs ≤ 2 ^ (t.m + 1) := natAbs_roundInt_scale_le hx h0 rnd t.m (le_max_left ..)

include hx h0 in
theorem FloatFmt.le_coef (h : t.emin ≤ x.log2) : 2 ^ t.m ≤ (t.coef rnd x).natAbs := by
  have hexp : t.expOf x = x.log2 := max_eq_left h
  exact two_pow_le_natAbs_roundInt_scale hx h0 rnd (by omega)

theorem FloatFmt.den_rounded : 0 < (t.rounded rnd x).den := Rat'.den_scale_pos Nat.one_pos _

include hx h0 in
/-- The pattern that the rounding makes stands for the value that it leaves. -/
theorem FloatFmt.mag_bitsBelow : t.mag (t.bitsBelow rnd x) = |(t.rounded rnd x).val| := by
  have hk : (t.expOf x - t.emin).toNat = 0 ∨ 2 ^ t.m ≤ (t.coef rnd x).natAbs := by
    rcases le_or_gt t.emin x.log2 with h | h
    · exact .inr (FloatFmt.le_coef hx h0 rnd h)
    · have hexp : t.expOf x = t.emin := max_eq_right h.le
      exact .inl (by rw [hexp]; simp)
  rw [FloatFmt.bitsBelow, t.mag_parts (FloatFmt.coef_le hx h0 rnd) hk, FloatFmt.rounded, abs_val_scale, Rat'.val_ofInt, ← Int.cast_abs,
    Int.abs_eq_natAbs, Int.cast_natCast]
  congr 2
  have := t.expOf_eq x
  omega

/-! ## Overflow (R224) -/

include ht in
theorem FloatFmt.maxVal_spec : 0 < t.maxVal.den ∧ t.maxVal.val = t.mag t.maxPat := by
  have h0 : t.maxPat ≠ 0 := ((Nat.zero_le _).trans_lt (FloatFmt.two_pow_lt_maxPat ht)).ne'
  obtain ⟨q, hq, hden, hval⟩ := FloatFmt.decode_fin ht h0 le_rfl false
  have hmax : t.maxVal = q := by
    rw [FloatFmt.maxVal, show t.maxPat = t.signed false t.maxPat from rfl, hq]
  rw [hmax, hval]
  exact ⟨hden, by simp⟩

include ht hx h0 in
/-- A value is beyond the largest where its pattern is. -/
theorem FloatFmt.maxVal_lt_iff : t.maxVal.lt (t.rounded rnd x).abs = true ↔ t.maxPat < t.bitsBelow rnd x := by
  obtain ⟨hden, hval⟩ := FloatFmt.maxVal_spec ht
  rw [Rat'.lt_iff hden (by exact FloatFmt.den_rounded rnd), hval, Rat'.val_abs, ← FloatFmt.mag_bitsBelow hx h0, t.mag_strictMono.lt_iff_lt]

/-! ## Tiny results (R225) -/

include hx h0 in
/-- A value of the least power of two or more is not tiny. -/
theorem FloatFmt.log2_lt_of_tiny (h : t.tiny rnd x = true) : x.log2 < t.emin := by
  by_contra hge
  have hcoef := FloatFmt.le_coef hx h0 rnd (not_lt.mp hge)
  have hexp : t.expOf x = x.log2 := max_eq_left (not_lt.mp hge)
  rw [FloatFmt.coef, hexp] at hcoef
  rw [FloatFmt.tiny, Rat'.lt_iff (by exact Rat'.den_scale_pos Nat.one_pos _) (Rat'.den_pow2_pos _), Rat'.val_abs, abs_val_scale, Rat'.val_ofInt,
    ← Int.cast_abs, Int.abs_eq_natAbs, Int.cast_natCast, Rat'.val_pow2] at h
  refine absurd h (not_lt.mpr ?_)
  calc (2 : ℚ) ^ t.emin ≤ 2 ^ ((t.m : Int) + (x.log2 - t.m)) := zpow_two_le_iff.mpr (by omega)
    _ = ((2 ^ t.m : Nat) : ℚ) * 2 ^ (x.log2 - t.m) := (two_zpow_natCast_add ..).symm
    _ ≤ _ := by gcongr

include ht hx h0 in
theorem FloatFmt.bitsBelow_le_of_tiny (h : t.tiny rnd x = true) : t.bitsBelow rnd x ≤ t.maxPat := by
  have hexp : t.expOf x = t.emin := max_eq_right (FloatFmt.log2_lt_of_tiny hx h0 rnd h).le
  rw [FloatFmt.bitsBelow, hexp, sub_self]
  simpa using (FloatFmt.coef_le hx h0 rnd).trans (FloatFmt.two_pow_le_maxPat ht)

/-! ## The sign -/

include hx in
theorem Rat'.val_eq_sign_mul_abs : x.val = (if x.isNeg then -1 else 1) * |x.val| := by
  rcases lt_or_ge x.val 0 with h | h
  · rw [show x.isNeg = true by simpa [Rat'.isNeg] using (Rat'.val_neg_iff hx).mp h, abs_of_neg h]
    simp
  · rw [show x.isNeg = false by simpa [Rat'.isNeg] using mt (Rat'.val_neg_iff hx).mpr h.not_gt, abs_of_nonneg h]
    simp

include hx in
/-- The coefficient has the sign of the value, or is zero. -/
theorem FloatFmt.coef_eq : t.coef rnd x = (if x.isNeg then -1 else 1) * ((t.coef rnd x).natAbs : Int) := by
  have hneg : x.isNeg = decide (x.num < 0) := rfl
  rw [hneg]
  rcases roundInt_sign (Rat'.den_scale_pos hx (t.m - t.expOf x)) rnd with ⟨hn, hr, -⟩ | ⟨hn, hr, -⟩
  · rw [Rat'.num_scale_neg_iff] at hn
    simp only [hn, decide_true, if_true, FloatFmt.coef]
    omega
  · rw [← not_lt, Rat'.num_scale_neg_iff] at hn
    simp only [hn, decide_false, Bool.false_eq_true, if_false, FloatFmt.coef]
    omega

include hx in
theorem FloatFmt.val_rounded : (t.rounded rnd x).val = (if x.isNeg then -1 else 1) * |(t.rounded rnd x).val| := by
  rw [FloatFmt.rounded, abs_val_scale, Rat'.val_scale, Rat'.val_ofInt, ← Int.cast_abs, Int.abs_eq_natAbs, ← mul_assoc]
  conv_lhs => rw [FloatFmt.coef_eq hx rnd]
  cases x.isNeg <;> simp

/-! ## Exact values -/

section parts
variable {k n : Nat} (h : |x.val| = n * 2 ^ (t.emin - t.m + k))
include hx h

theorem FloatFmt.log2_of_parts (hn : n < 2 ^ (t.m + 1)) (hge : 2 ^ t.m ≤ n) : x.log2 = t.emin + k := by
  refine Rat'.log2_eq hx ?_ ?_
  · calc (2 : ℚ) ^ (t.emin + k) = ((2 ^ t.m : Nat) : ℚ) * 2 ^ (t.emin - t.m + k) := by rw [two_zpow_natCast_add]; congr 1; ring
      _ ≤ |x.val| := by rw [h]; gcongr
  · calc |x.val| < ((2 ^ (t.m + 1) : Nat) : ℚ) * 2 ^ (t.emin - t.m + k) := by rw [h]; gcongr
      _ = 2 ^ (t.emin + k + 1) := by rw [two_zpow_natCast_add]; congr 1; push_cast; ring

include h0 in
/-- A value is rounded at the exponent of the pattern that stands for it. -/
theorem FloatFmt.expOf_of_parts (hn : n < 2 ^ (t.m + 1)) (hk : k = 0 ∨ 2 ^ t.m ≤ n) : t.expOf x = t.emin + k := by
  rcases lt_or_ge n (2 ^ t.m) with hlt | hge
  · obtain rfl : k = 0 := by omega
    have hlog : x.log2 < t.emin := by
      refine zpow_two_lt_iff.mp ((Rat'.log2_bounds hx h0).1.trans_lt ?_)
      calc |x.val| < ((2 ^ t.m : Nat) : ℚ) * 2 ^ (t.emin - t.m + (0 : Nat)) := by rw [h]; gcongr
        _ = 2 ^ t.emin := by rw [two_zpow_natCast_add]; congr 1; push_cast; ring
    rw [FloatFmt.expOf, max_eq_right hlog.le]
    simp
  · rw [FloatFmt.expOf, FloatFmt.log2_of_parts hx h hn hge, max_eq_left (by omega)]

end parts

include hx in
/-- A value that is a whole number of units of the last place is its own rounding. -/
theorem FloatFmt.rounded_eqv_of_eq {n : Int} (h : x.val = n * 2 ^ (t.expOf x - t.m)) :
    t.coef rnd x = n ∧ (t.rounded rnd x).eqv x = true := by
  have hcoef : t.coef rnd x = n := by
    refine roundInt_of_eq (Rat'.den_scale_pos hx _) rnd ?_
    rw [Rat'.val_scale, h, mul_assoc, ← zpow_add₀ two_ne_zero]
    simp
  refine ⟨hcoef, (Rat'.eqv_iff (FloatFmt.den_rounded rnd) hx).mpr ?_⟩
  rw [FloatFmt.rounded, hcoef, Rat'.val_scale, Rat'.val_ofInt, h]

include ht hx in
/-- A value that a pattern stands for is encoded as that pattern, in every direction and without a flag. -/
theorem FloatFmt.encode_exact {p : Nat} (hp0 : p ≠ 0) (hp : p ≤ t.maxPat) (h : |x.val| = t.mag p) {ftz : Bool}
    (hftz : ftz = false ∨ 2 ^ t.m ≤ p) (sat : Bool) : t.encode rnd sat ftz (.fin x) = (t.signed x.isNeg p, 0) := by
  have hnum : x.num ≠ 0 := by
    intro hz
    rw [(Rat'.val_eq_zero_iff hx).mpr hz, abs_zero, ← t.mag_zero] at h
    exact hp0 (t.mag_strictMono.injective h).symm
  obtain ⟨k, n, rfl, hn, hk⟩ := t.exists_parts p
  rw [t.mag_parts hn.le hk] at h
  have hexp := FloatFmt.expOf_of_parts hx hnum h hn hk
  have hval : x.val = ((if x.isNeg then -n else n : Int) : ℚ) * 2 ^ (t.expOf x - t.m) := by
    rw [Rat'.val_eq_sign_mul_abs hx, h, hexp, show t.emin + k - t.m = t.emin - t.m + k by ring]
    split <;> simp
  obtain ⟨hcoef, heqv⟩ := FloatFmt.rounded_eqv_of_eq hx rnd hval
  have hbits : t.bitsBelow rnd x = k * 2 ^ t.m + n := by
    have habs : (t.coef rnd x).natAbs = n := by rw [hcoef]; split <;> simp
    rw [FloatFmt.bitsBelow, habs, hexp]
    simp
  have hover : t.maxVal.lt (t.rounded rnd x).abs = false := by
    rw [← Bool.not_eq_true, FloatFmt.maxVal_lt_iff ht hx hnum, hbits]
    omega
  have htiny : (t.tiny rnd x && ftz) = false := by
    rcases hftz with rfl | hge
    · simp
    · have hn' : 2 ^ t.m ≤ n := by
        rcases hk with rfl | hk
        · simpa using hge
        · exact hk
      have hlog := FloatFmt.log2_of_parts hx h hn hn'
      have : t.tiny rnd x ≠ true := fun htiny => by
        have := FloatFmt.log2_lt_of_tiny hx hnum rnd htiny
        omega
      simp [this]
  rw [FloatFmt.encode_fin, htiny, hover, hbits]
  simp [FloatFmt.inexact, heqv]

end rounding

/-! ## Patterns (R220, R223) -/

theorem FloatFmt.signed_eq (t : FloatFmt) (n : Bool) (p : Nat) : t.signed n p = (if n then 2 ^ (t.w - 1) else 0) + p := by
  cases n <;> simp [FloatFmt.signed, FloatFmt.signBit]

theorem FloatFmt.signed_isNeg (t : FloatFmt) (x : Rat') (p : Nat) : t.signed x.isNeg p = (if x.num < 0 then 2 ^ (t.w - 1) else 0) + p := by
  simp [FloatFmt.signed_eq, Rat'.isNeg]

theorem FloatFmt.encode_fin_of_tiny {t : FloatFmt} {rnd : Nat} {x : Rat'} (h : t.tiny rnd x = true) (sat : Bool) :
    t.encode rnd sat true (.fin x) = (t.signed x.isNeg 0, fUF ||| fNX) := by
  rw [FloatFmt.encode_fin, h]
  rfl

theorem FloatFmt.encode_fin_of_le {t : FloatFmt} {rnd : Nat} {x : Rat'} {ftz : Bool} (h : ¬(t.tiny rnd x = true ∧ ftz = true))
    (hle : t.maxVal.lt (t.rounded rnd x).abs = false) (sat : Bool) :
    t.encode rnd sat ftz (.fin x) = (t.signed x.isNeg (t.bitsBelow rnd x), t.inexact rnd x) := by
  rw [FloatFmt.encode_fin, hle, if_neg (by simpa using h)]
  rfl

section overflow
variable {t : FloatFmt} (ht : t.Regular) {x : Rat'} (hx : 0 < x.den) (h0 : x.num ≠ 0) {rnd : Nat}
  (hlt : t.maxVal.lt (t.rounded rnd x).abs = true)
include ht hx h0 hlt

theorem FloatFmt.not_tiny_of_overflow : t.tiny rnd x = false := by
  rw [← Bool.not_eq_true]
  intro h
  have hle := FloatFmt.bitsBelow_le_of_tiny ht hx h0 rnd h
  have hover := (FloatFmt.maxVal_lt_iff ht hx h0 rnd).mp hlt
  omega

theorem FloatFmt.encode_fin_of_overflow (sat ftz : Bool) : t.encode rnd sat ftz (.fin x) = (t.overflow x.isNeg rnd sat, fOF ||| fNX) := by
  rw [FloatFmt.encode_fin, FloatFmt.not_tiny_of_overflow ht hx h0 hlt, hlt, FloatFmt.inexact, FloatFmt.not_tiny_of_overflow ht hx h0 hlt]
  cases (t.rounded rnd x).eqv x <;> rfl

end overflow

/-- The largest number or an infinity, by the direction (R224). -/
theorem FloatFmt.overflow_eq (t : FloatFmt) (neg : Bool) {rnd : Nat} (h : rnd ≤ 4) (sat : Bool) :
    t.overflow neg rnd sat = if sat = true ∨ rnd = 1 ∨ (rnd = 2 ∧ neg = true) ∨ (rnd = 3 ∧ neg = false)
      then t.signed neg t.maxPat else if t.e4 then t.nanC else t.signed neg t.infPat := by
  interval_cases rnd <;> simp [FloatFmt.overflow]

section patterns
variable {t : FloatFmt} (ht : t.Regular)
include ht

theorem FloatFmt.exists_signed {b : Nat} (h : b < 2 ^ t.w) : ∃ neg p, p < t.signBit ∧ b = t.signed neg p := by
  have hw : 2 ^ t.w = t.signBit + t.signBit := by
    have := ht.exp_bits
    rw [FloatFmt.signBit, ← mul_two, ← pow_succ]
    congr 1
    omega
  rcases lt_or_ge b t.signBit with hlt | hge
  · exact ⟨false, b, hlt, rfl⟩
  · exact ⟨true, b - t.signBit, by omega, by simp [FloatFmt.signed]; omega⟩

/-- Beyond the largest number there is an infinity, but not in fp8e4, and NaNs. -/
theorem FloatFmt.decode_beyond {p : Nat} (hp : p < t.signBit) (hmax : t.maxPat < p) {neg : Bool}
    (hn : (t.decode false (t.signed neg p)).isNan = false) :
    t.e4 = false ∧ p = t.infPat ∧ t.decode false (t.signed neg p) = .inf neg := by
  obtain ⟨h1, h2, h3⟩ := FloatFmt.fields ht hp neg
  have hpos : 0 < 2 ^ t.m := by positivity
  cases h4 : t.e4 with
  | true =>
    obtain rfl := ht.e4_iff h4
    have hp' : p = 127 := by
      have : p < 128 := hp
      have : 126 < p := hmax
      omega
    rw [hp'] at hn
    cases neg <;> simp [show fp8e4.decode false (fp8e4.signed false 127) = .nan false by decide +kernel,
      show fp8e4.decode false (fp8e4.signed true 127) = .nan false by decide +kernel, Val.isNan] at hn
  | false =>
    have hinf : t.infPat ≤ p := by
      rw [FloatFmt.maxPat, h4] at hmax
      simp only [Bool.false_eq_true, if_false] at hmax
      omega
    have hE : p / 2 ^ t.m = t.eTop := by
      refine le_antisymm (Nat.lt_succ_iff.mp ((Nat.div_lt_iff_lt_mul hpos).mpr ?_)) ((Nat.le_div_iff_mul_le hpos).mpr hinf)
      exact FloatFmt.signBit_eq ht ▸ hp
    have htop : t.eTop ≠ 0 := by have := FloatFmt.three_le_eTop ht; omega
    have hdec : t.decode false (t.signed neg p) = if p % 2 ^ t.m = 0 then .inf neg else .nan (p % 2 ^ t.m < 2 ^ (t.m - 1)) := by
      simp only [FloatFmt.decode, h1, h2, h3, hE, h4]
      simp [htop]
    by_cases hf : p % 2 ^ t.m = 0
    · refine ⟨rfl, ?_, by rw [hdec, if_pos hf]⟩
      have hdiv := Nat.div_add_mod' p (2 ^ t.m)
      rw [hE, hf] at hdiv
      exact hdiv.symm
    · rw [hdec, if_neg hf] at hn
      cases hn

/-- A pattern that is no NaN is the encoding of its value. -/
theorem FloatFmt.encode_decode {b : Nat} (hb : b < 2 ^ t.w) (hn : (t.decode false b).isNan = false) (rnd : Nat) (sat : Bool) :
    t.encode rnd sat false (t.decode false b) = (b, 0) := by
  obtain ⟨neg, p, hp, rfl⟩ := FloatFmt.exists_signed ht hb
  rcases Nat.eq_zero_or_pos p with rfl | hpos
  · rw [FloatFmt.decode_zero ht]
    rfl
  · rcases le_or_gt p t.maxPat with hle | hgt
    · obtain ⟨q, hq, hden, hval⟩ := FloatFmt.decode_fin ht hpos.ne' hle neg
      have hmag : 0 < t.mag p := t.mag_zero ▸ t.mag_strictMono hpos
      have habs : |q.val| = t.mag p := by
        rw [hval]
        cases neg <;> simp [abs_of_pos hmag]
      have hneg : q.isNeg = neg := by
        rw [Rat'.isNeg, Bool.eq_iff_iff, decide_eq_true_eq, ← Rat'.val_neg_iff hden, hval]
        cases neg <;> simp [hmag, hmag.le]
      rw [hq, FloatFmt.encode_exact ht hden rnd hpos.ne' hle habs (.inl rfl), hneg]
    · obtain ⟨h4, rfl, hdec⟩ := FloatFmt.decode_beyond ht hp hgt hn
      rw [hdec, FloatFmt.encode, h4]
      rfl

section fin
variable {x : Rat'} (hx : 0 < x.den) (h0 : x.num ≠ 0) (rnd : Nat)
include hx h0

omit ht in
theorem FloatFmt.bitsBelow_of_coef_eq_zero (h : t.coef rnd x = 0) : t.bitsBelow rnd x = 0 := by
  have hlt : x.log2 < t.emin := by
    by_contra hge
    have := FloatFmt.le_coef hx h0 rnd (not_lt.mp hge)
    have : 0 < 2 ^ t.m := by positivity
    omega
  rw [FloatFmt.bitsBelow, FloatFmt.expOf, max_eq_right hlt.le, h]
  simp

/-- The pattern of a rounding decodes to the value that the rounding leaves. -/
theorem FloatFmt.decode_bitsBelow (hle : t.maxVal.lt (t.rounded rnd x).abs = false) :
    let v := t.decode false (t.signed x.isNeg (t.bitsBelow rnd x))
    (t.coef rnd x = 0 → v = .zero x.isNeg) ∧ (t.coef rnd x ≠ 0 → ∃ q, v = .fin q ∧ q.eqv (t.rounded rnd x) = true) := by
  refine ⟨fun h => ?_, fun h => ?_⟩
  · rw [FloatFmt.bitsBelow_of_coef_eq_zero hx h0 rnd h, FloatFmt.decode_zero ht]
  · have hpat : t.bitsBelow rnd x ≤ t.maxPat := by
      rw [← not_lt, ← FloatFmt.maxVal_lt_iff ht hx h0, hle]
      decide
    have hne : t.bitsBelow rnd x ≠ 0 := by
      unfold FloatFmt.bitsBelow
      omega
    obtain ⟨q, hq, hden, hval⟩ := FloatFmt.decode_fin ht hne hpat x.isNeg
    refine ⟨q, hq, (Rat'.eqv_iff hden (FloatFmt.den_rounded rnd)).mpr ?_⟩
    rw [hval, FloatFmt.mag_bitsBelow hx h0, ← FloatFmt.val_rounded hx]

end fin

end patterns

/-- A conversion between float formats encodes the value, and raises IV for a signalling NaN (R297). -/
theorem convert_float_float {m : Mode} {src : Nat} {s t : FloatFmt} (hs : EType.ofCode src = .float s) (h : m.etype.noSl = .float t) (x : Nat) :
    convert m src x = encodeWith t m (s.decode m.ftz (x % 2 ^ s.w), sigIV [s.decode m.ftz (x % 2 ^ s.w)]) := by
  simp only [convert, h, hs]

theorem sigIV_of_not_nan {v : Val} (h : v.isNan = false) : sigIV [v] = 0 := by
  cases v with
  | nan => cases h
  | inf | zero | fin => rfl

/-- Settles O24: the pattern that the rounding makes stands for the value that it leaves, and the magnitudes of patterns lie as the patterns do,
so that overflow is a comparison of patterns. -/
theorem floatResultsAreRoundedOnce : Obligations.FloatResultsAreRoundedOnce := by
  unfold Obligations.FloatResultsAreRoundedOnce
  refine ⟨fun a rnd ha => ?_, fun t b rnd sat ht hb _ hn => FloatFmt.encode_decode (regular_of_mem ht) hb hn rnd sat,
    fun t x rnd sat ftz ht hx h0 hrnd => ?_, fun m src x s t hs h => ⟨fun hn => ?_, fun g hg => ?_⟩⟩
  · refine ⟨?_, ?_, ?_, ?_, ?_⟩ <;> rintro rfl
    · exact roundInt_nearest_even ha
    · exact roundInt_toward_zero ha
    · exact roundInt_up ha
    · exact roundInt_down ha
    · exact roundInt_nearest_away ha
  · have hr := regular_of_mem ht
    obtain ⟨hlow, hhigh⟩ := Rat'.log2_bounds hx h0
    refine ⟨?_, ?_, fun htiny hftz => ?_, fun hnot hle => ?_, fun hlt => ?_⟩
    · rwa [Rat'.le_iff (Rat'.den_pow2_pos _) (by exact hx), Rat'.val_pow2, Rat'.val_abs]
    · rwa [Rat'.lt_iff (by exact hx) (Rat'.den_pow2_pos _), Rat'.val_pow2, Rat'.val_abs]
    · rw [hftz, FloatFmt.encode_fin_of_tiny htiny]
      simp only [FloatFmt.signed_isNeg, Nat.add_zero]
    · rw [FloatFmt.encode_fin_of_le hnot hle]
      obtain ⟨hzero, hfin⟩ := FloatFmt.decode_bitsBelow hr hx h0 rnd hle
      refine ⟨hzero, hfin, ?_⟩
      change FloatFmt.inexact t rnd x = if (t.rounded rnd x).eqv x = true then 0 else fNX ||| if t.tiny rnd x = true then fUF else 0
      unfold FloatFmt.inexact
      cases (t.rounded rnd x).eqv x <;> simp
    · rw [FloatFmt.encode_fin_of_overflow hr hx h0 hlt, FloatFmt.overflow_eq t _ hrnd]
      have hpos : x.isNeg = false ↔ 0 < x.num := by simp [Rat'.isNeg]; omega
      have hneg : x.isNeg = true ↔ x.num < 0 := by simp [Rat'.isNeg]
      exact ⟨rfl, by simp only [hpos, hneg, FloatFmt.signed_isNeg]⟩
  · rw [convert_float_float hs h, sigIV_of_not_nan hn]
    simp [encodeWith]
  · rw [convert_float_float hs h, hg]
    cases g <;> simp [encodeWith, FloatFmt.encode, sigIV]

end Sys2Proof.Machine
end

section
/-! PROOFS. NaNs, infinities and divisions by zero (09 R221, 12 R287, R289, R291, R305): what they make of a result, and of a sum over members. -/

namespace Sys2Proof.Machine

open Sys2Proof.Rules

/-! ## NaN operands (R221) -/

theorem getLsbD_sigIV (vs : List Val) : (sigIV vs).getLsbD 0 = vs.any (· == .nan true) := by
  unfold sigIV
  cases vs.any (· == .nan true) <;> rfl

theorem sigIV_cases (vs : List Val) : sigIV vs = 0 ∨ sigIV vs = fIV := by
  unfold sigIV
  split <;> simp

theorem encodeWith_nan (t : FloatFmt) (m : Mode) (g : Bool) (f : FlagSet) : encodeWith t m (.nan g, f) = (t.nanC, f) := by
  simp [encodeWith, FloatFmt.encode]

theorem Val.add_of_nan {a b : Val} (h : a.isNan = true ∨ b.isNan = true) (rnd : Nat) : a.add b rnd = (.nan false, sigIV [a, b]) := by
  cases a <;> cases b <;> simp_all [Val.add, Val.isNan]

theorem Val.mul_of_nan {a b : Val} (h : a.isNan = true ∨ b.isNan = true) : a.mul b = (.nan false, sigIV [a, b]) := by
  cases a <;> cases b <;> simp_all [Val.mul, Val.isNan]

theorem Val.div_of_nan {a b : Val} (h : a.isNan = true ∨ b.isNan = true) : a.div b = (.nan false, sigIV [a, b]) := by
  cases a <;> cases b <;> simp_all [Val.div, Val.isNan]

theorem Val.mul_flags (a b : Val) : (a.mul b).2 = 0 ∨ (a.mul b).2 = fIV := by
  by_cases h : a.isNan = true ∨ b.isNan = true
  · rw [Val.mul_of_nan h]
    exact sigIV_cases _
  · cases a <;> cases b <;> simp_all [Val.mul, Val.isNan]

/-- A product that is invalid makes the sum invalid, whatever the addend. -/
theorem Val.fma_of_invalid {a b : Val} (h : (a.mul b).2 = fIV) (n : Bool) (d : Val) (rnd : Nat) :
    Val.fma n a b d rnd = (.nan false, fIV ||| sigIV [d]) := by
  have hne : fIV ≠ 0#8 := by decide
  simp [Val.fma, h, hne]

theorem Val.fma_of_valid {a b : Val} (h : (a.mul b).2 = 0) (n : Bool) (d : Val) (rnd : Nat) :
    Val.fma n a b d rnd = ((Val.add (if n then (a.mul b).1.neg else (a.mul b).1) d rnd).1,
      (Val.add (if n then (a.mul b).1.neg else (a.mul b).1) d rnd).2 ||| sigIV [a, b, d]) := by
  simp [Val.fma, h]

theorem Val.fma_of_nan {a b d : Val} (h : a.isNan = true ∨ b.isNan = true ∨ d.isNan = true) (n : Bool) (rnd : Nat) :
    (Val.fma n a b d rnd).1 = .nan false
      ∧ (a = .nan true ∨ b = .nan true ∨ d = .nan true → (Val.fma n a b d rnd).2.getLsbD 0 = true) := by
  rcases Val.mul_flags a b with hf | hf
  · rw [Val.fma_of_valid hf]
    have hnan : (if n then (a.mul b).1.neg else (a.mul b).1).isNan = true ∨ d.isNan = true := by
      by_cases hab : a.isNan = true ∨ b.isNan = true
      · left
        rw [Val.mul_of_nan hab]
        cases n <;> rfl
      · exact .inr (by tauto)
    refine ⟨by rw [Val.add_of_nan hnan], fun hs => ?_⟩
    rw [BitVec.getLsbD_or, getLsbD_sigIV]
    rcases hs with rfl | rfl | rfl <;> simp
  · rw [Val.fma_of_invalid hf]
    refine ⟨rfl, fun _ => ?_⟩
    rw [BitVec.getLsbD_or]
    rfl

section results
variable {t : FloatFmt} {m : Mode} {a b d : Nat}

/-- The canonical NaN with IV, among other flags. -/
def Invalid (t : FloatFmt) (r : Nat × FlagSet) : Prop := r.1 = t.nanC ∧ r.2.getLsbD 0 = true

theorem invalid_encodeWith {f : FlagSet} (h : f.getLsbD 0 = true) (g : Bool) : Invalid t (encodeWith t m (.nan g, f)) := by
  rw [encodeWith_nan]
  exact ⟨rfl, h⟩

/-- An operation of two operands with a NaN among them. -/
theorem floatArith_of_nan {op : ArithOp} (hop : op ∈ [ArithOp.add, .sub, .mul, .div])
    (h : (t.decode m.ftz a).isNan = true ∨ (t.decode m.ftz b).isNan = true) :
    floatArith op t m a b d = (t.nanC, sigIV [t.decode m.ftz a, t.decode m.ftz b]) := by
  simp only [List.mem_cons, List.not_mem_nil, or_false] at hop
  rcases hop with rfl | rfl | rfl | rfl <;> simp only [floatArith]
  · rw [Val.add_of_nan h, encodeWith_nan]
  · by_cases hb : (t.decode m.ftz b).isNan = true
    · rw [if_pos hb, encodeWith_nan]
    · have ha := h.resolve_right hb
      have hneg : sigIV [t.decode m.ftz a, (t.decode m.ftz b).neg] = sigIV [t.decode m.ftz a, t.decode m.ftz b] := by
        cases hv : t.decode m.ftz b with
        | nan => exact absurd (by rw [hv]; rfl) hb
        | inf | zero | fin => rfl
      rw [if_neg hb, Val.add_of_nan (.inl ha), encodeWith_nan, hneg]
  · rw [Val.mul_of_nan h, encodeWith_nan]
  · rw [Val.div_of_nan h, encodeWith_nan]

theorem floatArith_nan_invalid {op : ArithOp} (hop : op ∈ [ArithOp.add, .sub, .mul, .div])
    (h : (t.decode m.ftz a).isNan = true ∨ (t.decode m.ftz b).isNan = true) :
    (floatArith op t m a b d).1 = t.nanC
      ∧ (t.decode m.ftz a = .nan true ∨ t.decode m.ftz b = .nan true → Invalid t (floatArith op t m a b d)) := by
  rw [floatArith_of_nan hop h]
  refine ⟨rfl, fun hs => ⟨rfl, ?_⟩⟩
  rw [getLsbD_sigIV]
  rcases hs with h | h <;> simp [h]

theorem floatArith_fma (n : Bool) : floatArith (if n then .fnma else .fma) t m a b d
    = encodeWith t m (Val.fma n (t.decode m.ftz a) (t.decode m.ftz b) (t.decode m.ftz d) m.rnd) := by
  cases n <;> rfl

theorem floatArith_fma_of_nan (h : (t.decode m.ftz a).isNan = true ∨ (t.decode m.ftz b).isNan = true ∨ (t.decode m.ftz d).isNan = true)
    (n : Bool) : (floatArith (if n then .fnma else .fma) t m a b d).1 = t.nanC
      ∧ (t.decode m.ftz a = .nan true ∨ t.decode m.ftz b = .nan true ∨ t.decode m.ftz d = .nan true →
        Invalid t (floatArith (if n then .fnma else .fma) t m a b d)) := by
  obtain ⟨hnan, hiv⟩ := Val.fma_of_nan h n m.rnd
  rw [floatArith_fma, ← Prod.eta (Val.fma ..), hnan, encodeWith_nan]
  exact ⟨rfl, fun hs => ⟨rfl, hiv hs⟩⟩

theorem mem_fma {op : ArithOp} (hop : op ∈ [ArithOp.fma, .fnma]) : ∃ n : Bool, op = if n then .fnma else .fma := by
  simp only [List.mem_cons, List.not_mem_nil, or_false] at hop
  rcases hop with rfl | rfl
  · exact ⟨false, rfl⟩
  · exact ⟨true, rfl⟩

/-! ## Invalid operations and division by zero (R221, R289, R291) -/

/-- Infinity times zero, alone and with an addend. -/
theorem floatArith_inf_zero {n e : Bool} (h : (t.decode m.ftz a = .inf n ∧ t.decode m.ftz b = .zero e)
      ∨ (t.decode m.ftz a = .zero n ∧ t.decode m.ftz b = .inf e)) :
    Invalid t (floatArith .mul t m a b d) ∧ ∀ k : Bool, Invalid t (floatArith (if k then .fnma else .fma) t m a b d) := by
  have hmul : (t.decode m.ftz a).mul (t.decode m.ftz b) = (.nan false, fIV) := by
    rcases h with ⟨ha, hb⟩ | ⟨ha, hb⟩ <;> rw [ha, hb] <;> rfl
  refine ⟨?_, fun k => ?_⟩
  · rw [floatArith, hmul]
    exact invalid_encodeWith rfl _
  · rw [floatArith_fma, Val.fma_of_invalid (by rw [hmul])]
    exact invalid_encodeWith (by rw [BitVec.getLsbD_or]; rfl) _

/-- Infinities that cancel. -/
theorem floatArith_add_invalid {n : Bool} (ha : t.decode m.ftz a = .inf n) (hb : t.decode m.ftz b = .inf !n) :
    Invalid t (floatArith .add t m a b d) := by
  have hadd : (t.decode m.ftz a).add (t.decode m.ftz b) m.rnd = (.nan false, fIV) := by
    rw [ha, hb]
    cases n <;> rfl
  simp only [floatArith, hadd]
  exact invalid_encodeWith rfl _

theorem floatArith_sub_invalid {n : Bool} (ha : t.decode m.ftz a = .inf n) (hb : t.decode m.ftz b = .inf n) :
    Invalid t (floatArith .sub t m a b d) := by
  have hadd : (t.decode m.ftz a).add (t.decode m.ftz b).neg m.rnd = (.nan false, fIV) := by
    rw [ha, hb]
    cases n <;> rfl
  have hnan : (t.decode m.ftz b).isNan ≠ true := by simp [hb, Val.isNan]
  simp only [floatArith, if_neg hnan, hadd]
  exact invalid_encodeWith rfl _

theorem floatArith_div_invalid {n e : Bool} (h : (t.decode m.ftz a = .inf n ∧ t.decode m.ftz b = .inf e)
      ∨ (t.decode m.ftz a = .zero n ∧ t.decode m.ftz b = .zero e)) : Invalid t (floatArith .div t m a b d) := by
  have hdiv : (t.decode m.ftz a).div (t.decode m.ftz b) = (.nan false, fIV) := by
    rcases h with ⟨ha, hb⟩ | ⟨ha, hb⟩ <;> rw [ha, hb] <;> rfl
  rw [floatArith, hdiv]
  exact invalid_encodeWith rfl _

theorem encode_inf (h : t.e4 = false) (rnd : Nat) (sat ftz n : Bool) : t.encode rnd sat ftz (.inf n) = (t.signed n t.infPat, 0) := by
  simp [FloatFmt.encode, h]

theorem floatArith_div_zero {q : Rat'} {e : Bool} (ha : t.decode m.ftz a = .fin q) (hb : t.decode m.ftz b = .zero e) :
    (floatArith .div t m a b d).2.getLsbD 1 = true ∧
      (t.e4 = false → (floatArith .div t m a b d).1 = (if xor q.isNeg e then 2 ^ (t.w - 1) else 0) + t.infPat) := by
  have hdiv : floatArith .div t m a b d = encodeWith t m (.inf (xor q.isNeg e), fDZ) := by
    simp [floatArith, ha, hb, Val.div, Val.sign, bne]
  rw [hdiv, encodeWith]
  refine ⟨?_, fun h4 => ?_⟩
  · rw [BitVec.getLsbD_or]
    simp [fDZ]
  · rw [encode_inf h4, FloatFmt.signed_eq]

end results

/-! ## Sums over members (R305) -/

/-- fp8e4 has no infinities. -/
theorem FloatFmt.e4_of_decode_inf {t : FloatFmt} {ftz n : Bool} {b : Nat} (h : t.decode ftz b = .inf n) : t.e4 = false := by
  cases h4 : t.e4 with
  | false => rfl
  | true =>
    simp only [FloatFmt.decode, h4, Bool.not_true, Bool.false_or, if_true] at h
    split_ifs at h

/-- A value among the contributions of a sum. -/
theorem any_decode {t : FloatFmt} {m : Mode} {xs : List (Nat × Bool)} (p : Val → Bool) :
    (xs.map fun x => t.decode m.ftz x.1).any p = true ↔ ∃ x ∈ xs, p (t.decode m.ftz x.1) = true := by
  simp [List.any_map]

/-- A running sum with one more value: numbers add up, zeros change nothing. -/
def addVal (acc : Rat') : Val → Rat'
  | .fin q => acc.add q
  | _ => acc

theorem sumVals_eq (rnd : Nat) (vs : List Val) : sumVals rnd vs =
    if vs.any Val.isNan || (vs.any (· == .inf false) && vs.any (· == .inf true)) then (.nan false, fIV)
    else if vs.any (· == .inf false) then (.inf false, 0)
    else if vs.any (· == .inf true) then (.inf true, 0)
    else if (vs.foldl addVal ⟨0, 1⟩).isZero then (.zero (vs.all (· == .zero true) || rnd == 3), 0)
    else (.fin (vs.foldl addVal ⟨0, 1⟩), 0) := rfl

theorem foldl_addVal_zeros {vs : List Val} (h : ∀ v ∈ vs, v = .zero true) (q : Rat') : vs.foldl addVal q = q := by
  induction vs with
  | nil => rfl
  | cons v vs ih =>
    rw [List.foldl_cons, h v List.mem_cons_self]
    exact ih fun w hw => h w (List.mem_cons_of_mem _ hw)

theorem sumVals_negative_zeros {vs : List Val} (h : ∀ v ∈ vs, v = .zero true) (rnd : Nat) : sumVals rnd vs = (.zero true, 0) := by
  have hno : ∀ p : Val → Bool, p (.zero true) = false → vs.any p = false := by
    intro p hp
    rw [List.any_eq_false]
    intro v hv
    rw [h v hv, hp]
    decide
  have hall : vs.all (· == .zero true) = true := List.all_eq_true.mpr fun v hv => by rw [h v hv]; rfl
  rw [sumVals_eq, foldl_addVal_zeros h, hall, hno Val.isNan rfl, hno (· == .inf false) rfl, hno (· == .inf true) rfl]
  rfl

section sums
variable {t : FloatFmt} {m : Mode} {xs : List (Nat × Bool)} (h : m.etype = .float t) (hx : xs ≠ [])
include h hx

theorem contributed_add_float : contributed .add m xs = encodeWith t m (sumVals m.rnd (xs.map fun x => t.decode m.ftz x.1)) := by
  simp [contributed, h, hx, Function.comp_def]

/-- A sum with a NaN, or with infinities of both signs. -/
theorem contributed_add_nan (hn : (∃ x ∈ xs, (t.decode m.ftz x.1).isNan = true)
      ∨ ((∃ x ∈ xs, (t.decode m.ftz x.1 == .inf false) = true) ∧ ∃ x ∈ xs, (t.decode m.ftz x.1 == .inf true) = true)) :
    contributed .add m xs = (t.nanC, fIV) := by
  have hany : ((xs.map fun x => t.decode m.ftz x.1).any Val.isNan || ((xs.map fun x => t.decode m.ftz x.1).any (· == .inf false)
      && (xs.map fun x => t.decode m.ftz x.1).any (· == .inf true))) = true := by
    rw [Bool.or_eq_true, Bool.and_eq_true, any_decode, any_decode, any_decode]
    exact hn
  rw [contributed_add_float h hx, sumVals_eq, if_pos hany, encodeWith_nan]

/-- A sum with infinities of one sign. -/
theorem contributed_add_inf {n : Bool} (hn : ¬∃ x ∈ xs, (t.decode m.ftz x.1).isNan = true)
    (hi : ∃ x ∈ xs, (t.decode m.ftz x.1 == .inf n) = true) (ho : ¬∃ x ∈ xs, (t.decode m.ftz x.1 == .inf !n) = true) :
    contributed .add m xs = (t.signed n t.infPat, 0) := by
  have ⟨x, _, hx'⟩ := hi
  have h4 := FloatFmt.e4_of_decode_inf (beq_iff_eq.mp hx')
  rw [← any_decode, Bool.not_eq_true] at hn
  rw [← any_decode (· == .inf n)] at hi
  rw [← any_decode (· == .inf !n), Bool.not_eq_true] at ho
  have hsum : sumVals m.rnd (xs.map fun x => t.decode m.ftz x.1) = (.inf n, 0) := by
    rw [sumVals_eq, hn]
    cases n with
    | true => rw [show (!true) = false from rfl] at ho; rw [hi, ho]; rfl
    | false => rw [show (!false) = true from rfl] at ho; rw [hi, ho]; rfl
  simp [contributed_add_float h hx, hsum, encodeWith, encode_inf h4]

/-- A sum of negative zeros. -/
theorem contributed_add_negative_zeros (hz : ∀ x ∈ xs, t.decode m.ftz x.1 = .zero true) : contributed .add m xs = (2 ^ (t.w - 1), 0) := by
  have hall : ∀ v ∈ xs.map fun x => t.decode m.ftz x.1, v = .zero true := by
    intro v hv
    obtain ⟨x, hx', rfl⟩ := List.mem_map.mp hv
    exact hz x hx'
  rw [contributed_add_float h hx, sumVals_negative_zeros hall]
  rfl

end sums

end Sys2Proof.Machine
end

section
/-! PROOFS. VSFU (12 R300): its special operands, its exact cases, and a reciprocal that lies next to the exact one; and the statement about
exceptional float results. -/

namespace Sys2Proof.Machine

open Sys2Proof.Rules

/-! ## Powers of two -/

theorem Rat'.val_div (a : Rat') {b : Rat'} (h : b.num ≠ 0) : (a.div b).val = a.val / b.val := by
  have hb : (b.num : ℚ) ≠ 0 := by exact_mod_cast h
  unfold Rat'.div Rat'.val
  rcases lt_or_gt_of_ne h with hlt | hgt
  · have habs : ((b.num.natAbs : Nat) : ℚ) = -b.num := by
      rw [Nat.cast_natAbs, abs_of_neg hlt]
      push_cast
      rfl
    rw [if_pos hlt]
    push_cast
    rw [habs, mul_neg, neg_div_neg_eq, div_div_div_eq]
  · have habs : ((b.num.natAbs : Nat) : ℚ) = b.num := by rw [Nat.cast_natAbs, abs_of_pos hgt]
    rw [if_neg hgt.not_gt]
    push_cast
    rw [habs, div_div_div_eq]

theorem Rat'.den_div_pos {a b : Rat'} (ha : 0 < a.den) (h : b.num ≠ 0) : 0 < (a.div b).den :=
  Nat.mul_pos ha (Int.natAbs_pos.mpr h)

theorem Rat'.num_pow2_pos (k : Int) : 0 < (Rat'.pow2 k).num := by
  unfold Rat'.pow2 Rat'.scale
  split <;> simp [Rat'.ofInt]

theorem Rat'.log2_pow2 (k : Int) : (Rat'.pow2 k).log2 = k := by
  refine Rat'.log2_eq (Rat'.den_pow2_pos k) ?_ ?_ <;> rw [Rat'.val_pow2, abs_of_pos (by positivity)]
  exact zpow_two_lt_iff.mpr (lt_add_one k)

theorem isPow2_pow2 (k : Int) : isPow2 (Rat'.pow2 k) = true := by
  rw [isPow2, Rat'.log2_pow2, Rat'.eqv_iff (by exact Rat'.den_pow2_pos k) (Rat'.den_pow2_pos k), Rat'.val_abs, Rat'.val_pow2]
  exact abs_of_pos (by positivity)

theorem Rat'.isNeg_of_val_pos {q : Rat'} (hq : 0 < q.den) (h : 0 < q.val) : q.isNeg = false := by
  rw [Rat'.isNeg, decide_eq_false_iff_not, ← Rat'.val_neg_iff hq]
  exact h.not_gt

theorem Rat'.isNeg_pow2 (k : Int) : (Rat'.pow2 k).isNeg = false :=
  Rat'.isNeg_of_val_pos (Rat'.den_pow2_pos k) (by rw [Rat'.val_pow2]; positivity)

theorem fp32_regular : fp32.Regular := regular_of_mem (by decide)

/-- A power of two among the normal numbers of fp32, by its exponent field. -/
theorem fp32_encode_pow2 {q : Rat'} (hq : 0 < q.den) {k : Int} (h : |q.val| = 2 ^ k) (hl : -126 ≤ k) (hu : k ≤ 127) (rnd : Nat) (sat ftz : Bool) :
    fp32.encode rnd sat ftz (.fin q) = (fp32.signed q.isNeg ((127 + k).toNat * 2 ^ 23), 0) := by
  obtain ⟨j, hj⟩ := Int.eq_ofNat_of_zero_le (show 0 ≤ k + 126 by omega)
  have hfield : (127 + k).toNat = j + 1 := by omega
  have hmag : |q.val| = fp32.mag ((j + 1) * 2 ^ 23) := by
    rw [h, show (2 : Nat) ^ 23 = 2 ^ fp32.m from rfl, FloatFmt.mag_pow2]
    congr 1
    change k = -126 + (j : Int)
    omega
  have hmax : fp32.maxPat = 0x7F7FFFFF := by decide
  rw [hfield]
  exact FloatFmt.encode_exact fp32_regular hq rnd (by positivity) (by omega) hmag (.inr (by change 2 ^ 23 ≤ _; omega)) sat

theorem fp32_encode_pow2_pos {q : Rat'} (hq : 0 < q.den) {k : Int} (h : q.val = 2 ^ k) (hl : -126 ≤ k) (hu : k ≤ 127) (rnd : Nat)
    (sat ftz : Bool) : fp32.encode rnd sat ftz (.fin q) = ((127 + k).toNat * 2 ^ 23, 0) := by
  have hpos : 0 < q.val := by rw [h]; positivity
  rw [fp32_encode_pow2 hq (by rw [abs_of_pos hpos, h]) hl hu, Rat'.isNeg_of_val_pos hq hpos]
  rfl

/-! ## Special operands (R300) -/

/-- The direction that a function rounds in. -/
def SfuOp.rnd (op : SfuOp) (m : Mode) : Nat := if op == .fexp then m.rnd else 0

theorem sfu32_of_special {op : SfuOp} {v r : Val} {f : FlagSet} (h : sfuSpecial op v = some (r, f)) (m : Mode) (pat : BitVec 32) :
    sfu32 op m pat v = ((fp32.encode (op.rnd m) m.sat m.ftz r).1, f ||| (fp32.encode (op.rnd m) m.sat m.ftz r).2) := by
  unfold sfu32
  rw [h]
  rfl

section encodings
variable (rnd : Nat) (sat ftz : Bool)

@[simp] theorem fp32_encode_nan (g : Bool) : fp32.encode rnd sat ftz (.nan g) = (0x7FC00000, 0) := rfl

@[simp] theorem fp32_encode_inf (n : Bool) : fp32.encode rnd sat ftz (.inf n) = ((if n then 0x80000000 else 0) + 0x7F800000, 0) := by
  rw [encode_inf rfl, FloatFmt.signed_eq]
  rfl

@[simp] theorem fp32_encode_zero (n : Bool) : fp32.encode rnd sat ftz (.zero n) = (if n then 0x80000000 else 0, 0) := by
  cases n <;> rfl

@[simp] theorem fp32_encode_one : fp32.encode rnd sat ftz (.fin (Rat'.ofInt 1)) = (0x3F800000, 0) :=
  fp32_encode_pow2_pos Nat.one_pos (k := 0) (by simp) (by decide) (by decide) rnd sat ftz

@[simp] theorem fp32_encode_minus_one : fp32.encode rnd sat ftz (.fin (Rat'.ofInt (-1))) = (0xBF800000, 0) :=
  fp32_encode_pow2 Nat.one_pos (k := 0) (by simp) (by decide) (by decide) rnd sat ftz

@[simp] theorem fp32_encode_half : fp32.encode rnd sat ftz (.fin ⟨1, 2⟩) = (0x3F000000, 0) :=
  fp32_encode_pow2_pos Nat.two_pos (k := -1) (by norm_num [Rat'.val]) (by decide) (by decide) rnd sat ftz

end encodings

section table
variable (op : SfuOp) (m : Mode) (pat : BitVec 32)

theorem sfu32_nan (s : Bool) : sfu32 op m pat (.nan s) = (0x7FC00000, if s then fIV else 0) := by
  rw [sfu32_of_special rfl]
  simp

theorem sfu32_zero {n : Bool} {r : Nat × FlagSet} (h : sfuTable op (.zero n) = some r) : sfu32 op m pat (.zero n) = r := by
  cases op <;> cases h <;> rw [sfu32_of_special rfl] <;> simp

theorem sfu32_inf {n : Bool} {r : Nat × FlagSet} (h : sfuTable op (.inf n) = some r) : sfu32 op m pat (.inf n) = r := by
  cases op <;> cases n <;> cases h <;> rw [sfu32_of_special rfl] <;> simp

/-- The special operands give what the table names. -/
theorem sfu32_of_table {v : Val} {r : Nat × FlagSet} (h : sfuTable op v = some r) : sfu32 op m pat v = r := by
  cases v with
  | nan s =>
    cases h
    exact sfu32_nan ..
  | zero n => exact sfu32_zero _ _ _ h
  | inf n => exact sfu32_inf _ _ _ h
  | fin q =>
    simp only [sfuTable, Option.ite_none_right_eq_some, Option.some.injEq] at h
    obtain ⟨⟨hneg, hop⟩, rfl⟩ := h
    have hspecial : sfuSpecial op (.fin q) = some (.nan false, fIV) := by
      rcases hop with rfl | rfl <;> simp [sfuSpecial, Rat'.isNeg, hneg]
    rw [sfu32_of_special hspecial]
    simp

end table

/-! ## Exact cases (R300) -/

theorem sfuSpecial_of_exact {op : SfuOp} {q : Rat'} {r : Val} (hop : q.isNeg = false) (h : sfuExact op q = some r) :
    sfuSpecial op (.fin q) = some (r, 0) := by
  simp [sfuSpecial, hop, h]

section exact
variable (m : Mode) (pat : BitVec 32) {k : Int}

theorem sfu32_of_exact {op : SfuOp} {q : Rat'} {r : Val} (hneg : q.isNeg = false) (h : sfuExact op q = some r) :
    sfu32 op m pat (.fin q) = fp32.encode (op.rnd m) m.sat m.ftz r := by
  rw [sfu32_of_special (sfuSpecial_of_exact hneg h)]
  simp

theorem sfu32_rcp_pow2 (hl : -126 ≤ k) (hu : k ≤ 126) : sfu32 .rcp m pat (.fin (Rat'.pow2 k)) = ((127 - k).toNat * 2 ^ 23, 0) := by
  have hexact : sfuExact .rcp (Rat'.pow2 k) = some (.fin ((Rat'.ofInt 1).div (Rat'.pow2 k))) := if_pos (isPow2_pow2 k)
  have hnum := (Rat'.num_pow2_pos k).ne'
  have hval : ((Rat'.ofInt 1).div (Rat'.pow2 k)).val = 2 ^ (-k) := by
    rw [Rat'.val_div _ hnum, Rat'.val_pow2, Rat'.val_ofInt, zpow_neg]
    simp
  rw [sfu32_of_exact m pat (Rat'.isNeg_pow2 k) hexact, fp32_encode_pow2_pos (Rat'.den_div_pos Nat.one_pos hnum) hval (by omega) (by omega)]
  rfl

theorem sfu32_rsq_pow2 (hl : -63 ≤ k) (hu : k ≤ 63) : sfu32 .rsq m pat (.fin (Rat'.pow2 (2 * k))) = ((127 - k).toNat * 2 ^ 23, 0) := by
  have hexact : sfuExact .rsq (Rat'.pow2 (2 * k)) = some (.fin (Rat'.pow2 (-k))) := by
    simp [sfuExact, isPow2_pow2, Rat'.log2_pow2]
  rw [sfu32_of_exact m pat (Rat'.isNeg_pow2 _) hexact, fp32_encode_pow2_pos (Rat'.den_pow2_pos _) (Rat'.val_pow2 _) (by omega) (by omega)]
  rfl

theorem sfu32_fexp_int (hl : -126 ≤ k) (hu : k ≤ 127) :
    sfu32 .fexp m pat (.fin (Rat'.ofInt k)) = ((127 + k).toNat * 2 ^ 23, 0) := by
  have hround : roundInt (Rat'.ofInt k) 1 = k := roundInt_of_eq Nat.one_pos 1 (Rat'.val_ofInt k)
  have hexact : sfuExact .fexp (Rat'.ofInt k) = some (.fin (Rat'.pow2 k)) := by
    have heqv : (Rat'.ofInt k).eqv (Rat'.ofInt k) = true := (Rat'.eqv_iff Nat.one_pos Nat.one_pos).mpr rfl
    simp only [sfuExact, hround, heqv, if_true]
    rw [min_eq_right (by omega), max_eq_right (by omega)]
  have hspecial : sfuSpecial .fexp (.fin (Rat'.ofInt k)) = some (.fin (Rat'.pow2 k), 0) := by
    simp [sfuSpecial, hexact]
  rw [sfu32_of_special hspecial, fp32_encode_pow2_pos (Rat'.den_pow2_pos _) (Rat'.val_pow2 _) hl hu]
  simp

/-- Between the least normal number and half the largest one, neither mode.sat nor mode.ftz shows. -/
theorem fp32_encode_mid {q : Rat'} (hq : 0 < q.den) (h0 : q.num ≠ 0) (hl : -126 ≤ q.log2) (hu : q.log2 ≤ 126) (rnd : Nat) (sat ftz : Bool) :
    fp32.encode rnd sat ftz (.fin q) = (fp32.signed q.isNeg (fp32.bitsBelow rnd q), fp32.inexact rnd q) := by
  have hexp : fp32.expOf q = q.log2 := max_eq_left hl
  have hcoef : (fp32.coef rnd q).natAbs ≤ 2 ^ 24 := FloatFmt.coef_le hq h0 rnd
  have hle : fp32.maxVal.lt (fp32.rounded rnd q).abs = false := by
    have hmax : fp32.maxPat = 0x7F7FFFFF := by decide
    have hbits : fp32.bitsBelow rnd q = (q.log2 - -126).toNat * 2 ^ 23 + (fp32.coef rnd q).natAbs := by
      rw [FloatFmt.bitsBelow, hexp]
      rfl
    rw [← Bool.not_eq_true, FloatFmt.maxVal_lt_iff fp32_regular hq h0]
    omega
  refine FloatFmt.encode_fin_of_le (fun h => ?_) hle sat
  have : q.log2 < -126 := FloatFmt.log2_lt_of_tiny hq h0 rnd h.1
  omega

theorem sfu32_lg2_pow2 (hl : -149 ≤ k) (hu : k ≤ 127) (h0 : k ≠ 0) :
    sfu32 .lg2 m pat (.fin (Rat'.pow2 k)) = fp32.encode 0 false false (.fin (Rat'.ofInt k)) := by
  have hexact : sfuExact .lg2 (Rat'.pow2 k) = some (.fin (Rat'.ofInt k)) := by
    simp [sfuExact, isPow2_pow2, Rat'.log2_pow2, Val.ofInt, h0]
  obtain ⟨hlow, hhigh⟩ := Rat'.log2_bounds (a := Rat'.ofInt k) Nat.one_pos h0
  rw [Rat'.val_ofInt] at hlow hhigh
  have h1 : (1 : ℚ) ≤ |(k : ℚ)| := by exact_mod_cast Int.one_le_abs h0
  have h8 : |(k : ℚ)| ≤ 149 := by exact_mod_cast (show |k| ≤ 149 by rw [abs_le]; omega)
  have hlog0 : 0 < (Rat'.ofInt k).log2 + 1 := zpow_two_lt_iff.mp (by rw [zpow_zero]; exact h1.trans_lt hhigh)
  have hlog8 : (Rat'.ofInt k).log2 < 8 := zpow_two_lt_iff.mp (by linarith)
  have hmid := fp32_encode_mid (q := Rat'.ofInt k) Nat.one_pos h0 (by omega) (by omega) 0
  rw [sfu32_of_exact m pat (Rat'.isNeg_pow2 k) hexact, hmid]
  exact hmid ..

end exact

/-! ## A reciprocal that is not exact (R300) -/

theorem Rat'.div_one (q : Rat') :
    (Rat'.ofInt 1).div q = { num := if q.num < 0 then -(q.den : Int) else q.den, den := q.num.natAbs } := by
  simp [Rat'.div, Rat'.ofInt]

/-- With saturation the bits below the sign are those of the rounding, held to the largest number. -/
theorem FloatFmt.encode_sat_fst {t : FloatFmt} (ht : t.Regular) {x : Rat'} (hx : 0 < x.den) (h0 : x.num ≠ 0) (rnd : Nat) :
    (t.encode rnd true false (.fin x)).1 = t.signed x.isNeg (min (t.bitsBelow rnd x) t.maxPat) := by
  have hiff := FloatFmt.maxVal_lt_iff ht hx h0 rnd
  cases hlt : t.maxVal.lt (t.rounded rnd x).abs with
  | true =>
    rw [FloatFmt.encode_fin_of_overflow ht hx h0 hlt, min_eq_right (hiff.mp hlt).le]
    rfl
  | false =>
    rw [FloatFmt.encode_fin_of_le (by simp) hlt, min_eq_left (not_lt.mp fun h => by rw [hiff.mpr h] at hlt; cases hlt)]

/-- Rounding up and rounding down give the same integer or two neighbours. -/
theorem roundInt_down_up {a : Rat'} (ha : 0 < a.den) : roundInt a 3 ≤ roundInt a 2 ∧ roundInt a 2 ≤ roundInt a 3 + 1 := by
  have hd : (0 : Int) < a.den := by exact_mod_cast ha
  obtain ⟨u1, u2⟩ := roundInt_up ha
  obtain ⟨d1, d2⟩ := roundInt_down ha
  refine ⟨le_of_mul_le_mul_right (d1.trans u2) hd, ?_⟩
  have := lt_of_mul_lt_mul_right (u1.trans d2) hd.le
  omega

/-- A value that is not tiny is no less than half the least power of two. -/
theorem FloatFmt.le_log2_of_not_tiny {t : FloatFmt} {x : Rat'} (hx : 0 < x.den) (h0 : x.num ≠ 0) {rnd : Nat} (h : t.tiny rnd x = false) :
    t.emin ≤ x.log2 + 1 := by
  have hcoef := natAbs_roundInt_scale_le hx h0 rnd t.m (le_refl x.log2)
  rw [← Bool.not_eq_true, FloatFmt.tiny, Rat'.lt_iff (by exact Rat'.den_scale_pos Nat.one_pos _) (Rat'.den_pow2_pos _), Rat'.val_abs,
    abs_val_scale, Rat'.val_ofInt, ← Int.cast_abs, Int.abs_eq_natAbs, Int.cast_natCast, Rat'.val_pow2, not_lt] at h
  refine zpow_two_le_iff.mp (h.trans ?_)
  calc ((roundInt (x.scale (t.m - x.log2)) rnd).natAbs : ℚ) * 2 ^ (x.log2 - t.m) ≤ ((2 ^ (t.m + 1) : Nat) : ℚ) * 2 ^ (x.log2 - t.m) := by gcongr
    _ = 2 ^ (x.log2 + 1) := by rw [two_zpow_natCast_add]; congr 1; push_cast; ring

/-- A value of half the least power of two or more does not round to zero. -/
theorem FloatFmt.coef_ne_zero_of_le {t : FloatFmt} (ht : t.Regular) {x : Rat'} (hx : 0 < x.den) (h0 : x.num ≠ 0) (h : t.emin ≤ x.log2 + 1)
    (rnd : Nat) : t.coef rnd x ≠ 0 := by
  have hm := ht.frac_pos
  have hexp : t.expOf x ≤ x.log2 + 1 := max_le (by omega) h
  have hone : 2 ^ 0 ≤ (t.coef rnd x).natAbs := two_pow_le_natAbs_roundInt_scale hx h0 rnd (by omega)
  omega

/-- Where rounding to nearest raises neither OF nor UF, no direction rounds to zero. -/
theorem FloatFmt.coef_ne_zero {t : FloatFmt} (ht : t.Regular) {x : Rat'} (hx : 0 < x.den) (h0 : x.num ≠ 0) {sat : Bool}
    (h : (t.encode 0 sat false (.fin x)).2 &&& (fOF ||| fUF) = 0) (rnd : Nat) : t.coef rnd x ≠ 0 := by
  cases hlt : t.maxVal.lt (t.rounded 0 x).abs with
  | true =>
    rw [FloatFmt.encode_fin_of_overflow ht hx h0 hlt] at h
    change (fOF ||| fNX) &&& (fOF ||| fUF) = 0 at h
    exact absurd h (by decide)
  | false =>
    rw [FloatFmt.encode_fin_of_le (by simp) hlt, FloatFmt.inexact] at h
    cases heqv : (t.rounded 0 x).eqv x with
    | true =>
      have hval := ((Rat'.eqv_iff (FloatFmt.den_rounded 0) hx).mp heqv).symm
      rw [FloatFmt.rounded, Rat'.val_scale, Rat'.val_ofInt] at hval
      rw [(FloatFmt.rounded_eqv_of_eq hx rnd hval).1]
      intro hz
      rw [hz, Int.cast_zero, zero_mul] at hval
      exact h0 ((Rat'.val_eq_zero_iff hx).mp hval)
    | false =>
      have htiny : t.tiny 0 x = false := by
        rw [← Bool.not_eq_true]
        intro htiny
        rw [heqv, htiny] at h
        change (fNX ||| fUF) &&& (fOF ||| fUF) = 0 at h
        exact absurd h (by decide)
      exact FloatFmt.coef_ne_zero_of_le ht hx h0 (FloatFmt.le_log2_of_not_tiny hx h0 htiny) rnd

/-! ## Places in the order of fp32 -/

theorem ord32_signed {p : Nat} (h : p < 2 ^ 31) (n : Bool) : ord32 (fp32.signed n p) = if n then -(p : Int) else p := by
  have hbit : fp32.signBit = 2 ^ 31 := rfl
  cases n with
  | true =>
    change ord32 (fp32.signBit + p) = -(p : Int)
    rw [hbit, ord32, if_pos (by omega), Nat.add_sub_cancel_left]
  | false => exact if_neg (by change ¬p ≥ 2 ^ 31; omega)

theorem unord32_ord32_signed {p : Nat} (h : p < 2 ^ 31) (h0 : p ≠ 0) (n : Bool) : unord32 (ord32 (fp32.signed n p)) = fp32.signed n p := by
  have hbit : fp32.signBit = 2 ^ 31 := rfl
  rw [ord32_signed h]
  cases n with
  | true => simp [unord32, FloatFmt.signed, hbit]; omega
  | false => simp [unord32, FloatFmt.signed]

/-- A place from the lesser of two neighbours on, within their distance, is one of them. -/
theorem pick_neighbours {a b : Int} (h : (a - b).natAbs ≤ 1) (n : Nat) :
    min a b + ((n % ((max a b - min a b).toNat + 1) : Nat) : Int) = a ∨ min a b + ((n % ((max a b - min a b).toNat + 1) : Nat) : Int) = b := by
  have hlt := Nat.mod_lt n (show (max a b - min a b).toNat + 1 > 0 by omega)
  omega

/-- Two patterns of one sign whose bits below it are neighbours. -/
theorem natAbs_ord32_sub {p r : Nat} (hp : p < 2 ^ 31) (hr : r < 2 ^ 31) (n : Bool) (h : p ≤ r + 1 ∧ r ≤ p + 1) :
    (ord32 (fp32.signed n p) - ord32 (fp32.signed n r)).natAbs ≤ 1 := by
  rw [ord32_signed hp, ord32_signed hr]
  cases n <;> simp only [if_true, Bool.false_eq_true, if_false] <;> omega

/-- The bits below the sign of a value rounded to fp32 and held to the largest number. -/
def heldBits (rnd : Nat) (x : Rat') : Nat := min (fp32.bitsBelow rnd x) fp32.maxPat

theorem heldBits_lt (rnd : Nat) (x : Rat') : heldBits rnd x < 2 ^ 31 := (min_le_right ..).trans_lt (FloatFmt.maxPat_lt_signBit fp32_regular)

section rcp
variable {x : Rat'} (hx : 0 < x.den) (h0 : x.num ≠ 0)

include hx in
theorem heldBits_up_down : heldBits 2 x ≤ heldBits 3 x + 1 ∧ heldBits 3 x ≤ heldBits 2 x + 1 := by
  obtain ⟨h1, h2⟩ := roundInt_down_up (Rat'.den_scale_pos hx (fp32.m - fp32.expOf x))
  have hbits : ∀ r, fp32.bitsBelow r x = (fp32.expOf x - fp32.emin).toNat * 2 ^ fp32.m
      + (roundInt (x.scale (fp32.m - fp32.expOf x)) r).natAbs := fun _ => rfl
  simp only [heldBits, hbits]
  omega

theorem heldBits_ne_zero {rnd : Nat} (h : fp32.coef rnd x ≠ 0) : heldBits rnd x ≠ 0 := by
  have hmax : fp32.maxPat = 0x7F7FFFFF := by decide
  have hbits : fp32.bitsBelow rnd x = (fp32.expOf x - fp32.emin).toNat * 2 ^ fp32.m + (fp32.coef rnd x).natAbs := rfl
  rw [heldBits, hmax, hbits]
  omega

include hx h0 in
theorem encode_eq_heldBits (rnd : Nat) : (fp32.encode rnd true false (.fin x)).1 = fp32.signed x.isNeg (heldBits rnd x) :=
  FloatFmt.encode_sat_fst fp32_regular hx h0 rnd

include hx h0 in
/-- Between the places of a value rounded up and rounded down there is no third. -/
theorem unord32_pick (hup : fp32.coef 2 x ≠ 0) (hdown : fp32.coef 3 x ≠ 0) (n : Nat) :
    let a := ord32 (fp32.encode 2 true false (.fin x)).1
    let b := ord32 (fp32.encode 3 true false (.fin x)).1
    let p := unord32 (min a b + ((n % ((max a b - min a b).toNat + 1) : Nat) : Int))
    p = (fp32.encode 2 true false (.fin x)).1 ∨ p = (fp32.encode 3 true false (.fin x)).1 := by
  simp only [encode_eq_heldBits hx h0]
  have hnear := natAbs_ord32_sub (heldBits_lt 2 x) (heldBits_lt 3 x) x.isNeg (heldBits_up_down hx)
  rcases pick_neighbours hnear n with h | h
  · exact .inl (by rw [h, unord32_ord32_signed (heldBits_lt 2 x) (heldBits_ne_zero hup)])
  · exact .inr (by rw [h, unord32_ord32_signed (heldBits_lt 3 x) (heldBits_ne_zero hdown)])

end rcp

/-- A function at an operand that is neither special nor exact takes a free place in its range, where its ends neither overflow nor are tiny. -/
theorem sfu32_of_range {op : SfuOp} {q lo hi : Rat'} {a b : Int} {m : Mode} (hop : op ≠ .fexp) (hs : sfuSpecial op (.fin q) = none)
    (he : sfuEnds op q = (lo, hi)) (hlo : (fp32.encode 0 m.sat m.ftz (.fin lo)).2 &&& (fOF ||| fUF) = 0)
    (hhi : (fp32.encode 0 m.sat m.ftz (.fin hi)).2 &&& (fOF ||| fUF) = 0) (hr : sfuRange op q lo hi = (a, b)) (hftz : m.ftz = false)
    (pat : BitVec 32) :
    ∃ n : Nat, let p := unord32 (a + ((n % ((b - a).toNat + 1) : Nat) : Int))
      sfu32 op m pat (.fin q) = (p, fNX ||| if bitsOf p 30 23 == 0 then fUF else 0) := by
  refine ⟨Config.sfuPick op.code pat m.ftz m.sat 0, ?_⟩
  have hfexp : (op == .fexp) = false := beq_eq_false_iff_ne.mpr hop
  have hrnd : (if op == .fexp then m.rnd else 0) = 0 := by rw [hfexp]; rfl
  unfold sfu32
  rw [hs, hrnd]
  -- Stated for every encoder, or the kernel would try to compute the one of fp32 on an open value.
  revert hlo hhi
  generalize fp32.encode = enc
  revert enc
  refine id ?_
  intro enc hlo hhi
  dsimp only
  rw [he]
  dsimp only
  rw [hlo, hhi, hfexp, hr, if_neg (by decide), if_neg (by simp), if_neg (by simp [hftz])]

theorem sfu32_congr (op : SfuOp) (v : Val) (pat : BitVec 32) {m m' : Mode} (hf : m'.ftz = m.ftz) (hs : m'.sat = m.sat)
    (hr : op = .fexp → m'.rnd = m.rnd) : sfu32 op m' pat v = sfu32 op m pat v := by
  have hrnd : (if op == .fexp then m'.rnd else 0) = if op == .fexp then m.rnd else 0 := by
    split
    case isTrue h => exact hr (beq_iff_eq.mp h)
    case isFalse => rfl
  unfold sfu32
  rw [hrnd, hf, hs]

/-- A reciprocal that is not exact is one of the two numbers next to it. -/
theorem sfu32_rcp_inexact {q : Rat'} (hq : 0 < q.den) (h0 : q.num ≠ 0) (hp : isPow2 q = false) {m : Mode} (hftz : m.ftz = false)
    (h : (fp32.encode 0 m.sat false (.fin ((Rat'.ofInt 1).div q))).2 &&& (fOF ||| fUF) = 0) (pat : BitVec 32) :
    ((sfu32 .rcp m pat (.fin q)).1 = (fp32.encode 2 true false (.fin ((Rat'.ofInt 1).div q))).1
        ∨ (sfu32 .rcp m pat (.fin q)).1 = (fp32.encode 3 true false (.fin ((Rat'.ofInt 1).div q))).1)
      ∧ (sfu32 .rcp m pat (.fin q)).2.getLsbD 4 = true := by
  have hden : 0 < ((Rat'.ofInt 1).div q).den := Rat'.den_div_pos Nat.one_pos h0
  have hnum : ((Rat'.ofInt 1).div q).num ≠ 0 := by
    rw [Rat'.div_one]
    dsimp only
    split <;> omega
  have hspecial : sfuSpecial .rcp (.fin q) = none := by simp [sfuSpecial, sfuExact, hp]
  generalize hv : (Rat'.ofInt 1).div q = v at *
  have hzero : v.isZero = false := by simpa [Rat'.isZero] using hnum
  have hrange : sfuRange .rcp q v v = (min (ord32 (fp32.encode 2 true false (.fin v)).1) (ord32 (fp32.encode 3 true false (.fin v)).1),
      max (ord32 (fp32.encode 2 true false (.fin v)).1) (ord32 (fp32.encode 3 true false (.fin v)).1)) := by
    simp [sfuRange, ordEnds, hzero]
  obtain ⟨n, hn⟩ := sfu32_of_range (by decide) hspecial (by simp only [sfuEnds, hv]) (hftz.symm ▸ h) (hftz.symm ▸ h) hrange hftz pat
  dsimp only at hn
  rw [hn]
  refine ⟨unord32_pick hden hnum (FloatFmt.coef_ne_zero fp32_regular hden hnum h 2) (FloatFmt.coef_ne_zero fp32_regular hden hnum h 3) n, ?_⟩
  rw [BitVec.getLsbD_or]
  rfl

/-- Settles O26: the NaNs, infinities and zeros by the cases of the operands; an exact case of VSFU by the encoding of its power of two; and a
reciprocal by its neighbours, between which R300 leaves no third place. -/
theorem floatExceptionalResults : Obligations.FloatExceptionalResults := by
  unfold Obligations.FloatExceptionalResults
  refine ⟨fun t m a b d ht => ⟨fun op hop hn => ?_, fun op hop hn => ?_, fun n hx hy => ?_, fun n hx hy => ?_, fun n e h => ?_,
    fun n e h => floatArith_div_invalid h, fun q e hx hy => ?_⟩, fun t m xs ht hm hx => ⟨fun h => ?_, fun hn hi ho => ?_, fun hn hi ho => ?_,
    contributed_add_negative_zeros hm hx⟩, fun m pat => ⟨fun op v r h => sfu32_of_table op m pat h, fun k hl hu => sfu32_rcp_pow2 m pat hl hu,
    fun k hl hu => sfu32_rsq_pow2 m pat hl hu, fun k hl hu h0 => sfu32_lg2_pow2 m pat hl hu h0, fun k hl hu _ => sfu32_fexp_int m pat hl hu,
    fun q hq h0 hp hftz h => ?_, fun op v m' hf hs hr => sfu32_congr op v pat hf hs hr⟩⟩
  · exact floatArith_nan_invalid hop hn
  · obtain ⟨k, rfl⟩ := mem_fma hop
    exact floatArith_fma_of_nan hn k
  · exact floatArith_add_invalid hx hy
  · exact floatArith_sub_invalid hx hy
  · obtain ⟨hmul, hfma⟩ := floatArith_inf_zero (d := d) h
    exact ⟨hmul, hfma false, hfma true⟩
  · exact floatArith_div_zero hx hy
  · exact contributed_add_nan hm hx h
  · exact contributed_add_inf hm hx hn hi ho
  · exact (contributed_add_inf hm hx hn hi ho).trans (by rw [FloatFmt.signed_eq]; rfl)
  · have hv := sfu32_rcp_inexact hq h0 hp hftz (by rw [Rat'.div_one]; exact h) pat
    rw [Rat'.div_one] at hv
    exact hv

end Sys2Proof.Machine
end

section
/-! PROOFS. Level-index patterns (09 R230, R231): what they decode to, which values have a pattern, and the order of those values. -/

namespace Sys2Proof.Machine

open Sys2Proof.Rules

/-! ## Values with a pattern (R230, R231) -/

/-- What a pattern can decode to: an index below the eighth level, and no reciprocal of one. -/
def SlVal.Valid (fb : Nat) : SlVal → Prop
  | .fin _ t => t.u + 2 ^ fb < 2 ^ (fb + 3) ∧ (t.neg = true → t.u ≠ 0)
  | _ => True

theorem decodeSl_valid (fb b : Nat) : (decodeSl fb b).Valid fb := by
  have hlt : b % 2 ^ (fb + 3) < 2 ^ (fb + 3) := Nat.mod_lt _ (by positivity)
  simp only [decodeSl, beq_iff_eq]
  split
  · split <;> exact trivial
  case isFalse h =>
    have hge : 2 ^ fb ≤ b % 2 ^ (fb + 3) := not_lt.mp fun hc => h (Nat.div_eq_of_lt hc)
    refine ⟨by simp only; omega, fun hneg => ?_⟩
    simp only [Bool.and_eq_true, bne_iff_ne, ne_eq] at hneg ⊢
    omega

theorem SlVal.Valid.negate {fb : Nat} {v : SlVal} (h : v.Valid fb) : v.negate.Valid fb := by
  cases v with
  | nan | zero => trivial
  | fin => exact h

/-- The fields of a sign, a reciprocal bit and the bits below. -/
theorem slFields {fb k : Nat} (hk : k < 2 ^ (fb + 3)) (n r : Bool) :
    let p := (if n then 2 ^ (fb + 4) else 0) + (if r then 2 ^ (fb + 3) else 0) + k
    bitOf p (fb + 4) = n ∧ bitOf p (fb + 3) = r ∧ p % 2 ^ (fb + 3) = k := by
  have hpow : 2 ^ (fb + 4) = 2 ^ (fb + 3) * 2 := pow_succ ..
  have hpos : 0 < 2 ^ (fb + 3) := by positivity
  intro p
  have hp : p = k + 2 ^ (fb + 3) * ((if n then 2 else 0) + if r then 1 else 0) := by
    simp only [p, hpow]
    cases n <;> cases r <;> simp <;> ring
  have hdiv : p / 2 ^ (fb + 3) = (if n then 2 else 0) + if r then 1 else 0 := by
    rw [hp, Nat.add_mul_div_left _ _ hpos, Nat.div_eq_of_lt hk, Nat.zero_add]
  refine ⟨?_, ?_, by rw [hp, Nat.add_mul_mod_self_left, Nat.mod_eq_of_lt hk]⟩
  · rw [bitOf, hpow, ← Nat.div_div_eq_div_mul, hdiv]
    cases n <;> cases r <;> rfl
  · rw [bitOf, hdiv]
    cases n <;> cases r <;> rfl

theorem slPattern_eq {fb k : Nat} (hk : k < 2 ^ (fb + 3)) (n r : Bool) :
    slPattern fb n r k = (if n then 2 ^ (fb + 4) else 0) + (if r && k != 2 ^ fb then 2 ^ (fb + 3) else 0) + k := by
  have hpow : 2 ^ (fb + 3) = 8 * 2 ^ fb := by ring
  rw [slPattern, min_eq_left (by omega)]

/-- The pattern of a value decodes to that value. -/
theorem decodeSl_pattern {fb : Nat} (hfb : 0 < fb) {v : SlVal} (h : v.Valid fb) : decodeSl fb (v.pattern fb) = v := by
  have hpow : 2 ^ (fb + 3) = 8 * 2 ^ fb := by ring
  have htwo : 2 ≤ 2 ^ fb := Nat.le_self_pow hfb.ne' 2
  cases v with
  | nan =>
    have hlt : slNaN fb < 2 ^ fb := by unfold slNaN; omega
    have hmod : slNaN fb % 2 ^ (fb + 3) = slNaN fb := Nat.mod_eq_of_lt (by omega)
    have hne : slNaN fb ≠ 0 := by unfold slNaN; omega
    simp [SlVal.pattern, decodeSl, hmod, Nat.div_eq_of_lt hlt, hne]
  | zero n =>
    obtain ⟨h1, -, h3⟩ := slFields (fb := fb) (k := 0) (by positivity) n false
    simp only [Bool.false_eq_true, if_false, Nat.add_zero] at h1 h3
    simp [SlVal.pattern, slZero, decodeSl, h1, h3]
  | fin n t =>
    obtain ⟨hu, hneg⟩ := h
    have hrc : (t.neg && t.u + 2 ^ fb != 2 ^ fb) = t.neg := by
      cases hn : t.neg with
      | false => rfl
      | true => simp [hneg hn]
    have hlevel : (t.u + 2 ^ fb) / 2 ^ fb ≠ 0 := by
      rw [Nat.add_div_right _ (by positivity)]
      exact Nat.succ_ne_zero _
    have hpat : SlVal.pattern fb (.fin n t) = (if n then 2 ^ (fb + 4) else 0) + (if t.neg then 2 ^ (fb + 3) else 0) + (t.u + 2 ^ fb) := by
      rw [SlVal.pattern, slOfTower, slPattern_eq hu, hrc]
    obtain ⟨h1, h2, h3⟩ := slFields hu n t.neg
    rw [← hpat] at h1 h2 h3
    simp only [decodeSl, h1, h2, h3, hrc, beq_iff_eq, if_neg hlevel, Nat.add_sub_cancel]

/-- DecodeSl reads the level, the index fraction, the reciprocal bit and the sign. -/
theorem decodeSl_eq_slValue (fb p : Nat) : decodeSl fb p = slValue fb p := by
  have hpow : 2 ^ (fb + 3) = 2 ^ fb * 8 := by ring
  have hpos : 0 < 2 ^ fb := by positivity
  have hl : p % 2 ^ (fb + 3) / 2 ^ fb = p / 2 ^ fb % 8 := by rw [hpow, Nat.mod_mul_right_div_self]
  have hf : p % 2 ^ (fb + 3) % 2 ^ fb = p % 2 ^ fb := by rw [hpow, Nat.mod_mul_right_mod]
  have hk : p % 2 ^ (fb + 3) = 2 ^ fb * (p / 2 ^ fb % 8) + p % 2 ^ fb := by rw [← hl, ← hf, Nat.div_add_mod]
  simp only [decodeSl, slValue, bitOf_eq_testBit, hl, beq_iff_eq]
  by_cases h0 : p / 2 ^ fb % 8 = 0
  · simp [h0, hk]
  · obtain ⟨j, hj⟩ := Nat.exists_eq_succ_of_ne_zero h0
    have hu : p % 2 ^ (fb + 3) - 2 ^ fb = 2 ^ fb * j + p % 2 ^ fb := by
      rw [hk, hj, Nat.succ_eq_add_one, Nat.mul_add]
      omega
    have hone : (p % 2 ^ (fb + 3) != 2 ^ fb) = !(p / 2 ^ fb % 8 == 1 && p % 2 ^ fb == 0) := by
      have hiff : p % 2 ^ (fb + 3) = 2 ^ fb ↔ j = 0 ∧ p % 2 ^ fb = 0 := by
        rw [hk, hj, Nat.succ_eq_add_one, Nat.mul_add]
        refine ⟨fun h => ?_, fun ⟨h1, h2⟩ => by rw [h1, h2]; simp⟩
        have : 2 ^ fb * j = 0 := by omega
        exact ⟨by simpa using this, by omega⟩
      rw [hj, bne, Bool.not_inj_iff, Bool.eq_iff_iff, beq_iff_eq, hiff]
      simp
    rw [if_neg h0, if_neg h0, hone, hu, hj]
    simp

/-! ## Order (R311) -/

/-- A number that orders towers as their values lie. -/
def Tower.place (t : Tower) : Int := if t.neg then -(t.u : Int) else t.u

theorem slPlace_fin (n : Bool) (t : Tower) : slPlace (.fin n t) = (if n then -1 else 1) * (2 ^ 40 + t.place) := rfl

section towers
variable {a b : Tower} (ha : a.neg = true → a.u ≠ 0) (hb : b.neg = true → b.u ≠ 0)
include ha hb

theorem Tower.le_iff : a.le b = true ↔ a.place ≤ b.place := by
  obtain ⟨an, au⟩ := a
  obtain ⟨bn, bu⟩ := b
  cases an <;> cases bn <;> simp [Tower.le, Tower.place] at *
  omega

theorem Tower.place_inj : a.place = b.place ↔ a = b := by
  obtain ⟨an, au⟩ := a
  obtain ⟨bn, bu⟩ := b
  cases an <;> cases bn <;> simp [Tower.place] at * <;> omega

end towers

theorem SlVal.Valid.place_lt {fb : Nat} (hfb : fb ≤ 27) {n : Bool} {t : Tower} (h : (SlVal.fin n t).Valid fb) : |t.place| < 2 ^ 40 := by
  have hu : t.u < 2 ^ 30 := by
    have : 2 ^ (fb + 3) ≤ 2 ^ 30 := Nat.pow_le_pow_right (by decide) (by omega)
    have := h.1
    have : 0 < 2 ^ fb := by positivity
    omega
  unfold Tower.place
  rw [abs_lt]
  split <;> omega

section values
variable {fb : Nat} (hfb : fb ≤ 27) {x y : SlVal} (hx : x.Valid fb) (hy : y.Valid fb)
include hfb hx

theorem slPlace_eq_zero_iff (hn : x ≠ .nan) : slPlace x = 0 ↔ ∃ n, x = .zero n := by
  cases x with
  | nan => exact absurd rfl hn
  | zero n => exact ⟨fun _ => ⟨n, rfl⟩, fun _ => rfl⟩
  | fin n t =>
    have := abs_lt.mp (hx.place_lt hfb)
    rw [slPlace_fin]
    constructor
    · intro h
      cases n <;> simp at h <;> omega
    · rintro ⟨m, h⟩
      cases h

include hy

theorem SlVal.lt_iff (hxn : x ≠ .nan) (hyn : y ≠ .nan) : x.lt y = true ↔ slPlace x < slPlace y := by
  cases x with
  | nan => exact absurd rfl hxn
  | zero m =>
    cases y with
    | nan => exact absurd rfl hyn
    | zero n => cases m <;> cases n <;> simp [SlVal.lt, slPlace]
    | fin n t =>
      have := abs_lt.mp (hy.place_lt hfb)
      rw [slPlace_fin]
      cases n <;> simp [SlVal.lt, slPlace] <;> omega
  | fin m s =>
    have hs := abs_lt.mp (hx.place_lt hfb)
    cases y with
    | nan => exact absurd rfl hyn
    | zero n =>
      rw [slPlace_fin]
      cases m <;> simp [SlVal.lt, slPlace] <;> omega
    | fin n t =>
      have ht := abs_lt.mp (hy.place_lt hfb)
      have hle := Tower.le_iff hx.2 hy.2
      have hge := Tower.le_iff hy.2 hx.2
      rw [slPlace_fin, slPlace_fin]
      cases m <;> cases n <;> simp [SlVal.lt, ← Bool.not_eq_true, hle, hge] <;> omega

theorem SlVal.eqv_iff (hxn : x ≠ .nan) (hyn : y ≠ .nan) : x.eqv y = true ↔ slPlace x = slPlace y := by
  cases x with
  | nan => exact absurd rfl hxn
  | zero m =>
    cases y with
    | nan => exact absurd rfl hyn
    | zero n => simp [SlVal.eqv, slPlace]
    | fin n t =>
      have := abs_lt.mp (hy.place_lt hfb)
      rw [slPlace_fin]
      cases n <;> simp [SlVal.eqv, slPlace] <;> omega
  | fin m s =>
    have hs := abs_lt.mp (hx.place_lt hfb)
    cases y with
    | nan => exact absurd rfl hyn
    | zero n =>
      rw [slPlace_fin]
      cases m <;> simp [SlVal.eqv, slPlace] <;> omega
    | fin n t =>
      have ht := abs_lt.mp (hy.place_lt hfb)
      have hinj := Tower.place_inj hx.2 hy.2
      rw [slPlace_fin, slPlace_fin]
      cases m <;> cases n <;> simp [SlVal.eqv, ← hinj] <;> omega

end values

end Sys2Proof.Machine
end

section
/-! PROOFS. Level-index arithmetic and conversions (09 R233, 13 R310 to R313): the results and flags that the rules fix without an enclosure. -/

namespace Sys2Proof.Machine

open Sys2Proof.Rules

/-! ## Results that every scale decides alike -/

theorem findSome?_slScales {α : Type} {f : Nat → Option α} {r : α} (h : ∀ P, f P = some r) : slScales.findSome? f = some r := by
  obtain ⟨P, Ps, hP⟩ := List.exists_cons_of_ne_nil (show slScales ≠ [] by simp [slScales])
  rw [hP, List.findSome?_cons, h]

theorem decideSl_of_const (d : Nat) {f : Nat → Option Nat} {r : Nat} (h : ∀ P, f P = some r) : decideSl d f = r := by
  rw [decideSl, findSome?_slScales h]
  rfl

/-! ## Sums, products and quotients (R310) -/

theorem slSum_fin_zero (fb : Nat) (z n m : Bool) (t : Tower) : slSum fb z [.fin n t, .zero m] = slOfTower fb n t := by
  simp only [slSum, List.filterMap, cancelAll, cancelOne]
  exact decideSl_of_const _ fun P => rfl

theorem slSum_zero_fin (fb : Nat) (z n m : Bool) (t : Tower) : slSum fb z [.zero m, .fin n t] = slOfTower fb n t := by
  simp only [slSum, List.filterMap, cancelAll, cancelOne]
  exact decideSl_of_const _ fun P => rfl

/-- A value and its negative cancel. -/
theorem slSum_cancel (fb : Nat) (z n : Bool) (t : Tower) : slSum fb z [.fin n t, .fin (!n) t] = slZero fb z := by
  have hn : (n != !n) = true := by cases n <;> rfl
  simp [slSum, cancelAll, cancelOne, hn]

/-- The exponent of a reciprocal. -/
def Tower.recip (t : Tower) : Tower := ⟨!t.neg && t.u != 0, t.u⟩

theorem slOfTower_zero (fb : Nat) (n r s : Bool) : slOfTower fb n ⟨r, 0⟩ = slOfTower fb n ⟨s, 0⟩ := by
  have h : min (2 ^ fb) (8 * 2 ^ fb - 1) = 2 ^ fb := by
    have : 0 < 2 ^ fb := by positivity
    omega
  simp [slOfTower, slPattern, h]

theorem slMulTowers_one (fb : Nat) (n : Bool) (t : Tower) : slMulTowers fb n t ⟨false, 0⟩ = slOfTower fb n t := by
  obtain ⟨r, u⟩ := t
  by_cases h : u = 0
  · subst h
    exact slOfTower_zero ..
  · simp [slMulTowers, h]

theorem slMulTowers_recip (fb : Nat) (n : Bool) {t : Tower} (h : t.neg = true → t.u ≠ 0) :
    slMulTowers fb n t t.recip = slOfTower fb n ⟨false, 0⟩ := by
  obtain ⟨r, u⟩ := t
  by_cases hu : u = 0
  · subst hu
    exact slOfTower_zero ..
  · simp [slMulTowers, Tower.recip, hu]

/-- A pattern depends on the place of its tower alone: there are not two patterns of one. -/
theorem slOfTower_place (fb : Nat) (n : Bool) (t : Tower) : slOfTower fb n ⟨decide (t.place < 0), t.place.natAbs⟩ = slOfTower fb n t := by
  obtain ⟨r, u⟩ := t
  by_cases hu : u = 0
  · subst hu
    cases r <;> exact slOfTower_zero ..
  · have hpos : 0 < u := Nat.pos_of_ne_zero hu
    have hnot : ¬(u : Int) < 0 := by omega
    cases r <;> simp [Tower.place, hpos, hnot]

/-- Two exponents below one whose sum is at most one in magnitude. -/
theorem slMulTowers_small {fb : Nat} (n : Bool) {s t : Tower} (hs : s.u < 2 ^ fb) (ht : t.u < 2 ^ fb)
    (h : (s.place + t.place).natAbs ≤ 2 ^ fb) :
    slMulTowers fb n s t = slOfTower fb n ⟨decide (s.place + t.place < 0), (s.place + t.place).natAbs⟩ := by
  have hzero : ∀ w : Tower, w.u = 0 → w.place = 0 := fun w hw => by simp [Tower.place, hw]
  unfold slMulTowers
  by_cases hsu : s.u = 0
  · rw [if_pos (by simpa using hsu), hzero s hsu, zero_add, slOfTower_place]
  rw [if_neg (by simpa using hsu)]
  by_cases htu : t.u = 0
  · rw [if_pos (by simpa using htu), hzero t htu, add_zero, slOfTower_place]
  rw [if_neg (by simpa using htu)]
  by_cases hst : s.u = t.u ∧ s.neg ≠ t.neg
  · have hsum : s.place + t.place = 0 := by
      obtain ⟨hu, hn⟩ := hst
      cases hsn : s.neg <;> cases htn : t.neg <;> simp_all [Tower.place]
    rw [if_pos (by simpa using hst), hsum]
    rfl
  · rw [if_neg (by simpa using hst), if_pos (by simp [hs, ht])]
    exact if_pos h

/-! ## LIARITH (R310) -/

/-- Whether a value is a zero. -/
def SlVal.isZero : SlVal → Bool
  | .zero _ => true
  | _ => false

/-- The result of an operation on values that are not NaN, zero by zero left out. -/
def slResult (op : SlOp) (fb : Nat) (x y : SlVal) : Nat := if op = .div ∧ y.isZero = true then slMax fb (x.neg != y.neg) else slExact op fb x y

theorem liArith_of_nan {fb pa pb : Nat} (h : decodeSl fb pa = .nan ∨ decodeSl fb pb = .nan) (op : SlOp) :
    liArith op fb pa pb = (2 ^ fb - 1, 0) := by
  have hnan : (decodeSl fb pa == .nan || decodeSl fb pb == .nan) = true := by simpa using h
  simp only [liArith, hnan, if_true]
  rfl

theorem liArith_zero_by_zero {fb pa pb : Nat} {m n : Bool} (hx : decodeSl fb pa = .zero m) (hy : decodeSl fb pb = .zero n) :
    liArith .div fb pa pb = (2 ^ fb - 1, fIV) := by
  simp [liArith, hx, hy, slNaN]

section liArith
variable {op : SlOp} {fb pa pb : Nat} (hx : decodeSl fb pa ≠ .nan) (hy : decodeSl fb pb ≠ .nan)
  (h : ¬(op = .div ∧ (decodeSl fb pa).isZero = true ∧ (decodeSl fb pb).isZero = true))
include hx hy h

/-- The result and the flags of LIARITH: DZ for a division by zero, and LX where the level changes. -/
theorem liArith_eq : liArith op fb pa pb = (slResult op fb (decodeSl fb pa) (decodeSl fb pb),
    (if op = .div ∧ (decodeSl fb pb).isZero = true then fDZ else 0)
      ||| if slLevel fb (slResult op fb (decodeSl fb pa) (decodeSl fb pb)) ≠ max (slLevel fb pa) (slLevel fb pb) then fLX else 0) := by
  simp only [liArith]
  generalize decodeSl fb pa = x at *
  generalize decodeSl fb pb = y at *
  cases y with
  | nan => exact absurd rfl hy
  | fin n t => cases x <;> simp_all [slResult, SlVal.isZero]
  | zero n =>
    cases x with
    | nan => exact absurd rfl hx
    | zero m =>
      have hop : op ≠ .div := fun hop => h ⟨hop, rfl, rfl⟩
      simp [slResult, SlVal.isZero, hop]
    | fin m s => by_cases hop : op = .div <;> simp [slResult, SlVal.isZero, hop]

end liArith

/-! ## The results of R310, by the kinds of the operands -/

theorem slResult_nonzero (op : SlOp) (fb : Nat) (x : SlVal) {y : SlVal} (hy : y.isZero = false) : slResult op fb x y = slExact op fb x y := by
  simp [slResult, hy]

section results
variable (fb : Nat) (m n : Bool) (s t : Tower)

theorem slResult_zeros : slResult .mul fb (.zero m) (.zero n) = slZero fb (xor m n) ∧ slResult .add fb (.zero m) (.zero n) = slZero fb (m && n)
    ∧ slResult .sub fb (.zero m) (.zero n) = slZero fb (m && !n) := by
  cases m <;> cases n <;> exact ⟨rfl, rfl, rfl⟩

theorem slResult_fin_zero : slResult .div fb (.fin m t) (.zero n) = slMax fb (xor m n) ∧ slResult .mul fb (.fin m t) (.zero n) = slZero fb (xor m n)
    ∧ slResult .add fb (.fin m t) (.zero n) = slOfTower fb m t ∧ slResult .sub fb (.fin m t) (.zero n) = slOfTower fb m t :=
  ⟨rfl, rfl, slSum_fin_zero fb false m n t, slSum_fin_zero fb false m (!n) t⟩

theorem slResult_zero_fin : slResult .div fb (.zero m) (.fin n t) = slZero fb (xor m n)
    ∧ slResult .mul fb (.zero m) (.fin n t) = slZero fb (xor m n)
    ∧ slResult .add fb (.zero m) (.fin n t) = slOfTower fb n t ∧ slResult .sub fb (.zero m) (.fin n t) = slOfTower fb (!n) t := by
  simp only [slResult_nonzero _ fb (.zero m) (show (SlVal.fin n t).isZero = false from rfl)]
  exact ⟨rfl, rfl, slSum_zero_fin .., slSum_zero_fin ..⟩

theorem slResult_one : slResult .mul fb (.fin m t) (.fin n ⟨false, 0⟩) = slOfTower fb (xor m n) t
    ∧ slResult .div fb (.fin m t) (.fin n ⟨false, 0⟩) = slOfTower fb (xor m n) t := by
  simp only [slResult_nonzero _ fb (.fin m t) (show (SlVal.fin n ⟨false, 0⟩).isZero = false from rfl)]
  exact ⟨slMulTowers_one .., slMulTowers_one ..⟩

theorem slResult_self (ht : t.neg = true → t.u ≠ 0) : slResult .div fb (.fin m t) (.fin n t) = slOfTower fb (xor m n) ⟨false, 0⟩
    ∧ (m = n → slResult .sub fb (.fin m t) (.fin n t) = 0) ∧ (m ≠ n → slResult .add fb (.fin m t) (.fin n t) = 0) := by
  simp only [slResult_nonzero _ fb (.fin m t) (show (SlVal.fin n t).isZero = false from rfl)]
  refine ⟨slMulTowers_recip fb _ ht, ?_, fun hne => ?_⟩
  · rintro rfl
    exact slSum_cancel fb false m t
  · obtain rfl : n = !m := by cases m <;> cases n <;> simp at hne ⊢
    exact slSum_cancel fb false m t

theorem slResult_mul_small (hs : s.u < 2 ^ fb) (ht : t.u < 2 ^ fb) (h : (s.place + t.place).natAbs ≤ 2 ^ fb) :
    slResult .mul fb (.fin m s) (.fin n t) = slOfTower fb (xor m n) ⟨decide (s.place + t.place < 0), (s.place + t.place).natAbs⟩ := by
  rw [slResult_nonzero _ fb _ rfl]
  exact slMulTowers_small _ hs ht h

end results

/-! ## Conversions (R233) -/

theorem decideEnclosed_one (fb : Nat) (n : Bool) (enc : Val → Nat × FlagSet) :
    decideEnclosed fb n ⟨false, 0⟩ enc = enc (.fin (Rat'.ofInt (if n then -1 else 1))) := by
  have hone : (if n then (Rat'.ofInt 1).neg else Rat'.ofInt 1) = Rat'.ofInt (if n then -1 else 1) := by cases n <;> rfl
  rw [decideEnclosed, findSome?_slScales (r := enc (.fin (Rat'.ofInt (if n then -1 else 1)))) fun P => by rw [← hone]; rfl]
  rfl

/-- A one is a number of every float format. -/
theorem FloatFmt.encode_one {t : FloatFmt} (ht : t ∈ floats) (n : Bool) (rnd : Nat) (sat ftz : Bool) :
    t.encode rnd sat ftz (.fin (Rat'.ofInt (if n then -1 else 1))) = ((if n then 2 ^ (t.w - 1) else 0) + t.bias.toNat * 2 ^ t.m, 0) := by
  have hr := regular_of_mem ht
  have hbias : 1 ≤ t.bias ∧ t.bias.toNat * 2 ^ t.m ≤ t.maxPat := by
    simp only [floats, List.mem_cons, List.not_mem_nil, or_false] at ht
    rcases ht with rfl | rfl | rfl | rfl | rfl <;> decide
  obtain ⟨k, hk⟩ := Int.eq_ofNat_of_zero_le (show 0 ≤ t.bias - 1 by omega)
  have hfield : t.bias.toNat = k + 1 := by omega
  have hmag : |(Rat'.ofInt (if n then -1 else 1)).val| = t.mag (t.bias.toNat * 2 ^ t.m) := by
    rw [hfield, t.mag_pow2, show t.emin + k = 0 by have := hr.emin_eq; omega]
    cases n <;> simp
  have hle : 2 ^ t.m ≤ t.bias.toNat * 2 ^ t.m := Nat.le_mul_of_pos_left _ (by omega)
  rw [FloatFmt.encode_exact hr Nat.one_pos rnd (by have : 0 < 2 ^ t.m := by positivity
                                                   omega) hbias.2 hmag (.inr hle), FloatFmt.signed_eq]
  cases n <;> rfl

section conversions
variable {fb b : Nat} (rnd : Nat) (sat : Bool)

theorem slToFloat_nan (h : decodeSl fb b = .nan) (t : FloatFmt) (ftz : Bool) : slToFloat fb b t rnd sat ftz = (t.nanC, 0) := by
  simp only [slToFloat, h]

theorem slToFloat_zero {n : Bool} (h : decodeSl fb b = .zero n) (t : FloatFmt) (ftz : Bool) :
    slToFloat fb b t rnd sat ftz = (if n then 2 ^ (t.w - 1) else 0, 0) := by
  simp only [slToFloat, h, FloatFmt.encode, FloatFmt.signed_eq, Nat.add_zero]

theorem slToFloat_one {n : Bool} (h : decodeSl fb b = .fin n ⟨false, 0⟩) {t : FloatFmt} (ht : t ∈ floats) (ftz : Bool) :
    slToFloat fb b t rnd sat ftz = ((if n then 2 ^ (t.w - 1) else 0) + t.bias.toNat * 2 ^ t.m, 0) := by
  simp only [slToFloat, h, decideEnclosed_one, FloatFmt.encode_one ht]

theorem slToInt_nan (h : decodeSl fb b = .nan) (t : IntFmt) : slToInt fb b t rnd sat = (0, fIV) := by
  simp only [slToInt, h, IntFmt.encode]

theorem slToInt_zero {n : Bool} (h : decodeSl fb b = .zero n) (t : IntFmt) : slToInt fb b t rnd sat = (0, 0) := by
  simp only [slToInt, h, IntFmt.encode]

theorem slToInt_one {n : Bool} (h : decodeSl fb b = .fin n ⟨false, 0⟩) (t : IntFmt) :
    slToInt fb b t rnd sat = intHeld t sat (if n then -1 else 1) := by
  have hsmall : (Rat'.pow2 64).le (Rat'.ofInt (if n then -1 else 1)).abs = false := by cases n <;> decide
  have hround : roundInt (Rat'.ofInt (if n then -1 else 1)) rnd = if n then -1 else 1 := roundInt_of_eq Nat.one_pos rnd (Rat'.val_ofInt _)
  have heqv : ∀ q : Rat', q.eqv q = true := fun q => beq_self_eq_true _
  simp only [slToInt, h, decideEnclosed_one, hsmall, IntFmt.encode, hround, heqv, encodeExact_eq_intHeld]
  simp

end conversions

theorem encodeSl_one (fb : Nat) : encodeSl fb (Val.ofInt 1) = (2 ^ fb, 0) ∧ encodeSl fb (Val.ofInt (-1)) = (2 ^ (fb + 4) + 2 ^ fb, 0) := by
  have hpat : ∀ n, slPattern fb n false (2 ^ fb) = (if n then 2 ^ (fb + 4) else 0) + 2 ^ fb := fun n => by
    rw [slPattern_eq (Nat.pow_lt_pow_right (by decide) (by omega))]
    simp
  have hplus : encodeSl fb (Val.ofInt 1) = (slPattern fb false false (2 ^ fb), 0) := rfl
  have hminus : encodeSl fb (Val.ofInt (-1)) = (slPattern fb true false (2 ^ fb), 0) := rfl
  rw [hplus, hminus, hpat, hpat]
  simp

end Sys2Proof.Machine
end

section
/-! PROOFS. A combination of contributions does not depend on their order (12 R305): folds of bits and of exact sums, and the terms of a sum of
level-index values; and the statement about level-index results and reductions. -/

namespace Sys2Proof.Machine

open Sys2Proof.Rules

/-! ## Exact sums of float values -/

theorem addVal_right_comm (acc : Rat') (v w : Val) : addVal (addVal acc v) w = addVal (addVal acc w) v := by
  cases v <;> cases w <;> simp only [addVal]
  simp only [Rat'.add, Rat'.mk.injEq]
  push_cast
  exact ⟨by ring, by ring⟩

theorem sumVals_perm (rnd : Nat) {vs ws : List Val} (h : vs.Perm ws) : sumVals rnd vs = sumVals rnd ws := by
  have : RightCommutative addVal := ⟨addVal_right_comm⟩
  simp only [sumVals_eq, h.any_eq, h.all_eq, h.foldl_eq]

/-! ## Cancelling terms -/

theorem cancelOne_eq (n : Bool) (t : Tower) (xs : List (Bool × Tower)) :
    cancelOne n t xs = if (!n, t) ∈ xs then some (xs.erase (!n, t)) else none := by
  induction xs with
  | nil => rfl
  | cons x xs ih =>
    have hx : (x.1 != n && x.2 == t) = decide (x = (!n, t)) := by
      obtain ⟨m, s⟩ := x
      cases m <;> cases n <;> simp [Bool.beq_eq_decide_eq]
    rw [cancelOne, hx, ih]
    by_cases h : x = (!n, t)
    · simp [h]
    · have hmem : (!n, t) ∈ x :: xs ↔ (!n, t) ∈ xs := by simp [Ne.symm h]
      simp only [h, decide_false, Bool.false_eq_true, if_false, hmem, List.erase_cons_tail (beq_eq_false_iff_ne.mpr h ▸ Bool.false_ne_true)]
      split <;> rfl

/-- Terms among which no two of opposite sign are equal in magnitude. -/
def Uncancelled (xs : List (Bool × Tower)) : Prop := ∀ t, xs.count (false, t) = 0 ∨ xs.count (true, t) = 0

/-- How many positive terms of a magnitude there are more than negative ones. -/
def netCount (t : Tower) (xs : List (Bool × Tower)) : Int := xs.count (false, t) - xs.count (true, t)

/-- Cancelling leaves terms that do not cancel, with the same balance for each magnitude. -/
theorem cancelAll_spec (xs : List (Bool × Tower)) : ∀ {acc}, Uncancelled acc →
    Uncancelled (cancelAll xs acc) ∧ (∀ t, netCount t (cancelAll xs acc) = netCount t xs + netCount t acc)
      ∧ ∀ x ∈ cancelAll xs acc, x ∈ xs ∨ x ∈ acc := by
  induction xs with
  | nil => intro acc h; exact ⟨h, fun t => by simp [cancelAll, netCount], fun x hx => .inr hx⟩
  | cons x xs ih =>
    obtain ⟨n, t⟩ := x
    intro acc h
    rw [cancelAll, cancelOne_eq]
    by_cases hmem : (!n, t) ∈ acc
    · have hacc : Uncancelled (acc.erase (!n, t)) := by
        intro s
        have hle : ∀ y, (acc.erase (!n, t)).count y ≤ acc.count y := fun y => List.erase_sublist.count_le y
        have hf := hle (false, s)
        have ht := hle (true, s)
        have hs := h s
        omega
      obtain ⟨h1, h2, h3⟩ := ih hacc
      have hpos : 0 < acc.count (!n, t) := List.count_pos_iff.mpr hmem
      rw [if_pos hmem]
      refine ⟨h1, fun s => ?_, fun y hy => ?_⟩
      · rw [h2]
        simp only [netCount, List.count_erase, List.count_cons]
        by_cases hs : t = s
        · subst hs
          cases n <;> simp only [Bool.not_false, Bool.not_true] at hpos <;> simp <;> omega
        · cases n <;> simp [hs]
      · rcases h3 y hy with hy | hy
        · exact .inl (List.mem_cons_of_mem _ hy)
        · exact .inr (List.mem_of_mem_erase hy)
    · have hacc : Uncancelled ((n, t) :: acc) := by
        intro s
        have hzero : acc.count (!n, t) = 0 := List.count_eq_zero.mpr hmem
        have hs := h s
        simp only [List.count_cons]
        by_cases hst : t = s
        · subst hst
          cases n <;> simp at hzero ⊢ <;> omega
        · simpa [hst] using hs
      obtain ⟨h1, h2, h3⟩ := ih hacc
      rw [if_neg hmem]
      refine ⟨h1, fun s => ?_, fun y hy => ?_⟩
      · rw [h2]
        simp only [netCount, List.count_cons]
        push_cast
        ring
      · rcases h3 y hy with hy | hy
        · exact .inl (List.mem_cons_of_mem _ hy)
        · rcases List.mem_cons.mp hy with rfl | hy
          · exact .inl List.mem_cons_self
          · exact .inr hy

theorem uncancelled_nil : Uncancelled [] := fun _ => .inl rfl

/-- What is left of the terms does not depend on their order, but for its own. -/
theorem cancelAll_perm {xs ys : List (Bool × Tower)} (h : xs.Perm ys) : (cancelAll xs []).Perm (cancelAll ys []) := by
  obtain ⟨hx, nx, -⟩ := cancelAll_spec xs uncancelled_nil
  obtain ⟨hy, ny, -⟩ := cancelAll_spec ys uncancelled_nil
  have hnet : ∀ t, netCount t (cancelAll xs []) = netCount t (cancelAll ys []) := fun t => by
    rw [nx, ny]
    simp only [netCount, h.count_eq]
  rw [List.perm_iff_count]
  rintro ⟨n, t⟩
  have h1 := hx t
  have h2 := hy t
  have h3 := hnet t
  unfold netCount at h3
  cases n <;> omega

/-! ## The sum of terms -/

/-- The terms of a list have towers of which none is a reciprocal of one. -/
def Canonical (xs : List (Bool × Tower)) : Prop := ∀ x ∈ xs, x.2.neg = true → x.2.u ≠ 0

/-- The greatest tower of some is one of them, and none lies above it. -/
theorem maxTower_spec (xs : List (Bool × Tower)) : ∀ {t : Tower}, (t.neg = true → t.u ≠ 0) → Canonical xs →
    (maxTower t xs = t ∨ ∃ x ∈ xs, maxTower t xs = x.2) ∧ t.place ≤ (maxTower t xs).place ∧ ∀ x ∈ xs, x.2.place ≤ (maxTower t xs).place := by
  induction xs with
  | nil => intro t _ _; exact ⟨.inl rfl, le_rfl, by simp⟩
  | cons x xs ih =>
    intro t ht hxs
    have hx := hxs x List.mem_cons_self
    have hrest : Canonical xs := fun y hy => hxs y (List.mem_cons_of_mem _ hy)
    have hle := Tower.le_iff ht hx
    by_cases h : t.le x.2 = true
    · have hmax : maxTower t (x :: xs) = maxTower x.2 xs := by simp [maxTower, h]
      obtain ⟨h1, h2, h3⟩ := ih hx hrest
      rw [hmax]
      refine ⟨.inr ?_, (hle.mp h).trans h2, fun y hy => ?_⟩
      · rcases h1 with h1 | ⟨y, hy, h1⟩
        · exact ⟨x, List.mem_cons_self, h1⟩
        · exact ⟨y, List.mem_cons_of_mem _ hy, h1⟩
      · rcases List.mem_cons.mp hy with rfl | hy
        · exact h2
        · exact h3 y hy
    · have hmax : maxTower t (x :: xs) = maxTower t xs := by simp [maxTower, h]
      obtain ⟨h1, h2, h3⟩ := ih ht hrest
      have hlt : x.2.place < t.place := not_le.mp fun hc => h (hle.mpr hc)
      rw [hmax]
      refine ⟨h1.imp_right fun ⟨y, hy, h1⟩ => ⟨y, List.mem_cons_of_mem _ hy, h1⟩, h2, fun y hy => ?_⟩
      rcases List.mem_cons.mp hy with rfl | hy
      · exact hlt.le.trans h2
      · exact h3 y hy

theorem maxTower_perm {x y : Bool × Tower} {xs ys : List (Bool × Tower)} (hc : Canonical (x :: xs)) (h : (x :: xs).Perm (y :: ys)) :
    maxTower x.2 xs = maxTower y.2 ys := by
  have hc' : Canonical (y :: ys) := fun z hz => hc z (h.mem_iff.mpr hz)
  have among : ∀ {z : Bool × Tower} {zs}, Canonical (z :: zs) →
      (∃ w ∈ z :: zs, maxTower z.2 zs = w.2) ∧ ∀ w ∈ z :: zs, w.2.place ≤ (maxTower z.2 zs).place := by
    intro z zs hz
    obtain ⟨h1, h2, h3⟩ := maxTower_spec zs (hz z List.mem_cons_self) fun w hw => hz w (List.mem_cons_of_mem _ hw)
    refine ⟨?_, fun w hw => ?_⟩
    · rcases h1 with h1 | ⟨w, hw, h1⟩
      · exact ⟨z, List.mem_cons_self, h1⟩
      · exact ⟨w, List.mem_cons_of_mem _ hw, h1⟩
    · rcases List.mem_cons.mp hw with rfl | hw
      · exact h2
      · exact h3 w hw
  obtain ⟨⟨v, hv, hvmax⟩, hxle⟩ := among hc
  obtain ⟨⟨w, hw, hwmax⟩, hyle⟩ := among hc'
  rw [hvmax] at hxle
  rw [hwmax] at hyle
  rw [hvmax, hwmax]
  exact (Tower.place_inj (hc v hv) (hc' w hw)).mp (le_antisymm (hyle v (h.mem_iff.mp hv)) (hxle w (h.mem_iff.mpr hw)))

/-- One more term of a sum, over the greatest. -/
def addTerm (P fb : Nat) (m : Tower) (acc : Iv) (x : Bool × Tower) : Iv :=
  if x.1 then acc.sub (expDiff P fb x.2 m) else acc.add (expDiff P fb x.2 m)

theorem addTerm_right_comm (P fb : Nat) (m : Tower) (acc : Iv) (x y : Bool × Tower) :
    addTerm P fb m (addTerm P fb m acc x) y = addTerm P fb m (addTerm P fb m acc y) x := by
  unfold addTerm
  split <;> split <;> simp only [Iv.sub, Iv.add, Iv.neg, Iv.mk.injEq] <;> exact ⟨by ring, by ring⟩

theorem sumTowers_eq (P fb : Nat) (x : Bool × Tower) {xs : List (Bool × Tower)} (h : xs ≠ []) :
    sumTowers P fb (x :: xs) =
      let m := maxTower x.2 xs
      let s := (x :: xs).foldl (addTerm P fb m) ⟨0, 0⟩
      if s.lo > 0 then (s.ln P).bind fun d => encodeLog P fb false m d
      else if s.hi < 0 then (s.neg.ln P).bind fun d => encodeLog P fb true m d
      else none := by
  obtain ⟨y, ys, rfl⟩ := List.exists_cons_of_ne_nil h
  rfl

/-- A sum does not depend on the order of its terms. -/
theorem sumTowers_perm (P fb : Nat) {xs ys : List (Bool × Tower)} (hc : Canonical xs) (h : xs.Perm ys) : sumTowers P fb xs = sumTowers P fb ys := by
  cases xs with
  | nil => rw [h.nil_eq]
  | cons x xs =>
    cases ys with
    | nil => exact absurd h.length_eq (by simp)
    | cons y ys =>
      by_cases hxs : xs = []
      · subst hxs
        rw [List.perm_singleton.mp h.symm]
      · have hys : ys ≠ [] := by
          have hlen := h.length_eq
          rintro rfl
          simp at hlen
          exact hxs hlen
        rw [sumTowers_eq P fb x hxs, sumTowers_eq P fb y hys, maxTower_perm hc h]
        have : RightCommutative (addTerm P fb (maxTower y.2 ys)) := ⟨addTerm_right_comm P fb _⟩
        simp only [h.foldl_eq]

/-- The term of a value, where it is not zero. -/
def SlVal.term : SlVal → Option (Bool × Tower)
  | .fin n t => some (n, t)
  | _ => none

/-- The sum of terms that do not cancel. -/
def sumOfTerms (fb : Nat) (negZero : Bool) : List (Bool × Tower) → Nat
  | [] => slZero fb negZero
  | x :: xs => decideSl (slZero fb negZero) fun P => sumTowers P fb (x :: xs)

theorem slSum_eq (fb : Nat) (negZero : Bool) (vs : List SlVal) :
    slSum fb negZero vs = sumOfTerms fb negZero (cancelAll (vs.filterMap SlVal.term) []) := by
  have hterms : ∀ f : SlVal → Option (Bool × Tower), (∀ v, f v = v.term) → vs.filterMap f = vs.filterMap SlVal.term :=
    fun f hf => by rw [funext hf]
  unfold slSum
  rw [hterms]
  · dsimp only
    cases cancelAll (vs.filterMap SlVal.term) [] <;> rfl
  · intro v
    cases v <;> rfl

theorem slSum_perm (fb : Nat) (negZero : Bool) {vs ws : List SlVal} (hv : ∀ v ∈ vs, v.Valid fb) (h : vs.Perm ws) :
    slSum fb negZero vs = slSum fb negZero ws := by
  have hperm := cancelAll_perm (h.filterMap SlVal.term)
  have hcanon : Canonical (cancelAll (vs.filterMap SlVal.term) []) := by
    intro x hx
    obtain ⟨-, -, hsub⟩ := cancelAll_spec (vs.filterMap SlVal.term) uncancelled_nil
    obtain ⟨v, hvm, hterm⟩ := List.mem_filterMap.mp ((hsub x hx).resolve_right List.not_mem_nil)
    have hvalid := hv v hvm
    cases v with
    | nan => cases hterm
    | zero => cases hterm
    | fin n t =>
      cases hterm
      exact hvalid.2
  rw [slSum_eq, slSum_eq]
  generalize cancelAll (vs.filterMap SlVal.term) [] = xs at *
  generalize cancelAll (ws.filterMap SlVal.term) [] = ys at *
  cases xs with
  | nil => rw [hperm.nil_eq]
  | cons x xs =>
    cases ys with
    | nil => exact absurd hperm.length_eq (by simp)
    | cons y ys => simp only [sumOfTerms, sumTowers_perm _ fb hcanon hperm]

theorem slCombine_perm (fb : Nat) {xs ys : List (Nat × Bool)} (h : xs.Perm ys) : slCombine fb xs = slCombine fb ys := by
  have hvals := h.map fun x => decodeSl fb x.1
  have hlevels := (h.filter Prod.snd).map fun x => slLevel fb x.1
  have hvalid : ∀ v ∈ xs.map fun x => decodeSl fb x.1, v.Valid fb := by
    intro v hv
    obtain ⟨x, -, rfl⟩ := List.mem_map.mp hv
    exact decodeSl_valid fb x.1
  have : RightCommutative (max : Nat → Nat → Nat) := ⟨fun a b c => by omega⟩
  simp only [slCombine, hvals.any_eq, hvals.all_eq, slSum_perm fb _ hvalid hvals, hlevels.foldl_eq, hlevels.isEmpty_eq]

/-! ## Contributions in any order (R305) -/

theorem contributed_add_perm (m : Mode) {xs ys : List (Nat × Bool)} (hx : xs ≠ []) (h : xs.Perm ys) :
    contributed .add m xs = contributed .add m ys := by
  have hy : ys ≠ [] := fun hy => hx (List.perm_nil.mp (hy ▸ h))
  cases ht : m.etype with
  | int t => rw [contributed_add_int ht hx, contributed_add_int ht hy, (h.map fun x => t.decode x.1).sum_eq]
  | float t => rw [contributed_add_float ht hx, contributed_add_float ht hy, sumVals_perm m.rnd (h.map fun x => t.decode m.ftz x.1)]
  | sl fb =>
    have hsl : ∀ zs : List (Nat × Bool), zs ≠ [] → contributed .add m zs = slCombine fb zs := fun zs hz => by simp [contributed, ht, hz]
    rw [hsl xs hx, hsl ys hy, slCombine_perm fb h]

theorem bitFold_perm {op : RedOp} (hop : op ∈ [RedOp.and, .or, .xor]) (w : Nat) {xs ys : List Nat} (h : xs.Perm ys) :
    bitFold op w xs = bitFold op w ys := by
  have : RightCommutative Nat.land := ⟨fun a b c => by change a &&& b &&& c = a &&& c &&& b; ac_rfl⟩
  have : RightCommutative Nat.lor := ⟨fun a b c => by change a ||| b ||| c = a ||| c ||| b; ac_rfl⟩
  have : RightCommutative Nat.xor := ⟨fun a b c => by change a ^^^ b ^^^ c = a ^^^ c ^^^ b; ac_rfl⟩
  simp only [List.mem_cons, List.not_mem_nil, or_false] at hop
  rcases hop with rfl | rfl | rfl <;> exact h.foldl_eq _

/-- Sums and bit operations do not depend on the order of their contributions. -/
theorem contributed_perm {op : RedOp} (hop : op ∈ [RedOp.add, .and, .or, .xor]) (m : Mode) {xs ys : List (Nat × Bool)} (h : xs.Perm ys) :
    contributed op m xs = contributed op m ys := by
  by_cases hx : xs = []
  · subst hx
    rw [h.nil_eq]
  · have hy : ys ≠ [] := fun hy => hx (List.perm_nil.mp (hy ▸ h))
    rcases List.mem_cons.mp hop with rfl | hop
    · exact contributed_add_perm m hx h
    · rw [contributed_bits hx hop, contributed_bits hy hop, bitFold_perm hop _ (h.map Prod.fst)]

/-! ## No contributions (log entry 34) -/

theorem contributed_nil (op : RedOp) (m : Mode) : contributed op m [] = (redIdentity op m.etype, 0) := rfl

/-- The identities of sums and of bit operations. -/
theorem contributed_nil_bits (m : Mode) : contributed .add m [] = (0, 0) ∧ contributed .or m [] = (0, 0) ∧ contributed .xor m [] = (0, 0)
    ∧ contributed .and m [] = (2 ^ m.etype.width - 1, 0) := by
  simp only [contributed_nil]
  cases m.etype <;> exact ⟨rfl, rfl, rfl, rfl⟩

theorem contributed_nil_int {m : Mode} {t : IntFmt} (h : m.etype = .int t) :
    contributed .min m [] = ((intHeld t true (2 ^ 64)).1, 0) ∧ contributed .max m [] = ((intHeld t true (-2 ^ 64)).1, 0) := by
  have hw : t.w ≤ 64 := width_le_of_noSl (m := m) (by rw [h]; rfl)
  rw [contributed_nil, contributed_nil, h, intHeld_above hw, intHeld_below hw]
  exact ⟨rfl, rfl⟩

theorem contributed_nil_float {m : Mode} {t : FloatFmt} (h : m.etype = .float t) :
    contributed .min m [] = (if t.e4 then 0x7E else t.infPat, 0)
      ∧ contributed .max m [] = (if t.e4 then 0xFE else 2 ^ (t.w - 1) + t.infPat, 0) := by
  rw [contributed_nil, contributed_nil, h]
  exact ⟨rfl, rfl⟩

theorem contributed_nil_sl {m : Mode} {fb : Nat} (h : m.etype = .sl fb) :
    contributed .min m [] = (2 ^ (fb + 3) - 1, 0) ∧ contributed .max m [] = (2 ^ (fb + 4) + (2 ^ (fb + 3) - 1), 0) := by
  rw [contributed_nil, contributed_nil, h]
  exact ⟨rfl, rfl⟩

/-! ## The statement -/

/-- The encodings that 09 R233 works out: two, a half and minus two, and e as an fp32. -/
theorem encodeSl_two : encodeSl 27 (Val.ofInt 2) = (0x0D8B90C0, 0) ∧ encodeSl 27 (.fin ⟨1, 2⟩) = (0x4D8B90C0, 0)
    ∧ encodeSl 27 (Val.ofInt (-2)) = (0x8D8B90C0, 0) ∧ encodeSl 11 (Val.ofInt 2) = (0x0D8C, 0) ∧ encodeSl 11 (.fin ⟨1, 2⟩) = (0x4D8C, 0)
    ∧ encodeSl 11 (Val.ofInt (-2)) = (0x8D8C, 0) := by
  decide +kernel

theorem slToFloat_e : slToFloat 27 0x10000000 fp32 0 false false = (0x402DF854, fNX) := by decide +kernel

/-- A set of DZ and LX, by its bits. -/
theorem lane_flags (p q : Prop) [Decidable p] [Decidable q] : let f : FlagSet := (if p then fDZ else 0) ||| if q then fLX else 0
    f.getLsbD 0 = false ∧ (f.getLsbD 1 = true ↔ p) ∧ (f.getLsbD 5 = true ↔ q) ∧ f &&& ~~~(fIV ||| fDZ ||| fLX) = 0 := by
  by_cases hp : p <;> by_cases hq : q <;> simp [hp, hq, fIV, fDZ, fLX]

section lane
variable {fb pa pb : Nat}

/-- The flags of LIARITH on numbers: DZ for a division by zero, and LX by the levels (13 R310). -/
theorem liArith_flags (hfb : fb ≤ 27) (op : SlOp) (hx : decodeSl fb pa ≠ .nan) (hy : decodeSl fb pb ≠ .nan)
    (h : ¬(op = .div ∧ slPlace (decodeSl fb pa) = 0 ∧ slPlace (decodeSl fb pb) = 0)) :
    ((liArith op fb pa pb).2.getLsbD 5 = true ↔ slLevel fb (liArith op fb pa pb).1 ≠ max (slLevel fb pa) (slLevel fb pb))
      ∧ (liArith op fb pa pb).2.getLsbD 0 = false
      ∧ ((liArith op fb pa pb).2.getLsbD 1 = true ↔ op = .div ∧ slPlace (decodeSl fb pb) = 0) := by
  have hzero : ∀ {v : SlVal}, v.Valid fb → v ≠ .nan → (v.isZero = true ↔ slPlace v = 0) := by
    intro v hv hn
    rw [slPlace_eq_zero_iff hfb hv hn]
    cases v <;> simp [SlVal.isZero]
  have hzx := hzero (decodeSl_valid fb pa) hx
  have hzy := hzero (decodeSl_valid fb pb) hy
  rw [liArith_eq hx hy (by rwa [hzx, hzy]), ← hzy]
  obtain ⟨h0, h1, h5, -⟩ := lane_flags (op = .div ∧ (decodeSl fb pb).isZero = true)
    (slLevel fb (slResult op fb (decodeSl fb pa) (decodeSl fb pb)) ≠ max (slLevel fb pa) (slLevel fb pb))
  exact ⟨h5, h0, h1⟩

theorem liArith_fst {op : SlOp} {x y : SlVal} (hx : decodeSl fb pa = x) (hy : decodeSl fb pb = y) (hxn : x ≠ .nan) (hyn : y ≠ .nan)
    (h : op ≠ .div ∨ x.isZero = false ∨ y.isZero = false) : (liArith op fb pa pb).1 = slResult op fb x y := by
  subst hx hy
  rw [liArith_eq hxn hyn]
  rintro ⟨h1, h2, h3⟩
  simp [h1, h2, h3] at h

/-- No operation raises another flag. -/
theorem liArith_flags_within (op : SlOp) : (liArith op fb pa pb).2 &&& ~~~(fIV ||| fDZ ||| fLX) = 0 := by
  by_cases hn : decodeSl fb pa = .nan ∨ decodeSl fb pb = .nan
  · rw [liArith_of_nan hn]
    exact BitVec.zero_and
  obtain ⟨hx, hy⟩ := not_or.mp hn
  by_cases hz : op = .div ∧ (decodeSl fb pa).isZero = true ∧ (decodeSl fb pb).isZero = true
  · obtain ⟨rfl, h1, h2⟩ := hz
    cases hv : decodeSl fb pa with
    | nan => exact absurd hv hx
    | fin => rw [hv] at h1; cases h1
    | zero m =>
      cases hw : decodeSl fb pb with
      | nan => exact absurd hw hy
      | fin => rw [hw] at h2; cases h2
      | zero n =>
        rw [liArith_zero_by_zero hv hw]
        change fIV &&& ~~~(fIV ||| fDZ ||| fLX) = 0
        decide
  · rw [liArith_eq hx hy hz]
    obtain ⟨-, -, -, hwithin⟩ := lane_flags (op = .div ∧ (decodeSl fb pb).isZero = true)
      (slLevel fb (slResult op fb (decodeSl fb pa) (decodeSl fb pb)) ≠ max (slLevel fb pa) (slLevel fb pb))
    exact hwithin

end lane

/-- Settles O25: the operands are read by their fields, the cases of LIARITH follow the kinds of its operands, and a sum depends on its terms
through their balance and their greatest alone. -/
theorem levelIndexAndReductionResults : Obligations.LevelIndexAndReductionResults := by
  unfold Obligations.LevelIndexAndReductionResults
  obtain ⟨c1, c2, c3, c4, c5, c6⟩ := encodeSl_two
  refine ⟨fun fb pa pb hfb _ _ => ?_, fun fb => ⟨fun g => rfl, fun n => rfl, fun n => rfl, encodeSl_one fb⟩, c1, c2, c3, c4, c5, c6, slToFloat_e,
    fun op m xs ys hop h => contributed_perm hop m h, fun m => ?_⟩
  · have hle : fb ≤ 27 := by omega
    have hpos : 0 < fb := by omega
    have hx := decodeSl_valid fb pa
    have hy := decodeSl_valid fb pb
    refine ⟨decodeSl_eq_slValue fb pa, decodeSl_pattern hpos hx, decodeSl_pattern hpos hx.negate,
      fun hxn hyn => ⟨SlVal.lt_iff hle hx hy hxn hyn, SlVal.eqv_iff hle hx hy hxn hyn⟩,
      fun op => ⟨fun hn => liArith_of_nan hn op, liArith_flags_within op, fun hxn hyn h => liArith_flags hle op hxn hyn h⟩,
      fun m n hm hn => ?_, fun m t n hm hn => ?_, fun m n t hm hn => ?_, fun m n t hm hn => ?_, fun m n t hm hn => ?_,
      fun m n s t hm hn hs ht hsum => ?_,
      fun t rnd sat ftz ht => ⟨fun h => slToFloat_nan rnd sat h t ftz, fun n => ⟨fun h => slToFloat_zero rnd sat h t ftz,
        fun h => slToFloat_one rnd sat h ht ftz⟩⟩,
      fun t rnd sat => ⟨fun h => slToInt_nan rnd sat h t, fun n => ⟨fun h => slToInt_zero rnd sat h t, fun h => slToInt_one rnd sat h t⟩⟩⟩
    · have hres := fun op (h : op ≠ SlOp.div) => liArith_fst (op := op) hm hn (by simp) (by simp) (.inl h)
      obtain ⟨r1, r2, r3⟩ := slResult_zeros fb m n
      exact ⟨liArith_zero_by_zero hm hn, (hres .mul (by simp)).trans r1, (hres .add (by simp)).trans r2, (hres .sub (by simp)).trans r3⟩
    · have hres := fun op => liArith_fst (op := op) hm hn (by simp) (by simp) (.inr (.inl rfl))
      obtain ⟨r1, r2, r3, r4⟩ := slResult_fin_zero fb m n t
      refine ⟨(hres .div).trans r1, (hres .mul).trans r2, (hres .add).trans (r3.trans ?_), (hres .sub).trans (r4.trans ?_)⟩ <;> rw [hm] <;> rfl
    · have hres := fun op => liArith_fst (op := op) hm hn (by simp) (by simp) (.inr (.inr rfl))
      obtain ⟨r1, r2, r3, r4⟩ := slResult_zero_fin fb m n t
      refine ⟨(hres .div).trans r1, (hres .mul).trans r2, (hres .add).trans (r3.trans ?_), (hres .sub).trans (r4.trans ?_)⟩ <;> rw [hn] <;> rfl
    · have hres := fun op => liArith_fst (op := op) hm hn (by simp) (by simp) (.inr (.inl rfl))
      obtain ⟨r1, r2⟩ := slResult_one fb m n t
      exact ⟨(hres .mul).trans r1, (hres .div).trans r2⟩
    · have hres := fun op => liArith_fst (op := op) hm hn (by simp) (by simp) (.inr (.inl rfl))
      rw [hm] at hx
      obtain ⟨r1, r2, r3⟩ := slResult_self fb m n t hx.2
      exact ⟨(hres .div).trans r1, fun h => (hres .sub).trans (r2 h), fun h => (hres .add).trans (r3 h)⟩
    · exact (liArith_fst hm hn (by simp) (by simp) (.inr (.inl rfl))).trans (slResult_mul_small fb m n s t hs ht hsum)
  · obtain ⟨e1, e2, e3, e4⟩ := contributed_nil_bits m
    exact ⟨e1, e2, e3, e4, fun t h => contributed_nil_int h, fun t _ h => contributed_nil_float h, fun h => contributed_nil_sl h,
      fun h => contributed_nil_sl h⟩

end Sys2Proof.Machine
end

section
/-! PROOFS. The decoder reads what the encoder writes (10 R237 to R246): the fields of a word, the rows of the opcode table, and what the decoder
accepts. -/

namespace Sys2Proof

/-! ## Fields of a word -/

/-- A word made of its fixed bits and fields at their places. -/
def spell (base : Nat) (fs : List (Nat × Nat)) : Nat := base + (fs.map fun f => f.1 * 2 ^ f.2).sum

theorem spell_nil (base : Nat) : spell base [] = base := rfl

theorem spell_cons (base v lo : Nat) (fs : List (Nat × Nat)) : spell base ((v, lo) :: fs) = base + v * 2 ^ lo + spell 0 fs := by
  simp only [spell, List.map_cons, List.sum_cons]
  omega

theorem word_eq (base : Nat) (fs : List (Nat × Nat)) : word base fs = [spell base fs] := by
  have h : ∀ b : Nat, fs.foldl (fun n f => n + f.1 * 2 ^ f.2) b = spell b fs := by
    induction fs with
    | nil => exact fun _ => rfl
    | cons f fs ih =>
      intro b
      rw [List.foldl_cons, ih, spell, spell, List.map_cons, List.sum_cons, Nat.add_assoc]
  rw [word, h]

/-- A field lies below a bit. -/
def Fits (top v lo : Nat) : Prop := lo ≤ top ∧ v < 2 ^ (top - lo)

@[simp] theorem fits_toNat {n : Nat} (x : BitVec n) {lo top : Nat} (h : lo + n ≤ top) : Fits top x.toNat lo :=
  ⟨by omega, x.isLt.trans_le (Nat.pow_le_pow_right (by decide) (by omega))⟩

/-- The fields of a word lie below a bit, in falling order and clear of one another. -/
def Below : Nat → List (Nat × Nat) → Prop
  | _, [] => True
  | top, f :: fs => Fits top f.1 f.2 ∧ Below f.2 fs

@[simp] theorem below_nil (top : Nat) : Below top [] := trivial

@[simp] theorem below_cons (top v lo : Nat) (fs : List (Nat × Nat)) : Below top ((v, lo) :: fs) ↔ Fits top v lo ∧ Below lo fs := Iff.rfl

theorem Below.lt {fs : List (Nat × Nat)} : ∀ {top : Nat}, Below top fs → spell 0 fs < 2 ^ top := by
  induction fs with
  | nil => exact fun _ => Nat.two_pow_pos _
  | cons f fs ih =>
    obtain ⟨v, lo⟩ := f
    rintro top ⟨⟨hlo, hv⟩, hfs⟩
    rw [spell_cons, Nat.zero_add]
    calc v * 2 ^ lo + spell 0 fs < v * 2 ^ lo + 2 ^ lo := Nat.add_lt_add_left (ih hfs) _
      _ = (v + 1) * 2 ^ lo := (Nat.succ_mul _ _).symm
      _ ≤ 2 ^ (top - lo) * 2 ^ lo := Nat.mul_le_mul_right _ hv
      _ = 2 ^ top := by rw [← Nat.pow_add, Nat.sub_add_cancel hlo]

/-- What is added to a word below a bit, without a carry, leaves what stands from that bit on. -/
theorem add_div_of_below {b x lo : Nat} (hb : b % 2 ^ lo = 0) (hx : x < 2 ^ lo) : (b + x) / 2 ^ lo = b / 2 ^ lo := by
  rw [← Nat.div_add_mod b (2 ^ lo), hb, Nat.add_zero, Nat.mul_add_div (Nat.two_pow_pos lo), Nat.div_eq_of_lt hx,
    Nat.mul_div_cancel_left _ (Nat.two_pow_pos lo), Nat.add_zero]

/-- A multiple of a power of two does not touch the fields below that bit. -/
theorem add_div_mod_of_dvd {b : Nat} (x : Nat) {lo m k : Nat} (hb : b % 2 ^ lo = 0) (h : m + k ≤ lo) :
    (b + x) / 2 ^ m % 2 ^ k = x / 2 ^ m % 2 ^ k := by
  obtain ⟨j, rfl⟩ := Nat.exists_eq_add_of_le h
  obtain ⟨q, rfl⟩ := Nat.dvd_of_mod_eq_zero hb
  have hq : 2 ^ (m + k + j) * q = 2 ^ m * (2 ^ k * (2 ^ j * q)) := by ring
  rw [hq, Nat.mul_add_div (Nat.two_pow_pos m), Nat.mul_add_mod]

section fields

variable {base lo m k v : Nat} {fs : List (Nat × Nat)}

theorem spell_div_mod_below (hb : base % 2 ^ lo = 0) (h : m + k ≤ lo) :
    spell base ((v, lo) :: fs) / 2 ^ m % 2 ^ k = spell 0 fs / 2 ^ m % 2 ^ k := by
  rw [spell_cons]
  exact add_div_mod_of_dvd _ (by rw [Nat.add_mul_mod_self_right, hb]) h

@[simp] theorem fld_here {n : Nat} (x : BitVec n) (hb : base % 2 ^ (lo + n) = 0) (hfs : Below lo fs) :
    fld (spell base ((x.toNat, lo) :: fs)) lo n = x := by
  have hlo : base % 2 ^ lo = 0 := Nat.mod_eq_zero_of_dvd ((Nat.pow_dvd_pow 2 (Nat.le_add_right ..)).trans (Nat.dvd_of_mod_eq_zero hb))
  refine BitVec.eq_of_toNat_eq ?_
  rw [fld, BitVec.toNat_ofNat, spell_cons, add_div_of_below (by rw [Nat.add_mul_mod_self_right, hlo]) hfs.lt, add_div_mod_of_dvd _ hb le_rfl,
    Nat.mul_div_cancel _ (Nat.two_pow_pos lo), Nat.mod_eq_of_lt x.isLt]

@[simp] theorem fld_below (hb : base % 2 ^ lo = 0) (h : m + k ≤ lo) : fld (spell base ((v, lo) :: fs)) m k = fld (spell 0 fs) m k := by
  refine BitVec.eq_of_toNat_eq ?_
  rw [fld, fld, BitVec.toNat_ofNat, BitVec.toNat_ofNat, spell_div_mod_below hb h]

@[simp] theorem bits_below (hb : base % 2 ^ lo = 0) (h : m + k ≤ lo) : bits (spell base ((v, lo) :: fs)) m k = bits (spell 0 fs) m k :=
  spell_div_mod_below hb h

/-- The fields leave the fixed bits above them. -/
theorem bits_above (hb : base % 2 ^ lo = 0) (hm : lo ≤ m) (hfs : Below lo fs) : bits (spell base fs) m k = bits base m k := by
  obtain ⟨j, rfl⟩ := Nat.exists_eq_add_of_le hm
  have hs : spell base fs = base + spell 0 fs := by simp [spell]
  rw [bits, bits, hs, Nat.pow_add, ← Nat.div_div_eq_div_mul, add_div_of_below hb hfs.lt, Nat.div_div_eq_div_mul]

@[simp] theorem bits_clear (hb : base % 2 ^ (m + k) = 0) (hfs : Below m fs) : bits (spell base fs) m k = 0 := by
  have hm : base % 2 ^ m = 0 := Nat.mod_eq_zero_of_dvd ((Nat.pow_dvd_pow 2 (Nat.le_add_right ..)).trans (Nat.dvd_of_mod_eq_zero hb))
  rw [bits_above hm le_rfl hfs, bits]
  simpa using add_div_mod_of_dvd 0 hb le_rfl

end fields

/-! ## Decoding a word -/

/-- The decoder reads an instruction from its words: from one, whatever follows it, or from two where the opcode takes a literal (R237, R245). -/
def ReadFrom (i : Instr) : List Nat → Prop
  | [w] => w < 2 ^ 32 ∧ twoWordOpcode (opcodeOf w) = false ∧ ∀ lit, decodeOp (bits w 28 4) (bits w 24 4) w lit = .ok i
  | [w, lit] => w < 2 ^ 32 ∧ lit < 2 ^ 32 ∧ twoWordOpcode (opcodeOf w) = true ∧ decodeOp (bits w 28 4) (bits w 24 4) w lit = .ok i
  | _ => False

/-- The fixed bits of a word are its opcode's alone; `two` says whether the opcode takes a literal. -/
def leads (two : Bool) (base : Nat) : Bool := base < 2 ^ 32 && base % 2 ^ 24 == 0 && twoWordOpcode (opcodeOf base) == two

section word

variable {i : Instr} {base : Nat} {fs : List (Nat × Nat)} {c : Nat → Bool} {g : Nat → Nat → Instr}

theorem spell_lt (hbase : base < 2 ^ 32) (hlow : base % 2 ^ 24 = 0) (hfs : Below 24 fs) : spell base fs < 2 ^ 32 := by
  have hs : spell base fs = base + spell 0 fs := by simp [spell]
  have : spell 0 fs < 2 ^ 24 := hfs.lt
  omega

theorem leads_iff {two : Bool} : leads two base = true ↔ base < 2 ^ 32 ∧ base % 2 ^ 24 = 0 ∧ twoWordOpcode (opcodeOf base) = two := by
  simp [leads, and_assoc]

/-- An instruction of one word, whose row of the decoder asks for `c` and gives `g`. -/
theorem readFrom_word (hi : encode i = word base fs) (hb : leads false base = true)
    (hd : ∀ w lit, decodeOp (bits base 28 4) (bits base 24 4) w lit = zeroed (c w) (g w lit))
    (hfs : Below 24 fs) (hc : c (spell base fs) = true) (hg : ∀ lit, g (spell base fs) lit = i) : ReadFrom i (encode i) := by
  obtain ⟨hbase, hlow, ht⟩ := leads_iff.mp hb
  rw [hi, word_eq]
  refine ⟨spell_lt hbase hlow hfs, ?_, fun lit => ?_⟩
  · rwa [opcodeOf, bits_above hlow le_rfl hfs]
  · rw [bits_above hlow (by decide) hfs, bits_above hlow le_rfl hfs, hd, hc, hg]; rfl

/-- An instruction of two words. -/
theorem readFrom_words {lit : W32} (hi : encode i = word base fs ++ [lit.toNat]) (hb : leads true base = true)
    (hd : ∀ w lit, decodeOp (bits base 28 4) (bits base 24 4) w lit = zeroed (c w) (g w lit))
    (hfs : Below 24 fs) (hc : c (spell base fs) = true) (hg : g (spell base fs) lit.toNat = i) : ReadFrom i (encode i) := by
  obtain ⟨hbase, hlow, ht⟩ := leads_iff.mp hb
  rw [hi, word_eq]
  refine ⟨spell_lt hbase hlow hfs, lit.isLt, ?_, ?_⟩
  · rwa [opcodeOf, bits_above hlow le_rfl hfs]
  · rw [bits_above hlow (by decide) hfs, bits_above hlow le_rfl hfs, hd, hc, hg]; rfl

theorem readFrom_word_plain (hi : encode i = word base fs) (hb : leads false base = true)
    (hd : ∀ w lit, decodeOp (bits base 28 4) (bits base 24 4) w lit = .ok (g w lit))
    (hfs : Below 24 fs) (hg : ∀ lit, g (spell base fs) lit = i) : ReadFrom i (encode i) :=
  readFrom_word (c := fun _ => true) hi hb hd hfs rfl hg

theorem readFrom_words_plain {lit : W32} (hi : encode i = word base fs ++ [lit.toNat]) (hb : leads true base = true)
    (hd : ∀ w lit, decodeOp (bits base 28 4) (bits base 24 4) w lit = .ok (g w lit))
    (hfs : Below 24 fs) (hg : g (spell base fs) lit.toNat = i) : ReadFrom i (encode i) :=
  readFrom_words (c := fun _ => true) hi hb hd hfs rfl hg

end word

/-- A literal word as a field. -/
@[simp] theorem fld_toNat {n : Nat} (x : BitVec n) : fld x.toNat 0 n = x := by simp [fld]

/-- The special functions, by their function codes (12 R300). -/
def vsfuOf (n : Nat) (d a : BitVec 8) : Except Reject Instr :=
  match n with
  | 0 => .ok (.vsfuRcp d a)
  | 1 => .ok (.vsfuRsq d a)
  | 2 => .ok (.vsfuLg2 d a)
  | 3 => .ok (.vsfuFexp d a)
  | 4 => .ok (.vsfuSin d a)
  | 5 => .ok (.vsfuCos d a)
  | 6 => .ok (.vsfuTanh d a)
  | 7 => .ok (.vsfuSigm d a)
  | _ => .error .reserved

theorem decodeOp_vsfu (w lit : Nat) : decodeOp 6 11 w lit = vsfuOf (fld w 0 8).toNat (fld w 16 8) (fld w 8 8) := by
  have h : (fld w 0 8).toNat = w % 256 := by simp [fld]
  rw [h]; rfl

/-- The function code of a VSFU stands in the low byte of its word, as a field would. -/
theorem readFrom_vsfu {i : Instr} (n d a : BitVec 8) (hi : encode i = word (0x6B000000 + n.toNat) [(d.toNat, 16), (a.toNat, 8)])
    (hd : vsfuOf n.toNat d a = .ok i) : ReadFrom i (encode i) := by
  have hlow : word (0x6B000000 + n.toNat) [(d.toNat, 16), (a.toNat, 8)] = word 0x6B000000 [(d.toNat, 16), (a.toNat, 8), (n.toNat, 0)] := by
    simp only [word_eq, spell_cons, spell_nil, List.cons.injEq, and_true]
    omega
  have hfs : Below 24 [(d.toNat, 16), (a.toNat, 8), (n.toNat, 0)] := by simp
  rw [hi, hlow, word_eq]
  refine ⟨spell_lt (by decide) (by decide) hfs, ?_, fun lit => ?_⟩
  · rw [opcodeOf, bits_above (by decide) le_rfl hfs]; rfl
  · rw [bits_above (lo := 24) (by decide) (by decide) hfs, bits_above (by decide) le_rfl hfs,
      show bits 0x6B000000 28 4 = 6 from rfl, show bits 0x6B000000 24 4 = 11 from rfl, decodeOp_vsfu, ← hd]
    simp

/-- The encoder and the decoder, row by row of the opcode table. -/
theorem readFrom_encode (i : Instr) (h : encode i ≠ []) : ReadFrom i (encode i) := by
  cases i
  case vsfuRcp d a => exact readFrom_vsfu 0 d a rfl rfl
  case vsfuRsq d a => exact readFrom_vsfu 1 d a rfl rfl
  case vsfuLg2 d a => exact readFrom_vsfu 2 d a rfl rfl
  case vsfuFexp d a => exact readFrom_vsfu 3 d a rfl rfl
  case vsfuSin d a => exact readFrom_vsfu 4 d a rfl rfl
  case vsfuCos d a => exact readFrom_vsfu 5 d a rfl rfl
  case vsfuTanh d a => exact readFrom_vsfu 6 d a rfl rfl
  case vsfuSigm d a => exact readFrom_vsfu 7 d a rfl rfl
  all_goals first
    | exact absurd rfl h
    | refine readFrom_word_plain rfl rfl (fun _ _ => rfl) ?_ ?_
    | refine readFrom_word rfl rfl (fun _ _ => rfl) ?_ ?_ ?_
    | refine readFrom_words_plain rfl rfl (fun _ _ => rfl) ?_ ?_
    | refine readFrom_words rfl rfl (fun _ _ => rfl) ?_ ?_ ?_
  all_goals simp

/-! ## Bytes -/

@[simp] theorem length_leBytes (n : Nat) : ∀ x, (leBytes n x).length = n := by
  induction n with
  | zero => exact fun _ => rfl
  | succ n ih => exact fun x => by simp [leBytes, ih]

theorem leNat_leBytes (n : Nat) : ∀ x, x < 256 ^ n → leNat (leBytes n x) = x := by
  induction n with
  | zero => exact fun x h => by simp [leBytes, leNat]; omega
  | succ n ih =>
    intro x h
    rw [leBytes, leNat, ih _ (by rw [Nat.pow_succ] at h; omega), BitVec.toNat_ofNat]
    omega

/-- Settles O6: the decoder's row gives the instruction back field by field (`readFrom_encode`), and a literal is there where the opcode takes one. -/
theorem decodeReadsBackEveryEncoding : Obligations.DecodeReadsBackEveryEncoding := by
  intro i rest h hwf
  have hr := readFrom_encode i h
  match encode i, hr with
  | [w], ⟨hw, ht, hd⟩ =>
    simp [decode, leNat_leBytes 4 w hw, wordLength, ht, decodeWords, hd, hwf]
  | [w, lit], ⟨hw, hlit, ht, hd⟩ =>
    simp [decode, leNat_leBytes 4 w hw, leNat_leBytes 4 lit hlit, wordLength, ht, decodeWords, hd, hwf]
    omega

/-! ## What the decoder accepts -/

/-- What a row of the decoder gives has words. -/
def HasWords (r : Except Reject Instr) : Prop := ∀ i, r = .ok i → encode i ≠ []

theorem hasWords_ok {i : Instr} (h : encode i ≠ []) : HasWords (.ok i) := by
  rintro _ ⟨⟩
  exact h

theorem hasWords_error (e : Reject) : HasWords (.error e) := nofun

theorem hasWords_zeroed {b : Bool} {i : Instr} (h : encode i ≠ []) : HasWords (zeroed b i) := by
  cases b
  · exact hasWords_error _
  · exact hasWords_ok h

theorem hasWords_decodeOp (row col w lit : Nat) : HasWords (decodeOp row col w lit) := by
  unfold decodeOp decodeRow0 decodeRow1 decodeRow2 decodeRow3 decodeRow4 decodeRow5 decodeRow6 decodeRow7 decodeRow8 decodeRow9
    decodeRowA decodeRowB decodeRowC
  repeat' split
  all_goals first | exact hasWords_error _ | refine hasWords_ok ?_ | refine hasWords_zeroed ?_
  all_goals exact List.cons_ne_nil _ _

theorem decodeWords_eq_ok {w lit : Nat} {i : Instr} :
    decodeWords w lit = .ok i ↔ decodeOp (bits w 28 4) (bits w 24 4) w lit = .ok i ∧ wellFormed i = true := by
  unfold decodeWords
  split
  next e he => simp [he]
  next j hj => split <;> grind

theorem wordLength_eq (w : Nat) : wordLength w = 4 ∨ wordLength w = 8 := by
  unfold wordLength
  split
  · exact .inr rfl
  · exact .inl rfl

/-- Settles O7: `decodeWords` asks for a well-formed instruction, and no row of the decoder gives an event. -/
theorem decodeAcceptsWellFormedOnly : Obligations.DecodeAcceptsWellFormedOnly := by
  intro bs i n h
  simp only [decode] at h
  split at h
  · cases h
  split at h
  · cases h
  split at h
  · cases h
  next j hj =>
    obtain ⟨rfl, rfl⟩ := Prod.mk.inj (Except.ok.inj h)
    obtain ⟨hop, hwf⟩ := decodeWords_eq_ok.mp hj
    exact ⟨hwf, hasWords_decodeOp _ _ _ _ _ hop, wordLength_eq _⟩

end Sys2Proof
end

section
/-! PROOFS. A carriage that goes on takes its lanes with it, however carriages and siding entries couple (10 R252, 08 R192); NOP, MODE, REP and
YIELD (10 R248, R252, R258, 11 R280). -/

namespace Sys2Proof.Machine
open Sys2Proof.Rules

/-! ## Moving on -/

/-- A carriage at another pc and repeat state, ready to issue there. -/
def Carriage.goneTo (k : Carriage) (next : W64 × Option Rep) : Carriage :=
  { k with pc := next.1, rep := next.2, wait := none, blocked := 0, wake := 0, bar := none, spawn := none, spawned := 0, pages := [] }

theorem moveTo_eq {c : Coach} {j : Nat} {k : Carriage} (hk : mget c.slots j = some k) (next : W64 × Option Rep) :
    moveTo c j next = settle { c with slots := mset c.slots j (k.goneTo next) } := by
  rw [moveTo, hk]; rfl

theorem moveTo_put (c : Coach) (j : Nat) (k : Carriage) (next : W64 × Option Rep) :
    moveTo { c with slots := mset c.slots j k } j next = settle { c with slots := mset c.slots j (k.goneTo next) } := by
  rw [moveTo_eq (mget_mset_self _ _ _)]
  simp only [mset_mset]

/-- Where a slot's carriage gives way to one of the same lanes, these lanes stand where that one stands, whatever couples then. -/
theorem settle_replaced {c : Coach} {j : Nat} {k n : Carriage} (hc : orderly c) (hk : mget c.slots j = some k) (hn : n.lanes = k.lanes) :
    onlyMoved c (settle { c with slots := mset c.slots j n }) ∧ orderly (settle { c with slots := mset c.slots j n })
      ∧ movedLanes c k.lanes (fun _ => some n.place) (settle { c with slots := mset c.slots j n }) := by
  refine ⟨(c.sameBut_mk _ c.siding).trans (settle_sameBut _), ?_⟩
  obtain ⟨hin, hapart⟩ := orderly_iff.mp hc
  let u : Coach := { c with slots := mset c.slots j n }
  have hold := groups_perm hin hk
  have hnew : u.groups.Perm (n.group :: c.groupsBut j) := ((mset_perm hin j n).map fun e => e.2.group).append_right _
  have hu : orderly u := orderly_iff.mpr ⟨pairwise_mset hin j _, by
    refine Apart.perm (List.pairwise_cons.mpr ?_) hnew.symm
    rw [show n.group.1 = k.group.1 from hn]
    exact List.pairwise_cons.mp (hapart.perm hold)⟩
  refine ⟨(settle_regroups u).keepsOrder hu, ?_⟩
  refine movedLanes_of_divided (g := k.group) (new := [n.group]) hc hold
    ((Regrouped.perm hnew.symm).trans (settle_regroups u (pairwise_mset hin j _)).2) (List.pairwise_singleton _ _) ?_ ?_
  · rintro g hg l hl
    rw [List.mem_singleton.mp hg] at hl
    rwa [show k.group.1 = n.group.1 from hn.symm]
  · intro l _ hl
    have hl : n.lanes.getLsbD l = true := hn ▸ hl
    simp [placeAmong, Carriage.group, hl]

theorem moveTo_moves {c : Coach} {j : Nat} {k : Carriage} (hc : orderly c) (hk : mget c.slots j = some k) (next : W64 × Option Rep) :
    onlyMoved c (moveTo c j next) ∧ orderly (moveTo c j next)
      ∧ movedLanes c k.lanes (fun _ => some (next.1, k.level, next.2)) (moveTo c j next) := by
  rw [moveTo_eq hk]
  exact settle_replaced hc hk rfl

theorem advance_eq {c : Coach} {j : Nat} {k : Carriage} (hk : mget c.slots j = some k) (len : Nat) :
    advance c j len = moveTo c j (afterInstr k len) := by
  rw [advance, hk, ← nextOf_eq_afterInstr]

/-- Settles O12: the carriage's group stands at its next place (`moveTo_moves`), and settling regroups lanes that stand together. -/
theorem instructionMovesItsCarriageOn : Obligations.InstructionMovesItsCarriageOn := by
  intro c j k len hc hk
  simp only [advance_eq hk]
  exact moveTo_moves hc hk _

/-! ## MODE (R248) -/

theorem getLsbD_modeMask (m : BitVec 6) {b : Nat} (hb : b < 16) : (modeMask m).getLsbD b = m.getLsbD (modeField b) := by
  have pick (p : Bool) (x : BitVec 16) : (if p then x else 0).getLsbD b = (p && x.getLsbD b) := by cases p <;> simp
  simp only [modeMask, BitVec.getLsbD_or, pick]
  interval_cases b <;> simp [modeField]

theorem getLsbD_newMode (old : Mode) (m : BitVec 6) (v : BitVec 16) {b : Nat} (hb : b < 16) :
    (newMode old m v).getLsbD b = if m.getLsbD (modeField b) then v.getLsbD b else old.getLsbD b := by
  rw [newMode, BitVec.getLsbD_or, BitVec.getLsbD_and, BitVec.getLsbD_and, BitVec.getLsbD_not, getLsbD_modeMask m hb]
  cases m.getLsbD (modeField b) <;> simp [hb]

/-! ## YIELD (R280) -/

/-- A carriage holds the lanes of a mask, and is not ready before a clock. -/
def Carriage.rests (m : Mask) (t : Nat) (k : Carriage) : Prop := (∀ l, m.getLsbD l = true → k.lanes.getLsbD l = true) ∧ t ≤ k.yieldUntil

section rests

variable {m : Mask} {t : Nat} {k o : Carriage}

theorem Carriage.rests.join_left (h : k.rests m t) : (k.join o).rests m t :=
  ⟨fun l hl => by simp [Carriage.join, h.1 l hl], h.2.trans (Nat.le_max_left ..)⟩

theorem Carriage.rests.join_right (h : o.rests m t) : (k.join o).rests m t :=
  ⟨fun l hl => by simp [Carriage.join, h.1 l hl], h.2.trans (Nat.le_max_right ..)⟩

/-- Among carriages that join there is one that rests: so does the joined one. -/
theorem rests_foldl_join (ns : List Carriage) : ∀ k : Carriage, (∃ n ∈ k :: ns, n.rests m t) → (ns.foldl Carriage.join k).rests m t := by
  induction ns with
  | nil => simp
  | cons n ns ih =>
    rintro k ⟨o, ho, hr⟩
    refine ih (k.join n) ?_
    rcases List.mem_cons.mp ho with rfl | ho
    · exact ⟨_, List.mem_cons_self, hr.join_left⟩
    rcases List.mem_cons.mp ho with rfl | ho
    · exact ⟨_, List.mem_cons_self, hr.join_right⟩
    · exact ⟨o, List.mem_cons_of_mem _ ho, hr⟩

theorem Carriage.rests.inSlot (h : k.rests m t) (i : Nat) : (k.inSlot i).rests m t := by
  rw [Carriage.inSlot]
  split <;> exact h

theorem coupleAt_eq_coupled {c : Coach} {j : Nat} (hk : mget c.slots j = some k) (h : c.company j k ≠ []) : coupleAt c j = c.coupled j k := by
  have hboth : ¬ ((c.mates j k).isEmpty && (c.strays j k).isEmpty) = true := by simpa [Coach.company, or_iff_not_imp_left] using h
  rw [coupleAt, hk]
  exact if_neg hboth

theorem rests_arriveJoined (c : Coach) (b : Option Nat) (j : Nat) (k : Carriage) :
    ∃ n : Carriage, (k.rests m t → n.rests m t) ∧ (arriveJoined c b j k).slots = mset c.slots j n := by
  cases b with
  | none => exact ⟨k, id, rfl⟩
  | some a => exact ⟨{ k with wait := some (.bar a), bar := some a }, id, rfl⟩

/-- A coach whose slots are in order and hold a carriage that rests. -/
def Coach.rests (m : Mask) (t : Nat) (c : Coach) : Prop := c.inOrder ∧ ∃ e ∈ c.slots, e.2.rests m t

theorem mem_mset_self {α : Type} (s : SMap α) (i : Nat) (v : α) : (i, v) ∈ mset s i v := mem_of_mget (mget_mset_self s i v)

/-- A slot that was free leaves the others as they were. -/
theorem mem_mset_of_free {α : Type} {s : SMap α} (hs : (s.map Prod.fst).Pairwise (· < ·)) {i : Nat} (hi : mget s i = none) (v : α) {e : Nat × α} (he : e ∈ s) :
    e ∈ mset s i v := by
  refine (mset_perm hs i v).mem_iff.mpr (List.mem_cons_of_mem _ ?_)
  rwa [mdel_of_mget_none hi]

theorem coupleAt_keeps_rests {c : Coach} (j : Nat) (h : c.rests m t) : (coupleAt c j).rests m t := by
  obtain ⟨hin, e, he, hr⟩ := h
  refine ⟨(coupleAt_regroups c j hin).1, ?_⟩
  cases hk : mget c.slots j with
  | none => exact ⟨e, (coupleAt_of_free hk).symm ▸ he, hr⟩
  | some k =>
    by_cases hc : c.company j k = []
    · exact ⟨e, (coupleAt_of_no_company hk hc).symm ▸ he, hr⟩
    have ha : ((c.aside j k).map Prod.fst).Pairwise (· < ·) := hin.sublist (List.Sublist.map _ List.filter_sublist)
    obtain ⟨n, hn, hslots⟩ := rests_arriveJoined (m := m) (t := t) { c with slots := c.aside j k, siding := c.others j k } (barrierOf (k :: c.company j k))
      (c.lowest j k) (((c.company j k).foldl Carriage.join k).inSlot (c.lowest j k))
    rw [coupleAt_eq_coupled hk hc, Coach.coupled, hslots]
    have joined (h : ∃ o ∈ k :: c.company j k, o.rests m t) : ∃ e ∈ mset (c.aside j k) (c.lowest j k) n, e.2.rests m t :=
      ⟨_, mem_mset_self _ _ _, hn ((rests_foldl_join _ k h).inSlot _)⟩
    rcases List.mem_cons.mp ((slots_perm_company hin hk).mem_iff.mp he) with rfl | he
    · exact joined ⟨k, List.mem_cons_self, hr⟩
    rcases List.mem_append.mp he with he | he
    · exact joined ⟨e.2, List.mem_cons_of_mem _ (List.mem_append_left _ (List.mem_map_of_mem he)), hr⟩
    · exact ⟨e, mem_mset_of_free ha (mget_aside hin j k) n he, hr⟩

theorem fillAt_keeps_rests {c : Coach} (j : Nat) (h : c.rests m t) : (fillAt c j).rests m t := by
  obtain ⟨hin, e, he, hr⟩ := h
  refine ⟨(fillAt_regroups c j hin).1, e, ?_, hr⟩
  rw [fillAt]
  split
  · next hj _ => exact mem_mset_of_free hin hj _ he
  · exact he

theorem settle_keeps_rests {c : Coach} (h : c.rests m t) : (settle c).rests m t :=
  settle_keeps (fun _ j h => coupleAt_keeps_rests j h) (fun _ j h => fillAt_keeps_rests j h) h

end rests

/-! ## NOP, MODE, REP and YIELD -/

section issued

variable {s : State} {x : Iss} (h : issuer s = some x)
include h

theorem exec_nop : exec .nop s = .next (s.setCoach x.c.key (advance x.c x.slot 4)) := byEither_issuer h _ _

theorem exec_mode (m : BitVec 6) (v : BitVec 16) :
    exec (.mode m v) s = .next (s.setCoach x.c.key (advance (setMode x.c x.k (newMode (modeOf x.c x.k) m v)) x.slot 4)) := byCarriage_issuer h _

omit h in
theorem add_eq_behind (pc : W64) (len : Nat) : pc + BitVec.ofNat 64 len = behind pc len :=
  congrArg Prod.fst (nextOf_eq_afterInstr { pc := pc, lanes := 0 } len)

theorem exec_rep (n : BitVec 6) (d a b : BitVec 1) (st : BitVec 2) :
    exec (.rep n d a b st) s = .next (s.setCoach x.c.key (moveTo x.c x.slot (behind x.k.pc 4, some (repStart n d a b st)))) := by
  rw [← add_eq_behind]
  exact byEither_issuer h _ _

theorem exec_yield : exec .yield s = .next (s.setCoach x.c.key
    (settle { x.c with slots := mset x.c.slots x.slot (Carriage.goneTo { x.k with yieldUntil := clkOf s x.c + 32 } (afterInstr x.k 4)) })) := by
  rw [← nextOf_eq_afterInstr, ← moveTo_put]
  exact byCarriage_issuer h _

end issued

/-- MODE writes the mode register of its level alone. -/
theorem setMode_writes (c : Coach) (k : Carriage) (m : Mode) :
    let w := setMode c k m
    w = { c with mode := w.mode, frames := w.frames } ∧ (k.level ≠ .U → w.mode = c.mode)
      ∧ ∀ j l, l ≠ .U → frameOf w j l = if k.level = l ∧ j = k.fslot then { frameOf c j l with mode := modeOf w k } else frameOf c j l := by
  intro w
  by_cases hu : k.level = .U
  · have hw : w = { c with mode := m } := if_pos hu
    refine ⟨by rw [hw], absurd hu, fun j l hl => ?_⟩
    have hother : ¬ (k.level = l ∧ j = k.fslot) := fun ⟨hkl, _⟩ => hl (hkl ▸ hu)
    rw [if_neg hother, hw]
    rfl
  · have hw : w = c.setFrame k.fslot k.level { frameOf c k.fslot k.level with mode := m } := if_neg hu
    refine ⟨by rw [hw]; rfl, fun _ => by rw [hw]; rfl, fun j l hl => ?_⟩
    rw [show modeOf w k = m from modeOf_setMode c k m, hw]
    split
    · next h => rw [← h.1, h.2, frameOf_setFrame_self]
    · next h => exact frameOf_setFrame_ne c _ hu hl (by tauto)

/-- Settles O19: each form's next state is one move of the carriage (`moveTo_moves`); a carriage that joins one that yields yields with it. -/
theorem nopModeRepAndYieldComplete : Obligations.NopModeRepAndYieldComplete := by
  intro s x h hc
  have hk := mget_slots_of_issuer h
  refine ⟨exec_nop h, fun m v => ?_, fun n d a b st => ?_, ?_⟩
  · obtain ⟨hw, hmode, hframes⟩ := setMode_writes x.c x.k (newMode (modeOf x.c x.k) m v)
    refine ⟨_, exec_mode h m v, fun b hb => ?_, hw, hmode, hframes⟩
    rw [modeOf_setMode, getLsbD_newMode _ m v hb]
  · obtain ⟨hm, -, hl⟩ := moveTo_moves hc hk (behind x.k.pc 4, some (repStart n d a b st))
    exact ⟨_, exec_rep h n d a b st, hm, hl⟩
  · let k : Carriage := Carriage.goneTo { x.k with yieldUntil := clkOf s x.c + 32 } (afterInstr x.k 4)
    obtain ⟨hm, -, hl⟩ := settle_replaced (n := k) hc hk rfl
    have hrest : Coach.rests x.k.lanes (clkOf s x.c + 32) { x.c with slots := mset x.c.slots x.slot k } :=
      ⟨pairwise_mset hc.1 _ _, _, mem_mset_self _ _ _, fun _ => id, le_rfl⟩
    obtain ⟨-, e, he, hlanes, ht⟩ := settle_keeps_rests hrest
    exact ⟨_, exec_yield h, hm, hl, e, he, and_eq_zero_iff.mpr fun l hl => by simp [hlanes l hl], ht⟩

end Sys2Proof.Machine
end

section
/-! PROOFS. Reserved literals of atomics and memory commands (10 R260, 14 R326, R327). -/

namespace Sys2Proof.Machine
open Sys2Proof.Rules

/-! ## Fields of a literal -/

/-- The bits of a literal word from one on are zero where the word is below that bit's weight. -/
theorem bitsOf_top_ne_zero {w : Nat} (hw : w < 2 ^ 32) {lo : Nat} (hlo : lo ≤ 31) : (bitsOf w 31 lo != 0) = decide (2 ^ lo ≤ w) := by
  have hlt : w / 2 ^ lo < 2 ^ (31 + 1 - lo) := Nat.div_lt_of_lt_mul (by rwa [← Nat.pow_add, Nat.add_sub_cancel' (by omega)])
  rw [bitsOf, Nat.mod_eq_of_lt hlt, Bool.eq_iff_iff, bne_iff_ne, decide_eq_true_iff, Nat.div_ne_zero_iff]
  exact ⟨fun h => h.2, fun h => ⟨(Nat.two_pow_pos lo).ne', h⟩⟩

theorem bitOf_toNat {n : Nat} (x : BitVec n) (k : Nat) : bitOf x.toNat k = x.getLsbD k := bitOf_eq_testBit _ _

theorem bitsOf_zero_hi (w hi : Nat) : bitsOf w hi 0 = w % 2 ^ (hi + 1) := by simp [bitsOf]

theorem atomReserved_eq (d : BitVec 8) (lit : W32) : atomReserved d lit
    = (9 < lit.toNat % 16 || (lit.toNat % 16 == 9 && lit.getLsbD 9) || 2 ^ 13 ≤ lit.toNat || (!lit.getLsbD 12 && d != 0)) := by
  have hn : ((if lit.getLsbD 9 then 64 else 32) == 64) = lit.getLsbD 9 := by cases lit.getLsbD 9 <;> rfl
  simp only [atomReserved, atomLit, bitOf_toNat, hn, bitsOf_zero_hi, bitsOf_top_ne_zero lit.isLt (lo := 13) (by decide), Nat.reducePow,
    Nat.reduceAdd]
  ac_rfl

theorem casReserved_eq (lit : W32) : casReserved lit = (lit.toNat % 16 != 0 || 2 ^ 12 ≤ lit.toNat) := by
  simp only [casReserved, bitsOf_zero_hi, bitsOf_top_ne_zero lit.isLt (lo := 12) (by decide), Nat.reducePow, Nat.reduceAdd]

theorem mredReserved_eq (lit : W32) : mredReserved lit
    = (lit.toNat / 8 % 4 == 3 || 2 ^ 14 ≤ lit.toNat || (lit.toNat / 8 % 4 != 2 && 32 ≤ lit.toNat)) := by
  have hk : bitsOf lit.toNat 4 3 = lit.toNat / 8 % 4 := rfl
  have he : bitsOf lit.toNat 13 5 = lit.toNat / 32 % 512 := rfl
  rw [mredReserved, bitsOf_top_ne_zero lit.isLt (by decide), hk, he, Bool.eq_iff_iff]
  simp only [Bool.or_eq_true, Bool.and_eq_true, beq_iff_eq, bne_iff_ne, decide_eq_true_iff]
  omega

/-! ## The trap of a reserved literal -/

/-- The trap of each lane of a mask at a reserved literal. -/
def literalTraps (k : Carriage) (m : Mask) : List LaneTrap := (lanesOf m).map fun l => { lane := l, cause := 7, addr := k.pc + 4 }

/-- Traps none of which is a page or permission fault are not reported to the host (19 R410). -/
theorem reportWaits_of_causes (s : State) (c : Coach) (k : Carriage) {ts : List LaneTrap} (h : ∀ t ∈ ts, t.cause ≠ 4 ∧ t.cause ≠ 5) :
    reportWaits s c k ts = false := by
  cases ts with
  | nil => rfl
  | cons t ts =>
    obtain ⟨h4, h5⟩ := h _ (lowestTrap_mem (List.cons_ne_nil t ts))
    simp [reportWaits, reported, h4, h5]

theorem literalTrap_of_no_lane (s : State) (x : Iss) : literalTrap s x 0 = s.setCoach x.c.key (advance x.c x.slot 8) := rfl

theorem literalTrap_of_lanes (s : State) (x : Iss) {m : Mask} (hm : m ≠ 0) :
    literalTrap s x m = takeTrap s x.c x.slot x.k (literalTraps x.k m) (afterInstr x.k 8) := by
  have hcause : ∀ t ∈ literalTraps x.k m, t.cause ≠ 4 ∧ t.cause ≠ 5 := by
    intro t ht
    obtain ⟨l, -, rfl⟩ := List.mem_map.mp ht
    exact ⟨by simp, by simp⟩
  have hne : (literalTraps x.k m).isEmpty = false := List.isEmpty_eq_false_iff.mpr (by simpa [literalTraps] using lanesOf_ne_nil hm)
  change conclude s x x.c 8 (literalTraps x.k m) = _
  rw [conclude, hne, reportWaits_of_causes s x.c x.k hcause, nextOf_eq_afterInstr]
  rfl

/-- The lanes that a reserved literal traps. -/
def literalLanes (x : Iss) : Instr → Mask
  | .satom _ _ _ _ => x.k.lanes
  | _ => activeOf x.c x.k

theorem exec_of_reservedLit {s : State} {x : Iss} (h : issuer s = some x) {i : Instr} (hi : reservedLit i = true) :
    exec i s = .next (literalTrap s x (literalLanes x i)) := by
  have top (lit : W32) {lo : Nat} (hlo : lo ≤ 31) (hl : decide (2 ^ lo ≤ lit.toNat) = true) : (bitsOf lit.toNat 31 lo != 0) = true :=
    (bitsOf_top_ne_zero lit.isLt hlo).trans hl
  cases i
  case vatom d a b lit => exact (byCarriage_issuer h _).trans (congrArg _ (if_pos ((atomReserved_eq d lit).trans hi)))
  case satom d a b lit => exact (byCarriage_issuer h _).trans (congrArg _ (if_pos ((atomReserved_eq d lit).trans hi)))
  case vcas d a b lit => exact (byCarriage_issuer h _).trans (congrArg _ (if_pos ((casReserved_eq lit).trans hi)))
  case mred a b lit => exact (byCarriage_issuer h _).trans (congrArg _ (if_pos ((mredReserved_eq lit).trans hi)))
  case mcas d a b lit => exact (byCarriage_issuer h _).trans (congrArg _ (if_pos (top lit (lo := 4) (by decide) hi)))
  case msax d a b lit => exact (byCarriage_issuer h _).trans (congrArg _ (if_pos (top lit (lo := 3) (by decide) hi)))
  case mwrm d a b lit => exact (byCarriage_issuer h _).trans (congrArg _ (if_pos (top lit (lo := 3) (by decide) hi)))
  all_goals cases hi

/-- Settles O43: each of the seven instructions tests its literal before it accesses anything (`exec_of_reservedLit`), and cause 0x07 is never
reported to the host. -/
theorem reservedLiteralsTrap : Obligations.ReservedLiteralsTrap := by
  intro i s x hi h m ts
  have hm : literalLanes x i = m := by cases i <;> rfl
  rw [exec_of_reservedLit h hi, hm]
  refine ⟨fun h0 => ?_, fun h0 => ?_⟩
  · rw [h0, literalTrap_of_no_lane]
  · rw [literalTrap_of_lanes s x h0]; rfl

end Sys2Proof.Machine
end

section
/-! PROOFS. WAIT, WAITC and WAITG: their ends, their blocks, and the traps of covered errors (10 R255 to R257, 14 R328, 05 R129). -/

namespace Sys2Proof.Machine
open Sys2Proof.Rules

/-! ## Conditions of waits -/

theorem mem_lanesOf {m : Mask} {l : Nat} : l ∈ lanesOf m ↔ l < 32 ∧ m.getLsbD l = true := by
  simp [lanesOf, laneNums, and_comm]

theorem countOf_eq (c : Coach) (k : Counter) : countOf c k = (c.ops.filter fun o => o.counter = k).length := by
  simp only [countOf, beq_eq_decide]

/-- The count of a counter is within a field of a WAIT; a field of 63 is none (R255). -/
def within (c : Coach) (k : Counter) (n : Nat) : Prop := n = 63 ∨ (c.ops.filter fun o => o.counter = k).length ≤ n

theorem within_iff (c : Coach) (k : Counter) (n : Nat) : (n == 63 || countOf c k ≤ n) = true ↔ within c k n := by
  simp only [within, countOf_eq, Bool.or_eq_true, beq_iff_eq, decide_eq_true_iff]

theorem waitMet_iff {c : Coach} {l st cp t : Nat} : waitMet c l st cp t = true ↔
    within c .ld l ∧ within c .st st ∧ within c .cp cp ∧ within c .tl t := by
  simp only [waitMet, Bool.and_eq_true, within_iff, and_assoc]

theorem within_toNat (c : Coach) (k : Counter) (f : BitVec 6) :
    within c k f.toNat ↔ f = 63 ∨ (c.ops.filter fun o => o.counter = k).length ≤ f.toNat :=
  or_congr_left ⟨fun h => BitVec.eq_of_toNat_eq h, fun h => h ▸ rfl⟩

theorem cartsDone_iff (c : Coach) (n : Nat) : cartsDone c n = true ↔ ∀ o ∈ c.ops, o.counter = .cp → o.cart ≤ n → c.cart ≤ o.cart := by
  simp [cartsDone, and_imp]

theorem tagsFree_iff (c : Coach) (m : BitVec 8) : tagsFree c m = true ↔
    ∀ t, t < 8 → m.getLsbD t = true → (c.ops.filter fun o => o.counter = .tag t).length = 0 := by
  simp [tagsFree, tagBusy, List.filter_eq_nil_iff, imp_iff_not_or]

/-! ## Covered errors -/

/-- A lane of a carriage has a pending error that a wait covers (R256). -/
def erring (c : Coach) (k : Carriage) (v : Covers) : Prop :=
  ∃ l, l < 32 ∧ k.lanes.getLsbD l = true ∧ ∃ e, mget c.pend l = some e ∧ v.covers e = true

/-- The lanes of a carriage that have errors covered by a wait. -/
def erringLanes (c : Coach) (k : Carriage) (v : Covers) : List Nat := (lanesOf k.lanes).filter fun l => (mget c.pend l).any v.covers

/-- The traps of their pending errors. -/
def pendTraps (c : Coach) (ls : List Nat) : List LaneTrap := ls.filterMap fun l => (mget c.pend l).map fun e => e.trap l

theorem coveredTraps_eq (c : Coach) (k : Carriage) (v : Covers) : coveredTraps c k v = pendTraps c (erringLanes c k v) := by
  rw [coveredTraps, pendTraps, erringLanes, List.filterMap_filter]
  refine List.filterMap_congr fun l _ => ?_
  cases mget c.pend l with
  | none => rfl
  | some e => simp

theorem pend_of_mem_erringLanes {c : Coach} {k : Carriage} {v : Covers} {l : Nat} (h : l ∈ erringLanes c k v) : ∃ e, mget c.pend l = some e := by
  obtain ⟨-, h⟩ := List.mem_filter.mp h
  cases hp : mget c.pend l with
  | none => simp [hp] at h
  | some e => exact ⟨e, rfl⟩

theorem erringLanes_eq_nil_iff {c : Coach} {k : Carriage} {v : Covers} : erringLanes c k v = [] ↔ ¬ erring c k v := by
  simp only [erringLanes, List.filter_eq_nil_iff, mem_lanesOf, erring, Option.any_eq_true]
  exact ⟨fun h ⟨l, hl, hk, he⟩ => h l ⟨hl, hk⟩ he, fun h l ⟨hl, hk⟩ he => h ⟨l, hl, hk, he⟩⟩

theorem map_lane_pendTraps {c : Coach} {ls : List Nat} (h : ∀ l ∈ ls, ∃ e, mget c.pend l = some e) : (pendTraps c ls).map LaneTrap.lane = ls := by
  induction ls with
  | nil => rfl
  | cons l ls ih =>
    obtain ⟨⟨e, he⟩, hls⟩ := List.forall_mem_cons.mp h
    have htail := ih hls
    simp only [pendTraps] at htail ⊢
    rw [List.filterMap_cons, he]
    simpa [PendErr.trap] using htail

/-! ## The release of failed copies (05 R129) -/

/-- A failed copy of a coach's lanes that take traps for it. -/
def freedBy (c : Coach) (ls : List Nat) (y : Copy) : Bool :=
  y.phase == 4 && (match y.issuer with
    | some (key, _) => key == c.key
    | none => false) && (lanesOf y.lanes).any fun l => ls.contains l && ((mget c.pend l).bind PendErr.copy).isSome

theorem consume_eq (s : State) (c : Coach) (ls : List Nat) : consume s c ls
    = ((s.copies.filter (freedBy c ls)).foldl releaseCopy s, { c with pend := c.pend.filter fun e => !ls.contains e.1 }) := rfl

theorem freedBy_iff (c : Coach) (ls : List Nat) (y : Copy) : freedBy c ls y = true ↔ y.phase = 4 ∧ (∃ n, y.issuer = some (c.key, n))
    ∧ ∃ l ∈ ls, l < 32 ∧ y.lanes.getLsbD l = true ∧ ∃ e, mget c.pend l = some e ∧ e.copy ≠ none := by
  have hissuer : (match y.issuer with
      | some (key, _) => key == c.key
      | none => false) = true ↔ ∃ n, y.issuer = some (c.key, n) := by
    cases y.issuer with
    | none => simp
    | some p => obtain ⟨key, n⟩ := p; simp
  have hhit (l : Nat) : ((mget c.pend l).bind PendErr.copy).isSome = true ↔ ∃ e, mget c.pend l = some e ∧ e.copy ≠ none := by
    cases mget c.pend l with
    | none => simp
    | some e => simp [Option.isSome_iff_ne_none]
  simp only [freedBy, Bool.and_eq_true, beq_iff_eq, hissuer, List.any_eq_true, mem_lanesOf, List.contains_iff_mem, hhit, and_assoc]
  refine and_congr_right fun _ => and_congr_right fun _ => exists_congr fun l => ?_
  exact ⟨fun ⟨h32, hl, hls, he⟩ => ⟨hls, h32, hl, he⟩, fun ⟨hls, h32, hl, he⟩ => ⟨h32, hl, hls, he⟩⟩

/-- Copies and trains alone differ. -/
theorem foldl_releaseCopy_eq (ys : List Copy) : ∀ s : State, let u := ys.foldl releaseCopy s
    u = { s with copies := u.copies, trains := u.trains } := by
  induction ys with
  | nil => exact fun _ => rfl
  | cons y ys ih =>
    intro s u
    exact (ih (releaseCopy s y)).trans rfl

theorem mem_copies_foldl_releaseCopy (ys : List Copy) : ∀ (s : State) (z : Copy),
    z ∈ (ys.foldl releaseCopy s).copies ↔ z ∈ s.copies ∧ ∀ y ∈ ys, z.id ≠ y.id := by
  induction ys with
  | nil => simp
  | cons y ys ih =>
    intro s z
    rw [List.foldl_cons, ih]
    simp [releaseCopy, and_assoc]

/-- The count of a channel of a train, where the train is there (05 R119). -/
def chanCount (s : State) (tr ch : Nat) : Option Nat := (trainOf s tr).map fun t => ((mget t.chans ch).getD {}).count

/-- The train of a released copy, with the channel's count at the copy's end and the copy out of its queue. -/
def Train.released (y : Copy) (t : Train) : Train :=
  let ch := (mget t.chans y.chan).getD {}
  { t with chans := mset t.chans y.chan { ch with count := y.base + y.total, queue := ch.queue.erase y.id } }

theorem released_id (y : Copy) (t : Train) : (t.released y).id = t.id := rfl

theorem trainOf_releaseCopy (s : State) (y : Copy) (n : Nat) : trainOf (releaseCopy s y) n = trainOf (s.setTrain y.train (Train.released y)) n := rfl

/-- An update of one record leaves what is found of others. -/
theorem find?_updFirst_ne {α : Type} {p q : α → Bool} {f : α → α} (hp : ∀ a, p (f a) = p a) (h : ∀ a, q a = true → p a = false) (l : List α) :
    (updFirst q f l).find? p = l.find? p := by
  induction l with
  | nil => rfl
  | cons a l ih =>
    by_cases hq : q a = true
    · simp [updFirst, hq, hp, h a hq]
    · simp [updFirst, hq, List.find?_cons, ih]

theorem trainOf_setTrain_ne (s : State) {id n : Nat} (f : Train → Train) (hf : ∀ t, (f t).id = t.id) (h : n ≠ id) :
    trainOf (s.setTrain id f) n = trainOf s n :=
  find?_updFirst_ne (p := fun t : Train => t.id == n) (fun t => congrArg (· == n) (hf t))
    (fun t ht => by simpa [beq_iff_eq.mp ht] using h.symm) s.trains

theorem chanCount_releaseCopy_self {s : State} {y : Copy} {n : Nat} (h : chanCount s y.train y.chan = some n) :
    chanCount (releaseCopy s y) y.train y.chan = some (y.base + y.total) := by
  obtain ⟨t, ht, -⟩ := Option.map_eq_some_iff.mp h
  rw [chanCount, trainOf_releaseCopy, trainOf_setTrain_self _ _ _ (released_id y), ht]
  simp [Train.released, mget_mset_self]

theorem chanCount_releaseCopy_ne {s : State} {y : Copy} {tr ch : Nat} (h : ¬ (y.train = tr ∧ y.chan = ch)) :
    chanCount (releaseCopy s y) tr ch = chanCount s tr ch := by
  rw [chanCount, trainOf_releaseCopy]
  by_cases ht : tr = y.train
  · have hch : ch ≠ y.chan := fun hc => h ⟨ht.symm, hc.symm⟩
    rw [ht, trainOf_setTrain_self _ _ _ (released_id y), Option.map_map, chanCount]
    simp [Function.comp_def, Train.released, mget_mset_ne _ _ hch]
  · rw [trainOf_setTrain_ne _ _ (released_id y) ht]; rfl

/-- Where one released copy alone is a channel's, the count of the channel moves to its end. -/
theorem chanCount_foldl_releaseCopy {y : Copy} (ys : List Copy) : ∀ s : State,
    (∀ z ∈ ys, z.train = y.train → z.chan = y.chan → z = y) → ∀ n, chanCount s y.train y.chan = some n →
      y ∈ ys ∨ n = y.base + y.total → chanCount (ys.foldl releaseCopy s) y.train y.chan = some (y.base + y.total) := by
  induction ys with
  | nil => rintro s - n hn (h | rfl); exacts [absurd h List.not_mem_nil, hn]
  | cons z ys ih =>
    intro s hone n hn hy
    obtain ⟨hz, hone⟩ := List.forall_mem_cons.mp hone
    by_cases hzy : z.train = y.train ∧ z.chan = y.chan
    · rw [hz hzy.1 hzy.2]
      exact ih _ hone _ (chanCount_releaseCopy_self hn) (.inr rfl)
    · refine ih _ hone n ((chanCount_releaseCopy_ne hzy).trans hn) (hy.imp_left fun hy => ?_)
      rcases List.mem_cons.mp hy with rfl | hy
      · exact absurd ⟨rfl, rfl⟩ hzy
      · exact hy

theorem copiesReleased_consume (s : State) (c : Coach) (ls : List Nat) : copiesReleased s (consume s c ls).1 c ls := by
  rw [consume_eq]
  refine ⟨foldl_releaseCopy_eq _ s, fun z => ?_, fun y hy hf hone t ht => ?_⟩
  · simp only [mem_copies_foldl_releaseCopy, List.mem_filter, freedBy_iff, and_imp]
  · have hmem : y ∈ s.copies.filter (freedBy c ls) := List.mem_filter.mpr ⟨hy, (freedBy_iff c ls y).mpr hf⟩
    have hall : ∀ z ∈ s.copies.filter (freedBy c ls), z.train = y.train → z.chan = y.chan → z = y := fun z hz =>
      hone z (List.mem_filter.mp hz).1 ((freedBy_iff c ls z).mp (List.mem_filter.mp hz).2)
    exact Option.map_eq_some_iff.mp (chanCount_foldl_releaseCopy _ s hall _ (congrArg _ ht) (.inl hmem))

/-! ## The end of a wait -/

theorem consume_nil (s : State) (c : Coach) : consume s c [] = (s, c) := by
  have hnone : s.copies.filter (freedBy c []) = [] := List.filter_eq_nil_iff.mpr fun y _ => by simp [freedBy]
  rw [consume_eq, hnone]
  simp

theorem proceed_clean {s : State} {x : Iss} {v : Covers} (h : ¬ erring x.c x.k v) : proceed s x v = retire s x x.c 4 := by
  have hts : coveredTraps x.c x.k v = [] := by rw [coveredTraps_eq, erringLanes_eq_nil_iff.mpr h]; rfl
  simp [proceed, hts, consume_nil, reportWaits]

section issued

variable {s : State} {x : Iss} (h : issuer s = some x)
include h

theorem exec_wait (l st c t : BitVec 6) : exec (.wait l st c t) s = .next (waitStep s x l.toNat st.toNat c.toNat t.toNat) := byCarriage_issuer h _
theorem exec_waitc (a : BitVec 8) : exec (.waitc a) s = .next (waitcStep s x (readS x.c x.k a.toNat).toNat) := byCarriage_issuer h _
theorem exec_waitg (m : BitVec 8) : exec (.waitg m) s = .next (waitgStep s x m) := byCarriage_issuer h _

/-- A wait ends where its condition holds and it covers no error, and blocks where its condition does not hold. -/
theorem ends_or_blocks {i : Instr} {b : Bool} {met : Prop} (v : Covers) (w : Wait) (hb : b = true ↔ met)
    (hi : exec i s = .next (if b then proceed s x v else stall s x w)) :
    (met → ¬ erring x.c x.k v → exec i s = .next (s.setCoach x.c.key (advance x.c x.slot 4)))
      ∧ (¬met → exec i s = .next (s.setCoach x.c.key { x.c with slots := mset x.c.slots x.slot { x.k with wait := some w } })) := by
  refine ⟨fun hm he => ?_, fun hm => ?_⟩
  · rw [hi, if_pos (hb.mpr hm), proceed_clean he]; rfl
  · rw [hi, if_neg fun h' => hm (hb.mp h'), stall_issuer h]

end issued

/-- Settles O29: the three conditions are those of the model (`waitMet_iff`, `cartsDone_iff`, `tagsFree_iff`), and without a covered error
nothing traps. -/
theorem waitsEndOrBlock : Obligations.WaitsEndOrBlock := by
  intro s x h
  refine ⟨fun l st c t => ?_, fun a => ?_, fun m => ?_⟩
  · exact ends_or_blocks h _ _ (waitMet_iff.trans (by simp only [within_toNat])) (exec_wait h l st c t)
  · exact ends_or_blocks h _ _ (cartsDone_iff x.c _) (exec_waitc h a)
  · exact ends_or_blocks h _ _ (tagsFree_iff x.c m) (exec_waitg h m)

/-- The traps of a wait's covered errors are taken once the errors are gone and the failed copies released. -/
theorem proceed_of_reported {s : State} {x : Iss} {v : Covers} {bad : List Nat} {ts : List LaneTrap} (hcov : coveredTraps x.c x.k v = ts)
    (hlanes : ts.map LaneTrap.lane = bad) (hne : ts ≠ []) (hr : reportWaits s x.c x.k ts = false) :
    proceed s x v = takeTrap (consume s x.c bad).1 { x.c with pend := x.c.pend.filter fun e => e.1 ∉ bad } x.slot x.k ts (afterInstr x.k 4) := by
  obtain ⟨hu, -⟩ := copiesReleased_consume s x.c bad
  have hr' : reportWaits (consume s x.c bad).1 x.c x.k ts = false := by rw [hu]; exact hr
  have hpend : (x.c.pend.filter fun e => !bad.contains e.1) = x.c.pend.filter fun e => e.1 ∉ bad := List.filter_congr fun e _ => by simp
  rw [proceed, hcov, hr, hlanes, ← hpend, ← nextOf_eq_afterInstr]
  change conclude (consume s x.c bad).1 x _ 4 ts = _
  rw [conclude, List.isEmpty_eq_false_iff.mpr hne, hr']
  rfl

theorem proceed_trapping {s : State} {x : Iss} (h : issuer s = some x) {v : Covers} (hne : erringLanes x.c x.k v ≠ []) :
    let bad := erringLanes x.c x.k v
    let ts := pendTraps x.c bad
    (reportWaits s x.c x.k ts = true →
        proceed s x v = s.setCoach x.c.key { x.c with slots := mset x.c.slots x.slot { x.k with wait := some .report } })
      ∧ (reportWaits s x.c x.k ts = false → ∃ u, copiesReleased s u x.c bad
        ∧ proceed s x v = takeTrap u { x.c with pend := x.c.pend.filter fun e => e.1 ∉ bad } x.slot x.k ts (afterInstr x.k 4)) := by
  intro bad ts
  have hlanes : ts.map LaneTrap.lane = bad := map_lane_pendTraps fun l hl => pend_of_mem_erringLanes hl
  have hts : ts ≠ [] := fun h0 => hne (hlanes.symm.trans (by rw [h0]; rfl))
  refine ⟨fun hr => ?_, fun hr => ⟨_, copiesReleased_consume s x.c bad, proceed_of_reported (coveredTraps_eq ..) hlanes hts hr⟩⟩
  rw [proceed, coveredTraps_eq, if_pos hr, stall_issuer h]

theorem exec_trapping {s : State} {x : Iss} (h : issuer s = some x) {v : Covers} {i : Instr} {b : Bool} {t : State}
    (hi : exec i s = .next (if b then proceed s x v else t)) (hb : b = true) (hne : erringLanes x.c x.k v ≠ []) :
    let bad := erringLanes x.c x.k v
    let ts := pendTraps x.c bad
    (reportWaits s x.c x.k ts = true →
        exec i s = .next (s.setCoach x.c.key { x.c with slots := mset x.c.slots x.slot { x.k with wait := some .report } }))
      ∧ (reportWaits s x.c x.k ts = false → ∃ u, copiesReleased s u x.c bad
        ∧ exec i s = .next (takeTrap u { x.c with pend := x.c.pend.filter fun e => e.1 ∉ bad } x.slot x.k ts (afterInstr x.k 4))) := by
  rw [hi, if_pos hb]
  obtain ⟨hwait, htrap⟩ := proceed_trapping h hne
  refine ⟨fun hr => congrArg _ (hwait hr), fun hr => ?_⟩
  obtain ⟨u, hu, ht⟩ := htrap hr
  exact ⟨u, hu, congrArg _ ht⟩

/-- Settles O30: the end of a wait traps the lanes whose errors it covers (`proceed_trapping`), and releases their failed copies
(`copiesReleased_consume`). -/
theorem coveredErrorsTrapAtTheWait : Obligations.CoveredErrorsTrapAtTheWait := by
  intro s x h
  exact ⟨fun l st c t hm hne => exec_trapping h (exec_wait h l st c t) hm hne, fun a hm hne => exec_trapping h (exec_waitc h a) hm hne,
    fun m hm hne => exec_trapping h (exec_waitg h m) hm hne⟩

end Sys2Proof.Machine
end

section
/-! PROOFS. Events that end the waits of carriages: WAIT, SLEEP, YIELD, demotion, FENCE, SCOPEW and the nest bit (10 R255 to R257, 11 R280, R281,
08 R193, 14 R325, 16 R367, R370). -/

namespace Sys2Proof.Machine
open Sys2Proof.Rules

/-! ## Waiting carriages -/

section waiting

variable {s : State} {r : SlotRef} {c : Coach} {k : Carriage} (hc : coachOf s r.key = some c) (hk : mget c.slots r.slot = some k)
include hc hk

theorem whenWaiting_eq {w : Wait} (hw : k.wait = some w) (hcan : c.canIssue = true) (f : Iss → Wait → State) :
    whenWaiting s r f = f { c := c, slot := r.slot, k := k } w := by
  simp only [whenWaiting, hc, hk, hw, hcan, if_true]

variable (hkey : c.key = r.key)
include hkey

omit hc hk in
/-- A wait of a waiting carriage that has ended, and covers no error. -/
theorem proceed_on {v : Covers} (he : ¬ erring c k v) :
    proceed s { c := c, slot := r.slot, k := k } v = s.setCoach r.key (advance c r.slot 4) := by
  rw [proceed_clean he, retire, hkey]

theorem exec_waitConditionMet {l st cp t : Nat} (hcan : c.canIssue = true) (hw : k.wait = some (.wait l st cp t)) (hm : waitMet c l st cp t = true)
    (he : ¬ erring c k (waitCovers l st cp)) : exec (.waitConditionMet r) s = .next (s.setCoach r.key (advance c r.slot 4)) := by
  change Host.Outcome.next (whenWaiting s r _) = _
  rw [whenWaiting_eq hc hk hw hcan, ← proceed_on hkey he]
  exact congrArg _ (if_pos hm)

theorem exec_waitcConditionMet {n : Nat} (hcan : c.canIssue = true) (hw : k.wait = some (.waitc n)) (hm : cartsDone c n = true)
    (he : ¬ erring c k (waitcCovers c n)) : exec (.waitcConditionMet r) s = .next (s.setCoach r.key (advance c r.slot 4)) := by
  change Host.Outcome.next (whenWaiting s r _) = _
  rw [whenWaiting_eq hc hk hw hcan, ← proceed_on hkey he]
  exact congrArg _ (if_pos hm)

theorem exec_waitgConditionMet {m : BitVec 8} (hcan : c.canIssue = true) (hw : k.wait = some (.waitg m)) (hm : tagsFree c m = true)
    (he : ¬ erring c k { tags := m }) : exec (.waitgConditionMet r) s = .next (s.setCoach r.key (advance c r.slot 4)) := by
  change Host.Outcome.next (whenWaiting s r _) = _
  rw [whenWaiting_eq hc hk hw hcan, ← proceed_on hkey he]
  exact congrArg _ (if_pos hm)

theorem exec_sleepWake (hcan : c.canIssue = true) (hw : k.wait = some .sleep) (ht : k.wake ≤ (chassisOf s c.ch).clk) :
    exec (.sleepWake r) s = .next (s.setCoach r.key (advance c r.slot 4)) := by
  change Host.Outcome.next (whenWaiting s r _) = _
  rw [whenWaiting_eq hc hk hw hcan, ← hkey]
  exact congrArg _ (if_pos ht)

omit hkey

theorem exec_yieldExpire (ht : k.yieldUntil ≤ (chassisOf s c.ch).clk) :
    exec (.yieldExpire r) s = .next (s.setCoach r.key { c with slots := mset c.slots r.slot { k with yieldUntil := 0 } }) := by
  change Host.Outcome.next (yieldStep s r) = _
  simp only [yieldStep, hc, hk, clkOf, ht, if_true]

theorem exec_carriageDemote (hb : 16 ≤ k.blocked) (hp : k.promoted = 0 ∨ k.promoted + 16 ≤ (chassisOf s c.ch).clk)
    (he : ∃ e ∈ c.siding, e.held = none) :
    exec (.carriageDemote r) s = .next (s.setCoach r.key (demote c r.slot (chassisOf s c.ch).clk)) := by
  have hd : demotable s c k = true := by
    have hp : k.promoted = 0 ∨ k.promoted + 16 ≤ clkOf s c := hp
    simpa [demotable, hb, hp] using he
  change Host.Outcome.next (demoteStep s r) = _
  simp only [demoteStep, hc, hk, hd, if_true, clkOf]

/-- The end of a coach's only FENCE, at which a slot's carriage waits. -/
theorem exec_fenceConditionMet {f : FenceRec} (hw : k.wait = some .fence) (hf : c.fences = [f]) (hm : fenceMet s c f = true)
    (hl : k.lanes &&& ~~~f.lanes = 0) : exec (.fenceConditionMet r) s
      = .next ((if f.wide then l1Acquire s c.gcore else s).setCoach r.key (advance { c with fences := [] } r.slot 4)) := by
  have hwait : (mget c.slots r.slot).any (fenceWaiter f) = true := by simp [hk, fenceWaiter, hw, hl]
  have hdue : fenceDue s c r.slot = some f := by simp [fenceDue, hf, hm, hwait]
  change Host.Outcome.next (fenceEnd s r) = _
  simp only [fenceEnd, hc, hdue, hwait, if_true, hf, List.erase_cons_head]

end waiting

/-! ## SCOPEW (R370) -/

/-- A scope entry is written on a chassis. -/
def State.putScope (key : Nat) (m : BitVec 256) (s : State) (d : Nat) : State :=
  s.setChassis d { chassisOf s d with scopes := mset (chassisOf s d).scopes key m }

theorem chassisOf_foldl_putScope (key : Nat) (m : BitVec 256) (ds : List Nat) : ∀ (s : State) (d : Nat),
    chassisOf (ds.foldl (State.putScope key m) s) d
      = if d ∈ ds then { chassisOf s d with scopes := mset (chassisOf s d).scopes key m } else chassisOf s d := by
  induction ds with
  | nil => exact fun s d => rfl
  | cons e ds ih =>
    intro s d
    rw [List.foldl_cons, ih, State.putScope, chassisOf_setChassis]
    by_cases hd : d = e
    · simp [hd, mset_mset]
    · simp [hd]

theorem foldl_putScope_eq (key : Nat) (m : BitVec 256) (ds : List Nat) : ∀ s : State,
    ds.foldl (State.putScope key m) s = { s with chassis := (ds.foldl (State.putScope key m) s).chassis } := by
  induction ds with
  | nil => exact fun _ => rfl
  | cons d ds ih => exact fun s => (ih (s.putScope key m d)).trans rfl

/-- The end of a coach's only SCOPEW, for which a slot's carriage waits. -/
theorem exec_scopewComplete {s : State} {r : SlotRef} {c : Coach} {k : Carriage} {n : Nat} {w : ScopeWrite} (hc : coachOf s r.key = some c)
    (hk : mget c.slots r.slot = some k) (hw : k.wait = some (.scopew n)) (hs : c.scopews = [w]) (hdone : w.done = false) (hof : w.of k = true)
    (hb : scopeBefore s c w = false) (hr : scopeReaches s c = true) :
    exec (.scopewComplete r) s = .next ((dies.foldl (State.putScope (scopeKey c.vmid.toNat c.pasid.toNat w.n) w.mask) s).setCoach r.key
      (advance { c with scopews := [] } r.slot 4)) := by
  have hwait : scopeWaiter w k = true := by simp [scopeWaiter, hof, hw]
  have hdue : scopeDue s c r.slot = some w := by simp [scopeDue, hs, hdone, hb, hk, hwait]
  change Host.Outcome.next (completeScope s r) = _
  simp only [completeScope, hc, hr, hdue, hk, hwait, hs, if_true, List.erase_cons_head]
  rfl

/-! ## The nest bit (R367) -/

theorem exec_svStatusNestWrite {s : State} {r : SlotRef} {c : Coach} {k : Carriage} (hc : coachOf s r.key = some c)
    (hk : mget c.slots r.slot = some k) {hyp : Bool} (hx : k.level = if hyp then .H else .S) :
    exec (.svStatusNestWrite r hyp) s = .next (s.setCoach r.key (rearm c k.fslot (if hyp then .H else .S))) := by
  change Host.Outcome.next (nestStep s r hyp) = _
  simp only [nestStep, hc, hk]
  exact congrArg _ (if_pos hx)

/-- What re-arming does to the frames of a coach: to the one frame, and nothing else. -/
theorem rearm_frames (c : Coach) (i : Nat) {x : Level} (hx : x ≠ .U) :
    let f := frameOf c i x
    rearm c i x = { c with frames := (rearm c i x).frames }
      ∧ frameOf (rearm c i x) i x = (if f.busy = true ∧ f.rearmed = false ∧ f.depth < 7 then
          { f with rearmed := true, depth := f.depth + 1, traps := mset f.traps (f.depth + 1) 0 } else f)
      ∧ ∀ j y, y ≠ .U → (j ≠ i ∨ y ≠ x) → frameOf (rearm c i x) j y = frameOf c j y := by
  intro f
  have hcond : (f.busy && !f.rearmed && f.depth < 7) = true ↔ f.busy = true ∧ f.rearmed = false ∧ f.depth < 7 := by
    simp [and_assoc]
  by_cases h : f.busy = true ∧ f.rearmed = false ∧ f.depth < 7
  · rw [show rearm c i x = c.setFrame i x { f with rearmed := true, depth := f.depth + 1, traps := mset f.traps (f.depth + 1) 0 } from
      if_pos (hcond.mpr h), if_pos h]
    exact ⟨rfl, frameOf_setFrame_self .., fun j y hy hj => frameOf_setFrame_ne c _ hx hy hj⟩
  · rw [show rearm c i x = c from if_neg fun h' => h (hcond.mp h'), if_neg h]
    exact ⟨rfl, rfl, fun _ _ _ _ => rfl⟩

end Sys2Proof.Machine
end

section
/-! PROOFS. A fetch that fails: what it changes of the machine before the trap is taken (19 R409 to R411, 03 R71, R84). -/

namespace Sys2Proof.Machine
open Sys2Proof.Rules

/-! ## What leaving the units changes -/

theorem Bus.without_of_not_holds {b : Bus} {who : Requester} (h : b.holds who = false) : b.without who = b := by
  rw [Bus.without, h, if_neg Bool.false_ne_true]

theorem Chassis.left_of_not_holds {c : Chassis} {who : Requester} (h : ∀ b ∈ c.buses, b.2.holds who = false) : c.left who = c := by
  have hmap : (c.buses.map fun b => (b.1, b.2.without who)) = c.buses :=
    (List.map_congr_left fun b hb => by rw [Bus.without_of_not_holds (h b hb)]; rfl).trans (List.map_id _)
  rw [Chassis.left, hmap]

/-- A step that is over leaves the units of every chassis. -/
theorem leaveUnits_eq_map (s : State) (who : Requester) :
    leaveUnits s who = { s with chassis := s.chassis.map fun c => (c.1, c.2.left who) } := by
  unfold leaveUnits
  split
  · rfl
  · next h =>
    simp only [List.any_eq_true, not_exists, not_and, Bool.not_eq_true] at h
    have hmap : (s.chassis.map fun c => (c.1, c.2.left who)) = s.chassis :=
      (List.map_congr_left fun c hc => by rw [Chassis.left_of_not_holds (h c hc)]; rfl).trans (List.map_id _)
    rw [hmap]

theorem chassisOf_leaveUnits (s : State) (who : Requester) (d : Nat) : chassisOf (leaveUnits s who) d = (chassisOf s d).left who := by
  rw [leaveUnits_eq_map]
  simp only [chassisOf, mget_map (Chassis.left who)]
  cases mget s.chassis d <;> rfl

theorem keepsCaches_leaveUnits (s : State) (who : Requester) : KeepsCaches s (leaveUnits s who) :=
  ⟨leaveUnits_chassis s who, fun d => by rw [chassisOf_leaveUnits]; rfl⟩

/-- What decides whether a trap's report to the host must wait (R411) is alike: who serves the chassis, and the store of events. -/
structure ReportsAlike (s u : State) : Prop where
  func : ∀ d, (chassisOf u d).func = (chassisOf s d).func
  duty : ∀ d, (chassisOf u d).duty = (chassisOf s d).duty
  outbound : ∀ d, (chassisOf u d).outbound = (chassisOf s d).outbound

theorem reportsAlike_leaveUnits (s : State) (who : Requester) : ReportsAlike s (leaveUnits s who) := by
  refine ⟨fun d => ?_, fun d => ?_, fun d => ?_⟩ <;> rw [chassisOf_leaveUnits] <;> rfl

theorem ReportsAlike.reportWaits {s u : State} (h : ReportsAlike s u) (c : Coach) (k : Carriage) (ts : List LaneTrap) :
    reportWaits u c k ts = reportWaits s c k ts := by
  have howner : ownerOf u = ownerOf s := funext fun d => by rw [ownerOf, ownerOf, h.func]
  have hserved : hostServed u c.ch = hostServed s c.ch := by simp only [hostServed, dutyOf, partitionOf, howner, h.duty]
  rw [Machine.reportWaits, Machine.reportWaits, reported, reported, hserved, h.outbound]

/-! ## What an error log changes -/

/-- Nothing but the chassis and the events that have left for the host. -/
def OnlyLogged (s u : State) : Prop :=
  u = { s with chassis := u.chassis, hostWrites := u.hostWrites, evqTail := u.evqTail, msix := u.msix }

theorem OnlyLogged.trans {s t u : State} (h : OnlyLogged s t) (g : OnlyLogged t u) : OnlyLogged s u := by
  unfold OnlyLogged at *
  rw [g, h]

theorem KeepsCaches.onlyLogged {s u : State} (h : KeepsCaches s u) : OnlyLogged s u := by
  unfold OnlyLogged
  rw [h.rest]

theorem onlyLogged_setChassis (s : State) (d : Nat) (c : Chassis) : OnlyLogged s (s.setChassis d c) := rfl

theorem onlyLogged_sendEvent (s : State) (e : HostEvent) : OnlyLogged s (sendEvent s e) := by
  unfold sendEvent
  dsimp only
  split
  · rfl
  · split <;> rfl

theorem onlyLogged_logError (s : State) (wa kind : Nat) : OnlyLogged s (logError s wa kind) := by
  unfold logError
  dsimp only
  split
  · exact (onlyLogged_setChassis s _ _).trans (onlyLogged_sendEvent ..)
  · rfl

theorem onlyLogged_logFetch (s : State) (q : Asker) (pc : W64) (cause : Nat) : OnlyLogged s (logFetch s q pc cause) := by
  unfold logFetch
  split
  · split
    · extract_lets wa
      split
      · exact onlyLogged_logError ..
      · split
        · exact onlyLogged_logError ..
        · rfl
    · rfl
  · rfl

/-- A fetch that meets no data error and no lost bus logs nothing. -/
theorem logFetch_eq_self (s : State) (q : Asker) (pc : W64) {cause : Nat} (h20 : cause ≠ 0x20) (h21 : cause ≠ 0x21) : logFetch s q pc cause = s := by
  unfold logFetch
  split
  · split
    · simp [h20, h21]
    · rfl
  · rfl

/-! ## FETCH_FAULT -/

/-- The machine as a failed fetch of a slot's carriage leaves it, before its trap. -/
def failedFetch (s : State) (r : SlotRef) (c : Coach) (k : Carriage) (cause : Nat) : State :=
  forget (logFetch (leaveUnits s (.turn (.issue r))) (askerOf c r.slot k) k.pc cause) c.gcore (c.key, r.slot, k.pc)

section fault

variable (s : State) (r : SlotRef) (c : Coach) (k : Carriage) (cause : Nat)

theorem onlyLogged_failedFetch : OnlyLogged s (failedFetch s r c k cause) :=
  ((keepsCaches_leaveUnits s _).onlyLogged.trans (onlyLogged_logFetch ..)).trans (KeepsCaches.forget ..).onlyLogged

theorem onlyIssued_failedFetch {cause : Nat} (h20 : cause ≠ 0x20) (h21 : cause ≠ 0x21) : onlyIssued s (failedFetch s r c k cause) := by
  rw [failedFetch, logFetch_eq_self _ _ _ h20 h21]
  exact ((keepsCaches_leaveUnits s _).trans (KeepsCaches.forget ..)).onlyIssued

/-- Whether the trap's report must wait is as before the fetch: where the fetch has logged an event, its cause is never reported. -/
theorem reportWaits_logFetch (q : Asker) (pc : W64) {ts : List LaneTrap} (hts : ∀ t ∈ ts, t.cause = cause) (hr : reportWaits s c k ts = false) :
    reportWaits (logFetch (leaveUnits s (.turn (.issue r))) q pc cause) c k ts = false := by
  by_cases h : cause = 0x20 ∨ cause = 0x21
  · refine reportWaits_of_causes _ _ _ fun t ht => ?_
    rw [hts t ht]
    omega
  · obtain ⟨h20, h21⟩ := not_or.mp h
    rw [logFetch_eq_self _ _ _ h20 h21, (reportsAlike_leaveUnits s _).reportWaits, hr]

end fault

theorem exec_fetchFault {s : State} {r : SlotRef} {c : Coach} {k : Carriage} {t : LaneTrap} (hc : coachOf s r.key = some c)
    (hk : mget c.slots r.slot = some k) (hcan : c.canIssue = true) (hopen : slotOpen s c.ch = true) (hfree : slotFree s c = true)
    (hable : choosable s c k = true) (hnow : chosenNow s c r.slot k = true)
    (hf : fetchOf (atHead s (heads s (.turn (.issue r)))) c r.slot k = .fault t)
    (hr : reportWaits s c k ((lanesOf k.lanes).map fun l => { t with lane := l }) = false) :
    exec (.fetchFault r) s = .next (takeTrap (failedFetch s r c k t.cause) { c with slots := mset c.slots r.slot { k with rep := none } } r.slot
      { k with rep := none } ((lanesOf k.lanes).map fun l => { t with lane := l }) (k.pc, none)) := by
  have hts : ∀ u ∈ (lanesOf k.lanes).map fun l => { t with lane := l }, u.cause = t.cause := by
    intro u hu
    obtain ⟨l, -, rfl⟩ := List.mem_map.mp hu
    rfl
  have hr' := reportWaits_logFetch s r c k t.cause (askerOf c r.slot k) k.pc hts hr
  change Host.Outcome.next (fetchFaultStep s r) = _
  simp only [fetchFaultStep, hc, hk, hcan, hopen, hfree, hable, hnow, Bool.and_self, Bool.not_true, Bool.false_eq_true, if_false, hf, hr']
  rfl

end Sys2Proof.Machine
end

section
/-! PROOFS. The end of an EXIT's wait: its lanes leave their carriages, and with the last of them the coach ends (11 R279, 08 R195). -/

namespace Sys2Proof.Machine
open Sys2Proof.Rules

/-! ## Removing lanes -/

/-- Groups without some lanes; one that has no others is gone. -/
def groupsWithout (m : Mask) (gs : List (Mask × Place)) : List (Mask × Place) :=
  (gs.map fun g => (g.1 &&& ~~~m, g.2)).filter fun g => g.1 != 0

theorem groups_removeLanes (c : Coach) (m : Mask) : (removeLanes c m).groups = groupsWithout m c.groups := by
  simp only [Coach.groups, removeLanes, groupsWithout, List.map_append, List.filter_append, List.filter_map, List.map_map, Function.comp_def]
  rfl

theorem placeAmong_cons (g : Mask × Place) (gs : List (Mask × Place)) (l : Nat) :
    placeAmong (g :: gs) l = if g.1.getLsbD l then some g.2 else placeAmong gs l := by
  rw [placeAmong, List.find?_cons]
  cases g.1.getLsbD l <;> rfl

theorem placeAmong_groupsWithout (m : Mask) (gs : List (Mask × Place)) (l : Nat) :
    placeAmong (groupsWithout m gs) l = if m.getLsbD l then none else placeAmong gs l := by
  induction gs with
  | nil => simp [groupsWithout, placeAmong]
  | cons g gs ih =>
    have hg := getLsbD_without g.1 m l
    rw [placeAmong_cons]
    rw [groupsWithout] at ih ⊢
    rw [List.map_cons, List.filter_cons]
    split
    · rw [placeAmong_cons, ih, hg]
      cases g.1.getLsbD l <;> cases m.getLsbD l <;> rfl
    · next h0 =>
      have h0 : g.1 &&& ~~~m = 0 := by simpa using h0
      rw [h0] at hg
      rw [ih]
      cases hgl : g.1.getLsbD l <;> cases hml : m.getLsbD l <;> simp [hgl, hml] at hg ⊢

theorem apart_groupsWithout {gs : List (Mask × Place)} (h : Apart gs) (m : Mask) : Apart (groupsWithout m gs) := by
  refine List.Pairwise.filter _ ?_
  refine List.Pairwise.map _ (fun a b hab => ?_) h
  refine and_eq_zero_iff.mpr fun l hl => ?_
  rw [getLsbD_without, Bool.and_eq_true] at hl
  rw [getLsbD_without, not_both_lanes hab hl.1]
  rfl

theorem inOrder_removeLanes {c : Coach} (h : c.inOrder) (m : Mask) : (removeLanes c m).inOrder := by
  have hs : ((c.slots.map fun e => (e.1, { e.2 with lanes := e.2.lanes &&& ~~~m })).filter fun e => e.2.lanes != 0).map Prod.fst
      |>.Sublist (c.slots.map Prod.fst) := by
    simpa [Function.comp_def] using (List.filter_sublist (l := c.slots.map fun e => (e.1, { e.2 with lanes := e.2.lanes &&& ~~~m }))).map Prod.fst
  exact h.sublist hs

/-! ## The coach after an EXIT -/

/-- A coach some of whose lanes have left, before it settles. -/
def Coach.without (c : Coach) (m : Mask) : Coach := freeQueues { removeLanes c m with exited := c.exited ||| m }

theorem exitLanes_eq (c : Coach) (m : Mask) : exitLanes c m = settle (c.without m) := rfl

theorem exitLanes_exited (c : Coach) (m : Mask) : (exitLanes c m).exited = c.exited ||| m := congrArg Coach.exited (settle_sameBut (c.without m))

theorem sameBut_of_onlyMoved_without {c w : Coach} {m : Mask} (h : onlyMoved (c.without m) w) :
    w = { c with slots := w.slots, siding := w.siding, exited := w.exited, ports := w.ports, arrived := w.arrived, hold := w.hold } := by
  unfold onlyMoved at h
  rw [h]; rfl

theorem onlyMoved_exitLanes (c : Coach) (m : Mask) : onlyMoved (c.without m) (exitLanes c m) := settle_sameBut (c.without m)

theorem movedLanes_exitLanes {c : Coach} (hc : orderly c) (m : Mask) : movedLanes c m (fun _ => none) (exitLanes c m) := by
  obtain ⟨hin, hapart⟩ := orderly_iff.mp hc
  have hgroups : (c.without m).groups = groupsWithout m c.groups := groups_removeLanes c m
  have hw : orderly (c.without m) := orderly_iff.mpr ⟨inOrder_removeLanes hin m, hgroups ▸ apart_groupsWithout hapart m⟩
  intro l _
  rw [exitLanes_eq, (settle_regroups _).keepsLane hw, laneAt_eq, hgroups, placeAmong_groupsWithout, laneAt_eq]

/-! ## EXIT_WAIT_END -/

section exit

variable {s : State} {r : SlotRef} {c : Coach} {k : Carriage}

theorem exitMet_of_idle (h : ∀ o ∈ c.ops, o.counter = .none) : exitMet c = true := by
  have hcount (n : Counter) (hn : n ≠ .none) : (c.ops.filter fun o => o.counter = n).length = 0 := by
    rw [List.length_eq_zero_iff, List.filter_eq_nil_iff]
    intro o ho
    simpa [h o ho] using hn.symm
  rw [exitMet, Bool.and_eq_true, waitMet_iff, tagsFree_iff]
  refine ⟨⟨?_, ?_, ?_, ?_⟩, fun t _ _ => hcount _ (by simp)⟩ <;> exact .inr (hcount _ (by simp)).le

theorem exitTraps_of_clean (hpend : ∀ l, l < 32 → k.lanes.getLsbD l = true → mget c.pend l = none) (hports : ∀ e ∈ c.ports, e.2.faults = []) :
    (lanesOf k.lanes).filterMap (exitTrap c) = [] := by
  have hwrite (l : Nat) : oldestFailedWrite c l = none := by
    have hnone : c.ports.filterMap (fun e => (failedWrite e.2 l).map fun f => (e.1, f.2)) = [] :=
      List.filterMap_eq_nil_iff.mpr fun e he => by simp [failedWrite, hports e he]
    rw [oldestFailedWrite, hnone]
    rfl
  refine List.filterMap_eq_nil_iff.mpr fun l hl => ?_
  obtain ⟨h32, hl⟩ := mem_lanesOf.mp hl
  rw [exitTrap, hpend l h32 hl, hwrite l]

theorem exec_exitWaitEnd (hc : coachOf s r.key = some c) (hkey : c.key = r.key) (hk : mget c.slots r.slot = some k) (hcan : c.canIssue = true)
    (hw : k.wait = some .exit) (hu : k.level = .U) (hops : ∀ o ∈ c.ops, o.counter = .none)
    (hpend : ∀ l, l < 32 → k.lanes.getLsbD l = true → mget c.pend l = none) (hports : ∀ e ∈ c.ports, e.2.faults = []) :
    exec (.exitWaitEnd r) s = .next (checkCoach (s.setCoach r.key (exitLanes c k.lanes)) r.key) := by
  have hts := exitTraps_of_clean hpend hports
  have hlanes : k.lanes &&& ~~~maskOf [] = k.lanes := BitVec.and_allOnes
  change Host.Outcome.next (whenWaiting s r _) = _
  rw [whenWaiting_eq hc hk hw hcan]
  simp only [exitStep, hu, ne_eq, not_true_eq_false, if_false, exitMet_of_idle hops, if_true, exitEnd, hts, reportWaits, List.isEmpty_nil,
    Bool.not_true, Bool.false_and, Bool.false_eq_true, List.map_nil, consume_nil, hlanes, exitFrom, List.flatMap_nil]
  rw [← hkey]
  rfl

end exit

/-! ## The last lanes of a coach -/

/-- A train counts one coach less (08 R204). -/
def Train.oneLess (t : Train) : Train := { t with left := t.left - 1 }

theorem oneLess_id (t : Train) : t.oneLess.id = t.id := rfl

theorem checkTrain_unfinished {s : State} {id : Nat} {t : Train} (ht : trainOf s id = some t) (hl : t.left ≠ 0) : checkTrain s id = s := by
  simp [checkTrain, ht, hl]

/-- A coach whose lanes have all exited, and which has nothing outstanding, ends: of its train, which has others, one is gone. -/
theorem checkCoach_over {s : State} {key : Nat} {w : Coach} {t : Train} (hw : coachOf s key = some w) (hex : w.exited = BitVec.allOnes 32)
    (hops : w.ops = []) (hyard : w.yard = false) (hgone : w.gone = false) (houtr : w.outr.live = false ∨ w.outr.ended = true)
    (ht : trainOf s w.train = some t) (hleft : 2 ≤ t.left) :
    let u := checkCoach s key
    u = { s with coaches := mdel s.coaches key, trains := u.trains, launches := u.launches } ∧ trainOf u w.train = some t.oneLess := by
  have hover : coachOver w = true := by simp [coachOver, hex, hops]
  have hdone : outriderDone w = true := by rcases houtr with h | h <;> simp [outriderDone, hops, h]
  let v : State := State.setLaunch { s with coaches := mdel s.coaches key } w.launch fun l =>
    { l with covers := mset l.covers w.gcore (max ((mget l.covers w.gcore).getD 0) w.last) }
  have hv : trainOf (v.setTrain w.train Train.oneLess) w.train = some t.oneLess := by
    rw [trainOf_setTrain_self _ _ _ oneLess_id]
    exact congrArg _ ht
  have hu : checkCoach s key = v.setTrain w.train Train.oneLess := by
    have hend := checkTrain_unfinished hv (by rw [Train.oneLess]; dsimp only; omega)
    simp only [checkCoach, hw, hover, hgone, hdone, Bool.not_true, Bool.false_eq_true, if_false, if_true, releaseRecords, hyard]
    exact hend
  rw [hu]
  exact ⟨rfl, hv⟩

end Sys2Proof.Machine
end

section
/-! PROOFS. A barrier lets every coach of its train go: the departures, and the acquire of the train's cores (16 R372, 06 R153, 04 R97). -/

namespace Sys2Proof.Machine
open Sys2Proof.Rules

/-! ## The acquire -/

/-- The L1 of a core holds owned lines alone. -/
def OwnedOnly (s : State) (g : Nat) : Prop := ∀ ln l, l1Line s g ln = some l → l.owned = true

theorem ownedOnly_l1Acquire_self (s : State) (g : Nat) : OwnedOnly (l1Acquire s g) g := by
  intro ln l h
  rw [l1Line, l1Acquire, coreG_setCoreG, if_pos rfl] at h
  exact (List.mem_filter.mp (mem_of_mget h)).2

theorem OwnedOnly.l1Acquire {s : State} {g : Nat} (h : OwnedOnly s g) (j : Nat) : OwnedOnly (l1Acquire s j) g := by
  by_cases hj : g = j
  · rw [hj]; exact ownedOnly_l1Acquire_self s j
  · intro ln l hl
    rw [l1Line, Machine.l1Acquire, coreG_setCoreG, if_neg hj] at hl
    exact h ln l hl

/-- The cores of a train acquire. -/
def acquireAll (ch : Nat) (cores : List Nat) (s : State) : State := cores.foldl (fun s k => l1Acquire s (16 * ch + k)) s

theorem acquireAll_eq (ch : Nat) (cores : List Nat) : ∀ s : State, acquireAll ch cores s = { s with chassis := (acquireAll ch cores s).chassis } := by
  induction cores with
  | nil => exact fun _ => rfl
  | cons k cores ih => exact fun s => (ih (l1Acquire s (16 * ch + k))).trans rfl

theorem ownedOnly_acquireAll (ch : Nat) (cores : List Nat) : ∀ (s : State) (g : Nat),
    (OwnedOnly s g ∨ ∃ k ∈ cores, g = 16 * ch + k) → OwnedOnly (acquireAll ch cores s) g := by
  induction cores with
  | nil => rintro s g (h | ⟨k, hk, -⟩); exacts [h, absurd hk List.not_mem_nil]
  | cons k cores ih =>
    rintro s g (h | ⟨j, hj, rfl⟩)
    · exact ih _ g (.inl (h.l1Acquire _))
    · rcases List.mem_cons.mp hj with rfl | hj
      · exact ih _ _ (.inl (ownedOnly_l1Acquire_self s _))
      · exact ih _ _ (.inr ⟨j, hj, rfl⟩)

/-! ## What a coach waits for at its departure -/

/-- The barriers at which lanes of a coach wait are of a set, and the arrivals at others are those of `A`. -/
structure Coach.barsIn (B : Nat → Prop) (A : RMap 32) (c : Coach) : Prop where
  slots : ∀ e ∈ c.slots, ∀ m, e.2.bar = some m → B m
  siding : ∀ y ∈ c.siding, ∀ m, y.bar = some m → B m
  arrived : ∀ m, ¬ B m → rget c.arrived m = rget A m

theorem bar_foldl_join (ns : List Carriage) : ∀ (k : Carriage) (m : Nat), (ns.foldl Carriage.join k).bar = some m → k.bar = some m := by
  induction ns with
  | nil => exact fun _ _ => id
  | cons n ns ih => exact fun k m h => absurd (ih (k.join n) m h) (by simp [Carriage.join])

theorem bar_inSlot (k : Carriage) (i : Nat) : (k.inSlot i).bar = k.bar := by
  rw [Carriage.inSlot]
  split <;> rfl

section bars

variable {B : Nat → Prop} {A : RMap 32} {c : Coach}

theorem barsIn_arriveJoined (h : c.barsIn B A) {b : Option Nat} (hb : ∀ m, b = some m → B m) (j : Nat) {k : Carriage}
    (hk : ∀ m, k.bar = some m → B m) : (arriveJoined c b j k).barsIn B A := by
  cases b with
  | none =>
    refine ⟨fun e he => ?_, h.siding, h.arrived⟩
    rcases mem_mset he with rfl | he
    · exact hk
    · exact h.slots e he
  | some a =>
    refine ⟨fun e he m hm => ?_, h.siding, fun m hm => ?_⟩
    · rcases mem_mset he with rfl | he
      · exact hb m hm
      · exact h.slots e he m hm
    · have hne : m ≠ a := fun hma => hm (hb m (hma ▸ rfl))
      exact (rget_mset ..).trans ((if_neg hne).trans (h.arrived m hm))

theorem barsIn_company (h : c.barsIn B A) {j : Nat} {k : Carriage} (hk : mget c.slots j = some k) :
    ∀ n ∈ k :: c.company j k, ∀ m, n.bar = some m → B m := by
  intro n hn
  rcases List.mem_cons.mp hn with rfl | hn
  · exact h.slots _ (mem_of_mget hk)
  rcases List.mem_append.mp hn with hn | hn <;> obtain ⟨e, he, rfl⟩ := List.mem_map.mp hn
  · exact h.slots e (List.mem_filter.mp he).1
  · exact h.siding e (List.mem_filter.mp he).1

theorem coupleAt_keeps_barsIn (h : c.barsIn B A) (j : Nat) : (coupleAt c j).barsIn B A := by
  cases hk : mget c.slots j with
  | none => rw [coupleAt_of_free hk]; exact h
  | some k =>
    by_cases hc : c.company j k = []
    · rw [coupleAt_of_no_company hk hc]; exact h
    rw [coupleAt_eq_coupled hk hc, Coach.coupled]
    have hall := barsIn_company h hk
    have haside : ∀ e ∈ c.aside j k, e ∈ c.slots := fun e he => List.mem_of_mem_filter he
    have hothers : ∀ y ∈ c.others j k, y ∈ c.siding := fun y hy => List.mem_of_mem_filter hy
    have hrest : Coach.barsIn B A { c with slots := c.aside j k, siding := c.others j k } :=
      ⟨fun e he => h.slots e (haside e he), fun y hy => h.siding y (hothers y hy), h.arrived⟩
    refine barsIn_arriveJoined hrest (fun m hm => ?_) _ fun m hm => ?_
    · obtain ⟨n, hn, hm⟩ := List.exists_of_findSome?_eq_some hm
      exact hall n hn m hm
    · exact hall k List.mem_cons_self m (bar_foldl_join _ k m (bar_inSlot _ _ ▸ hm))

theorem fillAt_keeps_barsIn (h : c.barsIn B A) (j : Nat) : (fillAt c j).barsIn B A := by
  rcases fillAt_cases c j with hs | ⟨e, he, -, hs⟩ <;> rw [hs]
  · exact h
  · refine ⟨fun x hx => ?_, fun y hy => h.siding y (List.mem_of_mem_erase hy), h.arrived⟩
    rcases mem_mset hx with rfl | hx
    · exact h.siding e he
    · exact h.slots x hx

theorem settle_keeps_barsIn (h : c.barsIn B A) : (settle c).barsIn B A :=
  settle_keeps (P := Coach.barsIn B A) (fun _ j h => coupleAt_keeps_barsIn h j) (fun _ j h => fillAt_keeps_barsIn h j) h

end bars

/-! ## The departure of a coach -/

/-- A coach whose carriages, entries and frames have departed from a barrier, before it settles. -/
def Coach.letGo (c : Coach) (n : Nat) : Coach :=
  { c with
    arrived := mdel c.arrived n
    slots := c.slots.map fun e => (e.1, e.2.depart n)
    siding := c.siding.map (SidingEntry.depart n)
    frames := c.frames.map fun e => (e.1, e.2.depart n) }

theorem departCoach_eq (c : Coach) (n : Nat) : departCoach c n = settle (c.letGo n) := rfl

theorem rget_mdel {w : Nat} (m : RMap w) (k j : Nat) : rget (mdel m k) j = if j = k then 0 else rget m j := by
  simp only [rget, mget_mdel]
  split <;> rfl

/-- A carriage departs from the barrier that it waits at. -/
theorem depart_group (n : Nat) (k : Carriage) :
    (k.depart n).group = if k.bar = some n then (k.lanes, k.pc + 4, k.level, k.rep) else k.group := by
  rw [Carriage.depart]
  split <;> rfl

theorem depart_entry_group (n : Nat) (e : SidingEntry) :
    (e.depart n).group = if e.bar = some n then (e.lanes, e.pc + 4, e.level, e.rep) else e.group := by
  rw [SidingEntry.depart]
  split <;> rfl

theorem depart_bar {n m : Nat} {k : Carriage} (h : (k.depart n).bar = some m) : k.bar = some m ∧ m ≠ n := by
  rw [Carriage.depart] at h
  split at h
  · cases h
  · next hk => exact ⟨h, fun hm => hk (hm ▸ h)⟩

theorem depart_entry_bar {n m : Nat} {e : SidingEntry} (h : (e.depart n).bar = some m) : e.bar = some m ∧ m ≠ n := by
  rw [SidingEntry.depart] at h
  split at h
  · cases h
  · next hk => exact ⟨h, fun hm => hk (hm ▸ h)⟩

section letGo

variable (c : Coach) (n : Nat)

theorem barsIn_letGo {B : Nat → Prop} (hs : ∀ e ∈ c.slots, ∀ m, e.2.bar = some m → m ≠ n → B m)
    (hd : ∀ y ∈ c.siding, ∀ m, y.bar = some m → m ≠ n → B m) : (c.letGo n).barsIn B (mdel c.arrived n) := by
  refine ⟨fun e he m hm => ?_, fun y hy m hm => ?_, fun _ _ => rfl⟩
  · obtain ⟨x, hx, rfl⟩ := List.mem_map.mp he
    exact hs x hx m (depart_bar hm).1 (depart_bar hm).2
  · obtain ⟨x, hx, rfl⟩ := List.mem_map.mp hy
    exact hd x hx m (depart_entry_bar hm).1 (depart_entry_bar hm).2

/-- No lane waits at the barrier any more. -/
theorem arrived_departCoach : rget (departCoach c n).arrived n = 0 := by
  have h := settle_keeps_barsIn (barsIn_letGo (B := fun m => m ≠ n) c n (fun _ _ _ _ h => h) fun _ _ _ _ h => h)
  rw [departCoach_eq, h.arrived n (not_not.mpr rfl), rget_mdel, if_pos rfl]

/-- Where lanes waited at this barrier alone, the arrivals at others are as before. -/
theorem arrived_departCoach_ne (hs : ∀ e ∈ c.slots, e.2.bar = none ∨ e.2.bar = some n) (hd : ∀ y ∈ c.siding, y.bar = none ∨ y.bar = some n)
    {m : Nat} (hm : m ≠ n) : rget (departCoach c n).arrived m = rget c.arrived m := by
  have none_else {b : Option Nat} (hb : b = none ∨ b = some n) : ∀ m, b = some m → m ≠ n → False := by
    rintro m rfl hmn
    rcases hb with hb | hb <;> cases hb
    exact hmn rfl
  have h := settle_keeps_barsIn (barsIn_letGo (B := fun _ => False) c n (fun e he => none_else (hs e he)) fun y hy => none_else (hd y hy))
  rw [departCoach_eq, h.arrived m id, rget_mdel, if_neg hm]

theorem frameOf_departCoach (j : Nat) (y : Level) : frameOf (departCoach c n) j y = (frameOf c j y).depart n := by
  rw [departCoach_eq, frameOf_settle, frameOf, frameOf, Coach.letGo, mget_map (Frame.depart n)]
  cases mget c.frames (frameKey j y) <;> rfl

/-- A lane waits at a barrier. -/
def Coach.waitsAt (c : Coach) (n l : Nat) : Prop :=
  (∃ e ∈ c.slots, e.2.lanes.getLsbD l = true ∧ e.2.bar = some n) ∨ ∃ e ∈ c.siding, e.lanes.getLsbD l = true ∧ e.bar = some n

variable {c n}

/-- The groups of a coach at its departure: those that wait go on behind the BAR. -/
theorem mem_groups_letGo {g : Mask × Place} (h : g ∈ (c.letGo n).groups) : ∃ f ∈ c.groups, f.1 = g.1 := by
  rcases List.mem_append.mp h with h | h <;> obtain ⟨e, he, rfl⟩ := List.mem_map.mp h <;> obtain ⟨x, hx, rfl⟩ := List.mem_map.mp he
  · exact ⟨x.2.group, List.mem_append_left _ (List.mem_map_of_mem hx), by rw [depart_group]; split <;> rfl⟩
  · exact ⟨x.group, List.mem_append_right _ (List.mem_map_of_mem hx), by rw [depart_entry_group]; split <;> rfl⟩

theorem orderly_letGo (hc : orderly c) : orderly (c.letGo n) := by
  have hk (k : Carriage) : (k.depart n).lanes = k.lanes := by rw [Carriage.depart]; split <;> rfl
  have he (e : SidingEntry) : (e.depart n).lanes = e.lanes := by rw [SidingEntry.depart]; split <;> rfl
  simpa [orderly, Coach.letGo, Function.comp_def, hk, he] using hc

theorem laneAt_of_stands {d : Coach} (hd : orderly d) {l : Nat} {g : Mask × Place} (hg : g ∈ d.groups) (hl : g.1.getLsbD l = true) :
    laneAt d l = some g.2 := by
  rw [laneAt_eq, placeAmong_eq_some_iff (orderly_iff.mp hd).2]
  exact ⟨g.1, hg, hl⟩

theorem laneAt_letGo_waiting (hc : orderly c) {l : Nat} (h : c.waitsAt n l) :
    laneAt (c.letGo n) l = (laneAt c l).map fun p => (p.1 + 4, p.2) := by
  rcases h with ⟨e, he, hl, hb⟩ | ⟨e, he, hl, hb⟩
  · have hg : (e.2.depart n).group ∈ (c.letGo n).groups := List.mem_append_left _ (List.mem_map_of_mem (List.mem_map_of_mem he))
    rw [depart_group, if_pos hb] at hg
    rw [laneAt_of_stands (orderly_letGo hc) hg hl, laneAt_of_stands hc (List.mem_append_left _ (List.mem_map_of_mem he)) hl]
    rfl
  · have hg : (e.depart n).group ∈ (c.letGo n).groups := List.mem_append_right _ (List.mem_map_of_mem (List.mem_map_of_mem he))
    rw [depart_entry_group, if_pos hb] at hg
    rw [laneAt_of_stands (orderly_letGo hc) hg hl, laneAt_of_stands hc (List.mem_append_right _ (List.mem_map_of_mem he)) hl]
    rfl

theorem laneAt_letGo_other (hc : orderly c) {l : Nat} (h : ¬ c.waitsAt n l) : laneAt (c.letGo n) l = laneAt c l := by
  obtain ⟨hslots, hsiding⟩ := not_or.mp h
  by_cases hl : ∃ g ∈ c.groups, g.1.getLsbD l = true
  · obtain ⟨g, hg, hl⟩ := hl
    have hg' : g ∈ (c.letGo n).groups := by
      rcases List.mem_append.mp hg with hg | hg <;> obtain ⟨e, he, rfl⟩ := List.mem_map.mp hg
      · have hd := depart_group n e.2
        rw [if_neg fun hb => hslots ⟨e, he, hl, hb⟩] at hd
        exact hd ▸ List.mem_append_left _ (List.mem_map_of_mem (List.mem_map_of_mem he))
      · have hd := depart_entry_group n e
        rw [if_neg fun hb => hsiding ⟨e, he, hl, hb⟩] at hd
        exact hd ▸ List.mem_append_right _ (List.mem_map_of_mem (List.mem_map_of_mem he))
    rw [laneAt_of_stands (orderly_letGo hc) hg' hl, laneAt_of_stands hc hg hl]
  · have hnone : ∀ g ∈ c.groups, g.1.getLsbD l = false := fun g hg => Bool.eq_false_iff.mpr fun hgl => hl ⟨g, hg, hgl⟩
    rw [laneAt_eq, laneAt_eq, placeAmong_eq_none hnone, placeAmong_eq_none]
    intro g hg
    obtain ⟨f, hf, hfg⟩ := mem_groups_letGo hg
    rw [← hfg]
    exact hnone f hf

theorem laneAt_departCoach (hc : orderly c) (l : Nat) : laneAt (departCoach c n) l = laneAt (c.letGo n) l :=
  (settle_regroups (c.letGo n)).keepsLane (orderly_letGo hc) l

end letGo

theorem sameBut_of_onlyMoved_letGo {c w : Coach} {n : Nat} (h : onlyMoved (c.letGo n) w) : onlyMoved { c with frames := w.frames } w := by
  unfold onlyMoved at *
  rw [h]; rfl

theorem onlyMoved_departCoach (c : Coach) (n : Nat) : onlyMoved { c with frames := (departCoach c n).frames } (departCoach c n) :=
  sameBut_of_onlyMoved_letGo (settle_sameBut (c.letGo n))

/-! ## BARRIER_DEPART -/

/-- A coach at the departure from a barrier: an evicted one departs when it comes back. -/
def Coach.departed (n : Nat) (c : Coach) : Coach :=
  match c.resid with
  | .saved _ _ => { c with arrived := mdel c.arrived n, departs := c.departs ++ [n] }
  | _ => departCoach c n

/-- The coaches of a list that have lanes at a barrier depart. -/
def departAll (n : Nat) (es : List (Nat × Coach)) (s : State) : State :=
  es.foldl (fun s e => if rget e.2.arrived n == 0 then s else s.setCoach e.1 (e.2.departed n)) s

theorem departAll_eq (n : Nat) (es : List (Nat × Coach)) : ∀ s : State, departAll n es s = { s with coaches := (departAll n es s).coaches } := by
  induction es with
  | nil => exact fun _ => rfl
  | cons e es ih =>
    intro s
    rw [departAll, List.foldl_cons]
    split
    · exact ih s
    · exact (ih (s.setCoach e.1 (e.2.departed n))).trans rfl

theorem coachOf_departAll_of_not_mem {n key : Nat} (es : List (Nat × Coach)) : ∀ s : State, (∀ e ∈ es, e.1 = key → rget e.2.arrived n = 0) →
    coachOf (departAll n es s) key = coachOf s key := by
  induction es with
  | nil => exact fun _ _ => rfl
  | cons e es ih =>
    intro s h
    obtain ⟨he, hes⟩ := List.forall_mem_cons.mp h
    rw [departAll, List.foldl_cons]
    split
    · exact ih s hes
    · next h0 =>
      refine (ih _ hes).trans (coachOf_setCoach_ne s _ fun hk => h0 ?_)
      rw [he hk.symm]; rfl

theorem coachOf_departAll_of_mem {n key : Nat} {c : Coach} (hn : rget c.arrived n ≠ 0) (es : List (Nat × Coach)) : ∀ s : State,
    (es.map Prod.fst).Nodup → (key, c) ∈ es → coachOf (departAll n es s) key = some (c.departed n) := by
  induction es with
  | nil => exact fun _ _ h => absurd h List.not_mem_nil
  | cons e es ih =>
    intro s hnodup hmem
    obtain ⟨he, hes⟩ := List.nodup_cons.mp hnodup
    rw [departAll, List.foldl_cons]
    rcases List.mem_cons.mp hmem with rfl | hmem
    · rw [if_neg (by simpa using hn)]
      refine (coachOf_departAll_of_not_mem es _ fun x hx hk => absurd (List.mem_map_of_mem hx) (hk ▸ he)).trans ?_
      exact coachOf_setCoach_self ..
    · exact ih _ hes hmem

/-- A barrier at which every coach of the train has arrived, and what their arrivals release has been performed (06 R153). -/
theorem exec_barrierDepart {s : State} {t : Train} {n : Nat} (ht : trainOf s t.id = some t) (hm : barrierMet s t n = true) :
    exec (.barrierDepart t.id n) s
      = .next (departAll n (coachesIn s t.id) (if t.cores.length ≤ 1 then s else acquireAll t.ch t.cores s)) := by
  change Host.Outcome.next (departStep s t.id n) = _
  have hsame : coachesIn (if t.cores.length ≤ 1 then s else acquireAll t.ch t.cores s) t.id = coachesIn s t.id := by
    split
    · rfl
    · rw [acquireAll_eq]; rfl
  rw [← hsame]
  simp only [departStep, ht, hm, Bool.not_true, Bool.false_eq_true, if_false]
  rfl

theorem barrierMet_of {s : State} {t : Train} {n : Nat} (hsome : ∃ e ∈ s.coaches, e.2.train = t.id ∧ rget e.2.arrived n ≠ 0)
    (hall : ∀ e ∈ s.coaches, e.2.train = t.id → rget e.2.arrived n ||| e.2.exited = BitVec.allOnes 32 ∧ ∀ o ∈ e.2.ops, o.fenced = false)
    (hstores : t.cores.length ≤ 1 ∨ ∀ e ∈ s.coaches, e.2.ch = t.ch → e.2.core ∈ t.cores → ∀ o ∈ e.2.ops, o.kind = .store →
      ∀ p ∈ o.pieces, p.phase ≠ 0) : barrierMet s t n = true := by
  have hin {e : Nat × Coach} (he : e ∈ coachesIn s t.id) : e ∈ s.coaches ∧ e.2.train = t.id := by
    simpa [coachesIn] using he
  simp only [barrierMet, Bool.and_eq_true]
  refine ⟨⟨?_, ?_⟩, ?_⟩
  · obtain ⟨e, he, htr, hn⟩ := hsome
    exact List.any_eq_true.mpr ⟨e, List.mem_filter.mpr ⟨he, beq_iff_eq.mpr htr⟩, bne_iff_ne.mpr hn⟩
  · refine List.all_eq_true.mpr fun e he => ?_
    obtain ⟨harr, hops⟩ := hall e (hin he).1 (hin he).2
    simpa [arrivedAt, harr, unfenced] using hops
  · rcases hstores with h | h
    · simp [h]
    · refine Bool.or_eq_true_iff.mpr (.inr ?_)
      simpa using h

/-- The departure of each coach of the train, and of no other. -/
theorem coachOf_departAll {s u : State} {id n key : Nat} {c : Coach} (hs : (s.coaches.map Prod.fst).Pairwise (· < ·)) (hc : coachOf s key = some c)
    (hu : coachOf u key = coachOf s key) : coachOf (departAll n (coachesIn s id) u) key
      = some (if c.train = id ∧ rget c.arrived n ≠ 0 then c.departed n else c) := by
  have hnodup : (s.coaches.map Prod.fst).Nodup := hs.imp fun h => h.ne
  split
  · next h =>
    refine coachOf_departAll_of_mem h.2 _ u (hnodup.sublist (List.filter_sublist.map _)) ?_
    exact List.mem_filter.mpr ⟨mem_of_mget hc, beq_iff_eq.mpr h.1⟩
  · next h =>
    refine (coachOf_departAll_of_not_mem _ u fun e he hk => ?_).trans (hu.trans hc)
    obtain ⟨he, htr⟩ := List.mem_filter.mp he
    have hec : e.2 = c := Option.some.inj ((mget_of_mem hnodup he).symm.trans (hk ▸ hc))
    by_contra h0
    exact h ⟨hec ▸ beq_iff_eq.mp htr, hec ▸ h0⟩

end Sys2Proof.Machine
end

section
/-! PROOFS. The events of carriages, together (10 R255 to R257, 11 R279 to R281, 14 R325, R328, 08 R193, R195, 16 R367, R370, R372, 19 R409). -/

namespace Sys2Proof.Machine
open Sys2Proof.Rules

theorem scopeReaches_of {s : State} {c : Coach} (h : ∀ d, d < 16 → pathOpen s c.ch d = true ∨ reachable s c.ch d = false) :
    scopeReaches s c = true := by
  simpa [scopeReaches, dies] using h

/-- What a SCOPEW writes: its entry on every chassis, and nothing else. -/
theorem scopes_foldl_putScope (s : State) (key : Nat) (m : BitVec 256) (d : Nat) :
    let u := dies.foldl (State.putScope key m) s
    chassisOf u d = { chassisOf s d with scopes := (chassisOf u d).scopes }
      ∧ ∀ i, rget (chassisOf u d).scopes i = if d < 16 ∧ i = key then m else rget (chassisOf s d).scopes i := by
  intro u
  have hu : chassisOf u d = if d < 16 then { chassisOf s d with scopes := mset (chassisOf s d).scopes key m } else chassisOf s d := by
    have hmem : d ∈ dies ↔ d < 16 := List.mem_range
    simp only [u, chassisOf_foldl_putScope, hmem]
  by_cases hd : d < 16
  · rw [hu, if_pos hd]
    exact ⟨rfl, fun i => by simp [rget_mset, hd]⟩
  · rw [hu, if_neg hd]
    exact ⟨rfl, fun i => by simp [hd]⟩

/-- What a departure makes of a coach that is not evicted. -/
theorem departed_of_not_saved {c : Coach} (h : ∀ a b, c.resid ≠ .saved a b) (n : Nat) : c.departed n = departCoach c n := by
  unfold Coach.departed
  split
  · next a b hr => exact absurd hr (h a b)
  · rfl

theorem departed_of_saved {c : Coach} {a : Bool} {b : Nat} (h : c.resid = .saved a b) (n : Nat) :
    c.departed n = { c with arrived := mdel c.arrived n, departs := c.departs ++ [n] } := by
  unfold Coach.departed
  rw [h]

/-- The last lanes of a coach of a train with others: the coach is gone, and its train counts one coach less (08 R195, R204). -/
theorem lastLanes_end {s : State} {key : Nat} {c : Coach} {m : Mask} {t : Train} (hex : c.exited ||| m = BitVec.allOnes 32) (hops : c.ops = [])
    (hyard : c.yard = false) (hgone : c.gone = false) (houtr : c.outr.live = false ∨ c.outr.ended = true)
    (ht : trainOf s c.train = some t) (hleft : 2 ≤ t.left) :
    let u := checkCoach (s.setCoach key (exitLanes c m)) key
    u = { s with coaches := u.coaches, trains := u.trains, launches := u.launches } ∧ coachOf u key = none
      ∧ (∀ j, j ≠ key → coachOf u j = coachOf s j) ∧ trainOf u c.train = some t.oneLess := by
  have hexw : (exitLanes c m).exited = BitVec.allOnes 32 := (exitLanes_exited c m).trans hex
  have hw := sameBut_of_onlyMoved_without (onlyMoved_exitLanes c m)
  generalize exitLanes c m = w at hw hexw ⊢
  have htrain : w.train = c.train := by rw [hw]
  obtain ⟨hu, htr⟩ := checkCoach_over (s := s.setCoach key w) (t := t) (coachOf_setCoach_self ..) hexw (by rw [hw]; exact hops) (by rw [hw]; exact hyard)
    (by rw [hw]; exact hgone) (by rw [hw]; exact houtr) (by rw [htrain]; exact ht) hleft
  have hco := congrArg State.coaches hu
  refine ⟨hu.trans (by rw [hco]; rfl), ?_, fun j hj => ?_, htrain ▸ htr⟩
  · rw [coachOf, hco, mget_mdel, if_pos rfl]
  · rw [coachOf, hco, mget_mdel, if_neg hj]
    exact coachOf_setCoach_ne s w hj

/-- The machine as a barrier's acquire leaves it: in a train of one core there is none (06 R153). -/
def acquired (s : State) (t : Train) : State := if t.cores.length ≤ 1 then s else acquireAll t.ch t.cores s

theorem acquired_eq (s : State) (t : Train) : acquired s t = { s with chassis := (acquired s t).chassis } := by
  unfold acquired
  split
  · rfl
  · exact acquireAll_eq ..

theorem ownedOnly_acquired (s : State) {t : Train} (h : 2 ≤ t.cores.length) {g core : Nat} (hcore : core ∈ t.cores) (hg : g = 16 * t.ch + core) :
    OwnedOnly (acquired s t) g := by
  rw [acquired, if_neg (by omega)]
  exact ownedOnly_acquireAll _ _ s g (.inr ⟨core, hcore, hg⟩)

theorem departAll_acquired_eq (n : Nat) (es : List (Nat × Coach)) (s : State) (t : Train) : let u := departAll n es (acquired s t)
    u = { s with coaches := u.coaches, chassis := u.chassis } ∧ u.chassis = (acquired s t).chassis := by
  have hu := departAll_eq n es (acquired s t)
  have ha := acquired_eq s t
  generalize departAll n es (acquired s t) = u at hu
  generalize acquired s t = a at hu ha
  refine ⟨?_, by rw [hu]⟩
  rw [hu, ha]

theorem l1Line_departAll (n : Nat) (es : List (Nat × Coach)) (s : State) (g ln : Nat) : l1Line (departAll n es s) g ln = l1Line s g ln := by
  rw [departAll_eq]; rfl

/-- Settles O55: each event's step is its lemma above; a departure moves the lanes that wait at the barrier and no other. -/
theorem carriageEventsEndTheirWaits : Obligations.CarriageEventsEndTheirWaits := by
  refine ⟨fun s r c k hc hkey hk hcan => ⟨?_, ?_, ?_, ?_, ?_, ?_, ?_, ?_, ?_, ?_, ?_⟩, ?_⟩
  · exact fun l st cp t hw h1 h2 h3 h4 he => exec_waitConditionMet hc hk hkey hcan hw (waitMet_iff.mpr ⟨h1, h2, h3, h4⟩) he
  · exact fun n hw hm he => exec_waitcConditionMet hc hk hkey hcan hw ((cartsDone_iff c n).mpr hm) he
  · exact fun m hw hm he => exec_waitgConditionMet hc hk hkey hcan hw ((tagsFree_iff c m).mpr hm) he
  · exact fun hw ht => exec_sleepWake hc hk hkey hcan hw ht
  · exact fun ht => exec_yieldExpire hc hk ht
  · exact fun hb hp he => exec_carriageDemote hc hk hb hp he
  · exact fun f hw hf hm hl => exec_fenceConditionMet hc hk hw hf hm hl
  · intro n w hw hs hdone hl hpc hlevel hb hr
    have hof : w.of k = true := by simp [ScopeWrite.of, hpc, hlevel, hl]
    exact ⟨_, exec_scopewComplete hc hk hw hs hdone hof hb (scopeReaches_of hr), foldl_putScope_eq .., scopes_foldl_putScope s _ _⟩
  · intro hyp x f hx
    have hne : x ≠ .U := by cases hyp <;> simp [x]
    exact ⟨_, exec_svStatusNestWrite hc hk hx, rearm_frames c k.fslot hne⟩
  · intro t ho hf ha hn ht k' ts hr
    exact ⟨_, exec_fetchFault hc hk hcan ho hf ha hn ht hr, onlyIssued_failedFetch s r c k, onlyLogged_failedFetch s r c k t.cause⟩
  · intro hw hu hops hpend hports
    have hexec := exec_exitWaitEnd hc hkey hk hcan hw hu hops hpend hports
    refine ⟨fun hlive ho => ⟨exitLanes c k.lanes, ?_, exitLanes_exited c _, ?_, movedLanes_exitLanes ho _⟩, fun hex hnone hyard hgone houtr t ht hleft => ?_⟩
    · rw [hexec, checkCoach_live (coachOf_setCoach_self ..) (by rwa [exitLanes_exited])]
    · exact sameBut_of_onlyMoved_without (onlyMoved_exitLanes c k.lanes)
    · exact ⟨_, hexec, lastLanes_end hex hnone hyard hgone houtr ht hleft⟩
  · intro s t n ht hs hsome hall hstores
    obtain ⟨hu, hch⟩ := departAll_acquired_eq n (coachesIn s t.id) s t
    refine ⟨_, exec_barrierDepart ht (barrierMet_of hsome hall hstores), hu, fun h1 => ?_, ?_, fun key c hc => ?_⟩
    · exact hch.trans (by rw [acquired, if_pos h1])
    · rintro g ln l h2 ⟨core, hcore, hg⟩ hl
      rw [← acquired, l1Line_departAll] at hl
      exact ownedOnly_acquired s h2 hcore hg ln l hl
    · have hcoach := coachOf_departAll (n := n) (id := t.id) (u := acquired s t) hs hc (by rw [acquired_eq]; rfl)
      refine ⟨fun hno => hcoach.trans (by rw [if_neg hno]), fun htr hn => ⟨_, hcoach.trans (by rw [if_pos ⟨htr, hn⟩]), fun a b hr => ?_, fun hr => ?_⟩⟩
      · rw [departed_of_saved hr]
        exact ⟨rfl, fun m => rget_mdel ..⟩
      · rw [departed_of_not_saved hr]
        refine ⟨onlyMoved_departCoach c n, arrived_departCoach c n, fun hsl hsd m hm => arrived_departCoach_ne c n hsl hsd hm, fun ho l _ => ?_,
          fun j y _ => frameOf_departCoach c n j y⟩
        rw [laneAt_departCoach ho]
        exact ⟨laneAt_letGo_waiting ho, laneAt_letGo_other ho⟩

end Sys2Proof.Machine
end

section
/-! PROOFS. The end of an access (10 R253): what its coach holds then, and how the step that performs it leaves the units (03 R73). -/

namespace Sys2Proof.Machine
open Sys2Proof.Rules

/-! ## Leaving the units -/

theorem map_mset {α β : Type} (f : α → β) (m : SMap α) (k : Nat) (a : α) :
    (mset m k a).map (fun e => (e.1, f e.2)) = mset (m.map fun e => (e.1, f e.2)) k (f a) := by
  induction m with
  | nil => rfl
  | cons e m ih =>
    obtain ⟨j, b⟩ := e
    by_cases hj : j = k
    · simp [mset, hj]
    · by_cases hlt : k < j <;> simp [mset, hj, hlt, ih]

/-- The units are left alike whatever the core's L1 holds. -/
theorem leaveUnits_l1Acquire (s : State) (g : Nat) (who : Requester) : leaveUnits (l1Acquire s g) who = l1Acquire (leaveUnits s who) g := by
  have hcore : coreG (leaveUnits s who) g = coreG s g := (sameCaches_leaveUnits s who).core g
  rw [l1Acquire, l1Acquire, hcore]
  unfold State.setCoreG State.setCore State.setChassis
  rw [chassisOf_leaveUnits, leaveUnits_eq_map, leaveUnits_eq_map]
  simp only [map_mset (Chassis.left who)]
  rfl

theorem leaveUnits_acquireDone (s : State) (c : Coach) (o : Op) (who : Requester) :
    leaveUnits (acquireDone s c o) who = acquireDone (leaveUnits s who) c o := by
  unfold acquireDone
  split
  · exact leaveUnits_l1Acquire ..
  · rfl

/-! ## The step of an access -/

/-- The state in which a step of an access begins, with the error that its first read of the cells meets. -/
def State.meeting (s : State) (ecc : Ecc) (head : Bool) : State := { s with doing := { ecc := ecc, head := head } }

/-- A state as a step that began at `s` leaves it once it is over. -/
def State.over (s u : State) (who : Requester) : State := leaveUnits { u with doing := s.doing } who

theorem settleStep_over {s u : State} (h : u.doing.stall = none) (who : Requester) : settleStep who s u = s.over u who := by
  rw [settleStep, h]; rfl

theorem over_setCoach (s u : State) (key : Nat) (c : Coach) (who : Requester) : s.over (u.setCoach key c) who = (s.over u who).setCoach key c :=
  leaveUnits_setCoach { u with doing := s.doing } key c who

theorem over_acquireDone (s u : State) (c : Coach) (o : Op) (who : Requester) : s.over (acquireDone u c o) who = acquireDone (s.over u who) c o := by
  have h : ({ acquireDone u c o with doing := s.doing } : State) = acquireDone { u with doing := s.doing } c o := by
    unfold acquireDone
    split <;> rfl
  rw [State.over, h, leaveUnits_acquireDone]
  rfl

theorem stall_acquireDone (s : State) (c : Coach) (o : Op) : (acquireDone s c o).doing = s.doing := by
  unfold acquireDone
  split <;> rfl

theorem sameCaches_over (s u : State) (who : Requester) : SameCaches u (s.over u who) :=
  .trans (t := { u with doing := s.doing }) ⟨fun _ => rfl, fun _ => rfl, rfl⟩ (sameCaches_leaveUnits ..)

theorem flaws_over (s u : State) (who : Requester) : (s.over u who).flaws = u.flaws := by rw [State.over, leaveUnits_chassis]

/-- A step of caches and cells changes the chassis and the cells alone. -/
theorem UnitStep.over_eq {s u : State} {ecc : Ecc} {head : Bool} (h : UnitStep (s.meeting ecc head) u) (who : Requester) :
    s.over u who = { s with chassis := (s.over u who).chassis, dram := (s.over u who).dram, flaws := (s.over u who).flaws } := by
  have hrest : ({ u with doing := s.doing } : State) = { s with chassis := u.chassis, dram := u.dram, flaws := u.flaws } :=
    congrArg (fun t : State => { t with doing := s.doing }) h.rest
  rw [State.over, leaveUnits_chassis, hrest]

section access

variable {s : State} {r : OpRef} {x : Site1} (hx : accessOf s r = some x)
include hx

theorem opOf_of_accessOf : opOf x.c r.op = some x.o := by
  unfold accessOf at hx
  split at hx
  · cases hx
  · split at hx
    · cases hx
    · next o ho =>
      split at hx
      · cases hx; exact ho
      · cases hx

theorem piece_of_accessOf : x.i = r.piece ∧ x.o.pieces[r.piece]? = some x.p := by
  unfold accessOf at hx
  split at hx
  · cases hx
  · split at hx
    · cases hx
    · split at hx
      · next p hp => cases hx; exact ⟨rfl, hp⟩
      · cases hx

theorem stampOf_of_accessOf : stampOf s r = x.o.stamp := by
  have ho : x.c.ops.find? (fun o => o.id == r.op) = some x.o := opOf_of_accessOf hx
  rw [stampOf, coachOf_of_accessOf hx]
  simp only [Option.bind_some, ho, Option.map_some, Option.getD_some]

theorem exec_loadReturn_eq (ecc : Ecc) : exec (.loadReturn r ecc) s
    = .next (settleStep (.access r x.o.stamp) s (loadReturn (s.meeting ecc (heads s (.access r x.o.stamp))) r)) := by
  rw [← stampOf_of_accessOf hx]
  rfl

theorem exec_storePerformed_eq (ecc : Ecc) : exec (.storePerformed r ecc) s
    = .next (settleStep (.access r x.o.stamp) s (storePerformed (s.meeting ecc (heads s (.access r x.o.stamp))) r)) := by
  rw [← stampOf_of_accessOf hx]
  rfl

end access

/-! ## What the coach holds -/

/-- Accesses of an operation of a coach that is not over have changed. -/
theorem putPieces_eq {s : State} {key : Nat} {c : Coach} (hc : coachOf s key = some c) (hl : c.exited ≠ BitVec.allOnes 32) (id : Nat)
    (ps : List Piece) : putPieces s key id ps = s.setCoach key (accessed c id ps) := by
  simp only [putPieces, hc]
  exact checkCoach_live (coachOf_setCoach_self ..) hl

section ends

variable {s : State} {r : OpRef} {x : Site1} (hk : x.c.key = r.key) (hl : x.c.exited ≠ BitVec.allOnes 32)
include hk hl

theorem returnValue_eq (v : Nat) :
    returnValue s r x v = s.setCoach r.key (performed (deliver x.c x.p v) x.o r.piece { x.p with phase := 2, result := v }) := by
  have hseat := seat_deliver x.c x.p v
  have hkey : (deliver x.c x.p v).key = r.key := (congrArg Prod.fst hseat).trans hk
  have hexited : (deliver x.c x.p v).exited = x.c.exited := congrArg Prod.snd hseat
  rw [returnValue, State.putCoach, hkey, putPiece, putPieces_eq (coachOf_setCoach_self ..) (hexited ▸ hl), setCoach_setCoach]
  rfl

end ends

end Sys2Proof.Machine
end

section
/-! PROOFS. A load that ends (10 R253, R256): with its value, or with cause 0x20; and where the value goes (R321). -/

namespace Sys2Proof.Machine
open Sys2Proof.Rules

/-! ## How a load ends -/

/-- A state in which the value of a load has arrived, and the acquire that it ends is done (04 R97). -/
def arrived (s : State) (r : OpRef) (x : Site1) (v : Nat) : State :=
  acquireDone (s.setCoach r.key (performed (deliver x.c x.p v) x.o r.piece { x.p with phase := 2, result := v })) x.c x.o

theorem over_arrived (s u : State) (r : OpRef) (x : Site1) (v : Nat) (who : Requester) :
    s.over (arrived u r x v) who = arrived (s.over u who) r x v := by
  rw [arrived, over_acquireDone, over_setCoach]; rfl

theorem overAt_arrived (s : State) (r : OpRef) (x : Site1) (v : Nat) : overAt (arrived s r x v) r x = arrived (overAt s r x) r x v := by
  rw [overAt, arrived, leaveUnits_acquireDone, leaveUnits_setCoach]; rfl

/-- A state in which a load has failed, its destination holding a value (R256). -/
def failedWith (s : State) (r : OpRef) (x : Site1) (v : Nat) : State :=
  s.setCoach r.key (performed (deliver x.c x.p v) x.o r.piece { x.p with phase := 2, err := some 0x20 })

theorem overAt_failedWith (s : State) (r : OpRef) (x : Site1) (v : Nat) : overAt (failedWith s r x v) r x = failedWith (overAt s r x) r x v :=
  over_setCoach s s r.key _ _

section load

variable {s : State} {r : OpRef} {x : Site1} (hx : accessOf s r = some x)

section

variable (hload : x.o.kind = .load)
include hx hload

theorem loadReturn_served (h1 : x.p.phase = 1) : loadReturn s r = acquireDone (returnValue s r x x.p.result) x.c x.o := by
  simp only [loadReturn, hx, hload, h1, if_true, one_ne_zero, if_false]

theorem loadReturn_performed (h0 : x.p.phase = 0) : loadReturn s r = performLoad s r x := by
  simp only [loadReturn, hx, hload, h0, if_true]

end

theorem performLoad_never (hin : inOrder s x = true) (hsite : reachSite s x = .never) : performLoad s r x = failPiece s r x 0x20 := by
  simp only [performLoad, hin, hsite, Bool.not_true, Bool.false_eq_true, if_false]

theorem performLoad_ok (hin : inOrder s x = true) (hsite : reachSite s x = .now) {v : Nat} {u : State} (hv : loadAny s x = (.ok v, u)) :
    performLoad s r x = acquireDone (returnValue u r x v) x.c x.o := by
  simp only [performLoad, hin, hsite, hv, Bool.not_true, Bool.false_eq_true, if_false]

theorem performLoad_error (hin : inOrder s x = true) (hsite : reachSite s x = .now) {e : Nat} {u : State} (hv : loadAny s x = (.error e, u)) :
    performLoad s r x = failPiece u r x e := by
  simp only [performLoad, hin, hsite, hv, Bool.not_true, Bool.false_eq_true, if_false]

variable (hkey : x.c.key = r.key) (hlive : x.c.exited ≠ BitVec.allOnes 32)
include hx hkey hlive

/-- A step of a load that comes to a state of which the value arrives. -/
theorem exec_loadReturn_arrived {ecc : Ecc} {u : State} {v : Nat} (hu : u.doing.stall = none)
    (hrun : loadReturn (s.meeting ecc (heads s (.access r x.o.stamp))) r = acquireDone (returnValue u r x v) x.c x.o) :
    exec (.loadReturn r ecc) s = .next (arrived (s.over u (.access r x.o.stamp)) r x v) := by
  have hrun' : loadReturn (s.meeting ecc (heads s (.access r x.o.stamp))) r = arrived u r x v := by
    rw [hrun, returnValue_eq hkey hlive, arrived]
  rw [exec_loadReturn_eq hx, hrun', settleStep_over, over_arrived]
  rw [arrived, stall_acquireDone]
  exact hu

/-- A step of a load that fails in a state. -/
theorem exec_loadReturn_failed {ecc : Ecc} {u : State} (hu : u.doing.stall = none)
    (hrun : loadReturn (s.meeting ecc (heads s (.access r x.o.stamp))) r = failPiece u r x 0x20) :
    exec (.loadReturn r ecc) s = .next (failedWith (s.over (takeFreeBytes u x.p.size).2 (.access r x.o.stamp)) r x
      (leNat (takeFreeBytes u x.p.size).1)) := by
  have hrun' : loadReturn (s.meeting ecc (heads s (.access r x.o.stamp))) r
      = failedWith (takeFreeBytes u x.p.size).2 r x (leNat (takeFreeBytes u x.p.size).1) := by
    rw [hrun, failPiece_eq hkey hlive]; rfl
  rw [exec_loadReturn_eq hx, hrun', settleStep_over (show (failedWith (takeFreeBytes u x.p.size).2 r x _).doing.stall = none from hu),
    failedWith, over_setCoach]
  rfl

variable (hload : x.o.kind = .load)
include hload

theorem exec_loadReturn_served (h1 : x.p.phase = 1) (ecc : Ecc) :
    exec (.loadReturn r ecc) s = .next (overAt (arrived s r x x.p.result) r x) := by
  rw [exec_loadReturn_arrived hx hkey hlive (u := s.meeting ecc _) rfl (loadReturn_served (s := s.meeting ecc _) hx hload h1), overAt_arrived]
  rfl

variable (h0 : x.p.phase = 0) (hin : inOrder s x = true)
include h0 hin

/-- What the divided ring cuts off (07 R178). -/
theorem exec_loadReturn_never (hsite : reachSite s x = .never) (ecc : Ecc) :
    exec (.loadReturn r ecc) s = .next (overAt (failedWith (takeFreeBytes s x.p.size).2 r x (leNat (takeFreeBytes s x.p.size).1)) r x) := by
  have hrun : ∀ head, loadReturn (s.meeting ecc head) r = failPiece (s.meeting ecc head) r x 0x20 := fun head =>
    (loadReturn_performed (s := s.meeting ecc head) hx hload h0).trans (performLoad_never (s := s.meeting ecc head) hin hsite)
  rw [exec_loadReturn_failed hx hkey hlive (u := s.meeting ecc _) rfl (hrun _), overAt_failedWith]
  rfl

variable (hsite : reachSite s x = .now)
include hsite

/-- A load whose value is read in a state. -/
theorem exec_loadReturn_ok {ecc : Ecc} {u : State} {v : Nat} (hu : u.doing.stall = none)
    (hv : loadAny (s.meeting ecc (heads s (.access r x.o.stamp))) x = (.ok v, u)) :
    exec (.loadReturn r ecc) s = .next (arrived (s.over u (.access r x.o.stamp)) r x v) :=
  exec_loadReturn_arrived hx hkey hlive hu
    ((loadReturn_performed (s := s.meeting ecc _) hx hload h0).trans (performLoad_ok (s := s.meeting ecc _) hin hsite hv))

/-- A load whose read fails. -/
theorem exec_loadReturn_error {ecc : Ecc} {u : State} (hu : u.doing.stall = none)
    (hv : loadAny (s.meeting ecc (heads s (.access r x.o.stamp))) x = (.error 0x20, u)) :
    exec (.loadReturn r ecc) s = .next (failedWith (s.over (takeFreeBytes u x.p.size).2 (.access r x.o.stamp)) r x
      (leNat (takeFreeBytes u x.p.size).1)) :=
  exec_loadReturn_failed hx hkey hlive hu
    ((loadReturn_performed (s := s.meeting ecc _) hx hload h0).trans (performLoad_error (s := s.meeting ecc _) hin hsite hv))

/-- A load that the L1 serves (04 R95). -/
theorem exec_loadReturn_l1 (hmem : x.p.space = .mem) (hhit : mayHit s x = true) (hholds : l1Holds s x.c.gcore x.p.addr x.p.size = true) (ecc : Ecc) :
    exec (.loadReturn r ecc) s = .next (overAt (arrived s r x (leNat (l1Bytes s x.c.gcore x.p.addr x.p.size))) r x) := by
  have hv : ∀ head, loadAny (s.meeting ecc head) x = (.ok (leNat (l1Bytes s x.c.gcore x.p.addr x.p.size)), s.meeting ecc head) := by
    intro head
    have hboth : (mayHit (s.meeting ecc head) x && l1Holds (s.meeting ecc head) x.c.gcore x.p.addr x.p.size) = true :=
      Bool.and_eq_true_iff.mpr ⟨hhit, hholds⟩
    simp only [loadAny, loadValue, hmem, reduceCtorEq, if_false, loadLocal, hboth, if_true]
    rfl
  rw [exec_loadReturn_ok hx hkey hlive hload h0 hin hsite (u := s.meeting ecc _) rfl (hv _), overAt_arrived]
  rfl

/-- A load from a typed buffer (04 R86). -/
theorem exec_loadReturn_buffer {kind h : Nat} (hbuf : x.p.space = .buf kind h) (ecc : Ecc) :
    exec (.loadReturn r ecc) s = .next (overAt (arrived s r x (leNat (bufRead s h kind x.p.addr x.p.size))) r x) := by
  have hv : ∀ head, loadAny (s.meeting ecc head) x = (.ok (leNat (bufRead s h kind x.p.addr x.p.size)), s.meeting ecc head) := by
    intro head
    simp only [loadAny, loadValue, hbuf, reduceCtorEq, if_false]
    rfl
  rw [exec_loadReturn_ok hx hkey hlive hload h0 hin hsite (u := s.meeting ecc _) rfl (hv _), overAt_arrived]
  rfl

section window

variable (hwin : x.p.space = .host ∨ x.p.space = .peer)
include hwin

/-- What a window's far end answers is a free value (01 R29 to R32). -/
theorem exec_loadReturn_window : exec (.loadReturn r .clean) s
    = .next (overAt (arrived (takeFreeBytes s x.p.size).2 r x (leNat (takeFreeBytes s x.p.size).1)) r x) := by
  have hv : ∀ head, loadAny (s.meeting .clean head) x
      = (.ok (leNat (takeFreeBytes s x.p.size).1), (takeFreeBytes (s.meeting .clean head) x.p.size).2) := by
    intro head
    rcases hwin with h | h <;> simp only [loadAny, loadValue, h, reduceCtorEq, if_false] <;> rfl
  rw [exec_loadReturn_ok hx hkey hlive hload h0 hin hsite (u := (takeFreeBytes (s.meeting .clean _) x.p.size).2) rfl (hv _), overAt_arrived]
  rfl

theorem exec_loadReturn_window_fails : exec (.loadReturn r .uncorrectable) s
    = .next (overAt (failedWith (takeFreeBytes s x.p.size).2 r x (leNat (takeFreeBytes s x.p.size).1)) r x) := by
  have hv : ∀ head, loadAny (s.meeting .uncorrectable head) x = (.error 0x20, s.meeting .uncorrectable head) := by
    intro head
    rcases hwin with h | h <;> simp only [loadAny, loadValue, h, reduceCtorEq, if_false] <;> rfl
  rw [exec_loadReturn_error hx hkey hlive hload h0 hin hsite (u := s.meeting .uncorrectable _) rfl (hv _), overAt_failedWith]
  rfl

end window

end load

/-! ## Where the value goes (R321) -/

/-- Words written into consecutive vector registers of a lane. -/
theorem rget_v_writes (l : Nat) (ws : Nat → W32) (n k j : Nat) (hj : j < k) (c : Coach) :
    rget (((List.range k).map fun i => (VDst.reg (n + i), ws i)).foldl (fun c e => writeVD c l e.1 e.2) c).v (32 * (n + j) + l) = ws j := by
  induction k with
  | zero => omega
  | succ k ih =>
    rw [List.range_succ, List.map_append, List.foldl_append]
    simp only [List.map_cons, List.map_nil, List.foldl_cons, List.foldl_nil, writeVD, rget, mget_mset]
    by_cases h : j = k
    · subst h; simp
    · rw [if_neg (by omega)]
      exact ih (by omega)

theorem portsIn_regs (n k : Nat) : portsIn ((List.range k).map fun i => .reg (n + i)) = [] := by
  have h : (((List.range k).map fun i => VDst.reg (n + i)).filterMap fun r => match r with
      | .port q => some q
      | _ => none) = [] := by
    rw [List.filterMap_map]
    exact List.filterMap_eq_nil_iff.mpr fun _ _ => rfl
  rw [portsIn]
  exact congrArg List.eraseDups h

/-- A value that goes to consecutive registers of a lane. -/
theorem rget_v_deliver {c : Coach} {p : Piece} {n k bits j : Nat} {signed : Bool} (v : Nat) (hj : j < k)
    (hdst : p.dst = .vec ((List.range k).map fun i => .reg (n + i)) bits signed) :
    rget (deliver c p v).v (32 * (n + j) + p.lane) = BitVec.ofNat 32
      ((if bits < 32 ∧ signed then lowBits (signExt v bits) 32 else v % 2 ^ (8 * p.size)) / 2 ^ (32 * j)) := by
  have hports : ∀ d : Coach, advancePorts d ((portsIn ((List.range k).map fun i => .reg (n + i))).filter fun q =>
      (portOf d q).dir = .outbound) [p.lane] = d := fun d => by rw [portsIn_regs]; rfl
  simp only [deliver, hdst, hports, loadWords, List.length_map, List.length_range, List.zip_map']
  exact rget_v_writes p.lane _ n k j hj c

theorem ofNat_mod_two_pow_div (v : Nat) {j k : Nat} (h : j < k) :
    BitVec.ofNat 32 (v % 2 ^ (32 * k) / 2 ^ (32 * j)) = BitVec.ofNat 32 (v / 2 ^ (32 * j)) := by
  obtain ⟨m, rfl⟩ : ∃ m, k = j + (m + 1) := ⟨k - j - 1, by omega⟩
  have hk : 2 ^ (32 * (j + (m + 1))) = 2 ^ (32 * j) * 2 ^ (32 * (m + 1)) := by rw [← pow_add]; congr 1; omega
  have hdvd : 2 ^ 32 ∣ 2 ^ (32 * (m + 1)) := pow_dvd_pow 2 (by omega)
  refine BitVec.eq_of_toNat_eq ?_
  rw [BitVec.toNat_ofNat, BitVec.toNat_ofNat, hk, Nat.mod_mul_right_div_self, Nat.mod_mod_of_dvd _ hdvd]

theorem deliver_words (c : Coach) (p : Piece) (n k v j : Nat) (hj : j < k) (hsize : p.size = 4 * k)
    (hdst : p.dst = .vec ((List.range k).map fun i => .reg (n + i)) 32 false) :
    rget (deliver c p v).v (32 * (n + j) + p.lane) = BitVec.ofNat 32 (v / 2 ^ (32 * j)) := by
  have hbits : 8 * p.size = 32 * k := by omega
  rw [rget_v_deliver v hj hdst, if_neg (by simp), hbits, ofNat_mod_two_pow_div v hj]

theorem signExt_eq_toInt (v w : Nat) : signExt v w = (BitVec.ofNat w v).toInt := by
  simp only [signExt, BitVec.toInt_eq_toNat_cond, BitVec.toNat_ofNat]
  split
  · rw [if_neg (by omega)]; push_cast; rfl
  · rw [if_pos (by omega)]

theorem ofNat_lowBits_signExt (v w : Nat) : BitVec.ofNat 32 (lowBits (signExt v w) 32) = (BitVec.ofNat w v).signExtend 32 := by
  rw [signExt_eq_toInt, BitVec.signExtend, lowBits]
  refine BitVec.eq_of_toNat_eq ?_
  rw [BitVec.toNat_ofNat, BitVec.toNat_ofInt]
  exact Nat.mod_eq_of_lt (by omega)

/-- A narrow value goes to one register. -/
theorem rget_v_deliver_one {c : Coach} {p : Piece} {n bits : Nat} {signed : Bool} (v : Nat) (hdst : p.dst = .vec [.reg n] bits signed) :
    rget (deliver c p v).v (32 * n + p.lane)
      = BitVec.ofNat 32 (if bits < 32 ∧ signed then lowBits (signExt v bits) 32 else v % 2 ^ (8 * p.size)) := by
  have h := rget_v_deliver (c := c) (k := 1) v Nat.zero_lt_one hdst
  simpa using h

theorem deliver_narrow (c : Coach) (p : Piece) (n v : Nat) (hsize : p.size ≤ 2) :
    (p.dst = .vec [.reg n] (8 * p.size) true →
        rget (deliver c p v).v (32 * n + p.lane) = (BitVec.ofNat (8 * p.size) v).signExtend 32)
      ∧ (p.dst = .vec [.reg n] (8 * p.size) false →
        rget (deliver c p v).v (32 * n + p.lane) = (BitVec.ofNat (8 * p.size) v).setWidth 32) := by
  refine ⟨fun hdst => ?_, fun hdst => ?_⟩
  · rw [rget_v_deliver_one v hdst, if_pos ⟨by omega, rfl⟩, ofNat_lowBits_signExt]
  · rw [rget_v_deliver_one v hdst, if_neg (by simp)]
    refine BitVec.eq_of_toNat_eq ?_
    rw [BitVec.toNat_ofNat, BitVec.toNat_setWidth, BitVec.toNat_ofNat]

/-! ## What leaves its counter (R253) -/

/-- The operations before one of a list in which each has a number of its own. -/
theorem takeWhile_id_ne {pre post : List Op} {o : Op} (hn : ((pre ++ o :: post).map Op.id).Nodup) :
    ((pre ++ o :: post).takeWhile fun p => p.id != o.id) = pre := by
  have hne : ∀ q ∈ pre, (q.id != o.id) = true := by
    intro q hq
    rw [List.map_append, List.nodup_append] at hn
    exact bne_iff_ne.mpr (hn.2.2 _ (List.mem_map_of_mem hq) _ (List.mem_map_of_mem (List.mem_cons_self ..)))
  rw [List.takeWhile_append_of_pos hne]
  simp

theorem mem_retireOps {c : Coach} {pre post : List Op} {o : Op} (hops : c.ops = pre ++ o :: post) (hn : (c.ops.map Op.id).Nodup) :
    o ∈ (retireOps c).ops ↔ ¬(o.done = true ∧ ((o.counter = .none ∨ ∃ t, o.counter = .tag t)
      ∨ ∀ q ∈ pre, q.counter = o.counter → q.done = true)) := by
  have hpre := takeWhile_id_ne (hops ▸ hn)
  have hmem : o ∈ c.ops := by simp [hops]
  have hkept : o ∈ (retireOps c).ops ↔ leaves c.ops o = false := by
    change o ∈ c.ops.filter (fun o => !leaves c.ops o) ↔ _
    rw [List.mem_filter, and_iff_right hmem, Bool.not_eq_true']
  rw [hkept, ← Bool.not_eq_true, not_iff_not, leaves, hops, hpre, Bool.and_eq_true]
  refine and_congr_right fun _ => ?_
  cases o.counter <;> simp [or_iff_not_imp_left]

end Sys2Proof.Machine
end

section
/-! PROOFS. The L1 of a core as it takes bytes and gives them up (04 R95, R96): a line of which no home records the core as owner keeps memory. -/

namespace Sys2Proof.Machine
open Sys2Proof.Rules

/-! ## Steps of the L1s -/

/-- A step of the L1s alone: memory reads as before, and the homes and the cells are as they were. -/
structure L1Step (s u : State) : Prop extends CacheStep s u where
  homes : ∀ j, cacheLine u j = cacheLine s j
  cells : CellsKept s u

theorem L1Step.refl {s : State} (hc : coherent s) : L1Step s s := ⟨.refl hc, fun _ => rfl, ⟨rfl, rfl⟩⟩

theorem L1Step.trans {s t u : State} (h : L1Step s t) (k : L1Step t u) : L1Step s u :=
  ⟨h.toCacheStep.trans k.toCacheStep, fun j => (k.homes j).trans (h.homes j), h.cells.trans k.cells⟩

theorem L1Step.owner {s u : State} (h : L1Step s u) (ln : Nat) : lineOwner u ln = lineOwner s ln := by rw [lineOwner, h.homes, lineOwner]

theorem CellsKept.l1Room (s : State) (g ln : Nat) : CellsKept s (l1Room s g ln) := by
  unfold Machine.l1Room
  dsimp only
  split
  · exact ⟨rfl, rfl⟩
  · split
    · split
      · refine .trans ?_ (.recallLine _ _)
        unfold enterSlice
        split <;> exact ⟨rfl, rfl⟩
      · exact ⟨rfl, rfl⟩
    · exact ⟨rfl, rfl⟩

/-- The L1 of a core has room made for a line. -/
theorem L1Step.withRoom {s : State} (hc : coherent s) {g ln : Nat} (hw : hasL1Way s g ln) : L1Step s (withRoom s g ln) := by
  have hd := withRoom_drops hw
  refine ⟨.of_drops hc hd, hd.line, ?_⟩
  unfold Machine.withRoom
  split
  · exact ⟨rfl, rfl⟩
  · exact .l1Room s g ln

/-- The L1 of a core takes another form of a line that it is not recorded to own. -/
theorem L1Step.takeLine {s : State} (hc : coherent s) {g ln : Nat} (ho : lineOwner s ln ≠ some g) {o : L1Line} (hb : LineBytes o.bytes) :
    L1Step s (takeLine s g ln o) := by
  refine ⟨.setL1 hc g _ fun j => ?_, (cacheLine_takeLine s g ln · o), ⟨rfl, rfl⟩⟩
  rw [mget_mset]
  split
  · next h => subst h; exact .inr ⟨ho, fun l hl => Option.some.inj hl ▸ hb⟩
  · exact .inl rfl

/-! ## A store shows in the L1 (R96) -/

/-- Entries that are there take new values, and none comes. -/
theorem mget_foldl_update {α : Type} (f : Nat → α) (o : Nat) (m : SMap α) (i n : Nat) :
    mget ((List.range n).foldl (fun m j => if (mget m (o + j)).isSome then mset m (o + j) (f j) else m) m) i
      = if o ≤ i ∧ i < o + n then (mget m i).map fun _ => f (i - o) else mget m i := by
  induction n with
  | zero => simp
  | succ n ih =>
    rw [List.range_succ, List.foldl_append, List.foldl_cons, List.foldl_nil]
    have hin : (o ≤ i ∧ i < o + (n + 1)) ↔ i = o + n ∨ (o ≤ i ∧ i < o + n) := by omega
    generalize hm' : (List.range n).foldl (fun m j => if (mget m (o + j)).isSome then mset m (o + j) (f j) else m) m = m' at ih
    by_cases hi : i = o + n
    · subst hi
      rw [if_neg (by omega)] at ih
      rw [if_pos (show o ≤ o + n ∧ o + n < o + (n + 1) by omega), ih, Nat.add_sub_cancel_left]
      cases hmi : mget m (o + n) with
      | none => rw [if_neg (by simp), ih, hmi]; rfl
      | some b => rw [if_pos (by rfl), mget_mset, if_pos rfl]; rfl
    · simp only [hin, hi, false_or]
      rw [← ih]
      split
      · rw [mget_mset, if_neg hi]
      · rfl

/-- A line of an L1 with the bytes of a store put in where it has some: dirty in one that the L1 owns. -/
def L1Line.updated (l : L1Line) (off : Nat) (bs : List Byte) : L1Line :=
  { l with
    bytes := (List.range bs.length).foldl (fun m i => if (mget m (off + i)).isSome then mset m (off + i) (bs.getD i 0) else m) l.bytes
    dirty := if l.owned then (List.range bs.length).foldl (fun d i => d ||| (1#128 <<< (off + i))) l.dirty else l.dirty }

theorem l1Update_eq {s : State} {g wa : Nat} {l : L1Line} (hl : l1Line s g (lineOf wa) = some l) (bs : List Byte) :
    l1Update s g wa bs = takeLine s g (lineOf wa) (l.updated (wa % 128) bs) := by
  simp only [l1Update, hl]
  rfl

theorem l1Update_absent {s : State} {g wa : Nat} (hl : l1Line s g (lineOf wa) = none) (bs : List Byte) : l1Update s g wa bs = s := by
  simp only [l1Update, hl]

theorem mget_updated (l : L1Line) (off : Nat) (bs : List Byte) (i : Nat) : mget (l.updated off bs).bytes i
    = if off ≤ i ∧ i < off + bs.length then (mget l.bytes i).map fun _ => bs.getD (i - off) 0 else mget l.bytes i :=
  mget_foldl_update (fun j => bs.getD j 0) off l.bytes i bs.length

theorem isSome_mget_updated (l : L1Line) (off : Nat) (bs : List Byte) (i : Nat) :
    (mget (l.updated off bs).bytes i).isSome = (mget l.bytes i).isSome := by
  rw [mget_updated]
  split
  · exact Option.isSome_map
  · rfl

theorem LineBytes.updated {l : L1Line} (h : LineBytes l.bytes) (off : Nat) (bs : List Byte) : LineBytes (l.updated off bs).bytes := by
  refine .foldl _ _ (fun j _ m hm => ?_) _ h
  split
  · next hs =>
    obtain ⟨b, hb⟩ := Option.isSome_iff_exists.mp hs
    exact hm.mset (hm.lt hb) _
  · exact hm

theorem L1Step.l1Update {s : State} (hc : coherent s) {g wa : Nat} (ho : lineOwner s (lineOf wa) ≠ some g) (bs : List Byte) :
    L1Step s (l1Update s g wa bs) := by
  cases hl : l1Line s g (lineOf wa) with
  | none => rw [l1Update_absent hl]; exact .refl hc
  | some l =>
    rw [l1Update_eq hl]
    exact .takeLine hc ho ((((coherent_iff s).mp hc _).l1Bytes g l hl).updated ..)

/-- An L1 holds what it held before a store showed in it. -/
theorem l1Holds_l1Update (s : State) (g wa a n : Nat) (bs : List Byte) : l1Holds (l1Update s g wa bs) g a n = l1Holds s g a n := by
  cases hl : l1Line s g (lineOf wa) with
  | none => rw [l1Update_absent hl]
  | some l =>
    rw [l1Update_eq hl]
    simp only [l1Holds, l1Line_takeLine, true_and]
    by_cases ha : lineOf a = lineOf wa
    · simp only [ha, if_true, hl, isSome_mget_updated]
    · rw [if_neg ha]

/-! ## Bytes leave the L1 (R95, R143) -/

theorem L1Step.l1Drop {s : State} (hc : coherent s) {g wa : Nat} (ho : lineOwner s (lineOf wa) ≠ some g) (n : Nat) :
    L1Step s (l1Drop s g wa n) := by
  unfold Machine.l1Drop
  split
  · next l hl =>
    split
    · exact .refl hc
    · have hb := ((coherent_iff s).mp hc _).l1Bytes g l hl
      have hsub : LineBytes (l.bytes.filter fun e => decide (e.1 < wa % 128 / 32 * 32) || decide ((wa % 128 + n + 31) / 32 * 32 ≤ e.1)) :=
        ⟨hb.1.sublist (List.filter_sublist.map _), fun e he => hb.2 e (List.mem_of_mem_filter he)⟩
      dsimp only
      refine ⟨.setL1 hc g _ fun j => ?_, fun j => cacheLine_setCoreG .., ⟨rfl, rfl⟩⟩
      split
      · rw [mget_mdel]
        split
        · next h => subst h; exact .inr ⟨ho, by simp⟩
        · exact .inl rfl
      · rw [mget_mset]
        split
        · next h => subst h; exact .inr ⟨ho, fun l' hl' => Option.some.inj hl' ▸ hsub⟩
        · exact .inl rfl
  · exact .refl hc

/-! ## A sector fills the L1 (R95, R147) -/

/-- Stores that show over a line, one after another. -/
theorem L1Step.showing {s : State} (hc : coherent s) {g ln : Nat} (ho : lineOwner s ln ≠ some g) (shows : Nat × Piece → Bool)
    (hs : ∀ q, shows q = true → lineOf q.2.addr = ln) (qs : List (Nat × Piece)) (a n : Nat) :
    L1Step s (qs.foldl (fun s q => if shows q then Machine.l1Update s g q.2.addr (leBytes q.2.size q.2.data) else s) s)
      ∧ l1Holds (qs.foldl (fun s q => if shows q then Machine.l1Update s g q.2.addr (leBytes q.2.size q.2.data) else s) s) g a n
        = l1Holds s g a n := by
  induction qs generalizing s with
  | nil => exact ⟨.refl hc, rfl⟩
  | cons q qs ih =>
    rw [List.foldl_cons]
    split
    · next hq =>
      have hstep := L1Step.l1Update hc (hs q hq ▸ ho) (leBytes q.2.size q.2.data)
      obtain ⟨hrest, hholds⟩ := ih hstep.keeps_coherent (by rwa [hstep.owner])
      exact ⟨hstep.trans hrest, hholds.trans (l1Holds_l1Update ..)⟩
    · exact ih hc ho

/-- A sector of a line that no L1 owns fills the L1 of a core, with the stores of the core that it has shown. -/
theorem L1Step.l1Fill {s : State} (hc : coherent s) {g a : Nat} (ho : lineOwner s (lineOf a) = none) (hw : hasL1Way s g (lineOf a))
    (ha : a % 32 = 0) (f : Nat → Byte) :
    L1Step s (l1Fill s g a ((List.range 32).map f)) ∧ l1Holds (l1Fill s g a ((List.range 32).map f)) g a 32 = true := by
  have hroom := L1Step.withRoom hc hw
  have hlb : LineBytes ((l1Line (Machine.withRoom s g (lineOf a)) g (lineOf a)).getD {}).bytes := by
    cases hl : l1Line (Machine.withRoom s g (lineOf a)) g (lineOf a) with
    | none => exact .nil
    | some l => exact ((coherent_iff _).mp hroom.keeps_coherent _).l1Bytes g l hl
  have htake := L1Step.takeLine hroom.keeps_coherent (g := g) (by rw [hroom.owner, ho]; simp) (hlb.filled ha ((List.range 32).map f))
  have hfilled := hroom.trans htake
  have hheld := (l1_holds_of_bytes (s := Machine.takeLine (Machine.withRoom s g (lineOf a)) g (lineOf a)
      (((l1Line (Machine.withRoom s g (lineOf a)) g (lineOf a)).getD {}).filled a ((List.range 32).map f))) (g := g) (a := a)
    (by rw [l1Line_takeLine, if_pos ⟨rfl, rfl⟩]) fun i hi => mget_filled _ a f hi).1
  obtain ⟨hshow, hholds⟩ := L1Step.showing hfilled.keeps_coherent (g := g) (ln := lineOf a) (by rw [hfilled.owner, ho]; simp)
    (fun q => q.2.shown && q.2.addr / 32 == a / 32)
    (fun q hq => by
      have hsame : q.2.addr / 32 = a / 32 := beq_iff_eq.mp (Bool.and_eq_true_iff.mp hq).2
      unfold lineOf; omega)
    (openStores (Machine.takeLine (Machine.withRoom s g (lineOf a)) g (lineOf a)
      (((l1Line (Machine.withRoom s g (lineOf a)) g (lineOf a)).getD {}).filled a ((List.range 32).map f))) g) a 32
  exact ⟨hfilled.trans hshow, hholds.trans hheld⟩

end Sys2Proof.Machine
end

section
/-! PROOFS. A load that is performed at the home of its bytes (04 R95, R100), and the error that its read can meet (03 R71). -/

namespace Sys2Proof.Machine
open Sys2Proof.Rules

/-! ## What a read at the home leaves alone -/

theorem LineReady.cells_readSectorsAt {s : State} {ln : Nat} (h : LineReady s ln) (kind : Nat) (rewrites : Bool) (was : List Nat)
    (hw : ∀ a ∈ was, lineOf a = ln) : CellsKept s (Machine.readSectorsAt kind rewrites s was).2 := by
  obtain ⟨u, hu, -, hsame⟩ := h.readSectorsAt kind rewrites was hw
  refine ⟨?_, h.flaws_readSectorsAt kind rewrites was hw⟩
  rw [hu]
  exact hsame.dram

theorem CellsKept.fillSectors {s : State} {ln : Nat} (hw : hasWay s ln) (was : List Nat) (prio : Nat) :
    CellsKept s (fillSectors s ln was prio) := by
  rw [fillSectors_eq hw]
  exact ⟨rfl, rfl⟩

/-- A read within one line leaves the cells as they are. -/
theorem CellsKept.readHome {s : State} {wa n : Nat} (hc : coherent s) (hr : LineReady s (lineOf wa)) (hf : RecallFree s (lineOf wa))
    (hw : hasWay s (lineOf wa)) (hn : wa % 128 + n ≤ 128) (a : Attr) (kind : Nat) : CellsKept s (readHome s a wa n kind).2 := by
  have hrecall := CellsKept.recallLine s (lineOf wa)
  have htr := hr.step (recallLine_step hc hf).1.toUnitStep
  have hway := hasWay_recallLine hc hf hw
  simp only [Machine.readHome, hr.enterSlice, htr.buses wa, Bool.false_eq_true, if_false]
  generalize Machine.recallLine s (lineOf wa) = t at hrecall htr hway
  split
  · exact hrecall.trans (.touch ..)
  · generalize (if ((cacheLine t (lineOf wa)).isSome || (cacheOnAt t (lineOf wa) && a.allocates)) = true then 1 else kind) = k
    generalize (!((cacheLine t (lineOf wa)).isSome || (cacheOnAt t (lineOf wa) && a.allocates)) && kind == 2) = w
    have hlines : ∀ b ∈ missingSectors t wa n, lineOf b = lineOf wa := fun _ => lineOf_missingSectors hn
    obtain ⟨v, hv, -, hvc⟩ := htr.readSectorsAt k w (missingSectors t wa n) hlines
    have hcells := htr.cells_readSectorsAt k w (missingSectors t wa n) hlines
    rw [hv] at hcells ⊢
    dsimp only
    split
    · exact (hrecall.trans hcells).trans ((CellsKept.fillSectors (hasWay_congr hvc hway) _ _).trans (.touch ..))
    · exact hrecall.trans hcells

/-! ## A load performed at the home -/

theorem take_drop_range_map {α : Type} (f : Nat → α) {k n m : Nat} (h : k + n ≤ m) :
    (((List.range m).map f).drop k).take n = (List.range n).map fun i => f (k + i) := by
  refine List.ext_getElem (by simp; omega) fun i h1 h2 => ?_
  simp

/-- A load that its L1 does not serve gives the bytes of memory, and where its page may be in the L1 its sector is there then. -/
theorem loadLocal_home {s : State} {x : Site1} (hc : coherent s) (hr : LineReady s (lineOf x.p.addr)) (hf : RecallFree s (lineOf x.p.addr))
    (hw : hasWay s (lineOf x.p.addr)) (hmiss : ¬(mayHit s x = true ∧ l1Holds s x.c.gcore x.p.addr x.p.size = true))
    (hw1 : usesL1 x = true → hasL1Way s x.c.gcore (lineOf x.p.addr)) (h0 : 0 < x.p.size) (hn : x.p.addr % 32 + x.p.size ≤ 32) :
    ∃ u, loadLocal s x = (.ok (memValue s x.p.addr x.p.size), u) ∧ CacheStep s u ∧ CellsKept s u
      ∧ (usesL1 x = true → l1Holds u x.c.gcore (x.p.addr / 32 * 32) 32 = true) := by
  have hmiss' : ¬(mayHit s x && l1Holds s x.c.gcore x.p.addr x.p.size) = true := by simpa using hmiss
  rw [loadLocal]
  simp only [if_neg hmiss']
  by_cases hu : usesL1 x = true
  · have hline : lineOf (x.p.addr / 32 * 32) = lineOf x.p.addr := by unfold lineOf; omega
    have hin : x.p.addr / 32 * 32 % 128 + 32 ≤ 128 := by omega
    have hbytes : x.p.addr / 32 * 32 + x.p.addr % 32 = x.p.addr := by omega
    have hway1 := hw1 hu
    rw [← hline] at hr hf hw hway1
    obtain ⟨t, ht, hread, -⟩ := readHome_step hc hr hf hw hin (by decide) x.p.attr 1
    have hcells := CellsKept.readHome hc hr hf hw hin x.p.attr 1
    rw [ht] at hcells
    obtain ⟨hfill, hholds⟩ := L1Step.l1Fill hread.keeps_coherent hread.owner (hasL1Way_of_shrinks hread.shrinks hway1) (by omega)
      fun i => memByte s (x.p.addr / 32 * 32 + i)
    refine ⟨_, ?_, hread.trans hfill.toCacheStep, hcells.trans hfill.cells, fun _ => hholds⟩
    simp only [hu, if_true, tryRead, ht, take_drop_range_map _ hn, memValue, ← Nat.add_assoc, hbytes]
  · obtain ⟨t, ht, hread, -⟩ := readHome_step hc hr hf hw (by omega) h0 x.p.attr 1
    have hcells := CellsKept.readHome hc hr hf hw (by omega : x.p.addr % 128 + x.p.size ≤ 128) x.p.attr 1
    rw [ht] at hcells
    have hdrop := L1Step.l1Drop hread.keeps_coherent (g := x.c.gcore) (by rw [hread.owner]; simp) x.p.size
    refine ⟨_, ?_, hread.trans hdrop.toCacheStep, hcells.trans hdrop.cells, fun h => absurd h hu⟩
    simp only [hu, Bool.false_eq_true, if_false, tryRead, ht, memValue]

/-! ## An error in the cells (03 R71) -/

theorem SameCaches.memory {s u : State} (h : SameCaches s u) : sameMemory s u := fun b => by
  simp only [memByte, h.line, h.l1Line, h.dram]

theorem SameCaches.of_eq {s u : State} (h : u.chassis = s.chassis) (hd : u.dram = s.dram) : SameCaches s u := by
  have hch : ∀ d, chassisOf u d = chassisOf s d := fun d => by rw [chassisOf, h, chassisOf]
  exact ⟨fun d => by rw [hch], coreG_congr fun d => by rw [hch], hd⟩

theorem sameCaches_sendEvent (s : State) (e : HostEvent) : SameCaches s (sendEvent s e) := by
  unfold sendEvent
  dsimp only
  split
  · exact .of_eq rfl rfl
  · split
    · exact .setChassis s rfl rfl
    · exact .setChassis s rfl rfl

theorem sameCaches_logError (s : State) (wa kind : Nat) : SameCaches s (logError s wa kind) := by
  unfold logError
  dsimp only
  split
  · refine .trans ?_ (sameCaches_sendEvent ..)
    exact .setChassis s rfl rfl
  · exact .setChassis s rfl rfl

theorem doing_logError (s : State) (wa kind : Nat) : (logError s wa kind).doing = s.doing := by
  rw [onlyLogged_logError s wa kind]

/-- A failed step of a read or write: caches, cells and coaches are as they were, and nothing holds the step. -/
structure Struck (s u : State) : Prop extends SameCaches s u where
  stall : u.doing.stall = s.doing.stall
  coaches : u.coaches = s.coaches

/-- The sector that a step reads first meets an error that cannot be corrected. -/
theorem readSector_struck {s : State} {a : Nat} (hb : bankFree s a) (hup : busLost s a = false) (he : s.doing.ecc = .uncorrectable) (kind : Nat)
    (rewrites : Bool) : ∃ u, readSector s a kind rewrites = (some 0x20, u) ∧ Struck s u := by
  obtain ⟨-, hsame⟩ := enterUnit_free hb
  have hdoing : (enterUnit s a).doing.ecc = .uncorrectable ∧ (enterUnit s a).doing.stall = s.doing.stall
      ∧ (enterUnit s a).coaches = s.coaches := by rw [enterUnit_eq hb]; exact ⟨he, rfl, rfl⟩
  generalize ht : enterUnit s a = t at hsame hdoing
  have hmeet : meetError t a
      = { t with doing := { t.doing with ecc := .clean }, flaws := mset t.flaws (a / 32) .uncorrectable } := by
    rw [meetError, strike, hdoing.1]; rfl
  have hflaw : flawAt (meetError t a) a = .uncorrectable := by rw [hmeet, flawAt, mget_mset, if_pos rfl]; rfl
  refine ⟨logError (meetError t a) a kind, ?_, .trans hsame ?_, ?_, ?_⟩
  · simp only [readSector, hup, Bool.false_eq_true, if_false, ht, hflaw]
  · refine .trans ?_ (sameCaches_logError ..)
    rw [hmeet]
    exact .of_eq rfl rfl
  · rw [doing_logError, hmeet]
    exact hdoing.2.1
  · rw [onlyLogged_logError, hmeet]
    exact hdoing.2.2

theorem sectorsOf_within {wa n : Nat} (h0 : 0 < n) (hn : wa % 32 + n ≤ 32) : sectorsOf wa n = [(wa, n)] := by
  have hone : (wa + n - 1) / 32 - wa / 32 + 1 = 1 := by omega
  have hfrom : sectorFrom wa 0 = wa := by simp only [sectorFrom]; omega
  have hto : sectorTo wa n 0 - wa = n := by simp only [sectorTo]; omega
  rw [sectorsOf_eq (by omega), hone]
  simp only [List.range_one, List.map_cons, List.map_nil, hfrom, hto]

theorem missingSectors_within {s : State} {wa n : Nat} (h0 : 0 < n) (hn : wa % 32 + n ≤ 32) (h : needsCells s wa n = true) :
    missingSectors s wa n = [wa] := by
  rw [missingSectors, sectorsOf_within h0 hn]
  simp [h]

/-- A whole sector needs the cells where a part of it does. -/
theorem needsCells_sector {s : State} {wa n : Nat} (hn : wa % 32 + n ≤ 32) (h : needsCells s wa n = true) :
    needsCells s (wa / 32 * 32) 32 = true := by
  have hline : lineOf (wa / 32 * 32) = lineOf wa := by unfold lineOf; omega
  simp only [needsCells, List.any_eq_true, List.mem_range, hline] at h ⊢
  obtain ⟨i, hi, hnone⟩ := h
  have hoff : wa / 32 * 32 + (wa % 32 + i) = wa + i := by omega
  exact ⟨wa % 32 + i, by omega, by rw [hoff]; exact hnone⟩

/-- A recall gives the home's line the same form, whatever the step meets. -/
theorem cacheLine_recallLine_meeting {s : State} {ln : Nat} (hc : coherent s) (hf : RecallFree s ln) (ecc : Ecc) (head : Bool) :
    cacheLine (recallLine (s.meeting ecc head) ln) ln = cacheLine (recallLine s ln) ln := by
  cases ho : lineOwner s ln with
  | none =>
    rw [recallLine_unowned ho, recallLine_unowned (s := s.meeting ecc head) ho]
    rfl
  | some g =>
    obtain ⟨l, hl, hg⟩ := lineOwner_eq_some.mp ho
    have howns := ((coherent_iff s).mp hc ln).owned g ho
    cases hl1 : l1Line s g ln with
    | none => rw [l1Owns, hl1] at howns; cases howns
    | some o =>
      rw [(recallLine_owned hl hg hl1 (hf g ho)).line, (recallLine_owned (s := s.meeting ecc head) hl hg hl1 (hf g ho)).line,
        if_pos rfl, if_pos rfl]

/-- A recall reads no cells, so that the error of a step is still before it. -/
theorem ecc_recallLine (s : State) (ln : Nat) : (recallLine s ln).doing.ecc = s.doing.ecc := by
  unfold recallLine
  split
  · rfl
  · split
    · rfl
    · split
      · rfl
      · dsimp only
        split <;> rfl

/-- The home of a line whose sector meets an error: its slice and banks are free, and no bus is lost. -/
theorem readHome_struck {s : State} {wa n : Nat} {head : Bool} (hc : coherent s) (hr : LineReady (s.begun head) (lineOf wa))
    (hf : RecallFree s (lineOf wa)) (h0 : 0 < n) (hn : wa % 32 + n ≤ 32) (hneeds : needsCells (recallLine s (lineOf wa)) wa n = true) (a : Attr)
    (kind : Nat) : ∃ u, readHome (s.meeting .uncorrectable head) a wa n kind = (.error 0x20, u) ∧ sameMemory s u ∧ u.doing.stall = none := by
  have henter : enterSlice (s.meeting .uncorrectable head) wa = s.meeting .uncorrectable head := by
    have hslice := hr.slice
    rw [lineDie_lineOf] at hslice
    exact if_pos hslice
  obtain ⟨hst, -⟩ := recallLine_step (s := s.meeting .uncorrectable head) hc hf
  have hecc : (recallLine (s.meeting .uncorrectable head) (lineOf wa)).doing.ecc = .uncorrectable := ecc_recallLine ..
  have hneeds' : needsCells (recallLine (s.meeting .uncorrectable head) (lineOf wa)) wa n = true := by
    rw [needsCells, cacheLine_recallLine_meeting hc hf]
    exact hneeds
  have hbus := (hst.busLost wa).trans (hr.buses wa)
  have hbank : bankFree (recallLine (s.meeting .uncorrectable head) (lineOf wa)) wa := hst.bankFree (hr.bank wa rfl)
  have hmem := hst.memory
  have hstall : (recallLine (s.meeting .uncorrectable head) (lineOf wa)).doing.stall = none := hst.stall
  simp only [readHome, henter]
  generalize recallLine (s.meeting .uncorrectable head) (lineOf wa) = t at hecc hneeds' hbus hbank hmem hstall
  simp only [hbus, missingSectors_within h0 hn hneeds', List.isEmpty_cons, Bool.false_eq_true, if_false, readSectorsAt]
  obtain ⟨u, hu, hstruck⟩ := readSector_struck hbank hbus hecc
    (if ((cacheLine t (lineOf wa)).isSome || (cacheOnAt t (lineOf wa) && a.allocates)) = true then 1 else kind)
    (!((cacheLine t (lineOf wa)).isSome || (cacheOnAt t (lineOf wa) && a.allocates)) && kind == 2)
  rw [hu]
  exact ⟨u, rfl, fun b => (hstruck.toSameCaches.memory b).trans (hmem b), hstruck.stall.trans hstall⟩

/-! ## The load's step -/

section load

variable {s : State} {r : OpRef} {x : Site1} (hx : accessOf s r = some x) (hkey : x.c.key = r.key) (hlive : x.c.exited ≠ BitVec.allOnes 32)
  (hload : x.o.kind = .load) (h0 : x.p.phase = 0) (hin : inOrder s x = true) (hsite : reachSite s x = .now) (hmem : x.p.space = .mem)
  (hmiss : ¬(mayHit s x = true ∧ l1Holds s x.c.gcore x.p.addr x.p.size = true)) (hc : coherent s) (hb : busesUp s)
  (hfree : lineFree s (lineOf x.p.addr)) (hpos : 0 < x.p.size) (hsector : x.p.addr % 32 + x.p.size ≤ 32)
include hx hkey hlive hload h0 hin hsite hmem hmiss hc hb hfree hpos hsector

theorem exec_loadReturn_home (hw : hasWay s (lineOf x.p.addr)) (hw1 : usesL1 x = true → hasL1Way s x.c.gcore (lineOf x.p.addr)) :
    ∃ u, exec (.loadReturn r .clean) s = .next (arrived u r x (memValue s x.p.addr x.p.size)) ∧ u = { s with chassis := u.chassis }
      ∧ sameMemory s u ∧ (usesL1 x = true → l1Holds u x.c.gcore (x.p.addr / 32 * 32) 32 = true) := by
  obtain ⟨u, hu, hstep, hcells, hholds⟩ := loadLocal_home (s := s.begun (heads s (.access r x.o.stamp))) hc (.begun hfree hb _)
    (.begun hfree _) hw hmiss hw1 hpos hsector
  have hv : loadAny (s.begun (heads s (.access r x.o.stamp))) x = (.ok (memValue s x.p.addr x.p.size), u) := by
    simp only [loadAny, loadValue, hmem, reduceCtorEq, if_false]
    exact hu
  have hsame := sameCaches_over s u (.access r x.o.stamp)
  have hdram : (s.over u (.access r x.o.stamp)).dram = s.dram := hsame.dram.trans hcells.dram
  have hflaws : (s.over u (.access r x.o.stamp)).flaws = s.flaws := (flaws_over ..).trans hcells.flaws
  refine ⟨s.over u (.access r x.o.stamp), exec_loadReturn_ok hx hkey hlive hload h0 hin hsite hstep.stall hv, ?_,
    fun b => (hsame.memory b).trans (hstep.memory b), fun h => (hsame.l1Holds ..).trans (hholds h)⟩
  have hrest := UnitStep.over_eq (ecc := .clean) hstep.toUnitStep (.access r x.o.stamp)
  rwa [hdram, hflaws] at hrest

theorem exec_loadReturn_home_fails (hneeds : needsCells (recallLine s (lineOf x.p.addr)) x.p.addr x.p.size = true) :
    ∃ u v, exec (.loadReturn r .uncorrectable) s = .next (failedWith u r x v) ∧ sameMemory s u := by
  have hmiss' : ∀ head, ¬(mayHit (s.meeting .uncorrectable head) x && l1Holds (s.meeting .uncorrectable head) x.c.gcore x.p.addr x.p.size) = true :=
    fun _ h => hmiss (Bool.and_eq_true_iff.mp h)
  obtain ⟨u, hu, hsame, hstall⟩ : ∃ u, loadAny (s.meeting .uncorrectable (heads s (.access r x.o.stamp))) x = (.error 0x20, u)
      ∧ sameMemory s u ∧ u.doing.stall = none := by
    simp only [loadAny, loadValue, hmem, reduceCtorEq, if_false, loadLocal, if_neg (hmiss' _)]
    have hr := LineReady.begun hfree hb (heads s (.access r x.o.stamp))
    have hf := RecallFree.of_lineFree hfree
    split
    · have hline : lineOf (x.p.addr / 32 * 32) = lineOf x.p.addr := by unfold lineOf; omega
      obtain ⟨u, hu, hsame⟩ := readHome_struck (wa := x.p.addr / 32 * 32) (n := 32) hc (hline ▸ hr) (hline ▸ hf) (by decide) (by omega)
        (hline ▸ needsCells_sector hsector hneeds) x.p.attr 1
      exact ⟨u, by rw [tryRead, hu], hsame⟩
    · obtain ⟨u, hu, hsame⟩ := readHome_struck hc hr hf hpos hsector hneeds x.p.attr 1
      exact ⟨u, by rw [tryRead, hu], hsame⟩
  refine ⟨_, _, exec_loadReturn_error hx hkey hlive hload h0 hin hsite hstall hu, fun b => ?_⟩
  have hover := sameCaches_over s (takeFreeBytes u x.p.size).2 (.access r x.o.stamp)
  exact (hover.memory b).trans (hsame b)

end load

end Sys2Proof.Machine
end

section
/-! PROOFS. A store that ends (10 R253), with those that are performed with it (03 R69, R71): in a typed buffer, at the host or at a peer. -/

namespace Sys2Proof.Machine
open Sys2Proof.Rules

/-! ## The accesses that are performed together (R69) -/

theorem filterMap_range_getElem? {α β : Type} (l : List α) : ∀ h : Nat → α → β,
    (List.range l.length).filterMap (fun i => (l[i]?).map (h i)) = l.mapIdx h := by
  induction l with
  | nil => exact fun _ => rfl
  | cons a l ih =>
    intro h
    rw [List.length_cons, List.range_succ_eq_map, List.mapIdx_cons, ← ih]
    simp [List.filterMap_map]

theorem filterMap_filter_getElem? {α : Type} (P : α → Bool) (l : List α) :
    ((List.range l.length).filter fun i => (l[i]?).any P).filterMap (fun i => l[i]?) = l.filter P := by
  induction l with
  | nil => rfl
  | cons a l ih =>
    rw [List.length_cons, List.range_succ_eq_map, List.filter_cons, List.filter_map]
    cases hP : P a <;> simp [hP, List.filterMap_map, Function.comp_def, ih]

theorem mapPieces_eq (ps : List Piece) (is : List Nat) (f : Piece → Piece) :
    mapPieces ps is f = ps.mapIdx fun i p => if is.contains i then f p else p := filterMap_range_getElem? ps _

theorem mapPieces_singleton {ps : List Piece} {i : Nat} {p : Piece} (h : ps[i]? = some p) (f : Piece → Piece) :
    mapPieces ps [i] f = ps.set i (f p) := by
  obtain ⟨hi, rfl⟩ := List.getElem?_eq_some_iff.mp h
  rw [mapPieces_eq]
  refine List.ext_getElem (by simp) fun j h1 h2 => ?_
  rw [List.getElem_mapIdx, List.getElem_set]
  by_cases hij : i = j
  · subst hij; simp
  · simp [hij, Ne.symm hij]

theorem storeGroup_window {x : Site1} (h : x.p.space ≠ .mem) : storeGroup x = [x.i] := if_neg h

theorem storeGroup_mem {x : Site1} (h : x.p.space = .mem) :
    storeGroup x = (List.range x.o.pieces.length).filter fun i => (x.o.pieces[i]?).any (together x) := by
  rw [storeGroup, if_pos h, sectorGroup, List.filter_filter]
  refine List.filter_congr fun i _ => ?_
  cases x.o.pieces[i]? with
  | none => rfl
  | some p =>
    simp only [Option.any_some, together]
    ac_rfl

theorem mapPieces_storeGroup {x : Site1} (h : x.p.space = .mem) (f : Piece → Piece) :
    mapPieces x.o.pieces (storeGroup x) f = x.o.pieces.map fun p => if together x p then f p else p := by
  rw [mapPieces_eq, storeGroup_mem h]
  refine List.ext_getElem (by simp) fun i h1 h2 => ?_
  have hi : i < x.o.pieces.length := by simpa using h1
  simp [hi]

theorem pieces_storeGroup {x : Site1} (h : x.p.space = .mem) :
    (storeGroup x).filterMap (fun i => x.o.pieces[i]?) = x.o.pieces.filter (together x) := by
  rw [storeGroup_mem h, filterMap_filter_getElem?]

/-! ## How a store ends -/

/-- A state in which a store has ended, and those with it. -/
def endedGroup (s : State) (r : OpRef) (x : Site1) (err : Option Nat) : State :=
  s.setCoach r.key (accessed x.c x.o.id (mapPieces x.o.pieces (storeGroup x) fun p => { p with phase := 2, err := err }))

theorem overAt_endedGroup (s : State) (r : OpRef) (x : Site1) (err : Option Nat) :
    overAt (endedGroup s r x err) r x = endedGroup (overAt s r x) r x err := leaveUnits_setCoach ..

theorem endedGroup_mem {x : Site1} (h : x.p.space = .mem) (s : State) (r : OpRef) (err : Option Nat) : endedGroup s r x err
    = s.setCoach r.key
      (accessed x.c x.o.id (x.o.pieces.map fun p => if together x p then { p with phase := 2, err := err } else p)) := by
  rw [endedGroup, mapPieces_storeGroup h]

theorem endedGroup_window {s : State} {r : OpRef} {x : Site1} (hx : accessOf s r = some x) (h : x.p.space ≠ .mem) (u : State) (err : Option Nat) :
    endedGroup u r x err = u.setCoach r.key (performed x.c x.o r.piece { x.p with phase := 2, err := err }) := by
  obtain ⟨hi, hp⟩ := piece_of_accessOf hx
  rw [endedGroup, storeGroup_window h, hi, mapPieces_singleton hp]
  rfl

section store

variable {s : State} {r : OpRef} {x : Site1} (hx : accessOf s r = some x) (hlive : x.c.exited ≠ BitVec.allOnes 32) (hstore : x.o.kind = .store)
include hx hlive hstore

/-- A store that was performed in place leaves (04 R107). -/
theorem exec_storePerformed_taken (h1 : x.p.phase = 1) (ecc : Ecc) : exec (.storePerformed r ecc) s
    = .next (overAt (s.setCoach r.key (performed x.c x.o r.piece { x.p with phase := 2, err := x.p.err })) r x) := by
  have hrun : ∀ head, storePerformed (s.meeting ecc head) r
      = (s.meeting ecc head).setCoach r.key (performed x.c x.o r.piece { x.p with phase := 2 }) := by
    intro head
    rw [← completePiece_eq (s := s.meeting ecc head) (coachOf_of_accessOf hx) hlive]
    have hx' : accessOf (s.meeting ecc head) r = some x := hx
    simp only [storePerformed, hx', hstore, h1, if_true, one_ne_zero, if_false]
  rw [exec_storePerformed_eq hx, hrun, settleStep_over (by rfl)]
  rfl

variable (h0 : x.p.phase = 0)
  (hord : ∀ i ∈ storeGroup x, ∃ p, x.o.pieces[i]? = some p ∧ inOrder s { x with p := p, i := i } (storeGroup x) = true)
  (hheld : storeHeld s x = false)
include h0 hord hheld

omit hx hlive hstore h0 in
/-- It is the store's turn, whatever error its step meets. -/
theorem performStore_turn (ecc : Ecc) (head : Bool) : (!(storeGroup x).all fun i =>
      (x.o.pieces[i]?).any fun p => inOrder (s.meeting ecc head) { x with p := p, i := i } (storeGroup x)) = false
    ∧ storeHeld (s.meeting ecc head) x = false := by
  refine ⟨?_, hheld⟩
  rw [Bool.not_eq_false', List.all_eq_true]
  intro i hi
  obtain ⟨p, hp, hin⟩ := hord i hi
  rw [hp]
  exact hin

omit hlive in
theorem storePerformed_never (hsite : reachSite s x = .never) (ecc : Ecc) (head : Bool) : storePerformed (s.meeting ecc head) r
    = putPieces (s.meeting ecc head) r.key x.o.id (mapPieces x.o.pieces (storeGroup x) fun p => { p with phase := 2, err := some 0x20 }) := by
  obtain ⟨hall, hheld'⟩ := performStore_turn hord hheld ecc head
  have hx' : accessOf (s.meeting ecc head) r = some x := hx
  have hsite' : reachSite (s.meeting ecc head) x = .never := hsite
  simp only [storePerformed, hx', hstore, h0, if_true, performStore, hall, hheld', Bool.or_self, Bool.false_eq_true, if_false, hsite']

omit hlive in
theorem storePerformed_now (hsite : reachSite s x = .now) (ecc : Ecc) (head : Bool) : storePerformed (s.meeting ecc head) r
    = putPieces (storeAny (s.meeting ecc head) x).2 r.key x.o.id (mapPieces x.o.pieces (storeGroup x) fun p =>
        { p with phase := 2, err := (storeAny (s.meeting ecc head) x).1 }) := by
  obtain ⟨hall, hheld'⟩ := performStore_turn hord hheld ecc head
  have hx' : accessOf (s.meeting ecc head) r = some x := hx
  have hsite' : reachSite (s.meeting ecc head) x = .now := hsite
  simp only [storePerformed, hx', hstore, h0, if_true, performStore, hall, hheld', Bool.or_self, Bool.false_eq_true, if_false, hsite']

/-- What the divided ring cuts off (07 R178). -/
theorem exec_storePerformed_never (hsite : reachSite s x = .never) (ecc : Ecc) :
    exec (.storePerformed r ecc) s = .next (overAt (endedGroup s r x (some 0x20)) r x) := by
  rw [exec_storePerformed_eq hx, storePerformed_never hx hstore h0 hord hheld hsite,
    putPieces_eq (s := s.meeting ecc _) (coachOf_of_accessOf hx) hlive, settleStep_over (by rfl)]
  rfl

/-- A store that comes to a state, with an error or without. -/
theorem exec_storePerformed_now (hsite : reachSite s x = .now) {ecc : Ecc} {e : Option Nat} {u : State} (hcoaches : u.coaches = s.coaches)
    (hstall : u.doing.stall = none) (hv : storeAny (s.meeting ecc (heads s (.access r x.o.stamp))) x = (e, u)) :
    exec (.storePerformed r ecc) s = .next (endedGroup (s.over u (.access r x.o.stamp)) r x e) := by
  have hc : coachOf u r.key = some x.c := by rw [coachOf, hcoaches]; exact coachOf_of_accessOf hx
  rw [exec_storePerformed_eq hx, storePerformed_now hx hstore h0 hord hheld hsite, hv,
    putPieces_eq hc hlive, settleStep_over (by exact hstall), over_setCoach]
  rfl

variable (hsite : reachSite s x = .now)
include hsite

theorem exec_storePerformed_host (hhost : x.p.space = .host) : exec (.storePerformed r .clean) s
    = .next (overAt (endedGroup { s with hostWrites := s.hostWrites ++ [(x.p.addr, x.p.bytes)] } r x none) r x) := by
  rw [exec_storePerformed_now hx hlive hstore h0 hord hheld hsite (e := none)
    (u := { s.meeting .clean (heads s (.access r x.o.stamp)) with hostWrites := s.hostWrites ++ [(x.p.addr, x.p.bytes)] }) rfl rfl ?_]
  · rw [overAt_endedGroup]; rfl
  · simp only [storeAny, storeValue, hhost, reduceCtorEq, if_false]
    rfl

theorem exec_storePerformed_peer (hpeer : x.p.space = .peer) : exec (.storePerformed r .clean) s
    = .next (overAt (endedGroup
      { s with peerWrites := s.peerWrites ++ [(x.p.addr / 2 ^ 40 % 8, x.p.addr % 2 ^ 40, x.p.bytes)] } r x none) r x) := by
  rw [exec_storePerformed_now hx hlive hstore h0 hord hheld hsite (e := none)
    (u := { s.meeting .clean (heads s (.access r x.o.stamp)) with
      peerWrites := s.peerWrites ++ [(x.p.addr / 2 ^ 40 % 8, x.p.addr % 2 ^ 40, x.p.bytes)] }) rfl rfl ?_]
  · rw [overAt_endedGroup]; rfl
  · simp only [storeAny, storeValue, hpeer, reduceCtorEq, if_false]
    rfl

end store

/-! ## Bytes of a typed buffer (04 R86) -/

@[simp] theorem length_bytes (p : Piece) : p.bytes.length = p.size := length_leBytes ..

theorem getD_leBytes (n : Nat) : ∀ v i, i < n → (leBytes n v).getD i 0 = BitVec.ofNat 8 (v / 256 ^ i) := by
  induction n with
  | zero => exact fun _ _ h => absurd h (Nat.not_lt_zero _)
  | succ n ih =>
    intro v i hi
    cases i with
    | zero => simp [leBytes]
    | succ i => rw [leBytes, List.getD_cons_succ, ih _ _ (by omega), Nat.div_div_eq_div_mul, pow_succ']

/-- A core with bytes written into one of its buffers, by kind. -/
theorem bufCells_bufWrite (s : State) (g a : Nat) (bs : List Byte) {kind : Nat} (hk : kind ∈ [1, 2, 3]) {j : Nat} (hj : j ∈ [1, 2, 3])
    (h : Nat) : bufCells (coreG (bufWrite s g kind a bs) h) j
      = if j = kind ∧ h = g then cwrite (bufCells (coreG s g) kind) a bs else bufCells (coreG s h) j := by
  unfold bufWrite
  rw [coreG_setCoreG]
  by_cases hg : h = g
  · subst hg
    simp only [if_true, and_true]
    simp only [List.mem_cons, List.not_mem_nil, or_false] at hk hj
    rcases hk with rfl | rfl | rfl <;> rcases hj with rfl | rfl | rfl <;> rfl
  · rw [if_neg hg, if_neg (by tauto)]

/-- A store into a typed buffer. -/
theorem exec_storePerformed_buffer {s : State} {r : OpRef} {x : Site1} (hx : accessOf s r = some x) (hlive : x.c.exited ≠ BitVec.allOnes 32)
    (hstore : x.o.kind = .store) (h0 : x.p.phase = 0)
    (hord : ∀ i ∈ storeGroup x, ∃ p, x.o.pieces[i]? = some p ∧ inOrder s { x with p := p, i := i } (storeGroup x) = true)
    (hheld : storeHeld s x = false) (hsite : reachSite s x = .now) {kind h : Nat} (hk : kind ∈ [1, 2, 3]) (hbuf : x.p.space = .buf kind h) :
    ∃ u, exec (.storePerformed r .clean) s = .next (endedGroup u r x none) ∧ u = { s with chassis := u.chassis }
      ∧ (∀ b, cget (bufCells (coreG u h) kind) b
          = if x.p.addr ≤ b ∧ b < x.p.addr + x.p.size then BitVec.ofNat 8 (x.p.data / 256 ^ (b - x.p.addr)) else cget (bufCells (coreG s h) kind) b)
      ∧ ∀ j k, j ∈ [1, 2, 3] → j ≠ kind ∨ k ≠ h → bufCells (coreG u k) j = bufCells (coreG s k) j := by
  have hcore := (sameCaches_over s (bufWrite (s.begun (heads s (.access r x.o.stamp))) h kind x.p.addr x.p.bytes) (.access r x.o.stamp)).core
  have hcells : ∀ k j, j ∈ [1, 2, 3] → bufCells (coreG (bufWrite (s.begun (heads s (.access r x.o.stamp))) h kind x.p.addr x.p.bytes) k) j
      = if j = kind ∧ k = h then cwrite (bufCells (coreG s h) kind) x.p.addr x.p.bytes else bufCells (coreG s k) j :=
    fun k j hj => bufCells_bufWrite (s.begun _) h x.p.addr x.p.bytes hk hj k
  refine ⟨s.over (bufWrite (s.begun (heads s (.access r x.o.stamp))) h kind x.p.addr x.p.bytes) (.access r x.o.stamp),
    exec_storePerformed_now hx hlive hstore h0 hord hheld hsite rfl rfl ?_, ?_, fun b => ?_, fun j k hj hne => ?_⟩
  · simp only [storeAny, storeValue, hbuf, reduceCtorEq, if_false]
    rfl
  · rw [State.over, leaveUnits_chassis]
    rfl
  · rw [hcore, hcells h kind hk, if_pos ⟨rfl, rfl⟩, cget_cwrite, length_bytes]
    split
    · next hin => exact getD_leBytes x.p.size x.p.data _ (by omega)
    · rfl
  · rw [hcore, hcells k j hj, if_neg (by tauto)]

end Sys2Proof.Machine
end

section
/-! PROOFS. Stores into local memory (04 R96, R100, R107, 03 R69, R71): at the home of their sector, or in place in a line that their core owns. -/

namespace Sys2Proof.Machine
open Sys2Proof.Rules

/-! ## The scan and the instruction cache give way (02 R58) -/

/-- The machine before a core's store to a line: the scan of its page is cleared, and the core's instruction cache drops the line. -/
def cleared (s : State) (g wa : Nat) : State := dropCode (clearScan s wa) g (lineOf wa)

theorem dropCode_eq (s : State) (g ln : Nat) : ∃ m, dropCode s g ln = s ∨ dropCode s g ln = s.setCoreG g { coreG s g with icache := m } := by
  unfold dropCode
  dsimp only
  split
  · exact ⟨[], .inl rfl⟩
  · exact ⟨_, .inr rfl⟩

theorem L1Step.dropCode {s : State} (hc : coherent s) (g ln : Nat) :
    L1Step s (dropCode s g ln) ∧ (∀ h j, l1Line (dropCode s g ln) h j = l1Line s h j)
      ∧ ∀ d, (chassisOf (dropCode s g ln) d).cache = (chassisOf s d).cache := by
  obtain ⟨m, h | h⟩ := dropCode_eq s g ln <;> rw [h]
  · exact ⟨.refl hc, fun _ _ => rfl, fun _ => rfl⟩
  · have hl1 : ∀ h j, l1Line (s.setCoreG g { coreG s g with icache := m }) h j = l1Line s h j := by
      intro h j
      simp only [l1Line, coreG_setCoreG]
      split
      · next e => rw [e]
      · rfl
    refine ⟨⟨⟨.setCoreG .., fun j => .of_same ((coherent_iff s).mp hc j) (cacheLine_setCoreG ..) (fun _ _ => rfl) fun h => .inl (hl1 h j)⟩,
      fun j => cacheLine_setCoreG .., ⟨rfl, rfl⟩⟩, hl1, fun d => cache_setCoreG ..⟩

theorem L1Step.clearScan {s : State} (hc : coherent s) (wa : Nat) : L1Step s (clearScan s wa) :=
  ⟨.of_same hc (.clearScan s wa) (.clearScan s wa), (SameCaches.clearScan s wa).line, ⟨rfl, rfl⟩⟩

theorem L1Step.cleared {s : State} (hc : coherent s) (g wa : Nat) :
    L1Step s (cleared s g wa) ∧ (∀ h j, l1Line (Machine.cleared s g wa) h j = l1Line s h j)
      ∧ ∀ d, (chassisOf (Machine.cleared s g wa) d).cache = (chassisOf s d).cache := by
  have hscan := L1Step.clearScan hc wa
  have hsame := SameCaches.clearScan s wa
  obtain ⟨hcode, hl1, hcache⟩ := L1Step.dropCode hscan.keeps_coherent g (lineOf wa)
  exact ⟨hscan.trans hcode, fun h j => (hl1 h j).trans (hsame.l1Line h j), fun d => (hcache d).trans (hsame.cache d)⟩

theorem hasWay_of_cache {s u : State} {ln : Nat} (h : ∀ d, (chassisOf u d).cache = (chassisOf s d).cache) (hw : hasWay s ln) : hasWay u ln := by
  unfold hasWay cacheLine at *
  rwa [h]

theorem L1Step.owners {s u : State} (h : L1Step s u) : OwnersShrink s u := fun ln _ hg => h.owner ln ▸ hg

/-! ## A write at the home (R100, R101) -/

theorem setLine_setLine (s : State) (ln : Nat) (l k : CacheLine) : setLine (setLine s ln l) ln k = setLine s ln k := by
  unfold setLine
  rw [chassisOf_setChassis_self]
  simp only [State.setChassis, mset_mset]

/-- A new line without bytes reads as the cells. -/
theorem CacheStep.newLine {s : State} (hc : coherent s) {ln : Nat} (hl : cacheLine s ln = none) (prio : Nat) :
    CacheStep s (setLine s ln { prio := prio }) := by
  refine .of_line hc (by rw [lineOwner, hl]; rfl) (.setLine ..) (cacheLine_setLine s ln · _) (coreG_setLine s ln · _) rfl rfl .nil
    (fun i hi => ?_) fun i b h => absurd h (by simp [mget])
  rw [homeByte_of_no_line (by rw [lineOf_offset hi, hl])]
  rfl

/-- A core's write to a line without an owner, for which its set has a way. -/
theorem homeWrite_home {s : State} {g wa : Nat} {bs : List Byte} (hc : coherent s) (ho : lineOwner s (lineOf wa) = none)
    (hw : hasWay s (lineOf wa)) (hb : bs ≠ []) (hn : wa % 128 + bs.length ≤ 128) (a : Attr) :
    HomeWrite s (homeWrite s (some g) wa bs a) wa bs ∧ hasWay (homeWrite s (some g) wa bs a) (lineOf wa) := by
  obtain ⟨hst, -, hcache⟩ := L1Step.cleared hc g wa
  have e : homeWrite s (some g) wa bs a = match cacheLine (cleared s g wa) (lineOf wa) with
      | some l => touch (setLine (cleared s g wa) (lineOf wa) (l.write (wa % 128) bs)) (lineOf wa)
      | none => if cacheOnAt (cleared s g wa) (lineOf wa) && a.allocates then
          touch (setLine (makeRoom (cleared s g wa) (lineOf wa)) (lineOf wa) (({ prio := a.prio } : CacheLine).write (wa % 128) bs)) (lineOf wa)
        else { mend (cleared s g wa) wa with dram := cwrite (cleared s g wa).dram wa bs } := by
    simp only [homeWrite, List.isEmpty_eq_false_iff.mpr hb, recallLine_unowned ho, Bool.false_eq_true, if_false]
    rfl
  have hlo := (hst.owner (lineOf wa)).trans ho
  have hway := hasWay_of_cache hcache hw
  have hcv := hst.keeps_coherent
  rw [e]
  generalize cleared s g wa = v at hst hlo hway hcv
  have key : ∀ {t : State} {l : CacheLine}, CacheStep v t → OwnersShrink v t → lineOwner t (lineOf wa) = none →
      cacheLine t (lineOf wa) = some l → HomeWrite s (touch (setLine t (lineOf wa) (l.write (wa % 128) bs)) (lineOf wa)) wa bs
        ∧ hasWay (touch (setLine t (lineOf wa) (l.write (wa % 128) bs)) (lineOf wa)) (lineOf wa) := by
    intro t l ht hot hlt hl
    have hline := cacheLine_setLine t (lineOf wa) (lineOf wa) (l.write (wa % 128) bs)
    rw [if_pos rfl] at hline
    have hwr := HomeWrite.setLine ht.keeps_coherent hlt hl hn
    have hnone : lineOwner (setLine t (lineOf wa) (l.write (wa % 128) bs)) (lineOf wa) = none := by
      have hlo' : l.owner = none := by simpa [lineOwner, hl] using hlt
      rw [lineOwner, hline]
      exact hlo'
    refine ⟨.after (hst.toCacheStep.trans ht) (hst.owners.trans hot) (hwr.before (.touch hwr.coherent hnone) (.touch _ _)), .inl ?_⟩
    rw [isSome_touch, hline]
    rfl
  split
  · next l hl => exact key (.refl hcv) (.refl v) hlo hl
  · next hl =>
    have hroom : makeRoom v (lineOf wa) = v := by simpa [hl] using makeRoom_of_hasWay hway
    split
    · have hnew := CacheStep.newLine hcv hl a.prio
      have hline := cacheLine_setLine v (lineOf wa) (lineOf wa) { prio := a.prio }
      rw [if_pos rfl] at hline
      have hwritten := key hnew (.setLine (fun _ => rfl) fun g' hg => absurd hg (by simp)) (by rw [lineOwner, hline]; rfl) hline
      rw [setLine_setLine] at hwritten
      rwa [hroom]
    · exact ⟨.after hst.toCacheStep hst.owners (.cells hcv hl hn), hasWay_of_cache (fun _ => rfl) hway⟩

/-- Bytes over others, range by range. -/
def patchedAll (ws : Parts) (f : Nat → Byte) : Nat → Byte := ws.foldl (fun f w => patched f w.1 w.2) f

/-- Ranges of a line are written one after another. -/
theorem putSector_home {s : State} {g ln : Nat} {ws : Parts} (hc : coherent s) (ho : lineOwner s ln = none) (hw : hasWay s ln)
    (hws : ∀ w ∈ ws, lineOf w.1 = ln ∧ w.2 ≠ [] ∧ w.1 % 128 + w.2.length ≤ 128) (a : Attr) :
    HomeStep s (putSector s (some g) ws a) ∧ memByte (putSector s (some g) ws a) = patchedAll ws (memByte s) := by
  induction ws generalizing s with
  | nil => exact ⟨.refl hc, rfl⟩
  | cons w ws ih =>
    obtain ⟨hline, hb, hn⟩ := hws w (.head _)
    subst hline
    obtain ⟨hwr, hway⟩ := homeWrite_home (g := g) hc ho hw hb hn a
    have hnone : lineOwner (homeWrite s (some g) w.1 w.2 a) (lineOf w.1) = none :=
      Option.eq_none_iff_forall_ne_some.mpr fun h hh => by simpa [ho] using hwr.owners _ h hh
    obtain ⟨hrest, hmem⟩ := ih hwr.coherent hnone hway fun v hv => hws v (.tail _ hv)
    exact ⟨hwr.toHomeStep.trans hrest, hmem.trans (congrArg (patchedAll ws) (funext hwr.memory))⟩

/-- The home makes ready for a write of one sector of a line that takes accesses. -/
theorem readyWrite_parts {s : State} {wa : Nat} (hc : coherent s) (ho : LineOpen s (lineOf wa)) (hw : hasWay s (lineOf wa)) (bs : List Byte)
    (ws : Parts) (a : Attr) : ∃ u, readyWrite s ((wa, bs) :: ws) a = (none, u) ∧ HomeStep s u ∧ sameMemory s u
      ∧ lineOwner u (lineOf wa) = none ∧ hasWay u (lineOf wa) := by
  obtain ⟨hst, hown, -⟩ := recallLine_step hc ho.frees
  have hr := ho.ready.step hst.toUnitStep
  have hstep := hst.homeStep (.recallLine s (lineOf wa))
  have hway := hasWay_recallLine hc ho.frees hw
  simp only [readyWrite, ho.ready.enterSlice, hr.buses wa, Bool.false_eq_true, if_false]
  split
  · obtain ⟨u, hu, huu, hus⟩ := hr.openSector rfl 2 (Parts.whole ((wa, bs) :: ws) wa)
    have hsame := CacheStep.of_same hst.keeps_coherent huu hus
    exact ⟨u, hu, hstep.trans (hsame.homeStep (.of_same hus)), (hst.trans hsame).memory, (hus.lineOwner _).trans hown, hasWay_congr hus hway⟩
  · exact ⟨_, rfl, hstep, hst.memory, hown, hway⟩

/-- The L1 of a core behind stores of a line that no L1 owns. -/
theorem L1Step.settleL1 {s : State} (hc : coherent s) {g ln : Nat} (ho : lineOwner s ln = none) (ps : List Piece)
    (hps : ∀ p ∈ ps, lineOf p.addr = ln) : L1Step s (settleL1 s g ps) := by
  induction ps generalizing s with
  | nil => exact .refl hc
  | cons p ps ih =>
    have hne : lineOwner s (lineOf p.addr) ≠ some g := by rw [hps p (.head _), ho]; simp
    have hp : L1Step s (if p.late then Machine.l1Update s g p.addr p.bytes else if p.shown then s else Machine.l1Drop s g p.addr p.size) := by
      split
      · exact .l1Update hc hne _
      · split
        · exact .refl hc
        · exact .l1Drop hc hne _
    exact hp.trans (ih hp.keeps_coherent (by rw [hp.owner, ho]) fun q hq => hps q (.tail _ hq))

/-! ## The bytes of a group of stores -/

theorem patched_bytes (f : Nat → Byte) (p : Piece) : patched f p.addr p.bytes
    = fun b => if p.addr ≤ b ∧ b < p.addr + p.size then BitVec.ofNat 8 (p.data / 256 ^ (b - p.addr)) else f b := by
  funext b
  rw [patched, length_bytes]
  split
  · next h => exact getD_leBytes p.size p.data _ (by omega)
  · rfl

theorem overlay_eq (ps : List Piece) (f : Nat → Byte) : overlay ps f = patchedAll (ps.map fun p => (p.addr, p.bytes)) f := by
  simp only [overlay, patchedAll, List.foldl_map, patched_bytes]

theorem groupParts_eq {x : Site1} (h : x.p.space = .mem) :
    groupParts x (storeGroup x) = (x.o.pieces.filter (together x)).map fun p => (p.addr, p.bytes) := by
  rw [groupParts, ← pieces_storeGroup h, List.map_filterMap]

theorem line_of_together {x : Site1} {p : Piece} (h : together x p = true) : lineOf p.addr = lineOf x.p.addr := by
  simp only [together, Bool.and_eq_true, beq_iff_eq] at h
  unfold lineOf
  omega

/-- Each access of the group is of some bytes of one sector. -/
def SmallGroup (x : Site1) : Prop := ∀ p ∈ x.o.pieces, together x p = true → 0 < p.size ∧ p.addr % 32 + p.size ≤ 32

/-- A store stands in its own group. -/
theorem group_eq_cons {x : Site1} {i : Nat} (hp : x.o.pieces[i]? = some x.p) (h0 : x.p.phase = 0) (hmem : x.p.space = .mem) :
    ∃ q qs, x.o.pieces.filter (together x) = q :: qs ∧ lineOf q.addr = lineOf x.p.addr := by
  have hin : x.p ∈ x.o.pieces.filter (together x) := List.mem_filter.mpr ⟨List.mem_of_getElem? hp, by simp [together, h0, hmem]⟩
  cases hg : x.o.pieces.filter (together x) with
  | nil => rw [hg] at hin; cases hin
  | cons q qs =>
    have hq : q ∈ x.o.pieces.filter (together x) := by rw [hg]; exact List.mem_cons_self ..
    exact ⟨q, qs, rfl, line_of_together (List.mem_filter.mp hq).2⟩

theorem SmallGroup.parts {x : Site1} (h : SmallGroup x) : ∀ w ∈ (x.o.pieces.filter (together x)).map fun p => (p.addr, p.bytes),
    lineOf w.1 = lineOf x.p.addr ∧ w.2 ≠ [] ∧ w.1 % 128 + w.2.length ≤ 128 := by
  intro w hw
  obtain ⟨p, hp, rfl⟩ := List.mem_map.mp hw
  obtain ⟨hp, ht⟩ := List.mem_filter.mp hp
  obtain ⟨h0, hn⟩ := h p hp ht
  refine ⟨line_of_together ht, List.ne_nil_of_length_pos (by rw [length_bytes]; exact h0), ?_⟩
  rw [length_bytes]
  show p.addr % 128 + p.size ≤ 128
  omega

/-! ## A store at the home (R69, R71) -/

theorem storeLocal_home {s : State} {x : Site1} {i : Nat} (hc : coherent s) (ho : LineOpen s (lineOf x.p.addr)) (hw : hasWay s (lineOf x.p.addr))
    (hown : l1Owns s x.c.gcore (lineOf x.p.addr) = false) (hp : x.o.pieces[i]? = some x.p) (h0 : x.p.phase = 0) (hmem : x.p.space = .mem)
    (hsmall : SmallGroup x) :
    ∃ u, storeLocal s x = (none, u) ∧ UnitStep s u ∧ wroteAll s u (x.o.pieces.filter (together x)) := by
  obtain ⟨q, qs, hgroup, hq⟩ := group_eq_cons hp h0 hmem
  obtain ⟨t, ht, hst, hsame, hnone, hway⟩ := readyWrite_parts hc (hq ▸ ho) (hq ▸ hw) q.bytes (qs.map fun p => (p.addr, p.bytes)) x.p.attr
  rw [hq] at hnone hway
  have hparts : (q.addr, q.bytes) :: (qs.map fun p => (p.addr, p.bytes)) = (x.o.pieces.filter (together x)).map fun p => (p.addr, p.bytes) := by
    rw [hgroup]; rfl
  rw [hparts] at ht
  obtain ⟨hput, hbytes⟩ := putSector_home (g := x.c.gcore) hst.coherent hnone hway hsmall.parts x.p.attr
  have hnone' : lineOwner (putSector t (some x.c.gcore) ((x.o.pieces.filter (together x)).map fun p => (p.addr, p.bytes)) x.p.attr)
      (lineOf x.p.addr) = none := Option.eq_none_iff_forall_ne_some.mpr fun h hh => by simpa [hnone] using hput.owners _ h hh
  have hsettle := L1Step.settleL1 hput.coherent (g := x.c.gcore) hnone' (x.o.pieces.filter (together x))
    fun p hp => line_of_together (List.mem_filter.mp hp).2
  refine ⟨_, ?_, (hst.toUnitStep.trans hput.toUnitStep).trans hsettle.toUnitStep, fun b => ?_⟩
  · simp only [storeLocal, hown, Bool.false_eq_true, if_false, writeSector, groupParts_eq hmem, pieces_storeGroup hmem, ht]
  · rw [hsettle.memory b, hbytes, overlay_eq, show memByte t = memByte s from funext hsame]

/-- A masked write reads its sector first, and may meet an error there; no byte changes then. -/
theorem storeLocal_struck {s : State} {x : Site1} {i : Nat} {head : Bool} (hc : coherent s) (hr : LineReady (s.begun head) (lineOf x.p.addr))
    (hown : l1Owns s x.c.gcore (lineOf x.p.addr) = false) (hp : x.o.pieces[i]? = some x.p) (h0 : x.p.phase = 0) (hmem : x.p.space = .mem)
    (hcells : writeToCells s x.p.addr x.p.attr = true)
    (hpart : ∃ b, b / 32 = x.p.addr / 32 ∧ ∀ p ∈ x.o.pieces, together x p = true → ¬(p.addr ≤ b ∧ b < p.addr + p.size)) :
    ∃ u, storeLocal (s.meeting .uncorrectable head) x = (some 0x20, u) ∧ u.coaches = s.coaches ∧ u.doing.stall = none ∧ sameMemory s u := by
  obtain ⟨q, qs, hgroup, hq⟩ := group_eq_cons hp h0 hmem
  have hnoline : cacheLine s (lineOf x.p.addr) = none := by
    simp only [writeToCells, Bool.and_eq_true, Option.isNone_iff_eq_none] at hcells
    exact hcells.1
  have hun : lineOwner (s.meeting .uncorrectable head) (lineOf x.p.addr) = none := by
    rw [lineOwner, show cacheLine (s.meeting .uncorrectable head) _ = none from hnoline]; rfl
  have henter : enterSlice (s.meeting .uncorrectable head) q.addr = s.meeting .uncorrectable head := by
    have hslice := hr.slice
    rw [← hq, lineDie_lineOf] at hslice
    exact if_pos hslice
  have hcells' : writeToCells (s.meeting .uncorrectable head) q.addr x.p.attr = true := by
    rw [writeToCells, hq]
    exact hcells
  have hbus : busLost (s.meeting .uncorrectable head) q.addr = false := hr.buses q.addr
  have hwhole : Parts.whole (groupParts x (storeGroup x)) q.addr = false := by
    obtain ⟨b, hb, hnot⟩ := hpart
    have hqt : q ∈ x.o.pieces.filter (together x) := by rw [hgroup]; exact List.mem_cons_self ..
    have hqs : q.addr / 32 = x.p.addr / 32 := by
      have := (List.mem_filter.mp hqt).2
      simp only [together, Bool.and_eq_true, beq_iff_eq] at this
      exact this.1.2
    have hoff : q.addr / 32 * 32 + b % 32 = b := by omega
    rw [groupParts_eq hmem, Parts.whole, List.all_eq_false]
    refine ⟨b % 32, List.mem_range.mpr (Nat.mod_lt _ (by decide)), ?_⟩
    rw [Bool.not_eq_true, List.any_eq_false, hoff]
    intro w hw
    obtain ⟨p, hp, rfl⟩ := List.mem_map.mp hw
    obtain ⟨hp, ht⟩ := List.mem_filter.mp hp
    have hout := hnot p hp ht
    rw [length_bytes]
    simpa using hout
  obtain ⟨u, hu, hstruck⟩ := readSector_struck (s := s.meeting .uncorrectable head) (hr.bank q.addr hq) hbus rfl 2 true
  have hready : readyWrite (s.meeting .uncorrectable head) (groupParts x (storeGroup x)) x.p.attr = (some 0x20, u) := by
    rw [groupParts_eq hmem, hgroup] at hwhole ⊢
    simp only [List.map_cons] at hwhole ⊢
    simp only [readyWrite, henter, hq, recallLine_unowned hun, hbus, hcells', openSector, hwhole, Bool.false_eq_true, if_false, if_true]
    exact hu
  have hcu : coherent u := (coherent_iff u).mpr fun ln => (hstruck.toSameCaches.kept (s := s.meeting .uncorrectable head) hc ln).coherent
  have hdrop := L1Step.l1Drop hcu (g := x.c.gcore) (wa := x.p.addr) (by rw [hstruck.toSameCaches.lineOwner, hun]; simp) x.p.size
  have hown' : l1Owns (s.meeting .uncorrectable head) x.c.gcore (lineOf x.p.addr) = false := hown
  refine ⟨l1Drop u x.c.gcore x.p.addr x.p.size, ?_, hdrop.coaches.trans hstruck.coaches, hdrop.stall.trans hstruck.stall,
    fun b => (hdrop.memory b).trans (hstruck.toSameCaches.memory b)⟩
  simp only [storeLocal, hown', Bool.false_eq_true, if_false, writeSector, hready]

/-! ## A store in a line that its core owns (R107) -/

theorem memByte_of_owned {s : State} {b g : Nat} {o : L1Line} (ho : lineOwner s (lineOf b) = some g) (hl : l1Line s g (lineOf b) = some o) :
    memByte s b = (if o.dirty.getLsbD (b % 128) then mget o.bytes (b % 128) else none).getD (homeByte s b) := by
  unfold lineOwner at ho
  simp only [memByte, ho, Option.bind_some, hl, homeByte]
  cases (if o.dirty.getLsbD (b % 128) then mget o.bytes (b % 128) else none) with
  | none => cases (cacheLine s (lineOf b)).bind fun l => mget l.bytes (b % 128) <;> rfl
  | some v => rfl

/-- A step of the L1s of a store in place: the homes and the cells are as they were, and memory holds some bytes from an address on. -/
structure L1Write (s u : State) (a : Nat) (bs : List Byte) : Prop extends HomeWrite s u a bs where
  homes : ∀ j, cacheLine u j = cacheLine s j
  cells : CellsKept s u

theorem L1Write.l1Update {s : State} {g wa : Nat} {bs : List Byte} (hc : Rules.coherent s) (ho : lineOwner s (lineOf wa) = some g)
    (hheld : l1Holds s g wa bs.length = true) (hn : wa % 128 + bs.length ≤ 128) : L1Write s (l1Update s g wa bs) wa bs := by
  have hs := (coherent_iff s).mp hc
  have howns := (hs _).owned g ho
  cases hl : l1Line s g (lineOf wa) with
  | none => rw [l1Owns, hl] at howns; cases howns
  | some o =>
    rw [l1Owns, hl] at howns
    rw [l1Holds, hl] at hheld
    simp only [List.all_eq_true, List.mem_range] at hheld
    rw [l1Update_eq hl]
    have hhome := fun j => cacheLine_takeLine s g (lineOf wa) j (o.updated (wa % 128) bs)
    have howner : ∀ j, lineOwner (takeLine s g (lineOf wa) (o.updated (wa % 128) bs)) j = lineOwner s j := fun j => by
      rw [lineOwner, hhome, lineOwner]
    have hother : ∀ j, j ≠ lineOf wa → LineKept s (takeLine s g (lineOf wa) (o.updated (wa % 128) bs)) j := fun j hj =>
      .of_same (hs j) (hhome j) (fun _ _ => rfl) fun h => .inl (by rw [l1Line_takeLine, if_neg fun e => hj e.2])
    have hline := l1Line_takeLine s g (lineOf wa) g (lineOf wa) (o.updated (wa % 128) bs)
    rw [if_pos ⟨rfl, rfl⟩] at hline
    refine ⟨⟨⟨.setCoreG .., (coherent_iff _).mpr fun j => ?_, fun j h hh => howner j ▸ hh⟩, fun b => ?_⟩, hhome, ⟨rfl, rfl⟩⟩
    · by_cases hj : j = lineOf wa
      · subst hj
        refine ⟨fun l h => (hs _).bytes l (hhome _ ▸ h), fun h l hh => ?_, fun l i b h => (hs _).clean l i b (hhome _ ▸ h), fun h hh => ?_⟩
        · rw [l1Line_takeLine] at hh
          split at hh
          · exact Option.some.inj hh ▸ ((hs _).l1Bytes g o hl).updated ..
          · exact (hs _).l1Bytes h l hh
        · rw [howner, ho] at hh
          obtain rfl := Option.some.inj hh
          rw [l1Owns, hline]
          exact howns
      · exact (hother j hj).coherent
    · by_cases hb : lineOf b = lineOf wa
      · have hin : (wa % 128 ≤ b % 128 ∧ b % 128 < wa % 128 + bs.length) ↔ (wa ≤ b ∧ b < wa + bs.length) := by unfold lineOf at hb; omega
        have hsub : b % 128 - wa % 128 = b - wa := by unfold lineOf at hb; omega
        have hdirty : (o.updated (wa % 128) bs).dirty.getLsbD (b % 128)
            = (o.dirty.getLsbD (b % 128) || decide (wa % 128 ≤ b % 128 ∧ b % 128 < wa % 128 + bs.length)) := by
          simp only [L1Line.updated, howns, if_true]
          exact getLsbD_foldl_mark o.dirty (wa % 128) (Nat.mod_lt _ (by decide)) bs.length
        have hhomeByte : homeByte (takeLine s g (lineOf wa) (o.updated (wa % 128) bs)) b = homeByte s b := by
          rw [homeByte, hhome]; rfl
        rw [patched, memByte_of_owned (by rw [hb, howner, ho]) (by rw [hb]; exact hline), memByte_of_owned (by rw [hb, ho]) (by rw [hb]; exact hl),
          hdirty, mget_updated, hhomeByte]
        simp only [hin, hsub]
        by_cases hw : wa ≤ b ∧ b < wa + bs.length
        · have hsome := hheld (b - wa) (by omega)
          have hoff : wa % 128 + (b - wa) = b % 128 := by unfold lineOf at hb; omega
          rw [hoff] at hsome
          obtain ⟨v, hv⟩ := Option.isSome_iff_exists.mp hsome
          simp [hw, hv]
        · simp [hw]
      · rw [patched_of_other_line hn hb, (hother _ hb).memory b rfl]

/-- Stores in a line that the core owns, one after another. -/
theorem storesInPlace {s : State} {g ln : Nat} {ps : List Piece} (hc : coherent s) (ho : lineOwner s ln = some g)
    (hps : ∀ p ∈ ps, lineOf p.addr = ln ∧ p.addr % 128 + p.size ≤ 128 ∧ l1Holds s g p.addr p.size = true) :
    UnitStep s (ps.foldl (fun s p => l1Update s g p.addr p.bytes) s) ∧ CellsKept s (ps.foldl (fun s p => l1Update s g p.addr p.bytes) s)
      ∧ memByte (ps.foldl (fun s p => l1Update s g p.addr p.bytes) s) = patchedAll (ps.map fun p => (p.addr, p.bytes)) (memByte s) := by
  induction ps generalizing s with
  | nil => exact ⟨.refl s, ⟨rfl, rfl⟩, rfl⟩
  | cons p ps ih =>
    obtain ⟨hline, hn, hheld⟩ := hps p (.head _)
    have hwr : L1Write s (l1Update s g p.addr p.bytes) p.addr p.bytes :=
      .l1Update hc (by rw [hline, ho]) (by rw [length_bytes]; exact hheld) (by rw [length_bytes]; exact hn)
    obtain ⟨hu, hcells, hmem⟩ := ih hwr.coherent (by rw [lineOwner, hwr.homes]; exact ho) fun q hq =>
      let ⟨hql, hqn, hqh⟩ := hps q (.tail _ hq)
      ⟨hql, hqn, (l1Holds_l1Update ..).trans hqh⟩
    exact ⟨hwr.toUnitStep.trans hu, hwr.cells.trans hcells, hmem.trans (congrArg (patchedAll _) (funext hwr.memory))⟩

theorem storeLocal_owned {s : State} {x : Site1} (hc : coherent s) (howns : l1Owns s x.c.gcore (lineOf x.p.addr) = true)
    (ho : lineOwner s (lineOf x.p.addr) = some x.c.gcore) (hmem : x.p.space = .mem) (hsmall : SmallGroup x)
    (hheld : ∀ p ∈ x.o.pieces, together x p = true → l1Holds s x.c.gcore p.addr p.size = true) :
    ∃ u, storeLocal s x = (none, u) ∧ UnitStep s u ∧ CellsKept s u ∧ wroteAll s u (x.o.pieces.filter (together x)) := by
  obtain ⟨hst, hl1, -⟩ := L1Step.cleared hc x.c.gcore x.p.addr
  obtain ⟨hu, hcells, hbytes⟩ := storesInPlace (g := x.c.gcore) (ln := lineOf x.p.addr) (ps := x.o.pieces.filter (together x)) hst.keeps_coherent
    (by rw [hst.owner, ho]) fun p hp => by
      obtain ⟨hp, ht⟩ := List.mem_filter.mp hp
      have hn := (hsmall p hp ht).2
      refine ⟨line_of_together ht, by omega, ?_⟩
      rw [l1Holds, hl1, ← l1Holds]
      exact hheld p hp ht
  refine ⟨_, ?_, hst.toUnitStep.trans hu, hst.cells.trans hcells, fun b => ?_⟩
  · simp only [storeLocal, howns, if_true, pieces_storeGroup hmem]
    rfl
  · rw [hbytes, overlay_eq, show memByte (cleared s x.c.gcore x.p.addr) = memByte s from funext hst.memory]

end Sys2Proof.Machine
end

section
/-! PROOFS. The step of a store into local memory, and the statement about loads and stores (10 R253, R256, 14 R319, R321, R324). -/

namespace Sys2Proof.Machine
open Sys2Proof.Rules

section store

variable {s : State} {r : OpRef} {x : Site1} (hx : accessOf s r = some x) (hlive : x.c.exited ≠ BitVec.allOnes 32) (hstore : x.o.kind = .store)
  (h0 : x.p.phase = 0) (hord : ∀ i ∈ storeGroup x, ∃ p, x.o.pieces[i]? = some p ∧ inOrder s { x with p := p, i := i } (storeGroup x) = true)
  (hheld : storeHeld s x = false) (hsite : reachSite s x = .now) (hmem : x.p.space = .mem) (hc : coherent s)
include hx hlive hstore h0 hord hheld hsite hmem hc

omit hc in
/-- A store that comes to a state of caches and cells. -/
theorem exec_storePerformed_mem {ecc : Ecc} {e : Option Nat} {u : State} (hcoaches : u.coaches = s.coaches) (hstall : u.doing.stall = none)
    (hv : storeLocal (s.meeting ecc (heads s (.access r x.o.stamp))) x = (e, u)) :
    exec (.storePerformed r ecc) s = .next (endedGroup (s.over u (.access r x.o.stamp)) r x e) := by
  refine exec_storePerformed_now hx hlive hstore h0 hord hheld hsite hcoaches hstall ?_
  simp only [storeAny, storeValue, hmem, reduceCtorEq, if_false]
  exact hv

/-- A store in a line that its core owns. -/
theorem exec_storePerformed_owned (howns : l1Owns s x.c.gcore (lineOf x.p.addr) = true)
    (ho : lineOwner s (lineOf x.p.addr) = some x.c.gcore) (hsmall : SmallGroup x)
    (hhold : ∀ p ∈ x.o.pieces, together x p = true → l1Holds s x.c.gcore p.addr p.size = true) (ecc : Ecc) :
    ∃ u, exec (.storePerformed r ecc) s = .next (endedGroup u r x none) ∧ u = { s with chassis := u.chassis }
      ∧ wroteAll s u (x.o.pieces.filter (together x)) := by
  obtain ⟨u, hu, hstep, hcells, hwrote⟩ := storeLocal_owned (s := s.meeting ecc (heads s (.access r x.o.stamp))) hc howns ho hmem hsmall hhold
  have hsame := sameCaches_over s u (.access r x.o.stamp)
  have hdram : (s.over u (.access r x.o.stamp)).dram = s.dram := hsame.dram.trans hcells.dram
  have hflaws : (s.over u (.access r x.o.stamp)).flaws = s.flaws := (flaws_over ..).trans hcells.flaws
  refine ⟨s.over u (.access r x.o.stamp), exec_storePerformed_mem hx hlive hstore h0 hord hheld hsite hmem hstep.coaches hstep.stall hu, ?_,
    fun b => (hsame.memory b).trans (hwrote b)⟩
  have hrest := hstep.over_eq (.access r x.o.stamp)
  rwa [hdram, hflaws] at hrest

variable (hb : busesUp s) (hfree : lineFree s (lineOf x.p.addr)) (hown : l1Owns s x.c.gcore (lineOf x.p.addr) = false)
include hb hfree hown

/-- A store at the home of its sector. -/
theorem exec_storePerformed_home (hw : hasWay s (lineOf x.p.addr)) (hsmall : SmallGroup x) :
    ∃ u, exec (.storePerformed r .clean) s = .next (endedGroup u r x none)
      ∧ u = { s with chassis := u.chassis, dram := u.dram, flaws := u.flaws } ∧ wroteAll s u (x.o.pieces.filter (together x)) := by
  obtain ⟨u, hu, hstep, hwrote⟩ := storeLocal_home (s := s.begun (heads s (.access r x.o.stamp))) hc
    ⟨.begun hfree hb _, .begun hfree _⟩ hw hown (piece_of_accessOf hx).2 h0 hmem hsmall
  exact ⟨s.over u (.access r x.o.stamp), exec_storePerformed_mem hx hlive hstore h0 hord hheld hsite hmem hstep.coaches hstep.stall hu,
    UnitStep.over_eq (ecc := .clean) hstep _, fun b => ((sameCaches_over s u _).memory b).trans (hwrote b)⟩

/-- A masked store whose sector meets an error. -/
theorem exec_storePerformed_home_fails (hcells : writeToCells s x.p.addr x.p.attr = true)
    (hpart : ∃ b, b / 32 = x.p.addr / 32 ∧ ∀ p ∈ x.o.pieces, together x p = true → ¬(p.addr ≤ b ∧ b < p.addr + p.size)) :
    ∃ u, exec (.storePerformed r .uncorrectable) s = .next (endedGroup u r x (some 0x20)) ∧ sameMemory s u := by
  obtain ⟨u, hu, hcoaches, hstall, hsame⟩ := storeLocal_struck (head := heads s (.access r x.o.stamp)) hc (.begun hfree hb _) hown
    (piece_of_accessOf hx).2 h0 hmem hcells hpart
  exact ⟨_, exec_storePerformed_mem hx hlive hstore h0 hord hheld hsite hmem hcoaches hstall hu,
    fun b => ((sameCaches_over s u _).memory b).trans (hsame b)⟩

end store

/-- Settles O45: each event's equation gives the next state; what a load reads at its home is memory as the caches show it, and a store at its home
or in place is a write of its group's bytes there. -/
theorem accessesArePerformed : Obligations.AccessesArePerformed := by
  unfold Obligations.AccessesArePerformed
  refine ⟨?loads, ?stores, fun c p n k v j hj _ hsize hdst => deliver_words c p n k v j hj hsize hdst,
    fun c p n v _ hsize _ => deliver_narrow c p n v hsize, fun c pre post o hops hn => mem_retireOps hops hn⟩
  case loads =>
    intro s r x hx hkey hlive hload
    refine ⟨exec_loadReturn_served hx hkey hlive hload, fun h0 hin hsite ecc => ⟨_, exec_loadReturn_never hx hkey hlive hload h0 hin hsite ecc⟩,
      fun h0 hin hsite => ⟨?l1, ?home, ?buffer, ?window⟩⟩
    case l1 => exact fun hmem hit => exec_loadReturn_l1 hx hkey hlive hload h0 hin hsite hmem hit.1 hit.2
    case home =>
      intro hmem hmiss hc hb hfree hw hw1 hpos hsector
      exact ⟨exec_loadReturn_home hx hkey hlive hload h0 hin hsite hmem hmiss hc hb hfree hpos hsector hw hw1,
        exec_loadReturn_home_fails hx hkey hlive hload h0 hin hsite hmem hmiss hc hb hfree hpos hsector⟩
    case buffer => exact fun kind h ecc hbuf => exec_loadReturn_buffer hx hkey hlive hload h0 hin hsite hbuf ecc
    case window =>
      exact fun hwin => ⟨exec_loadReturn_window hx hkey hlive hload h0 hin hsite hwin,
        _, exec_loadReturn_window_fails hx hkey hlive hload h0 hin hsite hwin⟩
  case stores =>
    intro s r x hx _ hlive hstore
    refine ⟨exec_storePerformed_taken hx hlive hstore, ?never, fun h0 hord hheld hsite => ⟨?home, ?owned, ?buffer, ?host, ?peer⟩⟩
    case never =>
      intro h0 hord hheld hsite ecc
      rw [exec_storePerformed_never hx hlive hstore h0 hord hheld hsite]
      split
      · next hmem => rw [endedGroup_mem hmem]
      · next hmem => rw [endedGroup_window hx hmem]
    case home =>
      intro hmem hc hb hfree hw hown hsmall
      simp only [← endedGroup_mem hmem]
      exact ⟨exec_storePerformed_home hx hlive hstore h0 hord hheld hsite hmem hc hb hfree hown hw hsmall,
        exec_storePerformed_home_fails hx hlive hstore h0 hord hheld hsite hmem hc hb hfree hown⟩
    case owned =>
      intro hmem hc howns ho hsmall hhold ecc
      simp only [← endedGroup_mem hmem]
      exact exec_storePerformed_owned hx hlive hstore h0 hord hheld hsite hmem hc howns ho hsmall hhold ecc
    case buffer =>
      intro kind h hk hbuf
      simp only [← endedGroup_window hx (by rw [hbuf]; exact Space.noConfusion : x.p.space ≠ .mem)]
      exact exec_storePerformed_buffer hx hlive hstore h0 hord hheld hsite hk hbuf
    case host =>
      intro hhost
      rw [exec_storePerformed_host hx hlive hstore h0 hord hheld hsite hhost, endedGroup_window hx (by rw [hhost]; decide)]
    case peer =>
      intro hpeer
      rw [exec_storePerformed_peer hx hlive hstore h0 hord hheld hsite hpeer, endedGroup_window hx (by rw [hpeer]; decide)]

end Sys2Proof.Machine
end
